-- ==== Sys2Proof/Word.lean ====
section
/-! DEFINITION. The word types of the Plizo architecture (R11, R13, R97, R136): names for bit vectors, nothing else. -/

namespace Sys2Proof

/-- A 32-bit lane value. -/
abbrev W32 := BitVec 32

/-- A 64-bit word: instruction words, PCs, addresses, timestamps. -/
abbrev W64 := BitVec 64

/-- A byte of memory. -/
abbrev Byte := BitVec 8

/-- One 64-byte sector, byte i in bits [8i+7:8i] (R11, R267). -/
abbrev Sector := BitVec 512

/-- One bit per lane of a wave. -/
abbrev Mask := BitVec 32

end Sys2Proof
end

