-- ==== Sys2Proof/Syntax.lean ====
section
/-! DEFINITION. The syntax of the machine: the operand forms and fields of an instruction (R97-R108), the data that
events of the other agents carry, and ONE inductive `Instr` with a constructor for each row of the opcode table: 126
instructions of the opcode map (R117) and 120 steps of the package's other agents. -/

namespace Sys2Proof

/-- The consistency domains, in the order of their DOMAIN codes 0-4 (R108). -/
inductive Dom where
  | rc | sc | tso | cau | blk
  deriving DecidableEq, Repr

/-- The scopes, in the order of their SCOPE codes 0-5 (R108, R281). -/
inductive Scope where
  | team | core | clus | die | pkg | sys
  deriving DecidableEq, Repr

/-- The ORDER codes 0-3 (R108). -/
inductive Ordering4 where
  | plain | acq | rel | acqrel
  deriving DecidableEq, Repr

/-- What one operand field of an instruction names (R101, R102, R108, R237, R302). -/
inductive Opnd where
  /-- The field is unused and all zero (R100). -/
  | none
  /-- A vector register. -/
  | v (n : BitVec 8)
  /-- An even-odd pair, by its even member. -/
  | p (n : BitVec 8)
  /-- A block of two consecutive registers with an even first index. -/
  | b2 (n : BitVec 8)
  /-- A block of four consecutive registers with a first index that is a multiple of 4. -/
  | b4 (n : BitVec 8)
  /-- A block of eight consecutive registers with a first index that is a multiple of 8. -/
  | b8 (n : BitVec 8)
  /-- A predicate k0-k11. -/
  | k (n : BitVec 8)
  /-- A rejoin mask j0-j3. -/
  | j (n : BitVec 8)
  /-- A channel; `peek` leaves the head entry in place. -/
  | ch (n : BitVec 8) (peek : Bool)
  /-- The ordering subfields of the FM format. -/
  | ord (d : Dom) (s : Scope) (o : Ordering4) (h : BitVec 2)
  deriving DecidableEq, Repr

/-- A decoded instruction's fields. `guard = none` is GUARD 15; `some (k, sense)` executes where predicate k equals
`!sense` (R106). `ext` is the extension word when LONG = 1 (R94). -/
structure Form where
  stall : BitVec 4
  guard : Option (BitVec 4 × Bool)
  mod : BitVec 5
  dst : Opnd
  a : Opnd
  b : Opnd
  c : Opnd
  ext : Option W64
  deriving DecidableEq, Repr

/-- An Ethernet frame as a scale-out port sees it (R429). -/
structure Frame where
  dest : BitVec 48
  source : BitVec 48
  etherType : BitVec 16
  /-- The tag, as (PCP, VLAN), when the frame carries one. -/
  tag : Option (BitVec 3 × BitVec 12)
  payload : List Byte
  /-- The frame check sequence, as a number whose least significant byte travels first. -/
  fcs : BitVec 32
  deriving DecidableEq, Repr

/-- One lane of an atomic request (R312): lane, byte offset in the line, MOD, operand, swap value of a compare-swap. -/
structure AtomLane where
  lane : Nat
  off : Nat
  mod : BitVec 5
  operand : W64
  swap : W64
  deriving DecidableEq, Repr

/-- What a message between packages asks or answers (R277, R298). An access names the export by partition, index and
generation (R276) and the offset in it, or the 256-byte line of that offset. -/
inductive LinkBody where
  /-- Bytes of an export; `alloc`: for an L1, which takes the whole sectors (R268). -/
  | read (part exportIx gen off len : Nat) (alloc : Bool)
  | write (part exportIx gen line : Nat) (mask : BitVec 256) (data : BitVec 2048)
  | atom (part exportIx gen line : Nat) (lanes : List AtomLane) (isRed : Bool)
  /-- AMAXR with its maximum, or QSCALE with its MOD. -/
  | amax (part exportIx gen off : Nat) (m : W32)
  | qscale (part exportIx gen off : Nat) (mod : BitVec 5)
  /-- A copy command's byte arrival on a barrier object (R361). -/
  | arrive (part exportIx gen off bytes : Nat)
  /-- Whether an access may be made to a page of the export, without making it (R263 step 5, R277), and the page's floor. -/
  | check (part exportIx gen off len : Nat) (rd wr : Bool)
  /-- The page's floor, and where the bytes lie at the exporter, line by line. -/
  | allowed (floor : Nat) (pas : List Nat)
  /-- The bytes asked for, and for an L1 the sectors that they lie in, by their place in the line. -/
  | data (bytes : List Byte) (secs : List (Nat × Sector))
  | olds (values : List (Nat × W64))
  | scale (value : W32) (nv : Bool)
  | ack
  /-- The access was refused at the exporter (R277). -/
  | denied
  | snoop (line : Nat)
  | snoopAck (line : Nat)
  deriving DecidableEq, Repr

/-- A message that crosses a scale-up link: the asking package's tag for the answer, its network (R297), the remaining
time to its deadline (R353; `none` for no deadline), its PRIORITY and the late mark. -/
structure LinkMsg where
  tag : Nat
  net : Nat
  remaining : Option (BitVec 40)
  prio : Nat
  late : Bool
  body : LinkBody
  /-- The exporter has allowed the access, floors included, before it was sent (R277). -/
  checked : Bool
  deriving DecidableEq, Repr

/-- The 256 bytes of a flit (R354): PAYLOAD, HDR and CRC, each least significant byte first. -/
structure FlitFrame where
  payload : BitVec 2000
  hdr : BitVec 16
  crc : BitVec 32
  deriving DecidableEq, Repr

/-- A data flit (R354): its bytes, and the messages that end in it, with their last bytes. -/
structure Flit where
  frame : FlitFrame
  msgs : List LinkMsg
  deriving DecidableEq, Repr

/-- What a control flit carries (R464): the whole receive-side state of its sender, and the requests that travel in control flits:
a report of lost light with its dark time (R356) and the wavelengths to probe (R465). -/
structure CtlState where
  ack : BitVec 13
  nakCount : BitVec 16
  nakSeq : BitVec 13
  credits : List (BitVec 16)
  lit : BitVec 16
  darkNs : W32
  probe : BitVec 16
  deriving DecidableEq, Repr

/-- A control flit: its bytes, and what they carry. -/
structure CtlFlit where
  frame : FlitFrame
  state : CtlState
  deriving DecidableEq, Repr

/-- The machine's steps: one constructor for each row of the opcode table. The first 126 are instructions that a wave
subset issues; the others are steps of the package's other agents and inputs from outside. -/
inductive Instr where
  /-- NOP (R156). -/
  | nop (f : Form)
  /-- BRA (R154). -/
  | bra (f : Form)
  /-- BRX (R154). -/
  | brx (f : Form)
  /-- CALL (R154). -/
  | call (f : Form)
  /-- CALLX (R154). -/
  | callx (f : Form)
  /-- RET (R154). -/
  | ret (f : Form)
  /-- EXIT (R156). -/
  | exit (f : Form)
  /-- JENROL (R159). -/
  | jenrol (f : Form)
  /-- JWAIT (R160). -/
  | jwait (f : Form)
  /-- YIELD (R157). -/
  | yield (f : Form)
  /-- SLEEP (R158). -/
  | sleep (f : Form)
  /-- PCMP (R162). -/
  | pcmp (f : Form)
  /-- PLOG (R163). -/
  | plog (f : Form)
  /-- PMOV (R164). -/
  | pmov (f : Form)
  /-- PVOTE (R165). -/
  | pvote (f : Form)
  /-- BALLOT (R165). -/
  | ballot (f : Form)
  /-- GLAUNCH (R166). -/
  | glaunch (f : Form)
  /-- GJOIN (R169). -/
  | gjoin (f : Form)
  /-- TRAP (R170). -/
  | trap (f : Form)
  /-- BRK (R170). -/
  | brk (f : Form)
  /-- IADD (R175). -/
  | iadd (f : Form)
  /-- ISUB (R175). -/
  | isub (f : Form)
  /-- IADDC (R176). -/
  | iaddc (f : Form)
  /-- IMUL (R175). -/
  | imul (f : Form)
  /-- IMULH (R175). -/
  | imulh (f : Form)
  /-- IMAD (R175). -/
  | imad (f : Form)
  /-- IMIN (R175). -/
  | imin (f : Form)
  /-- IMAX (R175). -/
  | imax (f : Form)
  /-- IABS (R175). -/
  | iabs (f : Form)
  /-- BLUT (R179). -/
  | blut (f : Form)
  /-- SHL (R180). -/
  | shl (f : Form)
  /-- SHR (R180). -/
  | shr (f : Form)
  /-- SHRA (R180). -/
  | shra (f : Form)
  /-- ROT (R180). -/
  | rot (f : Form)
  /-- SHD (R181). -/
  | shd (f : Form)
  /-- POPC (R182). -/
  | popc (f : Form)
  /-- CLZ (R182). -/
  | clz (f : Form)
  /-- BREV (R182). -/
  | brev (f : Form)
  /-- BFE (R183). -/
  | bfe (f : Form)
  /-- BFI (R183). -/
  | bfi (f : Form)
  /-- ISEL (R185). -/
  | isel (f : Form)
  /-- ICMP (R185). -/
  | icmp (f : Form)
  /-- MOV (R185). -/
  | mov (f : Form)
  /-- MOVI (R186). -/
  | movi (f : Form)
  /-- LEA (R187). -/
  | lea (f : Form)
  /-- BSHUF (R184). -/
  | bshuf (f : Form)
  /-- DOT4 (R178). -/
  | dot4 (f : Form)
  /-- SAD (R178). -/
  | sad (f : Form)
  /-- IDIV (R177). -/
  | idiv (f : Form)
  /-- LXCH (R189). -/
  | lxch (f : Form)
  /-- LANEBC (R189). -/
  | lanebc (f : Form)
  /-- RDS (R190). -/
  | rds (f : Form)
  /-- IOTA (R188). -/
  | iota (f : Form)
  /-- FADD (R216). -/
  | fadd (f : Form)
  /-- FSUB (R216). -/
  | fsub (f : Form)
  /-- FMUL (R216). -/
  | fmul (f : Form)
  /-- FFMA (R216). -/
  | ffma (f : Form)
  /-- FMIN (R217). -/
  | fmin (f : Form)
  /-- FMAX (R217). -/
  | fmax (f : Form)
  /-- FCMP (R218). -/
  | fcmp (f : Form)
  /-- FCLASS (R219). -/
  | fclass (f : Form)
  /-- FRCP (R220). -/
  | frcp (f : Form)
  /-- FRSQ (R220). -/
  | frsq (f : Form)
  /-- FSQRT (R220). -/
  | fsqrt (f : Form)
  /-- FEXP2 (R220). -/
  | fexp2 (f : Form)
  /-- FLOG2 (R220). -/
  | flog2 (f : Form)
  /-- FSIN (R220). -/
  | fsin (f : Form)
  /-- FCOS (R220). -/
  | fcos (f : Form)
  /-- FTANH (R220). -/
  | ftanh (f : Form)
  /-- PKADD (R222). -/
  | pkadd (f : Form)
  /-- PKMUL (R222). -/
  | pkmul (f : Form)
  /-- PKFMA (R222). -/
  | pkfma (f : Form)
  /-- BFMA2 (R223). -/
  | bfma2 (f : Form)
  /-- DADD (R224). -/
  | dadd (f : Form)
  /-- DMUL (R224). -/
  | dmul (f : Form)
  /-- DFMA (R224). -/
  | dfma (f : Form)
  /-- CVT (R226). -/
  | cvt (f : Form)
  /-- QCVT (R228). -/
  | qcvt (f : Form)
  /-- DQCVT (R229). -/
  | dqcvt (f : Form)
  /-- AMAXR (R230). -/
  | amaxr (f : Form)
  /-- QSCALE (R231). -/
  | qscale (f : Form)
  /-- FSETMODE (R233). -/
  | fsetmode (f : Form)
  /-- FFLAGS (R234). -/
  | fflags (f : Form)
  /-- MMA (R243). -/
  | mma (f : Form)
  /-- MMAQ (R248). -/
  | mmaq (f : Form)
  /-- SCLD (R249). -/
  | scld (f : Form)
  /-- SCRD (R251). -/
  | scrd (f : Form)
  /-- FRAGX (R252). -/
  | fragx (f : Form)
  /-- ACCCVT (R253). -/
  | acccvt (f : Form)
  /-- LD (R307). -/
  | ld (f : Form)
  /-- LDK (R308). -/
  | ldk (f : Form)
  /-- ST (R310). -/
  | st (f : Form)
  /-- ATOM (R312). -/
  | atom (f : Form)
  /-- RED (R314). -/
  | red (f : Form)
  /-- FENCE (R316). -/
  | fence (f : Form)
  /-- BRIDGE (R317). -/
  | bridge (f : Form)
  /-- CCTL_IVI (R318). -/
  | cctlIvi (f : Form)
  /-- CCTL_WB (R318). -/
  | cctlWb (f : Form)
  /-- CCTL_INV (R318). -/
  | cctlInv (f : Form)
  /-- CCTL_PF (R318). -/
  | cctlPf (f : Form)
  /-- CCTL_PFS (R318). -/
  | cctlPfs (f : Form)
  /-- SMAP_MAP (R319). -/
  | smapMap (f : Form)
  /-- SMAP_UNMAP (R319). -/
  | smapUnmap (f : Form)
  /-- SWB (R320). -/
  | swb (f : Form)
  /-- SDROP (R320). -/
  | sdrop (f : Form)
  /-- TCOPY (R327). -/
  | tcopy (f : Form)
  /-- TDESC (R326). -/
  | tdesc (f : Form)
  /-- GATHER (R328). -/
  | gather (f : Form)
  /-- SCATTER (R328). -/
  | scatter (f : Form)
  /-- RCOPY (R329). -/
  | rcopy (f : Form)
  /-- COLL (R329). -/
  | coll (f : Form)
  /-- WAITC (R325). -/
  | waitc (f : Form)
  /-- PUSH (R339). -/
  | push (f : Form)
  /-- POP (R339). -/
  | pop (f : Form)
  /-- RINGINIT (R338). -/
  | ringinit (f : Form)
  /-- BINIT (R372). -/
  | binit (f : Form)
  /-- BARRIVE (R373). -/
  | barrive (f : Form)
  /-- BARRIVEB (R374). -/
  | barriveb (f : Form)
  /-- BWAIT (R375). -/
  | bwait (f : Form)
  /-- BTEST (R376). -/
  | btest (f : Form)
  /-- BINVAL (R377). -/
  | binval (f : Form)
  /-- RETT (R389). -/
  | rett (f : Form)
  /-- RDSIDE (R391). -/
  | rdside (f : Form)
  /-- WRCTX (R390). -/
  | wrctx (f : Form)
  /-- DGREAD (R420). -/
  | dgread (f : Form)
  /-- HALTSELF (R392). -/
  | haltself (f : Form)
  /-- ISSUE_GROUP_BUILD (R129). -/
  | issueGroupBuild (core slot : Nat)
  /-- SUBSET_RETIREMENT (R148). -/
  | subsetRetirement (team wave op : Nat)
  /-- SLEEP_EXPIRY (R158). -/
  | sleepExpiry (team wave : Nat)
  /-- SWAP_TRIGGER (R133). -/
  | swapTrigger (core : Nat)
  /-- SWAP (R134). -/
  | swap (core : Nat)
  /-- LOAD_DATA_ARRIVAL (R307). -/
  | loadDataArrival (team wave op : Nat)
  /-- REMOTE_REPLY_ARRIVAL (R309). -/
  | remoteReplyArrival (team wave op : Nat)
  /-- STORE_ACK (R315). -/
  | storeAck (team wave op : Nat)
  /-- STORE_QUEUE_RELEASE (R295). -/
  | storeQueueRelease (core : Nat) (dom : Dom)
  /-- ATOMIC_REPLY (R312). -/
  | atomicReply (team wave op : Nat)
  /-- RING_ACK (R230). -/
  | ringAck (team wave op : Nat)
  /-- BARRIER_REPLY (R373). -/
  | barrierReply (team wave op : Nat)
  /-- MMA_COMPLETE (R254). -/
  | mmaComplete (team wave op : Nat)
  /-- FENCE_COMPLETE (R316). -/
  | fenceComplete (team wave op : Nat)
  /-- SLICE_PERFORM (R296). -/
  | slicePerform (slice : Nat)
  /-- INVALIDATION_ARRIVAL (R296). -/
  | invalidationArrival (core : Nat)
  /-- WRITE_PROPAGATED (R296). -/
  | writePropagated (slice wid : Nat)
  /-- EXT_SNOOP (R298). -/
  | extSnoop (link : Nat)
  /-- SNOOP_FILTER_EVICT (R298). -/
  | snoopFilterEvict (link line : Nat)
  /-- L1_EVICTION (R268). -/
  | l1Eviction (core line sector : Nat)
  /-- STASH_RECALL (R271). -/
  | stashRecall (team line : Nat) (write : Bool)
  /-- ENGINE_ACCESS (R331). -/
  | engineAccess (core cmd : Nat)
  /-- TDESC_COMPLETE (R326). -/
  | tdescComplete (core cmd : Nat)
  /-- COPY_COMPLETE (R330). -/
  | copyComplete (core cmd : Nat)
  /-- RING_RESERVE (R337). -/
  | ringReserve (core cmd : Nat)
  /-- RING_FILL (R337). -/
  | ringFill (core cmd : Nat)
  /-- WAKE_ARRIVAL (R379). -/
  | wakeArrival (core : Nat)
  /-- REGISTRATION_RETRY (R367). -/
  | registrationRetry (team wave : Nat)
  /-- DEADLINE_BOOST (R368). -/
  | deadlineBoost (slice : Nat)
  /-- NEIGHBOUR_ENTRY_ARRIVAL (R340). -/
  | neighbourEntryArrival (core dir : Nat)
  /-- QUEUE_POST (R341). -/
  | queuePost (queue : Nat)
  /-- FRAME_SEND (R429). -/
  | frameSend (port : Nat)
  /-- FRAME_RECEIVE (R429). -/
  | frameReceive (port : Nat) (frame : Frame)
  /-- CONTROL_BLOCK_REREAD (R62). -/
  | controlBlockReread (queue : Nat)
  /-- QCMD_ENABLE (R62). -/
  | qcmdEnable (queue : Nat)
  /-- QCMD_DISABLE (R62). -/
  | qcmdDisable (queue : Nat)
  /-- PACKET_CONSUME (R71). -/
  | packetConsume (queue : Nat)
  /-- DEPENDENCE_SATISFIED (R69). -/
  | dependenceSatisfied (launch : Nat)
  /-- TEAM_PLACE (R85). -/
  | teamPlace (launch : Nat)
  /-- CO_RESIDENT_ADMIT (R56). -/
  | coResidentAdmit (launch : Nat)
  /-- CHILD_LAUNCH (R77). -/
  | childLaunch (launch : Nat)
  /-- TEAM_RETIRE (R412). -/
  | teamRetire (team : Nat)
  /-- GRID_RETIRE (R51). -/
  | gridRetire (launch : Nat)
  /-- SERIALISED_EXECUTION (R417). -/
  | serialisedExecution (launch : Nat)
  /-- PREEMPT_SAVE (R406). -/
  | preemptSave (team : Nat)
  /-- WAKE_EVALUATE (R407). -/
  | wakeEvaluate (team : Nat)
  /-- TEAM_RESTORE (R409). -/
  | teamRestore (team core : Nat)
  /-- FAULT_PARK (R393). -/
  | faultPark (part : Nat)
  /-- FQTAKE (R396). -/
  | fqtake (part : Nat) (seq : W32)
  /-- FQRESOLVE (R396). -/
  | fqresolve (part : Nat) (seq : W32)
  /-- FQRESOLVE_FAIL (R396). -/
  | fqresolveFail (part : Nat) (seq : W32)
  /-- WATCHDOG (R398). -/
  | watchdog (part : Nat) (seq : W32)
  /-- HALT (R400). -/
  | halt (part : Nat)
  /-- UNCORRECTABLE (R359). -/
  | uncorrectable (part source : Nat) (addr : W64)
  /-- DIE_FAILURE (R90). -/
  | dieFailure (socket : Nat)
  /-- CROSS_DIE_TIMEOUT (R357). -/
  | crossDieTimeout (core target : Nat)
  /-- CROSS_LINK_TIMEOUT (R357). -/
  | crossLinkTimeout (part link : Nat)
  /-- SLOT_SEND (R343). -/
  | slotSend (slice : Nat)
  /-- SLOT_RECEIVE (R345). -/
  | slotReceive (slice : Nat) (good : Bool)
  /-- SLOT_RESEND (R345). -/
  | slotResend (slice station : Nat)
  /-- ROUTER_FORWARD (R347). -/
  | routerForward (router out : Nat)
  /-- SLICE_ADMISSION (R348). -/
  | sliceAdmission (slice : Nat)
  /-- SOCKET_ADMISSION (R349). -/
  | socketAdmission (socket : Nat)
  /-- FLIT_SEND (R355). -/
  | flitSend (link : Nat)
  /-- FLIT_RECEIVE (R355). -/
  | flitReceive (link : Nat) (flit : Flit)
  /-- NAK_REPEAT (R355). -/
  | nakRepeat (link : Nat)
  /-- ACK_TIMEOUT (R355). -/
  | ackTimeout (link : Nat)
  /-- CONTROL_FLIT_SEND (R464). -/
  | controlFlitSend (link : Nat)
  /-- CONTROL_FLIT_RECEIVE (R464). -/
  | controlFlitReceive (link : Nat) (flit : CtlFlit)
  /-- LOSS_OF_LIGHT (R356): of some wavelengths of a link, or, where a laser source of the package has failed, of what it feeds (R352). -/
  | lossOfLight (link : Nat) (lost : BitVec 16) (laser : Option Nat)
  /-- RESTRIPE (R356). -/
  | restripe (link : Nat) (rx tx : BitVec 16)
  /-- LINK_EVENT_RECORD (R356). -/
  | linkEventRecord (link : Nat)
  /-- LINK_LOST (R358). -/
  | linkLost (link : Nat)
  /-- RETRAIN_END (R358). -/
  | retrainEnd (link : Nat) (rx tx : BitVec 16)
  /-- PROTECTION_ENTER (R434). -/
  | protectionEnter (unit : Nat) (overcurrent : Bool)
  /-- PROTECTION_RELEASE (R434). -/
  | protectionRelease (unit : Nat)
  /-- RESET_COMPLETE (R463). -/
  | resetComplete (socket : Nat)
  /-- RDMA_WRITE (R66). -/
  | rdmaWrite (qp : Nat) (pa : Nat) (data : List Byte)
  /-- RDMA_READ (R423). -/
  | rdmaRead (qp : Nat) (pa : Nat) (len : Nat)
  /-- REMOTE_OPERATION_ERROR (R423). -/
  | remoteOperationError (qp : Nat)
  /-- REGISTER_WRITE (R15). -/
  | registerWrite (off : Nat) (val : W64)
  /-- ERR_CLEAR (R425). -/
  | errClear
  /-- FREEZE (R425). -/
  | freeze (on : Bool)
  /-- COUNTER_CLEAR (R152). -/
  | counterClear (core : Nat)
  /-- CTXDESC_CREATE (R426). -/
  | ctxdescCreate (ctx : Nat) (val : W64)
  /-- RELOAD (R382). -/
  | reload (ctx : Nat)
  /-- KILL (R409). -/
  | kill (ctx : Nat)
  /-- PREQ (R405). -/
  | preq (ctx : Nat) (on : Bool)
  /-- DBGBRK (R382). -/
  | dbgbrk (ctx : Nat) (on : Bool)
  /-- SCBCHK (R114). -/
  | scbchk (ctx : Nat) (on : Bool)
  /-- QCB_WRITE (R61). -/
  | qcbWrite (queue : Nat) (val : W64)
  /-- QCTX_WRITE (R61). -/
  | qctxWrite (queue : Nat) (val : W64)
  /-- QUEUE_OWNER_WRITE (R466). -/
  | queueOwnerWrite (queue : Nat) (val : Byte)
  /-- GRANULE_OWNER_WRITE (R466). -/
  | granuleOwnerWrite (granule : Nat) (val : Byte)
  /-- PCMD_CREATE (R427). -/
  | pcmdCreate (part : Nat)
  /-- PCMD_CLEAR (R427). -/
  | pcmdClear (part : Nat)
  /-- DIGSVC_REEXECUTE (R418). -/
  | digsvcReexecute (part : Nat) (ident : Nat)
  /-- DIGSVC_FAULT (R418). -/
  | digsvcFault (part : Nat) (ident : Nat)
  /-- QGRANT (R427). -/
  | qgrant (part queue : Nat)
  /-- DBGHALT (R410). -/
  | dbghalt (part : Nat) (sockets : BitVec 24)
  /-- DEBUG_SAVE (R411). -/
  | debugSave (part : Nat)
  /-- DEBUG_RESUME (R411). -/
  | debugResume (part : Nat)
  /-- LINKSVC_WAIT (R358). -/
  | linksvcWait (part link : Nat)
  /-- LINKSVC_LINKLOST (R358). -/
  | linksvcLinklost (part link : Nat)
  /-- KEYCMD_LOAD (R431). -/
  | keycmdLoad (index : Nat)
  /-- KEYCMD_UNLOAD (R431). -/
  | keycmdUnload (index : Nat)
  /-- POWER_COMMAND (R432). -/
  | powerCommand (unit : Nat) (target : Nat)
  /-- SPOP_RESET (R463). -/
  | spopReset (unit : Nat)
  /-- SPOP_FENCE (R463). -/
  | spopFence (unit : Nat)
  /-- SPOP_RETURN (R463). -/
  | spopReturn (unit : Nat)
  /-- RESTORE (R465): the wavelengths named, and those that the receivers of both directions find lit. -/
  | restore (link : Nat) (waves rx tx : BitVec 16)
  /-- BOOT (R436). -/
  | boot (verified : Bool)
  /-- GET_VERSION (R438). -/
  | getVersion (request : List Byte)
  /-- GET_CAPABILITIES (R438). -/
  | getCapabilities (request : List Byte)
  /-- NEGOTIATE_ALGORITHMS (R438). -/
  | negotiateAlgorithms (request : List Byte)
  /-- GET_DIGESTS (R438). -/
  | getDigests (request : List Byte)
  /-- GET_CERTIFICATE (R438). -/
  | getCertificate (request : List Byte)
  /-- CHALLENGE (R438). -/
  | challenge (request : List Byte)
  /-- GET_MEASUREMENTS (R438). -/
  | getMeasurements (request : List Byte)
  /-- TRANSLATION_INVALIDATION (R266). -/
  | translationInvalidation (ctx lo hi : Nat)
  deriving DecidableEq, Repr

end Sys2Proof
end

