-- ==== Sys2Proof/Config.lean ====
section
/-! DEFINITION. What this part fixes for good, and the FREE VALUES: constants without a body, which no proof can see
through, for values the manual leaves open (log entry 12). -/

namespace Sys2Proof.Config

/-- DEVCAP[127:0] of LN-VG24 (R22). -/
def devcap : BitVec 128 := 0x0FFF

/-- The base of the management block (R423). -/
def mbase : Nat := 0x400_0000_0000

/-- Cores per spindle and spindles per package (R1). -/
def coresPerDie : Nat := 36
def dies : Nat := 24

/-- FREE: a value the manual leaves undefined, one for each value of the counter `free` of the state. -/
opaque freeWord : Nat → W64

/-- FREE: one bit in the same way, per counter value and lane (R113: the old or the new contents). -/
opaque freeBit : Nat → Nat → Bool

/-- FREE: FRCP, FRSQ, FEXP2, FLOG2, FSIN, FCOS, FTANH on an operand that R221 does not list: a fixed function of the
operand bits (R220), by the opcode. -/
opaque specialFunction : Nat → W32 → W32

/-- FREE: the set of the reuse table that a key goes to, taken modulo 256: the manual gives the 256 sets of R142 and not the
function that chooses one; by the parts of the key: context, the two words, lanes, FP mode, epoch, 1 for a load, sources. -/
opaque reuseSet : List Nat → Nat

/-- FREE: the 64-byte entries of a router output's buffer for a network (R347) beyond five, which the longest message takes: the manual
gives no number. -/
opaque routerEntries : Nat

/-- FREE: the 250 payload bytes of a data flit (R354), by the messages of which it holds bytes and how many bytes of the first had
left before: the manual gives no layout of a message. -/
opaque flitPayload : List LinkMsg → Nat → BitVec 2000

/-- FREE: the payload of a control flit: the manual lists what it carries and gives no layout (R464). -/
opaque controlPayload : CtlState → BitVec 2000

/-- FREE: the tag, taken modulo 13, that a pop gives to a ring entry whose tag bits hold a reserved tag 13-15, which no
instruction writes (R204). -/
opaque ringTag : Nat → Nat

/-- FREE: the number of this package in the scale-up domain, 0-431 (R276): the manual names no register that holds it. -/
opaque packageNumber : Nat

/-- FREE: the scale-up link by which this package reaches another package (log entry 22). -/
opaque linkTo : Nat → Nat

/-- FREE: the bytes of SPDM responses (R438), a function of the request code, the request, whether a version and algorithms have
been agreed on, the measurement that boot left, and measurements 1 to 4. -/
opaque spdmResponse : Nat → List Byte → Bool → Bool → BitVec 256 → List (BitVec 256) → List Byte

/-- FREE: SPDM measurements 1 to 3 (R438): the ROM, the firmware and its configuration, which the manual does not give. -/
opaque measured : Nat → BitVec 256

/-- FREE: the measurement that a boot step extends (R436). -/
opaque bootMeasure : BitVec 256 → Nat → BitVec 256

end Sys2Proof.Config
end

