-- ==== Sys2Proof/Machine/State.lean ====
section
/-! DEFINITION. The state of one LN-VG24 package as plain data, the reasons a step may stop, and the state after reset.
Sparse tables are lists of (index, entry) pairs with rising indices (`AMap`); an index that is not listed has the entry
its accessor names. INVENTORY.md lists every piece with its rule and reset value. -/

namespace Sys2Proof.Machine

/-- A sparse table: (index, entry) pairs, indices rising. -/
abbrev AMap (α : Type) := List (Nat × α)

/-- The reasons a step stops with a fault. Every trap, replayable fault and context fault of the manual is a next state,
so no instruction that a wave subset issues ends in one. -/
inductive Fault where
  /-- An ISA instruction was given to `exec` while the state names no wave subset to issue it (`cur = none`). Raised by
  the issue prologue. Safe: the hardware has no such case, an instruction always belongs to a subset (R46). -/
  | noSubset
  deriving DecidableEq, Repr

/-- The reasons the model has no meaning. -/
inductive Refusal where
  /-- An arm of `exec` that has no meaning yet; raised by the dispatch only. Safe. -/
  | notModelled (mnemonic : String)
  deriving DecidableEq, Repr

/-! ## Registers and threads -/

/-- A lane of a vector: 32 bits and a 4-bit format tag (R136, R204). -/
structure Lane where
  val : W32
  tag : BitVec 4
  deriving DecidableEq, Repr

/-- A vector of 32 lanes (R136). -/
abbrev Vec := List Lane

/-- The roles of R26, codes 0-3. -/
inductive Role where
  | gen | cpy | mtx | vec
  deriving DecidableEq, Repr

/-- Thread states (R42). -/
inductive Thread where
  | ready | blocked | exited
  deriving DecidableEq, Repr

/-- The trap classes in the order of their offsets (R383). -/
inductive TrapClass where
  | illegal | tag | role | stall | arith | soft | align | floor | depth | channel
  deriving DecidableEq, Repr

/-- Causes of a context fault, codes 1-10 (R399). -/
inductive Cause where
  | permission | uncorrectable | digest | linklost | dielost | watchdog | engine | faultfail | nested | haltself
  deriving DecidableEq, Repr

/-- The side-buffer record (R386). -/
structure SideRec where
  cls : Byte
  field : Byte
  check : Byte
  reason : Byte
  lanes : W32
  active : W32
  wave : BitVec 16
  count : BitVec 16
  pc : W64
  enc0 : W64
  enc1 : W64
  addr : W64
  detail : W64
  tsc : W64
  team : W64
  deriving DecidableEq, Repr

/-- Wake conditions (R360, R407). -/
inductive Wake where
  /-- Phase `ph` of the object at address `ea` has passed; `local` for a stash object at that offset. -/
  | bwait (isLocal : Bool) (loc : Nat) (ph : W32)
  /-- The ring at a stash offset has entries to pop or peek. -/
  | ringPop (off : Nat)
  /-- The member behind a binding entry has a free entry. -/
  | push (slot : Nat)
  /-- The receive buffer or scale-out queue behind a binding entry holds an entry. -/
  | recv (slot : Nat)
  /-- Replies outstanding = 0 for the operation. -/
  | remote (op : Nat)
  /-- The child in the slot has retired. -/
  | gjoin (slot : Nat)
  /-- Every listed page's fault entry is resolved; an entry's SEQ is known once the fault is queued (R393, R397). -/
  | fault (pages : List (W64 × Option W32))
  /-- Already met (R157). -/
  | yield
  deriving DecidableEq, Repr

/-- A BLOCKED subset: lanes, PC, its wake condition, whether a barrier registration is held, and the deadline that it lent to a stash
object's open phase, 2^64 − 1 for none (R367). -/
structure Wait where
  lanes : Mask
  pc : W64
  wake : Wake
  registered : Bool
  lent : W64
  deriving DecidableEq, Repr

/-- A resource that R112 protects. -/
inductive Res where
  | reg (n : Nat) | pred (n : Nat) | rejoin (n : Nat) | mode | flags
  deriving DecidableEq, Repr

/-- A recent write by a fixed-latency instruction (R111-R114): the lanes, what was written, the issue distance so far,
the latency, the producer's PC, and the contents before the write. -/
structure Hazard where
  lanes : Mask
  res : Res
  dist : Nat
  lat : Nat
  pc : W64
  oldVec : Vec
  oldMask : Mask
  deriving DecidableEq, Repr

/-- Where one aligned piece of a lane's access performs (R306). -/
inductive Place where
  /-- Unmapped stash offset of the team (R269). -/
  | stash (off : Nat)
  /-- Stash copy of a mapped global line: the stash offset and the PA (R270). -/
  | mapped (off pa key : Nat)
  /-- Global or private memory at a PA under a key (R258, R264, R274). -/
  | phys (pa key : Nat)
  /-- Private memory of the thread (R274), which the L1 caches like global memory. -/
  | priv (pa key : Nat)
  /-- A local export of another partition of this package: the exporter's PA (R277). -/
  | peer (pa key : Nat)
  /-- An export of another package: package, partition, export index, generation and offset (R276), and, once the exporter has told,
  where the bytes lie there, line by line. -/
  | remote (pkg part exportIx gen off : Nat) (pas : List Nat)
  deriving DecidableEq, Repr

/-- One piece of a lane's access: which bytes of the lane's access it is, where it performs, and the address used. -/
structure Piece where
  lane : Nat
  at_ : Nat
  len : Nat
  place : Place
  va : W64
  deriving DecidableEq, Repr

/-- A reuse entry (R142): key (context, encoding, lane mask, source names, mode, load epoch), results, flags, sectors. -/
structure ReuseEntry where
  ctx : Nat
  enc0 : W64
  enc1 : W64
  lanes : Mask
  sources : List Nat
  mode : BitVec 3
  epoch : BitVec 16
  isLoad : Bool
  results : List Nat
  flags : List (BitVec 5)
  sectors : List Nat
  deriving DecidableEq, Repr

/-- An entry of the group binding table (R34). -/
structure Bind where
  kind : Nat
  absent : Bool
  unit : Nat
  param : Nat
  addr : W64
  deriving DecidableEq, Repr

/-- What an operation in flight will do when it completes. -/
inductive OpKind where
  /-- LD, LDK: the kind (MOD) and destination. -/
  | load (kind : BitVec 5)
  /-- SCLD: which half of the window. -/
  | scld (hi : Bool)
  | store
  | atom (mod : BitVec 5)
  | red
  | ring (qscale : Bool)
  | barrier (reply : Bool)
  | matrix
  | fence (from_ : Dom) (target : Option Dom) (scope : Scope) (acquire : Bool)
  | ivi
  | writeback
  /-- IDIV, SCRD, RDSIDE, DGREAD, POP: the result is known and waits for retirement. -/
  | result
  /-- A copy command, counted in CPY or NET. -/
  | copy (sdom ddom : Dom)
  /-- GLAUNCH whose packet lies in another package (R166). -/
  | glaunch
  deriving DecidableEq, Repr

/-- A class V or counted operation in flight (R112, R315, R324). `need` counts the replies still outstanding; `got` holds
the bytes returned for pieces; `regs` the registers it writes and `vals` what it will write to them; `ready` that every
lane has finished. -/
structure Op where
  id : Nat
  kind : OpKind
  lanes : Mask
  pc : W64
  dst : Opnd
  dom : Dom
  scope : Scope
  order : Ordering4
  pieces : List Piece
  need : Nat
  got : List (Nat × Nat × List Byte)
  regs : List Nat
  vals : List Vec
  flags : List (Nat × BitVec 5)
  counted : Option (Fin 4)
  isRemote : Bool
  /-- HINT of the instruction (R307). -/
  hint : BitVec 2
  /-- Every lane's data or acknowledgement has arrived; the operation waits only for older ones of its counter. -/
  ready : Bool
  /-- Bytes of the thread's own queued stores that a load returns: lane, byte of the access, value (R296). -/
  fwd : List (Nat × Nat × Byte)
  /-- Lanes of a destination register in which the value of a write that R112 put too near stays (R113). -/
  older : List (Nat × Mask)
  /-- What its channel sources remove when it retires (R104): the binding and the number of entries. -/
  pops : List (Bind × Nat)
  /-- Digest contributions to make at retirement (R414): the 24-byte messages. -/
  digest : List (List Byte)
  enc0 : W64
  enc1 : W64
  deriving DecidableEq, Repr

/-- The state of a wave (R45, R132-R135, R196, R247, R326, R384, R386). Lists are indexed by lane or register. -/
structure Wave where
  slot : Nat
  role : Role
  vregs : List Vec
  names : List Nat
  preds : List Mask
  rejoin : List Mask
  pcs : List W64
  threads : List Thread
  waits : List Wait
  notBefore : List Nat
  sleepUntil : List Nat
  waitSince : List Nat
  mem : Nat
  cpy : Nat
  mtx : Nat
  net : Nat
  rm : BitVec 2
  ftz : Bool
  flags : List (BitVec 5)
  trapped : Bool
  tmask : Mask
  rpc : List W64
  side : SideRec
  window : BitVec 2048
  desc0 : Option (BitVec 4608)
  desc1 : Option (BitVec 4608)
  hazards : List Hazard
  ops : List Op
  active : Bool
  passCount : Nat
  eligibleSince : Option Nat
  activeSince : Nat
  starvedSince : Option Nat
  opp : Nat
  cache : List Nat
  inherited : W64
  pendingLines : List Nat
  /-- Lanes stopped at a BRK (R170). -/
  brkStop : Mask
  /-- Lanes that issue nothing further (R392, R385). -/
  never : Mask
  /-- Traps taken since the team was placed or restored (COUNT of R386). -/
  traps : BitVec 16
  /-- For each rejoin mask, the time at which it last changed (R161). -/
  rejoinAt : List Nat
  deriving DecidableEq, Repr

/-! ## Teams and launches -/

/-- A touched sector of a stash mapping (R267, R271): whether it is filled, the bytes written in RC and in BLK, and the PA and key of
the sector that it is a copy of. -/
structure MapSec where
  filled : Bool
  rcMask : BitVec 64
  blkMask : BitVec 64
  pa : Nat
  key : Nat
  deriving DecidableEq, Repr

/-- A stash mapping (R270): stash range, global range, and the stash sectors that were touched. -/
structure SMap where
  o : Nat
  g : Nat
  len : Nat
  sec : AMap MapSec
  deriving DecidableEq, Repr

/-- A child slot (R168). -/
inductive ChildState where
  | free
  | live (launch : Nat)
  | retired (code : Byte)
  deriving DecidableEq, Repr

structure ChildSlot where
  gen : BitVec 12
  st : ChildState
  deriving DecidableEq, Repr

/-- Where a team is: on its core, saved in a slot of the save area, draining (R50), or gone. -/
inductive TeamPlace where
  | resident | saved (slot : Nat) | draining | retired
  deriving DecidableEq, Repr

/-- A placed team (R37-R39, R89, R413). `core` is socket × 36 + physical core. -/
structure Team where
  launch : Nat
  index : Nat
  tx : Nat
  ty : Nat
  tz : Nat
  core : Nat
  coreLog : Nat
  dieLog : Nat
  share : Nat
  waves : AMap Wave
  bind : List Bind
  stash : AMap Sector
  maps : List SMap
  privBase : Nat
  /-- Virtual pages of its private share whose contents are still to become undefined (R70): they had no translation yet. -/
  undefAt : List Nat
  /-- Which reading of the context's descriptor it runs under (R382). -/
  ver : Nat
  fvc : Bool
  digest : W64
  contribs : W64
  kids : List ChildSlot
  place : TeamPlace
  /-- The slot of the save area that holds its debug image (R411). -/
  debugSaved : Option Nat
  /-- The debug image as it was written, to find what the host has changed (R411). -/
  debugImage : List Byte
  /-- It has issued an instruction (R91). -/
  started : Bool
  readmitSince : Option Nat
  deriving DecidableEq, Repr

/-- The header fields, declarations and channel maps of a code object, read once at admission (R19, R20). -/
structure Header where
  flags : W32
  features : BitVec 128
  regs : Nat
  waves : Nat
  floor : Nat
  stash : Nat
  rolemap : W64
  entry : Nat
  priv : Nat
  groups : List (Nat × Nat × Nat)
  chmaps : List Byte
  deriving DecidableEq, Repr

/-- The packet (R68), as read at consumption. -/
structure Packet where
  kind : Nat
  affinity : Nat
  lflags : Nat
  codeobj : W64
  gx : Nat
  gy : Nat
  gz : Nat
  dx : Nat
  dy : Nat
  dz : Nat
  args : W64
  afftab : W64
  dep0 : W64
  dep1 : W64
  compl : W64
  privpool : W64
  privpages : Nat
  tag : W64
  deriving DecidableEq, Repr

/-- Where a launch stands. -/
inductive LaunchState where
  /-- A child grid that GLAUNCH handed over and the queue engine has not checked yet (R77). -/
  | handed
  /-- Waits for its dependences (R69). -/
  | waiting
  /-- A CO-RESIDENT grid waits to be admitted at once (R71). -/
  | coWaiting
  /-- It has ended with the code and detail it holds; its completion record waits for the stores before it (R73). -/
  | ending
  /-- Its teams are being placed. -/
  | placing
  /-- All teams placed. -/
  | placed
  /-- Complete in memory, waiting for a digest decision (R418). -/
  | digestWait
  deriving DecidableEq, Repr

/-- A live or completed launch, or a child grid (R69-R78, R166-R169, R413-R418). -/
structure Launch where
  /-- Launch identifier of the root launch (R69, R77). -/
  ident : Nat
  root : Nat
  parent : Option (Nat × Nat)
  ctx : Nat
  part : Nat
  queue : Nat
  packetNo : Nat
  packet : Packet
  header : Header
  affinity : List (Nat × Nat)
  depth : Nat
  deadline : W64
  prio : Nat
  st : LaunchState
  fail : Byte
  detail : Byte
  startTsc : W64
  nextTeam : Nat
  retired : Nat
  ready : List Nat
  serial : Bool
  reexec : Bool
  folded : Nat
  gdigest : W64
  gcount : W64
  early : AMap (W64 × W64)
  refdig : W64
  obsdig : W64
  dtab : W64
  cores : List Nat
  late : Bool
  /-- Since when its next team has waited for room (R405). -/
  waitSince : Option Nat
  /-- Write requests that must have propagated before its completion record (R73): none while the release has not begun. -/
  drain : Option (List Nat)
  deriving DecidableEq, Repr

/-! ## Memory side -/

/-- One 64-byte sector held in an L1 (R267): whether it is filled, its bytes, and the bytes written in RC and in BLK. -/
structure L1Sector where
  valid : Bool
  data : Sector
  rcMask : BitVec 64
  blkMask : BitVec 64
  /-- Written bytes that are private bytes of a thread, which no global access sees before their write-back (R275). -/
  privMask : BitVec 64
  /-- Teams that stored masked bytes outside private memory, with those bytes: their first-visible-commit bits are set when the bytes
  leave (R89). -/
  owners : List (Nat × BitVec 64)
  deriving DecidableEq, Repr

/-- A line of an L1, by sector 0-3, with the key of its page. -/
structure L1Line where
  key : Nat
  sec : AMap L1Sector
  hint : BitVec 2
  deriving DecidableEq, Repr

/-- A sector at its home slice: whether it is filled, its bytes, and the bytes written and not yet in memory (R267). -/
structure SliceSector where
  filled : Bool
  data : Sector
  mask : BitVec 64
  deriving DecidableEq, Repr

/-- A line cached by its home slice, with the key of its page (R268). -/
structure SliceLine where
  key : Nat
  sec : AMap SliceSector
  deriving DecidableEq, Repr

/-- Written bytes of an evicted line on their way to memory (R268, R349): a number, line, key, bytes and mask. -/
structure Spill where
  id : Nat
  line : Nat
  key : Nat
  data : BitVec 2048
  mask : BitVec 256
  deriving DecidableEq, Repr

/-- What a request carries for arbitration (R74): deadline, priority, queue (1024: none) and partition; and the launch's own deadline,
by which its lateness is judged (R368). -/
structure Terms where
  deadline : W64
  prio : Nat
  queue : Nat
  part : Nat
  own : W64
  deriving DecidableEq, Repr

/-- What a barrier instruction or copy arrival asks of an object (R363, R372-R377). -/
inductive BarOp where
  | init (tarr tbytes : W32) (pmask owner : W64)
  | arrive (a : Nat) (n : Nat) (x : Nat) (q : Option Nat)
  | test (ph : W32) (wantPhase : Bool)
  | inval
  deriving DecidableEq, Repr

/-- What a request asks of a home slice (R296, R302-R314). Byte positions are offsets in the 256-byte line. -/
inductive ReqKind where
  | read (sectors : BitVec 4) (alloc : Bool)
  | write (mask : BitVec 256) (data : BitVec 2048)
  | atom (lanes : List AtomLane) (isRed : Bool)
  | amax (off : Nat) (m : W32)
  | qscale (off : Nat) (mod : BitVec 5)
  | bar (off : Nat) (op : BarOp)
  deriving DecidableEq, Repr

/-- Who asked: an operation of a wave, a write-back, a copy command, another package through a link, or the host. -/
inductive Asker where
  | op (team wave op : Nat)
  /-- A write-back of masked bytes of a core's L1, or of a team's stash there. -/
  | evict (core : Nat) (team : Option Nat)
  /-- An access of a copy command, with the number of the access (R331). -/
  | cmd (core cmd part : Nat)
  /-- A prefetch into a core's L1. -/
  | prefetch (core : Nat)
  /-- An instruction fetch of a core (R96). -/
  | fetch (core : Nat)
  /-- One message of an operation on another package's memory: the core, the operation and the message's number in it. -/
  | remote (core team wave op part : Nat)
  /-- The check of an access of another package that has not issued yet (R277). -/
  | probe (core team wave id : Nat)
  | link (link tag : Nat)
  /-- A link port that forwarded the snoop of a pending write, or that evicts a line from its snoop filter (R298). -/
  | snoop (slice wid line : Nat)
  | filter (line : Nat)
  /-- The operation at the front of a queue pair of a host port, or of a manager core (R66, R278). -/
  | host (qp : Nat)
  /-- A write of a queue engine or of a manager-core duty, or a prefetch into a slice, which nobody awaits. -/
  | none
  deriving DecidableEq, Repr

/-- A request on its way to a slice: its number, source core and source number, domain, line (PA ÷ 256), key, deadline,
priority, queue and partition (R74). -/
structure Req where
  id : Nat
  core : Nat
  source : Nat
  asker : Asker
  dom : Dom
  line : Nat
  key : Nat
  kind : ReqKind
  deadline : W64
  prio : Nat
  queue : Nat
  part : Nat
  hnol1 : Bool
  /-- It reached the head of a serving queue late (R75, R353). -/
  late : Bool
  /-- The launch's own deadline (R368). -/
  own : W64
  deriving DecidableEq, Repr

/-- A request of ATOM, RED, AMAXR or QSCALE that a core holds (R402): its operation, its number once it is sent, what the stop
record says of it (address bits from 8 up, peer window, wave slot, MOD, instruction 0-3), and the request, to a home slice
or to another package. -/
structure AtomReq where
  team : Nat
  wave : Nat
  op : Nat
  part : Nat
  req : Nat
  vline : Nat
  peer : Bool
  slot : Nat
  mod : BitVec 5
  insn : Nat
  home : Option Req
  link : Option (Nat × LinkBody)
  deriving DecidableEq, Repr

/-- A barrier registration (R367), with the deadline that it lent to the open phase: 2^64 − 1 for none. A save drops the registration
(`live` false), but ends no inheritance that it gave (R369, R406). -/
structure Reg where
  line : Nat
  off : Nat
  key : Nat
  team : Nat
  wave : Nat
  lanes : Mask
  deadline : W64
  live : Bool
  deriving DecidableEq, Repr

/-- What travels on the mesh (R346, R347). -/
inductive Msg where
  /-- An answer to an operation: bytes by sector, old values, a scale, a phase or an acknowledgement. -/
  | readReply (req : Req) (secs : AMap Sector) (pending : Bool)
  | atomReply (req : Req) (olds : List (Nat × W64))
  | scaleReply (req : Req) (value : W32) (nv : Bool)
  | barReply (req : Req) (value : W32) (ok : Bool)
  | ack (req : Req)
  | discard (req : Req)
  | denied (req : Req)
  /-- An invalidation of a line for a core's filter of the domain, with the terms of the write, and its answer. -/
  | inval (slice wid line : Nat) (dom : Dom) (tm : Terms)
  | invalAck (slice wid core : Nat)
  /-- A snoop to a link port for a line whose data has left the package, and its answer (R298). -/
  | snoop (slice wid line net link : Nat) (tm : Terms)
  | snoopAck (slice wid link : Nat)
  | wake (team wave : Nat) (lanes : Mask)
  /-- Slice to memory socket: sectors of a line to read, `late` once the request has counted as late (R75), and their data;
  written bytes of an evicted line, by the number of the spill, `late` in the same way; bytes of a sector that no slice is home of. -/
  | sockRead (slice line key : Nat) (sectors : BitVec 4) (late : Bool)
  | sockData (slice line key : Nat) (secs : AMap Sector)
  | sockWrite (slice spill : Nat) (late : Bool)
  | sockRaw (pa key : Nat) (data : Sector) (mask : BitVec 64)
  /-- A slice asks a station for a slot again, by its number (R345). -/
  | resend (slice seq : Nat)
  /-- To and from a link port. -/
  | toLink (link : Nat) (m : LinkMsg) (asker : Asker) (part : Nat)
  | linkReply (asker : Asker) (m : LinkMsg)
  /-- A request of another package on its way from a link port to its home slice (R277). -/
  | request (req : Req)
  deriving DecidableEq, Repr

/-- A write that has not propagated (R296): the cores and the link ports still to answer, for SC and TSO whether its
effect is still to come, and the answer that the writer will receive. -/
structure PendWrite where
  id : Nat
  req : Req
  cores : List Nat
  links : List Nat
  hidden : Bool
  reply : Option Msg
  /-- The TSC at which the invalidations and snoops left (R357). -/
  since : W64
  deriving DecidableEq, Repr

/-- Where a mesh message goes: a core (die × 36 + core), a slice, a memory socket 0-15, a link port, a cluster station or a port die,
where host ports and manager cores are. -/
inductive MeshDest where
  | core (c : Nat) | slice (s : Nat) | sock (m : Nat) | link (l : Nat) | station (k : Nat) | die (p : Nat)
  deriving DecidableEq, Repr

structure MeshMsg where
  dest : MeshDest
  net : Nat
  source : Nat
  tm : Terms
  /-- The order in which units sent: of two messages the one with the smaller number was sent first, unless they are equal. -/
  stamp : Nat
  /-- Set until the message has made its first hop, which for a BLK message is the rotated one (R346). -/
  sprayed : Bool
  msg : Msg
  deriving DecidableEq, Repr

/-- The directory entry of a line: one sharer bit per spindle, and EXT (R298). -/
structure DirEntry where
  sharers : BitVec 24
  ext : Bool
  deriving DecidableEq, Repr

structure Slice where
  lines : AMap SliceLine
  dir : AMap DirEntry
  inq : List Req
  admitted : List Req
  pend : List PendWrite
  /-- Sectors asked of memory: line and sector. -/
  fills : List (Nat × Nat)
  /-- Written bytes of evicted sectors that are not in memory yet. -/
  spills : List Spill
  regs : List Reg
  pos : Nat
  inbox : List Msg
  boosts : List (Nat × W64 × W64 × W64)
  closed : Bool
  deriving DecidableEq, Repr

structure Sock where
  inq : List MeshMsg
  pos : Nat
  deriving DecidableEq, Repr

/-- A slot of a home channel: the station, a number, its messages, and how often it failed its check (R342, R345). -/
structure Slot where
  station : Nat
  seq : Nat
  msgs : List Req
  fails : Nat
  deriving DecidableEq, Repr

structure Station where
  /-- Messages waiting, oldest first; the network and slice are those of the request. -/
  queue : List (Nat × Req)
  /-- Per slice, the network that begins the next slot (R344). -/
  rr : AMap Nat
  /-- The last 256 slots sent, for resending (R345). -/
  sent : List (Nat × Slot)
  resend : List (Nat × Slot)
  /-- Resend requests that have reached the station: slice and number of the slot. -/
  asks : List (Nat × Nat)
  nextSeq : Nat
  /-- Per direction, the core of the cluster that the link to the neighbour is granted to next, and the core cycle from which the link
  carries its next entry (R351). -/
  turn : AMap Nat
  linkFrom : AMap Nat
  deriving DecidableEq, Repr

structure Channel where
  token : Nat
  flight : List Slot
  held : List Slot
  /-- Discarded slots whose resend is awaited: station and number. -/
  awaiting : List (Nat × Nat)
  deriving DecidableEq, Repr

/-- A router: per output (0 east, 1 west, 2 north, 3 south, 4 spindle, 5-8 slices, 9-12 sockets and ports) a list of
waiting messages, and the network that was granted last. -/
structure Router where
  out : AMap (List MeshMsg)
  rr : AMap Nat
  spray : Nat
  deriving DecidableEq, Repr

/-! ## Cores -/

/-- A content-named file entry (R136-R141). -/
structure CnfEntry where
  vec : Vec
  refs : Nat
  hashed : Bool
  hashTag : BitVec 53
  deriving DecidableEq, Repr

/-- A store in a store queue (R295): its operation, pieces with their bytes. -/
structure QStore where
  team : Nat
  wave : Nat
  op : Nat
  dom : Dom
  scope : Scope
  order : Ordering4
  hnol1 : Bool
  /-- Lane, place and bytes of each piece; of a 16-byte access, the second 8-byte parts stand in `rest` and perform after the
  first ones (R279). -/
  parts : List (Nat × Place × List Byte)
  rest : List (Nat × Place × List Byte)
  sent : Bool
  deriving DecidableEq, Repr

/-- What a copy command does (R321-R331). -/
inductive CmdKind where
  /-- The walk of a descriptor (`none`: the slot was never loaded) from start coordinates. -/
  | tcopy (desc : Option (BitVec 4608)) (coords : List Int)
  /-- TDESC into slot 0 or 1. -/
  | tdesc (slot : Bool)
  | gather
  | scatter
  | rcopy
  | coll (op : Nat)
  deriving DecidableEq, Repr

/-- An access of a copy command under way (R331): its number, where its bytes stand in the element, the address of the first in
its line, and how many they are; for a write, the span it writes. -/
structure CmdPart where
  id : Nat
  at_ : Nat
  off : Nat
  len : Nat
  space : Nat
  addr : Nat
  /-- The address used (R401). -/
  va : W64
  /-- A source in a mapped stash range, which the answer fills (R271). -/
  fill : Bool
  deriving DecidableEq, Repr

/-- A copy command held by a port. Its elements are numbered from 0; `pos` is the next one. -/
structure Cmd where
  id : Nat
  port : Nat
  team : Nat
  wave : Nat
  /-- The subset's lowest active lane. -/
  lane : Nat
  pc : W64
  kind : CmdKind
  /-- Lane and address of GATHER's sources and SCATTER's destinations; a lane that GATHER.ch fills with zeros has none. -/
  lanes : List (Nat × Option W64)
  src : W64
  dst : W64
  count : Nat
  pos : Nat
  esize : Nat
  sdom : Dom
  ddom : Dom
  scope : Scope
  bar : Option W64
  /-- The byte count N of the barrier arrival. -/
  total : Nat
  /-- The stream of a `.ch` form: ring offset, bytes landed, numbers of the reserved entries, entries filled, tag. -/
  ring : Option Nat
  stream : List Byte
  reserved : List Nat
  filled : Nat
  etag : BitVec 4
  /-- Pages whose faults are unresolved, with SEQ once the fault is queued. -/
  parked : List (W64 × Option W32)
  /-- The reads of the element at `pos`: whether they have begun, those under way, and the bytes that have come, by their place in
  the element. -/
  begun : Bool
  reads : List CmdPart
  got : List (Nat × List Byte)
  /-- Writes and arrivals that no home slice and no other package has acknowledged. -/
  writes : List CmdPart
  /-- Digest contributions of the destination parts written so far (R414). -/
  digest : List (List Byte)
  /-- The barrier arrival has been performed, or sent to another package. -/
  arrived : Bool
  /-- An engine command error has been raised. -/
  failed : Bool
  deriving DecidableEq, Repr

/-- An entry of the range scoreboard (R332): the command, and the destination and source intervals as first address and number
of bytes, taken modulo 2^64. `own`: the wave of a command that is not in the scoreboard; its source interval holds back the
stores of that wave only (R280). -/
structure RangeEntry where
  cmd : Nat
  dst : Nat
  dLen : Nat
  src : Nat
  sLen : Nat
  own : Option (Nat × Nat)
  deriving DecidableEq, Repr

/-- A cached translation: context, virtual page number (VA ÷ 64 KiB), the leaf and the frame PA of that page. -/
structure TlbEntry where
  ctx : Nat
  vpage : Nat
  leaf : W64
  frame : Nat
  deriving DecidableEq, Repr

/-- A check asked of an exporter in another package before an access issues (R263 step 5, R277): wave, number, export and
bytes, what the access needs, and the answer: none yet, refused, or the page's floor and where the bytes lie. -/
structure Probe where
  team : Nat
  wave : Nat
  id : Nat
  pkg : Nat
  part : Nat
  ix : Nat
  gen : Nat
  off : Nat
  len : Nat
  rd : Bool
  wr : Bool
  answer : Option (Option (Nat × List Nat))
  deriving DecidableEq, Repr

/-- An entry on a link between cores (R340, R351): the core cycle from which it may arrive, its core, the TSC from which its time-out
runs (R357), and the vector. While the core's spindle is halted for debug, `since` holds 0 less the time that has passed. -/
structure LinkEntry where
  due : Nat
  target : Nat
  since : W64
  vec : Vec
  deriving DecidableEq, Repr

/-- A write-back under way: request number, domain, line, and whether the bytes come from a mapped stash range. -/
structure WriteBack where
  id : Nat
  dom : Dom
  line : Nat
  mapped : Bool
  deriving DecidableEq, Repr

structure Core where
  slots : AMap (Nat × Nat)
  cnf : AMap CnfEntry
  /-- The reuse table, the most recently used entry first (R142). -/
  reuse : List ReuseEntry
  /-- Entries to insert when an operation retires, by its number, with their sources held (R142). -/
  reusePend : List (Nat × ReuseEntry)
  /-- Contexts saved from this core since the epoch last advanced (R151). -/
  left : List Nat
  epoch : BitVec 16
  reuseLook : Nat
  reuseHit : Nat
  collide : Nat
  overflow : Nat
  swaps : Nat
  /-- The core cycle in which the last swap began (R133). -/
  lastSwap : Option Nat
  swapWanted : Bool
  unitBusy : AMap Nat
  l1 : AMap L1Line
  ipath : AMap (BitVec 2048)
  /-- Fetches under way: request number, line, and the core's own masked bytes of it (R96). -/
  ifetch : List (Nat × Nat × BitVec 256 × BitVec 2048)
  tlb : List TlbEntry
  sq : AMap (List QStore)
  /-- Invalidations queued in a filter, oldest first: slice, number of the write, line and the write's terms (R296). -/
  held : AMap (List (Nat × Nat × Nat × Terms))
  inbox : List Msg
  /-- Write-backs of masked bytes that no slice has acknowledged (R296). -/
  wbOut : List WriteBack
  /-- Reads sent and not answered: request number, line, and whether an invalidation has overtaken the answer. -/
  readsOut : List (Nat × Nat × Bool)
  /-- Sectors of other packages under way to the L1 (R298): operation and message, line, and whether an invalidation has overtaken
  them. -/
  farReads : List (Nat × Nat × Nat × Bool)
  atomsInFlight : List AtomReq
  atomsUnsent : List AtomReq
  cmds : List Cmd
  ranges : List RangeEntry
  recv : AMap (List Vec)
  /-- Entries pushed to a neighbour, by direction, oldest first (R340, R351). -/
  links : AMap (List LinkEntry)
  /-- What exporters in other packages have answered to the checks of accesses that have not issued yet (R277). -/
  probes : List Probe
  /-- Sectors (VA ÷ 64, PA ÷ 64) whose data held on the spindle cannot be corrected: withheld until the halt (R359). -/
  badVa : List Nat
  badPa : List Nat
  stopped : Bool
  deriving DecidableEq, Repr

structure Spindle where
  fused : BitVec 36
  part : Nat
  fenced : Bool
  resetting : Bool
  resetSinceFence : Bool
  /-- Core cycles that have passed, in sixths (R125), and how many had at the last reset of the spindle (R190). -/
  clkTicks : Nat
  clkBase : Nat
  deriving DecidableEq, Repr

/-! ## Queues, contexts, partitions -/

/-- A packet pushed to a queue (R341): team, wave and partition of the push, PA of the queue's control block, bytes. -/
structure Post where
  team : Nat
  wave : Nat
  part : Nat
  cb : Nat
  bytes : List Byte
  deriving DecidableEq, Repr

structure Queue where
  cbpa : BitVec 40
  ctxValid : Bool
  ctx : BitVec 12
  tail : W64
  head : W64
  ringbase : W64
  log2 : Byte
  prio : Byte
  memres : Byte
  fabres : Byte
  reldl : W32
  qcmd : Byte
  /-- QCMD has been written since the engine last read the block (R62). -/
  cmdWritten : Bool
  qflags : Byte
  reservedBad : Bool
  qstate : Byte
  qerr : Byte
  late : W64
  latepkt : W64
  failed : W64
  outcomes : AMap Byte
  /-- For a completed packet, the identifiers of incomplete launches that it depended on, directly or through a chain (R76). -/
  chains : AMap (List Nat)
  grants : Nat
  /-- Packets pushed and not yet posted (R341). -/
  posts : List Post
  deriving DecidableEq, Repr

/-- The values of a context descriptor (R381). -/
structure CtxDesc where
  root : W64
  peertab : W64
  savebase : W64
  saveslots : W32
  slotsize : W32
  deriving DecidableEq, Repr

/-- A context (R381, R382): CTXDESC, the bits of CTXCTL, how often the descriptor was reread, its values in force, and the
earlier ones by number: a team keeps those in force when it was placed or restored. -/
structure Ctx where
  desc : W64
  scbchk : Bool
  dbgbrk : Bool
  preq : Bool
  ver : Nat
  now : CtxDesc
  past : AMap CtxDesc
  /-- Killed, with launches whose completion records wait for their stores (R409, R426). -/
  dying : Bool
  deriving DecidableEq, Repr

/-- A fault-queue entry (R394): its place in the queue's 512. -/
structure FqEntry where
  slot : Nat
  vpage : W64
  ctx : Nat
  kind : BitVec 4
  level : Nat
  cause : Nat
  state : Nat
  merges : Nat
  tscFirst : W64
  tscLast : W64
  source : Nat
  parked : Nat
  seq : W32
  ident : Nat
  /-- The TSC since which it has been in the queue; while a spindle of the partition is halted for debug, 0 less the time that has
  passed (R398, R410). -/
  since : W64
  /-- The host is to serve it, not a manager core: the partition's fault-service mode as the service began (R430, R396, R427). -/
  host : Bool
  deriving DecidableEq, Repr

/-- An access waiting to enter the fault queue: its team, the TSC at which it was parked, context, page, kind, level, cause,
source, launch identifier. -/
structure Parked where
  team : Nat
  tsc : W64
  ctx : Nat
  vpage : W64
  kind : BitVec 4
  level : Nat
  cause : Nat
  source : Nat
  ident : Nat
  deriving DecidableEq, Repr

/-- A detected cause of a context fault (R399-R401). -/
structure CauseRec where
  cause : Cause
  tsc : W64
  source : Nat
  addr : W64
  pc : W64
  ctx : Nat
  ident : Nat
  deriving DecidableEq, Repr

structure Part where
  spindlesReg : BitVec 24
  slicesReg : BitVec 96
  memshare : BitVec 128
  hbase : W64
  stopbase : W64
  modes : BitVec 4
  todie : W64
  tolink : W64
  fwdog : W64
  exptab : W64
  peerlist : W64
  hcause : Byte
  pstate : Nat
  dbghalt : BitVec 24
  spindles : BitVec 24
  slices : BitVec 96
  fq : List FqEntry
  fqWait : List Parked
  nextSeq : W32
  causes : List CauseRec
  /-- Links whose requests of this partition wait for the host, with the TSC since which (R358). -/
  linkHeld : List (Nat × W64)
  linkWaits : List Nat
  /-- A clear waits for what its slices have accepted (R427, R400). -/
  clearing : Bool
  deriving DecidableEq, Repr

/-! ## Links, ports, power, management -/

/-- A link event record owed to the ring at STOPBASE + 64 KiB (R356): event code, old and new mask, direction, flits
replayed, dark time, TSC, and the model's time at which it is due. -/
structure LinkRecord where
  code : Nat
  oldMask : BitVec 16
  newMask : BitVec 16
  dir : Nat
  replayed : Nat
  darkNs : W32
  tsc : W64
  due : Nat
  /-- SEQ of the first data flit sent, or seen, in the direction since the switch, and whether it has been accepted. -/
  first : Option (BitVec 13)
  accepted : Bool
  deriving DecidableEq, Repr

/-- A message that waits at a port to be sent, with the deadline from which its remaining time is taken as it leaves (R353). -/
structure LinkOut where
  msg : LinkMsg
  deadline : W64
  deriving DecidableEq, Repr

/-- A request of this package at a link port (R357): tag, asker and partition; whether it has been sent; the TSC from which its
time-out runs, that of the sending or, with the link out of service, of the moment it was held; whether it has counted as late
(R75). -/
structure LinkWait where
  tag : Nat
  asker : Asker
  part : Nat
  sent : Bool
  since : Option W64
  late : Bool
  deriving DecidableEq, Repr

/-- A part of an access of another package that one home slice serves: the number of the request, its first byte in the access, its PA
and its length. -/
structure PeerPart where
  id : Nat
  at_ : Nat
  pa : Nat
  len : Nat
  deriving DecidableEq, Repr

/-- A request of another package that home slices serve (R277): its tag and network, its parts, one for each line it touches, and the
answers so far. -/
structure PeerServe where
  tag : Nat
  net : Nat
  /-- A read for an L1, which is answered with whole sectors. -/
  alloc : Bool
  parts : List PeerPart
  answers : List Msg
  deriving DecidableEq, Repr

/-- A snoop of another package under way to this package's cores (R298): its line, tag, network, PRIORITY and deadline, and the
invalidations that no core has answered, each a number and its core. -/
structure LinkSnoop where
  line : Nat
  tag : Nat
  net : Nat
  prio : Nat
  deadline : W64
  waits : List (Nat × Nat)
  /-- The TSC at which the invalidations left the port (R357). -/
  since : W64
  deriving DecidableEq, Repr

/-- One of the 32 scale-up links (R352-R358, R464, R465). -/
structure Link where
  inService : Bool
  retraining : Bool
  retrainFailed : Bool
  txMask : BitVec 16
  rxMask : BitVec 16
  /-- Messages waiting to be sent, and per network how many bytes of its first one have left. -/
  sendQ : List LinkOut
  sentBytes : List Nat
  rr : Nat
  nextSeq : BitVec 13
  /-- Unacknowledged flits, oldest first, with their failed sends, and how many of them are to be resent. -/
  replay : List (Flit × Nat)
  resendAt : Nat
  lastSend : Nat
  credits : List Nat
  rxExpect : BitVec 13
  rxDiscarding : Bool
  /-- A flit has been discarded since the last negative acknowledgement for the expected SEQ. -/
  rxAgain : Bool
  rxLastNak : Nat
  rxNakCount : BitVec 16
  rxNakSeq : BitVec 13
  rxCredits : List (BitVec 16)
  txNakSeen : BitVec 16
  txCreditSeen : List (BitVec 16)
  lit : BitVec 16
  darkNs : W32
  /-- TSC at which this end found light lost, and at which the other end's last report of it arrived, with that report. -/
  detectTsc : W64
  reportTsc : W64
  peerLit : BitVec 16
  peerDark : W32
  /-- Flits discarded, and resent, since the last that was accepted, or acknowledged (R356). -/
  rxDisc : Nat
  txResent : Nat
  probe : BitVec 16
  ctlSent : List CtlFlit
  ctlDue : Bool
  lastCtl : Nat
  /-- Messages that reached the port over the mesh and wait to be handled: snoops (R298). -/
  inbox : List Msg
  snoop : List Nat
  records : List LinkRecord
  /-- Requests of this package that await an answer. -/
  outstanding : List LinkWait
  /-- Requests of the other package under way here. -/
  serving : List PeerServe
  /-- Snoops of the other package under way here. -/
  snoops : List LinkSnoop
  /-- The wavelengths that the last control flit reported as lit (R356). -/
  reported : BitVec 16
  /-- What the last data flit sent put on each wavelength: the bits in order (R352). -/
  fibre : AMap (List Bool)
  nextTag : Nat
  /-- The TSC at which the last good flit arrived (R356). -/
  lastGood : W64
  /-- The wavelengths that a RESTORE at this end asked the other end to probe (R465). -/
  asked : BitVec 16
  deriving DecidableEq, Repr

structure EthPort where
  mac : BitVec 48
  enable : Bool
  pcp : BitVec 3
  vlan : BitVec 12
  partmask : BitVec 24
  txFrames : W64
  rxFrames : W64
  rxDrop : W64
  sendQ : List (Nat × List Byte)
  recvQ : AMap (List (List Byte))
  wire : List Frame
  deriving DecidableEq, Repr

/-- A power unit (R432-R434): states 0 ACTIVE to 4 OFF. -/
structure PowerUnit where
  state : Nat
  cmd : Nat
  prot : Bool
  deriving DecidableEq, Repr

structure EvQueue where
  base : W64
  log2 : W64
  head : W64
  tail : W64
  drop : W64
  deriving DecidableEq, Repr

/-- The SPDM mailbox (R424, R438): its 4096 bytes, of which those that are not listed are zero, whether they hold a request that has
not been answered, and what has been negotiated. -/
structure Spdm where
  box : List Byte
  asked : Bool
  version : Bool
  negotiated : Bool
  deriving DecidableEq, Repr

/-- What a queue pair has still to do (R66, R423), in the order of arrival: a register access, bytes of one line written or read, or
the reply that ends an RDMA operation. -/
inductive HostOp where
  | regWrite (off : Nat) (val : W64)
  | regRead (off : Nat)
  | write (pa : Nat) (bytes : List Byte)
  | read (pa n : Nat)
  /-- An access to the management block that is no register access (R423). -/
  | reject (off n : Nat)
  /-- Bytes of addresses that hold no memory. -/
  | open (n : Nat)
  | ack
  | reply
  | error
  deriving DecidableEq, Repr

/-- A queue pair of a host port (64 for each of two ports, R4, R423), or a manager core's load and store unit (R278; log entry 98): what
it has still to do, whether the first operation's request is under way, and the bytes read so far. -/
structure HostQp where
  ops : List HostOp
  sent : Bool
  got : List Byte
  deriving DecidableEq, Repr

/-- What the host receives on a queue pair (R423). -/
inductive HostReply where
  | data (qp : Nat) (bytes : List Byte)
  | ack (qp : Nat)
  | remoteError (qp : Nat)
  deriving DecidableEq, Repr

/-- An event for a manager core (R75, R418): LATE or DIGEST, with the launch identifier. -/
inductive MgrEvent where
  | late (ident : Nat) | digest (ident : Nat)
  deriving DecidableEq, Repr

/-- A translation invalidation that has not completed (R266): context and first and last virtual page, and the numbers that the next
operation and the next request had when it began. -/
structure TransInval where
  ctx : Nat
  lo : Nat
  hi : Nat
  op : Nat
  uid : Nat
  /-- What was masked under the old translations is on its way home. -/
  flushed : Bool
  deriving DecidableEq, Repr

/-- The wave subset an instruction acts on: team, wave index, PC, lanes (active or not), and the fetched words. -/
structure Cur where
  team : Nat
  wave : Nat
  pc : W64
  lanes : Mask
  enc0 : W64
  enc1 : W64
  deriving DecidableEq, Repr

/-- The package. -/
structure State where
  time : Nat
  tsc : W64
  tscRem : Nat
  freeze : Bool
  bootstat : Byte
  bootHash : BitVec 256
  err : Bool
  errAddr : W32
  mem : List Host.Cell
  keys : AMap (BitVec 512)
  keyData : BitVec 512
  queueOwner : AMap Byte
  granuleOwner : AMap Byte
  units : AMap PowerUnit
  evq : EvQueue
  spdm : Spdm
  hostQps : AMap HostQp
  hostOut : List HostReply
  /-- Sectors (PA ÷ 64) whose data cannot be corrected and are withheld until the halt (R359). -/
  withheld : List Nat
  /-- The wavelengths of the transmit direction of every link that failed laser sources feed (R352, R356). -/
  lasersOut : BitVec 16
  /-- The firmware image window of recovery (R437), by 8-byte words. -/
  fwImage : AMap W64
  transInvals : List TransInval
  mgrEvents : List MgrEvent
  spindles : AMap Spindle
  cores : AMap Core
  teams : AMap Team
  launches : AMap Launch
  queues : AMap Queue
  ctxs : AMap Ctx
  parts : AMap Part
  slices : AMap Slice
  socks : AMap Sock
  stations : AMap Station
  channels : AMap Channel
  routers : AMap Router
  links : AMap Link
  ports : AMap EthPort
  group : List Cur
  cur : Option Cur
  agenda : List (Nat × Instr)
  free : Nat
  nextUid : Nat
  nextOp : Nat
  deriving DecidableEq, Repr

/-- The package right after reset: nothing is configured, nothing is live, every table is empty (each accessor of
Machine/Ops.lean gives an unlisted entry its reset value), BOOTSTAT reads 0, booting (R425). -/
def State.reset : State where
  time := 0
  tsc := 0
  tscRem := 0
  freeze := false
  bootstat := 0
  bootHash := 0
  err := false
  errAddr := 0
  mem := []
  keys := []
  keyData := 0
  queueOwner := []
  granuleOwner := []
  units := []
  evq := { base := 0, log2 := 0, head := 0, tail := 0, drop := 0 }
  spdm := { box := [], asked := false, version := false, negotiated := false }
  hostQps := []
  hostOut := []
  withheld := []
  lasersOut := 0
  fwImage := []
  transInvals := []
  mgrEvents := []
  spindles := []
  cores := []
  teams := []
  launches := []
  queues := []
  ctxs := []
  parts := []
  slices := []
  socks := []
  stations := []
  channels := []
  routers := []
  links := []
  ports := []
  group := []
  cur := none
  agenda := []
  free := 0
  nextUid := 1
  nextOp := 1

end Sys2Proof.Machine
end

