-- ==== Sys2Proof/Machine/Bytes.lean ====
section
/-! DEFINITION. Byte order (R11), bit masks over lanes, sectors by byte masks, and sparse tables. -/

namespace Sys2Proof.Machine

/-! ## Little-endian numbers -/

/-- The number that bytes hold, least significant first (R11). -/
def leNat : List Byte → Nat
  | [] => 0
  | b :: bs => b.toNat + 256 * leNat bs

/-- The `n` low bytes of a number, least significant first. -/
def toLe : Nat → Nat → List Byte
  | 0, _ => []
  | n + 1, x => BitVec.ofNat 8 x :: toLe n (x / 256)

/-- Bytes `o` to `o + n − 1` of a byte string as a number; missing bytes read 0. -/
def leAt (bs : List Byte) (o n : Nat) : Nat := leNat ((bs.drop o).take n)

/-- A number's low `w` bits as a two's complement number. -/
def sInt (w x : Nat) : Int := (BitVec.ofNat w x).toInt

/-- Bits [hi:lo] of a word. -/
def bits (x : W64) (lo n : Nat) : Nat := (x.toNat >>> lo) % 2 ^ n

/-- Bits of a natural number. -/
def nbits (x lo n : Nat) : Nat := (x >>> lo) % 2 ^ n

/-- Byte i of a sector (R267). -/
def Sector.byte (s : Sector) (i : Nat) : Byte := s.extractLsb' (8 * i) 8

/-- The bytes of a sector. -/
def Sector.bytes (s : Sector) : List Byte := (List.range 64).map fun i => s.extractLsb' (8 * i) 8

/-- A sector from its bytes. -/
def Sector.ofBytes (bs : List Byte) : Sector := BitVec.ofNat 512 (leNat (bs.take 64))

/-- A 512-bit mask that covers the bytes of a byte mask. -/
def byteMask (m : BitVec 64) : Sector :=
  (List.range 64).foldl (fun acc i => if m.getLsbD i then acc ||| (0xFF#512 <<< (8 * i)) else acc) 0

/-- `new` where the mask is set, `old` elsewhere (R267). -/
def Sector.merge (old new : Sector) (m : BitVec 64) : Sector :=
  (old &&& ~~~(byteMask m)) ||| (new &&& byteMask m)

/-- Bytes written at offset `o` of a sector. -/
def Sector.put (s : Sector) (o : Nat) (bs : List Byte) : Sector :=
  let keep := ((1 <<< (8 * bs.length)) - 1) <<< (8 * o)
  (s &&& ~~~(BitVec.ofNat 512 keep)) ||| BitVec.ofNat 512 (leNat bs <<< (8 * o))

/-- The mask of `n` bytes at offset `o`. -/
def maskAt (w o n : Nat) : BitVec w := BitVec.ofNat w (((1 <<< n) - 1) <<< o)

/-! ## Lane masks -/

/-- Lanes 0 to 31. -/
def lanes32 : List Nat := List.range 32

/-- The lanes of a mask, ascending. -/
def maskLanes (m : Mask) : List Nat := lanes32.filter fun l => m.getLsbD l

/-- The mask of the lanes that satisfy a test. -/
def laneMask (p : Nat → Bool) : Mask :=
  lanes32.foldl (fun m l => if p l then m ||| (1#32 <<< l) else m) 0

/-- The lowest lane of a mask; 0 for an empty one. -/
def lowest (m : Mask) : Nat := (maskLanes m).headD 0

/-- One bit of a mask changed. -/
def Mask.put (m : Mask) (l : Nat) (b : Bool) : Mask :=
  if b then m ||| (1#32 <<< l) else m &&& ~~~(1#32 <<< l)

/-- `new` in the lanes of `act`, `old` elsewhere (R137, R149). -/
def mergeMask (act old new : Mask) : Mask := (old &&& ~~~act) ||| (new &&& act)

/-- A list by lane: `new l` in the lanes of `act`, the old entry elsewhere. -/
def mergeLanes {α : Type} (act : Mask) (old : List α) (dflt : α) (new : Nat → α) : List α :=
  lanes32.map fun l => if act.getLsbD l then new l else old.getD l dflt

/-! ## Sparse tables -/

/-- The entry at an index. -/
def AMap.get? {α : Type} : AMap α → Nat → Option α
  | [], _ => none
  | (j, a) :: m, k => if j = k then some a else AMap.get? m k

/-- The entry at an index, or a default. -/
def AMap.getD {α : Type} (m : AMap α) (k : Nat) (d : α) : α := (AMap.get? m k).getD d

/-- An entry written at an index; the indices keep rising. -/
def AMap.set {α : Type} : AMap α → Nat → α → AMap α
  | [], k, a => [(k, a)]
  | (j, b) :: m, k, a =>
    if k < j then (k, a) :: (j, b) :: m
    else if k = j then (k, a) :: m
    else (j, b) :: AMap.set m k a

/-- An index removed. -/
def AMap.erase {α : Type} : AMap α → Nat → AMap α
  | [], _ => []
  | (j, b) :: m, k => if j = k then AMap.erase m k else (j, b) :: AMap.erase m k

/-- Every entry changed. -/
def AMap.mapVals {α : Type} (m : AMap α) (f : α → α) : AMap α := m.map fun e => (e.1, f e.2)

/-! ## Lists by index -/

/-- Entry `i` changed. -/
def modAt {α : Type} (l : List α) (i : Nat) (f : α → α) : List α := l.modify i f

/-- A list in the order of a test, equal elements in their old order. -/
def insertBy {α : Type} (le : α → α → Bool) (a : α) : List α → List α
  | [] => [a]
  | b :: l => if le a b then a :: b :: l else b :: insertBy le a l

def sortBy {α : Type} (le : α → α → Bool) : List α → List α
  | [] => []
  | a :: l => insertBy le a (sortBy le l)

/-- The first entry that satisfies a test, and the list without it. -/
def takeFirst {α : Type} (p : α → Bool) : List α → Option (α × List α)
  | [] => none
  | a :: l =>
    if p a then some (a, l)
    else match takeFirst p l with
      | none => none
      | some (b, l') => some (b, a :: l')

end Sys2Proof.Machine
end

