-- ==== Sys2Proof/Machine/Aes.lean ====
section
/-! DEFINITION. The cipher of memory at rest (R264): AES-256 and XTS on one 64-byte sector. A sector's tweak is its storage
address divided by 64 (log entry 19); the first half of a key encrypts data and the second half the tweak. -/

namespace Sys2Proof.Machine

/-- The substitution table of AES and its inverse. -/
def aesSbox : List Nat :=
  [99, 124, 119, 123, 242, 107, 111, 197, 48, 1, 103, 43, 254, 215, 171, 118, 202, 130, 201, 125, 250, 89, 71, 240, 173, 212, 162, 175, 156, 164, 114, 192] ++
  [183, 253, 147, 38, 54, 63, 247, 204, 52, 165, 229, 241, 113, 216, 49, 21, 4, 199, 35, 195, 24, 150, 5, 154, 7, 18, 128, 226, 235, 39, 178, 117] ++
  [9, 131, 44, 26, 27, 110, 90, 160, 82, 59, 214, 179, 41, 227, 47, 132, 83, 209, 0, 237, 32, 252, 177, 91, 106, 203, 190, 57, 74, 76, 88, 207] ++
  [208, 239, 170, 251, 67, 77, 51, 133, 69, 249, 2, 127, 80, 60, 159, 168, 81, 163, 64, 143, 146, 157, 56, 245, 188, 182, 218, 33, 16, 255, 243, 210] ++
  [205, 12, 19, 236, 95, 151, 68, 23, 196, 167, 126, 61, 100, 93, 25, 115, 96, 129, 79, 220, 34, 42, 144, 136, 70, 238, 184, 20, 222, 94, 11, 219] ++
  [224, 50, 58, 10, 73, 6, 36, 92, 194, 211, 172, 98, 145, 149, 228, 121, 231, 200, 55, 109, 141, 213, 78, 169, 108, 86, 244, 234, 101, 122, 174, 8] ++
  [186, 120, 37, 46, 28, 166, 180, 198, 232, 221, 116, 31, 75, 189, 139, 138, 112, 62, 181, 102, 72, 3, 246, 14, 97, 53, 87, 185, 134, 193, 29, 158] ++
  [225, 248, 152, 17, 105, 217, 142, 148, 155, 30, 135, 233, 206, 85, 40, 223, 140, 161, 137, 13, 191, 230, 66, 104, 65, 153, 45, 15, 176, 84, 187, 22]

def aesInvSbox : List Nat :=
  [82, 9, 106, 213, 48, 54, 165, 56, 191, 64, 163, 158, 129, 243, 215, 251, 124, 227, 57, 130, 155, 47, 255, 135, 52, 142, 67, 68, 196, 222, 233, 203] ++
  [84, 123, 148, 50, 166, 194, 35, 61, 238, 76, 149, 11, 66, 250, 195, 78, 8, 46, 161, 102, 40, 217, 36, 178, 118, 91, 162, 73, 109, 139, 209, 37] ++
  [114, 248, 246, 100, 134, 104, 152, 22, 212, 164, 92, 204, 93, 101, 182, 146, 108, 112, 72, 80, 253, 237, 185, 218, 94, 21, 70, 87, 167, 141, 157, 132] ++
  [144, 216, 171, 0, 140, 188, 211, 10, 247, 228, 88, 5, 184, 179, 69, 6, 208, 44, 30, 143, 202, 63, 15, 2, 193, 175, 189, 3, 1, 19, 138, 107] ++
  [58, 145, 17, 65, 79, 103, 220, 234, 151, 242, 207, 206, 240, 180, 230, 115, 150, 172, 116, 34, 231, 173, 53, 133, 226, 249, 55, 232, 28, 117, 223, 110] ++
  [71, 241, 26, 113, 29, 41, 197, 137, 111, 183, 98, 14, 170, 24, 190, 27, 252, 86, 62, 75, 198, 210, 121, 32, 154, 219, 192, 254, 120, 205, 90, 244] ++
  [31, 221, 168, 51, 136, 7, 199, 49, 177, 18, 16, 89, 39, 128, 236, 95, 96, 81, 127, 169, 25, 181, 74, 13, 45, 229, 122, 159, 147, 201, 156, 239] ++
  [160, 224, 59, 77, 174, 42, 245, 176, 200, 235, 187, 60, 131, 83, 153, 97, 23, 43, 4, 126, 186, 119, 214, 38, 225, 105, 20, 99, 85, 33, 12, 125]

def aesSub (b : Nat) : Nat := aesSbox.getD b 0
def aesInvSub (b : Nat) : Nat := aesInvSbox.getD b 0

/-- Multiplication by x in the field of AES. -/
def aesXtime (a : Nat) : Nat := if a ≥ 128 then ((2 * a) % 256) ^^^ 0x1B else 2 * a

/-- Multiplication by a constant below 16. -/
def aesMul (a c : Nat) : Nat :=
  let a2 := aesXtime a
  let a4 := aesXtime a2
  let a8 := aesXtime a4
  (if c % 2 = 1 then a else 0) ^^^ (if c / 2 % 2 = 1 then a2 else 0) ^^^ (if c / 4 % 2 = 1 then a4 else 0) ^^^
    (if c / 8 % 2 = 1 then a8 else 0)

/-- Bytes added in the field. -/
def xorBytes (a b : List Nat) : List Nat := List.zipWith (· ^^^ ·) a b

/-- The key schedule of AES-256: words of four bytes, newest first, extended `n` times. -/
def aesExpand : Nat → Nat → Nat → List (List Nat) → List (List Nat)
  | 0, _, _, ws => ws
  | n + 1, i, rcon, ws =>
    let prev := ws.headD []
    let base := ws.getD 7 []
    let t :=
      if i % 8 = 0 then xorBytes ((prev.drop 1 ++ prev.take 1).map aesSub) [rcon, 0, 0, 0]
      else if i % 8 = 4 then prev.map aesSub else prev
    aesExpand n (i + 1) (if i % 8 = 0 then aesXtime rcon else rcon) (xorBytes base t :: ws)

/-- The fifteen round keys of a 32-byte key. -/
def aesRoundKeys (key : List Nat) : List (List Nat) :=
  let w0 := (List.range 8).map fun i => (key.drop (4 * i)).take 4
  let ws := (aesExpand 52 8 1 w0.reverse).reverse
  (List.range 15).map fun r => ((ws.drop (4 * r)).take 4).flatten

def aesShiftRows (s : List Nat) : List Nat := (List.range 16).map fun i => s.getD ((i + 4 * (i % 4)) % 16) 0
def aesInvShiftRows (s : List Nat) : List Nat := (List.range 16).map fun i => s.getD ((i + 12 * (i % 4)) % 16) 0

/-- A column mixed by a circulant matrix with the row given. -/
def aesMix (row : List Nat) (s : List Nat) : List Nat :=
  (List.range 16).map fun i =>
    let c := i / 4
    let r := i % 4
    (List.range 4).foldl (fun acc k => acc ^^^ aesMul (s.getD (4 * c + k) 0) (row.getD ((k + 4 - r) % 4) 0)) 0

/-- One block encrypted. -/
def aesEncrypt (rks : List (List Nat)) (b : List Nat) : List Nat :=
  let s := xorBytes b (rks.headD [])
  let s := (List.range 13).foldl
    (fun s r => xorBytes (aesMix [2, 3, 1, 1] (aesShiftRows (s.map aesSub))) (rks.getD (r + 1) [])) s
  xorBytes (aesShiftRows (s.map aesSub)) (rks.getD 14 [])

/-- One block decrypted. -/
def aesDecrypt (rks : List (List Nat)) (b : List Nat) : List Nat :=
  let s := xorBytes b (rks.getD 14 [])
  let s := (List.range 13).foldl
    (fun s r => aesMix [14, 11, 13, 9] (xorBytes ((aesInvShiftRows s).map aesInvSub) (rks.getD (13 - r) []))) s
  xorBytes ((aesInvShiftRows s).map aesInvSub) (rks.headD [])

/-- The tweak of the next block. -/
def xtsNext (t : List Nat) : List Nat :=
  toLe 16 (let x := leNat (t.map (BitVec.ofNat 8)); if x ≥ 2 ^ 127 then (2 * x % 2 ^ 128) ^^^ 0x87 else 2 * x)
    |>.map BitVec.toNat

/-- The blocks of a data unit, each under its tweak. -/
def xtsBlocks (f : List Nat → List Nat) : Nat → List Nat → List Nat → List Nat
  | 0, _, _ => []
  | n + 1, t, bs => xorBytes (f (xorBytes (bs.take 16) t)) t ++ xtsBlocks f n (xtsNext t) (bs.drop 16)

/-- The bytes of the two halves of a key (R431). -/
def keyHalves (k : BitVec 512) : List Nat × List Nat :=
  (((toLe 32 (k.extractLsb' 0 256).toNat).map BitVec.toNat), ((toLe 32 (k.extractLsb' 256 256).toNat).map BitVec.toNat))

/-- AES-XTS-256 of one sector under a key, with the sector's number as tweak. -/
def xtsSector (enc : Bool) (k : BitVec 512) (tweak : Nat) (x : Sector) : Sector :=
  let (k1, k2) := keyHalves k
  let rks := aesRoundKeys k1
  let t := aesEncrypt (aesRoundKeys k2) ((toLe 16 tweak).map BitVec.toNat)
  let f := if enc then aesEncrypt rks else aesDecrypt rks
  Sector.ofBytes ((xtsBlocks f 4 t ((Sector.bytes x).map BitVec.toNat)).map (BitVec.ofNat 8))

end Sys2Proof.Machine
end

