-- ==== Sys2Proof/Machine/Encoding.lean ====
section
/-! DEFINITION. The encoding tables of the manual: the opcode map (R117), the fields of every instruction (R98, R153,
R174, R215, R240, R302, R304, R311, R322, R338, R370, R388, R420) and the rules of extension words (R99, R242, R323). -/

namespace Sys2Proof.Machine

/-- What an operand field holds. -/
inductive Fld where
  /-- Unused: all zero (R100). -/
  | none
  /-- A vector register and no channel. -/
  | reg
  /-- A vector register or a channel (R102). -/
  | vec
  /-- An even-odd pair (R101). -/
  | pair
  /-- Blocks of 2 and 8 registers, or a channel (R237). -/
  | b2 | b8
  /-- A block of 4 registers (R302, R370), a block of 8 registers without the channel form (R240). -/
  | b4 | b8r
  /-- A predicate, a rejoin mask (R101). -/
  | pred | rejoin
  /-- A channel only (R339). -/
  | chan
  /-- The ordering subfields with the DOMAIN, SCOPE, ORDER and HINT values allowed (R108, R302). -/
  | ord (ds ss os hs : List Nat)
  deriving DecidableEq, Repr

/-- What an extension word holds (R99, R153, R174, R242, R323, R338). -/
inductive ExtKind where
  /-- A 32-bit immediate that replaces source B; the low `bits` of it may be nonzero. -/
  | imm (mask : W32)
  /-- A 64-bit immediate that replaces source B. -/
  | imm64
  /-- A displacement (FB). -/
  | disp
  /-- A signed 32-bit offset (FM, GLAUNCH). -/
  | off
  /-- GJOIN: a child slot. -/
  | slot
  /-- BLUT: a lookup table. -/
  | lut
  /-- MMA and MMAQ (R242). -/
  | mma (scaled : Bool)
  /-- A copy command (R323): LEN, DSLOT, BAR and DDOM allowed nonzero. -/
  | cmd (len dslot bar ddom : Bool)
  | ring
  deriving DecidableEq, Repr

/-- The fields of one form of an instruction. -/
structure Shape where
  dst : Fld
  a : Fld
  b : Fld
  c : Fld
  ext : ExtKind
  deriving DecidableEq, Repr

/-- The instruction with an opcode: CCTL and SMAP are one constructor for each MOD (R318, R319). -/
def mkInstr (opc : Nat) (f : Form) : Option Instr :=
  match opc with
  | 0x000 => some (.nop f)
  | 0x001 => some (.bra f)
  | 0x002 => some (.brx f)
  | 0x003 => some (.call f)
  | 0x004 => some (.callx f)
  | 0x005 => some (.ret f)
  | 0x006 => some (.exit f)
  | 0x008 => some (.jenrol f)
  | 0x009 => some (.jwait f)
  | 0x00A => some (.yield f)
  | 0x00B => some (.sleep f)
  | 0x010 => some (.pcmp f)
  | 0x011 => some (.plog f)
  | 0x012 => some (.pmov f)
  | 0x013 => some (.pvote f)
  | 0x014 => some (.ballot f)
  | 0x020 => some (.glaunch f)
  | 0x021 => some (.gjoin f)
  | 0x030 => some (.trap f)
  | 0x031 => some (.brk f)
  | 0x080 => some (.iadd f)
  | 0x081 => some (.isub f)
  | 0x082 => some (.iaddc f)
  | 0x083 => some (.imul f)
  | 0x084 => some (.imulh f)
  | 0x085 => some (.imad f)
  | 0x086 => some (.imin f)
  | 0x087 => some (.imax f)
  | 0x088 => some (.iabs f)
  | 0x089 => some (.blut f)
  | 0x090 => some (.shl f)
  | 0x091 => some (.shr f)
  | 0x092 => some (.shra f)
  | 0x093 => some (.rot f)
  | 0x094 => some (.shd f)
  | 0x098 => some (.popc f)
  | 0x099 => some (.clz f)
  | 0x09A => some (.brev f)
  | 0x09B => some (.bfe f)
  | 0x09C => some (.bfi f)
  | 0x0A0 => some (.isel f)
  | 0x0A1 => some (.icmp f)
  | 0x0A8 => some (.mov f)
  | 0x0A9 => some (.movi f)
  | 0x0AA => some (.lea f)
  | 0x0AB => some (.bshuf f)
  | 0x0B0 => some (.dot4 f)
  | 0x0B1 => some (.sad f)
  | 0x0B2 => some (.idiv f)
  | 0x0C0 => some (.lxch f)
  | 0x0C1 => some (.lanebc f)
  | 0x0D0 => some (.rds f)
  | 0x0D1 => some (.iota f)
  | 0x180 => some (.fadd f)
  | 0x181 => some (.fsub f)
  | 0x182 => some (.fmul f)
  | 0x183 => some (.ffma f)
  | 0x184 => some (.fmin f)
  | 0x185 => some (.fmax f)
  | 0x186 => some (.fcmp f)
  | 0x187 => some (.fclass f)
  | 0x190 => some (.frcp f)
  | 0x191 => some (.frsq f)
  | 0x192 => some (.fsqrt f)
  | 0x193 => some (.fexp2 f)
  | 0x194 => some (.flog2 f)
  | 0x195 => some (.fsin f)
  | 0x196 => some (.fcos f)
  | 0x197 => some (.ftanh f)
  | 0x1A0 => some (.pkadd f)
  | 0x1A1 => some (.pkmul f)
  | 0x1A2 => some (.pkfma f)
  | 0x1A3 => some (.bfma2 f)
  | 0x1B0 => some (.dadd f)
  | 0x1B1 => some (.dmul f)
  | 0x1B2 => some (.dfma f)
  | 0x1C0 => some (.cvt f)
  | 0x1C1 => some (.qcvt f)
  | 0x1C2 => some (.dqcvt f)
  | 0x1D0 => some (.amaxr f)
  | 0x1D1 => some (.qscale f)
  | 0x1E0 => some (.fsetmode f)
  | 0x1E1 => some (.fflags f)
  | 0x280 => some (.mma f)
  | 0x281 => some (.mmaq f)
  | 0x288 => some (.scld f)
  | 0x289 => some (.scrd f)
  | 0x290 => some (.fragx f)
  | 0x291 => some (.acccvt f)
  | 0x300 => some (.ld f)
  | 0x301 => some (.ldk f)
  | 0x308 => some (.st f)
  | 0x310 => some (.atom f)
  | 0x311 => some (.red f)
  | 0x318 => some (.fence f)
  | 0x319 => some (.bridge f)
  | 0x320 =>
    match f.mod.toNat with
    | 0 => some (.cctlIvi f)
    | 1 => some (.cctlWb f)
    | 2 => some (.cctlInv f)
    | 3 => some (.cctlPf f)
    | 4 => some (.cctlPfs f)
    | _ => none
  | 0x328 =>
    match f.mod.toNat with
    | 0 => some (.smapMap f)
    | 1 => some (.smapUnmap f)
    | _ => none
  | 0x329 => some (.swb f)
  | 0x32A => some (.sdrop f)
  | 0x380 => some (.tcopy f)
  | 0x381 => some (.tdesc f)
  | 0x382 => some (.gather f)
  | 0x383 => some (.scatter f)
  | 0x384 => some (.rcopy f)
  | 0x385 => some (.coll f)
  | 0x390 => some (.waitc f)
  | 0x398 => some (.push f)
  | 0x399 => some (.pop f)
  | 0x39A => some (.ringinit f)
  | 0x3C0 => some (.binit f)
  | 0x3C1 => some (.barrive f)
  | 0x3C2 => some (.barriveb f)
  | 0x3C3 => some (.bwait f)
  | 0x3C4 => some (.btest f)
  | 0x3C5 => some (.binval f)
  | 0x3E0 => some (.rett f)
  | 0x3E1 => some (.rdside f)
  | 0x3E2 => some (.wrctx f)
  | 0x3E3 => some (.dgread f)
  | 0x3E4 => some (.haltself f)
  | _ => none

/-- The opcode and the fields of an instruction; `none` for the steps of other agents. -/
def opcodeOf (i : Instr) : Option (Nat × Form) :=
  match i with
  | .nop f => some (0x000, f)
  | .bra f => some (0x001, f)
  | .brx f => some (0x002, f)
  | .call f => some (0x003, f)
  | .callx f => some (0x004, f)
  | .ret f => some (0x005, f)
  | .exit f => some (0x006, f)
  | .jenrol f => some (0x008, f)
  | .jwait f => some (0x009, f)
  | .yield f => some (0x00A, f)
  | .sleep f => some (0x00B, f)
  | .pcmp f => some (0x010, f)
  | .plog f => some (0x011, f)
  | .pmov f => some (0x012, f)
  | .pvote f => some (0x013, f)
  | .ballot f => some (0x014, f)
  | .glaunch f => some (0x020, f)
  | .gjoin f => some (0x021, f)
  | .trap f => some (0x030, f)
  | .brk f => some (0x031, f)
  | .iadd f => some (0x080, f)
  | .isub f => some (0x081, f)
  | .iaddc f => some (0x082, f)
  | .imul f => some (0x083, f)
  | .imulh f => some (0x084, f)
  | .imad f => some (0x085, f)
  | .imin f => some (0x086, f)
  | .imax f => some (0x087, f)
  | .iabs f => some (0x088, f)
  | .blut f => some (0x089, f)
  | .shl f => some (0x090, f)
  | .shr f => some (0x091, f)
  | .shra f => some (0x092, f)
  | .rot f => some (0x093, f)
  | .shd f => some (0x094, f)
  | .popc f => some (0x098, f)
  | .clz f => some (0x099, f)
  | .brev f => some (0x09A, f)
  | .bfe f => some (0x09B, f)
  | .bfi f => some (0x09C, f)
  | .isel f => some (0x0A0, f)
  | .icmp f => some (0x0A1, f)
  | .mov f => some (0x0A8, f)
  | .movi f => some (0x0A9, f)
  | .lea f => some (0x0AA, f)
  | .bshuf f => some (0x0AB, f)
  | .dot4 f => some (0x0B0, f)
  | .sad f => some (0x0B1, f)
  | .idiv f => some (0x0B2, f)
  | .lxch f => some (0x0C0, f)
  | .lanebc f => some (0x0C1, f)
  | .rds f => some (0x0D0, f)
  | .iota f => some (0x0D1, f)
  | .fadd f => some (0x180, f)
  | .fsub f => some (0x181, f)
  | .fmul f => some (0x182, f)
  | .ffma f => some (0x183, f)
  | .fmin f => some (0x184, f)
  | .fmax f => some (0x185, f)
  | .fcmp f => some (0x186, f)
  | .fclass f => some (0x187, f)
  | .frcp f => some (0x190, f)
  | .frsq f => some (0x191, f)
  | .fsqrt f => some (0x192, f)
  | .fexp2 f => some (0x193, f)
  | .flog2 f => some (0x194, f)
  | .fsin f => some (0x195, f)
  | .fcos f => some (0x196, f)
  | .ftanh f => some (0x197, f)
  | .pkadd f => some (0x1A0, f)
  | .pkmul f => some (0x1A1, f)
  | .pkfma f => some (0x1A2, f)
  | .bfma2 f => some (0x1A3, f)
  | .dadd f => some (0x1B0, f)
  | .dmul f => some (0x1B1, f)
  | .dfma f => some (0x1B2, f)
  | .cvt f => some (0x1C0, f)
  | .qcvt f => some (0x1C1, f)
  | .dqcvt f => some (0x1C2, f)
  | .amaxr f => some (0x1D0, f)
  | .qscale f => some (0x1D1, f)
  | .fsetmode f => some (0x1E0, f)
  | .fflags f => some (0x1E1, f)
  | .mma f => some (0x280, f)
  | .mmaq f => some (0x281, f)
  | .scld f => some (0x288, f)
  | .scrd f => some (0x289, f)
  | .fragx f => some (0x290, f)
  | .acccvt f => some (0x291, f)
  | .ld f => some (0x300, f)
  | .ldk f => some (0x301, f)
  | .st f => some (0x308, f)
  | .atom f => some (0x310, f)
  | .red f => some (0x311, f)
  | .fence f => some (0x318, f)
  | .bridge f => some (0x319, f)
  | .cctlIvi f => some (0x320, f)
  | .cctlWb f => some (0x320, f)
  | .cctlInv f => some (0x320, f)
  | .cctlPf f => some (0x320, f)
  | .cctlPfs f => some (0x320, f)
  | .smapMap f => some (0x328, f)
  | .smapUnmap f => some (0x328, f)
  | .swb f => some (0x329, f)
  | .sdrop f => some (0x32A, f)
  | .tcopy f => some (0x380, f)
  | .tdesc f => some (0x381, f)
  | .gather f => some (0x382, f)
  | .scatter f => some (0x383, f)
  | .rcopy f => some (0x384, f)
  | .coll f => some (0x385, f)
  | .waitc f => some (0x390, f)
  | .push f => some (0x398, f)
  | .pop f => some (0x399, f)
  | .ringinit f => some (0x39A, f)
  | .binit f => some (0x3C0, f)
  | .barrive f => some (0x3C1, f)
  | .barriveb f => some (0x3C2, f)
  | .bwait f => some (0x3C3, f)
  | .btest f => some (0x3C4, f)
  | .binval f => some (0x3C5, f)
  | .rett f => some (0x3E0, f)
  | .rdside f => some (0x3E1, f)
  | .wrctx f => some (0x3E2, f)
  | .dgread f => some (0x3E3, f)
  | .haltself f => some (0x3E4, f)
  | .issueGroupBuild _ _ => none
  | .subsetRetirement _ _ _ => none
  | .sleepExpiry _ _ => none
  | .swapTrigger _ => none
  | .swap _ => none
  | .loadDataArrival _ _ _ => none
  | .remoteReplyArrival _ _ _ => none
  | .storeAck _ _ _ => none
  | .storeQueueRelease _ _ => none
  | .atomicReply _ _ _ => none
  | .ringAck _ _ _ => none
  | .barrierReply _ _ _ => none
  | .mmaComplete _ _ _ => none
  | .fenceComplete _ _ _ => none
  | .slicePerform _ => none
  | .invalidationArrival _ => none
  | .writePropagated _ _ => none
  | .extSnoop _ => none
  | .snoopFilterEvict _ _ => none
  | .l1Eviction _ _ _ => none
  | .stashRecall _ _ _ => none
  | .engineAccess _ _ => none
  | .tdescComplete _ _ => none
  | .copyComplete _ _ => none
  | .ringReserve _ _ => none
  | .ringFill _ _ => none
  | .wakeArrival _ => none
  | .registrationRetry _ _ => none
  | .deadlineBoost _ => none
  | .neighbourEntryArrival _ _ => none
  | .queuePost _ => none
  | .frameSend _ => none
  | .frameReceive _ _ => none
  | .controlBlockReread _ => none
  | .qcmdEnable _ => none
  | .qcmdDisable _ => none
  | .packetConsume _ => none
  | .dependenceSatisfied _ => none
  | .teamPlace _ => none
  | .coResidentAdmit _ => none
  | .childLaunch _ => none
  | .teamRetire _ => none
  | .gridRetire _ => none
  | .serialisedExecution _ => none
  | .preemptSave _ => none
  | .wakeEvaluate _ => none
  | .teamRestore _ _ => none
  | .faultPark _ => none
  | .fqtake _ _ => none
  | .fqresolve _ _ => none
  | .fqresolveFail _ _ => none
  | .watchdog _ _ => none
  | .halt _ => none
  | .uncorrectable _ _ _ => none
  | .dieFailure _ => none
  | .crossDieTimeout _ _ => none
  | .crossLinkTimeout _ _ => none
  | .slotSend _ => none
  | .slotReceive _ _ => none
  | .slotResend _ _ => none
  | .routerForward _ _ => none
  | .sliceAdmission _ => none
  | .socketAdmission _ => none
  | .flitSend _ => none
  | .flitReceive _ _ => none
  | .nakRepeat _ => none
  | .ackTimeout _ => none
  | .controlFlitSend _ => none
  | .controlFlitReceive _ _ => none
  | .lossOfLight _ _ _ => none
  | .restripe _ _ _ => none
  | .linkEventRecord _ => none
  | .linkLost _ => none
  | .retrainEnd _ _ _ => none
  | .protectionEnter _ _ => none
  | .protectionRelease _ => none
  | .resetComplete _ => none
  | .rdmaWrite _ _ _ => none
  | .rdmaRead _ _ _ => none
  | .remoteOperationError _ => none
  | .registerWrite _ _ => none
  | .errClear => none
  | .freeze _ => none
  | .counterClear _ => none
  | .ctxdescCreate _ _ => none
  | .reload _ => none
  | .kill _ => none
  | .preq _ _ => none
  | .dbgbrk _ _ => none
  | .scbchk _ _ => none
  | .qcbWrite _ _ => none
  | .qctxWrite _ _ => none
  | .queueOwnerWrite _ _ => none
  | .granuleOwnerWrite _ _ => none
  | .pcmdCreate _ => none
  | .pcmdClear _ => none
  | .digsvcReexecute _ _ => none
  | .digsvcFault _ _ => none
  | .qgrant _ _ => none
  | .dbghalt _ _ => none
  | .debugSave _ => none
  | .debugResume _ => none
  | .linksvcWait _ _ => none
  | .linksvcLinklost _ _ => none
  | .keycmdLoad _ => none
  | .keycmdUnload _ => none
  | .powerCommand _ _ => none
  | .spopReset _ => none
  | .spopFence _ => none
  | .spopReturn _ => none
  | .restore _ _ _ _ => none
  | .boot _ => none
  | .getVersion _ => none
  | .getCapabilities _ => none
  | .negotiateAlgorithms _ => none
  | .getDigests _ => none
  | .getCertificate _ => none
  | .challenge _ => none
  | .getMeasurements _ => none
  | .translationInvalidation _ _ _ => none

/-- Whether an opcode has a one-word and a two-word form (R117); `none` for an unassigned value. -/
def wordForms (opc : Nat) : Option (Bool × Bool) :=
  match opc with
  | 0x000 => some (true, false)
  | 0x001 => some (false, true)
  | 0x002 => some (true, false)
  | 0x003 => some (false, true)
  | 0x004 => some (true, false)
  | 0x005 => some (true, false)
  | 0x006 => some (true, false)
  | 0x008 => some (true, false)
  | 0x009 => some (true, false)
  | 0x00A => some (true, false)
  | 0x00B => some (true, true)
  | 0x010 => some (true, true)
  | 0x011 => some (true, false)
  | 0x012 => some (true, false)
  | 0x013 => some (true, false)
  | 0x014 => some (true, false)
  | 0x020 => some (true, true)
  | 0x021 => some (true, true)
  | 0x030 => some (true, true)
  | 0x031 => some (true, true)
  | 0x080 => some (true, true)
  | 0x081 => some (true, true)
  | 0x082 => some (true, true)
  | 0x083 => some (true, true)
  | 0x084 => some (true, true)
  | 0x085 => some (true, true)
  | 0x086 => some (true, true)
  | 0x087 => some (true, true)
  | 0x088 => some (true, false)
  | 0x089 => some (false, true)
  | 0x090 => some (true, true)
  | 0x091 => some (true, true)
  | 0x092 => some (true, true)
  | 0x093 => some (true, true)
  | 0x094 => some (true, true)
  | 0x098 => some (true, false)
  | 0x099 => some (true, false)
  | 0x09A => some (true, false)
  | 0x09B => some (true, true)
  | 0x09C => some (true, true)
  | 0x0A0 => some (true, false)
  | 0x0A1 => some (true, true)
  | 0x0A8 => some (true, false)
  | 0x0A9 => some (false, true)
  | 0x0AA => some (true, true)
  | 0x0AB => some (true, true)
  | 0x0B0 => some (true, false)
  | 0x0B1 => some (true, false)
  | 0x0B2 => some (true, false)
  | 0x0C0 => some (true, true)
  | 0x0C1 => some (true, true)
  | 0x0D0 => some (true, false)
  | 0x0D1 => some (true, false)
  | 0x180 => some (true, true)
  | 0x181 => some (true, true)
  | 0x182 => some (true, true)
  | 0x183 => some (true, true)
  | 0x184 => some (true, true)
  | 0x185 => some (true, true)
  | 0x186 => some (true, true)
  | 0x187 => some (true, false)
  | 0x190 => some (true, false)
  | 0x191 => some (true, false)
  | 0x192 => some (true, false)
  | 0x193 => some (true, false)
  | 0x194 => some (true, false)
  | 0x195 => some (true, false)
  | 0x196 => some (true, false)
  | 0x197 => some (true, false)
  | 0x1A0 => some (true, true)
  | 0x1A1 => some (true, true)
  | 0x1A2 => some (true, true)
  | 0x1A3 => some (true, true)
  | 0x1B0 => some (true, false)
  | 0x1B1 => some (true, false)
  | 0x1B2 => some (true, false)
  | 0x1C0 => some (true, false)
  | 0x1C1 => some (true, false)
  | 0x1C2 => some (true, false)
  | 0x1D0 => some (true, true)
  | 0x1D1 => some (true, true)
  | 0x1E0 => some (true, true)
  | 0x1E1 => some (true, true)
  | 0x280 => some (true, true)
  | 0x281 => some (true, true)
  | 0x288 => some (true, true)
  | 0x289 => some (true, false)
  | 0x290 => some (true, false)
  | 0x291 => some (true, false)
  | 0x300 => some (true, true)
  | 0x301 => some (true, true)
  | 0x308 => some (true, true)
  | 0x310 => some (true, true)
  | 0x311 => some (true, true)
  | 0x318 => some (true, false)
  | 0x319 => some (true, false)
  | 0x320 => some (true, true)
  | 0x328 => some (true, true)
  | 0x329 => some (true, true)
  | 0x32A => some (true, true)
  | 0x380 => some (true, true)
  | 0x381 => some (true, true)
  | 0x382 => some (true, true)
  | 0x383 => some (true, true)
  | 0x384 => some (false, true)
  | 0x385 => some (false, true)
  | 0x390 => some (true, true)
  | 0x398 => some (true, false)
  | 0x399 => some (true, false)
  | 0x39A => some (false, true)
  | 0x3C0 => some (true, true)
  | 0x3C1 => some (true, true)
  | 0x3C2 => some (true, true)
  | 0x3C3 => some (true, true)
  | 0x3C4 => some (true, true)
  | 0x3C5 => some (true, true)
  | 0x3E0 => some (true, false)
  | 0x3E1 => some (true, false)
  | 0x3E2 => some (true, true)
  | 0x3E3 => some (true, false)
  | 0x3E4 => some (true, false)
  | _ => none

/-- The latency of a class, or the two classes without one (R111). -/
inductive Class where
  | i | f | m | d | s | v | n
  deriving DecidableEq, Repr

/-- Core cycles L of the fixed-latency classes. -/
def Class.latency : Class → Nat
  | .i => 4
  | .f => 5
  | .m => 6
  | .d => 10
  | .s => 14
  | .v => 0
  | .n => 0

/-- The latency class of an opcode (R117). -/
def classOf (opc : Nat) : Class :=
  match opc with
  | 0x003 => .i
  | 0x004 => .i
  | 0x008 => .i
  | 0x010 => .i
  | 0x011 => .i
  | 0x012 => .i
  | 0x013 => .m
  | 0x014 => .m
  | 0x020 => .v
  | 0x021 => .v
  | 0x080 => .i
  | 0x081 => .i
  | 0x082 => .i
  | 0x083 => .m
  | 0x084 => .m
  | 0x085 => .m
  | 0x086 => .i
  | 0x087 => .i
  | 0x088 => .i
  | 0x089 => .i
  | 0x090 => .i
  | 0x091 => .i
  | 0x092 => .i
  | 0x093 => .i
  | 0x094 => .i
  | 0x098 => .i
  | 0x099 => .i
  | 0x09A => .i
  | 0x09B => .i
  | 0x09C => .i
  | 0x0A0 => .i
  | 0x0A1 => .i
  | 0x0A8 => .i
  | 0x0A9 => .i
  | 0x0AA => .i
  | 0x0AB => .i
  | 0x0B0 => .m
  | 0x0B1 => .m
  | 0x0B2 => .v
  | 0x0C0 => .m
  | 0x0C1 => .m
  | 0x0D0 => .i
  | 0x0D1 => .i
  | 0x180 => .f
  | 0x181 => .f
  | 0x182 => .f
  | 0x183 => .f
  | 0x184 => .f
  | 0x185 => .f
  | 0x186 => .f
  | 0x187 => .f
  | 0x190 => .s
  | 0x191 => .s
  | 0x192 => .s
  | 0x193 => .s
  | 0x194 => .s
  | 0x195 => .s
  | 0x196 => .s
  | 0x197 => .s
  | 0x1A0 => .f
  | 0x1A1 => .f
  | 0x1A2 => .f
  | 0x1A3 => .f
  | 0x1B0 => .d
  | 0x1B1 => .d
  | 0x1B2 => .d
  | 0x1C0 => .f
  | 0x1C1 => .f
  | 0x1C2 => .f
  | 0x1D0 => .v
  | 0x1D1 => .v
  | 0x1E0 => .i
  | 0x1E1 => .i
  | 0x280 => .v
  | 0x281 => .v
  | 0x288 => .v
  | 0x289 => .v
  | 0x290 => .m
  | 0x291 => .f
  | 0x300 => .v
  | 0x301 => .v
  | 0x310 => .v
  | 0x399 => .v
  | 0x3C1 => .v
  | 0x3C4 => .v
  | 0x3E1 => .v
  | 0x3E3 => .v
  | _ => .n

/-- A 64-bit operand for the integer types T = 2, 3 (R171), else a vector. -/
def vp (t : Nat) : Fld := if t / 2 % 2 = 1 then .pair else .vec

/-- The immediate of integer type T. -/
def immT (t : Nat) : ExtKind := if t / 2 % 2 = 1 then .imm64 else .imm 0xFFFFFFFF

def imm32 : ExtKind := .imm 0xFFFFFFFF

/-- FM with every DOMAIN, SCOPE and HINT, and the ORDER values given. -/
def ordOf (os hs : List Nat) : Fld := .ord [0, 1, 2, 3, 4] [0, 1, 2, 3, 4, 5] os hs

/-- The ordering subfields of barrier instructions (R370). -/
def ordBar : Fld := .ord [0] [0, 1, 2, 3, 4, 5] [0] [0]

/-- The ordering subfields that must all be zero. -/
def ordZero : Fld := .ord [0] [0] [0] [0]

/-- The register shape of an access kind (R304). -/
def kindFld (kind : Nat) : Fld :=
  if kind = 4 ∨ kind = 8 ∨ kind = 12 then .pair else if kind ≥ 20 then .b4 else .vec

/-- Access width of an atomic (R311). -/
def atomWidth (mod : Nat) : Nat :=
  if mod = 1 ∨ (6 ≤ mod ∧ mod ≤ 9) ∨ (13 ≤ mod ∧ mod ≤ 15) ∨ mod = 17 ∨ mod = 19 ∨ mod = 23 then 8 else 4

/-- Register shape of an atomic's operand B and of its result (R311). -/
def atomB (mod : Nat) : Fld :=
  if mod = 18 then .pair else if mod = 19 then .b4 else if atomWidth mod = 8 then .pair else .vec
def atomD (mod : Nat) : Fld := if atomWidth mod = 8 then .pair else .vec

/-- The fields of an opcode by MOD, for the short form and, where `long`, for the long form, in which an immediate
replaces source B (R99). `bar` is bit [24] of the extension word (R323). `none`: MOD is not listed. -/
def fields (opc mod : Nat) (long bar : Bool) : Option Shape :=
  let b (k : Fld) : Fld := if long then .none else k
  let sh (d a b c : Fld) (e : ExtKind) : Option Shape := some ⟨d, a, b, c, e⟩
  let bc : Fld := if bar then .pair else .none
  match opc with
  -- control and predicates (R153)
  | 0x000 | 0x006 | 0x00A => if mod = 0 then sh .none .none .none .none imm32 else none
  | 0x001 => if mod = 0 then sh .none .none .none .none .disp else none
  | 0x002 | 0x005 => if mod = 0 then sh .none .pair .none .none imm32 else none
  | 0x003 => if mod = 0 then sh .pair .none .none .none .disp else none
  | 0x004 => if mod = 0 then sh .pair .pair .none .none imm32 else none
  | 0x008 => if mod ≤ 1 then sh .rejoin .none .none .none imm32 else none
  | 0x009 => if mod = 0 then sh .none .rejoin .none .none imm32 else none
  | 0x00B | 0x030 | 0x031 => if mod = 0 then sh .none .none (b .vec) .none imm32 else none
  | 0x010 => if mod ≤ 23 then sh .pred (vp mod) (b (vp mod)) .none (immT mod) else none
  | 0x011 => if mod ≤ 7 then sh .pred .pred .pred .none imm32 else none
  | 0x012 =>
    match mod with
    | 0 => sh .pred .pred .none .none imm32
    | 1 => sh .vec .pred .none .none imm32
    | 2 => sh .pred .vec .none .none imm32
    | 3 => sh .pred .none .none .none imm32
    | 4 => sh .pred .none .none .none imm32
    | _ => none
  | 0x013 => if mod ≤ 2 then sh .pred .pred .none .none imm32 else none
  | 0x014 => if mod = 0 then sh .vec .pred .none .none imm32 else none
  | 0x020 => if mod = 0 then sh .vec .pair .none .none .off else none
  | 0x021 => if mod ≤ 1 then sh .vec (b .vec) .none .none .slot else none
  -- integer, address and lane (R174)
  | 0x080 | 0x081 => if mod ≤ 7 then sh (vp mod) (vp mod) (b (vp mod)) .none (immT mod) else none
  | 0x082 => if mod = 1 ∨ mod = 5 then sh .vec .vec (b .vec) .pred imm32 else none
  | 0x083 | 0x084 | 0x086 | 0x087 =>
    if mod ≤ 3 then sh (vp mod) (vp mod) (b (vp mod)) .none (immT mod) else none
  | 0x085 => if mod ≤ 3 then sh (vp mod) (vp mod) (b (vp mod)) (vp mod) (immT mod) else none
  | 0x088 => if mod = 0 ∨ mod = 2 ∨ mod = 4 ∨ mod = 6 then sh (vp mod) (vp mod) .none .none imm32 else none
  | 0x089 => if mod = 0 then sh .vec .vec .vec .vec .lut else none
  | 0x090 | 0x091 | 0x093 => if mod = 1 ∨ mod = 3 then sh (vp mod) (vp mod) (b .vec) .none imm32 else none
  | 0x092 => if mod = 0 ∨ mod = 2 then sh (vp mod) (vp mod) (b .vec) .none imm32 else none
  | 0x094 => if mod = 0 ∨ mod = 1 ∨ mod = 4 ∨ mod = 5 then sh .vec .vec (b .vec) .vec imm32 else none
  | 0x098 | 0x099 => if mod = 1 ∨ mod = 3 then sh .vec (vp mod) .none .none imm32 else none
  | 0x09A => if mod = 1 ∨ mod = 3 then sh (vp mod) (vp mod) .none .none imm32 else none
  | 0x09B => if mod ≤ 1 then sh .vec .vec (b .vec) .none imm32 else none
  | 0x09C => if mod = 0 then sh .vec .vec (b .vec) .vec imm32 else none
  | 0x0A0 => if mod = 0 ∨ mod = 2 then sh (vp mod) (vp mod) (vp mod) .pred imm32 else none
  | 0x0A1 => if mod ≤ 23 then sh .vec (vp mod) (b (vp mod)) .none (immT mod) else none
  | 0x0A8 => if mod = 0 ∨ mod = 2 then sh (vp mod) (vp mod) .none .none imm32 else none
  | 0x0A9 =>
    if mod ≤ 9 then sh .vec .none .none .none imm32
    else if mod = 10 ∨ mod = 16 then sh .pair .none .none .none .imm64
    else none
  | 0x0AA => if mod % 4 ≤ 1 then sh .pair .pair (b .vec) .none imm32 else none
  | 0x0AB => if mod = 0 then sh .vec .vec (b .vec) .vec imm32 else none
  | 0x0B0 => if mod % 4 ≤ 2 ∧ mod ≤ 6 then sh .vec .vec .vec .vec imm32 else none
  | 0x0B1 => if mod ≤ 1 then sh .vec .vec .vec .vec imm32 else none
  | 0x0B2 => if mod ≤ 15 then sh (vp mod) (vp mod) (vp mod) .none imm32 else none
  | 0x0C0 => if mod ≤ 7 then sh .vec .vec (b .vec) (if mod ≥ 4 then .pred else .none) imm32 else none
  | 0x0C1 =>
    if mod = 0 ∨ mod = 4 then sh .vec .vec (b .vec) (if mod = 4 then .pred else .none) imm32
    else if mod = 1 ∨ mod = 5 then sh .vec .vec .none (if mod = 5 then .pred else .none) imm32
    else none
  | 0x0D0 => if mod ≤ 18 then sh .vec .none .none .none imm32
             else if mod ≤ 20 then sh .pair .none .none .none imm32 else none
  | 0x0D1 => if mod ≤ 7 then sh .vec .vec .none .none imm32 else none
  -- float, conversion and quantisation (R215, R226)
  | 0x180 | 0x181 | 0x182 | 0x184 | 0x185 => if mod = 9 then sh .vec .vec (b .vec) .none imm32 else none
  | 0x183 => if mod = 9 ∨ mod = 25 then sh .vec .vec (b .vec) .vec imm32 else none
  | 0x186 =>
    if mod ≤ 7 then sh .vec .vec (b .vec) .none imm32
    else if mod ≤ 15 then sh .vec .pair (b .pair) .none .imm64 else none
  | 0x187 => if mod = 9 then sh .vec .vec .none .none imm32
             else if mod = 12 then sh .vec .pair .none .none imm32 else none
  | 0x190 | 0x191 | 0x192 | 0x193 | 0x194 | 0x195 | 0x196 | 0x197 =>
    if mod = 9 then sh .vec .vec .none .none imm32 else none
  | 0x1A0 | 0x1A1 => if mod = 10 ∨ mod = 11 then sh .vec .vec (b .vec) .none imm32 else none
  | 0x1A2 => if mod = 10 ∨ mod = 11 ∨ mod = 26 ∨ mod = 27 then sh .vec .vec (b .vec) .vec imm32 else none
  | 0x1A3 => if mod = 11 then sh .vec .vec (b .vec) .vec imm32 else none
  | 0x1B0 => if mod = 12 ∨ mod = 28 then sh .pair .pair .pair .none imm32 else none
  | 0x1B1 => if mod = 12 then sh .pair .pair .pair .none imm32 else none
  | 0x1B2 => if mod = 12 ∨ mod = 28 then sh .pair .pair .pair .pair imm32 else none
  | 0x1C0 =>
    if mod ≤ 3 then sh .vec .vec .vec .none imm32
    else if mod ≤ 11 then sh .vec .vec .vec .vec imm32
    else if mod ≤ 13 then sh .vec .pair .none .none imm32
    else if mod = 14 then sh .pair .vec .none .none imm32
    else if mod ≤ 26 then sh .vec .vec .none .none imm32
    else if mod = 27 then sh .vec .vec .vec .none imm32
    else if mod ≤ 29 then sh .pair .pair .none .none imm32
    else none
  | 0x1C1 => if mod = 0 then sh .vec .vec .vec .vec imm32
             else if mod ≤ 6 then sh .vec .vec .none .vec imm32 else none
  | 0x1C2 => if mod ≤ 1 then sh .vec .vec .vec .vec imm32
             else if mod ≤ 7 then sh .vec .vec .none .vec imm32 else none
  | 0x1D0 => if mod = 9 ∨ mod = 10 ∨ mod = 11 then sh .vec .pair .vec (ordOf [0, 2] [0]) .off else none
  | 0x1D1 => if mod ≤ 15 ∧ mod % 8 ≤ 6 then sh .vec .pair .none (ordOf [0, 1, 2, 3] [0]) .off else none
  | 0x1E0 => if mod = 0 then sh .vec .none (b .vec) .none (.imm 0xE0) else none
  | 0x1E1 => if mod = 0 then sh .vec .none (b .vec) .none (.imm 0x1F) else none
  -- matrix (R240)
  | 0x280 =>
    if mod % 16 ≤ 11 then sh .b8 .b8 .b2 (if mod ≥ 16 then .none else .b8) (.mma false) else none
  | 0x281 =>
    if mod = 0 then sh .b8 .b8 .b2 .b8 (.mma true)
    else if mod = 16 then sh .b8 .b8 .b2 .none (.mma true) else none
  | 0x288 => if mod ≤ 1 then sh .vec .pair .none (ordOf [0, 1] [0, 1, 2, 3]) .off else none
  | 0x289 => if mod ≤ 1 then sh .vec .none .none .none imm32 else none
  | 0x290 => if mod = 0 then sh .vec .b8r .vec .none imm32 else none
  | 0x291 =>
    if mod ≤ 3 then sh .vec .vec .none .none imm32
    else if mod ≤ 5 then sh .vec .vec .vec .none imm32
    else if mod ≤ 9 then sh .vec .vec .vec .vec imm32 else none
  -- memory and atomics (R302, R304, R311)
  | 0x300 => sh (kindFld mod) .pair .none (ordOf [0, 1] [0, 1, 2, 3]) .off
  | 0x301 => sh (kindFld mod) .pair .none (.ord [0, 4] [0, 1, 2, 3, 4, 5] [0] [0, 2]) .off
  | 0x308 => sh .none .pair (kindFld mod) (ordOf [0, 2] [0, 1, 2, 3]) .off
  | 0x310 => if mod ≤ 27 then sh (atomD mod) .pair (atomB mod) (ordOf [0, 1, 2, 3] [0, 1, 2, 3]) .off else none
  | 0x311 =>
    if mod ≤ 15 ∨ (20 ≤ mod ∧ mod ≤ 27) then sh .none .pair (atomB mod) (ordOf [0, 2] [0, 1, 2, 3]) .off else none
  | 0x318 => if mod = 0 then sh .none .none .none (ordOf [0, 1, 2, 3] [0]) .off else none
  | 0x319 => if mod ≤ 4 then sh .none .none .none (ordOf [0] [0]) .off else none
  | 0x320 =>
    if mod = 0 then sh .none .pair .none (.ord [0] [0, 1, 2, 3, 4] [0] [0]) .off
    else if mod ≤ 4 then sh .none .pair .none ordZero .off else none
  | 0x328 => if mod = 0 then sh .none .pair .pair ordZero .off
             else if mod = 1 then sh .none .pair .none ordZero .off else none
  | 0x329 | 0x32A => if mod = 0 then sh .none .pair .none ordZero .off
                     else if mod = 1 then sh .none .none .none ordZero .off else none
  -- engines and channels (R322, R323, R338)
  | 0x380 => if mod = 0 then sh .none .vec .none bc (.cmd false true true true)
             else if mod = 1 then sh .chan .vec .none bc (.cmd false true true false) else none
  | 0x381 => if mod = 0 then sh .none .pair .none .none (.cmd false true false false) else none
  | 0x382 => if mod ≤ 4 then sh .none .pair .pair bc (.cmd false false true true)
             else if 8 ≤ mod ∧ mod ≤ 12 then sh .chan .pair .none bc (.cmd false false true false) else none
  | 0x383 => if mod ≤ 4 then sh .none .pair .pair bc (.cmd false false true true) else none
  | 0x384 => if mod = 0 then sh .none .pair .pair bc (.cmd true false true true) else none
  | 0x385 => if mod ≤ 7 then sh .none .pair .pair bc (.cmd true false true true) else none
  | 0x390 => if mod ≤ 3 then sh .none .none (b .vec) .none imm32 else none
  | 0x398 => if mod = 0 then sh .chan .vec .none .none imm32 else none
  | 0x399 => if mod = 0 then sh .vec .chan .none .none imm32 else none
  | 0x39A => if mod = 0 then sh .none .none .none .none .ring else none
  -- synchronisation (R370)
  | 0x3C0 => if mod = 0 then sh .none .pair .b4 ordBar .off else none
  | 0x3C1 => if mod ≤ 3 then sh .vec .pair (if mod ≥ 2 then .vec else .none) ordBar .off else none
  | 0x3C2 => if mod ≤ 1 then sh .none .pair .vec ordBar .off else none
  | 0x3C3 => if mod = 0 then sh .none .pair .vec ordBar .off else none
  | 0x3C4 => if mod = 0 then sh .vec .pair .vec ordBar .off
             else if mod = 1 then sh .vec .pair .none ordBar .off else none
  | 0x3C5 => if mod = 0 then sh .none .pair .none ordBar .off else none
  -- system (R388, R420)
  | 0x3E0 | 0x3E4 => if mod = 0 then sh .none .none .none .none imm32 else none
  | 0x3E1 => if mod = 0 then sh .reg .none .none .none imm32 else none
  | 0x3E2 => if mod = 0 then sh .none .none (b .pair) .none .imm64
             else if mod = 1 then sh .none .none (b .reg) .none imm32 else none
  | 0x3E3 => if mod ≤ 1 then sh .pair .none .none .none imm32 else none
  | _ => none

/-- Whether an extension word keeps the rules of its kind. -/
def extOk (k : ExtKind) (e : W64) : Bool :=
  match k with
  | .imm m => e &&& ~~~(m.setWidth 64) == 0
  | .imm64 => true
  | .disp => e.extractLsb' 0 3 == 0
  | .off => e.extractLsb' 32 32 == 0
  | .slot => e.extractLsb' 4 60 == 0
  | .lut => e.extractLsb' 8 56 == 0
  | .mma scaled =>
    (e.extractLsb' 4 4 == 0) && (e.extractLsb' 40 24 == 0) && decide ((e.extractLsb' 0 4).toNat ≤ 12) &&
      (if scaled then
        decide ((e.extractLsb' 32 8).toNat % 4 = 0) && decide ((e.extractLsb' 24 8).toNat % 4 = 0) &&
          decide ((e.extractLsb' 16 8).toNat % 8 = 0) && decide ((e.extractLsb' 8 8).toNat % 8 = 0) &&
          decide ((e.extractLsb' 8 8).toNat ≤ 224)
      else e.extractLsb' 8 32 == 0)
  | .cmd len dslot bar ddom =>
    (e.extractLsb' 25 7 == 0) && (e.extractLsb' 21 3 == 0) && (e.extractLsb' 17 3 == 0) &&
      (e.extractLsb' 6 2 == 0) && decide ((e.extractLsb' 14 3).toNat ≤ 5) &&
      decide ((e.extractLsb' 11 3).toNat ≤ 4) && decide ((e.extractLsb' 8 3).toNat ≤ 4) &&
      (if len then decide ((e.extractLsb' 32 32).toNat % 64 = 0) && !(e.extractLsb' 32 32 == 0)
       else e.extractLsb' 32 32 == 0) &&
      (dslot || e.extractLsb' 20 1 == 0) && (bar || e.extractLsb' 24 1 == 0) && (ddom || e.extractLsb' 11 3 == 0)
  | .ring =>
    (e.extractLsb' 6 2 == 0) && (e.extractLsb' 15 49 == 0) && decide (1 ≤ (e.extractLsb' 8 7).toNat) &&
      decide ((e.extractLsb' 8 7).toNat ≤ 64)

/-- Bit [24] of an extension word of a copy command: a barrier operand stands in SRCC (R323). -/
def barBit (opc : Nat) (ext : Option W64) : Bool :=
  match ext with
  | some e => decide (0x380 ≤ opc ∧ opc ≤ 0x385) && e.getLsbD 24
  | none => false

/-- Whether an operand stands in the form its field requires (R101, R102, R237, R339). `dst`: a destination has no peek
bit. -/
def opndOk (k : Fld) (dst : Bool) (o : Opnd) : Bool :=
  match k, o with
  | .none, .none => true
  | .reg, .v _ => true
  | .vec, .v _ => true
  | .vec, .ch _ p => !(dst && p)
  | .pair, .p n => n.getLsbD 0 == false
  | .b2, .b2 n => n.getLsbD 0 == false
  | .b2, .ch _ p => !(dst && p)
  | .b4, .b4 n => n.extractLsb' 0 2 == 0
  | .b8, .b8 n => n.extractLsb' 0 3 == 0
  | .b8, .ch _ p => !(dst && p)
  | .b8r, .b8 n => n.extractLsb' 0 3 == 0
  | .pred, .k n => decide (n.toNat < 12)
  | .rejoin, .j n => decide (n.toNat < 4)
  | .chan, .ch _ p => !(dst && p)
  | .ord ds ss os hs, .ord d s o h =>
    ds.contains d.ctorIdx && ss.contains s.ctorIdx && os.contains o.ctorIdx && hs.contains h.toNat
  | _, _ => false

/-- Whether the guard field is one that R97 and R100 allow. -/
def guardOk (g : Option (BitVec 4 × Bool)) : Bool :=
  match g with
  | none => true
  | some (k, _) => decide (k.toNat < 12)

/-- Whether `long` is a form the opcode has (R117); `LANEBC.first` has no long form, since its source B is unused
(R174). -/
def longOk (opc mod : Nat) (long : Bool) : Bool :=
  match wordForms opc with
  | none => false
  | some (one, two) => (if long then two else one) && !(long && opc == 0x0C1 && mod % 4 == 1)

/-- Check 1 of R115 on the fields of an instruction. -/
def formOk (opc : Nat) (f : Form) : Bool :=
  longOk opc f.mod.toNat f.ext.isSome && guardOk f.guard &&
    match fields opc f.mod.toNat f.ext.isSome (barBit opc f.ext) with
    | none => false
    | some sh =>
      opndOk sh.dst true f.dst && opndOk sh.a false f.a && opndOk sh.b false f.b && opndOk sh.c false f.c &&
        (match f.ext with
         | none => true
         | some e => extOk sh.ext e)

end Sys2Proof.Machine
end

