-- ==== Sys2Proof/Machine/Reset.lean ====
section
/-! DEFINITION. The value of each table entry that is not listed: the reset value of the unit (R425-R435, log entries 2, 4,
5, 8, 10), and a wave as it is placed (R70). -/

namespace Sys2Proof.Machine

def Core.reset : Core where
  slots := []
  cnf := []
  reuse := []
  reusePend := []
  left := []
  epoch := 0
  reuseLook := 0
  reuseHit := 0
  collide := 0
  overflow := 0
  swaps := 0
  lastSwap := none
  swapWanted := false
  unitBusy := []
  l1 := []
  ipath := []
  ifetch := []
  tlb := []
  sq := []
  held := []
  inbox := []
  wbOut := []
  badVa := []
  badPa := []
  readsOut := []
  farReads := []
  atomsInFlight := []
  atomsUnsent := []
  cmds := []
  ranges := []
  recv := []
  links := []
  probes := []
  stopped := false

/-- PLSTAT.PART reads 0xFF: no partition (R80). -/
def Spindle.reset : Spindle where
  fused := 0
  part := 0xFF
  fenced := false
  resetting := false
  resetSinceFence := false
  clkTicks := 0
  clkBase := 0

def Queue.reset : Queue where
  cbpa := 0
  ctxValid := false
  ctx := 0
  tail := 0
  head := 0
  ringbase := 0
  log2 := 0
  prio := 0
  memres := 0
  fabres := 0
  reldl := 0
  qcmd := 0
  cmdWritten := false
  qflags := 0
  reservedBad := false
  qstate := 0
  qerr := 0
  late := 0
  latepkt := 0
  failed := 0
  outcomes := []
  chains := []
  grants := 0
  posts := []

def Ctx.reset : Ctx where
  desc := 0
  scbchk := false
  dbgbrk := false
  preq := false
  ver := 0
  now := ⟨0, 0, 0, 0, 0⟩
  past := []
  dying := false

def Part.reset : Part where
  spindlesReg := 0
  slicesReg := 0
  memshare := 0
  hbase := 0
  stopbase := 0
  modes := 0
  todie := 100000
  tolink := 2000000
  fwdog := 50000000
  exptab := 0
  peerlist := 0
  hcause := 0
  pstate := 0
  dbghalt := 0
  spindles := 0
  slices := 0
  fq := []
  fqWait := []
  nextSeq := 1
  causes := []
  linkHeld := []
  linkWaits := []
  clearing := false

def Slice.reset : Slice where
  lines := []
  dir := []
  inq := []
  admitted := []
  pend := []
  fills := []
  spills := []
  regs := []
  pos := 0
  inbox := []
  boosts := []
  closed := false

def Sock.reset : Sock := { inq := [], pos := 0 }

def Station.reset : Station := { queue := [], rr := [], sent := [], resend := [], asks := [], nextSeq := 0, turn := [], linkFrom := [] }

def Channel.reset : Channel := { token := 0, flight := [], held := [], awaiting := [] }

def Router.reset : Router := { out := [], rr := [], spray := 0 }

def Link.reset : Link where
  inService := true
  retraining := false
  retrainFailed := false
  txMask := 0xFFFF
  rxMask := 0xFFFF
  sendQ := []
  sentBytes := [0, 0, 0, 0, 0]
  rr := 0
  nextSeq := 0
  replay := []
  resendAt := 0
  lastSend := 0
  credits := [4096, 4096, 4096, 4096, 4096]
  rxExpect := 0
  rxDiscarding := false
  rxAgain := false
  rxLastNak := 0
  rxNakCount := 0
  rxNakSeq := 0
  rxCredits := [0, 0, 0, 0, 0]
  txNakSeen := 0
  txCreditSeen := [0, 0, 0, 0, 0]
  lit := 0xFFFF
  darkNs := 0
  detectTsc := 0
  reportTsc := 0
  peerLit := 0xFFFF
  peerDark := 0
  rxDisc := 0
  txResent := 0
  probe := 0
  ctlSent := []
  ctlDue := false
  lastCtl := 0
  inbox := []
  snoop := []
  records := []
  outstanding := []
  serving := []
  snoops := []
  reported := 0xFFFF
  fibre := []
  nextTag := 0
  lastGood := 0
  asked := 0

def EthPort.reset : EthPort where
  mac := 0
  enable := false
  pcp := 0
  vlan := 0
  partmask := 0
  txFrames := 0
  rxFrames := 0
  rxDrop := 0
  sendQ := []
  recvQ := []
  wire := []

def PowerUnit.reset : PowerUnit := { state := 0, cmd := 0, prot := false }

/-- A side-buffer record that was never written: zero, except CLASS (R386). -/
def SideRec.reset : SideRec where
  cls := 0xFF
  field := 0
  check := 0
  reason := 0
  lanes := 0
  active := 0
  wave := 0
  count := 0
  pc := 0
  enc0 := 0
  enc1 := 0
  addr := 0
  detail := 0
  tsc := 0
  team := 0

/-- The zero lane (tag B32), the vector of one value in every lane. -/
def Lane.zero : Lane := ⟨0, 0⟩
def Vec.splat (x : Lane) : Vec := List.replicate 32 x
def Vec.zero : Vec := Vec.splat Lane.zero

/-- A lane of a vector. -/
def Vec.lane (v : Vec) (l : Nat) : Lane := v.getD l Lane.zero
def Vec.val (v : Vec) (l : Nat) : W32 := (v.getD l Lane.zero).val
def Vec.tagAt (v : Vec) (l : Nat) : BitVec 4 := (v.getD l Lane.zero).tag

/-- A vector lane by lane. -/
def Vec.of (f : Nat → Lane) : Vec := lanes32.map f

/-- A wave as it is placed (R70): `regs` registers, all zero but v0 and v1, which hold the halves of ARGS; every thread
READY at `pc`. Names are given by the CNF insertion of Machine/Ops.lean. -/
def Wave.placed (slot : Nat) (role : Role) (regs : Nat) (args pc : W64) (now : Nat) : Wave where
  slot := slot
  role := role
  vregs := (List.range regs).map fun n =>
    if n = 0 then Vec.splat ⟨args.setWidth 32, 0⟩
    else if n = 1 then Vec.splat ⟨args.extractLsb' 32 32, 0⟩ else Vec.zero
  names := List.replicate regs 0
  preds := List.replicate 12 0
  rejoin := List.replicate 4 0
  pcs := List.replicate 32 pc
  threads := List.replicate 32 .ready
  waits := []
  notBefore := List.replicate 32 0
  sleepUntil := List.replicate 32 0
  waitSince := List.replicate 32 now
  mem := 0
  cpy := 0
  mtx := 0
  net := 0
  rm := 0
  ftz := false
  flags := List.replicate 32 0
  trapped := false
  tmask := 0
  rpc := List.replicate 32 0
  side := SideRec.reset
  window := 0
  desc0 := none
  desc1 := none
  hazards := []
  ops := []
  active := false
  passCount := 0
  eligibleSince := none
  activeSince := 0
  starvedSince := none
  opp := 0
  cache := []
  inherited := BitVec.allOnes 64
  pendingLines := []
  brkStop := 0
  never := 0
  traps := 0
  rejoinAt := List.replicate 4 now

end Sys2Proof.Machine
end

