-- ==== Sys2Proof/Machine/Ops.lean ====
section
/-! DEFINITION. Named operations over the state: reading and changing a unit, memory bytes, free values, the
content-named file (R136-R141), context faults (R399), parking (R393), blocking and waking (R360), and taking a trap
(R384) with the return from it (R389). -/

namespace Sys2Proof.Machine

/-! ## Units of the package -/

def State.core (s : State) (c : Nat) : Core := s.cores.getD c Core.reset
def State.modCore (s : State) (c : Nat) (f : Core → Core) : State := { s with cores := s.cores.set c (f (s.core c)) }

def State.spindle (s : State) (k : Nat) : Spindle := s.spindles.getD k Spindle.reset
def State.modSpindle (s : State) (k : Nat) (f : Spindle → Spindle) : State :=
  { s with spindles := s.spindles.set k (f (s.spindle k)) }

def State.queue (s : State) (q : Nat) : Queue := s.queues.getD q Queue.reset
def State.modQueue (s : State) (q : Nat) (f : Queue → Queue) : State := { s with queues := s.queues.set q (f (s.queue q)) }

def State.ctx (s : State) (c : Nat) : Ctx := s.ctxs.getD c Ctx.reset
def State.modCtx (s : State) (c : Nat) (f : Ctx → Ctx) : State := { s with ctxs := s.ctxs.set c (f (s.ctx c)) }

/-- The descriptor values of a context as its reading number `ver` found them (R382). -/
def State.descOf (s : State) (c ver : Nat) : CtxDesc :=
  if (s.ctx c).ver = ver then (s.ctx c).now else (s.ctx c).past.getD ver (s.ctx c).now

/-- A context with the reading of its descriptor that a team runs under, as one number. -/
def Team.vctx (tm : Team) (ctx : Nat) : Nat := ctx + 4096 * tm.ver
def State.vctxOf (s : State) (tm : Team) : Nat := tm.vctx ((s.launches.get? tm.launch).elim 0 Launch.ctx)

def State.part (s : State) (p : Nat) : Part := s.parts.getD p Part.reset
def State.modPart (s : State) (p : Nat) (f : Part → Part) : State := { s with parts := s.parts.set p (f (s.part p)) }

def State.slice (s : State) (k : Nat) : Slice := s.slices.getD k Slice.reset
def State.modSlice (s : State) (k : Nat) (f : Slice → Slice) : State := { s with slices := s.slices.set k (f (s.slice k)) }

def State.sock (s : State) (k : Nat) : Sock := s.socks.getD k Sock.reset
def State.modSock (s : State) (k : Nat) (f : Sock → Sock) : State := { s with socks := s.socks.set k (f (s.sock k)) }

def State.station (s : State) (k : Nat) : Station := s.stations.getD k Station.reset
def State.modStation (s : State) (k : Nat) (f : Station → Station) : State :=
  { s with stations := s.stations.set k (f (s.station k)) }

def State.channel (s : State) (k : Nat) : Channel := s.channels.getD k Channel.reset
def State.modChannel (s : State) (k : Nat) (f : Channel → Channel) : State :=
  { s with channels := s.channels.set k (f (s.channel k)) }

def State.router (s : State) (k : Nat) : Router := s.routers.getD k Router.reset
def State.modRouter (s : State) (k : Nat) (f : Router → Router) : State :=
  { s with routers := s.routers.set k (f (s.router k)) }

def State.link (s : State) (k : Nat) : Link := s.links.getD k Link.reset
def State.modLink (s : State) (k : Nat) (f : Link → Link) : State := { s with links := s.links.set k (f (s.link k)) }

def State.port (s : State) (k : Nat) : EthPort := s.ports.getD k EthPort.reset
def State.modPort (s : State) (k : Nat) (f : EthPort → EthPort) : State := { s with ports := s.ports.set k (f (s.port k)) }

def State.unit (s : State) (k : Nat) : PowerUnit := s.units.getD k PowerUnit.reset
def State.modUnit (s : State) (k : Nat) (f : PowerUnit → PowerUnit) : State :=
  { s with units := s.units.set k (f (s.unit k)) }

/-- A change to a live launch; nothing happens to one that is not live. -/
def State.modLaunch (s : State) (k : Nat) (f : Launch → Launch) : State :=
  match s.launches.get? k with
  | some l => { s with launches := s.launches.set k (f l) }
  | none => s

def State.modTeam (s : State) (t : Nat) (f : Team → Team) : State :=
  match s.teams.get? t with
  | some tm => { s with teams := s.teams.set t (f tm) }
  | none => s

def State.wave? (s : State) (t w : Nat) : Option Wave :=
  match s.teams.get? t with
  | some tm => tm.waves.get? w
  | none => none

def Team.modWave (tm : Team) (w : Nat) (f : Wave → Wave) : Team :=
  match tm.waves.get? w with
  | some wv => { tm with waves := tm.waves.set w (f wv) }
  | none => tm

def State.modWave (s : State) (t w : Nat) (f : Wave → Wave) : State := s.modTeam t fun tm => tm.modWave w f

/-- The next free value, and the counter advanced (log entry 12). -/
def State.fresh (s : State) : W64 × State := (Config.freeWord s.free, { s with free := s.free + 1 })

/-- Free bytes: of private memory at placement (R70), and of addresses that hold no memory when the host reads them (R423)
(log entries 12, 105). -/
def State.freeBytes (s : State) : Nat → State × List Byte
  | 0 => (s, [])
  | n + 1 => let a := s.fresh; let r := a.2.freeBytes n; (r.1, a.1.setWidth 8 :: r.2)

/-! ## Time (R9, R125; log entry 1) -/

/-- The number of the core cycle in which a spindle is: its clock counts sixths of a cycle, three for each sixth of a
nanosecond in ACTIVE and two in TRIM (R125, R432). Stall counts, occupancies and the other lengths that the manual counts in
core cycles are kept as such numbers, so that a change of the power state lengthens cycles and changes no count. -/
def State.cycle (s : State) (spindle : Nat) : Nat := (s.spindle spindle).clkTicks / 6

/-- The core cycle of a core's spindle. -/
def State.cycleOf (s : State) (core : Nat) : Nat := s.cycle (core / 36)

/-- Time passes: the TSC counts nanoseconds unless it is frozen (R425), and each spindle's clock, counted
in sixths of a cycle, runs while the spindle is ACTIVE or TRIM. -/
def State.advance (s : State) (dt : Nat) : State :=
  { s with
    time := s.time + dt
    tsc := if s.freeze then s.tsc else s.tsc + BitVec.ofNat 64 ((s.tscRem + dt) / 6)
    tscRem := if s.freeze then s.tscRem else (s.tscRem + dt) % 6
    spindles := (List.range 24).foldl
      (fun m k => if (s.unit k).state ≤ 1
        then m.set k { m.getD k Spindle.reset with clkTicks := (m.getD k Spindle.reset).clkTicks + (if (s.unit k).state = 0 then 3 else 2) * dt } else m)
      s.spindles }

/-- The halt bits of a partition's spindles change (R410, R170): time-outs of entries on their way to a spindle stop with its halt and go
on after it, and the fault watchdog stops while any spindle is halted (R357, R398). -/
def State.setHalt (s : State) (p : Nat) (v : BitVec 24) : State :=
  let old := (s.part p).dbghalt
  let turn (was is : Bool) (x : W64) : W64 := if was = is then x else if is then x - s.tsc else x + s.tsc
  let entry (e : LinkEntry) : LinkEntry :=
    if (s.spindle (e.target / 36)).part = p then
      { e with since := turn (old.getLsbD (e.target / 36)) (v.getLsbD (e.target / 36)) e.since } else e
  { s.modPart p fun x => { x with
      dbghalt := v, fq := x.fq.map fun e => { e with since := turn (old != 0) (v != 0) e.since } } with
    cores := s.cores.mapVals fun c => { c with links := c.links.mapVals fun l => l.map entry } }

/-! ## Memory bytes (R258; log entry 3) -/

/-- A byte of storage; an address that is not listed reads 0. -/
def Memory.read : List Host.Cell → Nat → Byte
  | [], _ => 0
  | (a, b) :: m, k => if a = k then b else Memory.read m k

/-- A byte written; a byte of 0 is not listed. -/
def Memory.write : List Host.Cell → Nat → Byte → List Host.Cell
  | [], k, v => if v = 0 then [] else [(k, v)]
  | (a, b) :: m, k, v =>
    if k < a then (if v = 0 then (a, b) :: m else (k, v) :: (a, b) :: m)
    else if k = a then (if v = 0 then m else (k, v) :: m)
    else (a, b) :: Memory.write m k v

/-- The canonical form: addresses strictly rising, no byte of 0. -/
def Memory.wf : List Host.Cell → Bool
  | [] => true
  | [(_, b)] => b != 0
  | (a, b) :: (c, d) :: m => b != 0 && decide (a < c) && Memory.wf ((c, d) :: m)

/-- `n` bytes from an address on. -/
def Memory.readN (m : List Host.Cell) (a n : Nat) : List Byte := (List.range n).map fun i => Memory.read m (a + i)

/-- Bytes written from an address on. -/
def Memory.writeN (m : List Host.Cell) (a : Nat) : List Byte → List Host.Cell
  | [] => m
  | b :: bs => Memory.writeN (Memory.write m a b) (a + 1) bs

/-! ## The content-named file -/

/-- NameHash (R138). -/
def nameHash (v : Vec) : W64 :=
  lanes32.foldl (fun (h : W64) l =>
    let x : W64 := ((v.tagAt l).setWidth 64 <<< 32 ||| (v.val l).setWidth 64) ^^^ BitVec.ofNat 64 (l <<< 36)
    let h := (h ^^^ x) * 0x9E3779B97F4A7C15
    h ^^^ (h >>> 29)) 0x243F6A8885A308D3

/-- One reference fewer; a vector without references is freed (R140). -/
def Core.release (c : Core) (i : Nat) : Core :=
  match c.cnf.get? i with
  | none => c
  | some e => { c with cnf := if e.refs ≤ 1 then c.cnf.erase i else c.cnf.set i { e with refs := e.refs - 1 } }

/-- One reference more. -/
def Core.retain (c : Core) (i : Nat) : Core :=
  match c.cnf.get? i with
  | none => c
  | some e => { c with cnf := c.cnf.set i { e with refs := e.refs + 1 } }

/-- The CNF entries a reuse entry names. -/
def ReuseEntry.names (e : ReuseEntry) : List Nat := e.sources ++ e.results

/-- Every reuse entry of the core: those of the table, and those to be inserted at a retirement, which hold their sources. -/
def Core.reuseAll (c : Core) : List ReuseEntry := c.reuse ++ c.reusePend.map (·.2)

/-- How many references reuse entries hold to a CNF entry. -/
def Core.reuseRefs (c : Core) (i : Nat) : Nat :=
  (c.reuseAll.map fun e => (e.names.filter (· == i)).length).foldl (· + ·) 0

/-- Reuse entries dropped, with their references (R140). -/
def Core.dropReuse (c : Core) (p : ReuseEntry → Bool) : Core :=
  (c.reuseAll.filter p).foldl (fun c e => e.names.foldl Core.release c)
    { c with reuse := c.reuse.filter fun e => !p e, reusePend := c.reusePend.filter fun e => !p e.2 }

/-- Pending entries of operations that will not retire here, dropped with their references. -/
def Core.dropPend (c : Core) (ops : List Nat) : Core :=
  (c.reusePend.filter fun e => ops.contains e.1).foldl (fun c e => e.2.names.foldl Core.release c)
    { c with reusePend := c.reusePend.filter fun e => !ops.contains e.1 }

/-- The set of the reuse table that an entry's key goes to (R142; log entry 24). -/
def ReuseEntry.set (e : ReuseEntry) : Nat :=
  Config.reuseSet ([e.ctx, e.enc0.toNat, e.enc1.toNat, e.lanes.toNat, e.mode.toNat, e.epoch.toNat, e.isLoad.toNat] ++ e.sources) % 256

/-- Whether a CNF entry is referenced by reuse entries only. -/
def Core.reuseOnly (c : Core) (i : Nat) : Bool :=
  match c.cnf.get? i with
  | none => false
  | some e => decide (e.refs = c.reuseRefs i)

/-- The lowest free entry of the CNF. -/
def Core.lowestFree (c : Core) : Option Nat := (List.range 8192).find? fun i => (c.cnf.get? i).isNone

/-- Drops reuse entries, lowest set first, until an entry is free (R138); pending ones last. -/
def Core.makeRoom (c : Core) : Core :=
  let order := sortBy (fun a b => decide (a.set ≤ b.set)) c.reuse ++ c.reusePend.map (·.2)
  order.foldl (fun c e => if c.cnf.length < 8192 then c else c.dropReuse (· == e)) c

/-- Insert (R138): the entry that holds the vector, with one more reference. -/
def Core.insert (c : Core) (v : Vec) : Core × Nat :=
  let h := nameHash v
  let set := (h.extractLsb' 0 11).toNat
  let tag := h.extractLsb' 11 53
  let ways := (List.range 4).map (4 * set + ·)
  let same (i : Nat) : Bool := match c.cnf.get? i with
    | some e => e.hashed && e.hashTag == tag && e.vec == v
    | none => false
  let clash (i : Nat) : Bool := match c.cnf.get? i with
    | some e => e.hashed && e.hashTag == tag && e.vec != v
    | none => false
  let entry (hashed : Bool) : CnfEntry := { vec := v, refs := 1, hashed := hashed, hashTag := tag }
  match ways.find? same with
  | some i => ({ c with collide := c.collide + ((ways.takeWhile (· != i)).filter clash).length }.retain i, i)
  | none =>
    let c := { c with collide := c.collide + (ways.filter clash).length }
    match ways.find? fun i => (c.cnf.get? i).isNone with
    | some i => ({ c with cnf := c.cnf.set i (entry true) }, i)
    | none =>
      match ways.find? c.reuseOnly with
      | some i =>
        let c := c.dropReuse fun r => r.names.contains i
        ({ c with cnf := c.cnf.set i (entry true) }, i)
      | none =>
        let c := c.makeRoom
        match c.lowestFree with
        | some i => ({ c with cnf := c.cnf.set i (entry false), overflow := c.overflow + 1 }, i)
        | none => (c, 0)

/-- A vector takes its place in the CNF: the entry given, with one more reference, or the one that insertion finds. -/
def Core.place (c : Core) (given : List Nat) (v : Vec) : Core × Nat :=
  match given with
  | g :: _ => (c.retain g, g)
  | [] => c.insert v

/-- Registers of a wave written whole: the old vectors released, the new ones named (R137, R141): by the entries of a reuse
hit where they are given (R144), else by insertion. The wave of a saved team holds no names (R151), nor does one whose
threads have all exited (R43). -/
def State.writeRegs (s : State) (t w : Nat) (rs : List (Nat × Vec)) (given : List Nat) : State :=
  match s.teams.get? t with
  | none => s
  | some tm =>
    match tm.waves.get? w with
    | none => s
    | some wv =>
      if tm.place != .resident || wv.names.isEmpty then
        s.modWave t w fun wv => rs.foldl (fun wv r => { wv with vregs := wv.vregs.set r.1 r.2 }) wv
      else
      let core := rs.foldl (fun c r => match wv.names[r.1]? with | some i => c.release i | none => c) (s.core tm.core)
      let res := rs.foldl (fun (acc : (Core × List Nat) × Wave) r =>
        let p := acc.1.1.place acc.1.2 r.2
        ((p.1, acc.1.2.tail), { acc.2 with vregs := acc.2.vregs.set r.1 r.2, names := acc.2.names.set r.1 p.2 })) ((core, given), wv)
      (s.modCore tm.core fun _ => res.1.1).modWave t w fun _ => res.2

/-! ## Context faults and parking -/

/-- A cause is detected (R399, R400): the halt line of the partition is raised; the HALT step does the rest. -/
def State.raise (s : State) (part : Nat) (c : Cause) (source : Nat) (addr pc : W64) (ctx ident : Nat) : State :=
  s.modPart part fun p => { p with causes := p.causes ++ [⟨c, s.tsc, source, addr, pc, ctx, ident⟩] }

/-- Source number of a core, socket × 64 + unit (R10). -/
def coreSource (core : Nat) : Nat := core / 36 * 64 + core % 36

/-- An access waits to enter the partition's fault queue (R393). -/
def State.park (s : State) (part : Nat) (ps : List Parked) : State :=
  s.modPart part fun p => { p with fqWait := p.fqWait ++ ps }

/-! ## Threads -/

/-- The threads of a mask change state. -/
def Wave.setThreads (w : Wave) (m : Mask) (th : Thread) : Wave :=
  { w with threads := mergeLanes m w.threads .ready fun _ => th }

/-- The PCs of a mask. -/
def Wave.setPcs (w : Wave) (m : Mask) (f : Nat → W64) : Wave := { w with pcs := mergeLanes m w.pcs 0 f }

/-- A subset becomes BLOCKED with a wake condition (R42, R360). -/
def Wave.blockOn (w : Wave) (m : Mask) (pc : W64) (wk : Wake) : Wave :=
  { w.setThreads m .blocked with waits := w.waits ++ [⟨m, pc, wk, false, BitVec.allOnes 64⟩] }

/-- The subsets whose wait satisfies a test become READY (R42). -/
def Wave.wake (w : Wave) (now : Nat) (p : Wait → Bool) : Wave :=
  let met := w.waits.filter p
  let m := met.foldl (fun m x => m ||| x.lanes) 0
  { w.setThreads m .ready with
    waits := w.waits.filter fun x => !p x
    waitSince := mergeLanes m w.waitSince 0 fun _ => now }

/-- The lanes of a wave that hold READY threads at a PC. -/
def Wave.readyAt (w : Wave) (pc : W64) : Mask :=
  laneMask fun l => w.threads.getD l .exited == .ready && w.pcs.getD l 0 == pc

/-- The lanes of EXITED threads. -/
def Wave.exited (w : Wave) : Mask := laneMask fun l => w.threads.getD l .exited == .exited

/-! ## Traps -/

/-- Offset ÷ 0x100 of a trap class (R383). -/
def TrapClass.code : TrapClass → Nat
  | .illegal => 0
  | .tag => 1
  | .role => 2
  | .stall => 3
  | .arith => 4
  | .soft => 5
  | .align => 6
  | .floor => 7
  | .depth => 8
  | .channel => 9

/-- What a failing check records (R386, R387, R462). -/
structure Trap where
  cls : TrapClass
  field : Nat
  check : Nat
  reason : Nat
  lanes : Mask
  addr : W64
  detail : W64
  deriving DecidableEq, Repr

/-- The subset that issues: its team, wave, launch and instruction. -/
structure Iss where
  tid : Nat
  wid : Nat
  pc : W64
  /-- Lanes of the subset, active or not. -/
  lanes : Mask
  /-- Lanes that pass the guard (R106). -/
  act : Mask
  opc : Nat
  f : Form
  enc0 : W64
  enc1 : W64
  team : Team
  wave : Wave
  launch : Launch
  deriving DecidableEq, Repr

/-- Length of the instruction in bytes (R94). -/
def Iss.len (i : Iss) : W64 := if i.f.ext.isSome then 16 else 8

/-- The side-buffer record of a trap (R386). -/
def Iss.sideRec (i : Iss) (tsc : W64) (t : Trap) : SideRec where
  cls := BitVec.ofNat 8 t.cls.code
  field := BitVec.ofNat 8 t.field
  check := BitVec.ofNat 8 t.check
  reason := BitVec.ofNat 8 t.reason
  lanes := t.lanes
  active := i.act
  wave := BitVec.ofNat 16 i.wid
  count := if i.wave.traps = 0xFFFF then 0xFFFF else i.wave.traps + 1
  pc := i.pc
  enc0 := i.enc0
  enc1 := i.enc1
  addr := t.addr
  detail := t.detail
  tsc := tsc
  team := BitVec.ofNat 64 i.team.index

/-- Trap entry (R384): TMASK, RPC and the handler's PC in every lane of the subset, TRAPPED, and the side-buffer record.
SOFT resumes after the instruction. The handler issues no earlier than 8 core cycles after core cycle `cycle`. -/
def Wave.trapEntry (w : Wave) (i : Iss) (hbase tsc : W64) (now cycle : Nat) (t : Trap) : Wave :=
  { w with
    trapped := true
    tmask := i.lanes
    rpc := mergeLanes i.lanes w.rpc 0 fun _ => if t.cls = .soft then i.pc + i.len else i.pc
    pcs := mergeLanes i.lanes w.pcs 0 fun _ => hbase + BitVec.ofNat 64 (0x100 * t.cls.code)
    side := i.sideRec tsc t
    traps := if w.traps = 0xFFFF then 0xFFFF else w.traps + 1
    notBefore := mergeLanes i.lanes w.notBefore 0 fun _ => cycle + Nat.max 8 i.f.stall.toNat
    waitSince := mergeLanes i.lanes w.waitSince 0 fun _ => now }

/-- Return from the handler of the lanes of a mask (R389): each continues at its RPC and leaves TMASK; TRAPPED clears with
the last. -/
def Wave.trapReturn (w : Wave) (act : Mask) : Wave :=
  { w with
    pcs := mergeLanes act w.pcs 0 fun l => w.rpc.getD l 0
    tmask := w.tmask &&& ~~~act
    trapped := decide (w.tmask &&& ~~~act ≠ 0) }

/-- A failing check of a subset: the trap of R384, a context fault NESTED for threads inside a handler, nothing for a
subset that was in flight when TRAPPED was set (R385). -/
def State.takeTrap (s : State) (i : Iss) (t : Trap) : State :=
  if i.wave.trapped then
    if i.wave.tmask &&& i.lanes = 0 then s
    else
      (s.raise i.launch.part .nested (coreSource i.team.core) 0 i.pc i.launch.ctx i.launch.ident).modWave i.tid i.wid
        fun w => { w with never := w.never ||| i.lanes }
  else
    s.modWave i.tid i.wid fun w =>
      w.trapEntry i (s.part i.launch.part).hbase s.tsc s.time (s.cycleOf i.team.core) t

end Sys2Proof.Machine
end

