-- ==== Sys2Proof/Machine/Mesh.lean ====
section
/-! DEFINITION. What messages carry for arbitration (R74), source numbers (R10, R352), and the router mesh that carries them
(R346, R347). -/

namespace Sys2Proof.Machine

/-! ## Networks and terms -/

/-- The virtual network of a domain (R297). -/
def netOf : Dom → Nat
  | .sc => 0
  | .tso => 1
  | .cau => 2
  | .rc => 3
  | .blk => 4

def allDoms : List Dom := [.sc, .tso, .cau, .rc, .blk]

/-- A request on behalf of no launch (R74). -/
def Terms.nobody (part : Nat) : Terms := ⟨BitVec.allOnes 64, 0, 1024, part, BitVec.allOnes 64⟩

/-- The earlier of a deadline and an inherited one (R368). -/
def minW (a b : W64) : W64 := if a.toNat ≤ b.toNat then a else b

def Iss.terms (i : Iss) : Terms :=
  ⟨minW i.launch.deadline i.wave.inherited, i.launch.prio, i.launch.queue, i.launch.part, i.launch.deadline⟩

def Req.terms (r : Req) : Terms := ⟨r.deadline, r.prio, r.queue, r.part, r.own⟩

/-- Whether a request with the first terms is served before one with the second (R74): deadline, then priority, then the lower
source number. -/
def servedBefore (d1 : W64) (p1 src1 : Nat) (d2 : W64) (p2 src2 : Nat) : Bool :=
  decide (d1.toNat < d2.toNat) ||
    (d1 == d2 && (decide (p2 < p1) || (p1 == p2 && decide (src1 < src2))))

/-- Whether a message is served before another at a router or a socket. -/
def MeshMsg.before (a b : MeshMsg) : Bool := servedBefore a.tm.deadline a.tm.prio a.source b.tm.deadline b.tm.prio b.source

/-- The first message in the order of R74. -/
def firstServed (l : List MeshMsg) : Option MeshMsg :=
  l.foldl (fun acc m => match acc with
    | none => some m
    | some b => if m.before b then some m else some b) none

/-- Source numbers of a slice, a memory socket 0-15 and a scale-up link (R10, R352). -/
def sliceSource (k : Nat) : Nat := 2560 + k
def sockSource (m : Nat) : Nat := (24 + m) * 64
def linkSource (l : Nat) : Nat := (36 + l / 8) * 64 + 16 + l % 8

/-- Source number of a partition's queue engine (R453), and of a spindle's socket monitor (R467). -/
def engineSource (part : Nat) : Nat := 2688 + part
def monitorSource (spindle : Nat) : Nat := 2688 + 24 + spindle

/-- The port die of a queue pair: host port p is on port die p, manager core m on port die m (log entry 132). -/
def qpDie (qp : Nat) : Nat := if qp < 128 then qp / 64 else qp % 4

/-- The domain of a queue pair's accesses (R66), and of a manager core's (R278). -/
def qpDom (qp : Nat) : Dom := if qp < 128 then .tso else .sc

/-- The number by which requests of a queue pair are told apart: no unit of R10 has it, so of equal requests it is served last. -/
def qpSource (qp : Nat) : Nat := 2688 + 48 + qp

/-! ## Routes (R346) -/

/-- The router of a memory socket 0-15. -/
def sockRouter (m : Nat) : Nat :=
  if m < 6 then m else if m < 12 then 12 + m else if m = 12 then 6 else if m = 13 then 12 else if m = 14 then 11 else 17

/-- The router at which a destination is attached, and the output that leads to it. -/
def MeshDest.router : MeshDest → Nat
  | .core c => c / 36
  | .slice s => s / 4
  | .sock m => sockRouter m
  | .link l => sockRouter (12 + l / 8)
  | .station k => k / 9
  | .die p => sockRouter (12 + p)

def MeshDest.port : MeshDest → Nat
  | .core _ => 4
  | .slice s => 5 + s % 4
  | .sock _ => 9
  | .link _ => 10
  | .station _ => 11
  | .die _ => 12

/-- The dimension-ordered output of a router: columns first, then rows. -/
def routeOut (r : Nat) (d : MeshDest) : Nat :=
  let t := d.router
  if r % 6 < t % 6 then 0 else if t % 6 < r % 6 then 1
  else if t / 6 < r / 6 then 2 else if r / 6 < t / 6 then 3 else d.port

/-- The neighbour behind an output 0-3. -/
def routeNext (r out : Nat) : Nat :=
  match out with
  | 0 => r + 1
  | 1 => r - 1
  | 2 => r - 6
  | _ => r + 6

/-- The outputs of a router that lead to a neighbour. -/
def meshOuts (r : Nat) : List Nat :=
  (if r % 6 < 5 then [0] else []) ++ (if 0 < r % 6 then [1] else []) ++ (if 0 < r / 6 then [2] else []) ++ (if r / 6 < 3 then [3] else [])

/-- A message enters a router: a BLK message's first hop goes to a neighbour in rotation. -/
def State.post (s : State) (r : Nat) (m : MeshMsg) : State :=
  s.modRouter r fun rt =>
    let put (o : Nat) (m : MeshMsg) (rt : Router) : Router := { rt with out := rt.out.set o (rt.out.getD o [] ++ [m]) }
    if m.net = 4 && m.sprayed then
      let outs := meshOuts r
      put (outs.getD (rt.spray % outs.length) 0) m { rt with spray := rt.spray + 1 }
    else put (routeOut r m.dest) m rt

/-- A message of a unit at a router. -/
def State.sendMesh (s : State) (r : Nat) (dest : MeshDest) (net source : Nat) (tm : Terms) (msg : Msg) : State :=
  { s with nextUid := s.nextUid + 1 }.post r
    { dest := dest, net := net, source := source, tm := tm, stamp := s.nextUid, sprayed := true, msg := msg }

/-! ## Sizes (R342, R346) -/

/-- Bytes of a request: a 16-byte header and at most 256 bytes of data (R342). -/
def Req.size (r : Req) : Nat :=
  16 + (match r.kind with
    | .read _ _ => 0
    | .write m _ => ((List.range 256).filter fun i => m.getLsbD i).length
    | .atom ls _ => Nat.min 256 (16 * ls.length)
    | .amax _ _ => 4
    | .qscale _ _ => 0
    | .bar _ _ => 24)

/-- Bytes of a message between packages: a 16-byte header and its data, as in a crossbar slot. -/
def linkSize (m : LinkMsg) : Nat :=
  16 + (match m.body with
    | .write _ _ _ _ mask _ => ((List.range 256).filter fun i => mask.getLsbD i).length
    | .atom _ _ _ _ ls _ => 16 * ls.length
    | .amax _ _ _ _ _ => 4
    | .data bs secs => if secs.isEmpty then bs.length else 64 * secs.length
    | .olds vs => 8 * vs.length
    | .scale _ _ => 8
    | _ => 0)

/-- Bytes of a mesh message: a 16-byte header and its data; written bytes of an evicted line count as 256. -/
def Msg.size : Msg → Nat
  | .readReply _ secs _ => 16 + 64 * secs.length
  | .atomReply _ olds => 16 + 8 * olds.length
  | .scaleReply _ _ _ => 20
  | .barReply _ _ _ => 20
  | .sockData _ _ _ secs => 16 + 64 * secs.length
  | .sockWrite _ _ _ => 272
  | .sockRaw _ _ _ _ => 80
  | .toLink _ m _ _ => linkSize m
  | .linkReply _ m => linkSize m
  | .request r => r.size
  | _ => 16

/-- The 64-byte beats of a message (R346): at most five. -/
def Msg.beats (m : Msg) : Nat := Nat.min 5 ((m.size + 63) / 64)

/-! ## What may be forwarded (R297, R347) -/

/-- Whether a message is the invalidation of a write. -/
def Msg.isInval : Msg → Bool
  | .inval _ _ _ _ _ => true
  | _ => false

/-- Whether an invalidation that a slice sent to a core before a message, on its network, is still on its way (R297). -/
def State.invalBefore (s : State) (m : MeshMsg) : Bool :=
  s.routers.any fun r => r.2.out.any fun o => o.2.any fun e =>
    e.msg.isInval && e.net == m.net && e.source == m.source && e.dest == m.dest && decide (e.stamp < m.stamp)

/-- Whether a message at its last router waits for an invalidation that was sent before it (R297). -/
def State.heldAtUnit (s : State) (out : Nat) (m : MeshMsg) : Bool := decide (4 ≤ out) && m.net == 4 && s.invalBefore m

/-- Whether an output's buffer of a network has a free entry for each beat of a message from another router (R347; log entry 43). A
message that has not made its first hop waits at the unit that sent it, and one that an earlier invalidation must precede at the unit it
has reached: neither takes an entry. -/
def State.routerRoom (s : State) (r out : Nat) (m : MeshMsg) : Bool :=
  let held := ((s.router r).out.getD out []).filter fun x => x.net == m.net && !x.sprayed && !s.heldAtUnit out x
  decide (held.foldl (fun n x => n + x.msg.beats) 0 + m.msg.beats ≤ Config.routerEntries + 5)

/-- The messages of one network at an output that no earlier one of their source to their destination precedes: on an ordered
network none overtakes it (R297). -/
def meshReady (net : Nat) (l : List MeshMsg) : List MeshMsg :=
  l.foldl (fun acc m =>
    if m.net != net then acc
    else if net != 4 && acc.any fun e => e.source == m.source && e.dest == m.dest then acc
    else acc ++ [m]) []

/-- The messages of a network that an output may grant: the next router has free entries, and at the last router no
invalidation sent before is overtaken. -/
def State.grantable (s : State) (router out net : Nat) : List MeshMsg :=
  (meshReady net ((s.router router).out.getD out [])).filter fun m =>
    if out < 4 then s.routerRoom (routeNext router out) (routeOut (routeNext router out) m.dest) m
    else !s.heldAtUnit out m

end Sys2Proof.Machine
end

