-- ==== Sys2Proof/Machine/Store.lean ====
section
/-! DEFINITION. Memory as the machine holds it: physical addresses and storage (R258, R264), homes (R260), coherent reads and
writes at the home slice (R268, R296), page walks (R261, R262), the stash (R269-R272), private addresses (R274), peer
windows (R276, R277), and where each piece of an access performs (R306) after the checks of R263. -/

namespace Sys2Proof.Machine

/-! ## Physical addresses -/

/-- The NEAR, INTERLEAVED and FAR regions, placements 0, 2 and 1 of R261 (R258). -/
def paPlace (pa : Nat) : Option Nat :=
  if pa < 0x60_0000_0000 then some 0
  else if 0x80_0000_0000 ≤ pa ∧ pa < 0xE0_0000_0000 then some 2
  else if 0x200_0000_0000 ≤ pa ∧ pa < 0x400_0000_0000 then some 1
  else none

/-- Where a byte is stored: near memory by its NEAR address, of which the INTERLEAVED region is a second view, far memory by its PA
(R258). A sector's tweak is this address in units of 64 bytes; for far memory the manual gives no offset behind a port die, and the
model takes that of the PA (R264; DESIGN CHOICE, log entry 140). -/
def storageAddr (pa : Nat) : Nat :=
  if 0x80_0000_0000 ≤ pa ∧ pa < 0xE0_0000_0000 then
    let n := (pa - 0x80_0000_0000) / 256
    (n % 12) * 2 ^ 35 + (n / 12) * 256 + pa % 256
  else pa

/-- The memory socket of a byte: 0-11 for MS, 12-15 for PS (R258). -/
def memSocket (pa : Nat) : Nat :=
  if pa < 0x200_0000_0000 then storageAddr pa / 2 ^ 35 else 12 + (pa - 0x200_0000_0000) / 256 % 4

/-- The partition that owns a byte's granule (R260); 0xFF for none. -/
def State.ownerOf (s : State) (pa : Nat) : Nat := (s.granuleOwner.getD (pa / 2 ^ 30) 0xFF).toNat

/-- The slice share of a partition, ascending (R84). -/
def Part.share (p : Part) : List Nat := (List.range 96).filter fun k => p.slices.getLsbD k

/-- Hash of a line address (R260). -/
def lineHash (a : Nat) : Nat := (a ^^^ (a / 2 ^ 11) ^^^ (a / 2 ^ 23)) % 2 ^ 32

/-- The home slice of a line (R260). -/
def State.homeOf (s : State) (line : Nat) : Option Nat :=
  let sh := (s.part (s.ownerOf (line * 256))).share
  if sh.isEmpty then none else sh[lineHash line % sh.length]?

/-! ## Sectors in storage -/

/-- The sector of a line that a slice holds. -/
def Slice.cached (sl : Slice) (line sec : Nat) : Option SliceSector :=
  match sl.lines.get? line with
  | some ln => ln.sec.get? sec
  | none => none

/-- A sector's bytes over those of memory: all of them when it is filled, else the written ones (R267). -/
def SliceSector.over (x : SliceSector) (old : Sector) : Sector := if x.filled then x.data else Sector.merge old x.data x.mask

/-- A sector as storage holds it under a key, and back (R264). -/
def State.seal (s : State) (key a : Nat) (x : Sector) : Sector := if key = 0 then x else xtsSector true (s.keys.getD key 0) (a / 64) x
def State.unseal (s : State) (key a : Nat) (x : Sector) : Sector := if key = 0 then x else xtsSector false (s.keys.getD key 0) (a / 64) x

/-- The other PA of a byte of near memory (R258, R259). -/
def otherView (pa : Nat) : Option Nat :=
  match paPlace pa with
  | some 0 => some (0x80_0000_0000 + (pa % 2 ^ 35 / 256 * 12 + pa / 2 ^ 35) * 256 + pa % 256)
  | some 2 => some (storageAddr pa)
  | _ => none

/-- The bytes of a sector that its home slice holds written and not yet in memory, oldest first: key, bytes and mask. -/
def State.unsaved (s : State) (pa : Nat) : List (Nat × Sector × BitVec 64) :=
  match s.homeOf (pa / 256) with
  | none => []
  | some k =>
    let sl := s.slice k
    ((sl.spills.filter fun x => x.line == pa / 256).map fun x =>
        (x.key, x.data.extractLsb' (512 * (pa / 64 % 4)) 512, x.mask.extractLsb' (64 * (pa / 64 % 4)) 64)) ++
      (match sl.lines.get? (pa / 256) with
       | some ln => (match ln.sec.get? (pa / 64 % 4) with
         | some x => if x.mask = 0 then [] else [(ln.key, x.data, x.mask)]
         | none => [])
       | none => [])

/-- The sector at a PA as storage holds it, with what the home slice of its other PA holds written of it (R259; log entry 35). -/
def State.rawSector (s : State) (pa : Nat) : Sector :=
  let a := storageAddr (pa / 64 * 64)
  ((otherView (pa / 64 * 64)).elim [] s.unsaved).foldl
    (fun raw x => s.seal x.1 a (Sector.merge (s.unseal x.1 a raw) x.2.1 x.2.2)) (Sector.ofBytes (Memory.readN s.mem a 64))

/-- The sector at a PA as plaintext under a key (R264). -/
def State.loadSector (s : State) (pa key : Nat) : Sector := s.unseal key (storageAddr (pa / 64 * 64)) (s.rawSector pa)

/-- Bytes of a sector written to storage under a key, the others kept. -/
def State.storeSector (s : State) (pa key : Nat) (x : Sector) (m : BitVec 64) : State :=
  let a := storageAddr (pa / 64 * 64)
  let old := s.unseal key a (Sector.ofBytes (Memory.readN s.mem a 64))
  { s with mem := Memory.writeN s.mem a (Sector.bytes (s.seal key a (Sector.merge old x m))) }

/-- The sector at a PA as its home slice gives it: the bytes it holds, then those on their way to memory, else storage. -/
def State.sectorAt (s : State) (pa key : Nat) : Sector :=
  match s.homeOf (pa / 256) with
  | none => s.loadSector pa key
  | some k =>
    let sl := s.slice k
    let under := (sl.spills.filter fun x => x.line == pa / 256).foldl
      (fun b x => Sector.merge b (x.data.extractLsb' (512 * (pa / 64 % 4)) 512) (x.mask.extractLsb' (64 * (pa / 64 % 4)) 64))
      (s.loadSector pa key)
    match sl.cached (pa / 256) (pa / 64 % 4) with
    | some x => x.over under
    | none => under

/-- The bytes of a line that a home slice has written leave for memory in one message, and the line leaves (R268, R349). -/
def State.spillLine (s : State) (k line net : Nat) (tm : Terms) : State :=
  match (s.slice k).lines.get? line with
  | none => s
  | some ln =>
    let id := s.nextUid
    let x : Spill := ⟨id, line, ln.key,
      ln.sec.foldl (fun (d : BitVec 2048) e => d ||| (BitVec.setWidth 2048 e.2.data).shiftLeft (512 * e.1)) 0,
      ln.sec.foldl (fun (m : BitVec 256) e => m ||| (BitVec.setWidth 256 e.2.mask).shiftLeft (64 * e.1)) 0⟩
    let s := if x.mask = 0 then s
      else ({ s with nextUid := id + 1 }.modSlice k fun sl => { sl with spills := sl.spills ++ [x] }).sendMesh (k / 4)
        (.sock (memSocket (line * 256))) net (sliceSource k) tm (.sockWrite k id false)
    s.modSlice k fun sl => { sl with lines := sl.lines.erase line }

/-- The lines that a slice holds or has asked memory for. -/
def Slice.taken (sl : Slice) : List Nat :=
  sl.lines.map (·.1) ++ ((sl.fills.map (·.1)).eraseDups.filter fun l => (sl.lines.get? l).isNone)

/-- Room for a line at a slice of 32,768 lines, those that memory is still to bring among them (R268): a full one gives up its lowest
line that no admitted request is for (log entry 26). -/
def State.sliceRoom (s : State) (k line net : Nat) (tm : Terms) : State :=
  let sl := s.slice k
  if sl.taken.contains line || decide (sl.taken.length < 32768) then s
  else
    match sl.lines.find? fun e => !(sl.admitted.any fun a => a.line == e.1) with
    | some e => s.spillLine k e.1 net tm
    | none => s

/-- Bytes written in a sector that a slice holds. -/
def SliceSector.write (x : SliceSector) (data : Sector) (m : BitVec 64) : SliceSector :=
  { filled := x.filled || (x.mask ||| m) == BitVec.allOnes 64, data := Sector.merge x.data data m, mask := x.mask ||| m }

/-- A queue engine notices a write of QCMD, byte 0x38 of a control block (R60, R62). -/
def State.noteQcmd (s : State) (pa : Nat) (m : BitVec 64) : State :=
  if pa / 64 % 4 = 0 ∧ m.getLsbD 0x38 then
    { s with queues := s.queues.mapVals fun q =>
        if q.cbpa ≠ 0 ∧ q.cbpa.toNat = pa / 256 then { q with cmdWritten := true } else q }
  else s

/-- Bytes merged into a sector at its home slice, with the terms of the write, which those of a line that it displaces take (R74); the
write fills nothing (R267). A line reached under two keys keeps, at its slice, the key of the first access, under which it is filled and
written to memory (R264; DESIGN CHOICE, log entry 141). -/
def State.mergeSector (s : State) (pa key : Nat) (x : Sector) (m : BitVec 64) (net : Nat) (tm : Terms) : State :=
  let s := s.noteQcmd pa m
  match s.homeOf (pa / 256) with
  | none => s.storeSector pa key x m
  | some k =>
    (s.sliceRoom k (pa / 256) net tm).modSlice k fun sl =>
      let ln := sl.lines.getD (pa / 256) { key := key, sec := [] }
      let sec := ln.sec.set (pa / 64 % 4) ((ln.sec.getD (pa / 64 % 4) ⟨false, 0, 0⟩).write x m)
      { sl with lines := sl.lines.set (pa / 256) { ln with sec := sec } }

/-! ## Copies in cores -/

/-- Reuse entries that read a sector end (R145). -/
def Core.dropSectorReuse (c : Core) (sec : Nat) : Core := c.dropReuse fun e => e.isLoad && e.sectors.contains sec

/-- The bytes that an L1 holds written in a sector. -/
def L1Sector.mask (x : L1Sector) : BitVec 64 := x.rcMask ||| x.blkMask

/-- Bytes of teams leave their spindle: their first-visible-commit bits are set (R89). -/
def State.commitOf (s : State) (teams : List Nat) : State := teams.foldl (fun s t => s.modTeam t fun tm => { tm with fvc := true }) s

/-- A sector dropped from an L1, with the reuse entries that read it. -/
def Core.dropL1 (c : Core) (sec : Nat) : Core :=
  let c := c.dropSectorReuse sec
  match c.l1.get? (sec / 4) with
  | none => c
  | some ln =>
    let rest := ln.sec.erase (sec % 4)
    { c with l1 := if rest.isEmpty then c.l1.erase (sec / 4) else c.l1.set (sec / 4) { ln with sec := rest } }

/-! ## Mapped stash sectors (R270, R271) -/

/-- The bytes that a mapped sector holds written. -/
def MapSec.mask (e : MapSec) : BitVec 64 := e.rcMask ||| e.blkMask

/-- A sector that has not been touched, of the sector at a PA. -/
def MapSec.empty (pa key : Nat) : MapSec := ⟨false, 0, 0, pa, key⟩

/-- The mapped sectors that are copies of a sector of memory: team, stash sector index, sector. -/
def State.mapHolders (s : State) (sec : Nat) : List (Nat × Nat × MapSec) :=
  s.teams.flatMap fun t => t.2.maps.flatMap fun m => (m.sec.filter fun e => e.2.pa / 64 == sec).map fun e => (t.1, e.1, e.2)

/-- Those of a line. -/
def State.mapHoldersOf (s : State) (line : Nat) : List (Nat × Nat × MapSec) :=
  s.teams.flatMap fun t => t.2.maps.flatMap fun m => (m.sec.filter fun e => e.2.pa / 256 == line).map fun e => (t.1, e.1, e.2)

/-! ## What a queue engine, a walker and a manager-core duty read (log entry 144) -/

/-- Bytes written by an agent that nobody awaits, in a request that its home slice has not performed: oldest first. -/
def Slice.agentWrites (sl : Slice) (line : Nat) : List (BitVec 256 × BitVec 2048) :=
  (((sl.pend.filter (·.hidden)).map (·.req)) ++ sl.admitted ++ sl.inq).filterMap fun r =>
    match r.asker, r.kind with
    | .none, .write m d => if r.line = line then some (m, d) else none
    | _, _ => none

/-- The sector at a PA as a read of an agent finds it: what the home slice gives, after a recall of what stashes hold written of it
(R271), and with the agent's own earlier writes. -/
def State.sectorSeen (s : State) (pa key : Nat) : Sector :=
  let x := (s.mapHolders (pa / 64)).foldl (fun x h =>
    Sector.merge x ((s.teams.get? h.1).elim 0 fun tm => tm.stash.getD h.2.1 0) h.2.2.mask) (s.sectorAt pa key)
  let lay (x : Sector) (w : BitVec 256 × BitVec 2048) : Sector :=
    Sector.merge x (w.2.extractLsb' (512 * (pa / 64 % 4)) 512) (w.1.extractLsb' (64 * (pa / 64 % 4)) 64)
  match s.homeOf (pa / 256) with
  | some k => ((s.slice k).agentWrites (pa / 256)).foldl lay x
  | none => (s.sock (memSocket pa)).inq.foldl (fun x m => match m.msg with
      | .sockRaw a _ d w => if a / 64 = pa / 64 then Sector.merge x d w else x
      | _ => x) x

/-- Whether data in a range cannot be corrected and are withheld (R359). -/
def State.withheldAt (s : State) (pa n : Nat) : Bool := s.withheld.any fun x => decide (pa / 64 ≤ x) && decide (x * 64 < pa + n)

/-! ## Translation -/

/-- How a walk ends. -/
inductive Walk where
  /-- The leaf and the PA of the byte. -/
  | ok (leaf : W64) (pa : Nat)
  /-- The level that ended the walk, and the fault queue's CAUSE (R394). -/
  | miss (level cause : Nat)
  /-- A malformed entry (R262). -/
  | bad
  /-- An entry's data cannot be corrected: nothing is read of them before the halt (R359). -/
  | held
  deriving DecidableEq, Repr

/-- Whether a present entry is malformed at a level (R262). -/
def malformed (s : State) (level : Nat) (e : W64) : Bool :=
  let leaf := e.getLsbD 1
  let frame := bits e 16 32 * 65536
  if e.getLsbD 48 || (bits e 5 9 != 0) then true
  else if leaf then
    let place := bits e 49 2
    let key := bits e 54 10
    level == 0 || (bits e 14 2 != 0) || decide (bits e 51 3 ≥ 5) || (level == 1 && frame % 2 ^ 27 != 0) ||
      paPlace frame != some place || (key != 0 && (s.keys.get? key).isNone)
  else
    level == 2 || bits e 54 10 != 0 || bits e 51 3 != 0 || bits e 49 2 != 0 ||
      (paPlace (bits e 16 32 * 65536 + bits e 14 2 * 16384)).isNone

/-- The power unit of a DRAM stack (R433). -/
def sockUnit (m : Nat) : Nat := 24 + m

/-- The power state of a memory socket allows accesses (R432); the far memory behind a port die has no power unit (R433). -/
def State.sockUp (s : State) (m : Nat) : Bool := decide (12 ≤ m) || decide ((s.unit (sockUnit m)).state ≤ 1)

/-- Levels of the walk from a table (R261), each entry read as `State.sectorSeen` gives it. A table in a granule that the partition
does not own is a permission violation (R8, R260). Tables are read under key 0 (DESIGN CHOICE, log entry 139), and bits 49 and up of the
address, which only the private share of a PRIVPOOL above 2^49 has, take no part in the walk (R274; DESIGN CHOICE, log entry 142). -/
def State.walkFrom (s : State) (part va : Nat) : Nat → Nat → Nat → Walk
  | 0, _, _ => .bad
  | fuel + 1, level, table =>
    let idx := va / 2 ^ (38 - 11 * level) % 2048
    let pa := table + 8 * idx
    if s.ownerOf pa ≠ part then .bad
    else if !s.sockUp (memSocket pa) then .miss level 2
    else if s.withheldAt pa 8 then .held
    else
      let e : W64 := (s.sectorSeen pa 0).extractLsb' (8 * (pa % 64)) 64
      if !e.getLsbD 0 then .miss level 1
      else if malformed s level e then .bad
      else if e.getLsbD 1 then
        let frame := bits e 16 32 * 65536
        .ok e (frame + va % (if level = 1 then 2 ^ 27 else 65536))
      else s.walkFrom part va fuel (level + 1) (bits e 16 32 * 65536 + bits e 14 2 * 16384)

/-- A translation held by a core or walked (R261, R266); `ctx` is a number of `Team.vctx`. -/
def State.translate (s : State) (ctx core va : Nat) : Walk :=
  match (s.core core).tlb.find? fun t => t.ctx == ctx % 4096 && t.vpage == va / 65536 with
  | some t => .ok t.leaf (t.frame + va % 65536)
  | none => s.walkFrom (s.spindle (core / 36)).part va 3 0 (s.descOf (ctx % 4096) (ctx / 4096)).root.toNat

/-- A translation that was used stays with the core (R266). -/
def State.fillTlb (s : State) (ctx core va : Nat) : State :=
  match s.translate ctx core va with
  | .ok leaf pa =>
    if (s.core core).tlb.any fun t => t.ctx == ctx % 4096 && t.vpage == va / 65536 then s
    else s.modCore core fun c => { c with tlb := { ctx := ctx % 4096, vpage := va / 65536, leaf := leaf, frame := pa / 65536 * 65536 } :: c.tlb }
  | _ => s

/-- The key and floor of a leaf. -/
def leafKey (e : W64) : Nat := bits e 54 10
def leafFloor (e : W64) : Nat := bits e 51 3

/-- What an access needs of a page: read, write, execute. -/
structure Need where
  rd : Bool
  wr : Bool
  ex : Bool
  deriving DecidableEq, Repr

def leafAllows (e : W64) (n : Need) : Bool :=
  (!n.rd || e.getLsbD 2) && (!n.wr || e.getLsbD 3) && (!n.ex || e.getLsbD 4)

/-- KIND bits of the fault queue (R394). -/
def Need.kind (n : Need) (engine : Bool) : BitVec 4 :=
  BitVec.ofBool engine ++ BitVec.ofBool n.ex ++ BitVec.ofBool n.wr ++ BitVec.ofBool n.rd

/-- Domain ranks (R30). -/
def Dom.rank : Dom → Nat
  | .sc => 4
  | .tso => 3
  | .cau => 2
  | .rc => 1
  | .blk => 0

/-- How a checked access ends, in the step order of R263. -/
inductive Acc where
  /-- Pieces: offset in the access, length, place. -/
  | ok (ps : List (Nat × Nat × Place))
  | align
  /-- Step 2 or 4: a permission violation. -/
  | perm (step : Nat)
  | miss (page : W64) (level cause : Nat)
  | floor (eff page : Nat)
  /-- It cannot be checked before the halt (R359). -/
  | held
  deriving DecidableEq, Repr

/-- The step of R263 at which an access fails; 6 for none, 0 for a check that waits. -/
def Acc.step : Acc → Nat
  | .held => 0
  | .align => 1
  | .perm k => k
  | .miss _ _ _ => 3
  | .floor _ _ => 5
  | .ok _ => 6

/-- The apertures of R257. -/
inductive Aperture where
  | global | priv | peer | stash | noAperture
  deriving DecidableEq, Repr

def apertureOf (va : Nat) : Aperture :=
  match va / 2 ^ 56 with
  | 0x00 => if va / 2 ^ 49 % 128 = 0 then .global else .noAperture
  | 0xFC => if va / 2 ^ 16 % 2 ^ 40 = 0 then .priv else .noAperture
  | 0xFD => .peer
  | 0xFE => if va / 2 ^ 19 % 2 ^ 37 = 0 then .stash else .noAperture
  | _ => .noAperture

/-- Who accesses: the team, its context, core, launch floor, PRIVATE, STASH, wave and lane. -/
structure Who where
  part : Nat
  ctx : Nat
  core : Nat
  floor : Nat
  priv : Nat
  stashSize : Nat
  privBase : Nat
  maps : List SMap
  waveIx : Nat
  lane : Nat
  /-- Copy engines do not redirect a global address through mappings (R330). -/
  engine : Bool
  deriving DecidableEq, Repr

/-- One translated piece of global memory (R263 steps 3 to 5, and the owner check of R260). -/
def State.physPiece (s : State) (w : Who) (va : Nat) (need : Need) (rank minFloor : Nat) : Acc :=
  match s.translate w.ctx w.core va with
  | .miss level cause => .miss (BitVec.ofNat 64 (va / 65536 * 65536)) level cause
  | .bad => .perm 4
  | .held => .held
  | .ok leaf pa =>
    if !leafAllows leaf need || s.ownerOf pa != w.part then .perm 4
    else if rank < Nat.max (Nat.max w.floor minFloor) (leafFloor leaf) then
      .floor (Nat.max (Nat.max w.floor minFloor) (leafFloor leaf)) (leafFloor leaf)
    else .ok [(0, 0, .phys pa (leafKey leaf))]

/-- The mapping that covers a global address, or a stash offset (R270). -/
def mapOfGlobal (ms : List SMap) (va : Nat) : Option SMap := ms.find? fun m => decide (m.g ≤ va ∧ va < m.g + m.len)
def mapOfStash (ms : List SMap) (o : Nat) : Option SMap := ms.find? fun m => decide (m.o ≤ o ∧ o < m.o + m.len)

/-- PrivAddr (R274). -/
def privAddr (w : Who) (p : Nat) : Nat := w.privBase + w.waveIx * w.priv * 32 + (p / 4) * 128 + w.lane * 4 + p % 4

/-- The sectors that n bytes from an address touch: place, address and length of each part. -/
def sectorSpans (va n : Nat) : List (Nat × Nat × Nat) :=
  (List.range ((va % 64 + n + 63) / 64)).map fun i =>
    let a := if i = 0 then va else va - va % 64 + 64 * i
    (a - va, a, Nat.min (va + n) (a - a % 64 + 64) - a)

/-- `n` bytes from an address on, of the sectors that a function gives. -/
def spanBytes (sector : Nat → Sector) (pa n : Nat) : List Byte :=
  (sectorSpans pa n).flatMap fun p => (List.range p.2.2).map fun i => Sector.byte (sector p.2.1) (p.2.1 % 64 + i)

/-- Bytes of physical memory under a key, as the home slices give them. -/
def State.readPaKey (s : State) (pa n key : Nat) : List Byte := spanBytes (fun a => s.sectorAt a key) pa n

/-- Bytes of physical memory under a key, as an agent reads them (`State.sectorSeen`). -/
def State.readSeen (s : State) (pa n key : Nat) : List Byte := spanBytes (fun a => s.sectorSeen a key) pa n

/-- A little-endian field of physical memory, as an agent reads it. -/
def State.readPa (s : State) (pa n : Nat) : Nat := leNat (s.readSeen pa n 0)

/-- The lines that n bytes from an address touch, in the same way. -/
def lineSpans (va n : Nat) : List (Nat × Nat × Nat) :=
  (List.range ((va % 256 + n + 255) / 256)).map fun i =>
    let a := if i = 0 then va else va - va % 256 + 256 * i
    (a - va, a, Nat.min (va + n) (a - a % 256 + 256) - a)

/-- The floor that a peer-window access meets before the exporter's page is known: that of the launch and of the entry
(R277). -/
def State.peerFloor (s : State) (w : Who) (va : Nat) : Nat :=
  Nat.max w.floor (s.readPa ((s.descOf (w.ctx % 4096) (w.ctx / 4096)).peertab.toNat + 32 * (va / 2 ^ 48 % 256) + 16) 4 / 16 % 8)

/-- The first failure of a list of accesses, else all their pieces. -/
def joinAcc : List (Nat × Nat × Acc) → Acc
  | [] => .ok []
  | (at_, len, a) :: l =>
    match a, joinAcc l with
    | .ok ps, .ok qs => .ok (ps.map (fun p => (at_, len, p.2.2)) ++ qs)
    | .ok _, bad => bad
    | bad, .ok _ => bad
    | bad, other => if other.step < bad.step then other else bad

/-- A peer-window access at offset x of entry e (R276, R277). An export of another partition of this package is
translated here, sector by sector; one of another package travels to it, which checks it there, its floor with that of
`State.peerFloor`. A handle with a package number of 432 or more, which no package of the domain has, goes where `Config.linkTo` leads
(DESIGN CHOICE, log entry 143). -/
def State.peerPiece (s : State) (w : Who) (va width : Nat) (need : Need) (rank : Nat) : Acc :=
  let e := va / 2 ^ 48 % 256
  let x := va % 2 ^ 48
  let tab := (s.descOf (w.ctx % 4096) (w.ctx / 4096)).peertab.toNat
  let base := tab + 32 * e
  let handle := s.readPa base 8
  let limit := s.readPa (base + 8) 8
  let attr := s.readPa (base + 16) 4
  let fl := attr / 16 % 8
  if tab ≠ 0 ∧ s.withheldAt base 32 then .held
  else if tab = 0 ∨ s.ownerOf base ≠ w.part ∨ attr % 2 = 0 ∨ handle % 2 ^ 18 ≠ 0 ∨ x + width > limit ∨
      (need.rd ∧ attr / 2 % 2 = 0) ∨ (need.wr ∧ attr / 4 % 2 = 0) ∨ attr / 128 ≠ 0 ∨ attr / 8 % 2 = 1 ∨ fl ≥ 5 ∨ s.readPa (base + 20) 12 ≠ 0 then .perm 2
  else
    let pkg := handle / 2 ^ 55
    let part := handle / 2 ^ 50 % 32
    let ix := handle / 2 ^ 34 % 65536
    let gen := handle / 2 ^ 18 % 65536
    if pkg = Config.packageNumber then
      let ent := (s.part part).exptab.toNat + 32 * ix
      let ctx := s.readPa ent 2
      if (s.part part).exptab = 0 ∨ s.ownerOf ent ≠ part ∨ (s.part part).pstate ≠ 1 ∨ s.withheldAt ent 32 ∨ s.readPa (ent + 2) 2 ≠ gen ∨
          x + width > s.readPa (ent + 16) 8 then .perm 4
      else
        joinAcc ((sectorSpans (s.readPa (ent + 8) 8 + x) width).map fun p => (p.1, p.2.2,
          match s.walkFrom part p.2.1 3 0 (s.ctx ctx).now.root.toNat with
          | .ok leaf pa =>
            if !leafAllows leaf need || s.ownerOf pa != part then .perm 4
            else if rank < Nat.max (Nat.max w.floor fl) (leafFloor leaf) then
              .floor (Nat.max (Nat.max w.floor fl) (leafFloor leaf)) (leafFloor leaf)
            else .ok [(0, p.2.2, .peer pa (leafKey leaf))]
          | _ => .perm 4))
    else .ok [(0, width, .remote pkg part ix gen x [])]

/-- The pieces of an access to mapped bytes: one for each sector. -/
def mappedPieces (o width : Nat) (pa key : Nat) : List (Nat × Nat × Place) :=
  (sectorSpans o width).map fun p => (p.1, p.2.2, .mapped p.2.1 (pa + p.1) key)

/-- The pieces of one element that is changed in one step, an atomic, a ring or a barrier object, joined: an element that lies in two
lines of an export with an unaligned base is refused (log entry 127). -/
def Acc.oneLine (a : Acc) (width : Nat) : Acc :=
  match a with
  | .ok ((at_, n, .peer pa key) :: p :: ps) => if pa % 256 + width ≤ 256 then .ok [(at_, width, .peer pa key)] else
      if (p :: ps).isEmpty then .ok [(at_, n, .peer pa key)] else .perm 4
  | .ok ((at_, _, .mapped o pa key) :: _ :: _) => .ok [(at_, width, .mapped o pa key)]
  | a => a

/-- One part of a lane's access: the checks of R263 in order and where each piece performs (R306). `aligned`: the instruction
requires `va` to be a multiple of its width. -/
def State.accessPart (s : State) (w : Who) (va width : Nat) (aligned : Bool) (need : Need) (dom : Dom) : Acc :=
  let rank := Dom.rank dom
  if aligned && va % width != 0 then .align
  else
    match apertureOf va with
    | .noAperture => .perm 2
    | .global =>
      if va + width > 2 ^ 49 then .perm 2
      else
        match (if w.engine then none else mapOfGlobal w.maps va) with
        | some m =>
          match s.physPiece w va need rank 0 with
          | .ok [(_, _, .phys pa key)] => .ok (mappedPieces (m.o + (va - m.g)) width pa key)
          | a => a
        | none =>
          if va / 65536 = (va + width - 1) / 65536 then joinAcc [(0, width, s.physPiece w va need rank 0)]
          else
            let n := 65536 - va % 65536
            joinAcc [(0, n, s.physPiece w va need rank 0), (n, width - n, s.physPiece w (va + n) need rank 0)]
    | .priv =>
      let p := va % 65536
      if p + width > w.priv then .perm 2
      else
        let slots := (List.range ((p + width - 1) / 4 - p / 4 + 1)).map fun k =>
          let lo := Nat.max p ((p / 4 + k) * 4)
          let hi := Nat.min (p + width) ((p / 4 + k + 1) * 4)
          (lo - p, hi - lo, s.physPiece w (privAddr w lo) need rank 0)
        match joinAcc slots with
        | .ok ps => .ok (ps.map fun p => (p.1, p.2.1, match p.2.2 with | .phys pa key => .priv pa key | pl => pl))
        | a => a
    | .stash =>
      let o := va % 2 ^ 19
      if o + width > w.stashSize then .perm 2
      else
        match mapOfStash w.maps o with
        | some m =>
          match s.physPiece w (m.g + (o - m.o)) need rank 0 with
          | .ok [(_, _, .phys pa key)] => .ok (mappedPieces o width pa key)
          | a => a
        | none => if rank < w.floor then .floor w.floor 0 else .ok [(0, width, .stash o)]
    | .peer => s.peerPiece w va width need rank

/-- One lane's access of `width` bytes at `va`. A 16-byte access is performed as two 8-byte parts (R279). -/
def State.access (s : State) (w : Who) (va width : Nat) (aligned : Bool) (need : Need) (dom : Dom) : Acc :=
  if width = 16 then
    if aligned && va % 16 != 0 then .align
    else
      let part (k : Nat) : Acc := s.accessPart w ((va + 8 * k) % 2 ^ 64) 8 false need dom
      match part 0, part 1 with
      | .ok ps, .ok qs => .ok (ps ++ qs.map fun q => (8 + q.1, q.2.1, q.2.2))
      | .ok _, bad => bad
      | bad, .ok _ => bad
      | bad, other => if other.step < bad.step then other else bad
  else s.accessPart w va width aligned need dom

/-! ## The stash -/

/-- Bytes of a team's stash. -/
def Team.stashRead (tm : Team) (o n : Nat) : List Byte :=
  (List.range n).map fun i => Sector.byte (tm.stash.getD ((o + i) / 64) 0) ((o + i) % 64)

def Team.stashByte (tm : Team) (o : Nat) (b : Byte) : Team :=
  { tm with stash := tm.stash.set (o / 64) (Sector.put (tm.stash.getD (o / 64) 0) (o % 64) [b]) }

/-- Bytes written to a team's stash. -/
def Team.stashWrite (tm : Team) (o : Nat) : List Byte → Team
  | [] => tm
  | b :: bs => (tm.stashByte o b).stashWrite (o + 1) bs

/-- A field of the stash. -/
def Team.stashNat (tm : Team) (o n : Nat) : Nat := leNat (tm.stashRead o n)

/-- The mapped sector of a stash sector, with its mapping. -/
def Team.mapAt (tm : Team) (osec : Nat) : Option (SMap × MapSec) :=
  tm.maps.findSome? fun m => if m.o ≤ osec * 64 ∧ osec * 64 < m.o + m.len then (m.sec.get? osec).map fun e => (m, e) else none

/-- A mapped sector of a team changed, or, with `none`, unfilled. -/
def Team.setMapSec (tm : Team) (osec : Nat) (f : Option MapSec → Option MapSec) : Team :=
  { tm with maps := tm.maps.map fun m =>
      if m.o ≤ osec * 64 ∧ osec * 64 < m.o + m.len then
        { m with sec := match f (m.sec.get? osec) with | some e => m.sec.set osec e | none => m.sec.erase osec }
      else m }

/-- Load reuse of mapped sectors among n bytes of a team's stash ends: the core has changed them by other means than a store (R145,
R273). -/
def State.stashTouched (s : State) (t o n : Nat) : State :=
  match s.teams.get? t with
  | none => s
  | some tm =>
    let secs := (sectorSpans o n).filterMap fun p => (tm.mapAt (p.2.1 / 64)).map fun e => e.2.pa / 64
    if secs.isEmpty then s else s.modCore tm.core fun c => secs.foldl Core.dropSectorReuse c

/-! ## Copies, and the writes of agents that nobody awaits (R271, R296, R298) -/

/-- The link ports that a write to a line must snoop (R298). -/
def State.snoopPorts (s : State) (line : Nat) : List Nat :=
  match s.homeOf line with
  | some k => if ((s.slice k).dir.getD line ⟨0, false⟩).ext then List.range 32 else []
  | none => []

/-- The cores whose copies of a line a write must reach (R296, R298): those of the sharer spindles that hold a sector of it,
have an answer under way, or hold it in a mapped stash range; the copy that a write-back comes from is not meant. -/
def State.copyHolders (s : State) (k line : Nat) (by_ : Asker) : List Nat :=
  let d := (s.slice k).dir.getD line ⟨0, false⟩
  let skipL1 (c : Nat) : Bool := match by_ with | .evict b none => b == c | _ => false
  let skipTeam (t : Nat) : Bool := match by_ with | .evict _ (some u) => u == t | _ => false
  let maps := ((s.mapHoldersOf line).filter fun h => !skipTeam h.1).filterMap fun h => (s.teams.get? h.1).map Team.core
  (s.cores.filter fun c =>
    d.sharers.getLsbD (c.1 / 36) &&
      ((!skipL1 c.1 && ((match c.2.l1.get? line with | some ln => ln.sec.any (·.2.valid) | none => false) ||
        c.2.readsOut.any fun r => r.2.1 == line)) || maps.contains c.1)).map (·.1)

/-- Whether nothing stands between a write at the home slice and its propagation: no copy of the line, no port to snoop, no write of it
that is still to propagate, no earlier write of an agent to it. -/
def State.quiet (s : State) (k line : Nat) : Bool :=
  let sl := s.slice k
  (s.copyHolders k line .none).isEmpty && (s.mapHoldersOf line).isEmpty && (s.snoopPorts line).isEmpty &&
    !(sl.pend.any fun p => p.req.line == line) && (sl.agentWrites line).isEmpty

/-- Bytes within one sector written by a queue engine or a manager-core duty, in SC (R73, R278): at once where they propagate at once,
else by a request in whose turn they are performed (log entry 28), with the terms of what it is made for (R74); at the memory socket where
no slice is home, which serves them once it has power (R432). -/
def State.writeSector (s : State) (tm : Terms) (pa key : Nat) (bs : List Byte) : State :=
  let x : Sector := BitVec.ofNat 512 (leNat bs <<< (8 * (pa % 64)))
  let m : BitVec 64 := maskAt 64 (pa % 64) bs.length
  let part := s.ownerOf pa
  match s.homeOf (pa / 256) with
  | none =>
    let k := memSocket pa
    if s.sockUp k then s.mergeSector pa key x m 0 tm
    else
      let msg : MeshMsg := ⟨.sock k, 0, engineSource part, tm, s.nextUid, false, .sockRaw pa key x m⟩
      ({ s with nextUid := s.nextUid + 1 }.noteQcmd pa m).modSock k fun so => { so with inq := so.inq ++ [msg] }
  | some k =>
    if s.quiet k (pa / 256) then s.mergeSector pa key x m 0 tm
    else
      let r : Req := ⟨s.nextUid, 0, engineSource part, .none, .sc, pa / 256, key,
        .write (m.setWidth 256 <<< (64 * (pa / 64 % 4))) (x.setWidth 2048 <<< (512 * (pa / 64 % 4))),
        tm.deadline, tm.prio, tm.queue, part, true, false, tm.own⟩
      { s with nextUid := s.nextUid + 1 }.modSlice k fun sl => { sl with inq := sl.inq ++ [r] }

/-- Bytes from a PA on, sector by sector. -/
def State.writePaFor (s : State) (tm : Terms) (pa key : Nat) (bs : List Byte) : State :=
  (sectorSpans pa bs.length).foldl (fun s p => s.writeSector tm p.2.1 key ((bs.drop p.1).take p.2.2)) s

/-- Bytes written on behalf of no launch. -/
def State.writePa (s : State) (pa key : Nat) (bs : List Byte) : State := s.writePaFor (Terms.nobody (s.ownerOf pa)) pa key bs

/-- Bytes of a line or more merged at its home slice. -/
def State.mergeBytes (s : State) (pa key : Nat) (bs : List Byte) (net : Nat) (tm : Terms) : State :=
  (sectorSpans pa bs.length).foldl (fun s p =>
    s.mergeSector p.2.1 key (BitVec.ofNat 512 (leNat ((bs.drop p.1).take p.2.2) <<< (8 * (p.2.1 % 64)))) (maskAt 64 (p.2.1 % 64) p.2.2) net tm) s

/-- Answers to reads of a line that are still on their way fill no L1 and no mapped sector (R296). -/
def Core.overtake (c : Core) (line : Nat) : Core :=
  { c with
    readsOut := c.readsOut.map fun r => if r.2.1 = line then (r.1, line, true) else r
    farReads := c.farReads.map fun r => if r.2.2.1 = line then (r.1, r.2.1, line, true) else r }

end Sys2Proof.Machine
end

