-- ==== Sys2Proof/Machine/Operands.lean ====
section
/-! DEFINITION. The issue of one wave subset: the checks of R115, interlocks (R112), channel operands (R102-R105, R334-R341),
register operands with their hazards (R111-R114), and retirement of a subset as one unit (R148). -/

namespace Sys2Proof.Machine

/-! ## Channels -/

/-- Stage rings (R335): fields of the header at a stash offset. -/
def ringHead (tm : Team) (o : Nat) : Nat := tm.stashNat o 4
def ringTail (tm : Team) (o : Nat) : Nat := tm.stashNat (o + 4) 4
def ringNent (tm : Team) (o : Nat) : Nat := tm.stashNat (o + 8) 2
def ringFree (tm : Team) (o : Nat) : Nat := tm.stashNat (o + 10) 2
def ringPhase (tm : Team) (o : Nat) : Nat := tm.stashNat (o + 16) 8

/-- Whether the entry of reservation n is full (R336). -/
def ringFull (tm : Team) (o n : Nat) : Bool :=
  let ne := ringNent tm o
  ne != 0 && decide (nbits (ringPhase tm o) (n % ne) 1 = (n / ne + 1) % 2)

/-- The tag that an instruction writes for one that it copies: a reserved one, which a ring entry or a register of a changed image may
hold, is never written (R204; log entry 107). -/
def legalTag (t : BitVec 4) : BitVec 4 := if t.toNat < 13 then t else BitVec.ofNat 4 (Config.ringTag t.toNat % 13)

/-- A vector as an instruction writes it. -/
def Vec.legal (v : Vec) : Vec := if lanes32.all fun l => decide ((v.tagAt l).toNat < 13) then v else Vec.of fun l => ⟨v.val l, legalTag (v.tagAt l)⟩

/-- The data and tags of an entry, as they stand in the stash (R335). -/
def ringEntry (tm : Team) (o i : Nat) : Vec :=
  let ne := ringNent tm o
  Vec.of fun l =>
    ⟨BitVec.ofNat 32 (tm.stashNat (o + 64 + 128 * i + 4 * l) 4),
     BitVec.ofNat 4 (tm.stashNat (o + 64 + 128 * ne + 16 * i + l / 2) 1 / (if l % 2 = 1 then 16 else 1))⟩

/-- The bytes of a vector's values, and of its tags two to a byte. -/
def Vec.bytes (v : Vec) : List Byte := (lanes32.map fun l => toLe 4 (v.val l).toNat).flatten
def Vec.tagBytes (v : Vec) : List Byte :=
  (List.range 16).map fun i => (v.tagAt (2 * i + 1)) ++ (v.tagAt (2 * i))

/-- `k` entries popped (R336). -/
def ringPop (tm : Team) (o k : Nat) : Team :=
  (tm.stashWrite o (toLe 4 (ringHead tm o + k))).stashWrite (o + 10) (toLe 2 (ringFree tm o + k))

/-- An entry reserved (R336); the reservation's number is the old TAIL. -/
def ringReserve (tm : Team) (o : Nat) : Team :=
  (tm.stashWrite (o + 4) (toLe 4 (ringTail tm o + 1))).stashWrite (o + 10) (toLe 2 (ringFree tm o - 1))

/-- Reservation n's entry filled: its data and tags, then its phase bit inverted (R336). -/
def ringFill (tm : Team) (o n : Nat) (v : Vec) : Team :=
  let ne := ringNent tm o
  let i := if ne = 0 then 0 else n % ne
  let tm := (tm.stashWrite (o + 64 + 128 * i) v.bytes).stashWrite (o + 64 + 128 * ne + 16 * i) v.tagBytes
  tm.stashWrite (o + 16) (toLe 8 (ringPhase tm o ^^^ (1 <<< i)))

/-- The binding-table entry of a channel of the wave (R33, R34); `none` when unbound. -/
def Iss.chanSlot (i : Iss) (n : Nat) : Option Nat :=
  match i.launch.header.chmaps[256 * i.wave.role.ctorIdx + n]? with
  | some b => if b = 0xFF then none else some b.toNat
  | none => none

def Iss.bind? (i : Iss) (n : Nat) : Option (Nat × Bind) :=
  match i.chanSlot n with
  | some k => (i.team.bind[k]?).map fun b => (k, b)
  | none => none

/-- The kinds that allow a pop, a push, a push by an engine (R334, R337). -/
def popKind (k : Nat) : Bool := k == 1 || k == 5 || k == 7
def pushKind (k : Nat) : Bool := k == 1 || k == 5 || k == 6 || k == 7

/-- The direction whose buffer of the bound core an entry pushed in a direction enters (R340). -/
def oppositeDir : Nat → Nat
  | 0 => 1
  | 1 => 0
  | 2 => 3
  | _ => 2

/-- The physical core a source number names (R10). -/
def sourceCore (u : Nat) : Nat := u / 64 * 36 + u % 64

/-- Whether two binding entries stand for one member: two channels may map to one (R33, R34). -/
def Bind.same (a b : Bind) : Bool :=
  a.kind == b.kind && (if a.kind = 5 then a.addr == b.addr else a.param == b.param)

/-- Entries of a member that operations in flight of a team have read and remove when they retire (R104). -/
def Team.claims (tm : Team) (b : Bind) : Nat :=
  tm.waves.foldl (fun n w => w.2.ops.foldl (fun n o =>
    o.pops.foldl (fun n p => if p.1.same b then n + p.2 else n) n) n) 0

/-- The same over every team that reads the member: the team's own ring, the teams of the core at a receive buffer, those of
the partition at a scale-out queue. Each subset takes entries of its own (R105), so a later one begins after them. -/
def State.claims (s : State) (tm : Team) (part : Nat) (b : Bind) : Nat :=
  let all (p : Team → Bool) : Nat := s.teams.foldl (fun n t => if t.2.place == .resident && p t.2 then n + t.2.claims b else n) 0
  match b.kind with
  | 1 => all fun t => t.core == tm.core
  | 7 => all fun t => (s.launches.get? t.launch).elim false fun l => l.part == part
  | _ => tm.claims b

/-- The received vectors or messages that a member holds, oldest first, as vectors (R334). -/
def State.chanHeld (s : State) (tm : Team) (part : Nat) (b : Bind) : List Vec :=
  match b.kind with
  | 1 => (s.core tm.core).recv.getD b.param []
  | 5 =>
    let o := b.addr.toNat
    let h := ringHead tm o
    let ne := ringNent tm o
    ((List.range ne).takeWhile fun k => ringFull tm o (h + k)).map fun k => ringEntry tm o ((h + k) % ne)
  | 7 => ((s.port b.param).recvQ.getD part []).map fun msg =>
      Vec.of fun l => ⟨BitVec.ofNat 32 (leAt msg (4 * l) 4), 0⟩
  | _ => []

/-- Those that an instruction may take. -/
def State.chanEntries (s : State) (tm : Team) (part : Nat) (b : Bind) : List Vec :=
  (s.chanHeld tm part b).drop (s.claims tm part b)

/-- How many entries a push may use (R336, R340, R341). -/
def State.chanFree (s : State) (tm : Team) (part : Nat) (b : Bind) : Nat :=
  match b.kind with
  | 1 =>
    let target := sourceCore b.unit
    let sp := s.spindle (target / 36)
    if sp.fenced || sp.resetting then 0
    else
      let flying := s.cores.foldl (fun n c => n + ((c.2.links.getD b.param []).filter fun e => e.target == target).length) 0
      16 - (((s.core target).recv.getD (oppositeDir b.param) []).length + flying)
  | 5 => ringFree tm b.addr.toNat
  | 6 =>
    let cb := b.addr.toNat
    let size := 2 ^ (s.readPa (cb + 24) 1)
    -- a control block that is not the partition's is found at the post, which halts the partition (R8)
    if s.ownerOf cb ≠ part then 1
    else size - ((s.readPa cb 8 + (s.queue b.param).posts.length) - s.readPa (cb + 8) 8)
  | 7 => 64 - ((s.port b.param).sendQ.filter fun m => m.1 == part).length
  | _ => 0

/-- `k` entries removed. -/
def State.chanPop (s : State) (t : Nat) (tm : Team) (part : Nat) (b : Bind) (k : Nat) : State :=
  match b.kind with
  | 1 => s.modCore tm.core fun c => { c with recv := c.recv.set b.param ((c.recv.getD b.param []).drop k) }
  | 5 => (s.modTeam t fun tm => ringPop tm b.addr.toNat k).stashTouched t b.addr.toNat 64
  | 7 => s.modPort b.param fun p => { p with recvQ := p.recvQ.set part ((p.recvQ.getD part []).drop k) }
  | _ => s

/-- One entry pushed (R336, R340, R341). A member outside the core sets the first-visible-commit bit (R89). -/
def State.chanPush (s : State) (t w : Nat) (tm : Team) (part : Nat) (b : Bind) (v : Vec) : State :=
  match b.kind with
  | 1 =>
    let target := sourceCore b.unit
    let halted := (s.part part).dbghalt.getLsbD (target / 36)
    (s.modCore tm.core fun c =>
      { c with links := c.links.set b.param ((c.links.getD b.param []) ++
          [⟨s.cycleOf tm.core + 8, target, if halted then 0 else s.tsc, v⟩]) }).modTeam
        t fun tm => { tm with fvc := true }
  | 5 => (s.modTeam t fun tm => ringFill (ringReserve tm b.addr.toNat) b.addr.toNat (ringTail tm b.addr.toNat) v).stashTouched t
      b.addr.toNat (64 + 144 * ringNent tm b.addr.toNat)
  | 6 => (s.modQueue b.param fun q => { q with posts := q.posts ++ [⟨t, w, part, b.addr.toNat, v.bytes⟩] }).modTeam t fun tm => { tm with fvc := true }
  | 7 => (s.modPort b.param fun p => { p with sendQ := p.sendQ ++ [(part, v.bytes)] }).modTeam t fun tm => { tm with fvc := true }
  | _ => s

/-- Whether a wait on a channel is met (R360): the head entry of the ring is full, the member has a free entry, or an entry
was received. -/
def State.channelMet (s : State) (tm : Team) (part : Nat) (x : Wake) : Bool :=
  match x with
  | .ringPop o => ringFull tm o (ringHead tm o + tm.claims ⟨5, false, 0, 0, BitVec.ofNat 64 o⟩)
  | .push k => (match tm.bind[k]? with
    | some b => decide (0 < s.chanFree tm part b)
    | none => true)
  | .recv k => (match tm.bind[k]? with
    | some b => !(s.chanEntries tm part b).isEmpty
    | none => true)
  | _ => false

/-- Subsets of resident teams whose waits on channels are met become READY. -/
def State.channelWake (s : State) : State :=
  s.teams.foldl (fun s t =>
    if t.2.place != .resident then s
    else
      let part := (s.launches.get? t.2.launch).elim 0 Launch.part
      t.2.waves.foldl (fun s w =>
        if w.2.waits.any fun x => s.channelMet t.2 part x.wake then
          s.modWave t.1 w.1 fun wv => wv.wake s.time fun x => s.channelMet t.2 part x.wake
        else s) s) s

/-! ## Operand fields -/

/-- The registers an operand names. -/
def opndRegs : Opnd → List Nat
  | .v n => [n.toNat]
  | .p n => [n.toNat, n.toNat + 1]
  | .b2 n => [n.toNat, n.toNat + 1]
  | .b4 n => (List.range 4).map (n.toNat + ·)
  | .b8 n => (List.range 8).map (n.toNat + ·)
  | _ => []

/-- The protected resources an operand names (R112). -/
def opndRes : Opnd → List Res
  | .k n => [.pred n.toNat]
  | .j n => [.rejoin n.toNat]
  | o => (opndRegs o).map .reg

/-- How many entries a channel operand of a field stands for: one per register of its block (R237). -/
def Fld.count : Fld → Nat
  | .b2 => 2
  | .b8 => 8
  | _ => 1

/-- The fields of the instruction that issues. -/
def Iss.shape (i : Iss) : Shape :=
  (fields i.opc i.f.mod.toNat i.f.ext.isSome (barBit i.opc i.f.ext)).getD ⟨.none, .none, .none, .none, imm32⟩

/-- Instructions that write the predicate their C field names: IADDC, and LXCH and LANEBC with `.p` (R176, R189). -/
def writesC (opc mod : Nat) : Bool :=
  opc == 0x082 || ((opc == 0x0C0 || opc == 0x0C1) && mod / 4 == 1)

/-- Whether the predicate of C is read as well. -/
def readsC (opc : Nat) : Bool := !(opc == 0x0C0 || opc == 0x0C1)

/-- What an instruction reads, with the field numbers of R386 (0: the guard). -/
def Iss.reads (i : Iss) : List (Nat × Res) :=
  (match i.f.guard with | some (k, _) => [(0, .pred k.toNat)] | none => []) ++
    (opndRes i.f.a).map ((2, ·)) ++ (opndRes i.f.b).map ((3, ·)) ++
    (if readsC i.opc then (opndRes i.f.c).map ((4, ·)) else []) ++
    (match i.f.ext with
     | some e => if (i.opc == 0x280 || i.opc == 0x281) && bits e 0 4 != 0 then [(5, .pred (bits e 0 4 - 1))] else []
     | none => []) ++
    (if decide (0x180 ≤ i.opc ∧ i.opc ≤ 0x27F) && i.opc != 0x1E1 then [(0, .mode)] else []) ++
    (if i.opc == 0x1E1 then [(0, .flags)] else [])

/-- What an instruction writes. -/
def Iss.writes (i : Iss) : List (Nat × Res) :=
  (opndRes i.f.dst).map ((1, ·)) ++ (if writesC i.opc i.f.mod.toNat then (opndRes i.f.c).map ((4, ·)) else []) ++
    (if i.opc == 0x1E0 then [(0, .mode)] else []) ++ (if i.opc == 0x1E1 then [(0, .flags)] else [])

/-! ## The checks of R115 -/

/-- All lanes of the subset, no address and no detail. -/
def Iss.trap (_i : Iss) (cls : TrapClass) (field check reason : Nat) (lanes : Mask) (addr detail : W64) : Trap :=
  ⟨cls, field, check, reason, lanes, addr, detail⟩

/-- Check 2: every register below REGS (R25). -/
def Iss.checkRegs (i : Iss) : Option Trap :=
  match ([(1, i.f.dst), (2, i.f.a), (3, i.f.b), (4, i.f.c)] : List (Nat × Opnd)).find? fun fo =>
      (opndRegs fo.2).any fun r => decide (i.launch.header.regs ≤ r) with
  | some (fld, _) => some ⟨.illegal, fld, 2, 5, i.lanes, 0, 0⟩
  | none => none

/-- Check 3: the role allows the instruction (R26). -/
def roleAllows (r : Role) (opc : Nat) : Bool :=
  if 0x280 ≤ opc ∧ opc ≤ 0x2FF then r == .gen || r == .mtx
  else if 0x380 ≤ opc ∧ opc ≤ 0x385 then r == .gen || r == .cpy
  else true

def Iss.checkRole (i : Iss) : Option Trap :=
  if roleAllows i.wave.role i.opc then none
  else some ⟨.role, 0, 3, 0, i.lanes, 0, BitVec.ofNat 64 i.wave.role.ctorIdx⟩

/-- A write that is nearer than its latency (R112). -/
def Hazard.open_ (h : Hazard) : Bool := decide (h.dist < h.lat)

/-- The open hazards of a resource in some lane of a mask, the latest first. -/
def Wave.hazardsOf (w : Wave) (m : Mask) (r : Res) : List Hazard :=
  w.hazards.filter fun h => h.res == r && h.open_ && (h.lanes &&& m != 0)

/-- The latest of them. -/
def Wave.hazardOf (w : Wave) (m : Mask) (r : Res) : Option Hazard := (w.hazardsOf m r).head?

/-- Check 4: the issue distance, when the scoreboard is on (R114). -/
def Iss.checkStall (i : Iss) (scb : Bool) : Option Trap :=
  if !scb then none
  else
    match (i.reads ++ i.writes).findSome? fun fr => (i.wave.hazardOf i.lanes fr.2).map fun h => (fr.1, h) with
    | some (fld, h) =>
      some ⟨.stall, fld, 4, 0, i.lanes, h.pc, BitVec.ofNat 64 (h.dist % 256 + 256 * h.lat)⟩
    | none => none

/-- The channel operands of an instruction: field, channel, whether it pushes, how many entries, peek. -/
def Iss.chans (i : Iss) : List (Nat × Nat × Bool × Nat × Bool) :=
  let one (fld : Nat) (o : Opnd) (k : Fld) (push : Bool) : List (Nat × Nat × Bool × Nat × Bool) :=
    match o with
    | .ch n pk => [(fld, n.toNat, push, k.count, pk)]
    | _ => []
  let sh := i.shape
  one 2 i.f.a sh.a false ++ one 3 i.f.b sh.b false ++ one 4 i.f.c sh.c false ++ one 1 i.f.dst sh.dst true

/-- Whether the instruction is a copy command or RINGINIT, whose extension word names a binding entry (R321, R338). -/
def engineOpc (opc : Nat) : Bool := decide (0x380 ≤ opc ∧ opc ≤ 0x385)

/-- Check 5: every named channel bound, present and of a kind that allows the use (R35, R334, R337), and the binding entry
of an engine command (R321, R338). -/
def Iss.checkChan (i : Iss) : Option Trap :=
  match i.chans.findSome? fun (fld, n, push, _, _) =>
      match i.bind? n with
      | none => some (fld, n, 0xFF)
      | some (k, b) =>
        if b.absent || !(if push then (if engineOpc i.opc then b.kind == 5 else pushKind b.kind) else popKind b.kind)
        then some (fld, n, k) else none with
  | some (fld, n, k) => some ⟨.channel, fld, 5, 0, i.lanes, 0, BitVec.ofNat 64 (n + 256 * k)⟩
  | none =>
    if engineOpc i.opc || i.opc == 0x39A then
      let k := bits (i.f.ext.getD 0) 0 6
      let want := if i.opc == 0x39A then 5 else 4
      match i.team.bind[k]? with
      | some b => if b.absent || b.kind != want then some ⟨.channel, 5, 5, 0, i.lanes, 0, BitVec.ofNat 64 (256 * k)⟩ else none
      | none => some ⟨.channel, 5, 5, 0, i.lanes, 0, BitVec.ofNat 64 (256 * k)⟩
    else none

/-- The interlocks of R112: an outstanding class V result that the instruction reads or rewrites; for FFLAGS, one that
may raise a flag (log entry 18); for a push, an earlier one to the same channel that is still to come (R105). MMAQ and SCRD
wait for the wave's earlier SCLDs (R250), MMA and MMAQ while MTX stands at 63 (R254), every instruction of a lane that
has a FENCE or BRIDGE to complete (R316). -/
def Iss.interlocked (i : Iss) : Bool :=
  ((i.opc == 0x281 || i.opc == 0x289) && i.wave.ops.any fun o => match o.kind with | .scld _ => true | _ => false) ||
  ((i.opc == 0x280 || i.opc == 0x281) && i.act != 0 && i.wave.mtx == 63) ||
  i.wave.ops.any fun o =>
    (o.lanes &&& i.lanes != 0) &&
      (match o.kind with | .fence _ _ _ _ => true | _ => false) ||
    (o.lanes &&& i.lanes != 0) &&
      ((i.reads ++ i.writes).any (fun fr => match fr.2 with | .reg n => o.regs.contains n | _ => false) ||
        (i.opc == 0x1E1 && (match o.kind with | .matrix => true | .ring q => q | _ => false)) ||
        (match o.dst, i.f.dst with | .ch n _, .ch m _ => n == m | _, _ => false))

/-- What the fields of an instruction pop: field, member, number of entries. -/
def Iss.popList (i : Iss) : List (Nat × Bind × Nat) :=
  i.chans.filterMap fun c =>
    if c.2.2.1 || c.2.2.2.2 then none else (i.bind? c.2.1).map fun kb => (c.1, kb.2, c.2.2.2.1)

/-- The entries that the fields before pop from the same member (R103). -/
def Iss.popsBefore (i : Iss) (fld : Nat) (b : Bind) : Nat :=
  (i.popList.filter fun c => decide (c.1 < fld) && c.2.1.same b).foldl (fun k c => k + c.2.2) 0

/-- Check 6: the entries that the sources read are there, and the destination has room, counted after this instruction's
pops (R103; log entry 16). What it waits for otherwise. -/
def Iss.channelWait (i : Iss) (s : State) : Option Wake :=
  let srcs := i.chans.filter fun c => !c.2.2.1
  match srcs.findSome? fun c =>
      match i.bind? c.2.1 with
      | none => none
      | some (k, b) =>
        let entries := (s.chanEntries i.team i.launch.part b).length
        if entries < i.popsBefore c.1 b + c.2.2.2.1 then
          some (if b.kind = 5 then Wake.ringPop b.addr.toNat else .recv k)
        else none with
  | some w => some w
  | none =>
    if engineOpc i.opc then none
    else
      (i.chans.filter fun c => c.2.2.1).findSome? fun c =>
        match i.bind? c.2.1 with
        | none => none
        | some (k, b) =>
          if s.chanFree i.team i.launch.part b + i.popsBefore 5 b < c.2.2.2.1 then some (.push k)
          else none

/-! ## Reading operands -/

/-- A value of which a read may obtain an older state in place of the newer one (R113): each open hazard of the resource in a
lane leaves both. `base` tells the resource from others, `pick` reads the old contents. -/
def olderOr {α : Type} (free base l : Nat) (hs : List Hazard) (pick : Hazard → α) (new : α) : α :=
  ((List.range hs.length).zip hs).foldl (fun x jh =>
    if jh.2.lanes.getLsbD l && Config.freeBit free (l + 64 * base + 65536 * jh.1) then pick jh.2 else x) new

/-- The free values of R113 belong to a resource: registers from 0, predicates from 256, rejoin masks from 300, the FP mode 304
and the sticky flags 305. -/
def Res.base : Res → Nat
  | .reg n => n
  | .pred n => 256 + n
  | .rejoin n => 300 + n
  | .mode => 304
  | .flags => 305

/-- A register lane as an instruction reads it: the written value; inside an open hazard with the scoreboard off, the old
or the new one (R113). -/
def Iss.readReg (i : Iss) (s : State) (n : Nat) : Vec :=
  let v := i.wave.vregs.getD n Vec.zero
  match i.wave.hazardsOf i.lanes (.reg n) with
  | [] => v
  | hs => Vec.of fun l => olderOr s.free n l hs (fun h => h.oldVec.lane l) (v.lane l)

/-- A predicate, in the same way. -/
def Iss.readPred (i : Iss) (s : State) (n : Nat) : Mask :=
  let m := i.wave.preds.getD n 0
  match i.wave.hazardsOf i.lanes (.pred n) with
  | [] => m
  | hs => laneMask fun l => olderOr s.free (256 + n) l hs (fun h => h.oldMask.getLsbD l) (m.getLsbD l)

/-- A rejoin mask, in the same way. -/
def Iss.readRejoin (i : Iss) (s : State) (n : Nat) : Mask :=
  let m := i.wave.rejoin.getD n 0
  match i.wave.hazardsOf i.lanes (.rejoin n) with
  | [] => m
  | hs => laneMask fun l => olderOr s.free (300 + n) l hs (fun h => h.oldMask.getLsbD l) (m.getLsbD l)

/-- The vectors of a source field: registers in order, or channel entries after the pops of earlier fields (R103). -/
def Iss.vecs (i : Iss) (s : State) (fld : Nat) (o : Opnd) (k : Fld) : List Vec :=
  match o with
  | .ch n _ =>
    match i.bind? n.toNat with
    | none => []
    | some (_, b) =>
      ((s.chanEntries i.team i.launch.part b).drop (i.popsBefore fld b)).take k.count
  | o => (opndRegs o).map (i.readReg s)

def Iss.srcA (i : Iss) (s : State) : List Vec := i.vecs s 2 i.f.a i.shape.a
/-- Source B: its vectors, or the immediate in every lane (R99). -/
def Iss.srcB (i : Iss) (s : State) : List Vec :=
  match i.f.b, i.f.ext, i.shape.ext with
  | .none, some e, .imm _ => [Vec.splat ⟨e.setWidth 32, 0⟩]
  | .none, some e, .imm64 => [Vec.splat ⟨e.setWidth 32, 0⟩, Vec.splat ⟨e.extractLsb' 32 32, 0⟩]
  | o, _, _ => i.vecs s 3 o i.shape.b
def Iss.srcC (i : Iss) (s : State) : List Vec := i.vecs s 4 i.f.c i.shape.c

/-- One vector of an operand; a missing one reads zero. -/
def vec1 (vs : List Vec) (k : Nat) : Vec := vs.getD k Vec.zero

/-- Lane l of a one-vector operand, and of a pair as 64 bits. -/
def lane32 (vs : List Vec) (l : Nat) : W32 := (vec1 vs 0).val l
def lane64 (vs : List Vec) (l : Nat) : W64 := (vec1 vs 1).val l ++ (vec1 vs 0).val l

/-- Whether source B is an immediate. -/
def Iss.immB (i : Iss) : Bool :=
  match i.f.b, i.f.ext, i.shape.ext with
  | .none, some _, .imm _ => true
  | .none, some _, .imm64 => true
  | _, _, _ => false

/-- Check 7 on one source: every active lane carries the tags required of its vectors (R206). -/
def Iss.checkTag (_i : Iss) (fld : Nat) (act : Mask) (vs : List Vec) (req : List Nat) : Option Trap :=
  let bad (l : Nat) : Bool := (List.range req.length).any fun k => (vec1 vs k).tagAt l != BitVec.ofNat 4 (req.getD k 0)
  let m := laneMask fun l => act.getLsbD l && bad l
  if m = 0 then none
  else
    let l := lowest m
    let k := ((List.range req.length).find? fun k => (vec1 vs k).tagAt l != BitVec.ofNat 4 (req.getD k 0)).getD 0
    some ⟨.tag, fld, 7, 0, m, 0, BitVec.ofNat 64 (((vec1 vs k).tagAt l).toNat + 16 * req.getD k 0)⟩

/-! ## Effects -/

/-- How a subset's instruction ends. -/
inductive Eff where
  | trap (t : Trap)
  /-- An interlock: the subset does not issue now. -/
  | stall
  /-- Every thread of the subset becomes BLOCKED at a blocking point (R103, R360). -/
  | block (w : Wake)
  /-- Replayable faults park (R393). -/
  | fault (ps : List Parked)
  /-- A context fault (R399), with the address concerned. -/
  | halt (c : Cause) (addr : W64)
  /-- The instruction took effect; the state holds everything but the pc of lanes that `pcs` does not name. -/
  | done (s : State)
  deriving DecidableEq, Repr

/-- What a fixed-latency instruction writes when it retires (R148): destination vectors, a predicate, a rejoin mask, flags
raised per lane, the FP mode, and the next PC of active lanes. -/
structure Out where
  vecs : List Vec := []
  pred : Option (Nat × Mask) := none
  rejoin : Option (Nat × Mask) := none
  flags : List (BitVec 5) := []
  clear : List (BitVec 5) := []
  mode : Option (BitVec 2 × Bool) := none
  pcs : Option (List W64) := none
  deriving DecidableEq, Repr

/-- The entry that a channel destination receives: inactive lanes hold 0 (R103). -/
def maskedEntry (act : Mask) (v : Vec) : Vec := (Vec.of fun l => if act.getLsbD l then v.lane l else Lane.zero).legal

/-- Whether an instruction retires later than it issues: its pops are those of its operation (R104, R112). -/
def Iss.late (i : Iss) : Bool := classOf i.opc == .v

/-- Entries removed from members. -/
def State.popAll (s : State) (t : Nat) (tm : Team) (part : Nat) (ps : List (Bind × Nat)) : State :=
  ps.foldl (fun s p => s.chanPop t tm part p.1 p.2) s

/-- Pops of the source channels of an instruction that retires now (R104). -/
def State.popSources (s : State) (i : Iss) : State :=
  if i.late then s else s.popAll i.tid i.team i.launch.part (i.popList.map (·.2))

/-- Whether a write of a subset to a resource breaks R112 in a lane: then either of the two values stays there (R113). -/
def State.keepsOld (s : State) (w : Wave) (m : Mask) (r : Res) (l : Nat) : Bool :=
  (w.hazardsOf m r).any (·.lanes.getLsbD l) && Config.freeBit (s.free + 1) (l + 64 * r.base)

/-- The lanes of a class V instruction's destination registers in which an earlier write stays, which R112 puts too near the instruction's
issue (R113): they are known when it issues. -/
def Iss.older (i : Iss) (s : State) : List (Nat × Mask) :=
  (opndRegs i.f.dst).filterMap fun n =>
    let m := laneMask fun l => i.act.getLsbD l && s.keepsOld i.wave i.lanes (.reg n) l
    if m = 0 then none else some (n, m)

/-- The vectors of a class V instruction's result, with the older values that stay. -/
def Wave.keepOlder (w : Wave) (older : List (Nat × Mask)) (regs : List Nat) (vs : List Vec) : List Vec :=
  if older.isEmpty then vs
  else (List.zip regs vs).map fun (n, v) =>
    match older.find? (·.1 == n) with
    | some (_, m) => Vec.of fun l => if m.getLsbD l then (w.vregs.getD n Vec.zero).lane l else v.lane l
    | none => v

/-- The destination of a retiring instruction: registers merged under the active lanes (R137), or pushes (R103, R105). `given`:
the names of a reuse hit's results, when the subset writes every lane (R144). -/
def State.writeDst (s : State) (i : Iss) (vs : List Vec) (given : List Nat) : State :=
  match i.f.dst with
  | .ch n _ =>
    match i.bind? n.toNat with
    | some (_, b) => vs.foldl (fun s v => s.chanPush i.tid i.wid i.team i.launch.part b (maskedEntry i.act v)) s
    | none => s
  | o =>
    match s.wave? i.tid i.wid with
    | none => s
    | some w =>
      let rs := (List.zip (opndRegs o) vs).map fun (n, v) =>
        let old := w.vregs.getD n Vec.zero
        let new := v.legal
        (n, Vec.of fun l =>
          if i.act.getLsbD l && !s.keepsOld w i.act (.reg n) l then new.lane l else old.lane l)
      s.writeRegs i.tid i.wid rs given

/-- The sticky flags of the wave, one lane each, as the old contents of a hazard. -/
def Iss.flagVec (i : Iss) : Vec := Vec.of fun l => ⟨(i.wave.flags.getD l 0).setWidth 32, 0⟩

/-- The FP mode that the subset reads once (R214); inside an open hazard of FSETMODE with the scoreboard off, an old or the
new one (R113). -/
def Iss.readMode (i : Iss) (s : State) : BitVec 2 × Bool :=
  let hs := (i.wave.hazardsOf i.act .mode).map fun h => { h with lanes := BitVec.allOnes 32 }
  olderOr s.free 304 0 hs (fun h => (h.oldMask.extractLsb' 1 2, h.oldMask.getLsbD 0)) (i.wave.rm, i.wave.ftz)

/-- The sticky flags of a lane as FFLAGS reads them. -/
def Iss.readFlags (i : Iss) (s : State) (l : Nat) : BitVec 5 :=
  olderOr s.free 305 l (i.wave.hazardsOf i.lanes .flags) (fun h => (h.oldVec.val l).setWidth 5) (i.wave.flags.getD l 0)

/-- Whether an instruction of a fixed latency may raise a sticky flag (R213): not FMIN, FMAX and FCLASS (R217, R219), FCMP with
`.eq`, `.ne`, `.un` or `.ord` (R218), the exact widenings and `.as` forms of CVT (R225, R226), and the forms of ACCCVT that
only retag (R253). -/
def Iss.mayRaise (i : Iss) : Bool :=
  let m := i.f.mod.toNat
  match i.opc with
  | 0x184 => false
  | 0x185 => false
  | 0x186 => decide (2 ≤ m % 8 ∧ m % 8 < 6)
  | 0x187 => false
  | 0x1C0 => !(decide (14 ≤ m ∧ m ≤ 22) || decide (27 ≤ m))
  | 0x291 => decide (4 ≤ m)
  | opc => decide (0x180 ≤ opc ∧ opc ≤ 0x1CF)

/-- The hazards that a fixed-latency write leaves (R111): the written resources with their old contents. -/
def Iss.newHazards (i : Iss) : List Hazard :=
  let lat := (classOf i.opc).latency
  if lat = 0 then []
  else
    let mk (r : Res) (ov : Vec) (om : Mask) : Hazard :=
      ⟨i.act, r, Nat.max 1 i.f.stall.toNat, lat, i.pc, ov, om⟩
    (i.writes.map fun fr =>
      match fr.2 with
      | .reg n => mk (.reg n) (i.wave.vregs.getD n Vec.zero) 0
      | .pred n => mk (.pred n) [] (i.wave.preds.getD n 0)
      | .rejoin n => mk (.rejoin n) [] (i.wave.rejoin.getD n 0)
      | .mode => mk .mode [] ((0 : BitVec 29) ++ i.wave.rm ++ BitVec.ofBool i.wave.ftz)
      | .flags => mk .flags i.flagVec 0) ++
    (if i.mayRaise then [mk .flags i.flagVec 0] else [])

/-- Issue distances after an instruction of a subset (R110): the older hazards of its lanes are one issue farther. -/
def agedHazards (hs : List Hazard) (m : Mask) (d : Nat) : List Hazard :=
  (hs.flatMap fun h =>
    if h.lanes &&& m = 0 then [h]
    else
      [{ h with lanes := h.lanes &&& m, dist := h.dist + d }] ++
        (if h.lanes &&& ~~~m = 0 then [] else [{ h with lanes := h.lanes &&& ~~~m }])).filter Hazard.open_

/-- The stall count of an instruction that issues in core cycle `cycle`: its subset's threads issue nothing before it has
elapsed (R110, R131). -/
def Wave.stalled (w : Wave) (i : Iss) (cycle : Nat) : Wave :=
  { w with notBefore := mergeLanes i.lanes w.notBefore 0 fun _ => cycle + Nat.max 1 i.f.stall.toNat }

/-- What every issue of a subset leaves: the stall count (R110), the distances, and the time its threads last issued
(R57). -/
def Wave.issued (w : Wave) (i : Iss) (now cycle : Nat) (hz : List Hazard) : Wave :=
  { w.stalled i cycle with
    hazards := hz ++ agedHazards w.hazards i.lanes (Nat.max 1 i.f.stall.toNat)
    waitSince := mergeLanes i.lanes w.waitSince 0 fun _ => now
    cache := if w.active then ((opndRegs i.f.dst ++ opndRegs i.f.a ++ opndRegs i.f.b ++ opndRegs i.f.c) ++ w.cache).eraseDups.take 6 else w.cache }

/-- The sequential next PC in every lane of the subset (R94). -/
def Wave.advancePcs (w : Wave) (i : Iss) : Wave := w.setPcs i.lanes fun _ => i.pc + i.len

/-- An instruction of a subset is over: its lanes go to the next instruction, its stall count and hazards stand. The free
values that it may have read and written under R113 are used up. -/
def State.issuedNext (s : State) (i : Iss) (hz : List Hazard) : State :=
  { (s.modTeam i.tid fun tm =>
      { tm.modWave i.wid fun w => (w.advancePcs i).issued i s.time (s.cycleOf i.team.core) hz with started := true }) with
    free := s.free + 2 }

/-! ## Reuse (R142-R147) -/

/-- Whether an instruction of the fixed or IDIV ranges is eligible (R143). -/
def Iss.reusable (i : Iss) : Bool :=
  decide (0x080 ≤ i.opc ∧ i.opc ≤ 0x1CF) && i.opc != 0x0D0 && i.opc != 0x082 && i.opc != 0x0A0 &&
    (match i.f.dst with | .v _ => true | .p _ => true | _ => false) &&
    (i.chans.isEmpty) && !(writesC i.opc i.f.mod.toNat)

/-- The first word with STALL, GUARD and GSENSE zero (R142). -/
def keyWord (w : W64) : W64 := w &&& ~~~0x1FF#64

/-- The register sources' names, in the order A, B, C. -/
def Iss.sourceNames (i : Iss) : List Nat :=
  (opndRegs i.f.a ++ opndRegs i.f.b ++ opndRegs i.f.c).map fun n => i.wave.names.getD n 0

def Iss.fpMode (i : Iss) : BitVec 3 :=
  if 0x180 ≤ i.opc ∧ i.opc ≤ 0x27F then i.wave.rm ++ BitVec.ofBool i.wave.ftz else 0

/-- The key of an instruction that is no load, with nothing stored yet. -/
def Iss.reuseKey (i : Iss) : ReuseEntry where
  ctx := i.launch.ctx
  enc0 := keyWord i.enc0
  enc1 := i.enc1
  lanes := i.act
  sources := i.sourceNames
  mode := i.fpMode
  epoch := 0
  isLoad := false
  results := []
  flags := []
  sectors := []

/-- Whether two entries have one key (R142). -/
def ReuseEntry.sameKey (x e : ReuseEntry) : Bool :=
  x.ctx == e.ctx && x.enc0 == e.enc0 && x.enc1 == e.enc1 && x.lanes == e.lanes && x.sources == e.sources &&
    x.mode == e.mode && x.isLoad == e.isLoad && x.epoch == e.epoch

/-- A lookup by an eligible subset: a hit becomes the most recently used entry and is given back (R142). -/
def Core.reuseFind (c : Core) (e : ReuseEntry) : Core × Option ReuseEntry :=
  let c := { c with reuseLook := c.reuseLook + 1 }
  match c.reuse.find? (·.sameKey e) with
  | some x => ({ c with reuseHit := c.reuseHit + 1, reuse := x :: c.reuse.filter fun y => !y.sameKey e }, some x)
  | none => (c, none)

/-- An entry inserted whose source vectors are already held; its results are held as well, and of a full set the least recently
used entry leaves (R142; log entry 24). -/
def Core.reuseAdd (c : Core) (e : ReuseEntry) : Core :=
  if c.reuse.any (·.sameKey e) then e.sources.foldl Core.release c
  else
    let c := e.results.foldl Core.retain c
    match (c.reuse.filter fun x => x.set == e.set).drop 3 with
    | old :: _ => old.names.foldl Core.release { c with reuse := e :: c.reuse.erase old }
    | [] => { c with reuse := e :: c.reuse }

/-- A missed lookup: the entry waits, its sources held, for the retirement of operation `op` (R140, R142). -/
def Core.reuseHold (c : Core) (op : Nat) (e : ReuseEntry) : Core :=
  e.sources.foldl Core.retain { c with reusePend := c.reusePend ++ [(op, e)] }

/-- The retirement of an operation: the entry that waits for it is inserted with the names and flags of its results. -/
def Core.reuseDone (c : Core) (op : Nat) (names : List Nat) (flags : List (BitVec 5)) : Core :=
  match c.reusePend.find? (·.1 == op) with
  | some (_, e) =>
    { c with reusePend := c.reusePend.filter (·.1 != op) }.reuseAdd { e with results := names, flags := flags }
  | none => c

/-- Whether some source or destination of the subset stands inside an open hazard: its result is not that of its key, and no entry is
made of it (R113, R147). -/
def Iss.hazarded (i : Iss) : Bool := (i.reads ++ i.writes).any fun x => (i.wave.hazardOf i.lanes x.2).isSome

/-- The lookup of a subset that is no load: the entry of a hit; after a miss its entry waits for operation `op`. -/
def State.reuseLookup (s : State) (i : Iss) (op : Nat) : State × Option ReuseEntry :=
  if !i.reusable then (s, none)
  else
    let r := (s.core i.team.core).reuseFind i.reuseKey
    (s.modCore i.team.core fun _ => if r.2.isSome || i.hazarded then r.1 else r.1.reuseHold op i.reuseKey, r.2)

/-- The names that a hit gives to the destinations: the entry's results, when the subset has every lane; else the merged
vectors are inserted (R144). -/
def Iss.given (i : Iss) (hit : Option ReuseEntry) : List Nat :=
  match hit with
  | some e => if i.act = BitVec.allOnes 32 then e.results else []
  | none => []

/-- Vectors inserted in the CNF, with their names. -/
def Core.nameAll (c : Core) (vs : List Vec) : Core × List Nat :=
  vs.foldl (fun acc v => let p := acc.1.insert v; (p.1, acc.2 ++ [p.2])) (c, [])

/-- The entry that waits for operation `op` is inserted with the names that the destinations have now. A wave that has exited has no names
left (R43): its result is named for the entry alone. -/
def State.reuseFinish (s : State) (i : Iss) (op : Nat) (flags : List (BitVec 5)) : State :=
  match s.wave? i.tid i.wid with
  | none => s
  | some w =>
    let regs := opndRegs i.f.dst
    s.modCore i.team.core fun c =>
      if !w.names.isEmpty then c.reuseDone op (regs.map fun n => w.names.getD n 0) flags
      else if i.team.place != .resident || !(c.reusePend.any (·.1 == op)) then c.dropPend [op]
      else
        let r := c.nameAll (regs.map fun n => w.vregs.getD n Vec.zero)
        r.2.foldl Core.release (r.1.reuseDone op r.2 flags)

/-- The lanes of a subset whose write to a resource stands: all of them, but those of a write that breaks R112 where the older
value stays (R113). -/
def State.wins (s : State) (w : Wave) (m : Mask) (r : Res) : Mask :=
  match w.hazardsOf m r with
  | [] => m
  | _ => m &&& ~~~(laneMask fun l => s.keepsOld w m r l)

/-- What an instruction writes beside vectors: a predicate, a rejoin mask, sticky flags, the FP mode (R148). Raised flags are
ORed, so that only the clearing of FFLAGS is a write of R112 (R213). -/
def State.writeBits (s : State) (i : Iss) (o : Out) (w : Wave) : Wave :=
  { w with
    preds := (match o.pred with
      | some (n, m) => modAt w.preds n fun old => mergeMask (s.wins w i.act (.pred n)) old m
      | none => w.preds)
    rejoin := (match o.rejoin with
      | some (n, m) => modAt w.rejoin n fun old => mergeMask (s.wins w i.act (.rejoin n)) old m
      | none => w.rejoin)
    rejoinAt := (match o.rejoin with
      | some (n, m) => if mergeMask (s.wins w i.act (.rejoin n)) (w.rejoin.getD n 0) m = w.rejoin.getD n 0 then w.rejoinAt
          else modAt w.rejoinAt n fun _ => s.time
      | none => w.rejoinAt)
    flags := mergeLanes i.act w.flags 0 fun l => (w.flags.getD l 0 ||| o.flags.getD l 0) &&&
      ~~~(if o.clear.isEmpty then 0 else if (s.wins w i.act .flags).getLsbD l then o.clear.getD l 0 else 0)
    rm := (match o.mode with | some (r, _) => if s.wins w i.act .mode &&& i.act = 0 then w.rm else r | none => w.rm)
    ftz := (match o.mode with | some (_, z) => if s.wins w i.act .mode &&& i.act = 0 then w.ftz else z | none => w.ftz) }

/-- The retirement of a fixed-latency instruction as one unit (R148): the lookup of the reuse table, pops, destination, the
entry of a miss, and what is no vector. The entry's sources are held before the destination's old vectors are released
(R140). -/
def State.retire (s : State) (i : Iss) (o : Out) : State :=
  let r := if o.vecs.isEmpty then (s, none) else s.reuseLookup i 0
  let s := r.1.popSources i
  let s := if o.vecs.isEmpty then s else (s.writeDst i o.vecs (i.given r.2)).reuseFinish i 0 o.flags
  let s := s.modWave i.tid i.wid fun w => s.writeBits i o w
  let s := s.issuedNext i i.newHazards
  match o.pcs with
  | some ps => s.modWave i.tid i.wid fun w => w.setPcs i.act fun l => ps.getD l 0
  | none => s

/-! ## Issue -/

/-- The subset that `cur` names, if its team and wave are still there and its lanes are READY at its PC. -/
def State.issuing (s : State) (opc : Nat) (f : Form) : Option Iss :=
  match s.cur with
  | none => none
  | some c =>
    match s.teams.get? c.team with
    | none => none
    | some tm =>
      match tm.waves.get? c.wave, s.launches.get? tm.launch with
      | some w, some ln =>
        let i0 : Iss := ⟨c.team, c.wave, c.pc, c.lanes &&& w.readyAt c.pc, 0, opc, f, c.enc0, c.enc1, tm, w, ln⟩
        let act := match f.guard with
          | none => i0.lanes
          | some (k, sense) =>
            let m := i0.readPred s k.toNat
            i0.lanes &&& (if sense then ~~~m else m)
        if i0.lanes = 0 then none else some { i0 with act := act }
      | _, _ => none

/-- WAITC's count k of R325, once its operand can be read: the wave's counter is still above it. -/
def Iss.waitcHeld (i : Iss) (s : State) : Bool :=
  i.opc == 0x390 && i.act != 0 &&
    (match i.srcB s with
     | [] => false
     | vs => decide (Nat.min 63 (lane32 vs (lowest i.act)).toNat <
         (match i.f.mod.toNat with | 0 => i.wave.mem | 1 => i.wave.cpy | 2 => i.wave.mtx | _ => i.wave.net)))

/-- Vectors of results that wait in the core's staging buffer: of results, those of matrix instructions among them, and of answers
known and not yet retired (R141). -/
def State.staging (s : State) (core : Nat) : Nat :=
  s.teams.foldl (fun n t =>
    if t.2.core = core ∧ t.2.place = .resident then
      t.2.waves.foldl (fun n w => w.2.ops.foldl (fun n o =>
        if (o.kind == .result || o.kind == .matrix || (o.counted.isSome && o.need == 0 && !o.got.isEmpty)) && !o.ready then n + o.regs.length else n) n) n
    else n) 0

/-- The staging buffer has no room for the vectors that an instruction writes: it does not issue (R141). -/
def Iss.staged (i : Iss) (s : State) : Bool :=
  !(opndRegs i.f.dst).isEmpty && decide (64 < s.staging i.team.core + (opndRegs i.f.dst).length)

/-- An interlock holds the subset: it is not issuable (R112, R325). -/
def Iss.held (i : Iss) (s : State) : Bool := i.interlocked || i.staged s || i.waitcHeld s

/-- The checks before the instruction's own (R115): interlocks, then checks 2 to 5, the empty subset, check 6. -/
def Iss.front (i : Iss) (s : State) : Option Eff :=
  if i.held s then some .stall
  else
    match i.checkRegs, i.checkRole, i.checkStall (s.ctx i.launch.ctx).scbchk, i.checkChan with
    | some t, _, _, _ => some (.trap t)
    | none, some t, _, _ => some (.trap t)
    | none, none, some t, _ => some (.trap t)
    | none, none, none, some t => some (.trap t)
    | none, none, none, none =>
      if i.act = 0 then some (.done (s.issuedNext i []))
      else (i.channelWait s).map .block

/-- The wakes of channel waits that an instruction's end may meet (R360). -/
def Iss.wakes (i : Iss) (t : State) : State := if i.chans.isEmpty && i.opc != 0x39A then t else t.channelWake

/-- The answers of exporters to checks of a wave's accesses are used up (R277). -/
def State.dropProbes (s : State) (t w core : Nat) : State :=
  if (s.core core).probes.isEmpty then s
  else s.modCore core fun c => { c with probes := c.probes.filter fun p => !(p.team == t && p.wave == w && p.answer.isSome) }

/-- What the end of a subset's instruction does to the machine. The stall count holds every thread of the group, also those of
a subset that blocked or faulted (R131). -/
def State.conclude (s : State) (i : Iss) (e : Eff) : State :=
  let s := match e with | .done _ => s | .stall => s | _ => s.dropProbes i.tid i.wid i.team.core
  let s' := match e with
    | .trap t =>
      if t.cls = TrapClass.soft then
        -- TRAP and BRK count as retired (R170)
        i.wakes (((s.popSources i).modWave i.tid i.wid fun w =>
          { w with hazards := agedHazards w.hazards i.lanes (Nat.max 1 i.f.stall.toNat) }).takeTrap i t)
      else s.takeTrap i t
    | .stall => s
    | .block w => s.modWave i.tid i.wid fun wv => (wv.blockOn i.lanes i.pc w).stalled i (s.cycleOf i.team.core)
    | .fault ps =>
      (s.park i.launch.part ps).modWave i.tid i.wid fun wv =>
        (wv.blockOn i.lanes i.pc (.fault ((ps.map fun (p : Parked) => (p.vpage, none)).eraseDups))).stalled i
          (s.cycleOf i.team.core)
    | .halt c addr =>
      (s.raise i.launch.part c (coreSource i.team.core) addr i.pc i.launch.ctx i.launch.ident).modWave i.tid i.wid
        fun w => { w with never := w.never ||| i.lanes }
    | .done t => i.wakes t
  { s' with cur := none }

/-- A subset issues an instruction: the checks of R115, then the instruction's own meaning. -/
def issue (opc : Nat) (f : Form) (s : State) (body : Iss → Eff) : Host.Outcome State Fault Refusal :=
  match s.cur with
  | none => .fault .noSubset
  | some _ =>
    match s.issuing opc f with
    | none => .next { s with cur := none }
    | some i =>
      match i.front s with
      | some e => .next (s.conclude i e)
      | none => .next (s.conclude i (body i))

/-- A fixed-latency instruction: check 7, then its result. -/
def issueFixed (opc : Nat) (f : Form) (s : State) (body : Iss → Except Trap Out) : Host.Outcome State Fault Refusal :=
  issue opc f s fun i =>
    match body i with
    | .error t => .trap t
    | .ok o => .done (s.retire i o)

end Sys2Proof.Machine
end

