-- ==== Sys2Proof/Machine/Integer.lean ====
section
/-! DEFINITION. Integer and address instructions (R171-R188). -/

namespace Sys2Proof.Machine

/-- The width and signedness of integer type T (R171). -/
def typeWidth (t : Nat) : Nat := if t / 2 % 2 = 1 then 64 else 32
def typeSigned (t : Nat) : Bool := t % 2 == 0

/-- A lane of an operand as a natural number of w bits. -/
def laneNat (w : Nat) (vs : List Vec) (l : Nat) : Nat := if w = 64 then (lane64 vs l).toNat else (lane32 vs l).toNat

/-- A lane of an operand as a number of type T: Int of R175. -/
def laneInt (w : Nat) (signed : Bool) (vs : List Vec) (l : Nat) : Int :=
  if signed then (if w = 64 then (lane64 vs l).toInt else (lane32 vs l).toInt) else (laneNat w vs l : Int)

/-- The ends of the type range (R171). -/
def typeLo (w : Nat) (signed : Bool) : Int := if signed then -(2 ^ (w - 1)) else 0
def typeHi (w : Nat) (signed : Bool) : Int := if signed then 2 ^ (w - 1) - 1 else 2 ^ w - 1

/-- A result clamped into the type range. -/
def satInt (w : Nat) (signed : Bool) (x : Int) : Int := max (typeLo w signed) (min (typeHi w signed) x)

/-- Result vectors of w bits, tagged B32 (R172): one, or the two members of a pair. -/
def b32Vecs (w : Nat) (g : Nat → Int) : List Vec :=
  if w = 64 then
    [Vec.of fun l => ⟨(BitVec.ofInt 64 (g l)).setWidth 32, 0⟩, Vec.of fun l => ⟨(BitVec.ofInt 64 (g l)).extractLsb' 32 32, 0⟩]
  else [Vec.of fun l => ⟨BitVec.ofInt 32 (g l), 0⟩]

/-- R175 by opcode. -/
def arith175 (opc : Nat) (w : Nat) (a b c : Int) : Int :=
  match opc with
  | 0x080 => a + b
  | 0x081 => a - b
  | 0x086 => min a b
  | 0x087 => max a b
  | 0x083 => a * b
  | 0x084 => a * b / 2 ^ w
  | 0x085 => a * b + c
  | _ => (a.natAbs : Int)

/-- The result of an instruction of R175. `satBit`: MOD bit 2 is `.sat`. -/
def arithOut (i : Iss) (s : State) : Out :=
  let mod := i.f.mod.toNat
  let w := typeWidth mod
  let sg := typeSigned mod
  let va := i.srcA s
  let vb := i.srcB s
  let vc := i.srcC s
  { vecs := b32Vecs w fun l =>
      let x := arith175 i.opc w (laneInt w sg va l) (laneInt w sg vb l) (laneInt w sg vc l)
      if mod ≥ 4 then satInt w sg x else x }

def execIadd (f : Form) (s : State) := issueFixed 0x080 f s fun i => .ok (arithOut i s)
def execIsub (f : Form) (s : State) := issueFixed 0x081 f s fun i => .ok (arithOut i s)
def execImul (f : Form) (s : State) := issueFixed 0x083 f s fun i => .ok (arithOut i s)
def execImulh (f : Form) (s : State) := issueFixed 0x084 f s fun i => .ok (arithOut i s)
def execImad (f : Form) (s : State) := issueFixed 0x085 f s fun i => .ok (arithOut i s)
def execImin (f : Form) (s : State) := issueFixed 0x086 f s fun i => .ok (arithOut i s)
def execImax (f : Form) (s : State) := issueFixed 0x087 f s fun i => .ok (arithOut i s)
def execIabs (f : Form) (s : State) := issueFixed 0x088 f s fun i => .ok (arithOut i s)

/-- The predicate number a C field names. -/
def predIx : Opnd → Nat
  | .k n => n.toNat
  | _ => 0

/-- IADDC (R176): the sum of a lane with its carry. -/
def addcLane (sub : Bool) (a b : W32) (carry : Bool) : Nat :=
  a.toNat + (if sub then ~~~b else b).toNat + carry.toNat

def execIaddc (f : Form) (s : State) := issueFixed 0x082 f s fun i =>
  let va := i.srcA s
  let vb := i.srcB s
  let k := predIx i.f.c
  let kc := i.readPred s k
  let sub := decide (i.f.mod.toNat = 5)
  .ok { vecs := [Vec.of fun l => ⟨BitVec.ofNat 32 (addcLane sub (lane32 va l) (lane32 vb l) (kc.getLsbD l)), 0⟩]
        pred := some (k, laneMask fun l => decide (2 ^ 32 ≤ addcLane sub (lane32 va l) (lane32 vb l) (kc.getLsbD l))) }

/-- BLUT (R179). -/
def blutLane (lut : Nat) (a b c : W32) : W32 :=
  lanes32.foldl (fun (acc : W32) k =>
    if nbits lut ((a.getLsbD k).toNat + 2 * (b.getLsbD k).toNat + 4 * (c.getLsbD k).toNat) 1 = 1
    then acc ||| (1#32 <<< k) else acc) 0

def execBlut (f : Form) (s : State) := issueFixed 0x089 f s fun i =>
  let va := i.srcA s
  let vb := i.srcB s
  let vc := i.srcC s
  let lut := bits (i.f.ext.getD 0) 0 8
  .ok { vecs := [Vec.of fun l => ⟨blutLane lut (lane32 va l) (lane32 vb l) (lane32 vc l), 0⟩] }

/-- Shifts by any amount (R180). -/
def shiftLane (opc w : Nat) (a : Nat) (n : Nat) : Int :=
  match opc with
  | 0x090 => if n < w then ((a * 2 ^ n % 2 ^ w : Nat) : Int) else 0
  | 0x091 => if n < w then ((a / 2 ^ n : Nat) : Int) else 0
  | 0x092 => if n < w then sInt w a / 2 ^ n else if sInt w a < 0 then -1 else 0
  | _ => (((a * 2 ^ (n % w) + a / 2 ^ (w - n % w)) % 2 ^ w : Nat) : Int)

def shiftOut (i : Iss) (s : State) : Out :=
  let va := i.srcA s
  let vb := i.srcB s
  let w := typeWidth i.f.mod.toNat
  { vecs := b32Vecs w fun l => shiftLane i.opc w (laneNat w va l) (lane32 vb l).toNat }

def execShl (f : Form) (s : State) := issueFixed 0x090 f s fun i => .ok (shiftOut i s)
def execShr (f : Form) (s : State) := issueFixed 0x091 f s fun i => .ok (shiftOut i s)
def execShra (f : Form) (s : State) := issueFixed 0x092 f s fun i => .ok (shiftOut i s)
def execRot (f : Form) (s : State) := issueFixed 0x093 f s fun i => .ok (shiftOut i s)

/-- SHD (R181): MOD bit 0 is `.r`, bit 2 `.clamp`. -/
def shdLane (mod : Nat) (a b c : W32) : Nat :=
  let x := a.toNat * 2 ^ 32 + c.toNat
  let n := if mod ≥ 4 then Nat.min b.toNat 64 else b.toNat % 64
  if mod % 2 = 1 then x / 2 ^ n % 2 ^ 32 else x * 2 ^ n % 2 ^ 64 / 2 ^ 32

def execShd (f : Form) (s : State) := issueFixed 0x094 f s fun i =>
  let va := i.srcA s
  let vb := i.srcB s
  let vc := i.srcC s
  .ok { vecs := [Vec.of fun l =>
    ⟨BitVec.ofNat 32 (shdLane i.f.mod.toNat (lane32 va l) (lane32 vb l) (lane32 vc l)), 0⟩] }

/-- POPC, CLZ and BREV (R182). -/
def popcNat (w a : Nat) : Nat := ((List.range w).filter fun k => nbits a k 1 = 1).length
def clzNat (w a : Nat) : Nat := if a = 0 then w else w - 1 - Nat.log2 a
def brevNat (w a : Nat) : Nat := (List.range w).foldl (fun acc k => 2 * acc + nbits a k 1) 0

def execPopc (f : Form) (s : State) := issueFixed 0x098 f s fun i =>
  let va := i.srcA s
  let w := typeWidth i.f.mod.toNat
  .ok { vecs := b32Vecs 32 fun l => (popcNat w (laneNat w va l) : Int) }
def execClz (f : Form) (s : State) := issueFixed 0x099 f s fun i =>
  let va := i.srcA s
  let w := typeWidth i.f.mod.toNat
  .ok { vecs := b32Vecs 32 fun l => (clzNat w (laneNat w va l) : Int) }
def execBrev (f : Form) (s : State) := issueFixed 0x09A f s fun i =>
  let va := i.srcA s
  let w := typeWidth i.f.mod.toNat
  .ok { vecs := b32Vecs w fun l => (brevNat w (laneNat w va l) : Int) }

/-- BFE and BFI (R183). -/
def bfeLane (signed : Bool) (a b : W32) : Nat :=
  let pos := b.toNat % 256
  let len := Nat.min (b.toNat / 256 % 256) 32
  let fill := if signed && a.getLsbD 31 then 2 ^ 288 - 2 ^ 32 else 0
  let x := (a.toNat + fill) / 2 ^ pos % 2 ^ len
  if len = 0 then 0
  else if signed && nbits x (len - 1) 1 = 1 then x + (2 ^ 32 - 2 ^ len) else x

def bfiLane (a b c : W32) : Nat :=
  let pos := b.toNat % 256
  let len := Nat.min (b.toNat / 256 % 256) 32
  if pos ≥ 32 then a.toNat
  else
    let m := (2 ^ len - 1) * 2 ^ pos % 2 ^ 32
    (a.toNat - (a.toNat &&& m)) + (c.toNat % 2 ^ len * 2 ^ pos % 2 ^ 32)

def execBfe (f : Form) (s : State) := issueFixed 0x09B f s fun i =>
  let va := i.srcA s
  let vb := i.srcB s
  .ok { vecs := [Vec.of fun l =>
    ⟨BitVec.ofNat 32 (bfeLane (i.f.mod.toNat = 0) (lane32 va l) (lane32 vb l)), 0⟩] }
def execBfi (f : Form) (s : State) := issueFixed 0x09C f s fun i =>
  let va := i.srcA s
  let vb := i.srcB s
  let vc := i.srcC s
  .ok { vecs := [Vec.of fun l =>
    ⟨BitVec.ofNat 32 (bfiLane (lane32 va l) (lane32 vb l) (lane32 vc l)), 0⟩] }

/-- ISEL (R185): value and tag of the selected source. -/
def execIsel (f : Form) (s : State) := issueFixed 0x0A0 f s fun i =>
  let va := i.srcA s
  let vb := i.srcB s
  let k := i.readPred s (predIx i.f.c)
  let n := if i.f.mod.toNat = 2 then 2 else 1
  .ok { vecs := (List.range n).map fun j => Vec.of fun l =>
      if k.getLsbD l then (vec1 va j).lane l else (vec1 vb j).lane l }

/-- A comparison of R162 on two numbers. -/
def intCond (cond : Nat) (a b : Int) : Bool :=
  match cond with
  | 0 => a == b
  | 1 => a != b
  | 2 => decide (a < b)
  | 3 => decide (a ≤ b)
  | 4 => decide (b < a)
  | _ => decide (b ≤ a)

/-- The lanes in which the comparison that MOD = 4 × cond + T selects holds (R162, R185). -/
def cmpLanes (i : Iss) (s : State) : Mask :=
  let va := i.srcA s
  let vb := i.srcB s
  let mod := i.f.mod.toNat
  let w := typeWidth mod
  let sg := typeSigned mod
  laneMask fun l => intCond (mod / 4) (laneInt w sg va l) (laneInt w sg vb l)

def execIcmp (f : Form) (s : State) := issueFixed 0x0A1 f s fun i =>
  let m := cmpLanes i s
  .ok { vecs := [Vec.of fun l => ⟨if m.getLsbD l then 0xFFFFFFFF else 0, 0⟩] }

/-- MOV (R185): value and tag. -/
def execMov (f : Form) (s : State) := issueFixed 0x0A8 f s fun i =>
  let va := i.srcA s
  .ok { vecs := va.take (if i.f.mod.toNat = 2 then 2 else 1) }

/-- MOVI (R186): the immediate with the tag that MOD selects. -/
def moviVecs (mod : Nat) (e : W64) : List Vec :=
  if mod = 10 then [Vec.splat ⟨e.setWidth 32, 10⟩, Vec.splat ⟨e.extractLsb' 32 32, 11⟩]
  else if mod = 16 then [Vec.splat ⟨e.setWidth 32, 0⟩, Vec.splat ⟨e.extractLsb' 32 32, 0⟩]
  else [Vec.splat ⟨e.setWidth 32, BitVec.ofNat 4 mod⟩]

def execMovi (f : Form) (s : State) := issueFixed 0x0A9 f s fun i =>
  .ok { vecs := moviVecs i.f.mod.toNat (i.f.ext.getD 0) }

/-- LEA (R187). -/
def leaLane (mod : Nat) (a : W64) (b : W32) : W64 :=
  a + ((if mod % 4 = 0 then b.signExtend 64 else b.setWidth 64) <<< (mod / 4))

def execLea (f : Form) (s : State) := issueFixed 0x0AA f s fun i =>
  let va := i.srcA s
  let vb := i.srcB s
  .ok { vecs := b32Vecs 64 fun l => ((leaLane i.f.mod.toNat (lane64 va l) (lane32 vb l)).toNat : Int) }

/-- BSHUF (R184): one byte by its control byte. -/
def bshufByte (a c : W32) (ctl : Nat) : Nat :=
  let b := nbits (a.toNat + c.toNat * 2 ^ 32) (8 * (ctl % 8)) 8
  if nbits ctl 4 1 = 1 then 0
  else if nbits ctl 5 1 = 1 then (if b ≥ 128 then 0xFF else 0)
  else b

def execBshuf (f : Form) (s : State) := issueFixed 0x0AB f s fun i =>
  let va := i.srcA s
  let vb := i.srcB s
  let vc := i.srcC s
  .ok { vecs := [Vec.of fun l =>
    ⟨BitVec.ofNat 32 ((List.range 4).foldl (fun acc k =>
      acc + bshufByte (lane32 va l) (lane32 vc l) (nbits (lane32 vb l).toNat (8 * k) 8) * 256 ^ k) 0), 0⟩] }

/-- DOT4 (R178): MOD[1:0] 0 `.s8`, 1 `.n8`, 2 `.sn`; bit 2 `.sat`. -/
def dot4Lane (mod : Nat) (a b c : W32) : Int :=
  let kind := mod % 4
  let el (signed : Bool) (x : W32) (k : Nat) : Int :=
    let n := nbits x.toNat (8 * k) 8
    if signed then sInt 8 n else (n : Int)
  let sum := (List.range 4).foldl (fun (acc : Int) k => acc + el (kind != 1) a k * el (kind == 0) b k)
    (if kind = 1 then (c.toNat : Int) else c.toInt)
  if mod ≥ 4 then satInt 32 (kind != 1) sum else sum

def execDot4 (f : Form) (s : State) := issueFixed 0x0B0 f s fun i =>
  let va := i.srcA s
  let vb := i.srcB s
  let vc := i.srcC s
  .ok { vecs := b32Vecs 32 fun l => dot4Lane i.f.mod.toNat (lane32 va l) (lane32 vb l) (lane32 vc l) }

/-- SAD (R178): MOD 0 bytes, 1 halves. -/
def sadLane (mod : Nat) (a b c : W32) : Nat :=
  let w := if mod = 0 then 8 else 16
  (List.range (32 / w)).foldl (fun acc k =>
    acc + ((nbits a.toNat (w * k) w : Int) - (nbits b.toNat (w * k) w : Int)).natAbs) c.toNat

def execSad (f : Form) (s : State) := issueFixed 0x0B1 f s fun i =>
  let va := i.srcA s
  let vb := i.srcB s
  let vc := i.srcC s
  .ok { vecs := [Vec.of fun l =>
    ⟨BitVec.ofNat 32 (sadLane i.f.mod.toNat (lane32 va l) (lane32 vb l) (lane32 vc l)), 0⟩] }

/-- IDIV (R177): quotient and remainder of a lane. MOD bits [1:0] T, bit 2 `.rem`, bit 3 `.nz`. -/
def idivLane (w : Nat) (signed : Bool) (a b : Int) : Int × Int :=
  if b = 0 then (-1, a)
  else if signed && a == typeLo w true && b == -1 then (typeLo w true, 0)
  else (Int.tdiv a b, Int.tmod a b)

/-- The lanes that divide by zero. -/
def idivZero (i : Iss) (s : State) : Mask :=
  let vb := i.srcB s
  let w := typeWidth i.f.mod.toNat
  laneMask fun l => i.act.getLsbD l && laneNat w vb l == 0

def idivVecs (i : Iss) (s : State) : List Vec :=
  let va := i.srcA s
  let vb := i.srcB s
  let mod := i.f.mod.toNat
  let w := typeWidth mod
  let sg := typeSigned mod
  b32Vecs w fun l =>
    let qr := idivLane w sg (laneInt w sg va l) (laneInt w sg vb l)
    if mod / 4 % 2 = 1 then qr.2 else qr.1

/-- The registers a class V result will write. -/
def Iss.dstRegs (i : Iss) : List Nat := opndRegs i.f.dst

/-- A class V operation whose result is known at issue and written at retirement (R112, R148). -/
def Iss.resultOp (i : Iss) (s : State) (vals : List Vec) : Op where
  id := s.nextOp
  kind := .result
  lanes := i.act
  pc := i.pc
  dst := i.f.dst
  dom := .rc
  scope := .team
  order := .plain
  pieces := []
  need := 0
  got := []
  regs := i.dstRegs
  vals := vals
  flags := []
  counted := none
  isRemote := false
  hint := 0
  ready := false
  fwd := []
  older := i.older s
  pops := if i.late then i.popList.map (·.2) else []
  digest := []
  enc0 := i.enc0
  enc1 := i.enc1

/-- The operation joins the wave's operations in flight; the subset goes on. -/
def State.startOp (s : State) (i : Iss) (o : Op) : State :=
  ({ s with nextOp := s.nextOp + 1 }.modWave i.tid i.wid fun w => { w with ops := w.ops ++ [o] }).issuedNext i []

/-- IDIV (R177). A hit of the reuse table retires at once (R144). -/
def execIdiv (f : Form) (s : State) := issue 0x0B2 f s fun i =>
  if i.f.mod.toNat < 8 ∧ idivZero i s ≠ 0 then .trap ⟨.arith, 3, 8, 0, idivZero i s, 0, 0⟩
  else
    let r := s.reuseLookup i s.nextOp
    match r.2 with
    | some e => .done ((r.1.writeDst i (idivVecs i s) (i.given (some e))).issuedNext i [])
    | none => .done (r.1.startOp i (i.resultOp s (idivVecs i s)))

/-- IOTA (R188). -/
def execIota (f : Form) (s : State) := issueFixed 0x0D1 f s fun i =>
  let va := i.srcA s
  .ok { vecs := [Vec.of fun l => ⟨lane32 va l + BitVec.ofNat 32 (l * 2 ^ i.f.mod.toNat), 0⟩] }

end Sys2Proof.Machine
end

