-- ==== Sys2Proof/Machine/Control.lean ====
section
/-! DEFINITION. Branches, thread end, waits that do not block, rejoin masks and predicates (R154-R165), software traps and
breakpoints (R170). -/

namespace Sys2Proof.Machine

/-- The vectors of a 64-bit pair tagged B32, one value in every lane. -/
def pairSplat (x : W64) : List Vec := [Vec.splat ⟨x.setWidth 32, 0⟩, Vec.splat ⟨x.extractLsb' 32 32, 0⟩]

/-- NOP (R156). -/
def execNop (f : Form) (s : State) := issueFixed 0x000 f s fun _ => .ok {}

/-- The displacement target (R99, R154). -/
def dispTarget (i : Iss) : W64 := i.pc + i.f.ext.getD 0

def execBra (f : Form) (s : State) := issueFixed 0x001 f s fun i => .ok { pcs := some (List.replicate 32 (dispTarget i)) }

/-- The targets of BRX, CALLX and RET (R154), and the ALIGN trap of R155. -/
def indirect (i : Iss) (s : State) (link : List Vec) : Except Trap Out :=
  let va := i.srcA s
  let bad := laneMask fun l => i.act.getLsbD l && (lane64 va l).extractLsb' 0 3 != 0
  if bad = 0 then .ok { vecs := link, pcs := some (lanes32.map fun l => lane64 va l) }
  else .error ⟨.align, 2, 8, 0, bad, lane64 va (lowest bad), 0⟩

def execBrx (f : Form) (s : State) := issueFixed 0x002 f s fun i => indirect i s []
def execCall (f : Form) (s : State) := issueFixed 0x003 f s fun i =>
  .ok { vecs := pairSplat (i.pc + 16), pcs := some (List.replicate 32 (dispTarget i)) }
def execCallx (f : Form) (s : State) := issueFixed 0x004 f s fun i => indirect i s (pairSplat (i.pc + 8))
def execRet (f : Form) (s : State) := issueFixed 0x005 f s fun i => indirect i s []

/-- A private slot leaves an L1 sector: its written bytes are never written back, and the sector's clean bytes, which held them,
go as well (R275). -/
def L1Sector.dropSlot (x : L1Sector) (off : Nat) : L1Sector :=
  let slot := maskAt 64 off 4
  if x.privMask &&& slot = 0 then x
  else
    { x with valid := false, rcMask := x.rcMask &&& ~~~slot, blkMask := x.blkMask &&& ~~~slot, privMask := x.privMask &&& ~~~slot }

/-- The private slots of some lanes of a wave are dropped without write-back: from the L1, and from the stores of those lanes
that still wait in a queue (R43, R275). -/
def State.dropPrivate (s : State) (tm : Team) (ln : Launch) (t w : Nat) (m : Mask) : State :=
  let n := ln.header.priv
  if n = 0 then s
  else
    let keep (p : Nat × Place × List Byte) : Bool := !(m.getLsbD p.1 && (match p.2.1 with | .priv _ _ => true | _ => false))
    let s := s.modCore tm.core fun c => { c with sq := c.sq.mapVals fun q => q.map fun e =>
      if e.team = t ∧ e.wave = w ∧ !e.sent then { e with parts := e.parts.filter keep, rest := e.rest.filter keep } else e }
    if !((s.core tm.core).l1.any fun ln => ln.2.sec.any fun x => x.2.privMask != 0) then s
    else (maskLanes m).foldl (fun s l =>
      (List.range (n / 4)).foldl (fun s k =>
        let va := tm.privBase + w * n * 32 + k * 128 + l * 4
        match s.translate (tm.vctx ln.ctx) tm.core va with
        | .ok _ pa =>
          let sec := pa / 64
          s.modCore tm.core fun c =>
            match c.l1.get? (sec / 4) with
            | none => c
            | some ln =>
              match ln.sec.get? (sec % 4) with
              | none => c
              | some x => { c with l1 := c.l1.set (sec / 4) { ln with sec := ln.sec.set (sec % 4) (x.dropSlot (pa % 64)) } }
        | _ => s) s) s

/-- The register names of a wave whose threads have all exited are freed (R43): a name stands for the 32 lanes of a vector, so it
goes with the last of them. -/
def State.freeNames (s : State) (t w : Nat) : State :=
  match s.teams.get? t with
  | none => s
  | some tm =>
    match tm.waves.get? w with
    | none => s
    | some wv =>
      if wv.threads.all (· == .exited) && tm.place == .resident then
        (s.modCore tm.core fun c => wv.names.foldl Core.release c).modWave t w fun wv => { wv with names := [] }
      else s

/-- Threads of a mask exit (R43); a thread in TMASK leaves it, and TRAPPED clears with the last (R389). -/
def Wave.exitLanes (w : Wave) (m : Mask) : Wave :=
  { w.setThreads m .exited with
    tmask := w.tmask &&& ~~~m
    trapped := w.trapped && decide (w.tmask &&& ~~~m ≠ 0) }

/-- EXIT (R156). -/
def execExit (f : Form) (s : State) := issue 0x006 f s fun i =>
  .done ((((s.issuedNext i []).dropPrivate i.team i.launch i.tid i.wid i.act).modWave i.tid i.wid fun w =>
    w.exitLanes i.act).freeNames i.tid i.wid)

/-- JENROL (R159): MOD 0 sets the bits of active lanes, 1 clears them. -/
def rejoinIx : Opnd → Nat
  | .j n => n.toNat
  | _ => 0

def execJenrol (f : Form) (s : State) := issueFixed 0x008 f s fun i =>
  .ok { rejoin := some (rejoinIx i.f.dst, if i.f.mod.toNat = 0 then i.act else 0) }

/-- The condition of JWAIT (R160): every enrolled lane is EXITED or READY at this PC. -/
def Wave.joined (w : Wave) (pc : W64) (m : Mask) : Bool := decide (m &&& ~~~(w.exited ||| w.readyAt pc) = 0)

def execJwait (f : Form) (s : State) := issue 0x009 f s fun i =>
  if i.wave.joined i.pc (i.readRejoin s (rejoinIx i.f.a)) then .done (s.issuedNext i []) else .stall

/-- YIELD (R157): a blocking point, with its condition already met, when the context's pre-emption request is pending. -/
def execYield (f : Form) (s : State) := issue 0x00A f s fun i =>
  if (s.ctx i.launch.ctx).preq then
    .done ((s.issuedNext i []).modWave i.tid i.wid fun w => w.blockOn i.act (i.pc + 8) .yield)
  else .done (s.issuedNext i [])

/-- SLEEP (R158): each active thread is not issuable until TSC ≥ W, W kept until SLEEP_EXPIRY; with d = 0 there is no wait. -/
def execSleep (f : Form) (s : State) := issue 0x00B f s fun i =>
  let vb := i.srcB s
  .done (((s.popSources i).issuedNext i []).modWave i.tid i.wid fun w =>
    { w with sleepUntil := mergeLanes i.act w.sleepUntil 0 fun l => if lane32 vb l = 0 then 0 else s.tsc.toNat + (lane32 vb l).toNat })

/-- PCMP (R162): the lanes in which the comparison holds. -/
def pcmpLanes (i : Iss) (s : State) : Mask :=
  let mod := i.f.mod.toNat
  let va := i.srcA s
  let vb := i.srcB s
  let w := if mod % 4 ≥ 2 then 64 else 32
  let sg := mod % 2 == 0
  laneMask fun l => intCond (mod / 4) (laneInt w sg va l) (laneInt w sg vb l)

def execPcmp (f : Form) (s : State) := issueFixed 0x010 f s fun i => .ok { pred := some (predIx i.f.dst, pcmpLanes i s) }

/-- PLOG (R163). -/
def plogMask (op : Nat) (a b : Mask) : Mask :=
  match op with
  | 0 => a &&& b
  | 1 => a ||| b
  | 2 => a ^^^ b
  | 3 => a &&& ~~~b
  | 4 => a ||| ~~~b
  | 5 => ~~~(a ^^^ b)
  | 6 => ~~~(a &&& b)
  | _ => ~~~(a ||| b)

def execPlog (f : Form) (s : State) := issueFixed 0x011 f s fun i =>
  .ok { pred := some (predIx i.f.dst, plogMask i.f.mod.toNat (i.readPred s (predIx i.f.a)) (i.readPred s (predIx i.f.b))) }

/-- PMOV (R164). -/
def execPmov (f : Form) (s : State) := issueFixed 0x012 f s fun i =>
  match i.f.mod.toNat with
  | 0 => .ok { pred := some (predIx i.f.dst, i.readPred s (predIx i.f.a)) }
  | 1 =>
    let m := i.readPred s (predIx i.f.a)
    .ok { vecs := [Vec.of fun l => ⟨if m.getLsbD l then 1 else 0, 0⟩] }
  | 2 =>
    let va := i.srcA s
    .ok { pred := some (predIx i.f.dst, laneMask fun l => lane32 va l != 0) }
  | 3 => .ok { pred := some (predIx i.f.dst, BitVec.allOnes 32) }
  | _ => .ok { pred := some (predIx i.f.dst, 0) }

/-- PVOTE (R165) over the active lanes. -/
def voteHolds (op : Nat) (act k : Mask) : Bool :=
  match op with
  | 0 => decide (k &&& act = act)
  | 1 => decide (k &&& act ≠ 0)
  | _ => decide (k &&& act = act) || decide (k &&& act = 0)

def execPvote (f : Form) (s : State) := issueFixed 0x013 f s fun i =>
  .ok { pred := some (predIx i.f.dst,
    if voteHolds i.f.mod.toNat i.act (i.readPred s (predIx i.f.a)) then BitVec.allOnes 32 else 0) }

/-- BALLOT (R165). -/
def execBallot (f : Form) (s : State) := issueFixed 0x014 f s fun i =>
  .ok { vecs := [Vec.splat ⟨i.readPred s (predIx i.f.a) &&& i.act, 0⟩] }

/-- The SOFT trap of TRAP and BRK (R170, R387): the code of the immediate or of the lowest active lane. -/
def softTrap (i : Iss) (s : State) (brk : Bool) : Trap :=
  ⟨.soft, 0, 8, 0, i.act, 0, BitVec.ofNat 64 ((lane32 (i.srcB s) (lowest i.act)).toNat + (if brk then 2 ^ 32 else 0))⟩

/-- TRAP counts as retired when it traps (R170): its pops and its stall count stand. -/
def execTrap (f : Form) (s : State) := issue 0x030 f s fun i => .trap (softTrap i s false)

/-- BRK with DBGBRK set halts the socket for debug with the wave stopped at the BRK, and writes the record (R170). It counts as
retired: its pops, its stall count and its issue distance stand. That it adds 1 to COUNT of R386 as a trap taken does is the
model's choice (log entry 70). -/
def execBrk (f : Form) (s : State) := issue 0x031 f s fun i =>
  if (s.ctx i.launch.ctx).dbgbrk then
    .done (((s.popSources i).setHalt i.launch.part ((s.part i.launch.part).dbghalt ||| (1#24 <<< (i.team.core / 36)))).modWave i.tid i.wid fun w =>
      { w.stalled i (s.cycleOf i.team.core) with
               hazards := agedHazards w.hazards i.lanes (Nat.max 1 i.f.stall.toNat)
               brkStop := i.lanes, side := i.sideRec s.tsc (softTrap i s true),
               traps := if w.traps = 0xFFFF then 0xFFFF else w.traps + 1 })
  else .trap (softTrap i s true)

end Sys2Proof.Machine
end

