-- ==== Sys2Proof/Machine/Image.lean ====
section
/-! DEFINITION. The image of a saved team (R406, R407; log entry 32), and what of it is written again while the team is saved
(R333, R408). -/

namespace Sys2Proof.Machine

/-! ## The image of a team (R406; log entry 32) -/

/-- The 128 bytes of a side-buffer record (R386). -/
def SideRec.bytes (r : SideRec) : List Byte :=
  [r.cls, r.field, r.check, r.reason] ++ toLe 4 r.lanes.toNat ++ toLe 4 r.active.toNat ++ toLe 2 r.wave.toNat ++ toLe 2 r.count.toNat ++
    toLe 8 r.pc.toNat ++ toLe 8 r.enc0.toNat ++ toLe 8 r.enc1.toNat ++ toLe 8 r.addr.toNat ++ toLe 8 r.detail.toNat ++
    toLe 8 r.tsc.toNat ++ toLe 8 r.team.toNat ++ List.replicate 56 0

def threadCode : Thread → Byte
  | .ready => 0
  | .blocked => 1
  | .exited => 2

def zeros (n : Nat) : List Byte := List.replicate n 0

/-- Remote operations of a wave whose replies are outstanding (R408). -/
def Wave.replies (w : Wave) : Nat := (w.ops.filter fun o => o.isRemote && !o.ready && o.kind != .store && o.kind != .red).length

/-- The wake records of a wait (R407): KIND, lanes, object or binding address, value, reply count; one for each page of a fault. The
value of a wait on a stage ring is the reservation number that it waits for: HEAD for a pop, TAIL for a push (R336). -/
def wakeRecords (tm : Team) (replies : Nat) (w : Wait) : List (List Byte) :=
  let addr (k : Nat) : Nat := (tm.bind[k]?).elim 0 fun b => b.addr.toNat
  let rs : List (Nat × Nat × Nat) := match w.wake with
    | .bwait _ a ph => [(1, a, ph.toNat)]
    | .ringPop o => [(2, o, ringHead tm o)]
    | .push k => [(3, addr k, if (tm.bind[k]?).any (·.kind == 5) then ringTail tm (addr k) else 0)]
    | .recv k => [(2, addr k, 0)]
    | .remote _ => [(4, 0, 0)]
    | .gjoin k => [(5, k, 0)]
    | .fault ps => ps.map fun p => (6, p.1.toNat, (p.2.getD 0).toNat)
    | .yield => [(7, 0, 0)]
  rs.map fun r => toLe 4 r.1 ++ toLe 4 w.lanes.toNat ++ toLe 8 r.2.1 ++ toLe 8 r.2.2 ++ toLe 8 replies

/-- The heads of the channels: for each entry of the binding table the HEAD of the stage ring bound there (R335), 0 for other members. -/
def Team.heads (tm : Team) : List Byte :=
  (List.range 64).flatMap fun k => toLe 4 ((tm.bind[k]?).elim 0 fun b => if b.kind = 5 && !b.absent then ringHead tm b.addr.toNat else 0)

/-- The state of a wave after its values and tags: 4096 bytes. -/
def Wave.imageFixed (w : Wave) (tm : Team) : List Byte :=
  let desc (d : Option (BitVec 4608)) : List Byte := [if d.isSome then 1 else 0] ++ toLe 576 (d.getD 0).toNat
  let bs := (lanes32.flatMap fun l => toLe 8 (w.pcs.getD l 0).toNat) ++ (lanes32.map fun l => threadCode (w.threads.getD l .exited)) ++
    ((List.range 12).flatMap fun k => toLe 4 (w.preds.getD k 0).toNat) ++ ((List.range 4).flatMap fun k => toLe 4 (w.rejoin.getD k 0).toNat) ++
    [BitVec.ofNat 8 w.mem, BitVec.ofNat 8 w.cpy, BitVec.ofNat 8 w.mtx, BitVec.ofNat 8 w.net] ++
    [BitVec.ofNat 8 (w.rm.toNat * 2 + (if w.ftz then 1 else 0))] ++ (lanes32.map fun l => (w.flags.getD l 0).setWidth 8) ++
    tm.heads ++ [if w.trapped then 1 else 0] ++ toLe 4 w.tmask.toNat ++ (lanes32.flatMap fun l => toLe 8 (w.rpc.getD l 0).toNat) ++ w.side.bytes ++
    toLe 256 w.window.toNat ++ desc w.desc0 ++ desc w.desc1 ++ ((w.waits.flatMap (wakeRecords tm w.replies)).take 32).flatten
  (bs ++ zeros 4096).take 4096

/-- Offsets in the fixed part: predicates, resume PCs. -/
def imgPreds : Nat := 288
def imgRpc : Nat := 650

/-- The bytes of one wave: values, tags, the rest, to a multiple of 256. -/
def Wave.image (w : Wave) (tm : Team) : List Byte :=
  let bs := w.vregs.flatMap Vec.bytes ++ w.vregs.flatMap Vec.tagBytes ++ w.imageFixed tm
  bs ++ zeros ((256 - bs.length % 256) % 256)

/-- Bytes of one wave's part of the image. -/
def waveSpan (regs : Nat) : Nat := (4096 + 144 * regs + 255) / 256 * 256

/-- The image of a team: header, waves, stash. -/
def Team.image (tm : Team) (l : Launch) : List Byte :=
  let inh := tm.waves.foldl (fun d w => minW d w.2.inherited) (BitVec.allOnes 64)
  let hd := toLe 8 tm.index ++ toLe 8 l.ident ++ toLe 4 l.header.waves ++ toLe 4 l.header.regs ++ toLe 8 (if tm.fvc then 1 else 0) ++
    toLe 8 inh.toNat ++ toLe 8 (tm.waves.filter fun w => 0 < w.2.replies).length ++ toLe 8 tm.digest.toNat ++ toLe 8 tm.contribs.toNat
  (hd ++ zeros 256).take 256 ++ (tm.waves.flatMap fun w => w.2.image tm) ++ tm.stashRead 0 l.header.stash

def slotBase (d : CtxDesc) (k : Nat) : Nat := d.savebase.toNat + k * d.slotsize.toNat

/-- The terms of the queue engine's accesses for a launch (R74). -/
def Launch.terms (l : Launch) : Terms := ⟨l.deadline, l.prio, l.queue, l.part, l.deadline⟩

/-- The bytes that some run of bytes changes where it differs from an earlier one, written from an address on. -/
def State.writeChanged (s : State) (tm : Terms) : Nat → List Byte → List Byte → State
  | pa, x :: old, y :: new => (if x = y then s else s.writePaFor tm pa 0 [y]).writeChanged tm (pa + 1) old new
  | _, _, _ => s

/-- What has changed in the record of a saved team since the state `before` is written into its image: a reply's values and tags, the
scale window, the counts of replies and of NET (R333, R408). -/
def State.resave (s before : State) (t : Nat) : State :=
  match before.teams.get? t, s.teams.get? t with
  | some old, some tm =>
    (match tm.place, s.launches.get? tm.launch with
     | .saved k, some l => s.writeChanged l.terms (slotBase (s.descOf l.ctx tm.ver) k) (old.image l) (tm.image l)
     | _, _ => s)
  | _, _ => s

end Sys2Proof.Machine
end

