-- ==== Sys2Proof/Machine/Flags.lean ====
section
/-! DEFINITION. Floating-point numbers and their flags: formats (R192, R193), canonical NaNs (R194), one rounding of an exact
result (R197, R198), arithmetic on exact dyadic numbers, and conversions (R199). Flags are NV 16, DZ 8, OF 4, UF 2, NX 1
(R196); rounding modes RNE 0, RTZ 1, RDN 2, RUP 3. -/

namespace Sys2Proof.Machine

abbrev Flg := BitVec 5

def fNV : Flg := 16
def fDZ : Flg := 8
def fOF : Flg := 4
def fUF : Flg := 2
def fNX : Flg := 1

/-- A binary format: exponent and fraction widths, and whether it is E4M3, which has no infinity (R193). -/
structure Fmt where
  eb : Nat
  fb : Nat
  isE4m3 : Bool := false
  deriving DecidableEq, Repr

def fmtF32 : Fmt := ⟨8, 23, false⟩
def fmtF16 : Fmt := ⟨5, 10, false⟩
def fmtBf16 : Fmt := ⟨8, 7, false⟩
def fmtF64 : Fmt := ⟨11, 52, false⟩
def fmtE4m3 : Fmt := ⟨4, 3, true⟩
def fmtE5m2 : Fmt := ⟨5, 2, false⟩

def Fmt.bias (f : Fmt) : Nat := 2 ^ (f.eb - 1) - 1
def Fmt.width (f : Fmt) : Nat := 1 + f.eb + f.fb
/-- The exponent of the unit in the last place of a subnormal. -/
def Fmt.emin (f : Fmt) : Int := 1 - (f.bias : Int) - (f.fb : Int)
/-- The bits of the largest finite value, of infinity and of the canonical NaN, without sign (R192, R194). -/
def Fmt.maxBits (f : Fmt) : Nat := if f.isE4m3 then 0x7E else (2 ^ f.eb - 1) * 2 ^ f.fb - 1
def Fmt.infBits (f : Fmt) : Nat := (2 ^ f.eb - 1) * 2 ^ f.fb
def Fmt.nanBits (f : Fmt) : Nat := if f.isE4m3 then 0x7F else (2 ^ f.eb - 1) * 2 ^ f.fb + 2 ^ (f.fb - 1)
def Fmt.signBit (f : Fmt) (neg : Bool) : Nat := if neg then 2 ^ (f.eb + f.fb) else 0

/-- A number: (−1)^neg × m × 2^e when finite. -/
inductive FVal where
  | nan
  | inf (neg : Bool)
  | fin (neg : Bool) (m : Nat) (e : Int)
  deriving DecidableEq, Repr

/-- The value of bits (R193). -/
def Fmt.decode (f : Fmt) (x : Nat) : FVal :=
  let neg := x / 2 ^ (f.eb + f.fb) % 2 = 1
  let e := x / 2 ^ f.fb % 2 ^ f.eb
  let m := x % 2 ^ f.fb
  if e = 0 then .fin neg m f.emin
  else if e = 2 ^ f.eb - 1 ∧ !f.isE4m3 then (if m = 0 then .inf neg else .nan)
  else if f.isE4m3 ∧ e = 15 ∧ m = 7 then .nan
  else .fin neg (2 ^ f.fb + m) ((e : Int) - (f.bias : Int) - (f.fb : Int))

/-- In of R216: a subnormal operand counts as zero when `ftz`. -/
def Fmt.decodeIn (f : Fmt) (ftz : Bool) (x : Nat) : FVal :=
  match f.decode x with
  | .fin neg m e => if ftz && x / 2 ^ f.fb % 2 ^ f.eb = 0 then .fin neg 0 e else .fin neg m e
  | v => v

/-- Whether a magnitude rounds away from its truncation, by the discarded part: its top bit, whether more is nonzero,
and the last kept bit. -/
def roundUp (rm : BitVec 2) (neg half more odd : Bool) : Bool :=
  match rm.toNat with
  | 0 => half && (more || odd)
  | 1 => false
  | 2 => neg && (half || more)
  | _ => !neg && (half || more)

/-- m × 2^e, with `sticky` for a nonzero rest below, at a unit of 2^q: the rounded multiple and whether it is inexact. -/
def roundAt (rm : BitVec 2) (neg : Bool) (m : Nat) (e : Int) (sticky : Bool) (q : Int) : Nat × Bool :=
  if q ≤ e then (m * 2 ^ (e - q).toNat, sticky)
  else
    let sh := (q - e).toNat
    let k := m / 2 ^ sh
    let rem := m % 2 ^ sh
    let half := decide (2 ^ (sh - 1) ≤ rem)
    let more := sticky || decide (rem % 2 ^ (sh - 1) ≠ 0)
    (if roundUp rm neg half more (k % 2 = 1) then k + 1 else k, half || more)

/-- The bits of a finite magnitude k × 2^q at unit q ≥ emin, k at most 2^(fb+1). -/
def Fmt.pack (f : Fmt) (neg : Bool) (k : Nat) (q : Int) : Nat :=
  f.signBit neg + (if k < 2 ^ f.fb then k else k + (q - f.emin).toNat * 2 ^ f.fb)

/-- What overflow gives (R198). -/
def Fmt.overflow (f : Fmt) (rm : BitVec 2) (sat neg : Bool) : Nat :=
  f.signBit neg +
    (if sat then f.maxBits
     else if f.isE4m3 then f.nanBits
     else
       match rm.toNat with
       | 0 => f.infBits
       | 1 => f.maxBits
       | 2 => if neg then f.infBits else f.maxBits
       | _ => if neg then f.maxBits else f.infBits)

/-- One rounding of an exact magnitude into a format, with OF, UF and NX; tininess is detected after rounding (R197,
R198). E4M3's NaN has no sign of its own (R194). -/
def Fmt.round (f : Fmt) (rm : BitVec 2) (sat : Bool) (neg : Bool) (m : Nat) (e : Int) (sticky : Bool) : Nat × Flg :=
  if m = 0 ∧ !sticky then (f.signBit neg, 0)
  else
    let q0 : Int := e + (Nat.log2 m : Int) - (f.fb : Int)
    let q := if q0 < f.emin then f.emin else q0
    let (k, inexact) := roundAt rm neg m e sticky q
    let (k, q) := if k = 2 ^ (f.fb + 1) then (2 ^ f.fb, q + 1) else (k, q)
    let bits := f.pack false k q
    if bits > f.maxBits then
      let r := f.overflow rm sat neg
      (if f.isE4m3 && !sat then f.nanBits else r, fOF ||| fNX)
    else
      let tiny := decide (q0 < f.emin) && decide ((roundAt rm neg m e sticky q0).1 * 2 ^ (q0 - f.emin + 64).toNat < 2 ^ (f.fb + 64))
      (f.signBit neg + bits, (if inexact then fNX else 0) ||| (if tiny && inexact then fUF else 0))

/-- Out of R216: a subnormal result is flushed when `ftz`. -/
def Fmt.flushOut (f : Fmt) (ftz : Bool) (r : Nat × Flg) : Nat × Flg :=
  if ftz && r.1 / 2 ^ f.fb % 2 ^ f.eb = 0 && r.1 % 2 ^ f.fb != 0 then
    (r.1 / 2 ^ (f.eb + f.fb) * 2 ^ (f.eb + f.fb), r.2 ||| fUF ||| fNX)
  else r

/-- The bits of a special value, or of an exact number rounded. -/
def Fmt.ofVal (f : Fmt) (rm : BitVec 2) (sat : Bool) (v : FVal) : Nat × Flg :=
  match v with
  | .nan => (f.nanBits, 0)
  | .inf neg =>
    if f.isE4m3 then (if sat then (f.signBit neg + f.maxBits, 0) else (f.nanBits, fNV))
    else if sat then (f.signBit neg + f.infBits, 0)
    else (f.signBit neg + f.infBits, 0)
  | .fin neg m e => f.round rm sat neg m e false

/-! ## Exact arithmetic -/

/-- A finite value as a signed integer times a power of two. -/
def signedOf (neg : Bool) (m : Nat) : Int := if neg then -(m : Int) else (m : Int)

/-- The exact sum of two dyadic numbers. -/
def dyAdd (a : Int × Int) (b : Int × Int) : Int × Int :=
  if a.2 ≤ b.2 then (a.1 + b.1 * 2 ^ (b.2 - a.2).toNat, a.2)
  else (a.1 * 2 ^ (a.2 - b.2).toNat + b.1, b.2)

/-- The sign of an exact zero sum: the operands' common sign, else −0 only towards −∞ (R216). -/
def zeroSign (rm : BitVec 2) (n1 n2 : Bool) : Bool := if n1 = n2 then n1 else rm = 2

/-- A sum of two values, with NV for ∞ − ∞. -/
def addVal (rm : BitVec 2) (a b : FVal) : FVal × Flg :=
  match a, b with
  | .nan, _ => (.nan, 0)
  | _, .nan => (.nan, 0)
  | .inf n1, .inf n2 => if n1 = n2 then (.inf n1, 0) else (.nan, fNV)
  | .inf n, _ => (.inf n, 0)
  | _, .inf n => (.inf n, 0)
  | .fin n1 m1 e1, .fin n2 m2 e2 =>
    let (x, e) := dyAdd (signedOf n1 m1, e1) (signedOf n2 m2, e2)
    if x = 0 then (.fin (zeroSign rm (n1) (n2)) 0 e, 0) else (.fin (decide (x < 0)) x.natAbs e, 0)

/-- An exact product, with NV for 0 × ∞. -/
def mulVal (a b : FVal) : FVal × Flg :=
  match a, b with
  | .inf n1, .fin n2 m _ => if m = 0 then (.nan, fNV) else (.inf (n1 != n2), 0)
  | .fin n1 m _, .inf n2 => if m = 0 then (.nan, fNV) else (.inf (n1 != n2), 0)
  | .nan, _ => (.nan, 0)
  | _, .nan => (.nan, 0)
  | .inf n1, .inf n2 => (.inf (n1 != n2), 0)
  | .fin n1 m1 e1, .fin n2 m2 e2 => (.fin (n1 != n2) (m1 * m2) (e1 + e2), 0)

def negVal : FVal → FVal
  | .nan => .nan
  | .inf n => .inf (!n)
  | .fin n m e => .fin (!n) m e

/-- A × B + C with one rounding to come (R216); 0 × ∞ raises NV even when C is NaN. -/
def fmaVal (rm : BitVec 2) (neg : Bool) (a b c : FVal) : FVal × Flg :=
  let (p, f1) := mulVal a b
  let (x, f2) := addVal rm (if neg then negVal p else p) c
  (x, f1 ||| f2)

/-- A value rounded into a format, FTZ applied to the result. -/
def Fmt.finish (f : Fmt) (rm : BitVec 2) (ftz : Bool) (v : FVal × Flg) : Nat × Flg :=
  let r := f.flushOut ftz (f.ofVal rm false v.1)
  (r.1, r.2 ||| v.2)

/-- FADD, FSUB, FMUL, FFMA and their packed and FP64 forms on bits (R216, R222, R224). -/
def Fmt.add (f : Fmt) (rm : BitVec 2) (ftz neg : Bool) (a b : Nat) : Nat × Flg :=
  let y := f.decodeIn ftz b
  f.finish rm ftz (addVal rm (f.decodeIn ftz a) (if neg then negVal y else y))
def Fmt.mul (f : Fmt) (rm : BitVec 2) (ftz : Bool) (a b : Nat) : Nat × Flg :=
  f.finish rm ftz (mulVal (f.decodeIn ftz a) (f.decodeIn ftz b))
def Fmt.fma (f : Fmt) (rm : BitVec 2) (ftz neg : Bool) (a b c : Nat) : Nat × Flg :=
  f.finish rm ftz (fmaVal rm neg (f.decodeIn ftz a) (f.decodeIn ftz b) (f.decodeIn ftz c))

/-- a ÷ b rounded once (b finite and not zero, or a special): NV for 0 ÷ 0 and ∞ ÷ ∞, DZ for x ÷ 0. -/
def Fmt.divVal (f : Fmt) (rm : BitVec 2) (sat : Bool) (a b : FVal) : Nat × Flg :=
  match a, b with
  | .nan, _ => (f.nanBits, 0)
  | _, .nan => (f.nanBits, 0)
  | .inf _, .inf _ => (f.nanBits, fNV)
  | .inf n1, .fin n2 _ _ => f.ofVal rm sat (.inf (n1 != n2))
  | .fin n1 _ _, .inf n2 => (f.signBit (n1 != n2), 0)
  | .fin n1 m1 e1, .fin n2 m2 e2 =>
    if m2 = 0 then (if m1 = 0 then (f.nanBits, fNV) else
      let r := f.ofVal rm sat (.inf (n1 != n2)); (r.1, r.2 ||| fDZ))
    else if m1 = 0 then (f.signBit (n1 != n2), 0)
    else
      let k := f.fb + 4 + Nat.log2 m2
      let q := m1 * 2 ^ k / m2
      f.round rm sat (n1 != n2) q (e1 - e2 - (k : Int)) (m1 * 2 ^ k % m2 != 0)

/-- Integer square root by bits, from bit n − 1 down. -/
def isqrtFrom (x : Nat) : Nat → Nat → Nat
  | 0, r => r
  | n + 1, r => let t := r + 2 ^ n; isqrtFrom x n (if t * t ≤ x then t else r)

/-- √x rounded once (R220, R221). -/
def Fmt.sqrtVal (f : Fmt) (rm : BitVec 2) (a : FVal) : Nat × Flg :=
  match a with
  | .nan => (f.nanBits, 0)
  | .inf neg => if neg then (f.nanBits, fNV) else (f.infBits, 0)
  | .fin neg m e =>
    if m = 0 then (f.signBit neg, 0)
    else if neg then (f.nanBits, fNV)
    else
      let (m, e) := if e % 2 = 0 then (m, e) else (2 * m, e - 1)
      let m := m * 4 ^ (f.fb + 4)
      let r := isqrtFrom m (Nat.log2 m / 2 + 1) 0
      f.round rm false false r (e / 2 - ((f.fb + 4 : Nat) : Int)) (r * r != m)

/-- Order of two values: `none` when unordered; +0 equals −0. -/
def cmpVal (a b : FVal) : Option Ordering :=
  match a, b with
  | .nan, _ => none
  | _, .nan => none
  | .inf n1, .inf n2 => if n1 = n2 then some .eq else if n1 then some .lt else some .gt
  | .inf n, _ => some (if n then .lt else .gt)
  | _, .inf n => some (if n then .gt else .lt)
  | .fin n1 m1 e1, .fin n2 m2 e2 =>
    let (x, _) := dyAdd (signedOf n1 m1, e1) (signedOf (!n2) m2, e2)
    some (if x < 0 then .lt else if x = 0 then .eq else .gt)

def FVal.neg : FVal → Bool
  | .nan => false
  | .inf n => n
  | .fin n _ _ => n

/-- FMIN and FMAX on bits: a NaN gives the canonical NaN, +0 ranks above −0 (R217). -/
def Fmt.minMax (f : Fmt) (ftz isMax : Bool) (a b : Nat) : Nat :=
  let x := f.decodeIn ftz a
  let y := f.decodeIn ftz b
  let bits (v : FVal) (raw : Nat) : Nat := match v with
    | .fin n 0 _ => f.signBit n
    | _ => raw
  match cmpVal x y with
  | none => f.nanBits
  | some .lt => if isMax then bits y b else bits x a
  | some .gt => if isMax then bits x a else bits y b
  | some .eq => if x.neg = isMax then bits y b else bits x a

/-- The six conditions of R162 on an order. -/
def condHolds (cond : Nat) (o : Ordering) : Bool :=
  match cond with
  | 0 => o == .eq
  | 1 => o != .eq
  | 2 => o == .lt
  | 3 => o != .gt
  | 4 => o == .gt
  | _ => o != .lt

/-- FCMP (R218): the result and the flags. -/
def fcmpHolds (cond : Nat) (a b : FVal) : Bool × Flg :=
  match cmpVal a b with
  | none => (cond == 1 || cond == 6, if 2 ≤ cond ∧ cond ≤ 5 then fNV else 0)
  | some o => (if cond = 6 then false else if cond = 7 then true else condHolds cond o, 0)

/-- Conversion to an integer range (R199): rounded by RM, NX when inexact, NV when saturated, NaN to 0 with NV. -/
def toIntVal (rm : BitVec 2) (lo hi : Int) (v : FVal) : Int × Flg :=
  match v with
  | .nan => (0, fNV)
  | .inf neg => (if neg then lo else hi, fNV)
  | .fin neg m e =>
    let (k, inexact) := roundAt rm neg m e false 0
    let x := signedOf neg k
    if x < lo then (lo, fNV) else if x > hi then (hi, fNV) else (x, if inexact then fNX else 0)

/-- An integer as a value. -/
def ofInt (x : Int) : FVal := .fin (decide (x < 0)) x.natAbs 0

/-- FCLASS bits (R219). -/
def Fmt.classify (f : Fmt) (x : Nat) : Nat :=
  let sub := x / 2 ^ f.fb % 2 ^ f.eb = 0
  match f.decode x with
  | .nan => 0x100
  | .inf neg => if neg then 1 else 0x80
  | .fin neg m _ =>
    if m = 0 then (if neg then 8 else 0x10)
    else if sub then (if neg then 4 else 0x20)
    else if neg then 2 else 0x40

/-! ## QN4 (R200-R203) -/

/-- Codebook magnitudes in 256ths. -/
def qn4Mag : Nat → Nat
  | 0 => 0
  | 1 => 26
  | 2 => 53
  | 3 => 82
  | 4 => 113
  | 5 => 148
  | 6 => 192
  | _ => 256

/-- The codebook value of a code. -/
def qn4Val (code : Nat) : FVal := .fin (code / 8 % 2 = 1) (qn4Mag (code % 8)) (-8)

/-- Round32 of a value. -/
def round32 (v : FVal) : Nat × Flg := fmtF32.ofVal 0 false v

/-- The value of FP32 bits. -/
def f32 (x : Nat) : FVal := fmtF32.decode x

/-- BlockScale (R202), as FP32 bits, with the flags of its steps (R197, R212). -/
def blockScale (c : Nat) (S : Nat) : Nat × Flg :=
  let p := mulVal (f32 S) (ofInt c)
  let r := round32 p.1
  let d := fmtF32.divVal 0 false (f32 r.1) (ofInt 255)
  (d.1, p.2 ||| r.2 ||| d.2)

/-- DecodeQN4 (R202), as FP32 bits, with the flags of its steps. -/
def decodeQn4 (code c S : Nat) : Nat × Flg :=
  if c = 0 then (0, 0)
  else if code % 8 = 0 then ((if code / 8 % 2 = 1 then 0x80000000 else 0), 0)
  else
    let b := blockScale c S
    let p := mulVal (qn4Val code) (f32 b.1)
    let r := round32 p.1
    (r.1, b.2 ||| p.2 ||| r.2)

/-- NearestIndex (R203): the nearest magnitude, a tie to the even index; of a NaN, 7 (DESIGN CHOICE, log entry 136). -/
def nearestIndex (v : FVal) : Nat :=
  match v with
  | .fin _ m e =>
    let dist (k : Nat) : Int × Int :=
      let (x, q) := dyAdd ((m : Int), e) (-(qn4Mag k : Int), -8)
      ((x.natAbs : Int), q)
    let le (a b : Int × Int) : Bool := decide ((dyAdd a (-b.1, b.2)).1 ≤ 0)
    let lt (a b : Int × Int) : Bool := decide ((dyAdd a (-b.1, b.2)).1 < 0)
    (List.range 8).foldl (fun best k =>
      if lt (dist k) (dist best) || (le (dist k) (dist best) && best % 2 == 1 && k % 2 == 0) then k else best) 0
  | _ => 7

/-- QuantiseBlock (R203) of 64 FP32 values: the codes, the scale code, and the flags of each element. -/
def quantiseBlock (x : List Nat) (S : Nat) : List Nat × Nat × List Flg :=
  let sv := f32 S
  let badS := match sv with
    | .fin neg m _ => neg || m == 0
    | _ => true
  let c : Nat :=
    if badS then 0
    else
      let mag (b : Nat) : Nat := match f32 b with
        | .nan => 0x7F800000
        | _ => b % 2 ^ 31
      let m := x.foldl (fun acc b => Nat.max acc (mag b)) 0
      let q := (fmtF32.divVal 0 false (f32 m) sv).1
      let t := f32 (round32 (mulVal (f32 q) (ofInt 255)).1).1
      match t with
      | .fin _ tm te => Nat.min 255 (roundAt 0 false tm te false 0).1
      | _ => 255
  let el (b : Nat) : Nat × Flg :=
    match f32 b with
    | .nan => (0, fNV)
    | v =>
      let sgn := if b / 2 ^ 31 % 2 = 1 then 8 else 0
      if c = 0 then (sgn, if badS then fNV else 0)
      else
        let y := f32 ((fmtF32.divVal 0 false v (f32 (blockScale c S).1)).1 % 2 ^ 31)
        let k := nearestIndex y
        (sgn + k, if cmpVal y (qn4Val k) = some .eq then 0 else fNX)
  let r := x.map el
  (r.map (·.1), c, r.map (·.2))

end Sys2Proof.Machine
end

