-- ==== Sys2Proof/Machine/Atomic.lean ====
section
/-! DEFINITION. What a serialisation point computes (R306): atomics and reductions (R311), the amax ring (R208, R209) and
barrier objects (R362-R365, R372-R377), each as a function of the bytes of the location. -/

namespace Sys2Proof.Machine

/-- Access width of ATOM and RED in bytes (R311). -/
def atomBytes (mod : Nat) : Nat :=
  if mod = 1 ∨ (6 ≤ mod ∧ mod ≤ 9) ∨ (13 ≤ mod ∧ mod ≤ 15) ∨ mod = 17 ∨ mod = 19 ∨ mod = 23 then 8 else 4

/-- Two 16-bit sums (R311, `.add.f16` and `.add.bf16`). -/
def addHalves (fm : Fmt) (old b : Nat) : Nat :=
  (fm.add 0 false false (old % 65536) (b % 65536)).1 + (fm.add 0 false false (old / 65536) (b / 65536)).1 * 65536

/-- New of R311 on numbers of the access width; floating-point forms round to nearest even. -/
def atomNew (mod : Nat) (old b swap : Nat) : Nat :=
  match mod with
  | 0 => (old + b) % 2 ^ 32
  | 1 => (old + b) % 2 ^ 64
  | 2 => if sInt 32 b < sInt 32 old then b else old
  | 3 => Nat.min old b
  | 4 => if sInt 32 old < sInt 32 b then b else old
  | 5 => Nat.max old b
  | 6 => if sInt 64 b < sInt 64 old then b else old
  | 7 => Nat.min old b
  | 8 => if sInt 64 old < sInt 64 b then b else old
  | 9 => Nat.max old b
  | 10 => old &&& b
  | 11 => old ||| b
  | 12 => old ^^^ b
  | 13 => old &&& b
  | 14 => old ||| b
  | 15 => old ^^^ b
  | 16 => b
  | 17 => b
  | 18 => if old = b then swap else old
  | 19 => if old = b then swap else old
  | 20 => (fmtF32.add 0 false false old b).1
  | 21 => fmtF32.minMax false false old b
  | 22 => fmtF32.minMax false true old b
  | 23 => (fmtF64.add 0 false false old b).1
  | 24 => addHalves fmtF16 old b
  | 25 => addHalves fmtBf16 old b
  | 26 => if b ≤ old then 0 else old + 1
  | _ => if old = 0 ∨ b < old then b else old - 1

/-- The tags of the vectors of D (R311), and those required of B; `none` accepts any tag. -/
def atomDstTags (mod : Nat) : List Nat :=
  match mod with
  | 20 => [1]
  | 21 => [1]
  | 22 => [1]
  | 23 => [10, 11]
  | 24 => [2]
  | 25 => [3]
  | m => if atomBytes m = 8 then [0, 0] else [0]

def atomSrcTags (mod : Nat) : Option (List Nat) := if 20 ≤ mod ∧ mod ≤ 25 then some (atomDstTags mod) else none

/-! ## The amax ring -/

/-- The largest magnitude of a lane's elements as an n32 pattern (R230): kind 0 FP32, 1 FP16, 2 BF16. -/
def amaxLane (kind : Nat) (x : W32) : Nat :=
  let mag (v : FVal) : Nat := match v with
    | .nan => 0x7FC00000
    | .inf _ => 0x7F800000
    | .fin _ m e => (fmtF32.round 0 false false m e false).1
  match kind with
  | 0 => mag (f32 x.toNat)
  | 1 => Nat.max (mag (fmtF16.decode (nbits x.toNat 0 16))) (mag (fmtF16.decode (nbits x.toNat 16 16)))
  | _ => Nat.max (mag (fmtBf16.decode (nbits x.toNat 0 16))) (mag (fmtBf16.decode (nbits x.toNat 16 16)))

/-- Bytes replaced in a byte string. -/
def putBytes (bs : List Byte) (o : Nat) (x : List Byte) : List Byte := bs.take o ++ x ++ bs.drop (o + x.length)

/-- SLOT[HEAD] := max(SLOT[HEAD], m) on the ring's 128 bytes (R208). -/
def amaxFold (r : List Byte) (m : Nat) : List Byte :=
  let h := leAt r 64 4 % 16
  putBytes r (4 * h) (toLe 4 (Nat.max (leAt r (4 * h) 4) m))

/-- Largest(T) of R209 by target code 0-5. -/
def qscaleLargest (t : Nat) : Nat :=
  match t with
  | 0 => 448
  | 1 => 57344
  | 2 => 127
  | 3 => 255
  | 4 => 7
  | _ => 15

/-- QSCALE's scale, its NV, and the ring after it (R209, R231): MOD[2:0] the target, MOD[3] `.adv`. The division raises no NX, OF
or UF (DESIGN CHOICE, log entry 137). -/
def qscaleRing (r : List Byte) (mod : Nat) : Nat × Bool × List Byte :=
  let m := (List.range 16).foldl (fun acc i => Nat.max acc (leAt r (4 * i) 4)) 0
  let (scale, nv) :=
    if m = 0 then (0x3F800000, false)
    else
      match f32 m with
      | .nan => (0x3F800000, true)
      | .inf _ => (0x3F800000, true)
      | v =>
        if mod % 8 = 6 then (m, false)
        else
          let q := (fmtF32.divVal 0 false (ofInt (qscaleLargest (mod % 8))) v).1
          (if q = 0x7F800000 then 0x7F7FFFFF else q, false)
  let h := (leAt r 64 4 + 1) % 16
  (scale, nv, if mod / 8 % 2 = 1 then putBytes (putBytes r 64 (toLe 4 h)) (4 * h) [0, 0, 0, 0] else r)

/-! ## Barrier objects -/

/-- Fields of R362. -/
def barPhase (o : List Byte) : Nat := leAt o 0 4
def barValid (o : List Byte) : Bool := leAt o 12 1 % 2 = 1
def barWdl (o : List Byte) : Nat := leAt o 32 8
def barMax : Nat := 2 ^ 64 - 1

/-- Whether phase p has passed (R365). -/
def phasePassed (phase p : Nat) : Bool := decide ((phase + 2 * 2 ^ 32 - p - 1) % 2 ^ 32 < 2 ^ 31)

/-- Arrive of R363 on the 64 bytes of an object: the bytes after, the phase it counted toward, whether a phase completed.
The completions after the first need no expectation bytes, so their number is a quotient. With both targets zero there is one
completion, which sets OVER. -/
def barArrive (o : List Byte) (a n x : Nat) (q : Option Nat) : List Byte × Option Nat × Bool :=
  if !barValid o then (o, none, false)
  else
    let ph := barPhase o
    let tarr := leAt o 4 4
    let tbytes := leAt o 16 4
    let narr := Nat.min (leAt o 8 4 + a) (2 ^ 32 - 1)
    let nbytes := (leAt o 24 8 + n) % 2 ^ 64
    let xbytes := Nat.min (leAt o 20 4 + x) (2 ^ 32 - 1)
    let amask := match q with
      | some k => if a > 0 then leAt o 48 8 ||| 2 ^ k else leAt o 48 8
      | none => leAt o 48 8
    if tarr ≤ narr ∧ tbytes + xbytes ≤ nbytes then
      let narr := narr - tarr
      let nbytes := nbytes - (tbytes + xbytes)
      let more :=
        if tarr = 0 then (if tbytes = 0 then 0 else nbytes / tbytes)
        else if tbytes = 0 then narr / tarr else Nat.min (narr / tarr) (nbytes / tbytes)
      let narr := narr - more * tarr
      let nbytes := nbytes - more * tbytes
      let left := decide (narr > 0) || decide (nbytes > 0)
      let overrun := (decide ((1 + more) % 2 ^ 32 ≠ 0) && left) || decide (tarr = 0 ∧ tbytes = 0)
      let flags := leAt o 12 4 ||| (if overrun then 4 else 0)
      (toLe 4 (ph + 1 + more) ++ toLe 4 tarr ++ toLe 4 narr ++ toLe 4 flags ++ toLe 4 tbytes ++ toLe 4 0 ++ toLe 8 nbytes ++
        toLe 8 barMax ++ (o.drop 40).take 8 ++ toLe 8 0 ++ (o.drop 56).take 8, some ph, (1 + more) % 2 ^ 32 ≠ 0)
    else
      (putBytes (putBytes (putBytes (putBytes o 8 (toLe 4 narr)) 20 (toLe 4 xbytes)) 24 (toLe 8 nbytes)) 48 (toLe 8 amask),
        some ph, false)

/-- BINIT's object (R372). -/
def barInit (tarr tbytes : W32) (pmask owner : W64) (isSlice : Bool) : List Byte :=
  toLe 4 0 ++ toLe 4 tarr.toNat ++ toLe 4 0 ++ toLe 4 (if isSlice then 3 else 1) ++ toLe 4 tbytes.toNat ++ toLe 4 0 ++
    toLe 8 0 ++ toLe 8 barMax ++ toLe 8 pmask.toNat ++ toLe 8 0 ++ toLe 8 owner.toNat

/-- BINVAL's change (R377). -/
def barInval (o : List Byte) : List Byte :=
  putBytes (putBytes o 12 (toLe 4 (leAt o 12 4 / 2 * 2))) 32 (toLe 8 barMax)

/-- A waiter's registration lends its deadline (R367). -/
def barLend (o : List Byte) (deadline : Nat) : List Byte :=
  putBytes o 32 (toLe 8 (Nat.min (barWdl o) deadline))

/-- What BTEST and a BWAIT find (R375, R376): the phase, or all ones when the object is invalid. -/
def barRead (o : List Byte) (ph : Nat) (wantPhase : Bool) : Nat :=
  if wantPhase then (if barValid o then barPhase o else 2 ^ 32 - 1)
  else if barValid o && phasePassed (barPhase o) ph then 1 else 0

/-- An operation on an object: the bytes after, the value returned, and whether its waiters are woken. -/
def BarOp.apply (op : BarOp) (o : List Byte) (isSlice : Bool) : List Byte × Nat × Bool :=
  match op with
  | .init tarr tbytes pmask owner => (barInit tarr tbytes pmask owner isSlice, 0, true)
  | .arrive a n x q =>
    let r := barArrive o a n x q
    (r.1, r.2.1.getD (2 ^ 32 - 1), r.2.2)
  | .test ph want => (o, barRead o ph.toNat want, false)
  | .inval => (barInval o, 0, true)

end Sys2Proof.Machine
end

