-- ==== Sys2Proof/Machine/Sha3.lean ====
section
/-! DEFINITION. SHA3-256, for the digests of R413 and the measurements of R438. -/

namespace Sys2Proof.Machine

/-- The round constants of Keccak-f[1600]. -/
def keccakRc : List W64 :=
  [0x0000000000000001, 0x0000000000008082, 0x800000000000808A, 0x8000000080008000,
   0x000000000000808B, 0x0000000080000001, 0x8000000080008081, 0x8000000000008009,
   0x000000000000008A, 0x0000000000000088, 0x0000000080008009, 0x000000008000000A] ++
  [0x000000008000808B, 0x800000000000008B, 0x8000000000008089, 0x8000000000008003,
   0x8000000000008002, 0x8000000000000080, 0x000000000000800A, 0x800000008000000A,
   0x8000000080008081, 0x8000000000008080, 0x0000000080000001, 0x8000000080008008]

/-- Rotation offsets, lane x + 5y. -/
def keccakRot : List Nat :=
  [0, 1, 62, 28, 27, 36, 44, 6, 55, 20, 3, 10, 43, 25, 39, 41, 45, 15, 21, 8, 18, 2, 61, 56, 14]

/-- One round on 25 lanes, lane x + 5y. -/
def keccakRound (a : List W64) (rc : W64) : List W64 :=
  let at_ (l : List W64) (i : Nat) : W64 := l.getD i 0
  let c := (List.range 5).map fun x => at_ a x ^^^ at_ a (x + 5) ^^^ at_ a (x + 10) ^^^ at_ a (x + 15) ^^^ at_ a (x + 20)
  let d := (List.range 5).map fun x => at_ c ((x + 4) % 5) ^^^ (at_ c ((x + 1) % 5)).rotateLeft 1
  let a := (List.range 25).map fun i => at_ a i ^^^ at_ d (i % 5)
  -- rho and pi: lane (x, y) moves to (y, 2x + 3y)
  let b := (List.range 25).map fun i =>
    let y' := i / 5
    let x' := i % 5
    -- (x', y') comes from x = x' + 3y' mod 5, y = x'
    let src := (x' + 3 * y') % 5 + 5 * x'
    (at_ a src).rotateLeft (keccakRot.getD src 0)
  (List.range 25).map fun i =>
    let x := i % 5
    let y := i / 5
    let v := at_ b i ^^^ (~~~(at_ b ((x + 1) % 5 + 5 * y)) &&& at_ b ((x + 2) % 5 + 5 * y))
    if i = 0 then v ^^^ rc else v

/-- The permutation. -/
def keccakF (a : List W64) : List W64 := keccakRc.foldl keccakRound a

/-- A block of 136 bytes absorbed. -/
def absorbBlock (a : List W64) (b : List Byte) : List W64 :=
  keccakF ((List.range 25).map fun i => if i < 17 then a.getD i 0 ^^^ BitVec.ofNat 64 (leAt b (8 * i) 8) else a.getD i 0)

/-- A message with its padding, a whole number of blocks. -/
def sha3Pad (m : List Byte) : List Byte :=
  let pad := m ++ [0x06] ++ List.replicate (136 - m.length % 136 - 1) 0
  modAt pad (pad.length - 1) (· ||| 0x80)

/-- SHA3-256. -/
def sha3 (m : List Byte) : BitVec 256 :=
  let p := sha3Pad m
  let a := (List.range (p.length / 136)).foldl (fun a k => absorbBlock a ((p.drop (136 * k)).take 136)) (List.replicate 25 0)
  a.getD 3 0 ++ a.getD 2 0 ++ a.getD 1 0 ++ a.getD 0 0

/-- The first 64 bits of a SHA3-256, read little-endian. -/
def sha3Low (m : List Byte) : W64 := (sha3 m).setWidth 64

end Sys2Proof.Machine
end

