-- ==== Sys2Proof/Machine/Retire.lean ====
section
/-! DEFINITION. The end of operations in flight: the subset's destination (R148), the outstanding counters in issue order
(R324), digest contributions (R413), and the retirement of results that were known at issue. -/

namespace Sys2Proof.Machine

/-! ## Outstanding counters -/

/-- A counter of R45 by its WAITC class: 0 MEM, 1 CPY, 2 MTX, 3 NET (R322). -/
def Wave.count (w : Wave) (c : Nat) : Nat :=
  match c with
  | 0 => w.mem
  | 1 => w.cpy
  | 2 => w.mtx
  | _ => w.net

def Wave.setCount (w : Wave) (c : Nat) (f : Nat → Nat) : Wave :=
  match c with
  | 0 => { w with mem := f w.mem }
  | 1 => { w with cpy := f w.cpy }
  | 2 => { w with mtx := f w.mtx }
  | _ => { w with net := f w.net }

/-- Operations that are complete leave, those of one counter in issue order, each lowering its counter (R324). -/
def Wave.leave (w : Wave) : Wave :=
  let r := w.ops.foldl (fun (acc : List Op × List Nat × Wave) o =>
    match o.counted with
    | some c =>
      if o.ready && !acc.2.1.contains c.val then (acc.1, acc.2.1, acc.2.2.setCount c.val (· - 1))
      else (acc.1 ++ [o], c.val :: acc.2.1, acc.2.2)
    | none => if o.ready then acc else (acc.1 ++ [o], acc.2)) ([], [], w)
  { r.2.2 with ops := r.1 }

/-- One operation of a wave changed. -/
def Wave.modOp (w : Wave) (id : Nat) (f : Op → Op) : Wave :=
  { w with ops := w.ops.map fun o => if o.id = id then f o else o }

def State.op? (s : State) (t w id : Nat) : Option Op :=
  match s.wave? t w with
  | some wv => wv.ops.find? (·.id == id)
  | none => none

def State.modOp (s : State) (t w id : Nat) (f : Op → Op) : State := s.modWave t w fun wv => wv.modOp id f

/-- An operation begins: it joins the wave's operations in flight, adds 1 to its counter, and the subset goes on. -/
def State.beginOp (s : State) (i : Iss) (o : Op) : State :=
  ({ s with nextOp := s.nextOp + 1 }.modWave i.tid i.wid fun w =>
    let w := { w with ops := w.ops ++ [o] }
    match o.counted with
    | some c => w.setCount c.val (· + 1)
    | none => w).issuedNext i []

/-! ## Digests -/

/-- Whether the root launch of a launch computes digests (R413, R415). -/
def State.digesting (s : State) (ln : Launch) : Bool :=
  match s.launches.get? ln.root with
  | some r => r.header.flags.getLsbD 3 || r.header.flags.getLsbD 4
  | none => false

/-- The 24-byte message of a contribution (R413). -/
def digestMsg (addr : W64) (kind w op : Nat) (val : W64) : List Byte :=
  toLe 8 addr.toNat ++ [BitVec.ofNat 8 kind, BitVec.ofNat 8 w] ++ toLe 2 op ++ [0, 0, 0, 0] ++ toLe 8 val.toNat

/-- Contributions added to a team's digest and count. -/
def State.contribute (s : State) (t : Nat) (ms : List (List Byte)) : State :=
  match s.teams.get? t with
  | none => s
  | some tm =>
    match s.launches.get? tm.launch with
    | none => s
    | some ln =>
      if !s.digesting ln then s
      else s.modTeam t fun tm =>
        { tm with digest := ms.foldl (fun d m => d + sha3Low m) tm.digest, contribs := tm.contribs + BitVec.ofNat 64 ms.length }

/-! ## Retirement of an operation -/

/-- The subset of an operation, as its retirement sees it. -/
def State.opIss (s : State) (t w : Nat) (o : Op) : Option Iss :=
  match s.teams.get? t with
  | none => none
  | some tm =>
    match tm.waves.get? w, s.launches.get? tm.launch with
    | some wv, some ln =>
      some ⟨t, w, o.pc, o.lanes, o.lanes, (o.enc0.extractLsb' 10 10).toNat,
        ⟨o.enc0.extractLsb' 0 4, none, o.enc0.extractLsb' 59 5, o.dst, .none, .none, .none, none⟩, o.enc0, o.enc1, tm, wv, ln⟩
    | _, _ => none

/-- Whether the destination can take the vectors now, counted after the operation's pops: a channel may have filled since issue
(R103, R105). -/
def State.dstRoom (s : State) (i : Iss) (pops : List (Bind × Nat)) (n : Nat) : Bool :=
  match i.f.dst with
  | .ch c _ =>
    match i.bind? c.toNat with
    | some (_, b) =>
      decide (n ≤ s.chanFree i.team i.launch.part b + (pops.filter fun p => p.1.same b).foldl (fun k p => k + p.2) 0)
    | none => true
  | _ => true

/-- The operation's pops take effect, its results are written and the entry of its missed lookup is inserted (R104, R148, R142),
its contributions made (R414), and its counter falls in issue order. -/
def State.finishOp (s : State) (t w : Nat) (o : Op) : State :=
  match s.opIss t w o with
  | none => s
  | some i =>
    let s := s.popAll t i.team i.launch.part o.pops
    let s := if o.vals.isEmpty then s else s.writeDst i (i.wave.keepOlder o.older (opndRegs o.dst) o.vals) []
    let s := s.reuseFinish i o.id (o.flags.map (·.2))
    let s := s.modOp t w o.id fun o => { o with pops := [] }
    let s := match o.dst, o.pops with | .ch _ _, _ => s.channelWake | _, _ :: _ => s.channelWake | _, [] => s
    let s := s.contribute t o.digest
    s.modWave t w fun wv =>
      let wv := { wv with flags := lanes32.map fun l =>
        (o.flags.filter fun e : Nat × BitVec 5 => e.1 == l).foldl (fun f (e : Nat × BitVec 5) => f ||| e.2) (wv.flags.getD l 0) }
      (wv.modOp o.id fun o => { o with ready := true, regs := [], vals := [], got := [], digest := [] }).leave

/-- An operation that is whole, if the destination has room. -/
def State.finishIfRoom (s : State) (t w : Nat) (o : Op) : State :=
  match s.opIss t w o with
  | some i => if s.dstRoom i o.pops o.vals.length then s.finishOp t w o else s
  | none => s

/-- SUBSET_RETIREMENT (R148): a result known at issue is written. -/
def execSubsetRetirement (team wave op : Nat) (s : State) : Host.Outcome State Fault Refusal :=
  match s.op? team wave op with
  | some o => if o.kind == .result then .next (s.finishIfRoom team wave o) else .next s
  | none => .next s

end Sys2Proof.Machine
end

