-- ==== Sys2Proof/Machine/Coherence.lean ====
section
/-! DEFINITION. Requests of cores (R297, R342-R344), the L1 with its masked bytes and filters (R267, R268, R295, R296),
and the draining that releases, fences and bridges ask for (R272, R291, R292, R316). -/

namespace Sys2Proof.Machine

/-- A slice answers a request: to the core that sent it, to the link port it came through, or to a port die. -/
def State.answer (s : State) (k : Nat) (r : Req) (msg : Msg) : State :=
  match r.asker with
  | .host qp => s.sendMesh (k / 4) (.die (qpDie qp)) (netOf r.dom) (sliceSource k) r.terms msg
  | .link l _ => s.sendMesh (k / 4) (.link l) (netOf r.dom) (sliceSource k) r.terms msg
  | .none => s
  | _ => s.sendMesh (k / 4) (.core r.core) (netOf r.dom) (sliceSource k) r.terms msg

/-- What the messages of a wave carry for arbitration (R74). -/
def State.termsOf (s : State) (t w : Nat) : Terms :=
  match s.teams.get? t with
  | none => Terms.nobody 0xFF
  | some tm =>
    match s.launches.get? tm.launch with
    | none => Terms.nobody 0xFF
    | some ln => ⟨minW ln.deadline ((tm.waves.get? w).elim (BitVec.allOnes 64) Wave.inherited), ln.prio, ln.queue, ln.part, ln.deadline⟩

/-! ## Requests to home slices (R342-R344) -/

/-- The crossbar station of a core's cluster (R343). -/
def stationOf (core : Nat) : Nat := core / 36 * 9 + core % 36 / 4

/-- A request joins its cluster's station; its number is given back. -/
def State.sendReq (s : State) (core : Nat) (asker : Asker) (dom : Dom) (line key : Nat) (kind : ReqKind) (tm : Terms)
    (hnol1 : Bool) : State × Nat :=
  match s.homeOf line with
  | none => (s, 0)
  | some k =>
    let r : Req := ⟨s.nextUid, core, coreSource core, asker, dom, line, key, kind, tm.deadline, tm.prio, tm.queue, tm.part, hnol1, false, tm.own⟩
    ({ s with nextUid := s.nextUid + 1 }.modStation (stationOf core) fun st => { st with queue := st.queue ++ [(k, r)] }, s.nextUid)

/-! ## The L1 -/

/-- An address of another package's memory as an L1 names it: those of this package lie below 2^56. -/
def farPa (pkg pa : Nat) : Nat := (pkg + 1) * 2 ^ 56 + pa

/-- A sector of an L1. -/
def Core.l1Sector (c : Core) (sec : Nat) : Option L1Sector :=
  match c.l1.get? (sec / 4) with
  | some ln => ln.sec.get? (sec % 4)
  | none => none

def Core.setL1Sector (c : Core) (sec key : Nat) (hint : BitVec 2) (x : L1Sector) : Core :=
  let ln := c.l1.getD (sec / 4) { key := key, sec := [], hint := hint }
  { c with l1 := c.l1.set (sec / 4) { ln with sec := ln.sec.set (sec % 4) x, hint := if hint = 0 then ln.hint else hint } }

def L1Sector.empty : L1Sector := ⟨false, 0, 0, 0, 0, []⟩

/-- The bytes of an access within one sector, when the L1 holds every one of them. An access that is not to private memory does not
see bytes written as private ones (R275). -/
def Core.l1Read (c : Core) (pa n : Nat) (priv : Bool) : Option (List Byte) :=
  match c.l1Sector (pa / 64) with
  | none => none
  | some x =>
    let m := maskAt 64 (pa % 64) n
    if (x.valid || (x.mask &&& m) == m) && (priv || (x.privMask &&& m) == 0) then
      some ((List.range n).map fun i => Sector.byte x.data (pa % 64 + i))
    else none

/-- A byte that the L1 holds written, as an access sees it. -/
def Core.l1Masked (c : Core) (pa : Nat) (priv : Bool) : Option Byte :=
  match c.l1Sector (pa / 64) with
  | none => none
  | some x => if x.mask.getLsbD (pa % 64) && (priv || !x.privMask.getLsbD (pa % 64)) then some (Sector.byte x.data (pa % 64)) else none

/-- A line leaves the L1; its masked bytes must have been written back. -/
def Core.dropLine (c : Core) (line : Nat) : Core := (List.range 4).foldl (fun c i => c.dropL1 (4 * line + i)) c

/-- Whether a line has masked bytes in the L1. -/
def L1Line.masked (ln : L1Line) : Bool := ln.sec.any fun e => e.2.mask != 0

/-- Room for a line in the 1,024 lines of the L1 (R268): a full L1 drops a line without masked bytes, of HINT `.hstream` first, of
`.hkeep` last (R307; log entry 27); `none` when every line holds masked bytes. -/
def Core.l1Room (c : Core) (line : Nat) : Option Core :=
  if (c.l1.get? line).isSome || decide (c.l1.length < 1024) then some c
  else
    let clean := c.l1.filter fun e => !e.2.masked
    match clean.find? (·.2.hint == 1) <|> clean.find? (·.2.hint != 2) <|> clean.head? with
    | some e => some (c.dropLine e.1)
    | none => none

/-- Bytes stored into an L1 sector as masked bytes of RC or BLK (R295); load reuse of the sector ends (R145). -/
def Core.l1Write (c : Core) (pa key : Nat) (blk priv : Bool) (owner : Option Nat) (bs : List Byte) : Core :=
  let x := (c.l1Sector (pa / 64)).getD L1Sector.empty
  let m := maskAt 64 (pa % 64) bs.length
  (c.dropSectorReuse (pa / 64)).setL1Sector (pa / 64) key 0
    { x with
      data := Sector.put x.data (pa % 64) bs
      rcMask := if blk then x.rcMask &&& ~~~m else x.rcMask ||| m
      blkMask := if blk then x.blkMask ||| m else x.blkMask &&& ~~~m
      privMask := if priv then x.privMask ||| m else x.privMask &&& ~~~m
      owners :=
        let others := (x.owners.map fun o => (o.1, o.2 &&& ~~~m)).filter fun o => o.2 != 0
        match owner with
        | some t => (t, ((x.owners.find? (·.1 == t)).elim 0 Prod.snd) ||| m) :: others.filter (·.1 != t)
        | none => others }

/-- A sector filled from its home slice; the masked bytes keep their written values (R267). An L1 without room takes nothing. -/
def Core.l1Fill (c : Core) (sec key : Nat) (hint : BitVec 2) (data : Sector) : Core :=
  match c.l1Room (sec / 4) with
  | none => c
  | some c =>
    let x := (c.l1Sector sec).getD L1Sector.empty
    c.setL1Sector sec key hint { x with valid := true, data := Sector.merge data x.data x.mask }

/-- Whether a line has masked bytes in the L1. -/
def Core.lineMasked (c : Core) (line : Nat) : Bool :=
  match c.l1.get? line with
  | some ln => ln.masked
  | none => false

/-- Whether a line has write-backs that no slice has acknowledged. -/
def Core.lineOut (c : Core) (line : Nat) : Bool := c.wbOut.any fun w => w.line == line

/-- The masked bytes of a sector in some domains sent to the home slice; the sector keeps them clean (R267). The
first-visible-commit bits of the teams that wrote them are set (R89). Data that the core withholds stay (R359). Answers
under way to reads of the line were made before the write-back and fill nothing. -/
def State.writeBack (s : State) (core sec : Nat) (doms : List Dom) (tm : Terms) : State :=
  match (if (s.core core).badPa.contains sec then none else (s.core core).l1.get? (sec / 4)) with
  | none => s
  | some ln =>
    match ln.sec.get? (sec % 4) with
    | none => s
    | some x =>
      let maskOf (d : Dom) : BitVec 64 :=
        if !doms.contains d then 0 else match d with | .rc => x.rcMask | .blk => x.blkMask | _ => 0
      let one (s : State) (d : Dom) : State :=
        if maskOf d = 0 then s
        else
          let (s, id) := s.sendReq core (.evict core none) d (sec / 4) ln.key
            (.write ((maskOf d).setWidth 256 <<< (64 * (sec % 4))) (x.data.setWidth 2048 <<< (512 * (sec % 4)))) tm false
          s.modCore core fun c => { c with wbOut := c.wbOut ++ [⟨id, d, sec / 4, false⟩] }
      let out := maskOf .rc ||| maskOf .blk
      if out = 0 then s
      else
        let s := ([Dom.rc, Dom.blk].foldl one s).commitOf ((x.owners.filter fun o => o.2 &&& out != 0).map (·.1))
        let x' := { x with
          rcMask := x.rcMask &&& ~~~out, blkMask := x.blkMask &&& ~~~out, privMask := x.privMask &&& ~~~out
          owners := (x.owners.map fun o => (o.1, o.2 &&& ~~~out)).filter fun o => o.2 != 0 }
        s.modCore core fun c =>
          { c.setL1Sector sec ln.key ln.hint x' with
            readsOut := c.readsOut.map fun r => if r.2.1 = sec / 4 then (r.1, r.2.1, true) else r }

/-- Every masked byte of a line written back, in some domains. -/
def State.writeBackLine (s : State) (core line : Nat) (doms : List Dom) (tm : Terms) : State :=
  (List.range 4).foldl (fun s i => s.writeBack core (4 * line + i) doms tm) s

/-- Every masked byte of the L1 in a domain written back (R295). -/
def State.writeBackAll (s : State) (core : Nat) (d : Dom) (tm : Terms) : State :=
  (s.core core).l1.foldl (fun s e => s.writeBackLine core e.1 [d] tm) s

/-! ## Mapped stash ranges (R270-R272) -/

/-- A write-back of mapped bytes fails its check (R270): a page that is not there parks a fault once, and the bytes stay masked; a
violation halts the partition (log entry 28). -/
def State.failWriteBack (s : State) (t : Nat) (tm : Team) (ln : Launch) (va : Nat) (a : Acc) : State :=
  match a with
  | .held => s
  | .miss page level cause =>
    let p : Parked := ⟨t, s.tsc, ln.ctx, page, (⟨false, true, false⟩ : Need).kind false, level, cause, coreSource tm.core, ln.ident⟩
    if ((s.part ln.part).fqWait.any fun q => q.ctx == ln.ctx && q.vpage == page) ||
        ((s.part ln.part).fq.any fun q => q.ctx == ln.ctx && q.vpage == page) then s else s.park ln.part [p]
  | _ => s.raise ln.part .permission (coreSource tm.core) (BitVec.ofNat 64 va) 0 ln.ctx ln.ident

/-- The masked bytes of a mapped stash sector sent to the home slice, those of each domain in a request of that domain, after the checks
of R270 at the rank of the stores that wrote them (R271, R272, R278); the sector keeps them clean, or with `drop` it is unfilled and load
reuse of it ends (R145). A write-back sets the first-visible-commit bit (R89); answers under way to reads of the line fill nothing. -/
def State.cleanStash (s : State) (t osec : Nat) (drop : Bool) (terms : Terms) : State :=
  match s.teams.get? t with
  | none => s
  | some tm =>
    match tm.mapAt osec, s.launches.get? tm.launch with
    | some (m, e), some ln =>
      let va := m.g + (osec * 64 - m.o)
      let w : Who := ⟨ln.part, tm.vctx ln.ctx, tm.core, ln.header.floor, ln.header.priv, ln.header.stash, tm.privBase, tm.maps, 0, 0, true⟩
      let kept (s : State) : State :=
        (if drop then s.modCore tm.core fun c => c.dropSectorReuse (e.pa / 64) else s).modTeam t fun tm =>
          tm.setMapSec osec fun x => if drop then none else x.map fun x => { x with rcMask := 0, blkMask := 0 }
      if e.mask = 0 then kept s
      else if (s.core tm.core).badPa.contains (e.pa / 64) then s
      else
        match s.physPiece w va ⟨false, true, false⟩ (if e.blkMask = 0 then 1 else 0) 0 with
        | .ok [(_, _, .phys pa key)] =>
          let x := tm.stash.getD osec 0
          let one (s : State) (dm : Dom × BitVec 64) : State :=
            if dm.2 = 0 then s
            else
              let r := s.sendReq tm.core (.evict tm.core (some t)) dm.1 (pa / 256) key
                (.write (dm.2.setWidth 256 <<< (64 * (pa / 64 % 4))) (x.setWidth 2048 <<< (512 * (pa / 64 % 4)))) terms false
              r.1.modCore tm.core fun c => { c with wbOut := c.wbOut ++ [⟨r.2, dm.1, pa / 256, true⟩] }
          (kept (([(Dom.rc, e.rcMask), (Dom.blk, e.blkMask)].foldl one s).commitOf [t])).modCore tm.core fun c => c.overtake (pa / 256)
        | a => s.failWriteBack t tm ln va a
    | _, _ => s

/-- The stash sectors of a team that are copies of sectors of a line. -/
def Team.mappedOf (tm : Team) (line : Nat) : List (Nat × MapSec) := tm.maps.flatMap fun m => m.sec.filter fun e => e.2.pa / 256 == line

/-- Whether a team's stash holds bytes of a line written. -/
def State.stashLineMasked (s : State) (t line : Nat) : Bool := (s.teams.get? t).any fun tm => (tm.mappedOf line).any fun e => e.2.mask != 0

/-- What a thread's own core and stash hold written of a line sent to its home slice (R271, R295); `drop`: the stash keeps no copy. -/
def State.cleanLine (s : State) (core t line : Nat) (drop : Bool) (tm : Terms) : State :=
  ((s.teams.get? t).elim [] fun x => x.mappedOf line).foldl (fun s e => s.cleanStash t e.1 drop tm) (s.writeBackLine core line [.rc, .blk] tm)

/-- Whether a thread's own core or stash holds bytes of a line written, or has some of them under way. -/
def State.lineDirty (s : State) (core t line : Nat) : Bool := (s.core core).lineMasked line || s.stashLineMasked t line

/-! ## Filters (R296) -/

/-- A filter applies an invalidation of a line: masked bytes are written back, then the sectors are dropped from the L1 and
from mapped stash ranges; an answer still on its way fills nothing. -/
def State.applyInval (s : State) (core line : Nat) (tm : Terms) : State :=
  let s := s.writeBackLine core line [.rc, .blk] tm
  let here := (s.mapHoldersOf line).filter fun h => (s.teams.get? h.1).any fun t => t.core == core
  let s := here.foldl (fun s h => s.cleanStash h.1 h.2.1 true tm) s
  s.modCore core fun c => (c.dropLine line).overtake line

/-- A filter applies everything it holds; what an invalidation writes back carries the terms of the write that caused it (R74). -/
def State.applyHeld (s : State) (core : Nat) (d : Dom) : State :=
  let hs := (s.core core).held.getD (netOf d) []
  let s := hs.foldl (fun s h => s.applyInval core h.2.2.1 h.2.2.2) s
  s.modCore core fun c => { c with held := c.held.set (netOf d) [] }

/-- The acquire epoch advances: the load entries of contexts saved from the core are dropped (R151), and when it wraps every load
entry is (R146). -/
def Core.advanceEpoch (c : Core) : Core :=
  let c' := { c.dropReuse fun e => e.isLoad && c.left.contains e.ctx with epoch := c.epoch + 1, left := [] }
  if c'.epoch = 0 then c'.dropReuse (·.isLoad) else c'

/-- An acquire in some domains at a scope completes on a core (R146, R296). A BWAIT has its filters apply what they hold whatever
its scope. -/
def State.acquire (s : State) (core : Nat) (doms : List Dom) (scope : Scope) (bwait : Bool) : State :=
  let s := if bwait || decide (2 ≤ scope.ctorIdx) then doms.foldl (fun s d => s.applyHeld core d) s else s
  s.modCore core Core.advanceEpoch

/-! ## Draining -/

/-- Memory operations, as opposed to results, matrix operations and fences. -/
def OpKind.isMem : OpKind → Bool
  | .load _ => true
  | .scld _ => true
  | .store => true
  | .atom _ => true
  | .red => true
  | .ring _ => true
  | .barrier _ => true
  | .glaunch => true
  | _ => false

/-- Mapped stash bytes of a team that are not on their way to memory: stash sectors. -/
def Team.dirtyStash (tm : Team) : List Nat :=
  tm.maps.flatMap fun m => (m.sec.filter fun e => e.2.mask != 0).map (·.1)

/-- Every masked byte of the team's mappings written back (R272). -/
def State.cleanTeamStash (s : State) (t : Nat) (terms : Terms) : State :=
  match s.teams.get? t with
  | some tm => tm.dirtyStash.foldl (fun s o => s.cleanStash t o false terms) s
  | none => s

/-- The copy commands of a team, at whichever core it issued them (R330, R333). -/
def State.cmdsOf (s : State) (t : Nat) : List Cmd := s.cores.flatMap fun c => c.2.cmds.filter (·.team == t)

/-- Whether a copy command still has sources to read, or bytes of memory to write. -/
def cmdReads (cs : List Cmd) (cmd : Nat) : Bool := cs.any fun x => x.id == cmd && decide (x.pos < x.count)
def cmdWrites (cs : List Cmd) (cmd : Nat) : Bool :=
  cs.any fun x => x.id == cmd && x.ring.isNone && (match x.kind with | .tdesc _ => false | _ => true)

/-- Whether an operation has accesses in a domain that are still to come: its own, or those of a copy command (R330). -/
def opPending (cs : List Cmd) (d : Dom) (o : Op) : Bool :=
  !o.ready && (match o.kind with
    | .copy sd dd => (sd == d && cmdReads cs o.id) || (dd == d && cmdWrites cs o.id)
    | k => k.isMem && o.dom == d)

/-- Whether the RC messages that a core sent before operation `before`, whichever wave they are of, have been delivered: a release follows
them (R297). -/
def State.rcDelivered (s : State) (core before : Nat) : Bool :=
  !(((s.core core).sq.getD (netOf .rc) []).any fun e => decide (e.op < before)) &&
  !(s.teams.any fun t => t.2.core == core && t.2.place == .resident &&
    t.2.waves.any fun w => w.2.ops.any fun o => decide (o.id < before) && !o.ready && o.kind.isMem && o.dom == .rc)

/-- Whether the accesses of a subset's threads in a domain before operation `before` stand where a release at a scope needs them
(R283, R291, R316): nothing in the store queue, nothing outstanding, and at CLUS or wider nothing masked in the L1, every write-back
acknowledged, and the values read propagated. -/
def State.drained (s : State) (i : Iss) (before : Nat) (scope : Scope) (d : Dom) : Bool :=
  let c := s.core i.team.core
  let w := (s.wave? i.tid i.wid).getD i.wave
  let cs := s.cmdsOf i.tid
  !((c.sq.getD (netOf d) []).any fun e => e.team == i.tid && e.wave == i.wid && decide (e.op < before)) &&
  !(w.ops.any fun o => decide (o.id < before) && opPending cs d o && (o.lanes &&& i.lanes != 0)) &&
  (d != .rc || s.rcDelivered i.team.core before) &&
  (decide (scope.ctorIdx < 2) ||
    (!(c.wbOut.any fun x => x.dom == d) && w.pendingLines.isEmpty &&
      !(c.l1.any fun ln => ln.2.sec.any fun e => match d with
        | .rc => e.2.rcMask != 0
        | .blk => e.2.blkMask != 0
        | _ => false)))

/-- A release of a subset in some domains at a scope, of what came before operation `before`: `none` when everything it waits for has
happened, at CLUS or wider with the team's mapped bytes on their way or home (R272), else the state with the write-backs it needs under
way; the subset waits and issues again. -/
def State.release (s : State) (i : Iss) (before : Nat) (doms : List Dom) (scope : Scope) : Option State :=
  let wide := decide (2 ≤ scope.ctorIdx)
  let dirty := wide && (s.teams.get? i.tid).any fun t => !t.dirtyStash.isEmpty
  if !dirty && doms.all fun d => s.drained i before scope d then none
  else if wide then
    some (doms.foldl (fun s d => match d with
      | .rc => s.writeBackAll i.team.core .rc i.terms
      | .blk => s.writeBackAll i.team.core .blk i.terms
      | _ => s) (s.cleanTeamStash i.tid i.terms))
  else some s

end Sys2Proof.Machine
end

