-- ==== Sys2Proof/Machine/Slice.lean ====
section
/-! DEFINITION. The photonic crossbar (R342-R345), the router mesh (R346, R347), admission at slices and memory sockets
(R348, R349), and what a home slice does with a request (R268, R296, R312, R363). -/

namespace Sys2Proof.Machine

/-! ## Order of service (R74) -/

def Req.before (a b : Req) : Bool := servedBefore a.deadline a.prio a.source b.deadline b.prio b.source

/-- The first request in the order of R74 among those that satisfy a test and follow no earlier request of their source on an
ordered network (R297), or for the same line: the writes of one core to a byte stay in order (R280). -/
def bestReq (p : Req → Bool) : List Req → List Req → Option Req
  | _, [] => none
  | seen, r :: rs =>
    let rest := bestReq p (r :: seen) rs
    if p r && !(seen.any fun e => e.source == r.source && (e.line == r.line || (r.dom != .blk && e.dom == r.dom))) then
      match rest with
      | some b => if b.before r then some b else some r
      | none => some r
    else rest

/-- Lateness of a request at the head of its serving queue: LATEPKT of its queue (R75). -/
def State.countLate (s : State) (deadline : W64) (queue part : Nat) : State :=
  if deadline.toNat < s.tsc.toNat && decide (queue < 1024) && (s.part part).dbghalt == 0 then
    let q := s.queue queue
    let s := s.modQueue queue fun q => { q with latepkt := q.latepkt + 1 }
    s.writePa (q.cbpa.toNat * 256 + 0x28) 0 (toLe 8 (q.latepkt + 1).toNat)
  else s

/-! ## Crossbar slots -/

/-- The next network at or after `n`, in rotation, with a message for a slice, and the message at its head (R344). -/
def nextNet (q : List (Nat × Req)) (slice n : Nat) : Option (Nat × Req) :=
  ((List.range 5).map fun k => (n + k) % 5).findSome? fun net =>
    (q.find? fun e => e.1 == slice && netOf e.2.dom == net).map fun e => (net, e.2)

/-- Messages for one slot: from the network `n` on in rotation, until one does not fit (R344). -/
def fillSlot (slice : Nat) : Nat → Nat → Nat → List (Nat × Req) → List Req × List (Nat × Req)
  | 0, _, _, q => ([], q)
  | fuel + 1, n, space, q =>
    match nextNet q slice n with
    | none => ([], q)
    | some (net, r) =>
      if space < r.size then ([], q)
      else
        let rest := fillSlot slice fuel ((net + 1) % 5) (space - r.size) (q.filter fun e => e.2.id != r.id)
        (r :: rest.1, rest.2)

/-- A slot sent joins those that its station keeps: the last 256 of each channel (R345). -/
def Station.keepSlot (x : Station) (slice : Nat) (slot : Slot) : List (Nat × Slot) :=
  (slice, slot) :: ((x.sent.filter fun e => e.1 == slice).take 255 ++ x.sent.filter fun e => e.1 != slice)

/-- SLOT_SEND (R343, R344): the station with the token, or the first after it with a message, fills the slot; the token
goes on. A resend takes the next slot that its station fills (R345). -/
def execSlotSend (slice : Nat) (s : State) : Host.Outcome State Fault Refusal :=
  let ch := s.channel slice
  let s' := s.modChannel slice fun c => { c with token := (c.token + 1) % 216 }
  let ready (st : Nat) : Bool :=
    (s.station st).queue.any (fun e => e.1 == slice) || (s.station st).resend.any fun e => e.1 == slice
  match ((List.range 216).map fun k => (ch.token + k) % 216).find? ready with
  | none => .next s'
  | some st =>
    let sta := s.station st
    match takeFirst (fun e : Nat × Slot => e.1 == slice) sta.resend with
    | some (e, rest) =>
      let first := e.2.msgs.head?.elim (sta.rr.getD slice 4) fun r => netOf r.dom
      .next ((s'.modStation st fun x => { x with resend := rest, rr := x.rr.set slice first }).modChannel slice
        fun c => { c with flight := c.flight ++ [e.2] })
    | none =>
      let start := (sta.rr.getD slice 4 + 1) % 5
      match nextNet sta.queue slice start with
      | none => .next s'
      | some (net, _) =>
        let r := fillSlot slice 32 net 512 sta.queue
        let slot : Slot := ⟨st, sta.nextSeq, r.1, 0⟩
        .next ((s'.modStation st fun x =>
          { x with queue := r.2, rr := x.rr.set slice net, nextSeq := x.nextSeq + 1, sent := x.keepSlot slice slot }).modChannel
            slice fun c => { c with flight := c.flight ++ [slot] })

/-- A request reaches its slice: a slice whose partition halted gives it back (R400, R404), but for one of the host or a manager core, which
is no request of the partition. -/
def State.arriveAtSlice (s : State) (k : Nat) (r : Req) : State :=
  let outside := match r.asker with | .host _ => true | _ => false
  if (s.slice k).closed && !outside then
    s.answer k r (if r.part = s.ownerOf (r.line * 256) then .discard r else .denied r)
  else s.modSlice k fun sl => { sl with inq := sl.inq ++ [r] }

/-- Whether a request comes from another package, over a link (R277). -/
def Req.ofPeer (r : Req) : Bool :=
  match r.asker with
  | .link _ _ => true
  | _ => false

/-- Slots held for a station that no awaited slot precedes any more, in the order the station sent them. -/
def State.releaseHeld (s : State) (slice st : Nat) : State :=
  let ch := s.channel slice
  let free (x : Slot) : Bool := x.station == st && !(ch.awaiting.any fun a => a.1 == st && decide (a.2 < x.seq))
  let out := sortBy (fun a b : Slot => decide (a.seq ≤ b.seq)) (ch.held.filter free)
  (out.flatMap (·.msgs)).foldl (fun s r => s.arriveAtSlice slice r)
    (s.modChannel slice fun c => { c with held := c.held.filter fun x => !free x })

/-- The launch on whose behalf an asker asks: its context and identifier (R399). -/
def State.askerLaunch (s : State) (a : Asker) : Option (Nat × Nat) :=
  let team : Option Nat := match a with
    | .op t _ _ => some t
    | .remote _ t _ _ _ => some t
    | .probe _ t _ _ => some t
    | .evict _ t => t
    | .cmd core cmd _ => ((s.core core).cmds.find? (·.id == cmd)).map Cmd.team
    | _ => none
  ((team.bind fun t => s.teams.get? t).bind fun tm => s.launches.get? tm.launch).map fun l => (l.ctx, l.ident)

/-- The context and identifier of the one launch that all of some requests belong to; else 0xFFFF and 0 (R435). -/
def State.meetsOne (s : State) (as : List Asker) : Nat × Nat :=
  match as.map s.askerLaunch with
  | some x :: rest => if rest.all (· == some x) then x else (0xFFFF, 0)
  | _ => (0xFFFF, 0)

/-- SLOT_RECEIVE (R345): the header code is good or not. A slot that fails is discarded and asked for again over the mesh; one that
fails three times is uncorrectable, and what importers asked in it is refused (R359). -/
def execSlotReceive (slice : Nat) (good : Bool) (s : State) : Host.Outcome State Fault Refusal :=
  match (s.channel slice).flight with
  | [] => .next s
  | x :: rest =>
    let s := s.modChannel slice fun c => { c with flight := rest }
    if good then
      let s := s.modChannel slice fun c => { c with awaiting := c.awaiting.filter fun a => a != (x.station, x.seq), held := c.held ++ [x] }
      .next (s.releaseHeld slice x.station)
    else if 2 ≤ x.fails then
      let line := (x.msgs.head?.elim 0 Req.line)
      let part := s.ownerOf (line * 256)
      let who := s.meetsOne (x.msgs.map Req.asker)
      let s := s.modChannel slice fun c => { c with awaiting := c.awaiting.filter fun a => a != (x.station, x.seq) }
      let s := (x.msgs.filter fun r => decide (r.part ≠ part)).foldl (fun s r => s.answer slice r (.denied r)) s
      .next ((s.raise part .uncorrectable (sliceSource slice) (BitVec.ofNat 64 (line * 256)) 0 who.1 who.2).releaseHeld slice x.station)
    else
      let s := s.modStation x.station fun st => { st with
        sent := st.sent.map fun e => if e.1 = slice ∧ e.2.seq = x.seq then (slice, { x with fails := x.fails + 1 }) else e }
      let s := s.modChannel slice fun c =>
        { c with awaiting := if c.awaiting.contains (x.station, x.seq) then c.awaiting else c.awaiting ++ [(x.station, x.seq)] }
      .next (s.sendMesh (slice / 4) (.station x.station) 0 (sliceSource slice) (Terms.nobody 0xFF) (.resend slice x.seq))

/-- SLOT_RESEND (R345): a resend request has reached the station, which sends the slot again in the next slot it fills for the
slice. -/
def execSlotResend (slice station : Nat) (s : State) : Host.Outcome State Fault Refusal :=
  match takeFirst (fun a : Nat × Nat => a.1 == slice) (s.station station).asks with
  | none => .next s
  | some (a, rest) =>
    .next (s.modStation station fun x => { x with
      asks := rest
      resend := match x.sent.find? fun e => e.1 == slice && e.2.seq == a.2 with
        | some e => x.resend ++ [e]
        | none => x.resend })

/-! ## Admission -/

/-- The positions of a frame that a reservation of f owns (R348). -/
def ownsPosition (f p : Nat) : Bool := decide (0 < f) && (List.range f).any fun j => 256 * j / f == p

/-- The requests that count against a queue at a position: those of the queues that own it (log entry 25). -/
def State.slotOwner (s : State) (part pos : Nat) (res : Queue → Nat) (waiting : Nat → Bool) : Option Nat :=
  ((s.queues.filter fun q => (s.queueOwner.getD q.1 0xFF).toNat == part && ownsPosition (res q.2) pos &&
    waiting q.1).map (·.1)).head?

/-- SLICE_ADMISSION (R348). -/
def execSliceAdmission (slice : Nat) (s : State) : Host.Outcome State Fault Refusal :=
  let sl := s.slice slice
  let part := (List.range 24).find? fun p => (s.part p).slices.getLsbD slice
  let owner := s.slotOwner (part.getD 24) sl.pos (fun q => q.fabres.toNat) fun q => sl.inq.any (·.queue == q)
  let s1 := s.modSlice slice fun x => { x with pos := (x.pos + 1) % 256 }
  let pick := match owner with
    | some q => bestReq (fun r => r.queue == q) [] sl.inq
    | none => bestReq (fun _ => true) [] sl.inq
  match pick with
  | none => .next s1
  | some r =>
    let late := decide (r.own.toNat < s.tsc.toNat)
    let s1 := s1.modSlice slice fun x =>
      { x with inq := x.inq.filter (·.id != r.id), admitted := x.admitted ++ [{ r with late := r.late || late }] }
    .next (if r.late then s1 else s1.countLate r.own r.queue r.part)

/-- The written bytes of an evicted line reach memory (R268). -/
def State.unspill (s : State) (k id : Nat) : State :=
  match (s.slice k).spills.find? (·.id == id) with
  | some x => ((List.range 4).foldl (fun s i =>
      let m : BitVec 64 := x.mask.extractLsb' (64 * i) 64
      if m = 0 then s else s.storeSector (x.line * 256 + 64 * i) x.key (x.data.extractLsb' (512 * i) 512) m) s).modSlice k fun sl =>
        { sl with spills := sl.spills.filter (·.id != id) }
  | none => s

/-- SOCKET_ADMISSION (R349): one position serves a read of up to a line's four sectors from storage, decrypted under its key, or a
write. -/
def execSocketAdmission (socket : Nat) (s : State) : Host.Outcome State Fault Refusal :=
  if !s.sockUp socket then .next s
  else
    let so := s.sock socket
    let share (pt : Nat) : Nat := ((s.part pt).memshare.extractLsb' (8 * socket) 8).toNat
    let owned (m : MeshMsg) : Bool := decide (m.tm.queue < 1024) &&
      ownsPosition ((s.queue m.tm.queue).memres.toNat * share m.tm.part / 256) so.pos
    let s1 := s.modSock socket fun x => { x with pos := (x.pos + 1) % 256 }
    match firstServed (so.inq.filter owned) <|> firstServed so.inq with
    | none => .next s1
    | some m =>
      let s1 := s1.modSock socket fun x => { x with inq := x.inq.erase m }
      match m.msg with
      | .sockRead k line key secs late =>
        let data : AMap Sector := ((List.range 4).filter fun i => secs.getLsbD i).map fun i => (i, s.loadSector (line * 256 + 64 * i) key)
        .next ((if late then s1 else s1.countLate m.tm.own m.tm.queue m.tm.part).sendMesh (sockRouter socket) (.slice k) m.net
          (sockSource socket) m.tm (.sockData k line key data))
      | .sockWrite k id late => .next ((if late then s1 else s1.countLate m.tm.own m.tm.queue m.tm.part).unspill k id)
      | .sockRaw pa key x w => .next (s1.storeSector pa key x w)
      | _ => .next s1

/-! ## The mesh -/

/-- The team whose operation a request or a message belongs to, with the number of the request. -/
def Req.owner? (r : Req) : Option (Nat × Nat) := match r.asker with
  | .op t _ _ => some (t, r.id)
  | _ => none

/-- The request that a message answers. -/
def Msg.req? : Msg → Option Req
  | .readReply r _ _ => some r
  | .atomReply r _ => some r
  | .scaleReply r _ _ => some r
  | .barReply r _ _ => some r
  | .ack r => some r
  | .discard r => some r
  | .denied r => some r
  | _ => none

def Msg.owner? : Msg → Option (Nat × Nat)
  | .linkReply (.remote _ t _ _ _) _ => some (t, 0)
  | m => m.req?.bind Req.owner?

/-- Whether a message is the answer of another package to one message of an operation. -/
def Msg.brings (op part : Nat) : Msg → Bool
  | .linkReply (.remote _ _ _ o n) _ => o == op && n == part
  | _ => false

/-- A line arrives for a core's fetch path (R96): what the core held written of it when it asked lies over the answer. -/
def Core.fetched (c : Core) (r : Req) (secs : AMap Sector) : Core :=
  match c.ifetch.find? (·.1 == r.id) with
  | none => c
  | some (_, line, mask, own) =>
    let home : BitVec 2048 := secs.foldl (fun (x : BitVec 2048) e => x ||| (BitVec.setWidth 2048 e.2).shiftLeft (512 * e.1)) (0 : BitVec 2048)
    let keep : BitVec 2048 := (List.range 4).foldl (fun (x : BitVec 2048) i =>
      x ||| (BitVec.setWidth 2048 (byteMask (mask.extractLsb' (64 * i) 64))).shiftLeft (512 * i)) (0 : BitVec 2048)
    { c with ifetch := c.ifetch.filter (·.1 != r.id), ipath := c.ipath.set line ((home &&& ~~~keep) ||| (own &&& keep)) }

/-- An answer to one of the core's own units, which no operation waits for: a write-back, a prefetch, an instruction fetch; `none`
for any other. -/
def Core.takeOwn (c : Core) (m : Msg) : Option Core :=
  match m, m.req? with
  | .linkReply (.probe _ _ _ id) b, _ =>
    let a : Option (Nat × List Nat) := match b.body with | .allowed f pas => some (f, pas) | _ => none
    some { c with probes := c.probes.map fun p => if p.id = id then { p with answer := some a } else p }
  | .linkReply (.cmd _ id _) _, _ => if c.cmds.any (·.id == id) then none else some c
  | _, none => none
  | _, some r =>
    match r.asker with
    | .evict _ _ => some { c with wbOut := c.wbOut.filter fun w => w.id != r.id }
    | .fetch _ => match m with
      | .readReply _ secs _ => some (c.fetched r secs)
      | _ => some { c with ifetch := c.ifetch.filter (·.1 != r.id) }
    | .prefetch _ =>
      let bad := c.readsOut.any fun e => e.1 == r.id && e.2.2
      let c' := { c with readsOut := c.readsOut.filter fun e => e.1 != r.id }
      match m with
      | .readReply _ secs pending =>
        some (if bad || pending then c' else secs.foldl (fun x e => x.l1Fill (4 * r.line + e.1) r.key 0 e.2) c')
      | _ => some c'
    | .cmd _ id _ => if c.cmds.any (·.id == id) then none else some { c with readsOut := c.readsOut.filter fun e => e.1 != r.id }
    | _ => none

/-- An answer for a queue pair reaches its port die: bytes read join those that came before, and the next operation may go (R66). -/
def HostQp.answered (q : HostQp) (m : Msg) : HostQp :=
  match q.ops, m with
  | .read pa n :: rest, .readReply _ secs _ =>
    { q with ops := rest, sent := false, got := q.got ++ (List.range n).map fun k =>
        (secs.get? ((pa + k) / 64 % 4)).elim 0 fun x => Sector.byte x ((pa + k) % 64) }
  | _ :: rest, .ack _ => { q with ops := rest, sent := false }
  | _ :: rest, _ => { q with ops := .error :: rest.dropWhile fun o => match o with | .ack => false | .reply => false | _ => true, sent := false, got := [] }
  | [], _ => { q with sent := false }

/-- Whether a team is saved, or on another spindle: the loss of a spindle does not affect it (R90). -/
def State.elsewhere (s : State) (k t : Nat) : Bool :=
  (s.teams.get? t).any fun tm => (match tm.place with | .saved _ => true | _ => false) || tm.core / 36 != k

/-- Whether a message answers an operation of a team that is saved or has moved: its image takes the answer whatever has become of its old core (R90,
R333, R408). -/
def State.forSaved (s : State) (core : Nat) (m : Msg) : Bool :=
  let team : Option Nat := match m with
    | .linkReply (.cmd _ cmd _) _ => ((s.core core).cmds.find? (·.id == cmd)).map Cmd.team
    | m => match m.req?.map Req.asker with
      | some (.cmd _ cmd _) => ((s.core core).cmds.find? (·.id == cmd)).map Cmd.team
      | _ => m.owner?.map Prod.fst
  team.any fun t => s.elsewhere (core / 36) t

/-- A message leaves the mesh at its unit. A spindle that is fenced receives nothing (R90), nor does a core that its halted
partition stopped; an answer for a team that is gone ends there. -/
def State.deliver (s : State) (m : MeshMsg) : State :=
  match m.dest with
  | .core c =>
    let gone := match m.msg.owner? with
      | some (t, _) => (s.teams.get? t).isNone
      | none => false
    if (s.core c).stopped || ((s.spindle (c / 36)).fenced && !s.forSaved c m.msg) then s
    else if gone then
      (match m.msg.owner? with
       | some (_, id) => s.modCore c fun x => { x with
           readsOut := x.readsOut.filter fun e => e.1 != id
           farReads := x.farReads.filter fun e => !m.msg.brings e.1 e.2.1 }
       | none => s)
    else
      match (s.core c).takeOwn m.msg with
      | some x => s.modCore c fun _ => x
      | none => s.modCore c fun x => { x with inbox := x.inbox ++ [m.msg] }
  | .slice k =>
    match m.msg with
    | .request r => s.arriveAtSlice k r
    | _ => s.modSlice k fun x => { x with inbox := x.inbox ++ [m.msg] }
  | .sock k => s.modSock k fun x => { x with inq := x.inq ++ [m] }
  | .die _ =>
    (match m.msg.req?.map Req.asker with
     | some (.host qp) => { s with hostQps := s.hostQps.set qp ((s.hostQps.getD qp ⟨[], false, []⟩).answered m.msg) }
     | _ => s)
  | .link l => s.modLink l fun x => { x with inbox := x.inbox ++ [m.msg] }
  | .station k => match m.msg with
    | .resend slice seq => s.modStation k fun x => { x with asks := x.asks ++ [(slice, seq)] }
    | _ => s

/-- Whether a message is a request, and has counted as late (R75). -/
def Msg.lateMark : Msg → Option Bool
  | .request r => some r.late
  | .toLink _ m _ _ => some m.late
  | .sockRead _ _ _ _ late => some late
  | .sockWrite _ _ late => some late
  | _ => none

def Msg.setLate : Msg → Msg
  | .request r => .request { r with late := true }
  | .toLink l m a p => .toLink l { m with late := true } a p
  | .sockRead k line key secs _ => .sockRead k line key secs true
  | .sockWrite k id _ => .sockWrite k id true
  | m => m

/-- A message reaches the head of a router's queue: a request that is late there counts, once (R75). -/
def State.atHead (s : State) (m : MeshMsg) : State × MeshMsg :=
  if m.msg.lateMark == some false && decide (m.tm.own.toNat < s.tsc.toNat) then
    (s.countLate m.tm.own m.tm.queue m.tm.part, { m with msg := m.msg.setLate })
  else (s, m)

/-- ROUTER_FORWARD (R347): an output grants the next network in rotation that has a message ready, and within it the order of
R74. -/
def execRouterForward (router out : Nat) (s : State) : Host.Outcome State Fault Refusal :=
  let rt := s.router router
  let nets := (List.range 5).map fun k => (rt.rr.getD out 4 + 1 + k) % 5
  match nets.findSome? fun n => (firstServed (s.grantable router out n)).map fun m => (n, m) with
  | none => .next s
  | some (net, m) =>
    let s := s.modRouter router fun r => { r with out := r.out.set out ((r.out.getD out []).erase m), rr := r.rr.set out net }
    let (s, m) := s.atHead m
    .next (if out < 4 then s.post (routeNext router out) { m with sprayed := false } else s.deliver m)

/-! ## Performing at a slice -/

/-- Whether a request changes its line. -/
def ReqKind.writes : ReqKind → Bool
  | .read _ _ => false
  | .write _ _ => true
  | .atom _ _ => true
  | .amax _ _ => true
  | .qscale _ m => m.getLsbD 3
  | .bar _ op => match op with
    | .test _ _ => false
    | _ => true

/-- The sectors of its line that a request needs to read. -/
def ReqKind.needs : ReqKind → List Nat
  | .read m _ => (List.range 4).filter fun i => m.getLsbD i
  | .write _ _ => []
  | .atom ls _ => (List.range 4).filter fun i => ls.any fun a => a.off / 64 == i
  | .amax o _ => [o / 64, o / 64 + 1].filter (· < 4)
  | .qscale o _ => [o / 64, o / 64 + 1].filter (· < 4)
  | .bar o _ => [o / 64]

/-- One lane of an atomic request performed (R312): the state after and the old value. -/
def State.atomAt (s : State) (pa key : Nat) (a : AtomLane) (net : Nat) (tm : Terms) : State × W64 :=
  let w := atomBytes a.mod.toNat
  let old := leNat (s.readPaKey pa w key)
  (s.mergeBytes pa key (toLe w (atomNew a.mod.toNat old a.operand.toNat a.swap.toNat)) net tm, BitVec.ofNat 64 old)

/-- What a slice tells the queue engine of an object (R368): its PA, OWNER, outstanding participants and WDL. An operation tells it of
the object as it was, whose owner's boost may end, and as it is (R369). -/
def barBoost (pa : Nat) (o : List Byte) : Nat × W64 × W64 × W64 :=
  (pa, BitVec.ofNat 64 (leAt o 56 8), BitVec.ofNat 64 (leAt o 40 8) &&& ~~~(BitVec.ofNat 64 (leAt o 48 8)), BitVec.ofNat 64 (barWdl o))

/-- Registrations are dropped, and the queue engine learns of the objects that they lent to (R369). -/
def State.dropRegs (s : State) (p : Reg → Bool) : State :=
  s.slices.foldl (fun s sl =>
    let gone := sl.2.regs.filter p
    if gone.isEmpty then s
    else
      let told := gone.map fun r => barBoost (r.line * 256 + r.off) (s.readPaKey (r.line * 256 + r.off) 64 r.key)
      s.modSlice sl.1 fun x => { x with regs := x.regs.filter fun r => !p r, boosts := x.boosts ++ told }) s

/-- WakeRegistered (R367): every registration of an object is dropped and its subset sent a wake on the SC network, with the terms
of the request that caused it (R74). -/
def State.wakeRegistered (s : State) (k line off : Nat) (tm : Terms) : State :=
  let mine := (s.slice k).regs.filter fun r => r.live && r.line == line && r.off == off
  mine.foldl (fun s r =>
    match s.teams.get? r.team with
    | some t => s.sendMesh (k / 4) (.core t.core) 0 (sliceSource k) tm (.wake r.team r.wave r.lanes)
    | none => s) (s.modSlice k fun sl => { sl with regs := sl.regs.filter fun r => !(r.line == line && r.off == off) })

/-- The effect of a request on its line, and its answer (R312, R230, R231, R363). -/
def State.applyReq (s : State) (k : Nat) (r : Req) : State × Msg :=
  let base := r.line * 256
  let put (s : State) (pa : Nat) (bs : List Byte) : State := s.mergeBytes pa r.key bs (netOf r.dom) r.terms
  match r.kind with
  | .read m _ =>
    (s, .readReply r (((List.range 4).filter fun i => m.getLsbD i).map fun i => (i, s.sectorAt (base + 64 * i) r.key)) false)
  | .write m d =>
    ((List.range 4).foldl (fun s i =>
      let sm : BitVec 64 := m.extractLsb' (64 * i) 64
      if sm = 0 then s else s.mergeSector (base + 64 * i) r.key (d.extractLsb' (512 * i) 512) sm (netOf r.dom) r.terms) s, .ack r)
  | .atom ls isRed =>
    let res := ls.foldl (fun (acc : State × List (Nat × W64)) a =>
      let x := acc.1.atomAt (base + a.off) r.key a (netOf r.dom) r.terms
      (x.1, acc.2 ++ [(a.lane, x.2)])) (s, [])
    (res.1, if isRed then .ack r else .atomReply r res.2)
  | .amax off m =>
    (put s (base + off) (amaxFold (s.readPaKey (base + off) 128 r.key) m.toNat), .scaleReply r m false)
  | .qscale off mod =>
    let ring := s.readPaKey (base + off) 128 r.key
    let q := qscaleRing ring mod.toNat
    ((if q.2.2 = ring then s else put s (base + off) q.2.2), .scaleReply r (BitVec.ofNat 32 q.1) q.2.1)
  | .bar off op =>
    let o := s.readPaKey (base + off) 64 r.key
    let res := op.apply o true
    let s := if res.1 = o then s else put s (base + off) res.1
    let s := if res.2.2 then s.wakeRegistered k r.line off r.terms else s
    (if res.1 = o then s
      else s.modSlice k fun sl => { sl with boosts := sl.boosts ++ [barBoost (base + off) o, barBoost (base + off) res.1] },
      .barReply r (BitVec.ofNat 32 res.2.1) true)

/-- Data from memory fill a sector under the bytes already written (R267). -/
def Slice.fillSector (sl : Slice) (line key sec : Nat) (data : Sector) : Slice :=
  let ln := sl.lines.getD line { key := key, sec := [] }
  let x := ln.sec.getD sec ⟨false, 0, 0⟩
  let full : SliceSector := { x with filled := true, data := x.over data }
  { sl with
    fills := sl.fills.filter (· != (line, sec))
    lines := if sl.fills.contains (line, sec) then sl.lines.set line { ln with sec := ln.sec.set sec full } else sl.lines }

/-- Answers from filters and ports, and data from memory, that have reached a slice. -/
def State.absorb (s : State) (k : Nat) : State :=
  let sl := s.slice k
  sl.inbox.foldl (fun s m =>
    match m with
    | .sockData _ line key secs => s.modSlice k fun sl => secs.foldl (fun sl e => sl.fillSector line key e.1 e.2) sl
    | .invalAck _ wid core => s.modSlice k fun sl => { sl with
        pend := sl.pend.map fun p => if p.id = wid then { p with cores := p.cores.erase core } else p }
    | .snoopAck _ wid link => s.modSlice k fun sl => { sl with
        pend := sl.pend.map fun p => if p.id = wid then { p with links := p.links.erase link } else p }
    | _ => s) (s.modSlice k fun sl => { sl with inbox := [] })

/-- The sectors that a request still needs from memory are asked for, in one read of the line, once the line's evicted bytes are in
memory. -/
def State.askMemory (s : State) (k : Nat) (r : Req) (secs : List Nat) : State :=
  let new := secs.filter fun i => !(s.slice k).fills.contains (r.line, i)
  if new.isEmpty || (s.slice k).spills.any (·.line == r.line) then s
  else
    ((s.sliceRoom k r.line (netOf r.dom) r.terms).modSlice k fun sl => { sl with fills := sl.fills ++ new.map fun i => (r.line, i) }).sendMesh
      (k / 4) (.sock (memSocket (r.line * 256))) (netOf r.dom) (sliceSource k) r.terms
      (.sockRead k r.line r.key (BitVec.ofNat 4 (new.foldl (fun n i => n + 2 ^ i) 0)) r.late)

/-- An admitted request is performed (R296). A read of a line whose last write has not propagated carries the pending mark;
a write with sharers waits, in SC and TSO, until every filter has applied its invalidation. A socket that is fenced becomes no sharer
(R90). -/
def State.performReq (s : State) (k : Nat) (r : Req) : State :=
  let s := s.modSlice k fun sl => { sl with admitted := sl.admitted.filter (·.id != r.id) }
  if !r.kind.writes then
    let pending := (s.slice k).pend.any fun p => p.req.line == r.line && !p.hidden
    let res := s.applyReq k r
    let msg := match res.2 with | .readReply r secs _ => .readReply r secs pending | m => m
    let ext := r.ofPeer
    let shares := match r.asker with | .host _ => false | _ => !ext && !(s.spindle (r.core / 36)).fenced
    let s := match r.kind with
      | .read _ _ => res.1.modSlice k fun sl =>
          let d := sl.dir.getD r.line ⟨0, false⟩
          let e : DirEntry := ⟨if shares then d.sharers ||| (1#24 <<< (r.core / 36)) else d.sharers, d.ext || ext⟩
          { sl with dir := sl.dir.set r.line e }
      | _ => res.1
    s.answer k r msg
  else
    let cores := s.copyHolders k r.line r.asker
    let links := s.snoopPorts r.line
    let s := s.sliceRoom k r.line (netOf r.dom) r.terms
    if cores.isEmpty && links.isEmpty then
      let res := s.applyReq k r
      res.1.answer k r res.2
    else
      let hidden := r.dom == .sc || r.dom == .tso
      let wid := s.nextUid
      let res := if hidden then (s, Msg.ack r) else s.applyReq k r
      let p : PendWrite := ⟨wid, r, cores, links, hidden, if hidden then none else some res.2, s.tsc⟩
      let s := { res.1 with nextUid := wid + 1 }.modSlice k fun sl => { sl with pend := sl.pend ++ [p] }
      let s := cores.foldl (fun s c => s.sendMesh (k / 4) (.core c) (netOf r.dom) (sliceSource k) r.terms (.inval k wid r.line r.dom r.terms)) s
      links.foldl (fun s l => s.sendMesh (k / 4) (.link l) (netOf r.dom) (sliceSource k) r.terms
        (.snoop k wid r.line (netOf r.dom) l r.terms)) s

/-- Whether a request would read data that cannot be corrected (R359). -/
def State.barred (s : State) (r : Req) : Bool := r.kind.needs.any fun i => s.withheld.contains (4 * r.line + i)

/-- Whether a request is an access of another package, or of another partition of this one, to a line (R277). -/
def State.foreign (s : State) (r : Req) : Bool :=
  r.ofPeer || decide (s.ownerOf (r.line * 256) ≠ r.part)

/-- The team whose stash a request is made for. -/
def State.askerTeam (s : State) (a : Asker) : Option Nat :=
  match a with
  | .op t _ _ => some t
  | .cmd core cmd _ => ((s.core core).cmds.find? (·.id == cmd)).map Cmd.team
  | _ => none

/-- Whether a request is a write-back of masked bytes. -/
def Req.isEvict (r : Req) : Bool := match r.asker with | .evict _ _ => true | _ => false

/-- The stashes of other agents that hold bytes of a request's line written: they are recalled before it is performed (R271). -/
def State.recalls (s : State) (r : Req) : List Nat :=
  if r.isEvict then []
  else (((s.mapHoldersOf r.line).filter fun h => h.2.2.mask != 0 && some h.1 != s.askerTeam r.asker).map (·.1)).eraseDups

/-- Whether bytes of a line that a stash wrote back are still on their way to its home slice. -/
def State.recallOut (s : State) (k line : Nat) : Bool :=
  s.cores.any fun c => c.2.wbOut.any fun w => w.line == line && w.mapped && !((s.slice k).pend.any fun p => p.req.id == w.id)

/-- Whether an admitted request waits: for a write of its line still to become readable, a read of another package for one still to
propagate (log entry 56); for bytes that a stash holds written (R271); or with the data that are withheld (R359). A write-back waits for
none of them: what the others wait for may wait for it. -/
def State.heldBack (s : State) (k : Nat) (r : Req) : Bool :=
  !r.isEvict &&
    (((s.slice k).pend.any fun p => p.req.line == r.line && (p.hidden || (r.ofPeer && !r.kind.writes))) ||
      !(s.recalls r).isEmpty || s.recallOut k r.line || (s.barred r && !s.foreign r))

/-- SLICE_PERFORM (R296): the first admitted request that nothing holds back and whose sectors are cached; sectors it lacks are asked
of memory. Data that cannot be corrected are withheld until the halt, and an importer is refused them (R359). -/
def execSlicePerform (slice : Nat) (s : State) : Host.Outcome State Fault Refusal :=
  let s := s.absorb slice
  let sl := s.slice slice
  let missing (r : Req) : List Nat := r.kind.needs.filter fun i => !((sl.cached r.line i).elim false SliceSector.filled)
  match sl.admitted.find? fun r => !s.heldBack slice r && (s.barred r || (missing r).isEmpty) with
  | some r =>
    if s.barred r then .next ((s.modSlice slice fun sl => { sl with admitted := sl.admitted.filter (·.id != r.id) }).answer slice r (.denied r))
    else .next (s.performReq slice r)
  | none =>
    match sl.admitted.find? fun r => !s.heldBack slice r && !(sl.spills.any (·.line == r.line)) && (missing r).any fun i => !sl.fills.contains (r.line, i) with
    | some r => .next (s.askMemory slice r (missing r))
    | none => .next s

/-- WRITE_PROPAGATED (R296): every sharer has answered. An SC or TSO write becomes readable now; the writer is
acknowledged, and waves that read the line learn that it has propagated. -/
def execWritePropagated (slice wid : Nat) (s : State) : Host.Outcome State Fault Refusal :=
  let s := s.absorb slice
  match (s.slice slice).pend.find? fun p => p.id == wid && p.cores.isEmpty && p.links.isEmpty with
  | none => .next s
  | some p =>
    let s := s.modSlice slice fun sl => { sl with pend := sl.pend.filter (·.id != wid) }
    let (s, msg) := match p.reply with
      | some m => (s, m)
      | none => s.applyReq slice p.req
    let s := if (s.slice slice).pend.any fun q => q.req.line == p.req.line then s
      else { s with teams := s.teams.mapVals fun tm => { tm with waves := tm.waves.mapVals fun w =>
        { w with pendingLines := w.pendingLines.filter (· != p.req.line) } } }
    .next (s.answer slice p.req msg)

/-- An invalidation held by the RC or BLK filter of a core; a filter that holds 256 applies the oldest. -/
def State.hold (s : State) (core net k wid line : Nat) (tm : Terms) : State :=
  let l := (s.core core).held.getD net []
  match l with
  | old :: more =>
    if 256 ≤ l.length then
      (s.applyInval core old.2.2.1 old.2.2.2).modCore core fun c => { c with held := c.held.set net (more ++ [(k, wid, line, tm)]) }
    else s.modCore core fun c => { c with held := c.held.set net (l ++ [(k, wid, line, tm)]) }
  | [] => s.modCore core fun c => { c with held := c.held.set net [(k, wid, line, tm)] }

/-- INVALIDATION_ARRIVAL (R296): the first invalidation at a core is applied, or, in RC and BLK, queued. Load reuse of the line ends
either way (R145). It is answered to the slice, or, as number 96 + l, to the port of link l that delivered a snoop (R298). -/
def execInvalidationArrival (core : Nat) (s : State) : Host.Outcome State Fault Refusal :=
  match takeFirst Msg.isInval (s.core core).inbox with
  | some (.inval k wid line dom tm, rest) =>
    let s := s.modCore core fun c => { c with inbox := rest }
    let s := s.modCore core fun c => (List.range 4).foldl (fun c i => c.dropSectorReuse (4 * line + i)) c
    let s := match dom with
      | .rc => s.hold core 3 k wid line tm
      | .blk => s.hold core 4 k wid line tm
      | _ => s.applyInval core line tm
    .next (s.sendMesh (core / 36) (if k < 96 then .slice k else .link (k - 96)) (netOf dom) (coreSource core) tm (.invalAck k wid core))
  | _ => .next s

/-- L1_EVICTION (R268): a sector's masked bytes are written back, with the terms of a team that stored them (R74), and the sector leaves;
one whose data cannot be corrected stays, withheld (R359). -/
def execL1Eviction (core line sector : Nat) (s : State) : Host.Outcome State Fault Refusal :=
  if sector < 4 ∧ !(s.core core).badPa.contains (4 * line + sector) then
    let tm := match ((s.core core).l1Sector (4 * line + sector)).bind fun x => x.owners.head? with
      | some o => s.termsOf o.1 0
      | none => Terms.nobody 0xFF
    .next ((s.writeBack core (4 * line + sector) [.rc, .blk] tm).modCore core fun c => c.dropL1 (4 * line + sector))
  else .next s

/-- STASH_RECALL (R271): another agent's request for a line recalls a team's masked bytes, which carry the request's terms (R74); for a
write the sectors are invalidated as well. -/
def execStashRecall (team line : Nat) (write : Bool) (s : State) : Host.Outcome State Fault Refusal :=
  let cause := (s.homeOf line).bind fun k => (s.slice k).admitted.find? fun r => r.line == line && !r.isEvict
  .next (((s.teams.get? team).elim [] fun t => t.mappedOf line).foldl
    (fun s e => s.cleanStash team e.1 write (cause.elim (Terms.nobody 0xFF) Req.terms)) s)

end Sys2Proof.Machine
end

