-- ==== Sys2Proof/Machine/Access.lean ====
section
/-! DEFINITION. What the memory instructions share: effective addresses and the checks of R305, the pieces of an access and
when two of them overlap (R280), the waits of the domains (R283-R289, R295, R296), store queues, requests to home slices and
to other packages, and the requests of atomics that a core holds (R402). -/

namespace Sys2Proof.Machine

/-! ## Addresses and checks (R305) -/

/-- DOMAIN, SCOPE, ORDER and HINT of an FM instruction (R108). -/
def Iss.ord (i : Iss) : Dom × Scope × Ordering4 × BitVec 2 :=
  match i.f.c with
  | .ord d s o h => (d, s, o, h)
  | _ => (.rc, .team, .plain, 0)

def Iss.dom (i : Iss) : Dom := i.ord.1
def Iss.scope (i : Iss) : Scope := i.ord.2.1
def Iss.order (i : Iss) : Ordering4 := i.ord.2.2.1
def Iss.hint (i : Iss) : BitVec 2 := i.ord.2.2.2

/-- Whether an ORDER acquires, or releases. -/
def acquires (o : Ordering4) : Bool := o == .acq || o == .acqrel
def releases (o : Ordering4) : Bool := o == .rel || o == .acqrel

/-- The sign-extended offset of the extension word (R99). -/
def Iss.off (i : Iss) : W64 := match i.f.ext with
  | some e => (e.extractLsb' 0 32).signExtend 64
  | none => 0

/-- The effective address of a lane. -/
def Iss.ea (i : Iss) (s : State) (l : Nat) : Nat := (lane64 (i.srcA s) l + i.off).toNat

/-- Who accesses: a lane of the subset. -/
def Iss.who (i : Iss) (l : Nat) : Who where
  part := i.launch.part
  ctx := i.team.vctx i.launch.ctx
  core := i.team.core
  floor := i.launch.header.floor
  priv := i.launch.header.priv
  stashSize := i.launch.header.stash
  privBase := i.team.privBase
  maps := i.team.maps
  waveIx := i.wid
  lane := l
  engine := false

/-- A lane's access and how its checks end. -/
structure LaneAcc where
  lane : Nat
  ea : Nat
  width : Nat
  acc : Acc
  deriving DecidableEq, Repr

/-- The accesses of some lanes, with the checks of R263. `atomic`: the element is changed in one step (`Acc.oneLine`); an 8-byte
atomic to private memory takes ALIGN (R274). -/
def Iss.accesses (i : Iss) (s : State) (lanes : List Nat) (width : Nat) (need : Need) (atomic : Bool) : List LaneAcc :=
  lanes.map fun l =>
    let ea := i.ea s l
    let acc := s.access (i.who l) ea width true need i.dom
    ⟨l, ea, width, if atomic && width == 8 && apertureOf ea == .priv then .align else if atomic then acc.oneLine width else acc⟩

/-- The virtual pages whose translations an access uses. -/
def Who.pages (w : Who) (va width : Nat) : List Nat :=
  match apertureOf va with
  | .global => [va, va + width - 1]
  | .priv => [privAddr w (va % 65536), privAddr w (va % 65536 + width - 1)]
  | .stash => match mapOfStash w.maps (va % 2 ^ 19) with
    | some m => [m.g + (va % 2 ^ 19 - m.o)]
    | none => []
  | _ => []

/-- Private memory of a team has undefined contents from its placement on (R70): free bytes come to the part of its share in the page
of a VA, once that page has a writable translation (log entry 105). -/
def State.undefinePage (s : State) (t va : Nat) : State :=
  match s.teams.get? t with
  | none => s
  | some tm =>
    match (if tm.undefAt.contains (va / 65536) then s.launches.get? tm.launch else none) with
    | none => s
    | some l =>
      match s.translate (tm.vctx l.ctx) tm.core va with
      | .ok leaf pa =>
        if leafAllows leaf ⟨false, true, false⟩ && s.ownerOf pa == l.part then
          let lo := Nat.max (va / 65536 * 65536) tm.privBase
          let hi := Nat.min (va / 65536 * 65536 + 65536) (tm.privBase + l.header.priv * 32 * l.header.waves)
          let r := s.freeBytes (hi - lo)
          (r.1.mergeBytes (pa / 65536 * 65536 + lo % 65536) (leafKey leaf) r.2 0 (Terms.nobody l.part)).modTeam t fun tm =>
            { tm with undefAt := tm.undefAt.filter (· != va / 65536) }
        else s
      | _ => s

/-- Every page of private memory that was placed before it had a translation and has one now (R70): its contents become undefined before
anything is read or written there. -/
def State.undefinePages (s : State) : State :=
  s.teams.foldl (fun s t => t.2.undefAt.foldl (fun s p => s.undefinePage t.1 (p * 65536)) s) s

/-- The translations of checked accesses stay with the core (R266). -/
def State.fillTlbs (s : State) (i : Iss) (as : List LaneAcc) : State :=
  as.foldl (fun s a => ((i.who a.lane).pages a.ea a.width).foldl (fun s va =>
    s.fillTlb (i.team.vctx i.launch.ctx) i.team.core va) s) s.undefinePages

/-- The end of the checks over all lanes: the earliest step that fails in any lane decides (R263, R305), else the pieces. -/
def Iss.checked (i : Iss) (tsc : W64) (as : List LaneAcc) (need : Need) : Except Eff (List Piece) :=
  let step := as.foldl (fun m a => Nat.min m a.acc.step) 6
  let bad := as.filter fun a => a.acc.step == step
  let mask := laneMask fun l => bad.any (·.lane == l)
  let ea : W64 := BitVec.ofNat 64 (bad.head?.elim 0 LaneAcc.ea)
  match step with
  | 0 => .error .stall
  | 1 => .error (.trap ⟨.align, 2, 8, 0, mask, ea, 0⟩)
  | 3 => .error (.fault ((bad.filterMap fun a => match a.acc with
      | .miss page level cause =>
        some ⟨i.tid, tsc, i.launch.ctx, page, need.kind false, level, cause, coreSource i.team.core, i.launch.ident⟩
      | _ => none).eraseDups))
  | 5 =>
    match bad.head?.map LaneAcc.acc with
    | some (.floor eff page) =>
      .error (.trap ⟨.floor, 2, 8, 0, mask, ea, BitVec.ofNat 64 (i.dom.ctorIdx + 16 * eff + 256 * page)⟩)
    | _ => .error .stall
  | 6 => .ok (as.flatMap fun a => match a.acc with
      | .ok ps => ps.map fun p => ⟨a.lane, p.1, p.2.1, p.2.2, BitVec.ofNat 64 (a.ea + p.1)⟩
      | _ => [])
  | _ => .error (.halt .permission ea)

/-! ## Checks at an exporter in another package (R263, R277) -/

/-- A message for another package goes to the port of the link that leads there (log entry 22); its remaining time is that of the
moment at which the port sends it (R353). -/
def State.toPackage (s : State) (core pkg : Nat) (dom : Dom) (tm : Terms) (asker : Asker) (body : LinkBody) : State :=
  let l := Config.linkTo pkg % 32
  s.sendMesh (core / 36) (.link l) (netOf dom) (coreSource core) tm (.toLink l
    ⟨0, netOf dom, none, tm.prio, false, body, match asker with | .remote _ _ _ _ _ => true | _ => false⟩ asker tm.part)

/-- The bytes of exports in other packages that checked accesses name: package, partition, export, generation, offset, length. -/
def remoteSpans (as : List LaneAcc) : List (Nat × Nat × Nat × Nat × Nat × Nat) :=
  (as.flatMap fun a => match a.acc with
    | .ok ps => ps.filterMap fun p => match p.2.2 with
      | .remote pkg part ix gen off _ => some (pkg, part, ix, gen, off, p.2.1)
      | _ => none
    | _ => []).eraseDups

/-- What the exporter has answered to the check of some bytes: `none` while nothing was asked. -/
def Core.probe? (c : Core) (t w : Nat) (need : Need) (x : Nat × Nat × Nat × Nat × Nat × Nat) : Option Probe :=
  c.probes.find? fun p => p.team == t && p.wave == w && p.rd == need.rd && p.wr == need.wr &&
    (p.pkg, p.part, p.ix, p.gen, p.off, p.len) == x

/-- The exporter is asked about bytes of which nothing was asked yet. -/
def State.askProbes (s : State) (i : Iss) (need : Need) (xs : List (Nat × Nat × Nat × Nat × Nat × Nat)) : State :=
  xs.foldl (fun s x =>
    if ((s.core i.team.core).probe? i.tid i.wid need x).isSome then s
    else
      let id := s.nextUid
      let (pkg, part, ix, gen, off, len) := x
      let p : Probe := ⟨i.tid, i.wid, id, pkg, part, ix, gen, off, len, need.rd, need.wr, none⟩
      ({ s with nextUid := id + 1 }.modCore i.team.core fun c => { c with probes := c.probes ++ [p] }).toPackage i.team.core pkg i.dom
        i.terms (.probe i.team.core i.tid i.wid id) (.check part ix gen off len need.rd need.wr)) s

/-- A place with what its exporter has told of where the bytes lie. -/
def Place.located (c : Core) (t w : Nat) (need : Need) (len : Nat) : Place → Place
  | .remote pkg part ix gen off pas =>
    .remote pkg part ix gen off (((c.probe? t w need (pkg, part, ix, gen, off, len)).bind Probe.answer).elim pas fun a => a.elim pas (·.2))
  | p => p

/-- A lane's access with what the exporters answered: refused is a violation (step 4), a domain below the effective floor the
FLOOR trap (step 5). -/
def LaneAcc.judged (a : LaneAcc) (s : State) (i : Iss) (need : Need) : LaneAcc :=
  match a.acc with
  | .ok ps =>
    let c := s.core i.team.core
    let answers := ps.filterMap fun p => match p.2.2 with
      | .remote pkg part ix gen off _ => (c.probe? i.tid i.wid need (pkg, part, ix, gen, off, p.2.1)).map Probe.answer
      | _ => none
    if answers.isEmpty then a
    else if answers.any (· == some none) then { a with acc := .perm 4 }
    else
      let page := answers.foldl (fun f x => match x with | some (some g) => Nat.max f g.1 | _ => f) 0
      let eff := Nat.max (s.peerFloor (i.who a.lane) a.ea) page
      if Dom.rank i.dom < eff then { a with acc := .floor eff page }
      else { a with acc := .ok (ps.map fun p => (p.1, p.2.1, p.2.2.located c i.tid i.wid need p.2.1)) }
  | _ => a

/-- The checks of a subset's accesses to their end, those of exporters in other packages among them: while their answers are
outstanding the subset does not issue. -/
def Iss.verdict (i : Iss) (s : State) (as : List LaneAcc) (need : Need) : Except Eff (List Piece) :=
  let xs := remoteSpans as
  if xs.isEmpty then i.checked s.tsc as need
  else if as.any fun a => decide (a.acc.step < 5) then i.checked s.tsc as need
  else
    let c := s.core i.team.core
    if xs.all fun x => ((c.probe? i.tid i.wid need x).bind Probe.answer).isSome then
      i.checked s.tsc (as.map fun a => a.judged s i need) need
    else .error (.done (s.askProbes i need xs))

/-! ## Places -/

/-- The space a place lies in, and its address there: the team's stash, memory, or an export of another package. -/
def Place.span : Place → Nat × Nat
  | .stash o => (0, o)
  | .mapped _ pa _ => (1, pa)
  | .phys pa _ => (1, pa)
  | .priv pa _ => (1, pa)
  | .peer pa _ => (1, pa)
  | .remote pkg part ix _ off _ => (2 + (pkg * 32 + part) * 65536 + ix, off)

/-- Whether two accesses of `n` and `m` bytes overlap. -/
def Place.meets (a : Place) (n : Nat) (b : Place) (m : Nat) : Bool :=
  let x := a.span
  let y := b.span
  x.1 == y.1 && decide (x.2 < y.2 + m) && decide (y.2 < x.2 + n)

/-- Whether two pieces of one wave belong to one thread and overlap (R280). -/
def Piece.meets (p q : Piece) : Bool := p.lane == q.lane && p.place.meets p.len q.place q.len

/-- Whether an access leaves for another partition or package through a peer window (R309). -/
def Place.isPeer : Place → Bool
  | .peer _ _ => true
  | .remote _ _ _ _ _ _ => true
  | _ => false

def Place.isStash : Place → Bool
  | .stash _ => true
  | _ => false

/-- Whether the bytes lie in a mapped stash range (R270). -/
def Place.isMapped : Place → Bool
  | .mapped _ _ _ => true
  | _ => false

/-- The PA and key of a place in this package's memory. -/
def Place.pa? : Place → Option (Nat × Nat)
  | .mapped _ pa key => some (pa, key)
  | .phys pa key => some (pa, key)
  | .priv pa key => some (pa, key)
  | .peer pa key => some (pa, key)
  | _ => none

/-- The lines of another package that an access touches, as an L1 names them. -/
def Place.farLines : Place → List Nat
  | .remote pkg _ _ _ _ pas => pas.map fun pa => farPa pkg pa / 256
  | _ => []

/-- Where an L1 would hold n bytes of another package: they lie in one sector. -/
def Place.farPa? (n : Nat) : Place → Option Nat
  | .remote pkg _ _ _ _ [pa] => if pa % 64 + n ≤ 64 then some (farPa pkg pa) else none
  | _ => none

/-- Whether a write at the place is visible outside the spindle (R89). -/
def Place.visible : Place → Bool
  | .phys _ _ => true
  | .peer _ _ => true
  | .remote _ _ _ _ _ _ => true
  | _ => false

/-- The lines of this package's memory, each once, ascending. -/
def sortedInsert (n : Nat) : List Nat → List Nat
  | [] => [n]
  | m :: l => if n < m then n :: m :: l else if n = m then m :: l else m :: sortedInsert n l

def linesOf (ps : List Place) : List Nat :=
  ps.foldl (fun l p => match p.pa? with | some (pa, _) => sortedInsert (pa / 256) l | none => l) []

/-! ## Waiting -/

/-- What kind of access waits. -/
inductive AccKind where
  | load | store | atomic
  deriving DecidableEq, Repr

def OpKind.isLoad : OpKind → Bool
  | .load _ => true
  | .scld _ => true
  | .glaunch => true
  | _ => false

def OpKind.isAtomic : OpKind → Bool
  | .atom _ => true
  | .red => true
  | .ring _ => true
  | _ => false

/-- The store-queue entries of a wave. -/
def Core.ownStores (c : Core) (t w : Nat) : List QStore := (c.sq.flatMap (·.2)).filter fun e => e.team == t && e.wave == w

/-- Everything that an entry still has to perform. -/
def QStore.all (e : QStore) : List (Nat × Place × List Byte) := e.parts ++ e.rest

/-- Whether an entry's bytes overlap a piece of its thread. -/
def QStore.meets (e : QStore) (p : Piece) : Bool :=
  e.all.any fun x => x.1 == p.lane && x.2.1.meets x.2.2.length p.place p.len

/-- An operation that changes its location where it stands: an atomic, a reduction, a ring or a barrier operation. -/
def OpKind.isRmw (k : OpKind) : Bool := k.isAtomic || (match k with | .barrier _ => true | _ => false)

/-- Whether an access waits for an operation of its own threads on overlapping bytes (R280): a load for loads and atomics
(two BLK loads go in any order), a store for loads and atomics, an atomic for everything. -/
def overlapWait (k : AccKind) (d : Dom) (ps : List Piece) (o : Op) : Bool :=
  !o.ready &&
    (match k with
     | .load => (o.kind.isLoad && !(d == .blk && o.dom == .blk)) || o.kind.isRmw
     | .store => o.kind.isLoad || o.kind.isRmw
     | .atomic => o.kind.isLoad || o.kind.isRmw || o.kind == .store) &&
    o.pieces.any fun q => ps.any fun p => p.meets q

/-- Whether an access in a domain waits for an earlier one of its threads in that domain (R283-R288): SC for every one, TSO and CAU
for a load or an atomic (an atomic for a store too), RC for an acquire. A store waits for a store in its queue instead. -/
def orderWait (k : AccKind) (d : Dom) (earlierStore : Bool) : Bool :=
  match d with
  | .sc => k != .store || !earlierStore
  | .tso => !earlierStore || k == .atomic
  | .cau => !earlierStore || k == .atomic
  | _ => false

/-- Whether an access waits for an operation of its threads in its own domain: a copy command's source reads are loads in its SDOM,
its destination writes are stores in its DDOM (R330). -/
def domainWait (cs : List Cmd) (k : AccKind) (d : Dom) (lanes : Mask) (o : Op) : Bool :=
  !o.ready && (o.lanes &&& lanes != 0) &&
    (match o.kind with
     | .copy sd dd =>
       (sd == d && cmdReads cs o.id && orderWait k d false) || (dd == d && cmdWrites cs o.id && orderWait k d true)
     | kind => kind.isMem && o.dom == d && (orderWait k d (kind == .store) || (d == .rc && acquires o.order)))

/-- Whether two runs of bytes overlap, addresses being taken modulo 2^64. -/
def runsMeet (a n b m : Nat) : Bool :=
  decide (0 < n) && decide (0 < m) && (decide ((b + 2 ^ 64 - a % 2 ^ 64) % 2 ^ 64 < n) || decide ((a + 2 ^ 64 - b % 2 ^ 64) % 2 ^ 64 < m))

/-- The ranges that stand in the way of a team's accesses on a core: those of the core's scoreboard, and those of the team's commands that
run on at the core it left (R333). -/
def State.rangesFor (s : State) (core t : Nat) : List RangeEntry :=
  (s.core core).ranges ++ s.cores.flatMap fun c =>
    if c.1 = core then [] else c.2.ranges.filter fun r => c.2.cmds.any fun x => x.id == r.cmd && x.team == t

/-- The range scoreboard (R332): whether bytes at the addresses used overlap what a copy command still has to write, or, for
an access of ST, ATOM or RED (`both`), to read. The sources of a command outside the scoreboard hold back what its own wave
writes (`wr`; R280). -/
def rangeWait (rs : List RangeEntry) (both wr : Bool) (t w a n : Nat) : Bool :=
  rs.any fun r =>
    match r.own with
    | some x => wr && x == (t, w) && runsMeet r.src r.sLen a n
    | none => runsMeet r.dst r.dLen a n || (both && runsMeet r.src r.sLen a n)

/-- Whether an access cannot issue yet; data that the core withholds are waited for (R359). -/
def Iss.accessWait (i : Iss) (s : State) (k : AccKind) (as : List LaneAcc) (ps : List Piece) : Bool :=
  let cs := if i.wave.ops.isEmpty then [] else s.cmdsOf i.tid
  let rs := s.rangesFor i.team.core i.tid
  i.wave.mem == 63 || ps.any (fun p => (s.core i.team.core).badVa.contains (p.va.toNat / 64)) ||
    i.wave.ops.any (fun o => overlapWait k i.dom ps o || domainWait cs k i.dom i.act o) ||
    as.any fun a => rangeWait rs (k != .load && decide (0x300 ≤ i.opc)) (k != .load) i.tid i.wid a.ea a.width

/-- A release of the subset's earlier accesses before this one (R283, R287, R272): RC waits for the drain; in the other
domains the mapped stash bytes of the team are written back. `none`: go on. -/
def Iss.releaseWait (i : Iss) (s : State) : Option State :=
  if !releases i.order then none
  else if i.dom == .rc then s.release i s.nextOp [.rc] i.scope
  else none

/-- The write-back of mapped stash bytes by a release at CLUS or wider in a domain other than RC (R272, R282). -/
def State.releaseStash (s : State) (i : Iss) : State :=
  if releases i.order && decide (2 ≤ i.scope.ctorIdx) then s.cleanTeamStash i.tid i.terms else s

/-! ## The core's own stores -/

/-- The value of a byte in the youngest queued store of the thread (R296), if any. -/
def Core.queuedByte (c : Core) (t w l : Nat) (space addr : Nat) : Option Byte :=
  ((c.ownStores t w).foldl (fun (acc : Option (Nat × Byte)) e =>
    e.all.foldl (fun acc x =>
      let sp := x.2.1.span
      if x.1 = l ∧ sp.1 = space ∧ sp.2 ≤ addr ∧ addr < sp.2 + x.2.2.length then
        (match acc, x.2.2[addr - sp.2]? with
         | some (o, b), some v => if o ≤ e.op then some (e.op, v) else some (o, b)
         | none, some v => some (e.op, v)
         | a, none => a)
      else acc) acc) none).map (·.2)

def Place.isPriv : Place → Bool
  | .priv _ _ => true
  | _ => false

/-- A byte that a team's stash holds written at a mapped offset. -/
def Team.mappedByte (tm : Team) (o : Nat) : Option Byte :=
  match tm.mapAt (o / 64) with
  | some (_, e) => if e.mask.getLsbD (o % 64) then some (Sector.byte (tm.stash.getD (o / 64) 0) (o % 64)) else none
  | none => none

/-- The bytes that a load takes from the core itself, under whatever answer comes: those of the thread's own queued stores, then
those that the L1, or the stash at a mapped offset, holds written (R271, R296): lane, byte of the access, value. -/
def Core.forwarded (c : Core) (tm : Team) (t w : Nat) (ps : List Piece) : List (Nat × Nat × Byte) :=
  let queued := !(c.ownStores t w).isEmpty
  ps.flatMap fun p =>
    let sp := p.place.span
    let masked : Bool := match p.place with
      | .mapped _ _ _ => true
      | pl => match pl.pa? with | some (pa, _) => c.lineMasked (pa / 256) | none => false
    if !queued && !masked then []
    else (List.range p.len).filterMap fun k =>
      ((if queued then c.queuedByte t w p.lane sp.1 (sp.2 + k) else none) <|>
        (match p.place with
         | .mapped o _ _ => tm.mappedByte (o + k)
         | pl => pl.pa?.bind fun a => c.l1Masked (a.1 + k) pl.isPriv)).map fun b => (p.lane, p.at_ + k, b)

/-! ## Mapped stash ranges (R270, R271) -/

/-- Whether every one of n bytes at a mapped offset, which lie in one sector, can be read from the stash. -/
def Team.mappedReady (tm : Team) (o n : Nat) : Bool :=
  match tm.mapAt (o / 64) with
  | none => false
  | some (_, e) => e.filled || (e.mask &&& maskAt 64 (o % 64) n) == maskAt 64 (o % 64) n

/-- A mapped sector is touched: it is a copy of the sector at a PA, which an answer is to fill (R271). -/
def State.touchMapped (s : State) (t o pa key : Nat) : State :=
  s.modTeam t fun tm => tm.setMapSec (o / 64) fun x => some (x.getD (MapSec.empty (pa / 64 * 64) key))

/-- An answer fills the touched sectors of a line in a team's stash, under the bytes already written (R267, R271). -/
def State.fillMapped (s : State) (t line : Nat) (secs : AMap Sector) : State :=
  s.modTeam t fun tm => (tm.mappedOf line).foldl (fun tm e =>
    match secs.get? (e.2.pa / 64 % 4) with
    | some x => if e.2.filled then tm
      else
        let tm' : Team := { tm with stash := tm.stash.set e.1 (Sector.merge x (tm.stash.getD e.1 0) e.2.mask) }
        tm'.setMapSec e.1 fun y => y.map fun y => { y with filled := true }
    | none => tm) tm

/-- Whether a line's last write has not propagated at its home slice (R296). -/
def State.linePending (s : State) (line : Nat) : Bool :=
  match s.homeOf line with
  | some k => (s.slice k).pend.any fun p => p.req.line == line && !p.hidden
  | none => false

/-- A wave has read a line that is still to propagate. -/
def Wave.addPending (w : Wave) (line : Nat) : Wave :=
  if w.pendingLines.contains line then w else { w with pendingLines := w.pendingLines ++ [line] }

/-- Whether a read of a line can be noted: a wave has up to 16 pending lines (R296). -/
def State.pendingRoom (s : State) (t w line : Nat) : Bool :=
  !s.linePending line ||
    (match s.wave? t w with
     | some wv => wv.pendingLines.contains line || decide (wv.pendingLines.length < 16)
     | none => true)

/-- A wave reads a line: it keeps it while it is pending. -/
def State.notePending (s : State) (t w line : Nat) : State :=
  if s.linePending line then s.modWave t w fun wv => wv.addPending line else s

/-- Bytes of RC and BLK written to a mapped range, within one sector, stay masked in the stash; load reuse of the sector ends (R145). -/
def State.writeMapped (s : State) (t o pa key : Nat) (blk : Bool) (bs : List Byte) : State :=
  match s.teams.get? t with
  | none => s
  | some tm =>
    let m : BitVec 64 := maskAt 64 (o % 64) bs.length
    (s.modCore tm.core fun c => c.dropSectorReuse (pa / 64)).modTeam t fun tm =>
      (tm.stashWrite o bs).setMapSec (o / 64) fun x =>
        let e := x.getD (MapSec.empty (pa / 64 * 64) key)
        some { e with
          rcMask := if blk then e.rcMask &&& ~~~m else e.rcMask ||| m
          blkMask := if blk then e.blkMask ||| m else e.blkMask &&& ~~~m }

/-! ## Requests -/

/-- The sectors of a line that some places touch. -/
def sectorMask (ps : List Place) (line : Nat) : BitVec 4 :=
  ps.foldl (fun m p => match p.pa? with
    | some (pa, _) => if pa / 256 = line then m ||| (1#4 <<< (pa / 64 % 4)) else m
    | none => m) 0

def keyOfLine (ps : List Place) (line : Nat) : Nat :=
  (ps.findSome? fun p => match p.pa? with
    | some (pa, key) => if pa / 256 = line then some key else none
    | none => none).getD 0

/-- A read request for a line, remembered until it is answered. -/
def State.sendRead (s : State) (core : Nat) (asker : Asker) (dom : Dom) (line key : Nat) (secs : BitVec 4) (tm : Terms)
    (hnol1 : Bool) : State :=
  let (s, id) := s.sendReq core asker dom line key (.read secs (!hnol1)) tm hnol1
  s.modCore core fun c => { c with readsOut := c.readsOut ++ [(id, line, false)] }

/-- Bytes put into a line image. -/
def linePut (img : BitVec 256 × BitVec 2048) (o : Nat) (bs : List Byte) : BitVec 256 × BitVec 2048 :=
  let keep : BitVec 2048 := BitVec.ofNat 2048 (((1 <<< (8 * bs.length)) - 1) <<< (8 * o))
  (img.1 ||| maskAt 256 o bs.length, (img.2 &&& ~~~keep) ||| BitVec.ofNat 2048 (leNat bs <<< (8 * o)))

/-- The remaining time to a deadline as it crosses a link (R353), and the late mark. -/
def State.remaining (s : State) (d : W64) : Option (BitVec 40) × Bool :=
  if d = BitVec.allOnes 64 then (none, false)
  else if d.toNat ≤ s.tsc.toNat then (some 0, true)
  else (some (BitVec.ofNat 40 (Nat.min (d.toNat - s.tsc.toNat) (2 ^ 40 - 1))), false)

/-- The requests of atomics that are waiting at a core leave while fewer than 24 are in flight (R402). -/
def State.sendAtoms (s : State) (core : Nat) : Nat → State
  | 0 => s
  | n + 1 =>
    match (s.core core).atomsUnsent with
    | [] => s
    | a :: rest =>
      if 24 ≤ (s.core core).atomsInFlight.length then s
      else
        let (s, id) := match a.home, a.link with
          | some r, _ => s.sendReq core (.op a.team a.wave a.op) r.dom r.line r.key r.kind r.terms r.hnol1
          | none, some (pkg, body) =>
            let tm := s.termsOf a.team a.wave
            let dom := (s.op? a.team a.wave a.op).elim Dom.rc Op.dom
            ({ s.toPackage core pkg dom tm (.remote core a.team a.wave a.op a.part) body with nextUid := s.nextUid + 1 }, s.nextUid)
          | none, none => (s, 0)
        (s.modCore core fun c =>
          { c with atomsInFlight := c.atomsInFlight ++ [{ a with req := id }], atomsUnsent := rest }).sendAtoms core n

/-- A request that was answered frees its place. -/
def State.atomAnswered (s : State) (core : Nat) (p : AtomReq → Bool) : State :=
  (s.modCore core fun c => { c with atomsInFlight := c.atomsInFlight.filter fun a => !p a }).sendAtoms core 64

/-- Whether atomics may issue (R402). -/
def Core.atomRoom (c : Core) : Bool := decide (c.atomsInFlight.length < 24) && c.atomsUnsent.isEmpty

/-! ## Digest addresses (R413, R414) -/

/-- The address of a contribution; `none` for private memory and unmapped stash. -/
def Iss.digestAddr (i : Iss) (ea : Nat) : Option W64 :=
  match apertureOf ea with
  | .global => some (BitVec.ofNat 64 ea)
  | .peer => some (BitVec.ofNat 64 ea)
  | .stash => (mapOfStash i.team.maps (ea % 2 ^ 19)).map fun m => BitVec.ofNat 64 (m.g + (ea % 2 ^ 19 - m.o))
  | _ => none

/-! ## The end of an issue -/

/-- The operation of a memory instruction. -/
def Iss.memOp (i : Iss) (s : State) (kind : OpKind) (ps : List Piece) : Op :=
  { i.resultOp s [] with
    kind := kind
    dom := i.dom
    scope := i.scope
    order := i.order
    pieces := ps
    counted := some 0
    hint := i.hint
    isRemote := ps.any (·.place.isPeer) }

/-- A memory operation begins; a remote load's subset is BLOCKED until its replies have arrived (R309). -/
def State.beginMem (s : State) (i : Iss) (o : Op) : State :=
  let s := (s.dropProbes i.tid i.wid i.team.core).beginOp i o
  if o.isRemote && o.kind != .store && o.kind != .red then
    s.modWave i.tid i.wid fun w => w.blockOn i.lanes (i.pc + i.len) (.remote o.id)
  else s

/-- A subset that cannot go on and has begun the write-backs it waits for; it issues again. -/
def waiting (s : State) : Eff := .done s

end Sys2Proof.Machine
end

