-- ==== Sys2Proof/Machine/Memory.lean ====
section
/-! DEFINITION. Loads, stores, atomics, rings, fences and bridges at issue (R230, R231, R249, R302-R317), and the release of a
store from its queue (R295). -/

namespace Sys2Proof.Machine

/-! ## Access kinds (R304) -/

/-- Access width of a kind. -/
def kindBytes (k : Nat) : Nat :=
  if k = 1 ∨ k = 5 then 1
  else if k = 2 ∨ k = 6 then 2
  else if k = 4 ∨ k = 8 ∨ k = 12 then 8
  else if k ≥ 20 then 16
  else 4

/-- The tags of the vectors that a load of a kind writes. -/
def kindTags (k : Nat) : List Nat :=
  match k with
  | 4 => [0, 0]
  | 8 => [0, 0]
  | 9 => [1]
  | 10 => [2]
  | 11 => [3]
  | 12 => [10, 11]
  | 13 => [4]
  | 14 => [5]
  | 15 => [9]
  | 16 => [8]
  | 17 => [8]
  | 18 => [6]
  | 19 => [7]
  | 20 => [0, 0, 0, 0]
  | 21 => [1, 1, 1, 1]
  | 22 => [2, 2, 2, 2]
  | 23 => [3, 3, 3, 3]
  | 24 => [4, 4, 4, 4]
  | 25 => [5, 5, 5, 5]
  | 26 => [9, 9, 9, 9]
  | 27 => [8, 8, 8, 8]
  | 28 => [6, 6, 6, 6]
  | 29 => [7, 7, 7, 7]
  | 30 => [0, 0, 0, 0]
  | 31 => [10, 11, 10, 11]
  | _ => [0]

/-- Extend of R307: the widening kinds. -/
def kindExtend (k x : Nat) : W32 :=
  match k with
  | 1 => BitVec.ofInt 32 (sInt 8 x)
  | 2 => BitVec.ofInt 32 (sInt 16 x)
  | _ => BitVec.ofNat 32 x

/-- The vectors of a load from the bytes of each lane. -/
def loadVecs (k : Nat) (val : Nat → List Byte) : List Vec :=
  match kindTags k with
  | [t] => [Vec.of fun l => ⟨kindExtend k (leNat (val l)), BitVec.ofNat 4 t⟩]
  | ts => (List.zip (List.range 4) ts).map fun (j, t) =>
      Vec.of fun l => ⟨BitVec.ofNat 32 (leAt (val l) (4 * j) 4), BitVec.ofNat 4 t⟩

/-- The bytes that a store of a kind writes for a lane. -/
def storeBytes (k : Nat) (vs : List Vec) (l : Nat) : List Byte :=
  (vs.flatMap fun v => toLe 4 (v.val l).toNat).take (kindBytes k)

/-! ## Loads (R307-R309) -/

/-- A load looks up the reuse table (R142, R145): BLK or plain RC, HINT 0 or 2, one register or pair. -/
def Iss.loadEligible (i : Iss) : Bool :=
  (i.dom == .blk || (i.dom == .rc && i.order == .plain)) && (i.hint == 0 || i.hint == 2) &&
    (match i.f.dst with | .v _ => true | .p _ => true | _ => false)

/-- The sectors a load reads when it may create an entry: at most 8, every lane in the global aperture (R145). -/
def loadSectors (as : List LaneAcc) (ps : List Piece) : Option (List Nat) :=
  if as.all fun a => apertureOf a.ea == .global then
    let secs := ps.foldl (fun l p => match p.place.pa? with | some (pa, _) => sortedInsert (pa / 64) l | none => l) []
    if secs.length ≤ 8 then some secs else none
  else none

/-- One piece of a load at issue: bytes that are at hand, or a piece still to come. -/
def State.loadPiece (t w core : Nat) (direct sc : Bool) (acc : State × List (Nat × Nat × List Byte) × List Piece) (p : Piece) :
    State × List (Nat × Nat × List Byte) × List Piece :=
  let (s, got, miss) := acc
  match p.place with
  | .stash o => (s, got ++ [(p.lane, p.at_, (s.teams.get? t).elim [] fun tm => tm.stashRead o p.len)], miss)
  | .mapped o pa key =>
    match s.teams.get? t with
    | none => acc
    | some tm =>
      if !sc && tm.mappedReady o p.len then (s.notePending t w (pa / 256), got ++ [(p.lane, p.at_, tm.stashRead o p.len)], miss)
      else (if sc then s else s.touchMapped t o pa key, got, miss ++ [p])
  | .remote _ _ _ _ _ _ =>
    match (if direct then none else (p.place.farPa? p.len).bind fun pa => (s.core core).l1Read pa p.len false) with
    | some bs => (s, got ++ [(p.lane, p.at_, bs)], miss)
    | none => (s, got, miss ++ [p])
  | pl =>
    match pl.pa? with
    | none => (s, got, miss)
    | some (pa, _) =>
      match (if direct then none else (s.core core).l1Read pa p.len pl.isPriv) with
      | some bs => (s.notePending t w (pa / 256), got ++ [(p.lane, p.at_, bs)], miss)
      | none => (s, got, miss ++ [p])

/-- The number of the message that asks another package for a piece. -/
def Piece.number (p : Piece) : Nat := 32 * p.lane + p.at_

/-- The messages that ask other packages for pieces, and how many they are. What the L1 may hold is asked for in whole sectors, which
the core awaits (R268, R298). -/
def State.askRemote (s : State) (i : Iss) (op : Nat) (dom : Dom) (ps : List Piece) : State × Nat :=
  let direct := dom == .sc || i.hint == 3
  ps.foldl (fun acc p =>
    match p.place with
    | .remote pkg part ix gen off _ =>
      let pa := if direct then none else p.place.farPa? p.len
      let s := match pa with
        | some pa => acc.1.modCore i.team.core fun c => { c with farReads := c.farReads ++ [(op, p.number, pa / 256, false)] }
        | none => acc.1
      (s.toPackage i.team.core pkg dom i.terms (.remote i.team.core i.tid i.wid op p.number) (.read part ix gen off p.len pa.isSome), acc.2 + 1)
    | _ => acc) (s, 0)

/-- The second 8-byte parts of 16-byte accesses, which perform apart from the first ones (R279). -/
def Piece.second (p : Piece) : Bool := decide (8 ≤ p.at_)

/-- The requests for what a load lacks: the lines of the first 8-byte parts, then those of the second; each brings what the load
lacks of its line. -/
def State.askLines (s : State) (i : Iss) (op : Nat) (miss : List Piece) : State × Nat :=
  let places := miss.map (·.place)
  let mapped (l : Nat) : Bool := places.any fun p => p.isMapped && p.pa?.any fun a => a.1 / 256 == l
  let want := linesOf ((miss.filter fun p => !p.second).map (·.place)) ++ linesOf ((miss.filter Piece.second).map (·.place))
  (want.foldl (fun s l => s.sendRead i.team.core (.op i.tid i.wid op) i.dom l (keyOfLine places l) (sectorMask places l) i.terms
    (i.hint == 3 && !mapped l)) s, want.length)

/-- A load hit retires at once (R144); it is counted in MEM like any load, and leaves the counter in issue order (R324). -/
def State.loadHit (s : State) (i : Iss) (kind : OpKind) (e : ReuseEntry) : State :=
  let vecs := e.results.map fun n => ((s.core i.team.core).cnf.get? n).elim Vec.zero CnfEntry.vec
  let o := { i.memOp s kind [] with ready := true, pops := [] }
  ((s.writeDst i vecs (i.given (some e))).beginOp i o).modWave i.tid i.wid Wave.leave

/-- What keeps a load that passed its checks from issuing, with the state that its wait leaves: `none` when it may go. A load
that is served at the serialisation point waits for the core's own stores and masked bytes (R280, R296). -/
def Iss.loadWait (i : Iss) (s : State) (as : List LaneAcc) (ps : List Piece) : Option State :=
  let c := s.core i.team.core
  let direct (p : Piece) : Bool := i.dom == .sc || (i.hint == 3 && !p.place.isMapped)
  let now := linesOf ((ps.filter direct).map (·.place))
  let away := linesOf ((ps.filter fun p => !p.place.isMapped || !i.team.mappedReady (match p.place with | .mapped o _ _ => o | _ => 0) p.len).map (·.place))
  if i.accessWait s .load as ps then some s
  else if (c.ownStores i.tid i.wid).any (fun e => ps.any fun p => direct p && e.meets p) then some s
  else if now.any (fun l => s.lineDirty i.team.core i.tid l) then
    some (now.foldl (fun s l => s.cleanLine i.team.core i.tid l false i.terms) s)
  else if (now ++ away).any (fun l => c.lineOut l) then some s
  else if (linesOf (ps.map (·.place))).any fun l => !s.pendingRoom i.tid i.wid l then some s
  else none

/-- A load of LD, LDK or SCLD: checks, waits, lookup, and the requests for what is not at hand. `hint`: how its sectors are
allocated. -/
def Iss.load (i : Iss) (s : State) (kind : OpKind) (width : Nat) (reusable : Bool) (hint : BitVec 2) : Eff :=
  let need : Need := ⟨true, false, false⟩
  let as := i.accesses s (maskLanes i.act) width need false
  match i.verdict s as need with
  | .error e => e
  | .ok ps =>
    let s := s.fillTlbs i as
    let core := i.team.core
    match i.loadWait s as ps with
    | some s' => waiting s'
    | none =>
      let eligible := reusable && i.loadEligible
      let key := { i.reuseKey with isLoad := true, epoch := (s.core core).epoch }
      let r := if eligible then (s.core core).reuseFind key else (s.core core, none)
      let s := s.modCore core fun _ => r.1
      match r.2 with
      | some e => .done (s.loadHit i kind e)
      | none =>
        let op := s.nextOp
        let s := match (if eligible && !i.hazarded then loadSectors as ps else none) with
          | some secs => s.modCore core fun c => c.reuseHold op { key with sectors := secs }
          | none => s
        let fwd := (s.core core).forwarded i.team i.tid i.wid ps
        let (s, got, miss) := ps.foldl (State.loadPiece i.tid i.wid core (i.dom == .sc || i.hint == 3) (i.dom == .sc)) (s, [], [])
        let (s, nr) := s.askRemote i op i.dom miss
        let (s, nl) := s.askLines i op miss
        .done (s.beginMem i { i.memOp s kind ps with got := got, fwd := fwd, regs := i.dstRegs, hint := hint, need := nl + nr })

/-- LD (R307). -/
def execLd (f : Form) (s : State) := issue 0x300 f s fun i =>
  i.load s (.load i.f.mod) (kindBytes i.f.mod.toNat) true i.hint

/-- LDK (R308): as LD; its sectors are allocated as `.hkeep` whatever HINT holds. -/
def execLdk (f : Form) (s : State) := issue 0x301 f s fun i =>
  i.load s (.load i.f.mod) (kindBytes i.f.mod.toNat) true 2

/-- SCLD (R249): a word per lane into the scale window and D. -/
def execScld (f : Form) (s : State) := issue 0x288 f s fun i =>
  i.load s (.scld (i.f.mod.getLsbD 0)) 4 false i.hint

/-! ## Stores (R310) -/

/-- Entries of each domain's store queue (R295). -/
def sqCapacity : Dom → Nat
  | .sc => 16
  | .tso => 32
  | .cau => 32
  | .rc => 64
  | .blk => 64

/-- The digest contributions of a store: one for each lane and aligned part of at most 8 bytes (R413). -/
def storeDigest (i : Iss) (as : List LaneAcc) (k : Nat) (vs : List Vec) : List (List Byte) :=
  as.flatMap fun a =>
    match i.digestAddr a.ea with
    | none => []
    | some d =>
      let bs := storeBytes k vs a.lane
      (List.range ((a.width + 7) / 8)).map fun j =>
        digestMsg (d + BitVec.ofNat 64 (8 * j)) 0 (Nat.min 8 a.width) 0 (BitVec.ofNat 64 (leAt bs (8 * j) 8))

/-- Load reuse of the sectors that a core stores to ends (R145). -/
def State.endReuse (s : State) (core : Nat) (ps : List Place) : State :=
  ps.foldl (fun s p => match p.pa? with
    | some (pa, _) => s.modCore core fun c => c.dropSectorReuse (pa / 64)
    | none => s) s

/-- ST (R310): the bytes enter the domain's store queue; the subset retires. -/
def execSt (f : Form) (s : State) := issue 0x308 f s fun i =>
  let k := i.f.mod.toNat
  let need : Need := ⟨false, true, false⟩
  let as := i.accesses s (maskLanes i.act) (kindBytes k) need false
  match i.verdict s as need with
  | .error e => e
  | .ok ps =>
    let s := s.fillTlbs i as
    let core := i.team.core
    let q := (s.core core).sq.getD (netOf i.dom) []
    if i.accessWait s .store as ps || decide (sqCapacity i.dom ≤ q.length) then waiting s
    else
      match i.releaseWait s with
      | some s' => waiting s'
      | none =>
        let s := s.releaseStash i
        let vs := i.srcB s
        let bytes (ps : List Piece) := ps.map fun p => (p.lane, p.place, ((storeBytes k vs p.lane).drop p.at_).take p.len)
        let e : QStore := ⟨i.tid, i.wid, s.nextOp, i.dom, i.scope, i.order, i.hint == 3, bytes (ps.filter fun p => !p.second),
          bytes (ps.filter Piece.second), false⟩
        let s := (s.endReuse core (ps.map (·.place))).modCore core fun c => { c with sq := c.sq.set (netOf i.dom) (q ++ [e]) }
        let s := (s.popSources i).contribute i.tid (storeDigest i as k vs)
        .done (s.beginMem i (i.memOp s .store ps))

/-- The write requests for some parts: one for each line of this package's memory, later lanes over earlier ones. -/
def storeLines (parts : List (Nat × Place × List Byte)) : List (Nat × Nat × BitVec 256 × BitVec 2048) :=
  (linesOf (parts.map (·.2.1))).map fun l =>
    let img := parts.foldl (fun img p => match p.2.1.pa? with
      | some (pa, _) => if pa / 256 = l then linePut img (pa % 256) p.2.2 else img
      | none => img) ((0 : BitVec 256), (0 : BitVec 2048))
    (l, keyOfLine (parts.map (·.2.1)) l, img.1, img.2)

/-- The lines of other packages' exports that some parts touch, with their images: package and message. -/
def storeRemote (parts : List (Nat × Place × List Byte)) : List (Nat × LinkBody) :=
  let targets := (parts.filterMap fun p => match p.2.1 with
    | .remote pkg part ix gen off _ => some (pkg, part, ix, gen, off / 256)
    | _ => none).eraseDups
  targets.map fun (pkg, part, ix, gen, line) =>
    let img := parts.foldl (fun img p => match p.2.1 with
      | .remote pkg' part' ix' gen' off _ =>
        if pkg' = pkg ∧ part' = part ∧ ix' = ix ∧ gen' = gen ∧ off / 256 = line then linePut img (off % 256) p.2.2 else img
      | _ => img) ((0 : BitVec 256), (0 : BitVec 2048))
    (pkg, .write part ix gen line img.1 img.2)

/-- Whether a copy command issued before an operation still has destination bytes to write in its domain (R330). -/
def Wave.copyBefore (w : Wave) (cs : List Cmd) (op : Nat) (lanes : Mask) (d : Dom) : Bool :=
  w.ops.any fun o => decide (o.id < op) && !o.ready && (o.lanes &&& lanes != 0) &&
    (match o.kind with | .copy _ dd => dd == d && cmdWrites cs o.id | _ => false)

/-- Whether the predecessors of a queued store are where its domain needs them (R295, R296). -/
def State.mayRelease (s : State) (core : Nat) (q : List QStore) (e : QStore) : Bool :=
  let c := s.core core
  let cs := s.cmdsOf e.team
  let older := (c.ownStores e.team e.wave).filter fun o => decide (o.op < e.op)
  !e.sent && !(older.any fun o => e.parts.any fun x => o.meets ⟨x.1, 0, x.2.2.length, x.2.1, 0⟩) &&
    (match s.wave? e.team e.wave with
     | none => true
     | some w =>
       let mine := (w.ops.find? (·.id == e.op)).elim 0 Op.lanes
       let inTurn := !(q.any (·.sent)) && q.head?.any (·.op == e.op) && !w.copyBefore cs e.op mine e.dom
       match e.dom with
       | .sc => !w.copyBefore cs e.op mine .sc &&
           !(w.ops.any fun o => decide (o.id < e.op) && o.dom == .sc && !o.ready && o.kind.isMem && (o.lanes &&& mine != 0))
       | .tso => inTurn
       | .cau => inTurn && w.pendingLines.isEmpty
       | _ => true)

/-- One queue entry changed. -/
def State.modStore (s : State) (core : Nat) (e : QStore) (f : QStore → QStore) : State :=
  s.modCore core fun c => { c with sq := c.sq.set (netOf e.dom) ((c.sq.getD (netOf e.dom) []).map fun x => if x.op = e.op then f x else x) }

/-- The bytes that an entry released are where they belong: the second 8-byte parts of its accesses are to follow (R279), or the
entry leaves and its operation is complete. -/
def State.storeDone (s : State) (core : Nat) (e : QStore) : State :=
  if e.rest.isEmpty then
    (s.modCore core fun c =>
      { c with sq := c.sq.set (netOf e.dom) ((c.sq.getD (netOf e.dom) []).filter fun x => x.op != e.op) }).modWave e.team e.wave
        fun w => (w.modOp e.op fun o => { o with ready := true }).leave
  else s.modStore core e fun x => { x with parts := x.rest, rest := [], sent := false }

/-- Whether a store's bytes at a place stay on the core: the stash, and for RC and BLK mapped ranges and, without `.hnol1`, the
L1. -/
def QStore.local_ (e : QStore) (p : Place) : Bool :=
  match p with
  | .stash _ => true
  | .mapped _ _ _ => e.dom == .rc || e.dom == .blk
  | .remote _ _ _ _ _ _ => false
  | _ => (e.dom == .rc || e.dom == .blk) && !e.hnol1

/-- A piece of a store that stays on the core; `none` when the L1 has no room for its line. -/
def State.storeHere (s : State) (core : Nat) (e : QStore) (p : Nat × Place × List Byte) : Option State :=
  match p.2.1 with
  | .stash o => some (s.modTeam e.team fun t => t.stashWrite o p.2.2)
  | .mapped o pa key => some (s.writeMapped e.team o pa key (e.dom == .blk) p.2.2)
  | pl =>
    match pl.pa? with
    | none => some s
    | some (pa, key) =>
      ((s.core core).l1Room (pa / 256)).map fun c =>
        s.modCore core fun _ => c.l1Write pa key (e.dom == .blk) pl.isPriv (if pl.visible then some e.team else none) p.2.2

/-- A line of an L1 full of masked bytes is written back to make room (R268). -/
def State.makeL1Room (s : State) (core : Nat) (tm : Terms) : State :=
  match (s.core core).l1.find? fun l => l.2.masked with
  | some l => s.writeBackLine core l.1 [.rc, .blk] tm
  | none => s

/-- The bytes of an entry that leave the core: requests to home slices and messages to other packages, whose number the
operation waits for. The first-visible-commit bit is set (R89). -/
def State.sendStore (s : State) (core : Nat) (e : QStore) (out : List (Nat × Place × List Byte)) (tm : Terms) : State × Nat :=
  let s := (linesOf (out.map (·.2.1)) ++ (out.flatMap fun p => p.2.1.farLines).eraseDups).foldl (fun s l => s.applyInval core l tm) s
  let s := (storeLines out).foldl (fun s x =>
    (s.sendReq core (.op e.team e.wave e.op) e.dom x.1 x.2.1 (.write x.2.2.1 x.2.2.2) tm e.hnol1).1) s
  let rem := storeRemote out
  let s := (List.zip (List.range rem.length) rem).foldl (fun s x =>
    s.toPackage core x.2.1 e.dom tm (.remote core e.team e.wave e.op x.1) x.2.2) s
  let seen := out.any fun p => p.2.1.visible || p.2.1.isMapped
  (if seen then s.modTeam e.team fun t => { t with fvc := true } else s, (storeLines out).length + rem.length)

/-- A store leaves its queue (R295): RC and BLK bytes into the L1 or the stash, once no write-back of another domain is under way for their
lines, which could overtake theirs (R280); SC, TSO, CAU and `.hnol1` bytes to their home
slices once the core's masked bytes of the lines are there; peer bytes of another package to that package. -/
def State.releaseStore (s : State) (core : Nat) (e : QStore) : State :=
  let tm := s.termsOf e.team e.wave
  let out := e.parts.filter fun p => !e.local_ p.2.1
  let lines := linesOf (out.map (·.2.1))
  let here := linesOf ((e.parts.filter fun p => e.local_ p.2.1).map (·.2.1))
  if lines.any fun l => s.lineDirty core e.team l then
    lines.foldl (fun s l => s.cleanLine core e.team l true tm) s
  else if lines.any fun l => (s.core core).lineOut l then s
  else if (s.core core).wbOut.any fun w => here.contains w.line && w.dom != e.dom then s
  else
    match (e.parts.filter fun p => e.local_ p.2.1).foldl (fun (a : Option State) p => a.bind fun s => s.storeHere core e p) (some s) with
    | none => s.makeL1Room core tm
    | some s =>
      let s := if releases e.order && decide (2 ≤ e.scope.ctorIdx) && (e.dom == .rc || e.dom == .blk) then
          here.foldl (fun s l => s.writeBackLine core l [e.dom] tm) s
        else s
      let (s, n) := s.sendStore core e out tm
      if n = 0 then s.storeDone core e
      else (s.modStore core e fun x => { x with sent := true }).modOp e.team e.wave e.op fun o => { o with need := n }

/-- STORE_QUEUE_RELEASE (R295): the first store of the queue whose predecessors allow it. -/
def execStoreQueueRelease (core : Nat) (dom : Dom) (s : State) : Host.Outcome State Fault Refusal :=
  let q := (s.core core).sq.getD (netOf dom) []
  match q.find? fun e => s.mayRelease core q e with
  | some e => .next (s.releaseStore core e)
  | none => .next s

/-! ## Atomics and reductions (R311-R314) -/

/-- Operand and swap value of a lane (R311). -/
def atomOperand (mod : Nat) (vs : List Vec) (l : Nat) : W64 × W64 :=
  match mod with
  | 18 => ((lane32 vs l).setWidth 64, ((vec1 vs 1).val l).setWidth 64)
  | 19 => (lane64 vs l, lane64 (vs.drop 2) l)
  | _ => (if atomBytes mod = 8 then lane64 vs l else (lane32 vs l).setWidth 64, 0)

/-- The digest contribution of a lane's atomic (R413): the operand, or the swap value. -/
def atomDigest (i : Iss) (mod ea : Nat) (b : W64 × W64) : List (List Byte) :=
  match i.digestAddr ea with
  | none => []
  | some d => [digestMsg d 1 (atomBytes mod) mod (if mod = 18 ∨ mod = 19 then b.2 else b.1)]

/-- The lanes of an atomic at one line, as its request carries them. -/
def atomLanes (mod : BitVec 5) (vs : List Vec) (ps : List Piece) (off : Place → Nat) : List AtomLane :=
  ps.map fun p =>
    let b := atomOperand mod.toNat vs p.lane
    ⟨p.lane, off p.place % 256, mod, b.1, b.2⟩

/-- The requests that an atomic's pieces form (R312): one for each line, in the order of the addresses used (R402). -/
def Iss.atomRequests (i : Iss) (s : State) (op : Nat) (vs : List Vec) (ps : List Piece) (isRed : Bool) : List AtomReq :=
  let places := ps.map (·.place)
  let base (l : Nat) (part : Nat) (peer : Bool) : Nat × AtomReq :=
    (i.ea s l / 256, ⟨i.tid, i.wid, op, part, 0, i.ea s l / 256 % 2 ^ 48, peer, i.wave.slot, i.f.mod, if isRed then 1 else 0, none, none⟩)
  let home := (linesOf places).map fun l =>
    let mine := ps.filter fun p => match p.place.pa? with | some (pa, _) => pa / 256 == l | none => false
    let r : Req := ⟨0, i.team.core, coreSource i.team.core, .op i.tid i.wid op, i.dom, l, keyOfLine places l,
      .atom (atomLanes i.f.mod vs mine fun p => (p.pa?.elim 0 (·.1))) isRed, i.terms.deadline, i.terms.prio, i.terms.queue,
      i.terms.part, i.hint == 3, false, i.terms.own⟩
    let b := base (mine.head?.elim 0 Piece.lane) 0 (mine.any (·.place.isPeer))
    (b.1, { b.2 with home := some r })
  let targets := (ps.filterMap fun p => match p.place with
    | .remote pkg part ix gen off _ => some (pkg, part, ix, gen, off / 256)
    | _ => none).eraseDups
  let remote := (List.zip (List.range targets.length) targets).map fun (n, (pkg, part, ix, gen, line)) =>
    let mine := ps.filter fun p => match p.place with
      | .remote a b c d off _ => a == pkg && b == part && c == ix && d == gen && off / 256 == line
      | _ => false
    let b := base (mine.head?.elim 0 Piece.lane) n true
    (b.1, { b.2 with link := some (pkg, .atom part ix gen line (atomLanes i.f.mod vs mine fun p => p.span.2) isRed) })
  (sortBy (fun a b : Nat × AtomReq => decide (a.1 ≤ b.1)) (home ++ remote)).map (·.2)

/-- What keeps an atomic, a reduction or a ring operation from issuing, with the state that its wait leaves: `none` when it
may go (R312, R313, R402). -/
def Iss.atomicWait (i : Iss) (s : State) (as : List LaneAcc) (ps : List Piece) : Option State :=
  let c := s.core i.team.core
  let places := ps.map (·.place)
  let lines := linesOf places
  if i.accessWait s .atomic as ps || (places.any (fun p => !p.isStash) && !c.atomRoom) ||
      (i.dom == .cau && !i.wave.pendingLines.isEmpty) then some s
  else if lines.any fun l => s.lineDirty i.team.core i.tid l then
    some (lines.foldl (fun s l => s.cleanLine i.team.core i.tid l true i.terms) s)
  else if lines.any fun l => c.lineOut l then some s
  else i.releaseWait s

/-- Mapped sectors that an atomic addresses, of which nothing is masked any more, are left unfilled (R271), load reuse of its sectors ends,
and the first-visible-commit bit is set (R89). -/
def State.beforeAtomic (s : State) (i : Iss) (ps : List Piece) : State :=
  let s := ps.foldl (fun s p => match p.place with | .mapped o _ _ => s.cleanStash i.tid (o / 64) true i.terms | _ => s) (s.releaseStash i)
  let s := s.endReuse i.team.core (ps.map (·.place))
  if ps.any fun p => p.place.visible || p.place.isMapped then
    s.modTeam i.tid fun t => { t with fvc := true } else s

/-- The lanes of an atomic at unmapped stash offsets, performed by the core's stash in ascending lane order (R306). -/
def State.stashAtomics (s : State) (i : Iss) (vs : List Vec) (ps : List Piece) : State × List (Nat × Nat × List Byte) :=
  let mod := i.f.mod.toNat
  let w := atomBytes mod
  ps.foldl (fun acc p => match p.place with
    | .stash o =>
      let old := (acc.1.teams.get? i.tid).elim 0 fun t => t.stashNat o w
      let b := atomOperand mod vs p.lane
      (acc.1.modTeam i.tid fun t => t.stashWrite o (toLe w (atomNew mod old b.1.toNat b.2.toNat)),
        acc.2 ++ [(p.lane, 0, toLe w old)])
    | _ => acc) (s, [])

/-- ATOM and RED. -/
def Iss.atomic (i : Iss) (s : State) (isRed : Bool) : Eff :=
  let mod := i.f.mod.toNat
  let vs := i.srcB s
  match (atomSrcTags mod).bind fun ts => i.checkTag 3 i.act vs ts with
  | some t => .trap t
  | none =>
    let need : Need := ⟨!isRed, true, false⟩
    let as := i.accesses s (maskLanes i.act) (atomBytes mod) need true
    match i.verdict s as need with
    | .error e => e
    | .ok ps =>
      let s := s.fillTlbs i as
      match i.atomicWait s as ps with
      | some s' => waiting s'
      | none =>
        let s := s.beforeAtomic i ps
        let (s, got) := s.stashAtomics i vs ps
        let reqs := i.atomRequests s s.nextOp vs (ps.filter fun p => !p.place.isStash) isRed
        let dig := as.flatMap fun a => atomDigest i mod a.ea (atomOperand mod vs a.lane)
        let o := { i.memOp s (if isRed then .red else .atom i.f.mod) ps with
          need := reqs.length, got := got, regs := i.dstRegs, digest := if isRed then [] else dig }
        let s := s.popSources i
        let s := if isRed then s.contribute i.tid dig else s
        let s := s.beginMem i o
        .done ((s.modCore i.team.core fun c => { c with atomsUnsent := c.atomsUnsent ++ reqs }).sendAtoms i.team.core 64)

/-- ATOM (R312). -/
def execAtom (f : Form) (s : State) := issue 0x310 f s fun i => i.atomic s false

/-- RED (R314). -/
def execRed (f : Form) (s : State) := issue 0x311 f s fun i => i.atomic s true

/-! ## The amax ring (R208, R230, R231) -/

/-- The address of the ring: that of the lowest active lane, checked in the order of R230. -/
def Iss.ringAccess (i : Iss) (s : State) : Except Eff (List LaneAcc × List Piece) :=
  let m := lowest i.act
  let ea := i.ea s m
  let one : Mask := 1#32 <<< m
  if ea % 128 ≠ 0 then .error (.trap ⟨.align, 2, 8, 0, one, BitVec.ofNat 64 ea, 0⟩)
  else if apertureOf ea = .priv then .error (.trap ⟨.illegal, 2, 8, 7, one, 0, BitVec.ofNat 64 (11 + 256 * 0xFC)⟩)
  else
    let need : Need := ⟨true, true, false⟩
    let as := i.accesses s [m] 128 need true
    match i.verdict s as need with
    | .error e => .error e
    | .ok ps => .ok (as, ps)

/-- The request of a ring operation: to the home slice, or to another package. -/
def Iss.ringRequest (i : Iss) (op : Nat) (ea : Nat) (pl : Place) (home : Nat → ReqKind) (link : Nat → Nat → Nat → Nat → LinkBody) :
    List AtomReq :=
  let base : AtomReq :=
    ⟨i.tid, i.wid, op, 0, 0, ea / 256 % 2 ^ 48, pl.isPeer, i.wave.slot, i.f.mod, if i.opc = 0x1D0 then 2 else 3, none, none⟩
  match pl with
  | .remote pkg part ix gen off _ => [{ base with link := some (pkg, link part ix gen off) }]
  | pl =>
    match pl.pa? with
    | some (pa, key) =>
      [{ base with home := some ⟨0, i.team.core, coreSource i.team.core, .op i.tid i.wid op, i.dom, pa / 256, key, home (pa % 256),
          i.terms.deadline, i.terms.prio, i.terms.queue, i.terms.part, false, false, i.terms.own⟩ }]
    | none => []

/-- A ring operation: `stash` is its effect on the 128 bytes of an unmapped ring, with the value and NV it returns. -/
def Iss.ringOp (i : Iss) (s : State) (home : Nat → ReqKind) (link : Nat → Nat → Nat → Nat → LinkBody)
    (atStash : List Byte → Nat × Bool × List Byte) (dig : Option (Nat × W64)) : Eff :=
  match i.ringAccess s with
  | .error e => e
  | .ok (as, ps) =>
    let s := s.fillTlbs i as
    let ea := i.ea s (lowest i.act)
    let all := (maskLanes i.act).flatMap fun l => ps.map fun p => { p with lane := l }
    match i.atomicWait s as all with
    | some s' => waiting s'
    | none =>
      let s := s.beforeAtomic i ps
      let pl := (ps.head?.elim (.stash 0) Piece.place)
      let (s, got) := match pl with
        | .stash o =>
          let r := atStash ((s.teams.get? i.tid).elim [] fun t => t.stashRead o 128)
          ((s.modTeam i.tid fun t => t.stashWrite o r.2.2).stashTouched i.tid o 128, [(0, 0, toLe 4 r.1 ++ [if r.2.1 then 1 else 0])])
        | _ => (s, [])
      let reqs := i.ringRequest s.nextOp ea pl home link
      let o := { i.memOp s (.ring (i.opc == 0x1D1)) all with
        need := reqs.length, got := got, regs := i.dstRegs,
        digest := match dig, i.digestAddr ea with
          | some (op, v), some d => [digestMsg d 1 4 op v]
          | _, _ => [] }
      let s := (s.popSources i).beginMem i o
      .done ((s.modCore i.team.core fun c => { c with atomsUnsent := c.atomsUnsent ++ reqs }).sendAtoms i.team.core 64)

/-- AMAXR (R230): the largest magnitude of the active lanes folded into the ring. -/
def execAmaxr (f : Form) (s : State) := issue 0x1D0 f s fun i =>
  let vs := i.srcB s
  let kind := i.f.mod.toNat - 9
  match i.checkTag 3 i.act vs [kind + 1] with
  | some t => .trap t
  | none =>
    let m := (maskLanes i.act).foldl (fun acc l => Nat.max acc (amaxLane kind (lane32 vs l))) 0
    i.ringOp s (fun o => .amax o (BitVec.ofNat 32 m)) (fun p x g o => .amax p x g o (BitVec.ofNat 32 m))
      (fun r => (m, false, amaxFold r m)) (some (0x80, BitVec.ofNat 64 m))

/-- QSCALE (R231). -/
def execQscale (f : Form) (s : State) := issue 0x1D1 f s fun i =>
  i.ringOp s (fun o => .qscale o i.f.mod) (fun p x g o => .qscale p x g o i.f.mod)
    (fun r => qscaleRing r i.f.mod.toNat) (if i.f.mod.getLsbD 3 then some (0x81, 0) else none)

/-! ## Fences and bridges (R316, R317) -/

/-- A fence begins: its threads issue nothing until it completes. -/
def Iss.fence (i : Iss) (s : State) (target : Option Dom) : Eff :=
  let o := { i.resultOp s [] with kind := .fence i.dom target i.scope (acquires i.order), dom := i.dom, scope := i.scope, order := i.order }
  .done (((s.release i s.nextOp [i.dom] i.scope).getD s).beginOp i o)

/-- FENCE (R316). -/
def execFence (f : Form) (s : State) := issue 0x318 f s fun i => i.fence s none

/-- The domain with a code 0-4. -/
def domCode (n : Nat) : Dom :=
  match n with
  | 0 => .rc
  | 1 => .sc
  | 2 => .tso
  | 3 => .cau
  | _ => .blk

/-- BRIDGE (R317); from a domain to itself it is a plain FENCE (R292). -/
def execBridge (f : Form) (s : State) := issue 0x319 f s fun i =>
  let target := domCode i.f.mod.toNat
  i.fence s (if target = i.dom then none else some target)

/-- The filters whose held invalidations a fence applies (R296, R316, R317). -/
def fenceFilters (from_ : Dom) (target : Option Dom) (scope : Scope) (acquire : Bool) : List Dom :=
  match target with
  | some d => [d]
  | none => if acquire || decide (2 ≤ scope.ctorIdx) then [from_] else []

/-- FENCE_COMPLETE (R316): when everything the fence waits for has happened it completes; else the write-backs it still needs
begin. One that names BLK writes back every BLK-masked sector of the core, whatever its scope (R295, R317). -/
def execFenceComplete (team wave op : Nat) (s : State) : Host.Outcome State Fault Refusal :=
  match s.op? team wave op with
  | some o =>
    match o.kind, s.opIss team wave o with
    | .fence d target scope acq, some i =>
      match s.release i o.id [d] scope with
      | some s' => .next s'
      | none =>
        let s := if d == .blk || target == some .blk then s.writeBackAll i.team.core .blk i.terms else s
        let s := (fenceFilters d target scope acq).foldl (fun s d => s.applyHeld i.team.core d) s
        .next ((s.modCore i.team.core Core.advanceEpoch).finishOp team wave o)
    | _, _ => .next s
  | none => .next s

end Sys2Proof.Machine
end

