-- ==== Sys2Proof/Machine/Packet.lean ====
section
/-! DEFINITION. The launch packet (R68), and how a leader hands a child grid to the queue engine (R166-R168). -/

namespace Sys2Proof.Machine

/-- The fields of the 128 bytes of a packet. -/
def parsePacket (b : List Byte) : Packet where
  kind := leAt b 0 1
  affinity := leAt b 1 1
  lflags := leAt b 2 2
  codeobj := BitVec.ofNat 64 (leAt b 8 8)
  gx := leAt b 0x10 4
  gy := leAt b 0x14 2
  gz := leAt b 0x16 2
  dx := leAt b 0x18 2
  dy := leAt b 0x1A 2
  dz := leAt b 0x1C 2
  args := BitVec.ofNat 64 (leAt b 0x20 8)
  afftab := BitVec.ofNat 64 (leAt b 0x28 8)
  dep0 := BitVec.ofNat 64 (leAt b 0x30 8)
  dep1 := BitVec.ofNat 64 (leAt b 0x38 8)
  compl := BitVec.ofNat 64 (leAt b 0x40 8)
  privpool := BitVec.ofNat 64 (leAt b 0x48 8)
  privpages := leAt b 0x50 4
  tag := BitVec.ofNat 64 (leAt b 0x58 8)

/-- The reserved bytes of a packet are zero. -/
def packetReserved (b : List Byte) : Bool := leAt b 4 4 == 0 && leAt b 0x1E 2 == 0 && leAt b 0x54 4 == 0 && leAt b 0x60 32 == 0

/-- The operand checks of GLAUNCH (R167). -/
def childPacketOk (b : List Byte) : Bool :=
  let p := parsePacket b
  p.kind == 1 && decide (p.affinity ≤ 2) && packetReserved b && decide (p.lflags < 2) && p.dep0 == 0 && p.dep1 == 0 && p.compl == 0 &&
    p.gx != 0 && p.gy != 0 && p.gz != 0 && p.privpool.toNat % 65536 == 0

/-- The child slot that a GLAUNCH takes (R168): the lowest free one, else the lowest whose child has retired. -/
def Team.childSlot (tm : Team) : Nat :=
  let st (k : Nat) : ChildState := (tm.kids.getD k ⟨0, .free⟩).st
  match (List.range 16).find? fun k => st k == .free with
  | some k => k
  | none => ((List.range 16).find? fun k => match st k with | .retired _ => true | _ => false).getD 0

/-- The next generation of a slot: modulo 4096, skipping 0. -/
def nextGen (g : BitVec 12) : BitVec 12 := if g + 1 = 0 then 1 else g + 1

/-- The result word of R168. -/
def joinWord (status code : Nat) (gen : BitVec 12) (slot : Nat) : W32 :=
  BitVec.ofNat 32 (status * 2 ^ 30 + code * 2 ^ 16 + gen.toNat * 16 + slot)

/-- The GLAUNCHes of a team whose packets are still on their way (R166). -/
def Team.owedKids (tm : Team) : Nat := (tm.waves.flatMap fun w => w.2.ops.filter fun o => o.kind == .glaunch && !o.ready).length

/-- How many child grids a team has live or is about to have (R53). -/
def Team.liveKids (tm : Team) : Nat :=
  (tm.kids.filter fun k => match k.st with | .live _ => true | _ => false).length + tm.owedKids

/-- The child launch of a team (R77): its root's terms, the next depth, `fail` for a packet that breaks R167. -/
def childLaunch (l : Launch) (t slot : Nat) (bs : List Byte) : Launch :=
  { l with
    parent := some (t, slot)
    packet := parsePacket bs
    header := ⟨0, 0, 0, 0, 0, 0, 0, 0, 0, [], []⟩
    affinity := []
    depth := l.depth + 1
    st := .handed
    fail := if childPacketOk bs then 0 else 0x18
    detail := 0
    startTsc := 0
    nextTeam := 0
    retired := 0
    ready := []
    reexec := false
    folded := 0
    gdigest := 0
    gcount := 0
    early := []
    refdig := 0
    obsdig := 0
    dtab := 0
    late := false
    waitSince := none
    drain := none }

/-- The bytes of a packet handed to the queue engine (R166, R168): the state, and the result word STARTED. -/
def State.handOver (s : State) (t : Nat) (bs : List Byte) : State × W32 :=
  match s.teams.get? t with
  | none => (s, 0)
  | some tm =>
    match s.launches.get? tm.launch with
    | none => (s, 0)
    | some l =>
      let k := tm.childSlot
      let g := nextGen (tm.kids.getD k ⟨0, .free⟩).gen
      let lid := s.nextUid
      let s := { s with nextUid := lid + 1, launches := s.launches.set lid (childLaunch l t k bs) }
      (s.modTeam t fun tm => { tm with kids := modAt tm.kids k fun _ => ⟨g, .live lid⟩, fvc := true }, joinWord 0 0 g k)

end Sys2Proof.Machine
end

