-- ==== Sys2Proof/Machine/Reply.lean ====
section
/-! DEFINITION. Answers that reach a core, and the completion of memory operations (R230, R231, R249, R307-R315, R402). -/

namespace Sys2Proof.Machine

/-- Who a message of a core's inbox answers. -/
def Msg.asker? : Msg → Option Asker
  | .readReply r _ _ => some r.asker
  | .atomReply r _ => some r.asker
  | .scaleReply r _ _ => some r.asker
  | .barReply r _ _ => some r.asker
  | .ack r => some r.asker
  | .discard r => some r.asker
  | .denied r => some r.asker
  | .linkReply a _ => some a
  | _ => none

/-- Whether a message answers an operation. -/
def Msg.isFor (m : Msg) (t w op : Nat) : Bool :=
  match m.asker? with
  | some (.op a b c) => a == t && b == w && c == op
  | some (.remote _ a b c _) => a == t && b == w && c == op
  | _ => false

/-- Whether a reply can be taken in: one of a pending line waits while the wave keeps 16 others (R296). -/
def State.canTake (s : State) (t w : Nat) : Msg → Bool
  | .readReply r _ true => s.pendingRoom t w r.line
  | _ => true

/-- The first message for an operation, at any core, taken out of its inbox. -/
def State.takeReply (s : State) (t w op : Nat) : Option (Msg × Nat × State) :=
  s.cores.findSome? fun c =>
    match takeFirst (fun m : Msg => m.isFor t w op && s.canTake t w m) c.2.inbox with
    | some (m, rest) => some (m, c.1, s.modCore c.1 fun x => { x with inbox := rest })
    | none => none

/-- One answer fewer to wait for. -/
def Op.answered (o : Op) : Op := { o with need := o.need - 1 }

/-- The pieces of an operation that a reply with sectors of a line brings: of what it still lacks there, the first 8-byte parts of its
accesses, and only when it has those the second ones, which a request of their own brings (R279). -/
def gotFromSectors (o : Op) (line : Nat) (secs : AMap Sector) : List (Nat × Nat × List Byte) :=
  let lack := o.pieces.filter fun p =>
    (p.place.pa?.any fun a => a.1 / 256 == line) && !(o.got.any fun g => g.1 == p.lane && g.2.1 == p.at_)
  let mine := if lack.any fun p => !p.second then lack.filter fun p => !p.second else lack
  mine.filterMap fun p => p.place.pa?.bind fun a =>
    (secs.get? (a.1 / 64 % 4)).map fun x => (p.lane, p.at_, (List.range p.len).map fun k => Sector.byte x (a.1 % 64 + k))

/-- The piece of a load that a message asked another package for. -/
def Op.remotePiece (o : Op) (n : Nat) : Option Piece :=
  o.pieces.find? fun p => (match p.place with | .remote _ _ _ _ _ _ => true | _ => false) && p.number == n

/-- What another package answers with, in the L1 (R268): sectors that no invalidation has overtaken. An access that was performed at
the exporter itself, or that changed its bytes, ends the core's copies of its lines. -/
def State.farAnswered (s : State) (t w core : Nat) (o : Op) (n : Nat) (b : LinkBody) : State :=
  let waited := (s.core core).farReads.find? fun e => e.1 == o.id && e.2.1 == n
  let s := s.modCore core fun c => { c with farReads := c.farReads.filter fun e => !(e.1 == o.id && e.2.1 == n) }
  match b, waited with
  | .data _ secs, some (_, _, line, overtaken) =>
    if overtaken then s else s.modCore core fun c => secs.foldl (fun c e => c.l1Fill (4 * line + e.1) 0 o.hint e.2) c
  | _, _ => ((o.pieces.flatMap fun p => p.place.farLines).eraseDups).foldl (fun s l => s.applyInval core l (s.termsOf t w)) s

/-- A refusal of the exporter: a permission violation in the importing partition (R277), at the address that a piece of the operation
used (R401). -/
def State.refuse (s : State) (t w : Nat) (o : Op) (p : Piece → Bool) : State :=
  match s.opIss t w o with
  | none => s
  | some i =>
    (s.raise i.launch.part .permission (coreSource i.team.core) ((o.pieces.find? p).elim 0 Piece.va) o.pc i.launch.ctx i.launch.ident).modWave t w
      fun wv => { wv with never := wv.never ||| o.lanes }

/-- An answer is taken in: bytes, old values, a scale, a phase or an acknowledgement (R307, R312, R230, R315). -/
def State.takeIn (s : State) (t w core : Nat) (o : Op) (m : Msg) : State :=
  let terms := s.termsOf t w
  match m with
  | .readReply r secs pending =>
    let bad := (s.core core).readsOut.any fun e => e.1 == r.id && e.2.2
    let s := s.modCore core fun c => { c with readsOut := c.readsOut.filter fun e => e.1 != r.id }
    let on (p : Piece) : Bool := p.place.pa?.any fun a => a.1 / 256 == r.line
    let s := if r.dom == .sc || r.hnol1 then s.applyInval core r.line terms
      else if bad then s
      else
        let s := if o.pieces.any fun p => on p && p.place.isMapped then s.fillMapped t r.line secs else s
        if o.hint != 3 && o.pieces.any fun p => on p && !p.place.isMapped then
          s.modCore core fun c => secs.foldl (fun c e => c.l1Fill (4 * r.line + e.1) r.key o.hint e.2) c
        else s
    let s := if pending then s.notePending t w r.line else s
    s.modOp t w o.id fun o => { o.answered with got := o.got ++ gotFromSectors o r.line secs }
  | .atomReply r olds =>
    ((s.applyInval core r.line terms).atomAnswered core fun a => a.req == r.id).modOp t w o.id fun o =>
      { o.answered with got := o.got ++ olds.map fun e => (e.1, 0, toLe 8 e.2.toNat) }
  | .scaleReply r v nv =>
    ((s.applyInval core r.line terms).atomAnswered core fun a => a.req == r.id).modOp t w o.id fun o =>
      { o.answered with got := [(0, 0, toLe 4 v.toNat ++ [if nv then 1 else 0])] }
  | .barReply r v _ => (s.applyInval core r.line terms).modOp t w o.id fun o => { o.answered with got := o.got ++ [(0, 0, toLe 4 v.toNat)] }
  | .ack r =>
    let s := if o.kind == .red || r.hnol1 then s.applyInval core r.line terms else s
    (s.atomAnswered core fun a => a.req == r.id).modOp t w o.id Op.answered
  | .denied r => (s.atomAnswered core fun a => a.req == r.id).refuse t w o fun p => p.place.pa?.any fun a => a.1 / 256 == r.line
  | .linkReply a b =>
    let n := match a with | .remote _ _ _ _ n => n | _ => 0
    let s := s.atomAnswered core fun x => x.team == t && x.wave == w && x.op == o.id && x.link.isSome && x.part == n
    let s := s.farAnswered t w core o n b.body
    (match b.body with
     | .data bs _ =>
       s.modOp t w o.id fun o =>
         match o.remotePiece n with
         | some p => { o.answered with got := o.got ++ [(p.lane, p.at_, bs.take p.len)] }
         | none => o.answered
     | .olds vs => s.modOp t w o.id fun o => { o.answered with got := o.got ++ vs.map fun e => (e.1, 0, toLe 8 e.2.toNat) }
     | .scale v nv => s.modOp t w o.id fun o => { o.answered with got := [(0, 0, toLe 4 v.toNat ++ [if nv then 1 else 0])] }
     | .denied => s.refuse t w o fun p => (match p.place with | .remote _ _ _ _ _ _ => true | _ => false) &&
         (!o.kind.isLoad || p.number == n)
     | _ => s.modOp t w o.id Op.answered)
  | _ => s

/-- The bytes of a lane's access: those of the thread's own queued stores over those that arrived. -/
def Op.laneBytes (o : Op) (l n : Nat) : List Byte :=
  (List.range n).map fun k =>
    match o.fwd.find? fun f => f.1 == l && f.2.1 == k with
    | some f => f.2.2
    | none =>
      (o.got.findSome? fun g =>
        if g.1 = l ∧ g.2.1 ≤ k then g.2.2[k - g.2.1]? else none).getD 0

/-- Whether the core's coherent copy still holds what a load read, with no store of the core to its sectors on the way and none kept in
another mapped sector of the core's teams, so that its entry may be inserted (R145, R147). -/
def State.stillHolds (s : State) (t core : Nat) (o : Op) : Bool :=
  let c := s.core core
  let queued (sec : Nat) : Bool := c.sq.any fun q => q.2.any fun e => e.all.any fun x =>
    x.2.1.pa?.any fun a => decide (a.1 / 64 ≤ sec ∧ sec ≤ (a.1 + x.2.2.length - 1) / 64)
  o.fwd.isEmpty && o.pieces.all fun p =>
    let bs := (o.laneBytes p.lane (p.at_ + p.len)).drop p.at_
    !(p.place.pa?.any fun a => queued (a.1 / 64) || (s.mapHolders (a.1 / 64)).any fun h =>
      h.2.2.mask != 0 && (h.1 != t || !p.place.isMapped) && (s.teams.get? h.1).any fun tm => tm.core == core) &&
    (match p.place with
     | .mapped off _ _ => (match s.teams.get? t with
       | some tm => tm.mappedReady off p.len && tm.stashRead off p.len == bs
       | none => false)
     | pl => match pl.pa? with
       | some (pa, _) => c.l1Read pa p.len pl.isPriv == some bs
       | none => false)

/-- The window bytes that an SCLD writes (R249). -/
def scldWindow (win : BitVec 2048) (hi : Bool) (lanes : Mask) (val : Nat → List Byte) : BitVec 2048 :=
  (maskLanes lanes).foldl (fun win l =>
    (linePut (0, win) ((if hi then 128 else 0) + 4 * l) (val l)).2) win

/-- What a complete operation writes: its vectors, flags and the scale window. -/
def Op.withResults (o : Op) : Op :=
  match o.kind with
  | .load k => { o with vals := loadVecs k.toNat fun l => o.laneBytes l (kindBytes k.toNat) }
  | .scld _ => { o with vals := loadVecs 0 fun l => o.laneBytes l 4 }
  | .atom mod =>
    let w := atomBytes mod.toNat
    { o with vals := (List.zip (List.range 2) (atomDstTags mod.toNat)).map fun (j, t) =>
        Vec.of fun l => ⟨BitVec.ofNat 32 (leAt (o.laneBytes l w) (4 * j) 4), BitVec.ofNat 4 t⟩ }
  | .ring q =>
    let b := o.laneBytes 0 5
    { o with
      vals := [Vec.splat ⟨BitVec.ofNat 32 (leAt b 0 4), 1⟩]
      flags := if q && leAt b 4 1 == 1 then (maskLanes o.lanes).map fun l => (l, fNV) else [] }
  | .barrier reply => if reply then { o with vals := [Vec.splat ⟨BitVec.ofNat 32 (leAt (o.laneBytes 0 4) 0 4), 0⟩] } else o
  | _ => o

/-- The pops of an operation's retirement, its results and counters, the acquire (R146, R296), and the wake of a remote load's subset
(R309). Of a saved team the image follows (R408). -/
def State.endMem (s : State) (t w : Nat) (i : Iss) (o : Op) : State :=
  let core := i.team.core
  let before := s
  let s := if !((s.core core).reusePend.any (·.1 == o.id)) || s.stillHolds t core o then s else s.modCore core fun c => c.dropPend [o.id]
  let s := match o.kind with
    | .scld hi => s.modWave t w fun wv => { wv with window := scldWindow wv.window hi o.lanes fun l => o.laneBytes l 4 }
    | _ => s
  let r : State × Op := match o.kind with
    | .glaunch => let x := s.handOver t (o.laneBytes 0 128); (x.1, { o with vals := [Vec.splat ⟨x.2, 0⟩] })
    | _ => (s, o)
  let s := r.1.finishOp t w r.2
  let s := if acquires o.order && o.kind != .red && o.kind != .store then s.acquire core [o.dom] o.scope false
    else if i.opc = 0x3C4 ∧ i.f.mod = 0 ∧ leAt (o.laneBytes 0 4) 0 4 = 1 then s.acquire core allDoms o.scope true
    else s
  if o.isRemote then
    let s := if i.team.place == .resident then s.modWave t w fun wv => wv.wake s.time fun x => x.wake == .remote o.id else s
    s.resave before t
  else s

/-- A memory operation with every answer completes (R148, R315). A destination channel without room waits, as does an SCLD while an
earlier one of its wave has not retired: the window is written in the order of issue (R250). -/
def State.completeMem (s : State) (t w : Nat) (o : Op) : State :=
  let o := o.withResults
  match s.opIss t w o with
  | none => s
  | some i =>
    let older := (match o.kind with | .scld _ => true | _ => false) &&
      i.wave.ops.any fun x => decide (x.id < o.id) && !x.ready && (match x.kind with | .scld _ => true | _ => false)
    if older || !s.dstRoom i o.pops (if o.kind == .glaunch then 1 else o.vals.length) then s else s.endMem t w i o

/-- Whether an operation writes back lines, of which none is still on its way (R315). -/
def State.writtenBack (s : State) (core : Nat) (o : Op) : Bool :=
  !(o.pieces.any fun p => match p.place.pa? with
    | some (pa, _) => (s.core core).lineOut (pa / 256)
    | none => false)

/-- The store-queue entry of an operation, and the core that holds it. -/
def State.entryOf (s : State) (t w op : Nat) : Option (Nat × QStore) :=
  s.cores.findSome? fun c => ((c.2.ownStores t w).find? (·.op == op)).map fun e => (c.1, e)

/-- One answer is taken in; with the last one the operation completes, or a store goes on with what its entry still has to perform. -/
def State.takeAnswer (s : State) (t w : Nat) (o : Op) : State :=
  let s := match s.takeReply t w o.id with
    | some (m, core, s) => s.takeIn t w core o m
    | none => s
  match s.op? t w o.id with
  | none => s
  | some o =>
    if o.need ≠ 0 then s
    else if o.kind == .store then
      (match s.entryOf t w o.id with
       | some (core, e) => if e.sent then s.storeDone core e else s
       | none => s)
    else s.completeMem t w o

/-- An arrival event for an operation of some kind. The last answer of one whose vectors would have to wait in a staging buffer of 64
that has no room for them is not taken yet (R141). -/
def replyEvent (p : Op → Bool) (t w op : Nat) (s : State) : State :=
  match s.op? t w op with
  | none => s
  | some o =>
    if !p o || o.ready then s
    else
      let s' := s.takeAnswer t w o
      match s.teams.get? t with
      | some tm => if decide (64 < s'.staging tm.core) && decide (s.staging tm.core < s'.staging tm.core) then s else s'
      | none => s'

/-- LOAD_DATA_ARRIVAL (R307). -/
def execLoadDataArrival (team wave op : Nat) (s : State) : Host.Outcome State Fault Refusal :=
  .next (replyEvent (fun o => o.kind.isLoad && o.kind != .glaunch && !o.isRemote) team wave op s)

/-- REMOTE_REPLY_ARRIVAL (R309, R408): the values go to the registers, in the wave or in its saved image; the packet of a GLAUNCH
comes in the same way (R166). -/
def execRemoteReplyArrival (team wave op : Nat) (s : State) : Host.Outcome State Fault Refusal :=
  .next (replyEvent (fun o => (o.isRemote && (o.kind.isLoad || o.kind.isAtomic) && o.kind != .red) || o.kind == .glaunch) team wave op s)

/-- STORE_ACK (R315): acknowledgements of stores and reductions, and the acceptance of bytes written back. -/
def execStoreAck (team wave op : Nat) (s : State) : Host.Outcome State Fault Refusal :=
  match s.op? team wave op, s.teams.get? team with
  | some o, some tm =>
    if o.kind == .writeback then
      .next (if !o.ready && s.writtenBack tm.core o then s.finishOp team wave o else s)
    else .next (replyEvent (fun o => o.kind == .store || o.kind == .red) team wave op s)
  | _, _ => .next s

/-- ATOMIC_REPLY (R312). -/
def execAtomicReply (team wave op : Nat) (s : State) : Host.Outcome State Fault Refusal :=
  .next (replyEvent (fun o => (match o.kind with | .atom _ => true | _ => false) && !o.isRemote) team wave op s)

/-- RING_ACK (R230, R231). -/
def execRingAck (team wave op : Nat) (s : State) : Host.Outcome State Fault Refusal :=
  .next (replyEvent (fun o => (match o.kind with | .ring _ => true | _ => false) && !o.isRemote) team wave op s)

/-- BARRIER_REPLY (R373-R377). -/
def execBarrierReply (team wave op : Nat) (s : State) : Host.Outcome State Fault Refusal :=
  .next (replyEvent (fun o => match o.kind with | .barrier _ => true | _ => false) team wave op s)

end Sys2Proof.Machine
end

