-- ==== Sys2Proof/Machine/Cache.lean ====
section
/-! DEFINITION. Cache control (R318), stash mappings (R319) and the write-back and discard of their bytes (R320). -/

namespace Sys2Proof.Machine

/-! ## CCTL (R318) -/

/-- The line and key that each active lane's address names; a lane outside the global and private apertures, or whose
translation does not end in a leaf, names none. -/
def Iss.cctlLines (i : Iss) (s : State) : List (Nat × Nat) :=
  ((maskLanes i.act).filterMap fun l =>
    let ea := i.ea s l
    let va : Option Nat := match apertureOf ea with
      | .global => some ea
      | .priv => if ea % 65536 < i.launch.header.priv then some (privAddr (i.who l) (ea % 65536)) else none
      | _ => none
    match va with
    | none => none
    | some va => match s.translate (i.team.vctx i.launch.ctx) i.team.core va with
      | .ok leaf pa => if (paPlace pa).isSome then some (pa / 256, leafKey leaf) else none
      | _ => none).eraseDups

/-- The cores within a scope of a core (R281); at PKG every core of the partition (R318). -/
def State.coresWithin (s : State) (core part : Nat) (scope : Scope) : List Nat :=
  (s.cores.map (·.1)).filter fun c =>
    match scope with
    | .team => c == core
    | .core => c == core
    | .clus => c / 36 == core / 36 && c % 36 / 4 == core % 36 / 4
    | .die => c / 36 == core / 36
    | _ => c == core || (s.spindle (c / 36)).part == part

/-- CCTL.ivi: the lines leave the fetch path of every core within SCOPE, and fetches of them under way bring nothing. -/
def execCctlIvi (f : Form) (s : State) := issue 0x320 f s fun i =>
  let lines := i.cctlLines s
  let s := (s.coresWithin i.team.core i.launch.part i.scope).foldl (fun s c =>
    s.modCore c fun x => { x with
      ipath := x.ipath.filter fun e => !(lines.any fun l => l.1 == e.1)
      ifetch := x.ifetch.filter fun e => !(lines.any fun l => l.1 == e.2.1) }) s
  .done (s.issuedNext i [])

/-- The operation that a write-back is counted as (R315). -/
def Iss.writebackOp (i : Iss) (s : State) (lines : List (Nat × Nat)) : Op :=
  { i.resultOp s [] with
    kind := .writeback, counted := some 0, pieces := lines.map fun l => ⟨0, 0, 1, .phys (l.1 * 256) l.2, 0⟩ }

/-- Whether the wave still has stores in a queue: what it writes back or maps waits for them. -/
def Iss.storesQueued (i : Iss) (s : State) : Bool := !((s.core i.team.core).ownStores i.tid i.wid).isEmpty

/-- CCTL.wb and CCTL.inv: the masked bytes of the lines leave for their home slices; `.inv` then drops the lines. -/
def Iss.cctlBack (i : Iss) (s : State) (drop : Bool) : Eff :=
  if i.wave.mem = 63 ∨ i.storesQueued s then .stall
  else
    let lines := i.cctlLines s
    let s := lines.foldl (fun s l =>
      let s := s.writeBackLine i.team.core l.1 [.rc, .blk] i.terms
      if drop then s.modCore i.team.core fun c => c.dropLine l.1 else s) s
    .done (s.beginOp i (i.writebackOp s lines))

def execCctlWb (f : Form) (s : State) := issue 0x320 f s fun i => i.cctlBack s false

def execCctlInv (f : Form) (s : State) := issue 0x320 f s fun i => i.cctlBack s true

/-- CCTL.pf: the lines are asked for; a line whose masked bytes are on their way is not (the core may drop the request). -/
def execCctlPf (f : Form) (s : State) := issue 0x320 f s fun i =>
  let s := (i.cctlLines s).foldl (fun s l =>
    if (s.core i.team.core).lineOut l.1 then s
    else s.sendRead i.team.core (.prefetch i.team.core) .blk l.1 l.2 15 i.terms false) s
  .done (s.issuedNext i [])

/-- CCTL.pfs: the lines are asked for at their home slices, which answer nobody. -/
def execCctlPfs (f : Form) (s : State) := issue 0x320 f s fun i =>
  let s := (i.cctlLines s).foldl (fun s l =>
    (s.sendReq i.team.core .none .blk l.1 l.2 (.read 15 true) i.terms true).1) s
  .done (s.issuedNext i [])

/-! ## SMAP (R319) -/

/-- Whether two ranges overlap. -/
def rangesMeet (a n b m : Nat) : Bool := decide (a < b + m) && decide (b < a + n)

/-- The checks of SMAP.map in the order of R319 and R462: the condition's code and the operand field. -/
def smapCheck (stash : Nat) (ms : List SMap) (g o len : Nat) : Option (Nat × Nat) :=
  if stash < o + len then some (3, 3)
  else if 2 ^ 49 ≤ g ∨ 2 ^ 49 < g + len then some (4, 2)
  else if 16 ≤ ms.length then some (5, 0)
  else if ms.any fun m => rangesMeet m.o m.len o len then some (6, 3)
  else if ms.any fun m => rangesMeet m.g m.len g len then some (6, 2)
  else none

/-- SMAP.map. -/
def execSmapMap (f : Form) (s : State) := issue 0x328 f s fun i =>
  let m := lowest i.act
  let g := i.ea s m
  let vb := i.srcB s
  let o := (lane32 vb m).toNat % 2 ^ 19
  let len := ((vec1 vb 1).val m).toNat
  let one : Mask := 1#32 <<< m
  if g % 256 ≠ 0 ∨ o % 256 ≠ 0 ∨ len % 256 ≠ 0 ∨ len = 0 then
    .trap ⟨.align, if g % 256 ≠ 0 then 2 else 3, 8, 0, one, BitVec.ofNat 64 g, 0⟩
  else
    match smapCheck i.launch.header.stash i.team.maps g o len with
    | some (code, field) => .trap ⟨.illegal, field, 8, 7, one, 0, BitVec.ofNat 64 code⟩
    | none =>
      if i.storesQueued s then .stall
      else .done ((s.modTeam i.tid fun t => { t with maps := t.maps ++ [⟨o, g, len, []⟩] }).issuedNext i [])

/-- Whether a team still holds masked bytes in some stash sectors: the page of one to be written back is not there (R270). -/
def State.stashMasked (s : State) (t : Nat) (xs : List Nat) : Bool :=
  (s.teams.get? t).elim false fun tm => tm.dirtyStash.any fun o => xs.contains o

/-- The lines of mapped bytes that a core has sent to their home slices and no slice has acknowledged: MEM counts their acceptance
(R315). -/
def Core.mappedOut (c : Core) : List (Nat × Nat) := (c.wbOut.filter (·.mapped)).map fun w => (w.line, 0)

/-- SMAP.unmap: the mapping's masked bytes are written back, its sectors leave the stash as copies (R145, R271), and the mapping ends;
the stash keeps its bytes. -/
def execSmapUnmap (f : Form) (s : State) := issue 0x328 f s fun i =>
  if i.wave.mem = 63 ∨ i.storesQueued s then .stall
  else
    let g := i.ea s (lowest i.act)
    match i.team.maps.find? fun m => m.g == g with
    | none => .done (s.beginOp i (i.writebackOp s []))
    | some m =>
      let s := m.sec.foldl (fun s e => s.cleanStash i.tid e.1 true i.terms) s
      if s.stashMasked i.tid (m.sec.map (·.1)) then waiting s
      else .done ((s.modTeam i.tid fun t => { t with maps := t.maps.filter fun x => x.g != g }).beginOp i
        (i.writebackOp s (s.core i.team.core).mappedOut))

/-! ## SWB and SDROP (R320) -/

/-- The stash sectors that the line form acts on: the four sectors of the mapped line of each lane's address. -/
def Iss.mappedSectors (i : Iss) (s : State) : List Nat :=
  (((maskLanes i.act).filterMap fun l =>
    let ea := i.ea s l
    match apertureOf ea with
    | .global => (mapOfGlobal i.team.maps ea).map fun m => (m.o + (ea - m.g)) / 256
    | .stash => (mapOfStash i.team.maps (ea % 2 ^ 19)).map fun _ => ea % 2 ^ 19 / 256
    | _ => none).eraseDups).flatMap fun line => (List.range 4).map (4 * line + ·)

/-- The sectors of the line form (MOD 0) or of `.all` (MOD 1). -/
def Iss.stashTargets (i : Iss) (s : State) : List Nat :=
  if i.f.mod = 0 then i.mappedSectors s else i.team.maps.flatMap fun m => m.sec.map (·.1)

/-- SWB: masked bytes of mapped lines are written back. -/
def execSwb (f : Form) (s : State) := issue 0x329 f s fun i =>
  if i.wave.mem = 63 ∨ i.storesQueued s then .stall
  else
    let dirty := i.team.dirtyStash
    let xs := (i.stashTargets s).filter fun x => dirty.contains x
    let s := xs.foldl (fun s x => s.cleanStash i.tid x false i.terms) s
    if s.stashMasked i.tid xs then waiting s
    else .done (s.beginOp i (i.writebackOp s (s.core i.team.core).mappedOut))

/-- SDROP: masked bytes of mapped lines are discarded and the sectors left unfilled. -/
def execSdrop (f : Form) (s : State) := issue 0x32A f s fun i =>
  if i.storesQueued s then .stall
  else
    let xs := i.stashTargets s
    let s := s.modCore i.team.core fun c => xs.foldl (fun c x => (i.team.mapAt x).elim c fun e => c.dropSectorReuse (e.2.pa / 64)) c
    .done ((s.modTeam i.tid fun t =>
      { t with maps := t.maps.map fun m => { m with sec := m.sec.filter fun e => !(xs.contains e.1) } }).issuedNext i [])

end Sys2Proof.Machine
end

