-- ==== Sys2Proof/Machine/Barrier.lean ====
section
/-! DEFINITION. Barrier instructions (R360-R380): objects in the stash and at home slices, waiting and registration, wakes, and
inherited deadlines. -/

namespace Sys2Proof.Machine

/-! ## Objects -/

/-- The place of the object that a barrier instruction names: the checks of R371 for the lowest active lane. -/
def Iss.barObject (i : Iss) (s : State) (wr : Bool) : Except Eff (List LaneAcc × Piece) :=
  let m := lowest i.act
  let ea := i.ea s m
  let one : Mask := 1#32 <<< m
  if ea % 64 ≠ 0 then .error (.trap ⟨.align, 2, 8, 0, one, BitVec.ofNat 64 ea, 0⟩)
  else if apertureOf ea = .priv ∨ apertureOf ea = .peer then
    .error (.trap ⟨.illegal, 2, 8, 7, one, 0, BitVec.ofNat 64 (8 + 256 * (ea / 2 ^ 56))⟩)
  else
    let need : Need := ⟨true, wr, false⟩
    let as : List LaneAcc := [⟨m, ea, 64, (s.access (i.who m) ea 64 true need .sc).oneLine 64⟩]
    match i.checked s.tsc as need with
    | .error e => .error e
    | .ok (p :: _) => .ok (as, p)
    | .ok [] => .error .stall

/-- The key of a wait: the stash offset, or the global address of a slice object. -/
def Iss.barKey (i : Iss) (ea : Nat) (p : Place) : Bool × Nat :=
  match p with
  | .stash o => (true, o)
  | _ => match apertureOf ea with
    | .stash => (false, (mapOfStash i.team.maps (ea % 2 ^ 19)).elim 0 fun m => m.g + (ea % 2 ^ 19 - m.o))
    | _ => (false, ea)

/-- The PA and key of a slice object at a global address of a team's context. -/
def State.barPa (s : State) (t va : Nat) : Option (Nat × Nat) :=
  match s.teams.get? t with
  | none => none
  | some tm =>
    match s.translate (s.vctxOf tm) tm.core va with
    | .ok leaf pa => some (pa, leafKey leaf)
    | _ => none

/-- The bytes of a slice object, as its home slice has them for a waiter after a recall (R361, R271); an evaluation at a slice counts when
it is late (R75). -/
def State.sliceObject (s : State) (pa key : Nat) (tm : Terms) : State × List Byte :=
  (s.countLate tm.own tm.queue tm.part, s.readSeen pa 64 key)

/-- A slice writes WDL of an object for a registration (R367): performed at once; the copies of its line end as after any write
(R296). -/
def State.sliceLend (s : State) (k pa key : Nat) (d : W64) (tm : Terms) : State :=
  let img := linePut (0, 0) (pa % 256 + 32) (toLe 8 d.toNat)
  { s with nextUid := s.nextUid + 1 }.performReq k ⟨s.nextUid, 0, sliceSource k, .none, .cau, pa / 256, key, .write img.1 img.2,
    tm.deadline, tm.prio, tm.queue, tm.part, true, true, tm.own⟩

/-- Bytes of a stash object written by the stash; load reuse of what they are copies of ends (R145). -/
def State.stashPut (s : State) (t off : Nat) (bs : List Byte) : State :=
  (s.modTeam t fun tm => tm.stashWrite off bs).stashTouched t off bs.length

/-- Whether a wait's condition holds: the object valid and its phase passed (R375). -/
def barHolds (o : List Byte) (ph : W32) : Bool := barValid o && phasePassed (barPhase o) ph.toNat

/-! ## Deadlines (R366-R369) -/

/-- Whether participant q of an object is outstanding (R366). -/
def barOutstanding (o : List Byte) (q : Nat) : Bool := nbits (leAt o 40 8) q 1 == 1 && nbits (leAt o 48 8) q 1 == 0

/-- What a registration lends to an object: its deadline, unless the object's WDL is earlier (R367). -/
def barLoan (o : List Byte) (d : W64) : W64 := if d.toNat ≤ barWdl o then d else BitVec.allOnes 64

/-- The waits of a team on its stash objects: offset and what they lent. -/
def Team.loans (tm : Team) : List (Nat × W64) :=
  tm.waves.flatMap fun w => w.2.waits.filterMap fun x => match x.wake with | .bwait true o _ => some (o, x.lent) | _ => none

/-- The inherited deadline of a wave (R368): the earliest that registered waiters have lent to the stash objects of its team and
to the slice objects of its root launch of which it is an outstanding participant (R369; log entry 130). -/
def State.lent (s : State) (t w : Nat) : W64 :=
  match s.teams.get? t with
  | none => BitVec.allOnes 64
  | some tm =>
    let ident := (s.launches.get? tm.launch).elim 0 Launch.ident
    let local_ := tm.loans.foldl (fun d x => if barOutstanding (tm.stashRead x.1 64) w then minW d x.2 else d) (BitVec.allOnes 64)
    s.slices.foldl (fun d sl =>
      sl.2.regs.foldl (fun d r =>
        let o := s.readPaKey (r.line * 256 + r.off) 64 r.key
        if leAt o 56 8 = ident && barOutstanding o (tm.index % 64) then minW d r.deadline else d) d) local_

/-- The effective deadline of a wave as it registers (R129, R367): with what it inherits at that moment. -/
def State.effective (s : State) (t w : Nat) : W64 :=
  match (s.teams.get? t).bind fun tm => s.launches.get? tm.launch with
  | some l => minW l.deadline (s.lent t w)
  | none => BitVec.allOnes 64

/-- The inherited deadlines of a team's waves set anew. -/
def State.inheritAnew (s : State) (t : Nat) : State :=
  match s.teams.get? t with
  | none => s
  | some tm => tm.waves.foldl (fun s w => s.modWave t w.1 fun wv => { wv with inherited := s.lent t w.1 }) s

/-! ## Waiting -/

/-- A wait on a stash object. -/
def Wait.isAt (x : Wait) (off : Nat) : Bool := match x.wake with | .bwait true a _ => a == off | _ => false

/-- What waits on a stash object lent changed. -/
def Wave.relend (w : Wave) (off : Nat) (d : W64) : Wave :=
  { w with waits := w.waits.map fun x => if x.isAt off then { x with lent := d } else x }

/-- A stash object's registrations are dropped with the inheritance they gave; its waiters evaluate their conditions: those that are
met become READY, the others register again and lend to the open phase (R367, R369). -/
def State.wakeLocal (s : State) (t off : Nat) : State :=
  match s.teams.get? t with
  | none => s
  | some tm =>
    let o := tm.stashRead off 64
    let s := tm.waves.foldl (fun s w => s.modWave t w.1 fun wv => (wv.relend off (BitVec.allOnes 64)).wake s.time fun x =>
      match x.wake with
      | .bwait true a ph => a == off && barHolds o ph
      | _ => false) s
    let s := s.inheritAnew t
    (s.teams.get? t).elim s fun tm => tm.waves.foldl (fun s w =>
      if w.2.waits.any (·.isAt off) then
        let d := s.effective t w.1
        let loan := (s.teams.get? t).elim (BitVec.allOnes 64) fun tm => barLoan (tm.stashRead off 64) d
        (s.stashPut t off (barLend ((s.teams.get? t).elim [] fun tm => tm.stashRead off 64) d.toNat)).modWave t w.1 fun wv => wv.relend off loan
      else s) s

/-- An operation on a stash object (R361, R363): the value it returns. -/
def State.stashBarrier (s : State) (t off : Nat) (op : BarOp) : State × Nat :=
  match s.teams.get? t with
  | none => (s, 0)
  | some tm =>
    let r := op.apply (tm.stashRead off 64) false
    let s := s.stashPut t off r.1
    let s := if r.2.2 then s.wakeLocal t off else s
    (s.inheritAnew t, r.2.1)

/-- A subset registers with a slice object and lends its deadline (R367); false when the slice is full. -/
def State.register (s : State) (t w : Nat) (lanes : Mask) (pa key : Nat) : State × Bool :=
  match s.homeOf (pa / 256) with
  | none => (s, false)
  | some k =>
    if 2048 ≤ ((s.slice k).regs.filter (·.live)).length then (s, false)
    else
      let d := s.effective t w
      let tm := s.termsOf t w
      let o := s.readSeen pa 64 key
      let s := s.modSlice k fun sl => { sl with regs := sl.regs ++ [⟨pa / 256, pa % 256, key, t, w, lanes, barLoan o d, true⟩] }
      let s := if d.toNat < barWdl o then s.sliceLend k pa key d tm else s
      (s.modSlice k fun sl => { sl with boosts := sl.boosts ++ [barBoost pa (s.readPaKey pa 64 key)] }, true)

/-- A subset's waits on slice objects evaluated again: met ones become READY at their BWAIT, others register again. -/
def State.reevaluate (s : State) (t w : Nat) (p : Wait → Bool) : State :=
  match s.teams.get? t, s.wave? t w with
  | some tm, some wv =>
    if tm.place != .resident then s
    else
      (wv.waits.filter p).foldl (fun s x =>
        match x.wake with
        | .bwait false va ph =>
          (match s.barPa t va with
           | none => s.modWave t w fun wv => wv.wake s.time fun y => y == x
           | some (pa, key) =>
             let (s, o) := s.sliceObject pa key (s.termsOf t w)
             if barHolds o ph then s.modWave t w fun wv => wv.wake s.time fun y => y == x
             else
               let (s, ok) := s.register t w x.lanes pa key
               s.modWave t w fun wv => { wv with waits := wv.waits.map fun y => if y = x then { y with registered := ok } else y })
        | _ => s) s
  | _, _ => s

/-- BWAIT (R375). It follows the thread's own stores, atomics and barrier operations on the object (R280, R364). -/
def execBwait (f : Form) (s : State) := issue 0x3C3 f s fun i =>
  match i.barObject s false with
  | .error e => e
  | .ok (as, p) =>
    let s := s.fillTlbs i as
    let m := lowest i.act
    let ph := lane32 (i.srcB s) m
    let key := i.barKey (i.ea s m) p.place
    let c := s.core i.team.core
    let block (s : State) (reg : Bool) (lent : W64) : State :=
      s.modWave i.tid i.wid fun w =>
        (w.setThreads i.lanes .blocked).stalled i (s.cycleOf i.team.core) |> fun w =>
          { w with waits := w.waits ++ [⟨i.lanes, i.pc, .bwait key.1 key.2 ph, reg, lent⟩] }
    let complete (s : State) : Eff :=
      .done (((s.popSources i).acquire i.team.core allDoms i.scope true).issuedNext i [])
    let all := (maskLanes i.act).map fun l => { p with lane := l }
    if (c.ownStores i.tid i.wid).any fun e => all.any fun x => e.meets x then waiting s
    else if i.wave.ops.any fun o => overlapWait .atomic .sc all o then waiting s
    else
      match p.place with
      | .stash o =>
        if barHolds (i.team.stashRead o 64) ph then complete s
        else
          let d := s.effective i.tid i.wid
          let loan := barLoan (i.team.stashRead o 64) d
          .done ((block (s.stashPut i.tid o (barLend (i.team.stashRead o 64) d.toNat)) true loan).inheritAnew i.tid)
      | pl =>
        match pl.pa? with
        | none => .stall
        | some (pa, k) =>
          if s.lineDirty i.team.core i.tid (pa / 256) then waiting (s.cleanLine i.team.core i.tid (pa / 256) false i.terms)
          else if c.lineOut (pa / 256) then waiting s
          else
            let (s, o) := s.sliceObject pa k i.terms
            if barHolds o ph then complete s
            else
              let (s, ok) := s.register i.tid i.wid i.lanes pa k
              .done (block s ok (BitVec.allOnes 64))

/-! ## Counted barrier instructions (R372-R374, R376-R378) -/

/-- A barrier instruction that goes to the object: checks, waits, release, and the operation at the serialisation point. -/
def Iss.barrier (i : Iss) (s : State) (wr rel reply : Bool) (pre : Option Trap) (op : Bool → BarOp) : Eff :=
  match i.barObject s wr with
  | .error e => e
  | .ok (as, p) =>
    match pre with
    | some t => .trap t
    | none =>
      let s := s.fillTlbs i as
      let c := s.core i.team.core
      let all := (maskLanes i.act).map fun l => { p with lane := l }
      let lines := linesOf [p.place]
      if i.accessWait s .atomic [] all then waiting s
      else if lines.any fun l => s.lineDirty i.team.core i.tid l then
        waiting (lines.foldl (fun s l => s.cleanLine i.team.core i.tid l true i.terms) s)
      else if lines.any fun l => c.lineOut l then waiting s
      else
        match (if rel then s.release i s.nextOp allDoms i.scope else none) with
        | some s' => waiting s'
        | none =>
          let o := { i.memOp s (.barrier reply) all with regs := i.dstRegs, dom := .sc, isRemote := false }
          match p.place with
          | .stash off =>
            let (s, v) := s.stashBarrier i.tid off (op false)
            .done ((s.popSources i).beginMem i { o with got := [(0, 0, toLe 4 v)] })
          | pl =>
            match pl.pa? with
            | none => .stall
            | some (pa, key) =>
              let s := match pl with | .mapped off _ _ => s.cleanStash i.tid (off / 64) true i.terms | _ => s
              let s := s.endReuse i.team.core [pl]
              let s := if wr then s.modTeam i.tid fun t => { t with fvc := true } else s
              let s := (s.sendReq i.team.core (.op i.tid i.wid o.id) .sc (pa / 256) key (.bar (pa % 256) (op true)) i.terms false).1
              .done ((s.popSources i).beginMem i { o with need := 1 })

/-- The participant number of an arrival (R366). -/
def Iss.participant (i : Iss) (isSlice : Bool) : Nat := if isSlice then i.team.index % 64 else i.wid

/-- A scalar source word: register k of source B in the lowest active lane. -/
def Iss.scalarB (i : Iss) (s : State) (k : Nat) : W32 := (vec1 (i.srcB s) k).val (lowest i.act)

/-- BINIT (R372). -/
def execBinit (f : Form) (s : State) := issue 0x3C0 f s fun i =>
  let tarr := i.scalarB s 0
  let tbytes := i.scalarB s 1
  let bad : Option Trap := if tarr = 0 ∧ tbytes = 0 then some ⟨.illegal, 3, 8, 7, 1#32 <<< lowest i.act, 0, 7⟩ else none
  i.barrier s true true false bad fun sl =>
    .init tarr tbytes (i.scalarB s 3 ++ i.scalarB s 2) (if sl then BitVec.ofNat 64 i.launch.ident else 0)

/-- BARRIVE (R373): MOD bit 0 `.one`, bit 1 `.exp`. -/
def execBarrive (f : Form) (s : State) := issue 0x3C1 f s fun i =>
  let a := if i.f.mod.getLsbD 0 then 1 else (maskLanes i.act).length
  let x := if i.f.mod.getLsbD 1 then (i.scalarB s 0).toNat else 0
  i.barrier s true true true none fun sl => .arrive a 0 x (some (i.participant sl))

/-- BARRIVEB (R374). -/
def execBarriveb (f : Form) (s : State) := issue 0x3C2 f s fun i =>
  let b := (i.scalarB s 0).toNat
  i.barrier s true true false none fun _ => if i.f.mod = 0 then .arrive 0 b 0 none else .arrive 0 0 b none

/-- BTEST (R376). -/
def execBtest (f : Form) (s : State) := issue 0x3C4 f s fun i =>
  i.barrier s false false true none fun _ => .test (i.scalarB s 0) (decide (i.f.mod = 1))

/-- BINVAL (R377). -/
def execBinval (f : Form) (s : State) := issue 0x3C5 f s fun i => i.barrier s true true false none fun _ => .inval

/-! ## Events -/

/-- WAKE_ARRIVAL (R379): the first wake at a core; its subset evaluates its condition again. -/
def execWakeArrival (core : Nat) (s : State) : Host.Outcome State Fault Refusal :=
  match takeFirst (fun m : Msg => match m with | .wake _ _ _ => true | _ => false) (s.core core).inbox with
  | some (.wake t w lanes, rest) =>
    .next ((s.modCore core fun c => { c with inbox := rest }).reevaluate t w fun x =>
      x.lanes &&& lanes != 0 && match x.wake with | .bwait false _ _ => true | _ => false)
  | _ => .next s

/-- REGISTRATION_RETRY (R367): a subset that found its slice full. -/
def execRegistrationRetry (team wave : Nat) (s : State) : Host.Outcome State Fault Refusal :=
  .next (s.reevaluate team wave fun x => !x.registered && match x.wake with | .bwait false _ _ => true | _ => false)

/-- DEADLINE_BOOST (R368): the queue engine applies what a slice sent to the teams of the objects' owners, resident or
saved. -/
def execDeadlineBoost (slice : Nat) (s : State) : Host.Outcome State Fault Refusal :=
  let owners := ((s.slice slice).boosts.map fun b => b.2.1.toNat).eraseDups
  let s := s.modSlice slice fun sl => { sl with boosts := [] }
  .next ((s.teams.filter fun t => owners.contains ((s.launches.get? t.2.launch).elim 0 Launch.ident)).foldl
    (fun s t => s.inheritAnew t.1) s)

end Sys2Proof.Machine
end

