-- ==== Sys2Proof/Machine/Engine.lean ====
section
/-! DEFINITION. Copy commands and their engines, WAITC, stage rings, channels' own instructions, and the members behind channels
(R321-R341, R429). -/

namespace Sys2Proof.Machine

/-! ## Tensor descriptors (R326, R327) -/

/-- A field of a descriptor. -/
def descNat (d : BitVec 4608) (o n : Nat) : Nat := (d.toNat >>> (8 * o)) % 2 ^ (8 * n)

/-- COUNT, LIMIT, ORIGIN, source and destination strides of each dimension. -/
def descDims (d : BitVec 4608) : List (Nat × Nat × Int × Int × Int) :=
  (List.range (descNat d 16 1)).map fun k =>
    let b := 64 + 32 * k
    (descNat d b 4, descNat d (b + 4) 4, sInt 32 (descNat d (b + 8) 4), sInt 64 (descNat d (b + 16) 8), sInt 64 (descNat d (b + 24) 8))

/-- Whether a descriptor keeps the rules of R326. -/
def descValid (d : BitVec 4608) : Bool :=
  let e : Nat := 2 ^ descNat d 17 1
  let dims := descDims d
  decide (1 ≤ descNat d 16 1 ∧ descNat d 16 1 ≤ 16 ∧ descNat d 17 1 ≤ 3 ∧ descNat d 18 1 ≤ 12 ∧ descNat d 19 1 ≤ 2) &&
    descNat d 20 4 == 0 && descNat d 32 32 == 0 &&
    dims.all (fun x => decide (1 ≤ x.1 ∧ x.1 ≤ 65536 ∧ 1 ≤ x.2.1) && x.2.2.2.1 % (e : Int) == 0 && x.2.2.2.2 % (e : Int) == 0) &&
    (List.range dims.length).all (fun k => descNat d (64 + 32 * k + 12) 4 == 0) &&
    descNat d (64 + 32 * dims.length) (512 - 32 * dims.length) == 0 &&
    decide ((dims.foldl (fun n x => n * x.1) 1) * e ≤ 2 ^ 24) &&
    descNat d 0 8 % e == 0 && descNat d 8 8 % e == 0

/-- The indices i[d] of element n, dimension 0 fastest. -/
def walkIndices : Nat → List Nat → List Nat
  | _, [] => []
  | n, c :: cs => n % c :: walkIndices (n / c) cs

/-- Element n of a walk: the source address or the fill bytes, and the destination offset. -/
def walkElement (d : BitVec 4608) (coords : List Int) (n : Nat) : (W64 ⊕ List Byte) × W64 :=
  let dims := descDims d
  let ix := walkIndices n (dims.map (·.1))
  let e : Nat := 2 ^ descNat d 17 1
  let cs : List ((Nat × Nat × Int × Int × Int) × Int) :=
    (List.zip dims (List.zip (List.range 16) ix)).map fun y => (y.1, y.1.2.2.1 + coords.getD y.2.1 0 + (y.2.2 : Int))
  let inside := cs.all fun c => decide (0 ≤ c.2) && decide (c.2 < (c.1.2.1 : Int))
  let addr (clamp : Bool) : W64 := BitVec.ofInt 64 (cs.foldl (fun (a : Int) c =>
    a + (if clamp then max 0 (min c.2 ((c.1.2.1 : Int) - 1)) else c.2) * c.1.2.2.2.1) (descNat d 0 8 : Int))
  let dst : W64 := BitVec.ofInt 64
    ((List.zip dims ix).foldl (fun (a : Int) xj => a + (xj.2 : Int) * xj.1.2.2.2.2) (descNat d 8 8 : Int))
  let src : W64 ⊕ List Byte :=
    if inside then .inl (addr false)
    else match descNat d 19 1 with
      | 0 => .inr (List.replicate e 0)
      | 1 => .inr (toLe e (descNat d 24 8))
      | _ => .inl (addr true)
  (src, dst)

/-- The lowest of the addresses base + Σ c × stride over coordinate intervals, and the number of bytes from it to the end of the
highest one's element of e bytes, addresses being taken modulo 2^64 (log entry 108); an empty interval gives no byte. -/
def walkRange (base : Nat) (e : Nat) (l : List (Int × Int × Int)) : Nat × Nat :=
  if l.any fun x => decide (x.2.1 < x.1) then (0, 0)
  else
    let lo := (l.map fun x => min (x.1 * x.2.2) (x.2.1 * x.2.2)).foldl (· + ·) (base : Int)
    let hi := (l.map fun x => max (x.1 * x.2.2) (x.2.1 * x.2.2)).foldl (· + ·) (base : Int)
    ((lo % 2 ^ 64).toNat, (hi - lo).toNat + e)

/-- The destination and source ranges of a `.mem` walk (R332). -/
def walkRanges (d : BitVec 4608) (coords : List Int) : (Nat × Nat) × (Nat × Nat) :=
  let dims := descDims d
  let e : Nat := 2 ^ descNat d 17 1
  let clamp := descNat d 19 1 = 2
  (walkRange (descNat d 8 8) e (dims.map fun x => (0, (x.1 : Int) - 1, x.2.2.2.2)),
   walkRange (descNat d 0 8) e ((List.zip (List.range 16) dims).map fun (k, x) =>
     let lo := x.2.2.1 + coords.getD k 0
     let hi := lo + (x.1 : Int) - 1
     let top := (x.2.1 : Int) - 1
     if clamp then (max 0 (min lo top), max 0 (min hi top), x.2.2.2.1) else (max lo 0, min hi top, x.2.2.2.1)))

/-! ## Issue of copy commands (R321-R323, R329, R332) -/

/-- Fields of the extension word (R323). -/
def Iss.cmdExt (i : Iss) : W64 := i.f.ext.getD 0
def Iss.cmdSdom (i : Iss) : Dom := domCode (bits i.cmdExt 8 3)
def Iss.cmdDdom (i : Iss) : Dom := domCode (bits i.cmdExt 11 3)
def Iss.cmdScope (i : Iss) : Scope :=
  match bits i.cmdExt 14 3 with
  | 0 => .team
  | 1 => .core
  | 2 => .clus
  | 3 => .die
  | 4 => .pkg
  | _ => .sys

/-- The barrier address, when BAR is set. -/
def Iss.cmdBar (i : Iss) (s : State) : Option W64 :=
  if i.cmdExt.getLsbD 24 then some (lane64 (i.srcC s) (lowest i.act)) else none

/-- A command of the subset before its particulars. -/
def Iss.cmd (i : Iss) (s : State) (kind : CmdKind) : Cmd where
  id := s.nextOp
  port := ((i.team.bind[bits i.cmdExt 0 6]?).elim 0 Bind.param)
  team := i.tid
  wave := i.wid
  lane := lowest i.act
  pc := i.pc
  kind := kind
  lanes := []
  src := 0
  dst := 0
  count := 0
  pos := 0
  esize := 0
  sdom := i.cmdSdom
  ddom := i.cmdDdom
  scope := i.cmdScope
  bar := i.cmdBar s
  total := 0
  ring := none
  stream := []
  reserved := []
  filled := 0
  etag := 0
  parked := []
  begun := false
  reads := []
  got := []
  writes := []
  digest := []
  arrived := false
  failed := false

/-- The stash offset of the ring behind the destination channel of a `.ch` form. -/
def Iss.cmdRing (i : Iss) : Option Nat :=
  match i.f.dst with
  | .ch n _ => (i.bind? n.toNat).map fun b => b.2.addr.toNat
  | _ => none

/-- The ILLEGAL trap of an address that a command may not use (R329). -/
def Iss.badAperture (i : Iss) (fld : Nat) (ea : W64) : Trap :=
  ⟨.illegal, fld, 8, 7, 1#32 <<< lowest i.act, 0, BitVec.ofNat 64 (9 + 256 * (ea.toNat / 2 ^ 56))⟩

/-- The barrier operand: 64-byte aligned (log entry 30), in an aperture the command may use. -/
def Iss.cmdBarCheck (i : Iss) (s : State) (stashToo : Bool) : Option Trap :=
  match i.cmdBar s with
  | none => none
  | some x =>
    if x.toNat % 64 ≠ 0 then some ⟨.align, 4, 8, 0, 1#32 <<< lowest i.act, x, 0⟩
    else
      let ap := apertureOf x.toNat
      if ap == .priv || ap == .noAperture || (ap == .stash && !stashToo) then some (i.badAperture 4 x) else none

/-- Whether memory operations that the subset's threads issued before still stand between it and the memory that an engine sees
(R280, R283, R330; log entry 29). -/
def Iss.cmdWait (i : Iss) (s : State) (cnt : Nat) (mem : Bool) : Bool :=
  i.wave.count cnt == 63 || i.storesQueued s ||
    (i.wave.ops.any fun o => !o.ready && o.kind.isMem && (o.lanes &&& i.act != 0)) ||
    (mem && decide (32 ≤ ((s.core i.team.core).ranges.filter fun r => r.own.isNone).length))

/-- A command is handed to its port: its counter rises, and its ranges stand in the way of overlapping accesses, those of a
`.mem` command in the scoreboard (R324, R332), the sources of another for its own wave's writes (R280). -/
def State.launchCmd (s : State) (i : Iss) (c : Cmd) (cnt : Fin 4) (scored : Bool) (dst src : Nat × Nat) : State :=
  let o := { i.resultOp s [] with kind := .copy c.sdom c.ddom, regs := [], dst := .none, counted := some cnt }
  let s := (s.popSources i).beginOp i o
  s.modCore i.team.core fun k =>
    { k with
      cmds := k.cmds ++ [c]
      ranges := k.ranges ++ [⟨c.id, dst.1, dst.2, src.1, src.2, if scored then none else some (i.tid, i.wid)⟩] }

/-- TCOPY (R327). -/
def execTcopy (f : Form) (s : State) := issue 0x380 f s fun i =>
  let slot := i.cmdExt.getLsbD 20
  let ch := decide (i.f.mod = 1)
  match i.cmdBarCheck s true with
  | some t => .trap t
  | none =>
    let busy := (s.core i.team.core).cmds.any fun c => c.team == i.tid && c.wave == i.wid && c.kind == .tdesc slot
    if busy || i.cmdWait s 1 (!ch) then .stall
    else
      let va := i.srcA s
      let desc := if slot then i.wave.desc1 else i.wave.desc0
      let coords : List Int := (List.range 16).map fun d => if i.act.getLsbD d then (lane32 va d).toInt else 0
      let d := desc.getD 0
      let n := (descDims d).foldl (fun n x => n * x.1) 1
      let e : Nat := 2 ^ descNat d 17 1
      let c := { i.cmd s (.tcopy desc coords) with
        count := if desc.isSome then n else 1, esize := e, total := n * e, etag := BitVec.ofNat 4 (descNat d 18 1),
        ring := if ch then i.cmdRing else none }
      let r := if desc.isSome then walkRanges d coords else ((0, 0), (0, 0))
      .done (s.launchCmd i c 1 (!ch) (if ch then (0, 0) else r.1) r.2)

/-- TDESC (R326): 576 bytes, sector by sector. -/
def execTdesc (f : Form) (s : State) := issue 0x381 f s fun i =>
  let a := lane64 (i.srcA s) (lowest i.act)
  if a.toNat % 64 ≠ 0 then .trap ⟨.align, 2, 8, 0, 1#32 <<< lowest i.act, a, 0⟩
  else if i.cmdWait s 1 false then .stall
  else .done (s.launchCmd i { i.cmd s (.tdesc (i.cmdExt.getLsbD 20)) with src := a, count := 9, esize := 64 } 1 false (0, 0) (a.toNat, 576))

/-- Element bytes of a size code (R322). -/
def sizeCode (k : Nat) : Nat :=
  match k with
  | 0 => 4
  | 1 => 8
  | 2 => 16
  | 3 => 64
  | _ => 256

/-- The ALIGN trap of GATHER and SCATTER: the lanes whose address is no multiple of W, else the base of lane m. -/
def Iss.laneAlign (i : Iss) (w : Nat) (va : List Vec) (base : Option W64) : Option Trap :=
  let bad := laneMask fun l => i.act.getLsbD l && (lane64 va l).toNat % w != 0
  if bad ≠ 0 then some ⟨.align, 2, 8, 0, bad, lane64 va (lowest bad), 0⟩
  else match base with
    | some b => if b.toNat % w ≠ 0 then some ⟨.align, 3, 8, 0, 1#32 <<< lowest i.act, b, 0⟩ else none
    | none => none

/-- The interval of some addresses with w bytes each: the lowest, and the number of bytes. -/
def addrRange (w : Nat) (l : List Nat) : Nat × Nat :=
  match l with
  | [] => (0, 0)
  | a :: as => (as.foldl Nat.min a, as.foldl Nat.max a + w - as.foldl Nat.min a)

/-- The interval of the elements of some lanes behind a base address. -/
def laneRange (base : W64) (w : Nat) (lanes : List Nat) : Nat × Nat :=
  let r := addrRange w (lanes.map (· * w))
  ((base.toNat + r.1) % 2 ^ 64, r.2)

/-- GATHER (R328). -/
def execGather (f : Form) (s : State) := issue 0x382 f s fun i =>
  let w := sizeCode (i.f.mod.toNat % 8)
  let ch := decide (8 ≤ i.f.mod.toNat)
  let va := i.srcA s
  let b := lane64 (i.srcB s) (lowest i.act)
  match i.laneAlign w va (if ch then none else some b) <|> i.cmdBarCheck s true with
  | some t => .trap t
  | none =>
    if i.cmdWait s 1 (!ch) then .stall
    else
      let act := maskLanes i.act
      let lanes : List (Nat × Option W64) :=
        if ch then lanes32.map fun l => (l, if i.act.getLsbD l then some (lane64 va l) else none)
        else act.map fun l => (l, some (lane64 va l))
      let c := { i.cmd s .gather with
        lanes := lanes, dst := b, count := lanes.length, esize := w, total := lanes.length * w, ring := if ch then i.cmdRing else none }
      .done (s.launchCmd i c 1 (!ch) (if ch then (0, 0) else laneRange b w act) (addrRange w (act.map fun l => (lane64 va l).toNat)))

/-- SCATTER (R328). -/
def execScatter (f : Form) (s : State) := issue 0x383 f s fun i =>
  let w := sizeCode i.f.mod.toNat
  let va := i.srcA s
  let b := lane64 (i.srcB s) (lowest i.act)
  match i.laneAlign w va (some b) <|> i.cmdBarCheck s true with
  | some t => .trap t
  | none =>
    if i.cmdWait s 1 true then .stall
    else
      let act := maskLanes i.act
      let c := { i.cmd s .scatter with
        lanes := act.map fun l => (l, some (lane64 va l)), src := b, count := act.length, esize := w, total := act.length * w }
      .done (s.launchCmd i c 1 true (addrRange w (act.map fun l => (lane64 va l).toNat)) (laneRange b w act))

/-- The first byte of part n of a copy of `len` bytes that ends its parts at the lines of its destination. -/
def lineCut (dst len n : Nat) : Nat := if n = 0 then 0 else Nat.min len (256 * n - dst % 256)

/-- RCOPY and COLL (R329): a destination line at a time. -/
def Iss.lenCopy (i : Iss) (s : State) (kind : CmdKind) : Eff :=
  let m := lowest i.act
  let one : Mask := 1#32 <<< m
  let a := lane64 (i.srcA s) m
  let b := lane64 (i.srcB s) m
  let n := bits i.cmdExt 32 32
  let bad (x : W64) : Bool := apertureOf x.toNat != .global && apertureOf x.toNat != .peer
  if a.toNat % 64 ≠ 0 then .trap ⟨.align, 2, 8, 0, one, a, 0⟩
  else if b.toNat % 64 ≠ 0 then .trap ⟨.align, 3, 8, 0, one, b, 0⟩
  else if bad a then .trap (i.badAperture 2 a)
  else if bad b then .trap (i.badAperture 3 b)
  else match i.cmdBarCheck s false with
    | some t => .trap t
    | none =>
      if i.cmdWait s 3 true then .stall
      else
        let c := { i.cmd s kind with
          src := a, dst := b, count := if n = 0 then 0 else (b.toNat % 256 + n + 255) / 256, esize := 256, total := n }
        .done (s.launchCmd i c 3 true (b.toNat, n) (a.toNat, n))

/-- RCOPY (R329). -/
def execRcopy (f : Form) (s : State) := issue 0x384 f s fun i => i.lenCopy s .rcopy

/-- COLL (R329). -/
def execColl (f : Form) (s : State) := issue 0x385 f s fun i => i.lenCopy s (.coll i.f.mod.toNat)

/-- WAITC (R325): the wave's counter of the class is at most k (`Iss.waitcHeld`). -/
def execWaitc (f : Form) (s : State) := issue 0x390 f s fun i => .done ((s.popSources i).issuedNext i [])

/-! ## Channel instructions (R336, R338, R339) -/

/-- PUSH (R339). -/
def execPush (f : Form) (s : State) := issueFixed 0x398 f s fun i => .ok { vecs := [vec1 (i.srcA s) 0] }

/-- POP (R339): the entry with its tags; a peek leaves it. -/
def execPop (f : Form) (s : State) := issue 0x399 f s fun i =>
  .done ((s.popSources i).startOp i (i.resultOp s [vec1 (i.srcA s) 0]))

/-- Whether a copy command of a team holds a reservation on a ring that is not full. -/
def State.ringReserved (s : State) (t core o : Nat) : Bool :=
  (s.core core).cmds.any fun c => c.team == t && c.ring == some o && decide (c.filled < c.reserved.length)

/-- A ring's header as RINGINIT leaves it (R338). -/
def ringInit (tm : Team) (o n : Nat) : Team :=
  (((tm.stashWrite o (toLe 8 0)).stashWrite (o + 8) (toLe 2 n)).stashWrite (o + 10) (toLe 2 n)).stashWrite (o + 16) (toLe 8 0)

/-- RINGINIT (R338). -/
def execRinginit (f : Form) (s : State) := issue 0x39A f s fun i =>
  let o := ((i.team.bind[bits i.cmdExt 0 6]?).elim 0 fun b => b.addr.toNat)
  let n := bits i.cmdExt 8 7
  if i.launch.header.stash < o + 64 + 144 * n then .trap ⟨.illegal, 5, 8, 7, 1#32 <<< lowest i.act, 0, 10⟩
  else if s.ringReserved i.tid i.team.core o then .stall
  else .done ((s.modTeam i.tid fun t => ringInit t o n).issuedNext i [])

/-! ## Accesses of an engine (R330, R331) -/

/-- A port of a core handles the commands of one wave in issue order (R321). -/
def Core.cmdReady (k : Core) (c : Cmd) : Bool :=
  match k.cmds.find? fun x => x.port == c.port && x.team == c.team && x.wave == c.wave with
  | some x => x.id == c.id
  | none => false

def State.modCmd (s : State) (core id : Nat) (f : Cmd → Cmd) : State :=
  s.modCore core fun k => { k with cmds := k.cmds.map fun c => if c.id = id then f c else c }

/-- Who an engine accesses as: the thread of a lane of the command's wave. -/
def engineWho (tm : Team) (ln : Launch) (c : Cmd) (core lane : Nat) : Who where
  part := ln.part
  ctx := tm.vctx ln.ctx
  core := core
  floor := ln.header.floor
  priv := ln.header.priv
  stashSize := ln.header.stash
  privBase := tm.privBase
  maps := tm.maps
  waveIx := c.wave
  lane := lane
  engine := true

/-- An engine command error (R331): a context fault; the command goes no further. -/
def State.engineError (s : State) (core : Nat) (c : Cmd) (addr : W64) : State :=
  match s.teams.get? c.team with
  | none => s
  | some tm =>
    match s.launches.get? tm.launch with
    | none => s
    | some ln =>
      (s.raise ln.part .engine (coreSource core) addr c.pc ln.ctx ln.ident).modCmd core c.id fun c => { c with failed := true }

/-- A place cut where its lines end: one request is for one line (R342). -/
def cutLines (p : Nat × Nat × Place) : List (Nat × Nat × Place) :=
  let cut (a : Nat) (f : Nat → Place) : List (Nat × Nat × Place) := (lineSpans a p.2.1).map fun x => (p.1 + x.1, x.2.2, f x.1)
  match p.2.2 with
  | .phys pa key => cut pa fun d => .phys (pa + d) key
  | .peer pa key => cut pa fun d => .peer (pa + d) key
  | .remote pkg part ix gen off pas => cut off fun d => .remote pkg part ix gen (off + d) pas
  | _ => [p]

/-- A checked access of an engine: its places, or the state after a fault parked it or an error stopped it. -/
def State.engineAccess (s : State) (core : Nat) (c : Cmd) (lane : Nat) (addr : W64) (len : Nat) (need : Need) (dom : Dom) :
    Except State (List (Nat × Nat × Place)) :=
  match s.teams.get? c.team with
  | none => .error s
  | some tm =>
    match s.launches.get? tm.launch with
    | none => .error s
    | some ln =>
      let w := engineWho tm ln c core lane
      match s.access w addr.toNat len false need dom with
      | .ok ps =>
        if ps.any (fun p => match p.2.2 with | .remote _ _ _ _ _ _ => true | _ => false) && decide (Dom.rank dom < s.peerFloor w addr.toNat)
        then .error (s.engineError core c addr) else .ok (ps.flatMap cutLines)
      | .miss page level cause =>
        .error ((s.park ln.part [⟨c.team, s.tsc, ln.ctx, page, need.kind true, level, cause, coreSource core, ln.ident⟩]).modCmd core c.id
          fun c => { c with parked := [(page, none)] })
      | .held => .error s
      | _ => .error (s.engineError core c addr)

/-- Element n of a command: source or fill bytes, destination, and the lane whose thread accesses them. -/
def Cmd.element (c : Cmd) : (W64 ⊕ List Byte) × W64 × Nat :=
  let n := c.pos
  let step : W64 := BitVec.ofNat 64 (n * c.esize)
  let chunk : W64 := BitVec.ofNat 64 (lineCut c.dst.toNat c.total n)
  match c.kind with
  | .tcopy d coords => let e := walkElement (d.getD 0) coords n; (e.1, e.2, c.lane)
  | .tdesc _ => (.inl (c.src + step), 0, c.lane)
  | .gather =>
    match c.lanes[n]? with
    | some (l, some a) => (.inl a, c.dst + BitVec.ofNat 64 (l * c.esize), l)
    | _ => (.inr (List.replicate c.esize 0), 0, c.lane)
  | .scatter =>
    match c.lanes[n]? with
    | some (l, some a) => (.inl (c.src + BitVec.ofNat 64 (l * c.esize)), a, l)
    | _ => (.inr [], 0, c.lane)
  | .rcopy => (.inl (c.src + chunk), c.dst + chunk, c.lane)
  | .coll _ => (.inl (c.src + chunk), c.dst + chunk, c.lane)

/-- How many bytes element n has. -/
def Cmd.size (c : Cmd) : Nat :=
  match c.kind with
  | .rcopy => lineCut c.dst.toNat c.total (c.pos + 1) - lineCut c.dst.toNat c.total c.pos
  | .coll _ => lineCut c.dst.toNat c.total (c.pos + 1) - lineCut c.dst.toNat c.total c.pos
  | _ => c.esize

/-- The reduction of COLL as a MOD of RED (R329). -/
def collMod (op : Nat) : Nat :=
  match op with
  | 0 => 20
  | 1 => 25
  | 2 => 24
  | 3 => 0
  | 4 => 22
  | 5 => 21
  | 6 => 4
  | _ => 2

/-- The 32-bit words of some bytes. -/
def wordsOf (bs : List Byte) : List Nat := (List.range (bs.length / 4)).map fun k => leAt bs (4 * k) 4

/-- Digest contributions of a destination part in the global or peer aperture (R414). -/
def Cmd.contributions (c : Cmd) (dst : W64) (bs : List Byte) : List (List Byte) :=
  let ap := apertureOf dst.toNat
  if ap == .global || ap == .peer then
    let (kind, op) := match c.kind with
      | .coll k => (1, 0x40 + k)
      | _ => (0, 0)
    (List.range ((bs.length + 7) / 8)).map fun k =>
      digestMsg (dst + BitVec.ofNat 64 (8 * k)) kind (Nat.min 8 (bs.length - 8 * k)) op (BitVec.ofNat 64 (leAt bs (8 * k) 8))
  else []

/-- One element is done. -/
def Cmd.next (c : Cmd) (dst : W64) (bs : List Byte) : Cmd := { c with pos := c.pos + 1, digest := c.digest ++ c.contributions dst bs }

/-! ## Reads and writes of an element (R330, R331) -/

/-- Whether the bytes of a source are at hand in a mapped stash range (R271). -/
def State.engineHas (s : State) (c : Cmd) (p : Nat × Nat × Place) : Bool :=
  match p.2.2 with
  | .mapped o _ _ => c.sdom != .sc && (s.teams.get? c.team).any fun tm => tm.mappedReady o p.2.1
  | _ => false

/-- The lines of this package's memory that some places touch, if the issuing core or the team's stash has written bytes of one that its
home slice has not: the state in which they are on their way there. -/
def State.engineClean (s : State) (core : Nat) (c : Cmd) (ps : List Place) : Option State :=
  let lines := linesOf ps
  if lines.any fun l => s.lineDirty core c.team l then
    some (lines.foldl (fun s l => s.cleanLine core c.team l false (s.termsOf c.team c.wave)) s)
  else if lines.any fun l => (s.core core).lineOut l then some s
  else none

/-- The sectors of a line that n bytes at an offset touch. -/
def sectorsAt (off n : Nat) : BitVec 4 := (sectorSpans off n).foldl (fun m p => m ||| (1#4 <<< (p.2.1 / 64 % 4))) 0

/-- One piece of an element's source: read at once from the stash, else asked of its home slice, which fills a mapped sector, or of the
other package. -/
def State.engineAsk (s : State) (core : Nat) (c : Cmd) (va : W64) (p : Nat × Nat × Place) : State :=
  let tm := s.termsOf c.team c.wave
  let here (s : State) (o : Nat) : State :=
    s.modCmd core c.id fun c => { c with got := c.got ++ [(p.1, (s.teams.get? c.team).elim [] fun t => t.stashRead o p.2.1)] }
  let wait (s : State) (id off : Nat) (fill : Bool) : State := s.modCmd core c.id fun c =>
    { c with reads := c.reads ++ [⟨id, p.1, off, p.2.1, p.2.2.span.1, p.2.2.span.2, va + BitVec.ofNat 64 p.1, fill⟩] }
  match p.2.2 with
  | .stash o => here s o
  | .remote pkg part ix gen off _ =>
    let id := s.nextUid
    wait ({ s with nextUid := id + 1 }.toPackage core pkg c.sdom tm (.cmd core c.id id) (.read part ix gen off p.2.1 false)) id 0 false
  | pl =>
    if s.engineHas c p then
      (match pl with | .mapped o pa _ => (here s o).notePending c.team c.wave (pa / 256) | _ => s)
    else match pl.pa? with
    | none => s
    | some (pa, key) =>
      let fill := pl.isMapped && c.sdom != .sc
      let s := match pl with | .mapped o pa key => if fill then s.touchMapped c.team o pa key else s | _ => s
      let id := s.nextUid
      wait (s.sendRead core (.cmd core c.id id) c.sdom (pa / 256) key (sectorsAt pa p.2.1) tm true) id (pa % 256) fill

/-- The bytes of the element, when every piece has come. -/
def Cmd.bytes (c : Cmd) : List Byte :=
  (sortBy (fun a b : Nat × List Byte => decide (a.1 ≤ b.1)) c.got).flatMap (·.2)

/-- Whether a destination piece overlaps a write of the command that is still under way: it follows that write (R327, R328). -/
def Cmd.clash (c : Cmd) (p : Nat × Nat × Place) : Bool :=
  c.writes.any fun w => w.space == p.2.2.span.1 && decide (w.addr < p.2.2.span.2 + p.2.1) && decide (p.2.2.span.2 < w.addr + w.len)

/-- The core's copies of other packages' lines end, those under way too: a write of its own performs there, and the command does not know
at which lines. An L1 may give up a line at any time. -/
def State.dropFar (s : State) (core : Nat) : State :=
  s.modCore core fun c =>
    let far := (c.l1.map (·.1)).filter fun l => decide (2 ^ 48 ≤ l)
    { far.foldl Core.dropLine c with farReads := c.farReads.map fun r => (r.1, r.2.1, r.2.2.1, true) }

/-- Whether a destination piece stays in the stash: outside mappings, and under one in RC and BLK, whose bytes are masked there. -/
def Cmd.local_ (c : Cmd) (p : Place) : Bool := p.isStash || (p.isMapped && (c.ddom == .rc || c.ddom == .blk))

/-- One piece of an element written: into the stash at once, masked under a mapping; in SC, TSO and CAU those bytes also go to their
home slice, in a request of the domain, and the stash keeps no copy; else a request to its home slice, or a message to
the other package. The issuing core's copies of the line end, and the first-visible-commit bit is set (R330). -/
def State.enginePut (s : State) (core : Nat) (c : Cmd) (bs : List Byte) (va : W64) (p : Nat × Nat × Place) : State :=
  let tm := s.termsOf c.team c.wave
  let x := (bs.drop p.1).take p.2.1
  let sent (s : State) (id : Nat) : State :=
    (s.modCmd core c.id fun c => { c with
      writes := c.writes ++ [⟨id, p.1, 0, p.2.1, p.2.2.span.1, p.2.2.span.2, va + BitVec.ofNat 64 p.1, false⟩] }).modTeam c.team
        fun t => { t with fvc := t.fvc || p.2.2.visible || p.2.2.isMapped }
  let lanes (op off : Nat) : List AtomLane := (List.zip (List.range 64) (wordsOf x)).map fun (k, v) =>
    ⟨k, off % 256 + 4 * k, BitVec.ofNat 5 (collMod op), BitVec.ofNat 64 v, 0⟩
  if c.local_ p.2.2 then
    match p.2.2 with
    | .mapped o pa key => s.writeMapped c.team o pa key (c.ddom == .blk) x
    | .stash o => s.modTeam c.team fun t => t.stashWrite o x
    | _ => s
  else
  match p.2.2 with
  | .remote pkg part ix gen off _ =>
    let img := linePut (0, 0) (off % 256) x
    let body : LinkBody := match c.kind with
      | .coll op => .atom part ix gen (off / 256) (lanes op off) true
      | _ => .write part ix gen (off / 256) img.1 img.2
    let id := s.nextUid
    sent ({ s.dropFar core with nextUid := id + 1 }.toPackage core pkg c.ddom tm (.cmd core c.id id) body) id
  | pl => match pl.pa? with
    | none => s
    | some (pa, key) =>
      let img := linePut (0, 0) (pa % 256) x
      let kind : ReqKind := match c.kind with
        | .coll op => .atom (lanes op pa) true
        | _ => .write img.1 img.2
      let s := s.applyInval core (pa / 256) tm
      let s := match pl with | .mapped o _ _ => s.modTeam c.team fun t => t.stashWrite o x | _ => s
      let r := s.sendReq core (.cmd core c.id s.nextUid) c.ddom (pa / 256) key kind tm true
      sent r.1 r.2

/-- The bytes of an element go to their destination: the slot or stream, the stash, or memory. In SC, TSO and CAU one write is
acknowledged before the next goes, in CAU after every value read has propagated (R284-R286, R295). -/
def State.engineDeliver (s : State) (core : Nat) (c : Cmd) (bs : List Byte) : State :=
  let (_, dst, lane) := c.element
  let onward (s : State) : State := s.modCmd core c.id fun c => { c with begun := false, got := [] }
  let landed (s : State) : State := (onward s).modCmd core c.id fun c => { c with pos := c.pos + 1, stream := c.stream ++ bs }
  match c.kind, c.ring with
  | .tdesc _, _ => landed s
  | _, some _ => landed s
  | _, none =>
    let s := s.undefinePages
    match s.engineAccess core c lane dst bs.length ⟨false, true, false⟩ c.ddom with
    | .error s => s
    | .ok ps =>
      let ordered := c.ddom == .sc || c.ddom == .tso || c.ddom == .cau
      let unseen := c.ddom == .cau && (s.wave? c.team c.wave).any fun w => !w.pendingLines.isEmpty
      if ps.any (c.clash ·) || (ordered && !c.writes.isEmpty) || unseen then s
      else
        match s.engineClean core c ((ps.map (·.2.2)).filter fun p => !c.local_ p) with
        | some s' => s'
        | none => (onward (ps.foldl (fun s p => s.enginePut core c bs dst p) s)).modCmd core c.id fun c => c.next dst bs

/-- Whether an earlier copy command of the wave, at another port, still has accesses that the domains order before this one's
(R283, R330). -/
def cmdAfter (cs : List Cmd) (w : Wave) (c : Cmd) : Bool :=
  let lanes := (w.ops.find? (·.id == c.id)).elim 0 Op.lanes
  w.ops.any fun o => decide (o.id < c.id) && (o.lanes &&& lanes != 0) &&
    (domainWait cs .load c.sdom lanes o || domainWait cs .atomic c.ddom lanes o)

/-- The next element of a command begins: its source is asked for, or is at hand. -/
def State.engineBegin (s : State) (core : Nat) (c : Cmd) : State :=
  match c.kind with
  | .tcopy none _ => s.engineError core c 0
  | _ =>
    match c.element with
    | (.inr bs, _, _) => s.modCmd core c.id fun c => { c with begun := true, got := [(0, bs)] }
    | (.inl a, _, lane) =>
      let s := s.undefinePages
      match s.engineAccess core c lane a c.size ⟨true, false, false⟩ c.sdom with
      | .error s => s
      | .ok ps =>
        let late := (linesOf (ps.map (·.2.2))).any fun l => !s.pendingRoom c.team c.wave l
        if late then s
        else
          match s.engineClean core c ((ps.filter fun p => !s.engineHas c p).map (·.2.2)) with
          | some s' => s'
          | none => ps.foldl (fun s p => s.engineAsk core c a p) (s.modCmd core c.id fun c => { c with begun := true, got := [] })

/-- The bytes of a part of an element in the sectors of its line. -/
def CmdPart.cut (p : CmdPart) (secs : AMap Sector) : List Byte :=
  (List.range p.len).map fun k => ((secs.get? ((p.off + k) / 64)).elim 0 fun x => Sector.byte x ((p.off + k) % 64))

/-- An answer to a command is taken in: bytes of a read, which fill a mapped sector unless an invalidation has overtaken them, or the end
of a write; a refusal at an exporter is an engine command error (R331). -/
def State.engineAnswer (s : State) (core : Nat) (c : Cmd) (part : Nat) (m : Msg) : State :=
  let read (bs : CmdPart → List Byte) : State := s.modCmd core c.id fun c =>
    { c with
      reads := c.reads.filter (·.id != part)
      got := c.got ++ (c.reads.filter (·.id == part)).map fun p => (p.at_, bs p) }
  let ended : State := s.modCmd core c.id fun c => { c with writes := c.writes.filter (·.id != part) }
  let refused : State := s.engineError core c (((c.reads ++ c.writes).find? (·.id == part)).elim 0 CmdPart.va)
  match m with
  | .readReply r secs pending =>
    let bad := (s.core core).readsOut.any fun e => e.1 == r.id && e.2.2
    let s' := (read fun p => p.cut secs).modCore core fun k => { k with readsOut := k.readsOut.filter fun e => e.1 != r.id }
    let s' := if !bad && c.reads.any (fun p => p.id == part && p.fill) then s'.fillMapped c.team r.line secs else s'
    if pending then s'.notePending c.team c.wave r.line else s'
  | .linkReply _ b => (match b.body with
    | .data bs _ => read fun p => bs.take p.len
    | .denied => refused
    | _ => ended.dropFar core)
  | .denied _ => refused
  | _ => ended

/-- The number of the command's access that a message answers. -/
def Msg.cmdPart (m : Msg) (core cmd : Nat) : Option Nat :=
  match m.asker? with
  | some (.cmd a b n) => if a = core ∧ b = cmd then some n else none
  | _ => none

/-- ENGINE_ACCESS (R331): an answer is taken; else the element whose source has come is delivered; else the next element of a
command begins. -/
def execEngineAccess (core cmd : Nat) (s : State) : Host.Outcome State Fault Refusal :=
  let k := s.core core
  match k.cmds.find? (·.id == cmd) with
  | none => .next s
  | some c =>
    match takeFirst (fun m : Msg => (m.cmdPart core cmd).isSome && s.canTake c.team c.wave m) k.inbox with
    | some (m, rest) => .next ((s.modCore core fun k => { k with inbox := rest }).engineAnswer core c ((m.cmdPart core cmd).getD 0) m)
    | none =>
      if k.stopped || c.failed || !c.parked.isEmpty || !c.reads.isEmpty || !k.cmdReady c || decide (c.count ≤ c.pos) then .next s
      else if c.begun then .next (s.engineDeliver core c c.bytes)
      else
        match s.wave? c.team c.wave with
        | some w => if cmdAfter (s.cmdsOf c.team) w c then .next s else .next (s.engineBegin core c)
        | none => .next s

/-! ## Completion (R324, R330) -/

/-- The command leaves its port: ranges, contributions, counter, which also falls in the image of a saved team (R333). -/
def State.retireCmd (s : State) (core : Nat) (c : Cmd) : State :=
  let s1 := s.modCore core fun k =>
    { k with cmds := k.cmds.filter fun x => x.id != c.id, ranges := k.ranges.filter fun r => r.cmd != c.id }
  ((s1.contribute c.team c.digest).modWave c.team c.wave fun w => (w.modOp c.id fun o => { o with ready := true }).leave).resave s c.team

/-- TDESC_COMPLETE (R326): the 576 bytes are validated into the slot. -/
def execTdescComplete (core cmd : Nat) (s : State) : Host.Outcome State Fault Refusal :=
  match (s.core core).cmds.find? (·.id == cmd) with
  | none => .next s
  | some c =>
    match c.kind with
    | .tdesc slot =>
      if c.failed || decide (c.pos < c.count) || (s.core core).stopped then .next s
      else
        let d : BitVec 4608 := BitVec.ofNat 4608 (leNat c.stream)
        if descValid d then
          .next ((s.retireCmd core c).modWave c.team c.wave fun w => if slot then { w with desc1 := some d } else { w with desc0 := some d })
        else .next (s.engineError core c c.src)
    | _ => .next s

/-- Whether every destination byte of a command, and its arrival once that is sent, stands where its completion needs it. -/
def Cmd.written (c : Cmd) : Bool :=
  !c.failed && decide (c.count ≤ c.pos) && c.writes.isEmpty &&
    (match c.ring with
     | some _ => decide ((c.total + 127) / 128 ≤ c.filled)
     | none => true)

/-- The subset of a command, for the release of its arrival. -/
def State.cmdIss (s : State) (c : Cmd) : Option Iss :=
  match s.op? c.team c.wave c.id with
  | some o => s.opIss c.team c.wave o
  | none => none

/-- The part of a command that its arrival is. -/
def arrivalPart (id : Nat) (b : W64) : CmdPart := ⟨id, 0, 0, 64, 0, 0, b, false⟩

/-- The barrier arrival of a command (R330, R361): at once in the stash, else a request to the object's home slice or a message to
the other package. -/
def State.engineArrive (s : State) (core : Nat) (c : Cmd) (b : W64) : State :=
  match s.engineAccess core c c.lane b 64 ⟨true, true, false⟩ .sc with
  | .error s => s
  | .ok ps =>
   match (Acc.ok ps).oneLine 64 with
   | .ok (p :: _) =>
    match s.engineClean core c [p.2.2] with
    | some s' => s'
    | none =>
      let tm := s.termsOf c.team c.wave
      let sent (s : State) (id : Nat) : State :=
        (s.modTeam c.team fun t => { t with fvc := true }).modCmd core c.id fun c => { c with arrived := true, writes := [arrivalPart id b] }
      match p.2.2 with
      | .stash o => (s.stashBarrier c.team o (.arrive 0 c.total 0 none)).1.modCmd core c.id fun c => { c with arrived := true }
      | .remote pkg part ix gen off _ =>
        let id := s.nextUid
        sent ({ s.dropFar core with nextUid := id + 1 }.toPackage core pkg .sc tm (.cmd core c.id id) (.arrive part ix gen off c.total)) id
      | pl => match pl.pa? with
        | none => s
        | some (pa, key) =>
          let r := (s.applyInval core (pa / 256) tm).sendReq core (.cmd core c.id s.nextUid) .sc (pa / 256) key
            (.bar (pa % 256) (.arrive 0 c.total 0 none)) tm true
          sent r.1 r.2
   | _ => s.engineError core c b

/-- COPY_COMPLETE (R330): with every byte written, at CLUS or wider also back from mapped ranges, the barrier arrival, which is a
release at SCOPE of what the threads did before the command; then the counter. -/
def execCopyComplete (core cmd : Nat) (s : State) : Host.Outcome State Fault Refusal :=
  match (s.core core).cmds.find? (·.id == cmd) with
  | none => .next s
  | some c =>
    match c.kind with
    | .tdesc _ => .next s
    | _ =>
      if !c.written || (s.core core).stopped || !c.parked.isEmpty then .next s
      else
        let s := if 2 ≤ c.scope.ctorIdx then s.cleanTeamStash c.team (s.termsOf c.team c.wave) else s
        if decide (2 ≤ c.scope.ctorIdx) && ((s.teams.get? c.team).any (fun t => !t.dirtyStash.isEmpty) ||
            (s.core core).wbOut.any fun w => w.mapped && w.dom == c.ddom) then .next s
        else
          match c.bar with
          | none => .next (s.retireCmd core c)
          | some b =>
            if c.arrived then .next (s.retireCmd core c)
            else
              match (s.cmdIss c).bind fun i => s.release i c.id allDoms c.scope with
              | some s' => .next s'
              | none => .next (s.engineArrive core c b)

/-! ## Streams into stage rings (R337) -/

/-- RING_RESERVE (R337): the next entry of a stream, when FREE > 0. -/
def execRingReserve (core cmd : Nat) (s : State) : Host.Outcome State Fault Refusal :=
  match (s.core core).cmds.find? (·.id == cmd) with
  | none => .next s
  | some c =>
    match c.ring, s.teams.get? c.team with
    | some o, some tm =>
      if (s.core core).cmdReady c && !c.failed && !(s.core core).stopped && decide (c.reserved.length < (c.total + 127) / 128) &&
          decide (0 < ringFree tm o) then
        .next ((s.modTeam c.team fun t => ringReserve t o).modCmd core cmd fun c => { c with reserved := c.reserved ++ [ringTail tm o] })
      else .next s
    | _, _ => .next s

/-- RING_FILL (R337): the next reserved entry whose bytes have all landed. -/
def execRingFill (core cmd : Nat) (s : State) : Host.Outcome State Fault Refusal :=
  match (s.core core).cmds.find? (·.id == cmd) with
  | none => .next s
  | some c =>
    match c.ring, c.reserved[c.filled]? with
    | some o, some n =>
      if Nat.min c.total (128 * (c.filled + 1)) ≤ c.stream.length ∧ !(s.core core).stopped then
        let bs := (c.stream.drop (128 * c.filled)).take 128
        let v := Vec.of fun l => ⟨BitVec.ofNat 32 (leAt bs (4 * l) 4), c.etag⟩
        .next ((((s.modTeam c.team fun t => ringFill t o n v).stashTouched c.team o
            (64 + 144 * (s.teams.get? c.team).elim 0 fun t => ringNent t o)).modCmd core cmd fun c => { c with filled := c.filled + 1 }).channelWake)
      else .next s
    | _, _ => .next s

/-! ## Members outside the core -/

/-- Whether a core has an entry on its outgoing link in a direction that has come to the other end: 8 core cycles after it was pushed,
one entry of the cluster's four cores in a cycle (R340, R351). -/
def State.linkReady (s : State) (core dir : Nat) : Bool :=
  match (s.core core).links.getD dir [] with
  | e :: _ => decide (e.due ≤ s.cycleOf core) && decide ((s.station (stationOf core)).linkFrom.getD dir 0 ≤ s.cycleOf core)
  | [] => false

/-- The core of a cluster to which the link in a direction is granted: the first with an entry from the one in turn on (R351). -/
def State.linkTurn (s : State) (core dir : Nat) : Option Nat :=
  let start := (s.station (stationOf core)).turn.getD dir 0
  ((List.range 4).map fun k => core / 36 * 36 + core % 36 / 4 * 4 + (start + k) % 4).find? fun c => s.linkReady c dir

/-- NEIGHBOUR_ENTRY_ARRIVAL (R340, R351): the oldest entry of the core that its cluster's link is granted to enters the bound core's
buffer for the opposite direction. Nothing is delivered to a fenced spindle (R90). -/
def execNeighbourEntryArrival (core dir : Nat) (s : State) : Host.Outcome State Fault Refusal :=
  match (s.core core).links.getD dir [] with
  | [] => .next s
  | e :: rest =>
    if s.linkTurn core dir != some core then .next s
    else
      let d := oppositeDir dir
      let s := (s.modCore core fun c => { c with links := c.links.set dir rest }).modStation (stationOf core) fun st =>
        { st with turn := st.turn.set dir ((core % 36 % 4 + 1) % 4), linkFrom := st.linkFrom.set dir (s.cycleOf core + 1) }
      if (s.spindle (e.target / 36)).fenced then .next s
      else .next ((s.modCore e.target fun c => { c with recv := c.recv.set d (c.recv.getD d [] ++ [e.vec]) }).channelWake)

/-- Whether bytes of one line stand at its home with no write of an agent to the line still to propagate. -/
def State.holdsNow (s : State) (pa : Nat) (bs : List Byte) : Bool :=
  s.readSeen pa bs.length 0 == bs &&
    (match s.homeOf (pa / 256) with
     | some k => ((s.slice k).agentWrites (pa / 256)).isEmpty
     | none => (s.sock (memSocket pa)).inq.all fun m => match m.msg with | .sockRaw a _ _ _ => a / 256 != pa / 256 | _ => true)

/-- The release that a push made before its post, while its team is there (R341); `none` when it is done. -/
def State.postRelease (s : State) (x : Post) : Option State :=
  match s.teams.get? x.team, s.wave? x.team x.wave with
  | some tm, some wv => (s.launches.get? tm.launch).bind fun ln =>
      s.release ⟨x.team, x.wave, 0, BitVec.allOnes 32, BitVec.allOnes 32, 0x398, ⟨0, none, 0, .none, .none, .none, .none, none⟩, 0, 0,
        tm, wv, ln⟩ s.nextOp allDoms .pkg
  | _, _ => none

/-- QUEUE_POST (R341): after the push's release, the packet goes to slot TAIL of the ring and, when that store has propagated, TAIL
advances. A full ring waits. A control block or a ring that the pusher's partition does not own halts that partition (R8). -/
def execQueuePost (queue : Nat) (s : State) : Host.Outcome State Fault Refusal :=
  match (s.queue queue).posts with
  | [] => .next s
  | x :: rest =>
    let posted (s : State) : State := s.modQueue queue fun q => { q with posts := rest }
    let deny (pa : Nat) : State :=
      let who := (s.askerLaunch (.op x.team x.wave 0)).getD (0xFFFF, 0)
      posted (s.raise x.part .permission (engineSource x.part) (BitVec.ofNat 64 pa) 0 who.1 who.2)
    match s.postRelease x with
    | some s' => .next s'
    | none =>
      if s.ownerOf x.cb ≠ x.part then .next (deny x.cb)
      else if s.withheldAt x.cb 64 then .next s
      else
        let tail := s.readPa x.cb 8
        let size := 2 ^ s.readPa (x.cb + 24) 1
        let slot := s.readPa (x.cb + 16) 8 + tail % size * 128
        if size ≤ tail - s.readPa (x.cb + 8) 8 then .next s
        else if s.ownerOf slot ≠ x.part then .next (deny slot)
        else if !s.holdsNow slot x.bytes then
          .next (if s.readSeen slot 128 0 == x.bytes then s else s.writePaFor (s.termsOf x.team x.wave) slot 0 x.bytes)
        else .next ((posted (s.writePaFor (s.termsOf x.team x.wave) x.cb 0 (toLe 8 (tail + 1)))).channelWake)

/-- One bit of the check sequence of IEEE 802.3, under which the ports run (R429). -/
def fcsBit (c : W32) : W32 := if c.getLsbD 0 then (c >>> 1) ^^^ 0xEDB88320#32 else c >>> 1

/-- The check sequence of bytes. -/
def fcs32 (bs : List Byte) : W32 :=
  ~~~(bs.foldl (fun (c : W32) b => (List.range 8).foldl (fun c _ => fcsBit c) (c ^^^ b.setWidth 32)) (BitVec.allOnes 32))

/-- The check sequence of a frame: over its addresses, tag, EtherType and payload, in the order in which they travel. -/
def frameFcs (f : Frame) : W32 :=
  let be (x : Nat) : List Byte := [BitVec.ofNat 8 (x / 256), BitVec.ofNat 8 x]
  fcs32 (toLe 6 f.dest.toNat ++ toLe 6 f.source.toNat ++
    (f.tag.elim [] fun t => be 0x8100 ++ be (t.1.toNat * 8192 + t.2.toNat)) ++ be f.etherType.toNat ++ f.payload)

/-- The frame of a pushed message (R429); byte 7 holds the sending partition. Bytes 0-5 are the destination address,
little-endian (R11; DEDUCED, log entry 37). -/
def frameOf (p : EthPort) (part : Nat) (bs : List Byte) : Frame :=
  let f : Frame :=
    { dest := BitVec.ofNat 48 (leAt bs 0 6)
      source := p.mac
      etherType := 0x88B5
      tag := if p.vlan = 0 then none else some (p.pcp, p.vlan)
      payload := putBytes bs 7 [BitVec.ofNat 8 part]
      fcs := 0 }
  { f with fcs := frameFcs f }

/-- FRAME_SEND (R429): the oldest pushed message leaves as one frame. -/
def execFrameSend (port : Nat) (s : State) : Host.Outcome State Fault Refusal :=
  let p := s.port port
  match p.sendQ with
  | [] => .next s
  | (part, bs) :: rest =>
    if p.enable then
      .next ((s.modPort port fun p =>
        { p with sendQ := rest, wire := p.wire ++ [frameOf p part bs], txFrames := p.txFrames + 1 }).channelWake)
    else .next s

/-- Whether a received frame is for a partition of this port, and which (R429). One whose check sequence is wrong is dropped and
counted (DEDUCED, log entry 37). -/
def EthPort.accepts (p : EthPort) (f : Frame) : Option Nat :=
  let part := leAt f.payload 6 1
  let vlanOk := match f.tag with
    | some (_, v) => p.vlan != 0 && v == p.vlan
    | none => p.vlan == 0
  if p.enable && f.dest == p.mac && f.etherType == 0x88B5 && vlanOk && f.payload.length == 128 && decide (part < 24) &&
      p.partmask.getLsbD part && decide ((p.recvQ.getD part []).length < 64) && f.fcs == frameFcs f then some part else none

/-- FRAME_RECEIVE (R429): delivered to a partition's queue, or dropped and counted. A disabled port receives nothing. -/
def execFrameReceive (port : Nat) (frame : Frame) (s : State) : Host.Outcome State Fault Refusal :=
  let p := s.port port
  if !p.enable then .next s
  else match p.accepts frame with
    | some part => .next ((s.modPort port fun p =>
        { p with recvQ := p.recvQ.set part (p.recvQ.getD part [] ++ [frame.payload]), rxFrames := p.rxFrames + 1 }).channelWake)
    | none => .next (s.modPort port fun p => { p with rxDrop := p.rxDrop + 1 })

end Sys2Proof.Machine
end

