-- ==== Sys2Proof/Machine/Events.lean ====
section
/-! DEFINITION. The event queue of the host (R435), the queue engine's accesses at virtual addresses (R61), and the logical
numbering of a partition (R79-R83). -/

namespace Sys2Proof.Machine

/-! ## Event records -/

/-- A 32-byte record: TSC, SOURCE, CODE, detail (R435, R356). -/
def eventBytes (tsc : W64) (source code : Nat) (detail : List Byte) : List Byte :=
  toLe 8 tsc.toNat ++ toLe 2 source ++ [BitVec.ofNat 8 code] ++ (detail ++ List.replicate 21 0).take 21

/-- A record joins the event queue, or is dropped when the queue is not set up or full. -/
def State.putEvent (s : State) (bs : List Byte) : State :=
  let q := s.evq
  let size := 2 ^ q.log2.toNat
  if q.base = 0 ∨ q.log2.toNat < 6 ∨ 16 < q.log2.toNat ∨ size ≤ (q.tail - q.head).toNat then
    { s with evq := { q with drop := q.drop + 1 } }
  else
    { (s.writePa (q.base.toNat + 32 * (q.tail.toNat % size)) 0 bs) with evq := { q with tail := q.tail + 1 } }

/-- An event of a partition, codes 7-10: byte 0x0B the partition, bytes 0x10-0x17 a number. -/
def State.partEvent (s : State) (source code part : Nat) (x : Nat) : State :=
  s.putEvent (eventBytes s.tsc source code ([BitVec.ofNat 8 part] ++ List.replicate 4 0 ++ toLe 8 x))

/-! ## Virtual addresses of a launch (R61) -/

/-- The physical runs of a range of a context: PA, key and length, page by page; `none` when a page is not present or
malformed, lacks the permission, or lies in a granule that the partition does not own. -/
def State.vaRuns (s : State) (ctx part : Nat) (need : Need) : Nat → Nat → Nat → Option (List (Nat × Nat × Nat))
  | 0, _, _ => some []
  | fuel + 1, va, n =>
    if n = 0 then some []
    else if apertureOf va ≠ .global then none
    else
      match s.walkFrom part va 3 0 (s.ctx ctx).now.root.toNat with
      | .ok leaf pa =>
        if !leafAllows leaf need || s.ownerOf pa != part then none
        else
          let k := Nat.min n (65536 - va % 65536)
          (s.vaRuns ctx part need fuel (va + k) (n - k)).map fun rest => (pa, leafKey leaf, k) :: rest
      | _ => none

def State.runsOf (s : State) (ctx part : Nat) (need : Need) (va n : Nat) : Option (List (Nat × Nat × Nat)) :=
  s.vaRuns ctx part need (n / 65536 + 2) va n

/-- The queue engine's accesses are requests of its launch, one for each line: a late one counts (R74, R75; log entry 112). -/
def State.engineLate (s : State) (tm : Terms) (va n : Nat) : State :=
  (List.range (if n = 0 then 0 else (va + n - 1) / 256 - va / 256 + 1)).foldl (fun s _ => s.countLate tm.own tm.queue tm.part) s

/-- Bytes at a VA, read for a launch as `State.readSeen` gives them. -/
def State.readVa (s : State) (ctx : Nat) (tm : Terms) (va n : Nat) : State × Option (List Byte) :=
  match s.runsOf ctx tm.part ⟨true, false, false⟩ va n with
  | none => (s, none)
  | some rs =>
    let s := (s.engineLate tm va n).undefinePages
    (s, some (rs.flatMap fun r => s.readSeen r.1 r.2.2 r.2.1))

/-- Bytes written at a VA for a launch; nothing when it cannot be reached. -/
def State.writeVa (s : State) (ctx : Nat) (tm : Terms) (va : Nat) (bs : List Byte) : State :=
  match s.runsOf ctx tm.part ⟨false, true, false⟩ va bs.length with
  | none => s
  | some rs =>
    (rs.foldl (fun (acc : State × List Byte) r => (acc.1.writePaFor tm r.1 r.2.1 (acc.2.take r.2.2), acc.2.drop r.2.2))
      ((s.engineLate tm va bs.length).undefinePages, bs)).1

/-! ## Logical numbering -/

/-- A spindle on which the queue engine may place teams of a partition (R79). -/
def State.placeable (s : State) (part k : Nat) : Bool :=
  (s.spindle k).part == part && !(s.spindle k).fenced && !(s.spindle k).resetting && decide ((s.unit k).state ≤ 1)

/-- The enabled physical cores of a spindle, ascending: LPT0 to LPT(ENCOUNT − 1) (R80, R81). -/
def Spindle.enabled (k : Spindle) : List Nat := (List.range 36).filter fun p => !k.fused.getLsbD p

/-- The logical dies of a partition, and its cores by partition logical core number (R82). -/
def State.logicalDies (s : State) (part : Nat) : List Nat := (List.range 24).filter fun k => s.placeable part k
def State.logicalCores (s : State) (part : Nat) : List Nat :=
  (s.logicalDies part).flatMap fun k => (s.spindle k).enabled.map fun p => k * 36 + p

/-- The set of placeable spindles changed: every live launch of the partition recomputes its numbering (R83). -/
def State.renumber (s : State) (part : Nat) : State :=
  let cores := s.logicalCores part
  { s with launches := s.launches.mapVals fun l => if l.part = part then { l with cores := cores } else l }

/-- A launch's logical dies. -/
def Launch.dies (l : Launch) : List Nat := (l.cores.map (· / 36)).eraseDups

/-! ## Launches -/

def Launch.total (l : Launch) : Nat := l.packet.gx * l.packet.gy * l.packet.gz

/-- The launches of a root launch's tree, itself included. -/
def State.tree (s : State) (root : Nat) : List Nat := (s.launches.filter fun l => l.2.root == root).map (·.1)

/-- PREQ is cleared when no team of the context remains resident (R382). -/
def State.clearPreq (s : State) (ctx : Nat) : State :=
  if s.teams.any fun t => t.2.place == .resident && (match s.launches.get? t.2.launch with | some l => l.ctx == ctx | none => false) then s
  else s.modCtx ctx fun c => { c with preq := false }

/-- How many accesses of a team wait on a fault entry. -/
def State.parkedOn (s : State) (t : Nat) (seq : W32) (page : W64) : Nat :=
  match s.teams.get? t with
  | none => 0
  | some tm =>
    (tm.waves.map fun w => (w.2.waits.filter fun x => match x.wake with
      | .fault ps => ps.contains (page, some seq)
      | _ => false).length).foldl (· + ·) 0 +
    ((s.core tm.core).cmds.filter fun c => c.team == t && c.parked.contains (page, some seq)).length

/-- The accesses of a team leave the fault queue; an entry that none waits on any more is free (R394, R396). -/
def State.unpark (s : State) (t : Nat) : State :=
  match (s.teams.get? t).bind fun tm => s.launches.get? tm.launch with
  | none => s
  | some l =>
    s.modPart l.part fun p =>
      { p with
        fqWait := p.fqWait.filter fun x => x.team != t
        fq := p.fq.filterMap fun e =>
          let n := s.parkedOn t e.seq e.vpage
          if n = 0 then some e else if e.parked ≤ n then none else some { e with parked := e.parked - n } }

/-- The copy commands of a team dropped from a core, with the ranges that they guard. -/
def Core.dropCmds (c : Core) (t : Nat) : Core :=
  { c with
    ranges := c.ranges.filter fun r => !(c.cmds.any fun x => x.team == t && x.id == r.cmd)
    cmds := c.cmds.filter fun x => x.team != t }

/-- What a team's stash holds of mapped sectors is a copy no longer: load reuse of those sectors ends (R145). -/
def Core.dropMappedReuse (c : Core) (tm : Team) : Core :=
  tm.maps.foldl (fun c m => m.sec.foldl (fun c e => c.dropSectorReuse (e.2.pa / 64)) c) c

/-- A team is gone: its slots, names, queued stores, private bytes, unsent requests, commands and registrations with it (R49, R275, R409);
its stash no longer holds copies, so load reuse of their sectors ends (R145). The places of its requests are free for those of other teams,
unless the core has stopped (R400, R402). -/
def State.removeTeam (s : State) (t : Nat) : State :=
  match s.teams.get? t with
  | none => s
  | some tm =>
    let s := s.unpark t
    let s := (s.launches.get? tm.launch).elim s fun l => tm.waves.foldl (fun s w => s.dropPrivate tm l t w.1 (BitVec.allOnes 32)) s
    let s := s.modCore tm.core fun c =>
      let c := if tm.place = .resident then
          tm.waves.foldl (fun c w => w.2.names.foldl Core.release { c with slots := c.slots.erase w.2.slot }) c else c
      let c := c.dropMappedReuse tm
      { c.dropPend (tm.waves.flatMap fun w => w.2.ops.map (·.id)) with
        sq := c.sq.mapVals fun q => q.filter fun e => e.team != t
        atomsInFlight := c.atomsInFlight.filter fun a => a.team != t
        atomsUnsent := c.atomsUnsent.filter fun a => a.team != t
        probes := c.probes.filter fun p => p.team != t
        l1 := c.l1.mapVals fun ln => { ln with sec := ln.sec.mapVals fun x => { x with owners := x.owners.filter (·.1 != t) } } }
    let s := { s with cores := s.cores.mapVals fun c => if c.cmds.any (·.team == t) then c.dropCmds t else c }
    let s := if (s.spindle (tm.core / 36)).fenced || (s.core tm.core).stopped then s else s.sendAtoms tm.core 64
    let s := ({ s with teams := s.teams.erase t, group := s.group.filter fun c => c.team != t }).dropRegs fun r => r.team == t
    match s.launches.get? tm.launch with
    | some l => s.clearPreq l.ctx
    | none => s

/-- Outcomes of the 65,536 most recent packets of a queue (R69). -/
def Queue.record (q : Queue) (n : Nat) (code : Byte) : Queue :=
  { q with outcomes := (q.outcomes.set n code).filter fun e => decide (q.head.toNat ≤ e.1 + 65536) }

/-- The waits of GJOIN on a child slot of a team end (R169). -/
def State.wakeJoin (s : State) (t slot : Nat) : State :=
  match s.teams.get? t with
  | some tm =>
    if tm.place = .resident then
      tm.waves.foldl (fun s w => s.modWave t w.1 fun wv => wv.wake s.time fun x => x.wake == .gjoin slot) s
    else s
  | none => s

/-- A child grid ends: its slot in the parent team holds the code; with OK in a digesting launch its grid digest is added
to the parent's (R168, R414). -/
def State.childDone (s : State) (lid : Nat) (l : Launch) (t slot : Nat) (code : Byte) : State :=
  let s := { s with launches := s.launches.erase lid }
  let dig := s.digesting l && code == 0
  let s := s.modTeam t fun tm =>
    { tm with
      kids := modAt tm.kids slot fun k => { k with st := .retired code }
      digest := if dig then tm.digest + l.gdigest else tm.digest
      contribs := if dig then tm.contribs + 1 else tm.contribs }
  s.wakeJoin t slot

/-- The cores of a partition whose spindles are not fenced: what a fenced one holds is discarded (R88, R90). -/
def State.liveCores (s : State) (p : Nat) : List Nat :=
  (s.cores.map (·.1)).filter fun c => (s.part p).spindles.getLsbD (c / 36) && !(s.spindle (c / 36)).fenced

/-- Requests that carry stores and have not propagated: write-backs of some cores, and writes of agents. -/
def State.storesOut (s : State) (cores : List Nat) : List Nat :=
  (cores.flatMap fun c => (s.core c).wbOut.map WriteBack.id) ++
    s.slices.flatMap fun sl => ((sl.2.inq ++ sl.2.admitted ++ sl.2.pend.map PendWrite.req).filter fun r =>
      r.asker == .none && r.kind.writes).map Req.id

/-- The release at SYS scope before a launch completes (R73, R412, R418): every byte that the partition's cores and stashes hold written is
sent home, and what was under way then has propagated (log entry 34): `none` when it has, else the state in which it is under way. -/
def State.drainFor (s : State) (lid : Nat) (l : Launch) : Option State :=
  let mine := s.liveCores l.part
  match l.drain with
  | some ids => if ids.any (s.storesOut mine).contains then some s else none
  | none =>
    let s := s.teams.foldl (fun s t => if mine.contains t.2.core then s.cleanTeamStash t.1 l.terms else s) s
    let s := mine.foldl (fun s c => (s.writeBackAll c .rc l.terms).writeBackAll c .blk l.terms) s
    let ids := s.storesOut mine
    if ids.isEmpty then none else some (s.modLaunch lid fun l => { l with drain := some ids })

/-! ## Chains of dependences (R76) -/

/-- The identifiers that the launch or packet with an identifier depends on itself. -/
def State.dependsOn (s : State) (ident : Nat) : List Nat :=
  match s.launches.find? fun l => l.2.ident == ident && l.2.parent.isNone with
  | some l => [l.2.packet.dep0.toNat, l.2.packet.dep1.toNat].filter (· != 0)
  | none => (s.queue ((ident - 1) / 2 ^ 48)).chains.getD ((ident - 1) % 2 ^ 48) []

/-- Every identifier that one of some identifiers depends on, directly or through a chain. -/
def State.feeders (s : State) : Nat → List Nat → List Nat
  | 0, seen => seen
  | n + 1, seen =>
    let more := ((seen.flatMap s.dependsOn).filter fun d => !seen.contains d).eraseDups
    if more.isEmpty then seen else s.feeders n (seen ++ more)

/-- The incomplete launches that a launch depends on: their identifiers. -/
def State.producers (s : State) (l : Launch) : List Nat :=
  (s.feeders (s.launches.length + 1) ([l.packet.dep0.toNat, l.packet.dep1.toNat].filter (· != 0))).filter fun d =>
    s.launches.any fun o => o.2.ident == d && o.2.parent.isNone && d != l.ident

/-- A completed packet's incomplete producers are kept with its queue; what they were is forgotten with them. -/
def State.keepChain (s : State) (l : Launch) : State :=
  let ps := s.producers l
  let live (d : Nat) : Bool := d != l.ident && s.launches.any fun o => o.2.ident == d && o.2.parent.isNone
  let s := { s with queues := s.queues.mapVals fun q =>
    { q with chains := (q.chains.mapVals fun ds => ds.filter live).filter fun e => !e.2.isEmpty } }
  if ps.isEmpty then s else s.modQueue l.queue fun q => { q with chains := q.chains.set l.packetNo ps }

/-- A killed context that has no launch left: its CTXDESC reads 0 and its number is free (R409, R426). -/
def State.reapCtx (s : State) (c : Nat) : State :=
  if !(s.ctx c).dying || s.launches.any fun l => l.2.ctx == c then s
  else
    let forget (k : Core) : Core := { k.dropReuse (·.ctx == c) with tlb := k.tlb.filter fun e => e.ctx % 4096 != c }
    { s with ctxs := s.ctxs.erase c, cores := s.cores.mapVals forget, transInvals := s.transInvals.filter (·.ctx != c) }

/-- A launch is complete with a code (R51, R73, R75): the completion record, the queue's counters and outcome, a LATE event. While a
socket of the partition is halted for debug the device counts no lateness, and STATUS.LATE stays 0 (DESIGN CHOICE, log entry 113). -/
def State.finishLaunch (s : State) (lid : Nat) (code detail : Byte) : State :=
  match s.launches.get? lid with
  | none => s
  | some l =>
    match l.parent with
    | some (t, slot) => s.childDone lid l t slot code
    | none =>
      let late := decide (l.deadline.toNat < s.tsc.toNat) && (s.part l.part).dbghalt == 0
      let q := s.queue l.queue
      let status : Nat := l.packetNo % 2 ^ 32 * 2 ^ 32 + 2 ^ 17 + (if late then 2 ^ 16 else 0) + detail.toNat * 256 + code.toNat
      let compl := l.packet.compl.toNat
      let s := if compl = 0 ∨ compl % 32 ≠ 0 then s
        else
          (s.writeVa l.ctx l.terms compl (toLe 8 l.packet.tag.toNat ++ toLe 8 l.startTsc.toNat ++ toLe 8 s.tsc.toNat)).writeVa
            l.ctx l.terms (compl + 24) (toLe 8 status)
      let s := s.keepChain l
      let s := s.modQueue l.queue fun q =>
        { q.record l.packetNo code with
          late := if late then q.late + 1 else q.late
          failed := if code = 0 then q.failed else q.failed + 1 }
      let cb := q.cbpa.toNat * 256
      let s := if late then s.writePa (cb + 0x20) 0 (toLe 8 (q.late + 1).toNat) else s
      let s := if code = 0 then s else s.writePa (cb + 0x30) 0 (toLe 8 (q.failed + 1).toNat)
      ({ s with
        launches := s.launches.erase lid
        mgrEvents := if late && q.qflags.getLsbD 0 then s.mgrEvents ++ [.late l.ident] else s.mgrEvents } : State).reapCtx l.ctx

/-- A launch ends with a code. Its completion record follows every store of the partition (R73): until they have propagated it stands as
`LaunchState.ending`. Without a record it is complete, and so is one that a halt ends, whose cores have stopped and keep nothing
(R400). -/
def State.completeLaunch (s : State) (lid : Nat) (code detail : Byte) : State :=
  match s.launches.get? lid with
  | none => s
  | some l =>
    if l.parent.isSome ∨ code = 2 ∨ (l.st ≠ .ending ∧ l.packet.compl = 0) then s.finishLaunch lid code detail
    else if l.st = .ending then s
    else match s.drainFor lid { l with drain := none } with
      | none => s.finishLaunch lid code detail
      | some s' => s'.modLaunch lid fun l => { l with st := .ending, fail := code, detail := detail }

/-- A root launch and its tree end with a code: every team is gone, no further team is placed (R78, R91, R409). -/
def State.endTree (s : State) (root : Nat) (code : Byte) : State :=
  let tree := s.tree root
  let s := ((s.teams.filter fun t => tree.contains t.2.launch).map (·.1)).foldl State.removeTeam s
  let s := { s with launches := s.launches.filter fun l => l.1 == root || !tree.contains l.1 }
  s.completeLaunch root code 0

end Sys2Proof.Machine
end

