-- ==== Sys2Proof/Machine/Admit.lean ====
section
/-! DEFINITION. Queues: the control block as the queue engine sees it (R60-R64), consumption of a packet and the admission
checks (R19-R33, R65-R71, R77, R87, R167), and dependences (R69). -/

namespace Sys2Proof.Machine

/-! ## The control block -/

def Queue.cb (q : Queue) : Nat := q.cbpa.toNat * 256

/-- The partition of a queue; 0xFF for none (R424). -/
def State.queuePart (s : State) (q : Nat) : Nat := (s.queueOwner.getD q 0xFF).toNat

/-- Whether the engine acts on a QCMD in a QSTATE: enable while DISABLED or ERROR, disable while ENABLED (R62). -/
def cmdActs (cmd st : Byte) : Bool := (cmd == 1 && st != 1) || (cmd == 2 && st == 1)

/-- The host's fields as the engine rereads them (R62). A QCMD that was written is kept when the engine acts on it, and any other is
ignored; `qcmd` is what it has still to act on. A PRIORITY above 7, to which the manual gives no meaning and no check, is taken as it
stands and ranks higher still (DESIGN CHOICE, log entry 115). Bits 7 to 1 of QFLAGS, which R60 calls reserved, count as a reserved byte for
R64 (DESIGN CHOICE, log entry 134). -/
def State.rereadBlock (s : State) (k : Nat) : State :=
  let cb := (s.queue k).cb
  let f (o n : Nat) : Nat := s.readPa (cb + o) n
  let cmd := BitVec.ofNat 8 (f 0x38 1)
  s.modQueue k fun q => { q with
    cmdWritten := false
    qcmd := if q.cmdWritten then (if cmdActs cmd q.qstate then cmd else 0) else q.qcmd
    tail := BitVec.ofNat 64 (f 0 8)
    ringbase := BitVec.ofNat 64 (f 0x10 8)
    log2 := BitVec.ofNat 8 (f 0x18 1)
    prio := BitVec.ofNat 8 (f 0x19 1)
    memres := BitVec.ofNat 8 (f 0x1A 1)
    fabres := BitVec.ofNat 8 (f 0x1B 1)
    reldl := BitVec.ofNat 32 (f 0x1C 4)
    qflags := BitVec.ofNat 8 (f 0x3B 1)
    reservedBad := decide (f 0x3C 196 ≠ 0) || decide (f 0x3B 1 / 2 ≠ 0) }

/-- Bytes of the ring lie in granules of the partition. -/
def State.ringOwned (s : State) (part : Nat) (q : Queue) : Bool :=
  s.ownerOf q.cb == part &&
    (List.range (2 ^ q.log2.toNat * 128 / 2 ^ 30 + 2)).all fun g =>
      s.ownerOf (Nat.min (q.ringbase.toNat + g * 2 ^ 30) (q.ringbase.toNat + 2 ^ q.log2.toNat * 128 - 1)) == part

/-- The lowest cause of R64 that holds; `enabling` as the queue is enabled. -/
def State.queueError (s : State) (k : Nat) (enabling : Bool) : Option Byte :=
  let q := s.queue k
  let part := s.queuePart k
  let others := s.queues.filter fun e => e.1 != k && s.queuePart e.1 == part && e.2.qstate == 1
  let sum (f : Queue → Byte) : Nat := others.foldl (fun n e => n + (f e.2).toNat) (f q).toNat
  let c := s.ctx q.ctx.toNat
  if 256 < sum Queue.memres ∨ 256 < sum Queue.fabres then some 1
  else if q.log2.toNat < 6 ∨ 16 < q.log2.toNat ∨ q.ringbase.toNat % 256 ≠ 0 ∨ q.reservedBad then some 2
  else if q.tail.toNat < q.head.toNat ∨ (!enabling ∧ 2 ^ q.log2.toNat < q.tail.toNat - q.head.toNat) ∨ 2 ^ 48 - 1 ≤ q.tail.toNat then some 3
  else if !s.ringOwned part q then some 4
  else if !q.ctxValid || c.desc == 0 || c.dying || bits c.desc 48 8 != part then some 6
  else none

/-- QSTATE and QERR as the engine writes them; a QCMD that does not act in the new state is not kept (R62). -/
def State.setQState (s : State) (k : Nat) (st err : Byte) : State :=
  (s.modQueue k fun q => { q with qstate := st, qerr := err, qcmd := if cmdActs q.qcmd st then q.qcmd else 0 }).writePa ((s.queue k).cb + 0x39) 0 [st, err]

/-- The engine acted on QCMD (R62). -/
def State.clearCmd (s : State) (k : Nat) : State :=
  (s.modQueue k fun q => { q with qcmd := 0 }).writePa ((s.queue k).cb + 0x38) 0 [0]

/-- CONTROL_BLOCK_REREAD (R62, R64). -/
def execControlBlockReread (queue : Nat) (s : State) : Host.Outcome State Fault Refusal :=
  if 1024 ≤ queue ∨ (s.queue queue).cbpa = 0 then .next s
  else
    let s := s.rereadBlock queue
    if (s.queue queue).qstate = 1 then
      match s.queueError queue false with
      | some e => .next (s.setQState queue 2 e)
      | none => .next s
    else .next s

/-- QCMD_ENABLE (R62, R64): packets below TAIL are skipped and recorded as KILLED (R69). -/
def execQcmdEnable (queue : Nat) (s : State) : Host.Outcome State Fault Refusal :=
  let q := s.queue queue
  if 1024 ≤ queue ∨ q.cbpa = 0 ∨ q.qcmd ≠ 1 ∨ q.qstate = 1 then .next s
  else
    match s.queueError queue true with
    | some e => .next ((s.setQState queue 2 e).clearCmd queue)
    | none =>
      let h := q.head.toNat
      let t := q.tail.toNat
      let from_ := Nat.max h (t - 65536)
      let s := s.modQueue queue fun q =>
        (List.range (t - from_)).foldl (fun q n => q.record (from_ + n) 1) { q with head := q.tail }
      .next (((s.writePa (q.cb + 8) 0 (toLe 8 t)).setQState queue 1 0).clearCmd queue)

/-- QCMD_DISABLE (R62). -/
def execQcmdDisable (queue : Nat) (s : State) : Host.Outcome State Fault Refusal :=
  let q := s.queue queue
  if 1024 ≤ queue ∨ q.cbpa = 0 ∨ q.qcmd ≠ 2 ∨ q.qstate ≠ 1 then .next s
  else .next ((s.setQState queue 0 q.qerr).clearCmd queue)

/-! ## The packet (R68) and the header (R19) -/

def Packet.coResident (p : Packet) : Bool := p.lflags % 2 == 1

/-- Check 1 of R71 for a packet n of a queue. -/
def State.packetOk (s : State) (queue n : Nat) (b : List Byte) : Bool :=
  let p := parsePacket b
  let depOk (d : W64) : Bool :=
    d == 0 || (let q := (d.toNat - 1) / 2 ^ 48
      decide (q < 1024) && s.queuePart q == s.queuePart queue && !(q == queue && decide (n ≤ (d.toNat - 1) % 2 ^ 48)))
  (p.kind == 1 || p.kind == 2) && packetReserved b && decide (p.lflags < 8) && p.compl.toNat % 32 == 0 && depOk p.dep0 && depOk p.dep1 &&
    (if p.kind = 2 then
      p.affinity == 0 && p.lflags % 2 == 0 && leAt b 8 40 == 0 && leAt b 0x48 12 == 0
    else
      decide (p.affinity ≤ 2) && p.gx != 0 && p.gy != 0 && p.gz != 0 && p.privpool.toNat % 65536 == 0)

/-- Two sections (offset, size) do not overlap. A section without a byte overlaps none, and lies within any object (DESIGN CHOICE, log
entry 116). -/
def apart (a b : Nat × Nat) : Bool := a.2 == 0 || b.2 == 0 || decide (a.1 + a.2 ≤ b.1) || decide (b.1 + b.2 ≤ a.1)

def pairwiseApart : List (Nat × Nat) → Bool
  | [] => true
  | a :: l => l.all (apart a) && pairwiseApart l

/-- Check 1 of R23. The header itself counts as a section that the others must not overlap (log entry 31). -/
def headerOk (h : List Byte) : Bool :=
  let objsize := leAt h 0x0C 4
  let code := (leAt h 0x38 4, leAt h 0x3C 4)
  let data := (leAt h 0x40 4, leAt h 0x44 4)
  let ng := leAt h 0x4C 1
  let grp := (leAt h 0x50 4, 8 * ng)
  let chm := (leAt h 0x54 4, if leAt h 0x54 4 = 0 then 0 else 1024)
  let entry := leAt h 0x30 8
  let secs := [(0, 256), code, data, grp, chm]
  leAt h 0 4 == 0x315A4C50 && leAt h 4 2 == 1 && leAt h 6 2 == 256 && objsize % 256 == 0 && code.1 % 256 == 0 && code.2 % 8 == 0 &&
    entry % 8 == 0 && decide (code.1 ≤ entry ∧ entry < code.1 + code.2) && !(data.1 == 0 && data.2 != 0) && decide (ng ≤ 64) &&
    grp.1 % 8 == 0 && !(ng == 0 && grp.1 != 0) && chm.1 % 256 == 0 && (secs.all fun x => x.2 == 0 || decide (x.1 + x.2 ≤ objsize)) &&
    pairwiseApart secs && leAt h 0x4D 3 == 0 && leAt h 0x58 168 == 0

/-- The limits of PARAM by kind (R32). -/
def paramOk (kind param stash : Nat) : Bool :=
  match kind with
  | 1 => decide (param ≤ 3)
  | 2 => decide (param ≤ 96)
  | 3 => decide (param ≤ 65535)
  | 4 => decide (param ≤ 1)
  | 5 => param % 64 == 0 && decide (param < stash)
  | 6 => decide (param ≤ 1023)
  | 7 => decide (param ≤ 15)
  | _ => false

/-- Group declarations as (SLOT, KIND, PARAM), and whether they keep R31 and R32. -/
def parseGroups (g : List Byte) (n : Nat) : List (Nat × Nat × Nat) :=
  (List.range n).map fun k => (leAt g (8 * k + 1) 1, leAt g (8 * k) 1, leAt g (8 * k + 4) 4)

def groupsOk (g : List Byte) (n stash : Nat) : Bool :=
  let ds := parseGroups g n
  (List.range n).all (fun k => leAt g (8 * k + 2) 2 == 0) && ds.all (fun d => decide (d.1 < 64) && paramOk d.2.1 d.2.2 stash) &&
    (ds.map (·.1)).eraseDups.length == n

def chmapsOk (c : List Byte) : Bool := c.all fun b => decide (b.toNat < 64) || b == 0xFF

def parseHeader (h g c : List Byte) : Header where
  flags := BitVec.ofNat 32 (leAt h 8 4)
  features := BitVec.ofNat 128 (leAt h 0x10 16)
  regs := leAt h 0x20 2
  waves := leAt h 0x22 1
  floor := leAt h 0x23 1
  stash := leAt h 0x24 4
  rolemap := BitVec.ofNat 64 (leAt h 0x28 8)
  entry := leAt h 0x30 8
  priv := leAt h 0x48 4
  groups := parseGroups g (leAt h 0x4C 1)
  chmaps := c

def Header.deterministic (h : Header) : Bool := h.flags.getLsbD 0
def Header.idempotent (h : Header) : Bool := h.flags.getLsbD 1
def Header.replayable (h : Header) : Bool := h.flags.getLsbD 2
def Header.check (h : Header) : Bool := h.flags.getLsbD 3
def Header.record (h : Header) : Bool := h.flags.getLsbD 4

/-- The checks of R23 in order: code and DETAIL of the first that fails. -/
def headerChecks (raw g c : List Byte) : Option (Byte × Byte) :=
  let h := parseHeader raw g c
  let lack : BitVec 128 := h.features &&& ~~~Config.devcap
  if !headerOk raw then some (0x11, 0)
  else if h.flags.toNat ≥ 32 ∨ (h.check ∧ h.record) then some (0x15, 0)
  else if lack ≠ 0 then some (0x10, BitVec.ofNat 8 (((List.range 128).find? fun i => lack.getLsbD i).getD 0))
  else if h.regs % 8 ≠ 0 ∨ h.regs < 8 ∨ 256 < h.regs ∨ 8192 < h.regs * h.waves then some (0x12, 0)
  else if h.stash % 256 ≠ 0 ∨ 524288 < h.stash ∨ h.priv % 4 ≠ 0 ∨ 65536 < h.priv then some (0x13, 0)
  else if h.waves < 1 ∨ 32 < h.waves ∨ h.rolemap.toNat / 2 ^ (2 * h.waves) ≠ 0 then some (0x14, 0)
  else if 4 < h.floor then some (0x17, 0)
  else if !groupsOk g (leAt raw 0x4C 1) h.stash || !chmapsOk c then some (0x16, 0)
  else none

/-! ## Room (R24, R70, R86) -/

/-- Bytes of a team's share of the private pool (R274). -/
def Header.share (h : Header) : Nat := (h.priv * 32 * h.waves + 65535) / 65536 * 65536

/-- How many shares the pool of a launch holds; 0 stands for no limit when PRIVATE = 0. -/
def Launch.shares (l : Launch) : Nat := if l.header.share = 0 then 0 else l.packet.privpages * 65536 / l.header.share

/-- Check 12 of R71 on the pool of a launch with PRIVATE > 0. -/
def Launch.noPool (l : Launch) : Bool := decide (l.packet.privpool.toNat = 0) || decide (l.shares = 0)

/-- An affinity table's entry (CORE, SLICE, reserved) breaks R87. -/
def affBad (cores slices : Nat) (e : Nat × Nat × Nat) : Bool := decide (cores ≤ e.1) || decide (slices ≤ e.2.1) || e.2.2 != 0

/-- The lowest free share of a launch's pool. -/
def State.freeShare (s : State) (lid : Nat) (l : Launch) : Option Nat :=
  if l.header.share = 0 then some 0
  else (List.range l.shares).find? fun k => !(s.teams.any fun t => t.2.launch == lid && t.2.share == k &&
    (match t.2.place with | .resident => true | .saved _ => true | _ => false))

/-- Wave slots, CNF vectors and stash bytes that teams hold on a core. -/
def State.held (s : State) (core : Nat) : Nat × Nat :=
  s.teams.foldl (fun acc t =>
    if t.2.core != core then acc
    else
      let h := (s.launches.get? t.2.launch).elim (0, 0) fun l => (l.header.regs * l.header.waves, l.header.stash)
      match t.2.place with
      | .resident => (acc.1 + h.1, acc.2 + h.2)
      | .draining => (acc.1, acc.2 + h.2)
      | _ => acc) (0, 0)

/-- Fits of R86: wave slots, CNF and stash of a core for one team. -/
def State.coreFits (s : State) (core : Nat) (h : Header) : Bool :=
  let u := s.held core
  decide ((s.core core).slots.length + h.waves ≤ 64) && decide (u.1 + h.regs * h.waves ≤ 8192) && decide (u.2 + h.stash ≤ 524288)

/-- Teams of a header that an empty core holds at once. -/
def Header.perCore (h : Header) : Nat :=
  let a := Nat.min (64 / h.waves) (8192 / (h.regs * h.waves))
  if h.stash = 0 then a else Nat.min a (524288 / h.stash)

/-- Check 14 of R71: whether all teams of a grid can be resident at once on an otherwise empty partition. -/
def Launch.coFits (l : Launch) : Bool :=
  let n := l.total
  let cap := l.header.perCore
  let lc := l.cores.length
  (l.header.share == 0 || decide (n ≤ l.shares)) && decide (0 < lc) &&
    (if l.header.deterministic then decide ((n + lc - 1) / lc ≤ cap)
     else if l.packet.affinity = 2 then
       let m := l.affinity.length
       let loads := (List.zip (List.range m) l.affinity).foldl (fun (acc : AMap Nat) e =>
         let c := e.2.1 % lc
         acc.set c (acc.getD c 0 + (n + m - 1 - e.1) / m)) []
       loads.all fun e => decide (e.2 ≤ cap)
     else decide (n ≤ cap * lc))

/-! ## Admission -/

/-- What admission leaves of a launch: a failure code with DETAIL, or the launch as it is admitted. An object that does not begin on a
256-byte boundary breaks the alignment of R19 (log entry 114). A CO-RESIDENT grid of several teams that would run serialised can
never be admitted at once (R56, R417; log entry 62). RECORD of a child grid's object is ignored (R415). -/
def State.examine (s : State) (l : Launch) : State × Except (Byte × Byte) Launch :=
  let co := l.packet.codeobj.toNat
  match s.readVa l.ctx l.terms co 256 with
  | (s, none) => (s, .error (0x1D, 0))
  | (s, some raw) =>
    let ng := leAt raw 0x4C 1
    let cm := leAt raw 0x54 4
    let (s, g?) := s.readVa l.ctx l.terms (co + leAt raw 0x50 4) (8 * ng)
    let (s, c?) := if cm = 0 then (s, some []) else s.readVa l.ctx l.terms (co + cm) 1024
    match g?, c? with
    | some g, some c =>
      let flags := leAt raw 8 4
      let dig := nbits flags 3 1 = 1 ∨ nbits flags 4 1 = 1
      let compl := l.packet.compl.toNat
      let root := l.parent.isNone
      let need : Need := ⟨true, true, false⟩
      let rec1 := compl = 0 ∨ (s.runsOf l.ctx l.part ⟨false, true, false⟩ compl 32).isSome
      let rec2 := compl = 0 ∨ ¬dig ∨ (s.runsOf l.ctx l.part need (compl + 32) 32).isSome
      if root ∧ ¬(rec1 ∧ rec2) then (s, .error (0x1D, 0))
      else
        match (if co % 256 = 0 then headerChecks raw g c else some (0x11, 0)) with
        | some e => (s, .error e)
        | none =>
          let h := parseHeader raw g (if cm = 0 then List.replicate 1024 0xFF else c)
          let l := { l with header := h, cores := s.logicalCores l.part }
          if l.packet.dx * l.packet.dy * l.packet.dz ≠ h.waves * 32 then (s, .error (0x19, 0))
          else if decide (0 < h.priv) && l.noPool then (s, .error (0x1B, 0))
          else
            let useTab := !h.deterministic && l.packet.affinity == 2
            let at_ := l.packet.afftab.toNat
            let (s, hd) := if useTab then s.readVa l.ctx l.terms at_ 16 else (s, some [])
            let n := leAt (hd.getD []) 4 4
            let (s, tab) := if useTab && decide (n ≤ 65536) then s.readVa l.ctx l.terms (at_ + 16) (4 * n) else (s, some [])
            let ents : List (Nat × Nat × Nat) := (List.range (if useTab then n else 0)).map fun e =>
              (leAt (tab.getD []) (4 * e) 2, leAt (tab.getD []) (4 * e + 2) 1, leAt (tab.getD []) (4 * e + 3) 1)
            let sh := (s.part l.part).share.length
            if useTab && (at_ % 16 != 0 || hd.isNone || tab.isNone || leAt (hd.getD []) 0 4 != 0x46544641 || n == 0 || decide (65536 < n) ||
                leAt (hd.getD []) 8 8 != 0 || ents.any (affBad l.cores.length sh)) then
              (s, .error (0x1C, 0))
            else
              let l := { l with affinity := ents.map fun (e : Nat × Nat × Nat) => (e.1, e.2.1) }
              if l.packet.coResident && !(l.coFits && (!(l.serial || (root && h.record)) || l.total == 1)) then (s, .error (0x1A, 0))
              else
                let (s, rd) := if root ∧ dig ∧ compl ≠ 0 then s.readVa l.ctx l.terms (compl + 32) 24 else (s, none)
                let l := { l with
                  refdig := BitVec.ofNat 64 (leAt (rd.getD []) 0 8)
                  dtab := BitVec.ofNat 64 (leAt (rd.getD []) 16 8)
                  serial := l.serial || (root && h.record) }
                (s, .ok l)
    | _, _ => (s, .error (0x1D, 0))

/-- A launch as its packet is read, before the checks. -/
def State.newLaunch (s : State) (lid : Nat) (p : Packet) (part ctx queue n : Nat) (q : Queue) : Launch where
  ident := queue * 2 ^ 48 + n + 1
  root := lid
  parent := none
  ctx := ctx
  part := part
  queue := queue
  packetNo := n
  packet := p
  header := ⟨0, 0, 0, 0, 0, 0, 0, 0, 0, [], []⟩
  affinity := []
  depth := 0
  deadline := if q.reldl = 0 then BitVec.allOnes 64 else s.tsc + q.reldl.setWidth 64
  prio := q.prio.toNat
  st := .waiting
  fail := 0
  detail := 0
  startTsc := 0
  nextTeam := 0
  retired := 0
  ready := []
  serial := false
  reexec := false
  folded := 0
  gdigest := 0
  gcount := 0
  early := []
  refdig := 0
  obsdig := 0
  dtab := 0
  cores := s.logicalCores part
  late := false
  waitSince := none
  drain := none

/-- The launches of a queue that are incomplete. -/
def State.ofQueue (s : State) (queue : Nat) : List (Nat × Launch) :=
  s.launches.filter fun l => l.2.queue == queue && l.2.parent.isNone

/-- Whether a partition runs and its halt line is not raised. -/
def State.running (s : State) (part : Nat) : Bool := (s.part part).pstate == 1 && (s.part part).causes.isEmpty

/-- PACKET_CONSUME (R65, R67, R71, R74): the next packet of an enabled queue. Its slot is read in one step, so of the mixtures of old and
new elements that a slot written too early allows, none occurs (DESIGN CHOICE, log entry 60). -/
def execPacketConsume (queue : Nat) (s : State) : Host.Outcome State Fault Refusal :=
  let q := s.queue queue
  let part := s.queuePart queue
  let mine := s.ofQueue queue
  let host := (s.part part).modes.getLsbD 3
  if 1024 ≤ queue ∨ q.qstate ≠ 1 ∨ q.tail.toNat ≤ q.head.toNat ∨ !s.running part ∨ 4096 ≤ mine.length ∨
      (mine.any fun l => match l.2.st with | .waiting => true | .coWaiting => true | .placing => !l.2.reexec | _ => false) ∨
      (host ∧ q.grants = 0) ∨ s.withheldAt (q.ringbase.toNat + q.head.toNat % 2 ^ q.log2.toNat * 128) 128 then .next s
  else
    let n := q.head.toNat
    let slot := q.ringbase.toNat + n % 2 ^ q.log2.toNat * 128
    let b := s.readSeen slot 128 0
    let lid := s.nextUid
    let l := s.newLaunch lid (parsePacket b) part q.ctx.toNat queue n q
    let s := ({ s with nextUid := lid + 1 }.modQueue queue fun q =>
      { q with head := q.head + 1, grants := if host then q.grants - 1 else q.grants }).writePa (q.cb + 8) 0 (toLe 8 (n + 1))
    let fail (s : State) (e : Byte × Byte) : State :=
      { s with launches := s.launches.set lid l }.completeLaunch lid e.1 e.2
    if !s.packetOk queue n b then .next (fail s (0x18, 0))
    else if l.packet.kind = 2 then
      (if l.packet.compl = 0 ∨ (s.runsOf l.ctx l.part ⟨false, true, false⟩ l.packet.compl.toNat 32).isSome then
        .next { s with launches := s.launches.set lid l }
      else .next (fail s (0x1D, 0)))
    else
      match s.examine l with
      | (s, .error e) => .next (fail s e)
      | (s, .ok l) => .next { s with launches := s.launches.set lid l }

/-! ## Dependences -/

/-- How a dependence stands: met, still open, or failed with DETAIL. -/
inductive Dep where
  | met | waits | failed (detail : Byte)
  deriving DecidableEq, Repr

/-- Whether every team of a launch has been placed. -/
def Launch.allPlaced (l : Launch) : Bool :=
  l.reexec || (match l.st with
    | .placed => true
    | .digestWait => true
    | _ => false)

/-- How a dependence stands. A MARKER has no teams; one that still waits satisfies a PLACED dependence when it completes (DESIGN CHOICE,
log entry 117). -/
def State.dependence (s : State) (d : W64) (k : Nat) (complete : Bool) : Dep :=
  if d = 0 then .met
  else
    match s.launches.find? fun l => l.2.ident == d.toNat && l.2.parent.isNone with
    | some l => if !complete && l.2.allPlaced then .met else .waits
    | none =>
      let q := s.queue ((d.toNat - 1) / 2 ^ 48)
      let n := (d.toNat - 1) % 2 ^ 48
      if q.head.toNat ≤ n then .waits
      else if n + 65536 < q.head.toNat then .failed (BitVec.ofNat 8 (k + 2))
      else match q.outcomes.get? n with
        | none => .failed (BitVec.ofNat 8 (k + 2))
        | some c => if c = 0 then .met else .failed (BitVec.ofNat 8 k)

/-- DEPENDENCE_SATISFIED (R69): a waiting launch proceeds, or completes with DEPFAIL; a MARKER completes (R68). -/
def execDependenceSatisfied (launch : Nat) (s : State) : Host.Outcome State Fault Refusal :=
  match s.launches.get? launch with
  | none => .next s
  | some l =>
    if l.st ≠ .waiting ∨ !s.running l.part then .next s
    else
      let f (d : W64) (k : Nat) : Dep := s.dependence d k (nbits l.packet.lflags (k + 1) 1 == 1)
      match f l.packet.dep0 0, f l.packet.dep1 1 with
      | .failed e, _ => .next (s.completeLaunch launch 4 e)
      | _, .failed e => .next (s.completeLaunch launch 4 e)
      | .met, .met =>
        if l.packet.kind = 2 then .next (s.completeLaunch launch 0 0)
        else .next (s.modLaunch launch fun l => { l with st := if l.packet.coResident && !l.serial then .coWaiting else .placing })
      | _, _ => .next s

/-! ## Child grids (R77) -/

/-- CHILD_LAUNCH (R77, R167): the checks of a grid that GLAUNCH handed over. -/
def execChildLaunch (launch : Nat) (s : State) : Host.Outcome State Fault Refusal :=
  match s.launches.get? launch with
  | none => .next s
  | some l =>
    if l.st ≠ .handed ∨ !s.running l.part then .next s
    else if l.fail ≠ 0 then .next (s.completeLaunch launch l.fail 0)
    else
      match s.examine l with
      | (s, .error e) => .next (s.completeLaunch launch e.1 e.2)
      | (s, .ok l') =>
        let st : LaunchState := if l'.packet.coResident && !l.serial then .coWaiting else .placing
        .next { s with launches := s.launches.set launch { l' with serial := l.serial, st := st } }

end Sys2Proof.Machine
end

