-- ==== Sys2Proof/Machine/Place.lean ====
section
/-! DEFINITION. Placement of teams and their binding tables (R32-R36, R54, R56, R70, R84-R86), retirement of teams and grids
(R49-R51, R412-R418), and serialised execution (R417). -/

namespace Sys2Proof.Machine

/-! ## Binding tables -/

/-- The core that a NEIGHBOUR declaration names (R32, R36). -/
def State.neighbour (s : State) (part core dir : Nat) : Option Nat :=
  let k := core / 36
  let cl := core % 36 / 4
  let x := 3 * (k % 6) + cl % 3
  let y := 3 * (k / 6) + cl / 3
  let target : Option (Nat × Nat) := match dir with
    | 0 => if x < 17 then some (x + 1, y) else none
    | 1 => if 0 < x then some (x - 1, y) else none
    | 2 => if 0 < y then some (x, y - 1) else none
    | _ => if y < 11 then some (x, y + 1) else none
  match target with
  | none => none
  | some (x, y) =>
    let k' := x / 3 + 6 * (y / 3)
    let c' := x % 3 + 3 * (y % 3)
    if (s.spindle k').part ≠ part then none
    else
      let on := (s.spindle k').enabled.filter fun p => p / 4 == c'
      if on.contains (c' * 4 + core % 4) then some (k' * 36 + c' * 4 + core % 4)
      else on.head?.map fun p => k' * 36 + p

/-- One declaration resolved (R32, R34) for a team on a core with a share index. A PEERLIST of 0 is no peer list, so every PEER
declaration is ABSENT (DESIGN CHOICE, log entry 118). -/
def State.resolve (s : State) (part core h kind param : Nat) : Bind :=
  let absent : Bind := ⟨kind, true, 0, param, 0⟩
  match kind with
  | 1 => match s.neighbour part core param with
    | some c => ⟨1, false, coreSource c, param, 0⟩
    | none => absent
  | 2 => match (s.part part).share[if param = 0 then h else param - 1]? with
    | some k => ⟨2, false, sliceSource k, param, 0⟩
    | none => absent
  | 3 =>
    let base := (s.part part).peerlist.toNat
    let ix := if param < 2 then param else param - 2
    if base = 0 ∨ s.ownerOf base ≠ part ∨ s.readPa base 8 ≤ ix then absent
    else ⟨3, false, 0, param, BitVec.ofNat 64 (s.readPa (base + 8 + 8 * ix) 8)⟩
  | 4 => ⟨4, false, coreSource core, param, 0⟩
  | 5 => ⟨5, false, coreSource core, param, BitVec.ofNat 64 param⟩
  | 6 =>
    if s.queuePart param ≠ part ∨ (s.queue param).cbpa = 0 then absent
    else ⟨6, false, engineSource part, param, BitVec.ofNat 64 (s.queue param).cb⟩
  | _ => if (s.port param).partmask.getLsbD part then ⟨7, false, 0, param, 0⟩ else absent

/-- A peer list in a granule that the partition does not own, which the bindings of a launch name, halts the partition (R8, R260). -/
def State.checkPeers (s : State) (l : Launch) : State :=
  let base := (s.part l.part).peerlist
  if base ≠ 0 ∧ l.header.groups.any (fun d => d.2.1 == 3) ∧ s.ownerOf base.toNat ≠ l.part then
    s.raise l.part .permission (engineSource l.part) base 0 l.ctx l.ident
  else s

/-- The 64 entries of a team's table. -/
def State.bindings (s : State) (l : Launch) (core h : Nat) : List Bind :=
  (List.range 64).map fun k =>
    match l.header.groups.find? fun d => d.1 == k with
    | some d => s.resolve l.part core h d.2.1 d.2.2
    | none => ⟨0, true, 0, 0, 0⟩

/-! ## Choosing a core (R85, R86, R417) -/

/-- TileHash of R86. -/
def tileHash (tx ty tz : Nat) : Nat :=
  let h := ((tx * 0x9E3779B1) ^^^ (ty * 0x85EBCA77) ^^^ (tz * 0xC2B2AE3D)) % 2 ^ 32
  h ^^^ (h / 2 ^ 16)

/-- The core of a die with room and the most free wave slots, the lower logical number on ties. -/
def State.bestOfDie (s : State) (cores : List Nat) (h : Header) : Option Nat :=
  (cores.filter fun c => s.coreFits c h).foldl (fun acc c => match acc with
    | none => some c
    | some b => if (s.core c).slots.length < (s.core b).slots.length then some c else some b) none

/-- A list from position n on, with wrap-around. -/
def rotate {α : Type} (l : List α) (n : Nat) : List α := l.drop n ++ l.take n

/-- The physical core and share index of team i, when it can be placed now. -/
def State.target (s : State) (lid : Nat) (l : Launch) (i : Nat) : Option (Nat × Nat) :=
  let lc := l.cores.length
  let sc := (s.part l.part).share.length
  if lc = 0 ∨ sc = 0 ∨ (s.freeShare lid l).isNone then none
  else
    let at_ (n h : Nat) : Option (Nat × Nat) := match l.cores[n % lc]? with
      | some c => if s.coreFits c l.header then some (c, h % sc) else none
      | none => none
    if l.serial then at_ l.depth i
    else if l.header.deterministic then at_ i i
    else
      match l.packet.affinity with
      | 0 => ((rotate l.cores (i % lc)).find? fun c => s.coreFits c l.header).map fun c => (c, i % sc)
      | 1 =>
        let dies := l.dies
        let h := tileHash (i % l.packet.gx / 4) (i / l.packet.gx % l.packet.gy / 4) (i / (l.packet.gx * l.packet.gy))
        ((rotate dies (h % dies.length)).findSome? fun d =>
          s.bestOfDie (l.cores.filter fun c => c / 36 == d) l.header).map fun c => (c, h / dies.length % sc)
      | _ => match l.affinity[i % l.affinity.length]? with
        | some e => at_ e.1 e.2
        | none => none

/-! ## Placing a team (R44, R70) -/

/-- The registers of a wave given names on a core (R70, R137, R138). -/
def Core.nameWave (c : Core) (w : Wave) : Core × Wave :=
  if w.threads.all (· == .exited) then (c, { w with names := [] })
  else
  let r := w.vregs.foldl (fun (acc : Core × List Nat) v => let x := acc.1.insert v; (x.1, acc.2 ++ [x.2])) (c, [])
  (r.1, { w with names := r.2 })

/-- Wave slots taken and names given on a core for the waves of a team: the lowest free slots, in the order of the waves (DESIGN
CHOICE, log entry 119). A wave that exited as a whole has no names (R43). Counts of core cycles are those of another core's clock
and start again. -/
def State.seat (s : State) (t : Nat) : State :=
  match s.teams.get? t with
  | none => s
  | some tm =>
    let c := s.core tm.core
    let slots := (List.range 64).filter fun k => (c.slots.get? k).isNone
    let r := (List.zip slots tm.waves).foldl (fun (acc : Core × AMap Wave) x =>
      let y := acc.1.nameWave { x.2.2 with
        slot := x.1, active := false, passCount := 0, eligibleSince := some (s.cycleOf tm.core), cache := [], notBefore := List.replicate 32 0 }
      ({ y.1 with slots := y.1.slots.set x.1 (t, x.2.1) }, acc.2.set x.2.1 y.2)) (c, [])
    (s.modCore tm.core fun _ => r.1).modTeam t fun tm => { tm with waves := r.2, place := .resident }

/-- A team in its initial state. -/
def State.newTeam (s : State) (lid : Nat) (l : Launch) (i core h : Nat) : Team where
  launch := lid
  index := i
  tx := i % l.packet.gx
  ty := i / l.packet.gx % l.packet.gy
  tz := i / (l.packet.gx * l.packet.gy)
  core := core
  coreLog := l.cores.idxOf core
  dieLog := l.dies.idxOf (core / 36)
  share := (s.freeShare lid l).getD 0
  waves := (List.range l.header.waves).map fun w =>
    (w, Wave.placed 0 (match bits l.header.rolemap (2 * w) 2 with | 0 => .gen | 1 => .cpy | 2 => .mtx | _ => .vec)
      l.header.regs l.packet.args (l.packet.codeobj + BitVec.ofNat 64 l.header.entry) s.time)
  bind := s.bindings l core h
  stash := []
  maps := []
  privBase := l.packet.privpool.toNat + (s.freeShare lid l).getD 0 * l.header.share
  undefAt := []
  ver := (s.ctx l.ctx).ver
  fvc := false
  digest := 0
  contribs := 0
  kids := List.replicate 16 ⟨0, .free⟩
  place := .resident
  debugSaved := none
  debugImage := []
  started := false
  readmitSince := none

/-- The private memory of a team's threads holds undefined contents from placement on (R70): PRIVATE × 32 × WAVES bytes from the
base of its share (R274), page by page. -/
def State.undefinePrivate (s : State) (l : Launch) (t : Nat) : State :=
  let len := l.header.priv * 32 * l.header.waves
  match s.teams.get? t with
  | none => s
  | some tm =>
    let pages := (List.range (if len = 0 then 0 else (tm.privBase + len - 1) / 65536 - tm.privBase / 65536 + 1)).map (tm.privBase / 65536 + ·)
    pages.foldl (fun s p => s.undefinePage t (p * 65536)) (s.modTeam t fun tm => { tm with undefAt := pages })

/-- Team i placed on a core. It inherits at once what waiters have lent to objects of which it is an outstanding participant (R368). -/
def State.placeTeam (s : State) (lid : Nat) (l : Launch) (i core h : Nat) : State :=
  let t := s.nextUid
  let tm := s.newTeam lid l i core h
  let s := ({ s with nextUid := t + 1, teams := s.teams.set t tm }.undefinePrivate l t).seat t |>.inheritAnew t |>.checkPeers l
  s.modLaunch lid fun l =>
    let again := l.ready.contains i
    let n := if again then l.nextTeam else l.nextTeam + 1
    { l with
      ready := l.ready.erase i
      nextTeam := n
      waitSince := none
      startTsc := if i = 0 ∧ !again ∧ !l.reexec then s.tsc else l.startTsc
      st := if n = l.total then .placed else l.st }

/-- The index of the team that a launch places next: restarts first (R91). -/
def Launch.nextIndex (l : Launch) : Option Nat :=
  match l.ready with
  | i :: _ => some i
  | [] => if l.nextTeam < l.total then some l.nextTeam else none

def ChildSlot.isLive (k : ChildSlot) : Bool := match k.st with
  | .live _ => true
  | _ => false

/-- Whether a saved wait's condition is met by its object's state now. A stash object or ring of the team's own cannot be. -/
def State.waitMet (s : State) (t : Nat) (tm : Team) (l : Launch) (w : Wave) (x : Wait) : Bool :=
  w.replies == 0 && (match x.wake with
    | .bwait true _ _ => false
    | .bwait false va ph => (match s.barPa t va with
      | some (pa, key) => barHolds (s.readSeen pa 64 key) ph
      | none => true)
    | .ringPop _ => false
    | .push k => (match tm.bind[k]? with
      | some b => b.kind != 5 && s.channelMet tm l.part x.wake
      | none => true)
    | .recv _ => s.channelMet tm l.part x.wake
    | .remote op => !(w.ops.any fun o => o.id == op && !o.ready)
    | .gjoin k => !(tm.kids.getD k ⟨0, .free⟩).isLive
    | .fault ps => ps.isEmpty
    | .yield => true)

/-- Whether a saved team has a wake condition that is met, whether or not it has been evaluated (R54, R407). -/
def State.metSaved (s : State) (t : Nat) (tm : Team) (l : Launch) : Bool :=
  (match tm.place with | .saved _ => true | _ => false) &&
    (tm.readmitSince.isSome || tm.waves.any fun w => w.2.waits.any fun x => s.waitMet t tm l w.2 x)

/-- Whether a launch may place teams: its state, its parent grid (R77), teams of its grid waiting for re-admission (R54), the
halt line, and CO-RESIDENT grids of higher priority that wait (R71). -/
def State.mayPlace (s : State) (lid : Nat) (l : Launch) : Bool :=
  s.running l.part &&
    (match l.st with | .placing => true | .placed => !l.ready.isEmpty | _ => false) &&
    (l.serial || (match l.parent with
      | some (t, _) => (match s.teams.get? t with
        | some tm => (match s.launches.get? tm.launch with
          | some p => p.allPlaced
          | none => false)
        | none => false)
      | none => true)) &&
    !(s.teams.any fun t => t.2.launch == lid && s.metSaved t.1 t.2 l) &&
    !(s.launches.any fun o => o.2.part == l.part && o.2.st == .coWaiting && decide (l.prio < o.2.prio)) &&
    (!l.serial || !(s.teams.any fun t => t.2.launch == lid))

/-- Order of service among launches (R67). -/
def Launch.before (a b : Launch) : Bool :=
  decide (b.prio < a.prio) || (a.prio == b.prio &&
    (decide (a.deadline.toNat < b.deadline.toNat) || (a.deadline == b.deadline && decide (a.queue < b.queue))))

/-- What a launch would place now. -/
def State.ready? (s : State) (lid : Nat) (l : Launch) : Option (Nat × Nat × Nat) :=
  if !s.mayPlace lid l then none
  else match l.nextIndex with
    | none => none
    | some i => (s.target lid l i).map fun x => (i, x)

/-- Every remaining team of a launch placed one after the other; `none` when one does not fit. -/
def State.placeAll (lid : Nat) : Nat → State → Option State
  | 0, s => some s
  | n + 1, s =>
    match s.launches.get? lid with
    | none => none
    | some l =>
      if l.nextTeam = l.total then some s
      else match s.target lid l l.nextTeam with
        | none => none
        | some (c, h) => (s.placeTeam lid l l.nextTeam c h).placeAll lid n

/-- The state after the admission of a CO-RESIDENT grid, when all its teams fit at this moment (R56, R71). -/
def State.admitAll (s : State) (lid : Nat) (l : Launch) : Option State :=
  let parentPlaced := match l.parent with
    | some (t, _) => ((s.teams.get? t).bind fun tm => s.launches.get? tm.launch).elim false Launch.allPlaced
    | none => true
  if l.st ≠ .coWaiting ∨ !s.running l.part ∨ !parentPlaced then none else s.placeAll lid (l.total + 1)

/-- Whether another launch of the partition is served before one: it precedes it and has something to place now (R67), or it is a
CO-RESIDENT grid of higher priority that waits (R71). -/
def State.servedFirst (s : State) (lid : Nat) (l : Launch) : Bool :=
  s.launches.any fun o => o.1 != lid && o.2.part == l.part &&
    ((o.2.st == .coWaiting && decide (l.prio < o.2.prio)) ||
      (o.2.before l && ((s.ready? o.1 o.2).isSome || (s.admitAll o.1 o.2).isSome)))

/-- The next team of a launch placed (a launch without room notes since when it waits, R405), unless a launch that is served before
it has one that fits (R67). -/
def State.placeNext (s : State) (lid : Nat) (serial : Bool) : State :=
  match s.launches.get? lid with
  | none => s
  | some l =>
    if l.serial ≠ serial then s
    else match s.ready? lid l with
      | none =>
        if s.mayPlace lid l then s.modLaunch lid fun l => { l with waitSince := some (l.waitSince.getD s.time) } else s
      | some (i, c, h) => if s.servedFirst lid l then s else s.placeTeam lid l i c h

/-- TEAM_PLACE (R85, R86). -/
def execTeamPlace (launch : Nat) (s : State) : Host.Outcome State Fault Refusal := .next (s.placeNext launch false)

/-- SERIALISED_EXECUTION (R417). -/
def execSerialisedExecution (launch : Nat) (s : State) : Host.Outcome State Fault Refusal := .next (s.placeNext launch true)

/-- CO_RESIDENT_ADMIT (R56, R71): all teams at one moment, or none, in the order of R67. -/
def execCoResidentAdmit (launch : Nat) (s : State) : Host.Outcome State Fault Refusal :=
  match s.launches.get? launch with
  | none => .next s
  | some l => if s.servedFirst launch l then .next s else .next ((s.admitAll launch l).getD s)

/-! ## Retirement of teams (R49, R50, R412) -/

def Team.allExited (tm : Team) : Bool := tm.waves.all fun w => w.2.exited == BitVec.allOnes 32
def Team.idle (tm : Team) : Bool := tm.waves.all fun w => w.2.mem == 0 && w.2.cpy == 0 && w.2.mtx == 0 && w.2.net == 0 && w.2.ops.isEmpty

/-- Team digests folded in ascending index (R415). -/
def Launch.fold : Nat → Launch → Launch
  | 0, l => l
  | n + 1, l =>
    match l.early.get? l.folded with
    | some (d, c) => ({ l with gdigest := l.gdigest + d, gcount := l.gcount + c, early := l.early.erase l.folded, folded := l.folded + 1 } : Launch).fold n
    | none => l

/-- A team's digest and count reach the queue engine; DTAB holds the digest (R412, R415, R416). -/
def State.deliverDigest (s : State) (lid : Nat) (l : Launch) (tm : Team) : State :=
  if !s.digesting l then s
  else
    let s := if l.dtab = 0 then s else s.writeVa l.ctx l.terms (l.dtab.toNat + 8 * tm.index) (toLe 8 tm.digest.toNat)
    s.modLaunch lid fun l => ({ l with early := l.early.set tm.index (tm.digest, tm.contribs) } : Launch).fold (l.early.length + 1)

/-- A draining team gives up its slots and CNF reservation (R50). -/
def State.drainTeam (s : State) (t : Nat) : State :=
  match s.teams.get? t with
  | none => s
  | some tm =>
    (s.modCore tm.core fun c => tm.waves.foldl (fun c w => w.2.names.foldl Core.release { c with slots := c.slots.erase w.2.slot }) c).modTeam
      t fun tm => { tm with place := .draining }

/-- TEAM_RETIRE (R412, R49, R50). -/
def execTeamRetire (team : Nat) (s : State) : Host.Outcome State Fault Refusal :=
  match s.teams.get? team with
  | none => .next s
  | some tm =>
    match s.launches.get? tm.launch with
    | none => .next s
    | some l =>
      let here := match tm.place with | .resident => true | .draining => true | _ => false
      if !here || !tm.allExited || !s.running l.part || (s.spindle (tm.core / 36)).fenced then .next s
      else if tm.kids.any ChildSlot.isLive then
        .next (if tm.place = .resident then s.drainTeam team else s)
      else if !tm.idle then .next s
      else
        let s := s.cleanTeamStash team l.terms
        if (s.teams.get? team).any fun t => !t.dirtyStash.isEmpty then .next s
        else .next (((s.deliverDigest tm.launch l tm).removeTeam team).modLaunch tm.launch fun l => { l with retired := l.retired + 1 })

/-! ## Retirement of grids (R51, R412, R416-R418) -/

/-- The digest record but REFDIG (R416), and REFDIG for RECORD. -/
def State.digestRecord (s : State) (l : Launch) (obs : W64) (outcome : Nat) : State :=
  let at_ := l.packet.compl.toNat + 32
  if l.packet.compl = 0 ∨ l.packet.compl.toNat % 32 ≠ 0 then s
  else
    let s := if outcome = 3 then s.writeVa l.ctx l.terms at_ (toLe 8 obs.toNat) else s
    (s.writeVa l.ctx l.terms (at_ + 8) (toLe 8 obs.toNat)).writeVa l.ctx l.terms (at_ + 24)
      (toLe 8 (l.gcount.toNat % 2 ^ 48 * 2 ^ 16 + outcome))

/-- A launch starts its serialised re-execution (R418). -/
def Launch.again (l : Launch) : Launch :=
  { l with st := .placing, drain := none, serial := true, reexec := true, nextTeam := 0, retired := 0, ready := [], folded := 0, gdigest := 0,
           gcount := 0, early := [], obsdig := if l.reexec then l.obsdig else l.gdigest }

/-- GRID_RETIRE (R51, R412, R418). A root launch goes on when every store of it has propagated: a completion record, an event to the host
and a re-execution all follow them. -/
def execGridRetire (launch : Nat) (s : State) : Host.Outcome State Fault Refusal :=
  match s.launches.get? launch with
  | none => .next s
  | some l =>
    let retired := l.st = .placed ∧ l.retired = l.total
    if !s.running l.part ∨ ¬(retired ∨ l.st = .ending) then .next s
    else if l.parent.isSome then .next (s.completeLaunch launch 0 0)
    else match s.drainFor launch l with
    | some s' => .next s'
    | none =>
      let done (s : State) : State := s.completeLaunch launch 0 0
      if l.st = .ending then .next (s.finishLaunch launch l.fail l.detail) else
      if l.header.record then .next (done (s.digestRecord l l.gdigest 3))
      else if !l.header.check || l.packet.compl == 0 then .next (done s)
      else if l.reexec then .next (done (s.digestRecord l l.obsdig (if l.gdigest = l.refdig then 2 else 4)))
      else if l.gdigest = l.refdig then .next (done (s.digestRecord l l.gdigest 1))
      else if l.header.replayable && !l.packet.coResident then
        if (s.part l.part).modes.getLsbD 2 then
          .next ((s.partEvent (engineSource l.part) 8 l.part l.ident).modLaunch launch fun l => { l with st := .digestWait })
        else .next { (s.modLaunch launch Launch.again) with mgrEvents := s.mgrEvents ++ [.digest l.ident] }
      else .next (s.raise l.part .digest (engineSource l.part) 0 0 l.ctx l.ident)

end Sys2Proof.Machine
end

