-- ==== Sys2Proof/Machine/Child.lean ====
section
/-! DEFINITION. GLAUNCH and GJOIN (R166-R169). -/

namespace Sys2Proof.Machine

/-- The leader-only check (R52): the active lanes are lane 0 of wave 0. -/
def Iss.leaderCheck (i : Iss) : Option Trap :=
  if i.wid = 0 ∧ i.act = 1 then none else some ⟨.illegal, 0, 8, 7, i.act, 0, 1⟩

/-- How many child grids are live, or about to be, in the package (R77). -/
def State.liveKids (s : State) : Nat :=
  (s.launches.filter fun l => l.2.parent.isSome).length + s.teams.foldl (fun n t => n + t.2.owedKids) 0

/-- GLAUNCH reads its packet as an SC load at PKG scope (R166, R278). -/
def Iss.packetRead (i : Iss) : Iss := { i with f := { i.f with c := .ord .sc .pkg .plain 0 } }

/-- GLAUNCH (R166): a release in every domain at PKG, an SC read of the 128 bytes, and the child handed over. A packet in memory is
asked for; its wait is a class V interlock, no blocking point (R360). -/
def execGlaunch (f : Form) (s : State) := issue 0x020 f s fun i =>
  let ea := i.ea s 0
  match i.leaderCheck with
  | some t => .trap t
  | none =>
    if 10 ≤ i.launch.depth then .trap ⟨.depth, 0, 8, 0, i.act, 0, 10⟩
    else if ea % 128 ≠ 0 then .trap ⟨.align, 2, 8, 0, i.act, BitVec.ofNat 64 ea, 0⟩
    else if 16 ≤ i.team.liveKids ∨ 16384 ≤ s.liveKids then
      .done ((s.popSources i).startOp i (i.resultOp s [Vec.splat ⟨joinWord 1 0 0 0, 0⟩]))
    else
      match s.release i s.nextOp allDoms .pkg with
      | some s' => waiting s'
      | none =>
        let need : Need := ⟨true, false, false⟩
        let as : List LaneAcc := [⟨0, ea, 128, s.access (i.who 0) ea 128 true need .sc⟩]
        match i.packetRead.verdict s as need with
        | .error e => e
        | .ok ps =>
          let s := s.fillTlbs i as
          match i.packetRead.loadWait s as ps with
          | some s' => waiting s'
          | none =>
          let (s, got, miss) := ps.foldl (State.loadPiece i.tid i.wid i.team.core true true) (s, [], [])
          let o := { i.packetRead.memOp s .glaunch ps with got := got, regs := i.dstRegs, counted := none, isRemote := false }
          let s := s.popSources i
          if miss.isEmpty then
            let r := s.handOver i.tid (o.laneBytes 0 128)
            .done (r.1.startOp i (i.resultOp s [Vec.splat ⟨r.2, 0⟩]))
          else
            let (s, nr) := s.askRemote i.packetRead o.id .sc miss
            let (s, nl) := s.askLines i.packetRead o.id miss
            .done (s.beginMem i { o with need := nr + nl })

/-- The child slot that GJOIN names, and whether the generation matches (R169). -/
def Iss.joinSlot (i : Iss) (s : State) : Nat × ChildSlot × Bool :=
  match i.f.ext with
  | some e => let k := bits e 0 4; (k, i.team.kids.getD k ⟨0, .free⟩, true)
  | none =>
    let x := (lane32 (i.srcA s) 0).toNat
    let k := i.team.kids.getD (x % 16) ⟨0, .free⟩
    (x % 16, k, k.gen.toNat == nbits x 4 12)

/-- GJOIN (R169). A wait is a blocking point: the subset issues again when the child has retired. -/
def execGjoin (f : Form) (s : State) := issue 0x021 f s fun i =>
  match i.leaderCheck with
  | some t => .trap t
  | none =>
    let (k, slot, same) := i.joinSlot s
    let answer (s : State) (w : W32) : Eff := .done ((s.popSources i).startOp i (i.resultOp s [Vec.splat ⟨w, 0⟩]))
    match slot.st, same with
    | _, false => answer s (joinWord 3 0 slot.gen k)
    | .free, _ => answer s (joinWord 3 0 slot.gen k)
    | .live _, _ => if i.f.mod = 0 then .block (.gjoin k) else answer s (joinWord 2 0 slot.gen k)
    | .retired code, _ =>
      let s := (s.acquire i.team.core allDoms .pkg false).modTeam i.tid fun tm =>
        { tm with kids := modAt tm.kids k fun x => { x with st := .free } }
      answer s (joinWord 0 code.toNat slot.gen k)

end Sys2Proof.Machine
end

