-- ==== Sys2Proof/Machine/Float.lean ====
section
/-! DEFINITION. Floating-point arithmetic and special functions (R212-R224), FSETMODE and FFLAGS (R233, R234). -/

namespace Sys2Proof.Machine

/-- Check 7 on the sources in field order; an immediate always passes (R99, R206). -/
def Iss.checkTags (i : Iss) (l : List (Nat × List Vec × List Nat)) : Option Trap :=
  l.findSome? fun (fld, vs, req) => if fld == 3 && i.immB then none else i.checkTag fld i.act vs req

/-- One vector of FP results by lane, with a tag and the flags raised. -/
def fpOut (tag : Nat) (g : Nat → Nat × Flg) : Out :=
  let rs := lanes32.map g
  { vecs := [rs.map fun r => ⟨BitVec.ofNat 32 r.1, BitVec.ofNat 4 tag⟩], flags := rs.map (·.2) }

/-- A pair of FP64 results. -/
def fpOut64 (g : Nat → Nat × Flg) : Out :=
  let rs := lanes32.map g
  { vecs := [rs.map fun r => ⟨BitVec.ofNat 32 r.1, 10⟩, rs.map fun r => ⟨BitVec.ofNat 32 (r.1 / 2 ^ 32), 11⟩]
    flags := rs.map (·.2) }

/-- A checked result: TAG when a source fails check 7. -/
def Iss.tagged (i : Iss) (l : List (Nat × List Vec × List Nat)) (o : Out) : Except Trap Out :=
  match i.checkTags l with
  | some t => .error t
  | none => .ok o

/-- FP32 lane arithmetic by opcode (R216, R217): FADD, FSUB, FMUL, FFMA (MOD bit 4 `.neg`), FMIN, FMAX. -/
def f32Lane (opc : Nat) (rm : BitVec 2) (ftz neg : Bool) (a b c : Nat) : Nat × Flg :=
  match opc with
  | 0x180 => fmtF32.add rm ftz false a b
  | 0x181 => fmtF32.add rm ftz true a b
  | 0x182 => fmtF32.mul rm ftz a b
  | 0x183 => fmtF32.fma rm ftz neg a b c
  | 0x184 => (fmtF32.minMax ftz false a b, 0)
  | _ => (fmtF32.minMax ftz true a b, 0)

def f32Out (i : Iss) (s : State) : Except Trap Out :=
  let va := i.srcA s
  let vb := i.srcB s
  let vc := i.srcC s
  let (rm, ftz) := i.readMode s
  i.tagged ([(2, va, [1]), (3, vb, [1])] ++ (if i.opc = 0x183 then [(4, vc, [1])] else []))
    (fpOut 1 fun l => f32Lane i.opc rm ftz (i.f.mod.getLsbD 4) (lane32 va l).toNat (lane32 vb l).toNat (lane32 vc l).toNat)

def execFadd (f : Form) (s : State) := issueFixed 0x180 f s fun i => f32Out i s
def execFsub (f : Form) (s : State) := issueFixed 0x181 f s fun i => f32Out i s
def execFmul (f : Form) (s : State) := issueFixed 0x182 f s fun i => f32Out i s
def execFfma (f : Form) (s : State) := issueFixed 0x183 f s fun i => f32Out i s
def execFmin (f : Form) (s : State) := issueFixed 0x184 f s fun i => f32Out i s
def execFmax (f : Form) (s : State) := issueFixed 0x185 f s fun i => f32Out i s

/-- FCMP (R218): MOD[2:0] the condition, MOD bit 3 FP64. -/
def execFcmp (f : Form) (s : State) := issueFixed 0x186 f s fun i =>
  let va := i.srcA s
  let vb := i.srcB s
  let mod := i.f.mod.toNat
  let (_, ftz) := i.readMode s
  let cmp (l : Nat) : Bool × Flg :=
    if mod ≥ 8 then fcmpHolds (mod % 8) (fmtF64.decode (lane64 va l).toNat) (fmtF64.decode (lane64 vb l).toNat)
    else fcmpHolds (mod % 8) (fmtF32.decodeIn ftz (lane32 va l).toNat) (fmtF32.decodeIn ftz (lane32 vb l).toNat)
  let req := if mod ≥ 8 then [10, 11] else [1]
  i.tagged [(2, va, req), (3, vb, req)] (fpOut 0 fun l => let r := cmp l; (if r.1 then 0xFFFFFFFF else 0, r.2))

/-- FCLASS (R219). -/
def execFclass (f : Form) (s : State) := issueFixed 0x187 f s fun i =>
  let va := i.srcA s
  if i.f.mod.toNat = 12 then
    i.tagged [(2, va, [10, 11])] (fpOut 0 fun l => (fmtF64.classify (lane64 va l).toNat, 0))
  else i.tagged [(2, va, [1])] (fpOut 0 fun l => (fmtF32.classify (lane32 va l).toNat, 0))

/-! ## Special functions (R220, R221) -/

/-- 2^k exactly as a value, and the exponent of a power of two. -/
def pow2Val (neg : Bool) (k : Int) : FVal := .fin neg 1 k
def log2Exact (m : Nat) (e : Int) : Option Int := if m ≠ 0 ∧ 2 ^ Nat.log2 m = m then some (e + (Nat.log2 m : Int)) else none

/-- An integer value. -/
def intExact (neg : Bool) (m : Nat) (e : Int) : Option Int :=
  let (k, inexact) := roundAt 1 neg m e false 0
  if inexact then none else some (signedOf neg k)

/-- Whether an exact value of FP32 is representable, and its bits. -/
def exactF32 (v : FVal) : Option Nat :=
  match v with
  | .fin neg m e => let r := fmtF32.round 0 false neg m e false; if r.2 = 0 then some r.1 else none
  | _ => none

/-- The results that R221 lists, before FTZ on the result; `none` where only the bounds of R220 hold. The value is
either infinite, NaN, or an exact number. -/
def specialCase (opc : Nat) (x : FVal) : Option (FVal × Flg) :=
  match opc, x with
  | _, .nan => some (.nan, 0)
  -- FRCP
  | 0x190, .inf n => some (.fin n 0 0, 0)
  | 0x190, .fin n m e =>
    if m = 0 then some (.inf n, fDZ)
    else match log2Exact m e with
      | some k => if (exactF32 (pow2Val n (-k))).isSome then some (pow2Val n (-k), 0) else none
      | none => none
  -- FRSQ
  | 0x191, .inf n => some (if n then (.nan, fNV) else (.fin false 0 0, 0))
  | 0x191, .fin n m e =>
    if m = 0 then some (.inf n, fDZ)
    else if n then some (.nan, fNV)
    else match log2Exact m e with
      | some k => if k % 2 = 0 then some (pow2Val false (-(k / 2)), 0) else none
      | none => none
  -- FEXP2
  | 0x193, .inf n => some (if n then (.fin false 0 0, 0) else (.inf false, 0))
  | 0x193, .fin n m e =>
    match intExact n m e with
    | some k => if decide (-200 ≤ k ∧ k ≤ 200) && (exactF32 (pow2Val false k)).isSome then some (pow2Val false k, 0) else none
    | none => none
  -- FLOG2
  | 0x194, .inf n => some (if n then (.nan, fNV) else (.inf false, 0))
  | 0x194, .fin n m e =>
    if m = 0 then some (.inf true, fDZ)
    else if n then some (.nan, fNV)
    else (log2Exact m e).map fun k => (ofInt k, 0)
  -- FSIN, FCOS
  | 0x195, .inf _ => some (.nan, fNV)
  | 0x196, .inf _ => some (.nan, fNV)
  | 0x195, .fin n m _ => if m = 0 then some (.fin n 0 0, 0) else none
  | 0x196, .fin _ m _ => if m = 0 then some (.fin false 1 0, 0) else none
  -- FTANH
  | 0x197, .inf n => some (.fin n 1 0, 0)
  | 0x197, .fin n m _ => if m = 0 then some (.fin n 0 0, 0) else none
  | _, _ => none

/-! ## The error bounds of R220 -/

/-- ln 2 and π/2 in units of 2^−128. -/
def fixLn2 : Int := 0xb17217f7d1cf79abc9e3b39803f2f6af
def fixHalfPi : Int := 0x1921fb54442d18469898cc51701b839a2

/-- e^x by its series, |x| ≤ 1, in units of 2^−128. -/
def fixExp (x : Int) : Int :=
  ((List.range 40).foldl (fun (a : Int × Int) (k : Nat) => let t := a.1 * x / 2 ^ 128 / (k + 1); (t, a.2 + t)) ((2 ^ 128 : Int), (2 ^ 128 : Int))).2

/-- sin x and cos x by their series, |x| ≤ 1. -/
def fixSin (x : Int) : Int :=
  ((List.range 20).foldl (fun (a : Int × Int) (k : Nat) => let t := -(a.1 * x / 2 ^ 128 * x / 2 ^ 128) / ((2 * k + 2) * (2 * k + 3)); (t, a.2 + t)) (x, x)).2
def fixCos (x : Int) : Int :=
  ((List.range 20).foldl (fun (a : Int × Int) (k : Nat) => let t := -(a.1 * x / 2 ^ 128 * x / 2 ^ 128) / ((2 * k + 1) * (2 * k + 2)); (t, a.2 + t))
    ((2 ^ 128 : Int), (2 ^ 128 : Int))).2

/-- Binary digits of log2 y, y in [1, 2), by squaring. -/
def fixLog2 : Nat → Nat → Int → Int
  | 0, _, acc => acc
  | n + 1, y, acc =>
    let z := y * y / 2 ^ 128
    if 2 ^ 129 ≤ z then fixLog2 n (z / 2) (acc + 2 ^ (n + 68)) else fixLog2 n z acc

/-- m × 2^e in units of 2^−128, truncated. -/
def toFix (neg : Bool) (m : Nat) (e : Int) : Int :=
  signedOf neg (if 0 ≤ e + 128 then m * 2 ^ (e + 128).toNat else m / 2 ^ (-(e + 128)).toNat)

/-- 2^x as a significand in units of 2^−128 and an exponent. -/
def fixExp2 (x : Int) : Int × Int := (fixExp ((x % 2 ^ 128) * fixLn2 / 2 ^ 128), x / 2 ^ 128)

/-- f(x) for the functions of R220 on a finite operand m × 2^e, m ≠ 0, as a × 2^q within 2^(q+80): exact arithmetic far finer than
any bound of R220. -/
def specialValue (opc : Nat) (neg : Bool) (m : Nat) (e : Int) : Int × Int :=
  match opc with
  | 0x190 => (signedOf neg (2 ^ 160 / m), -e - 160)
  | 0x191 =>
    let (m, e) := if e % 2 = 0 then (m, e) else (2 * m, e - 1)
    ((isqrtFrom (2 ^ 320 / m) 160 0 : Nat), -(e / 2) - 160)
  | 0x193 =>
    if decide (8 ≤ e + (Nat.log2 m : Int)) then (if neg then (0, -400) else (1, 200))
    else let r := fixExp2 (toFix neg m e); (r.1, r.2 - 128)
  | 0x194 =>
    let k := Nat.log2 m
    (fixLog2 60 (m * 2 ^ 128 / 2 ^ k) ((e + (k : Int)) * 2 ^ 128), -128)
  | 0x197 =>
    if decide (5 ≤ e + (Nat.log2 m : Int)) then (signedOf neg (2 ^ 128), -128)
    else
      let r := fixExp2 (-2 * (toFix false m e * 2 ^ 128 / fixLn2))
      let x := r.1 / 2 ^ (-r.2).toNat
      ((if neg then -1 else 1) * ((2 ^ 128 - x) * 2 ^ 128 / (2 ^ 128 + x)), -128)
  | _ =>
    let x := toFix neg m e
    let n := (2 * x + fixHalfPi) / (2 * fixHalfPi)
    let r := x - n * fixHalfPi
    let k := (n + (if opc = 0x195 then 0 else 1)) % 4
    ((match k with | 0 => fixSin r | 1 => fixCos r | 2 => -fixSin r | _ => -fixCos r), -128)

/-- How far a result may lie from the exact one (R220), in powers of two: an absolute 2^−21 or 2^−22, or units in the last
place of the exact result. -/
def specialBound (opc : Nat) (m : Nat) (e : Int) (a q : Int) : Int :=
  let top := e + (Nat.log2 m : Int)
  let ulp := Max.max (q + (Nat.log2 a.natAbs : Int) - 23) (-149)
  match opc with
  | 0x190 => ulp
  | 0x191 => ulp + 1
  | 0x193 => ulp + 1
  | 0x194 => if top = -1 ∨ top = 0 ∨ (top = 1 ∧ m = 2 ^ Nat.log2 m) then -22 else ulp + 1
  | _ => -21

/-- FP32 bits in the order of their values. -/
def ordOfBits (x : Nat) : Int := if 2 ^ 31 ≤ x then -((x - 2 ^ 31 : Nat) : Int) - 1 else x
def bitsOfOrd (k : Int) : Nat := if k < 0 then 2 ^ 31 + (-k - 1).toNat else k.toNat

/-- The order numbers of the least and the greatest FP32 number within 2^b of every number that a × 2^q stands for, which lies
within 2^(q+80) of it. -/
def rangeAround (a q b : Int) : Int × Int :=
  let w : Int := 2 ^ (b + 640).toNat - 2 ^ (q + 720).toNat
  let c := a * 2 ^ (q + 640).toNat
  let lo := c - w
  let hi := c + w
  let cap (x : Int) : Int := Max.max (-0x7F800000) (Min.min 0x7F7FFFFF x)
  (cap (ordOfBits (fmtF32.round 3 false (decide (lo < 0)) lo.natAbs (-640) false).1),
   cap (ordOfBits (fmtF32.round 2 false (decide (hi < 0)) hi.natAbs (-640) false).1))

/-- What R220 lets a function return for a finite operand that R221 does not list: the order numbers of the least and the
greatest result; `none` for one that overflows. FSIN and FCOS beyond 2^20 are bounded by [−1, 1] alone. -/
def specialRange (opc : Nat) (neg : Bool) (m : Nat) (e : Int) : Option (Int × Int) :=
  let one : Int := 0x3F800000
  let within (r : Int × Int) (lo hi : Int) : Int × Int := (Max.max lo r.1, Min.min hi r.2)
  let top := e + (Nat.log2 m : Int)
  if (opc = 0x195 ∨ opc = 0x196) ∧ (20 < top ∨ (top = 20 ∧ m ≠ 2 ^ Nat.log2 m)) then some (-one - 1, one)
  else
    let v := specialValue opc neg m e
    if 128 ≤ v.2 + (Nat.log2 v.1.natAbs : Int) ∧ v.1 ≠ 0 then none
    else
      let r := rangeAround v.1 v.2 (specialBound opc m e v.1 v.2)
      some (match opc with
        | 0x191 => within r 0 0x7F7FFFFF
        | 0x193 => within r 0 0x7F7FFFFF
        | 0x195 => within r (-one - 1) one
        | 0x196 => within r (-one - 1) one
        | _ => r)

/-- A fixed function of the operand bits within the bounds of R220: the free value picks the result among those allowed. -/
def specialFree (opc a : Nat) (neg : Bool) (m : Nat) (e : Int) : Nat × Flg :=
  match specialRange opc neg m e with
  | none => (fmtF32.infBits + fmtF32.signBit neg, fOF ||| fNX)
  | some (lo, hi) =>
    let r := bitsOfOrd (lo + ((Config.specialFunction opc (BitVec.ofNat 32 a)).toNat : Int) % (hi - lo + 1))
    (r, if r / 2 ^ 23 % 256 = 0 then fUF ||| fNX else fNX)

/-- A lane of a special function. What R221 does not list is a fixed function of the operand bits (R220): its result
raises NX, with OF when it overflows and UF when it is tiny. -/
def specialLane (opc : Nat) (rm : BitVec 2) (ftz : Bool) (a : Nat) : Nat × Flg :=
  let x := fmtF32.decodeIn ftz a
  if opc = 0x192 then fmtF32.flushOut ftz (fmtF32.sqrtVal rm x)
  else
    match specialCase opc x with
    | some (v, fl) =>
      let r := fmtF32.ofVal 0 false v
      let r := fmtF32.flushOut ftz (r.1, 0)
      (r.1, r.2 ||| fl)
    | none =>
      match x with
      | .fin neg m e => fmtF32.flushOut ftz (specialFree opc a neg m e)
      | .inf neg => (fmtF32.infBits + fmtF32.signBit neg, 0)
      | .nan => (fmtF32.nanBits, 0)

def specialOut (i : Iss) (s : State) : Except Trap Out :=
  let va := i.srcA s
  let (rm, ftz) := i.readMode s
  i.tagged [(2, va, [1])] (fpOut 1 fun l => specialLane i.opc rm ftz (lane32 va l).toNat)

def execFrcp (f : Form) (s : State) := issueFixed 0x190 f s fun i => specialOut i s
def execFrsq (f : Form) (s : State) := issueFixed 0x191 f s fun i => specialOut i s
def execFsqrt (f : Form) (s : State) := issueFixed 0x192 f s fun i => specialOut i s
def execFexp2 (f : Form) (s : State) := issueFixed 0x193 f s fun i => specialOut i s
def execFlog2 (f : Form) (s : State) := issueFixed 0x194 f s fun i => specialOut i s
def execFsin (f : Form) (s : State) := issueFixed 0x195 f s fun i => specialOut i s
def execFcos (f : Form) (s : State) := issueFixed 0x196 f s fun i => specialOut i s
def execFtanh (f : Form) (s : State) := issueFixed 0x197 f s fun i => specialOut i s

/-! ## Packed and FP64 arithmetic -/

/-- Element-wise on two 16-bit elements (R222); the flags of both are ORed. -/
def packed2 (g : Nat → Nat × Flg) : Nat × Flg :=
  let x := g 0
  let y := g 1
  (x.1 + y.1 * 65536, x.2 ||| y.2)

/-- Element k of a lane in 16-bit elements. -/
def half (x : W32) (k : Nat) : Nat := nbits x.toNat (16 * k) 16

/-- PKADD, PKMUL and PKFMA: MOD[3:0] 10 FP16, 11 BF16; bit 4 `.neg`. -/
def packedOut (i : Iss) (s : State) : Except Trap Out :=
  let va := i.srcA s
  let vb := i.srcB s
  let vc := i.srcC s
  let (rm, ftz) := i.readMode s
  let bf := i.f.mod.toNat % 16 == 11
  let fm := if bf then fmtBf16 else fmtF16
  let tag := if bf then 3 else 2
  let el (l k : Nat) : Nat × Flg :=
    let a := half (lane32 va l) k
    let b := half (lane32 vb l) k
    match i.opc with
    | 0x1A0 => fm.add rm ftz false a b
    | 0x1A1 => fm.mul rm ftz a b
    | _ => fm.fma rm ftz (i.f.mod.getLsbD 4) a b (half (lane32 vc l) k)
  i.tagged ([(2, va, [tag]), (3, vb, [tag])] ++ (if i.opc = 0x1A2 then [(4, vc, [tag])] else []))
    (fpOut tag fun l => packed2 (el l))

def execPkadd (f : Form) (s : State) := issueFixed 0x1A0 f s fun i => packedOut i s
def execPkmul (f : Form) (s : State) := issueFixed 0x1A1 f s fun i => packedOut i s
def execPkfma (f : Form) (s : State) := issueFixed 0x1A2 f s fun i => packedOut i s

/-- BFMA2 (R223): one rounding of c + a0 × b0 + a1 × b1. Infinities and NaNs are met from left to right (DESIGN CHOICE, log entry
138). -/
def bfma2Lane (rm : BitVec 2) (ftz : Bool) (a b c : W32) : Nat × Flg :=
  let p0 := mulVal (fmtBf16.decodeIn ftz (half a 0)) (fmtBf16.decodeIn ftz (half b 0))
  let p1 := mulVal (fmtBf16.decodeIn ftz (half a 1)) (fmtBf16.decodeIn ftz (half b 1))
  let s1 := addVal rm (fmtF32.decodeIn ftz c.toNat) p0.1
  let s2 := addVal rm s1.1 p1.1
  fmtF32.finish rm ftz (s2.1, p0.2 ||| p1.2 ||| s1.2 ||| s2.2)

def execBfma2 (f : Form) (s : State) := issueFixed 0x1A3 f s fun i =>
  let va := i.srcA s
  let vb := i.srcB s
  let vc := i.srcC s
  let (rm, ftz) := i.readMode s
  i.tagged [(2, va, [3]), (3, vb, [3]), (4, vc, [1])]
    (fpOut 1 fun l => bfma2Lane rm ftz (lane32 va l) (lane32 vb l) (lane32 vc l))

/-- DADD, DMUL and DFMA (R224): FTZ does not apply. -/
def f64Out (i : Iss) (s : State) : Except Trap Out :=
  let va := i.srcA s
  let vb := i.srcB s
  let vc := i.srcC s
  let (rm, _) := i.readMode s
  let neg := i.f.mod.getLsbD 4
  i.tagged ([(2, va, [10, 11]), (3, vb, [10, 11])] ++ (if i.opc = 0x1B2 then [(4, vc, [10, 11])] else []))
    (fpOut64 fun l =>
      let a := (lane64 va l).toNat
      let b := (lane64 vb l).toNat
      match i.opc with
      | 0x1B0 => fmtF64.add rm false neg a b
      | 0x1B1 => fmtF64.mul rm false a b
      | _ => fmtF64.fma rm false neg a b (lane64 vc l).toNat)

def execDadd (f : Form) (s : State) := issueFixed 0x1B0 f s fun i => f64Out i s
def execDmul (f : Form) (s : State) := issueFixed 0x1B1 f s fun i => f64Out i s
def execDfma (f : Form) (s : State) := issueFixed 0x1B2 f s fun i => f64Out i s

/-! ## Mode and flags -/

/-- FSETMODE (R233): the old mode to D in bits [7:5], then RM and FTZ from the lowest active lane of B. -/
def execFsetmode (f : Form) (s : State) := issueFixed 0x1E0 f s fun i =>
  let (rm, ftz) := i.readMode s
  let b := lane32 (i.srcB s) (lowest i.act)
  .ok { vecs := [Vec.splat ⟨BitVec.ofNat 32 (rm.toNat * 64 + (if ftz then 32 else 0)), 0⟩]
        mode := some (b.extractLsb' 6 2, b.getLsbD 5) }

/-- FFLAGS (R234): the lane's flags to D, then every flag whose bit of b is 1 cleared. -/
def execFflags (f : Form) (s : State) := issueFixed 0x1E1 f s fun i =>
  let vb := i.srcB s
  .ok { vecs := [Vec.of fun l => ⟨(i.readFlags s l).setWidth 32, 0⟩]
        clear := lanes32.map fun l => (lane32 vb l).setWidth 5 }

end Sys2Proof.Machine
end

