-- ==== Sys2Proof/Machine/Convert.lean ====
section
/-! DEFINITION. Conversions (R225, R226), quantisation and dequantisation (R227-R229). -/

namespace Sys2Proof.Machine

/-- Element k of a lane, of w bits (R195). -/
def elem (w : Nat) (x : W32) (k : Nat) : Nat := nbits x.toNat (w * k) w

/-- N of R225: FP32 bits to a narrower format; E4M3 and E5M2 round to nearest even (R197). -/
def narrow (fm : Fmt) (rm : BitVec 2) (sat : Bool) (a : Nat) : Nat × Flg :=
  fm.ofVal (if fm.eb + fm.fb = 7 then 0 else rm) sat (f32 a)

/-- W of R225: bits of one format as another that holds every value of it. -/
def widen (src dst : Fmt) (x : Nat) : Nat := (dst.ofVal 0 false (src.decode x)).1

/-- Two narrowed elements, in 16-bit halves. -/
def cvtHalves (fm : Fmt) (rm : BitVec 2) (sat : Bool) (a b : W32) : Nat × Flg :=
  let x := narrow fm rm sat a.toNat
  let y := narrow fm rm sat b.toNat
  (x.1 + y.1 * 2 ^ 16, x.2 ||| y.2)

/-- Two narrowed bytes beside the two bytes kept from c: `hi` puts the new ones in elements 2 and 3. -/
def cvtBytes (fm : Fmt) (hi sat : Bool) (a b c : W32) : Nat × Flg :=
  let x := narrow fm 0 sat a.toNat
  let y := narrow fm 0 sat b.toNat
  let new := x.1 + y.1 * 256
  (if hi then nbits c.toNat 0 16 + new * 65536 else new + nbits c.toNat 16 16 * 65536, x.2 ||| y.2)

/-- I of R225, FP32 to a 32-bit integer: bits and flags. -/
def cvtToInt (rm : BitVec 2) (signed : Bool) (a : W32) : Nat × Flg :=
  let r := toIntVal rm (typeLo 32 signed) (typeHi 32 signed) (f32 a.toNat)
  ((BitVec.ofInt 32 r.1).toNat, r.2)

/-- The tags that CVT requires of A, of B and of C (R226); `none`: not read, or any tag. -/
def cvtTags (mod : Nat) : Option (List Nat) × Option (List Nat) × Option (List Nat) :=
  if mod < 4 then (some [1], some [1], none)
  else if mod < 8 then (some [1], some [1], some [4])
  else if mod < 12 then (some [1], some [1], some [5])
  else if mod < 14 then (some [10, 11], none, none)
  else if mod = 14 then (some [1], none, none)
  else if mod < 17 then (some [2], none, none)
  else if mod < 19 then (some [3], none, none)
  else if mod < 21 then (some [4], none, none)
  else if mod < 23 then (some [5], none, none)
  else if mod < 25 then (some [0], none, none)
  else if mod < 27 then (some [1], none, none)
  else (none, none, none)

/-- The one-vector results of CVT, MOD 0-13 and 15-26: tag, bits and flags of a lane (R226). -/
def cvtLane (mod : Nat) (rm : BitVec 2) (a b c : W32) (a64 : Nat) : Nat × Nat × Flg :=
  let k := (mod + 1) % 2
  if mod < 2 then (2, cvtHalves fmtF16 rm (mod = 1) a b)
  else if mod < 4 then (3, cvtHalves fmtBf16 rm (mod = 3) a b)
  else if mod < 8 then (4, cvtBytes fmtE4m3 (mod % 2 = 1) (6 ≤ mod) a b c)
  else if mod < 12 then (5, cvtBytes fmtE5m2 (mod % 2 = 1) (10 ≤ mod) a b c)
  else if mod < 14 then (1, fmtF32.ofVal rm (mod = 13) (fmtF64.decode a64))
  else if mod < 17 then (1, widen fmtF16 fmtF32 (elem 16 a k), 0)
  else if mod < 19 then (1, widen fmtBf16 fmtF32 (elem 16 a k), 0)
  else if mod < 21 then (2, widen fmtE4m3 fmtF16 (elem 8 a (2 * k)) + widen fmtE4m3 fmtF16 (elem 8 a (2 * k + 1)) * 65536, 0)
  else if mod < 23 then (2, widen fmtE5m2 fmtF16 (elem 8 a (2 * k)) + widen fmtE5m2 fmtF16 (elem 8 a (2 * k + 1)) * 65536, 0)
  else if mod < 25 then (1, fmtF32.ofVal rm false (ofInt (if mod = 23 then a.toInt else (a.toNat : Int))))
  else (0, cvtToInt rm (mod = 25) a)

/-- `.as`: a source B tagged ACC, or with a reserved tag, in an active lane takes TAG, with DETAIL[8] set (R204, R226, R387). -/
def cvtAsTag (i : Iss) (vb : List Vec) : Option Trap :=
  let tag (l : Nat) : BitVec 4 := (vec1 vb 0).tagAt l
  let m := laneMask fun l => i.act.getLsbD l && decide (12 ≤ (tag l).toNat)
  if m = 0 then none else some ⟨.tag, 3, 7, 0, m, 0, BitVec.ofNat 64 ((if tag (lowest m) = 12 then 0x1C0 else 0xC0) + (tag (lowest m)).toNat)⟩

/-- CVT (R226). -/
def execCvt (f : Form) (s : State) := issueFixed 0x1C0 f s fun i =>
  let va := i.srcA s
  let vb := i.srcB s
  let vc := i.srcC s
  let (rm, _) := i.readMode s
  let mod := i.f.mod.toNat
  let (ta, tb, tc) := cvtTags mod
  let req := (ta.map fun t => (2, va, t)).toList ++ (tb.map fun t => (3, vb, t)).toList ++ (tc.map fun t => (4, vc, t)).toList
  if mod = 27 then
    match cvtAsTag i vb with
    | some t => .error t
    | none => .ok { vecs := [Vec.of fun l => ⟨lane32 va l, (vec1 vb 0).tagAt l⟩] }
  else if 28 ≤ mod then
    let t (k : Nat) : BitVec 4 := if mod = 28 then BitVec.ofNat 4 (10 + k) else 0
    .ok { vecs := [Vec.of fun l => ⟨(vec1 va 0).val l, t 0⟩, Vec.of fun l => ⟨(vec1 va 1).val l, t 1⟩] }
  else if mod = 14 then
    i.tagged req (fpOut64 fun l => (widen fmtF32 fmtF64 (lane32 va l).toNat, 0))
  else
    let tag := (cvtLane mod rm 0 0 0 0).1
    i.tagged req (fpOut tag fun l => (cvtLane mod rm (lane32 va l) (lane32 vb l) (lane32 vc l) (lane64 va l).toNat).2)

/-! ## QCVT -/

/-- A lane as QCVT and DQCVT read it: +0 when inactive (R47). -/
def zeroLane (act : Mask) (vs : List Vec) (l : Nat) : W32 := if act.getLsbD l then lane32 vs l else 0

/-- Elements packed into a lane from the lowest bits on. -/
def packElems (w : Nat) : List Nat → Nat
  | [] => 0
  | x :: xs => x % 2 ^ w + 2 ^ w * packElems w xs

/-- `QCVT.qn4` (R227). -/
def qcvtQn4 (i : Iss) (va vb vc : List Vec) : Out :=
  let x := (lanes32.map fun l => (zeroLane i.act va l).toNat) ++ lanes32.map fun l => (zeroLane i.act vb l).toNat
  let (codes, c, fl) := quantiseBlock x (lane32 vc (lowest i.act)).toNat
  { vecs := [Vec.of fun j =>
      if j < 8 then ⟨BitVec.ofNat 32 (packElems 4 ((codes.drop (8 * j)).take 8)), 9⟩
      else if j = 8 then ⟨BitVec.ofNat 32 c, 0⟩ else Lane.zero]
    flags := lanes32.map fun l => fl.getD l 0 ||| fl.getD (l + 32) 0 }

/-- The integer range of a target T of R228: 3 `.s8`, 4 `.n8`, 5 `.s4`, 6 `.n4`. -/
def qcvtRange (t : Nat) : Int × Int :=
  match t with
  | 3 => (-128, 127)
  | 4 => (0, 255)
  | 5 => (-8, 7)
  | _ => (0, 15)

/-- Convert of R228: x × s rounded once into T. -/
def qcvtElem (t : Nat) (rm : BitVec 2) (x s : Nat) : Nat × Flg :=
  let bad := match f32 s with
    | .fin neg m _ => neg || m == 0
    | _ => true
  if bad then (0, fNV)
  else
    let p := (mulVal (f32 x) (f32 s)).1
    match t with
    | 1 => fmtE4m3.ofVal 0 true p
    | 2 => fmtE5m2.ofVal 0 true p
    | _ =>
      let r := toIntVal rm (qcvtRange t).1 (qcvtRange t).2 p
      ((BitVec.ofInt 8 r.1).toNat, r.2)

/-- Tag and element width of target T. -/
def qcvtTag (t : Nat) : Nat := if t = 1 then 4 else if t = 2 then 5 else if t = 3 then 6 else if t = 4 then 7 else 8
def qcvtWidth (t : Nat) : Nat := if t ≤ 4 then 8 else 4

/-- The other forms of QCVT (R228). -/
def qcvtOut (i : Iss) (t : Nat) (rm : BitVec 2) (va vc : List Vec) : Out :=
  let y := lanes32.map fun l => qcvtElem t rm (zeroLane i.act va l).toNat (lane32 vc (lowest i.act)).toNat
  let w := qcvtWidth t
  let k := 32 / w
  { vecs := [Vec.of fun j =>
      if j < 32 / k then ⟨BitVec.ofNat 32 (packElems w (((y.map (·.1)).drop (k * j)).take k)), BitVec.ofNat 4 (qcvtTag t)⟩
      else Lane.zero]
    flags := y.map (·.2) }

/-- QCVT: the tags of every active lane of A (and B), and of lane m of C (R229). -/
def execQcvt (f : Form) (s : State) := issueFixed 0x1C1 f s fun i =>
  let va := i.srcA s
  let vb := i.srcB s
  let vc := i.srcC s
  let (rm, _) := i.readMode s
  let t := i.f.mod.toNat
  match i.checkTag 2 i.act va [1] <|> (if t = 0 then i.checkTag 3 i.act vb [1] else none) <|>
      i.checkTag 4 (1#32 <<< lowest i.act) vc [1] with
  | some tr => .error tr
  | none => .ok (if t = 0 then qcvtQn4 i va vb vc else qcvtOut i t rm va vc)

/-! ## DQCVT -/

/-- The source lane of A that holds the element of lane l (R229). -/
def dqcvtLane (mod l : Nat) : Nat :=
  match mod with
  | 0 => l / 8
  | 1 => (l + 32) / 8
  | 6 => l / 8
  | 7 => l / 8
  | _ => l / 4

/-- The value of the element of lane l in the packed A. -/
def dqcvtVal (mod l : Nat) (x : W32) : FVal :=
  match mod with
  | 2 => fmtE4m3.decode (elem 8 x (l % 4))
  | 3 => fmtE5m2.decode (elem 8 x (l % 4))
  | 4 => ofInt (sInt 8 (elem 8 x (l % 4)))
  | 5 => ofInt (elem 8 x (l % 4))
  | 6 => ofInt (sInt 4 (elem 4 x (l % 8)))
  | _ => ofInt (elem 4 x (l % 8))

def dqcvtTag (mod : Nat) : Nat :=
  match mod with
  | 0 => 9
  | 1 => 9
  | 2 => 4
  | 3 => 5
  | 4 => 6
  | 5 => 7
  | _ => 8

/-- DQCVT (R229): element l of the packed A by the scale of the lowest active lane. -/
def execDqcvt (f : Form) (s : State) := issueFixed 0x1C2 f s fun i =>
  let va := i.srcA s
  let vb := i.srcB s
  let vc := i.srcC s
  let (rm, _) := i.readMode s
  let mod := i.f.mod.toNat
  let m := lowest i.act
  let sc := (lane32 vc m).toNat
  let read := i.act &&& laneMask fun k => (maskLanes i.act).any fun l => dqcvtLane mod l == k
  match i.checkTag 2 read va [dqcvtTag mod] <|>
      (if mod < 2 then i.checkTag 3 (i.act &&& (1#32 <<< 8)) vb [0] else none) <|>
      i.checkTag 4 (1#32 <<< m) vc [1] with
  | some tr => .error tr
  | none =>
    let c := (zeroLane i.act vb 8).toNat % 256
    .ok (fpOut 1 fun l =>
      let x := zeroLane i.act va (dqcvtLane mod l)
      if mod < 2 then decodeQn4 (elem 4 x (l % 8)) c sc
      else fmtF32.divVal rm false (dqcvtVal mod l x) (f32 sc))

end Sys2Proof.Machine
end

