-- ==== Sys2Proof/Machine/System.lean ====
section
/-! DEFINITION. System instructions (R388-R392) and DGREAD (R420). -/

namespace Sys2Proof.Machine

/-- The check that RETT and WRCTX share: TRAPPED, and every active lane in TMASK (R389, R390). -/
def Iss.handlerCheck (i : Iss) : Option Trap :=
  if i.wave.trapped && (i.act &&& ~~~i.wave.tmask == 0) then none else some ⟨.illegal, 0, 8, 7, i.act, 0, 2⟩

/-- RETT (R389): the return of R384's entry. -/
def execRett (f : Form) (s : State) := issue 0x3E0 f s fun i =>
  match i.handlerCheck with
  | some t => .trap t
  | none => .done ((s.issuedNext i []).modWave i.tid i.wid fun w => w.trapReturn i.act)

/-- RDSIDE (R391). -/
def execRdside (f : Form) (s : State) := issue 0x3E1 f s fun i =>
  .done (s.startOp i (i.resultOp s [Vec.of fun l => ⟨BitVec.ofNat 32 (leAt i.wave.side.bytes (4 * l) 4), 0⟩]))

/-- The new resume PC of a lane (R390): MOD 0 `.rpc`, 1 `.rpcrel`. -/
def Iss.newRpc (i : Iss) (s : State) (l : Nat) : W64 :=
  let vb := i.srcB s
  if i.f.mod = 0 then lane64 vb l else i.wave.rpc.getD l 0 + (lane32 vb l).signExtend 64

/-- WRCTX (R390). -/
def execWrctx (f : Form) (s : State) := issue 0x3E2 f s fun i =>
  match i.handlerCheck with
  | some t => .trap t
  | none =>
    let bad := laneMask fun l => i.act.getLsbD l && (i.newRpc s l).extractLsb' 0 3 != 0
    if bad ≠ 0 then .trap ⟨.align, 3, 8, 0, bad, i.newRpc s (lowest bad), 0⟩
    else .done ((s.issuedNext i []).modWave i.tid i.wid fun w => { w with rpc := mergeLanes i.act w.rpc 0 fun l => i.newRpc s l })

/-- HALTSELF (R392). -/
def execHaltself (f : Form) (s : State) := issue 0x3E4 f s fun _ => .halt .haltself 0

/-- Whether an earlier instruction of the wave has still to contribute to the digest (R420). -/
def Iss.owesDigest (i : Iss) (s : State) : Bool :=
  s.digesting i.launch && i.wave.ops.any fun o => !o.ready && (match o.kind with | .copy _ _ => false | _ => true) && !o.digest.isEmpty

/-- DGREAD (R420). -/
def execDgread (f : Form) (s : State) := issue 0x3E3 f s fun i =>
  if i.owesDigest s then .stall
  else .done (s.startOp i (i.resultOp s (pairSplat (if i.f.mod = 0 then i.team.digest else i.team.contribs))))

end Sys2Proof.Machine
end

