-- ==== Sys2Proof/Machine/Preempt.lean ====
section
/-! DEFINITION. Pre-emption (R405-R409, R333, R294): saving a team, its image (R406), evaluation of wake records and restore;
debug saves (R411). -/

namespace Sys2Proof.Machine

/-! ## The save area (R406) -/

/-- The save-area slots of a context that hold an image. -/
def State.slotsTaken (s : State) (ctx : Nat) (d : CtxDesc) : List Nat :=
  (s.teams.filter fun t => match s.launches.get? t.2.launch with
    | some l => l.ctx == ctx && (s.descOf ctx t.2.ver).savebase == d.savebase
    | none => false).flatMap fun t =>
      (match t.2.place with | .saved k => [k] | _ => []) ++ (match t.2.debugSaved with | some k => [k] | none => [])

/-- The lowest free slot for an image of some bytes; its bytes lie in granules of the partition (R260). -/
def State.saveSlot (s : State) (part ctx : Nat) (d : CtxDesc) (n : Nat) : Option Nat :=
  if d.slotsize.toNat < n then none
  else (List.range d.saveslots.toNat).find? fun k =>
    !(s.slotsTaken ctx d).contains k && s.ownerOf (slotBase d k) == part && s.ownerOf (slotBase d k + n - 1) == part

/-- The effective deadline of a team: the earliest of its waves (R129, R368). -/
def Team.deadline (tm : Team) (l : Launch) : W64 := tm.waves.foldl (fun d w => minW d (minW l.deadline w.2.inherited)) (BitVec.allOnes 64)

/-! ## Saving (R405, R406) -/

/-- Whether a thread waits at a blocking point or has exited. -/
def Wave.parked (w : Wave) : Bool := w.threads.all fun t => t != .ready

/-- Whether an operation may be in flight while its team is saved: a remote load or atomic whose threads are BLOCKED (R309, R408), and
RCOPY and COLL, which NET counts (R333). A store or reduction must have been acknowledged (R294). -/
def Op.mayTravel (o : Op) : Bool := (o.isRemote && o.kind != .store && o.kind != .red) || o.counted == some 3

/-- R405: saveable. -/
def Team.saveable (tm : Team) : Bool :=
  tm.place == .resident && !tm.allExited &&
    tm.waves.all fun w => w.2.parked && w.2.cpy == 0 && w.2.mtx == 0 && w.2.ops.all Op.mayTravel &&
      decide (w.2.mem = (w.2.ops.filter fun o => o.isRemote && o.counted == some 0).length)

/-- The grids above a grid: the launches of its parent team, of that one's, and so on (R52: at most ten). -/
def State.ancestors (s : State) : Nat → Launch → List Nat
  | 0, _ => []
  | n + 1, l =>
    match l.parent.bind fun p => s.teams.get? p.1 with
    | none => []
    | some tm => tm.launch :: (s.launches.get? tm.launch).elim [] fun p => s.ancestors n p

/-- Whether a launch is one that another one depends on, directly or through a chain (R76); the parent grid is a child's producer
(R77). -/
def State.producerOf (s : State) (p : Nat) (l : Launch) : Bool :=
  (s.ancestors 10 l).contains p ||
    (match s.launches.get? p, (if l.parent.isNone then some l else s.launches.get? l.root) with
     | some pl, some r => pl.parent.isNone && (s.producers r).contains pl.ident
     | _, _ => false)

/-- The cores on which a saved team of a launch may be restored: one for DETERMINISTIC placement, which serialised execution ignores, else
any (R85, R409, R417). -/
def Launch.wants (l : Launch) (i core : Nat) : Bool :=
  if !l.serial && l.header.deterministic then l.cores[i % l.cores.length]? == some core
  else l.cores.contains core

/-- The cores on which a team that was never placed waits for room: one for serialised execution, DETERMINISTIC and TABLE placement (R85, R86,
R417). -/
def Launch.waitsOn (l : Launch) (i core : Nat) : Bool :=
  if l.serial then l.cores[l.depth % l.cores.length]? == some core
  else if l.header.deterministic || l.packet.affinity != 2 then l.wants i core
  else match l.affinity[i % l.affinity.length]? with
    | some e => l.cores[e.1 % l.cores.length]? == some core
    | none => false

/-- Whether a team waiting for a core precedes a resident one (R405): it belongs to a producer of its launch, or has an earlier
effective deadline and has waited 2 µs. Of two teams of one grid with equal deadlines the one with the lower index precedes, so that
what R55 promises holds (DEDUCED, log entry 120). -/
def State.preceded (s : State) (tm : Team) (l : Launch) : Bool :=
  let mine := (tm.deadline l).toNat
  let old (since : Nat) : Bool := decide (since + 12000 ≤ s.time)
  let waitingLaunch := s.launches.any fun o =>
    o.2.part == l.part && (match o.2.waitSince, o.2.nextIndex with
      | some t, some i => o.2.waitsOn i tm.core && (s.producerOf o.1 l ||
          (old t && (decide (o.2.deadline.toNat < mine) || (o.1 == tm.launch && o.2.deadline.toNat == mine && decide (i < tm.index)))))
      | _, _ => false)
  let waitingTeam := s.teams.any fun t => match t.2.readmitSince, s.launches.get? t.2.launch with
    | some since, some o =>
      let dl := (t.2.deadline o).toNat
      o.part == l.part && o.wants t.2.index tm.core && (s.producerOf t.2.launch l ||
        (old since && (decide (dl < mine) || (t.2.launch == tm.launch && dl == mine && decide (t.2.index < tm.index)))))
    | _, _ => false
  waitingLaunch || waitingTeam

/-- Bytes that a team wrote and that its core's L1 or its mapped stash holds masked are sent home (R272, R275, R294): `none` when there are
none. -/
def State.sendHome (s : State) (t : Nat) (tm : Team) (l : Launch) : Option State :=
  let mine := (s.core tm.core).l1.flatMap fun e => if e.2.sec.any fun x => x.2.owners.any (·.1 == t) then [e.1] else []
  if mine.isEmpty && tm.dirtyStash.isEmpty then none
  else some (mine.foldl (fun s line => s.writeBackLine tm.core line [.rc, .blk] l.terms) (s.cleanTeamStash t l.terms))

/-- YIELD's condition is already met: its threads become READY (R157; log entry 33). -/
def State.wakeYields (s : State) (t : Nat) : State :=
  match s.teams.get? t with
  | some tm => tm.waves.foldl (fun s w => s.modWave t w.1 fun wv => wv.wake s.time fun x => x.wake == .yield) s
  | none => s

/-- What of a wave is not carried into its saved image: its operand caches, its builder's records, its registrations with slices (R405, R406).
Issue distances in flight go on (R114), and so does what its waits lent (R369). -/
def Wave.shelve (w : Wave) : Wave :=
  { w with
    active := false, cache := [], eligibleSince := none, starvedSince := none,
    waits := w.waits.map fun x => match x.wake with | .bwait false _ _ => { x with registered := false } | _ => x }

/-- A save drops a team's registrations with slices (R406): they wake no more and hold no place. What they lent stays lent until the subset
is woken, killed or halted or the phase completes (R369). -/
def State.idleRegs (s : State) (t : Nat) : State :=
  { s with slices := s.slices.mapVals fun sl => { sl with regs := sl.regs.map fun r => if r.team = t then { r with live := false } else r } }

/-- The image of a team written to a slot and its core resources freed (R406, R49). -/
def State.saveTeam (s : State) (t : Nat) (l : Launch) (at_ k : Nat) : State :=
  let s := s.modTeam t fun tm => { tm with waves := tm.waves.mapVals Wave.shelve }
  let s := (s.idleRegs t).undefinePages
  match s.teams.get? t with
  | none => s
  | some tm =>
    let s := s.writePaFor l.terms at_ 0 (tm.image l)
    let s := s.modCore tm.core fun c =>
      let c := tm.waves.foldl (fun c w => w.2.names.foldl Core.release { c with slots := c.slots.erase w.2.slot }) (c.dropMappedReuse tm)
      { c with left := if c.left.contains l.ctx then c.left else c.left ++ [l.ctx] }
    (s.modTeam t fun tm => { tm with
      maps := tm.maps.map fun m => { m with sec := [] }, place := .saved k, readmitSince := none }).clearPreq l.ctx

/-- PREEMPT_SAVE (R405, R406). A team that is not saved goes on at its YIELDs. Before the save its stores leave the store queue, its masked
bytes go home and its core's write-backs are acknowledged (R294). -/
def execPreemptSave (team : Nat) (s : State) : Host.Outcome State Fault Refusal :=
  match s.teams.get? team with
  | none => .next s
  | some tm =>
    match s.launches.get? tm.launch with
    | none => .next s
    | some l =>
      let c := s.core tm.core
      let queued := (c.sq.any fun q => q.2.any fun e => e.team == team) || tm.waves.any fun w => !w.2.pendingLines.isEmpty
      let wanted := (s.ctx l.ctx).preq || s.preceded tm l
      let d := s.descOf l.ctx tm.ver
      if tm.place ≠ .resident ∨ !s.running l.part ∨ c.stopped then .next s
      else if !tm.saveable || l.packet.coResident || !wanted then .next (s.wakeYields team)
      else match s.saveSlot l.part l.ctx d (256 + l.header.waves * waveSpan l.header.regs + l.header.stash) with
      | none => .next (s.wakeYields team)
      | some k =>
        if queued then .next s
        else match s.sendHome team tm l with
        | some s' => .next s'
        | none => if c.wbOut.isEmpty then .next (s.saveTeam team l (slotBase d k) k) else .next s

/-! ## Evaluation and restore (R407, R409) -/

/-- WAKE_EVALUATE (R407): a saved team one of whose records is met waits for re-admission. -/
def execWakeEvaluate (team : Nat) (s : State) : Host.Outcome State Fault Refusal :=
  match s.teams.get? team with
  | none => .next s
  | some tm =>
    match tm.place, s.launches.get? tm.launch with
    | .saved _, some l =>
      if tm.readmitSince.isNone && tm.waves.any fun w => w.2.waits.any fun x => s.waitMet team tm l w.2 x then
        .next (s.modTeam team fun tm => { tm with readmitSince := some s.time })
      else .next s
    | _, _ => .next s

/-- The share index of a team's home slice (R85, R86). -/
def Launch.shareIndex (l : Launch) (i slices : Nat) : Nat :=
  if slices = 0 then 0
  else if l.serial || l.header.deterministic then i % slices
  else match l.packet.affinity with
    | 0 => i % slices
    | 1 => tileHash (i % l.packet.gx / 4) (i / l.packet.gx % l.packet.gy / 4) (i / (l.packet.gx * l.packet.gy)) / l.dies.length % slices
    | _ => (l.affinity[i % l.affinity.length]?).elim 0 fun e => e.2 % slices

/-- Whether a team that waits for re-admission is taken before another whose launch none of those that wait produces for: the earliest
effective deadline first (R368), then the order of R67, then the lower index (log entry 121). -/
def sooner (a b : Nat × Team × Launch) : Bool :=
  let da := (a.2.1.deadline a.2.2).toNat
  let db := (b.2.1.deadline b.2.2).toNat
  decide (da < db) || (da == db && (a.2.2.before b.2.2 || (!b.2.2.before a.2.2 &&
    (decide (a.2.1.launch < b.2.1.launch) || (a.2.1.launch == b.2.1.launch && decide (a.2.1.index < b.2.1.index))))))

/-- Whether a team gives way to another of those that wait for re-admission and could take its place on the core now: one of its
producers', or one that is taken sooner and gives way to no producer itself (R76, R368). -/
def State.givesWay (s : State) (x : Nat × Team × Launch) (core : Nat) : Bool :=
  let others := s.teams.filterMap fun t => match s.launches.get? t.2.launch with
    | some o =>
      if t.1 != x.1 && t.2.readmitSince.isSome && o.part == x.2.2.part && o.wants t.2.index core && s.coreFits core o.header
      then some (t.1, t.2, o) else none
    | none => none
  let free (y : Nat × Team × Launch) : Bool := !((x :: others).any fun z => s.producerOf z.2.1.launch y.2.2)
  !free x || others.any fun y => free y && sooner y x

/-- TEAM_RESTORE (R409, R294): the saved team takes its place on a core with its bindings resolved anew, and there its wakes are evaluated
again (R360): met subsets become READY, the others register again; the acquire of migration completes there. Another team that could take
its place on the core now may come before it. -/
def execTeamRestore (team core : Nat) (s : State) : Host.Outcome State Fault Refusal :=
  match s.teams.get? team with
  | none => .next s
  | some tm =>
    match tm.place, s.launches.get? tm.launch, tm.readmitSince with
    | .saved _, some l, some _ =>
      if !s.running l.part || !l.wants tm.index core || !s.coreFits core l.header || s.givesWay (team, tm, l) core then .next s
      else
        let tm1 : Team := { tm with
          core := core
          coreLog := l.cores.idxOf core
          dieLog := l.dies.idxOf (core / 36)
          bind := s.bindings l core (l.shareIndex tm.index (s.part l.part).share.length)
          ver := (s.ctx l.ctx).ver
          readmitSince := none }
        let s := (s.modTeam team fun _ => tm1).checkPeers l
        let s1 := s.modTeam team fun tm => { tm with waves := tm.waves.mapVals fun w =>
          { (w.wake s.time fun x => s.waitMet team tm1 l w x) with traps := 0 } }
        let s2 := (s1.seat team).acquire core allDoms .pkg false
        let s3 := tm1.waves.foldl (fun s w =>
          s.reevaluate team w.1 fun x => match x.wake with | .bwait false _ _ => true | _ => false) s2
        .next ((s3.dropRegs fun r => r.team == team && !r.live).inheritAnew team)
    | _, _, _ => .next s

/-! ## Debug saves (R411) -/

/-- The resident teams of a partition on spindles halted for debug. -/
def State.haltedTeams (s : State) (part : Nat) : List (Nat × Team × Launch) :=
  s.teams.filterMap fun t => match s.launches.get? t.2.launch with
    | some l => if l.part = part ∧ t.2.place = .resident ∧ (s.part part).dbghalt.getLsbD (t.2.core / 36) then some (t.1, t.2, l) else none
    | none => none

/-- A debug save of every such team (R411). -/
def State.debugSave (s : State) (part : Nat) : State :=
  (s.haltedTeams part).foldl (fun s x =>
    let (t, tm, l) := x
    let d := s.descOf l.ctx tm.ver
    match s.saveSlot l.part l.ctx d (256 + l.header.waves * waveSpan l.header.regs + l.header.stash) with
    | some k =>
      let im := tm.image l
      (s.undefinePages.writePaFor l.terms (slotBase d k) 0 im).modTeam t fun tm => { tm with debugSaved := some k, debugImage := im }
    | none => s) s

/-- Length of the BRK at which a wave stopped. -/
def Wave.brkLen (w : Wave) : W64 := if w.side.enc0.getLsbD 9 then 16 else 8

/-- Lanes stopped at a BRK go on after it (R170). -/
def Wave.brkResume (w : Wave) : Wave :=
  { w.setPcs w.brkStop fun l => if w.pcs.getD l 0 = w.side.pc then w.pcs.getD l 0 + w.brkLen else w.pcs.getD l 0 with brkStop := 0 }

/-- A field of a wave part that the host may change: what the image holds now if it differs from what was saved, else what the
wave holds (R411; log entry 106). -/
def hostValue (now old : List Byte) (at_ n : Nat) (own : Nat) : Nat :=
  if leAt now at_ n = leAt old at_ n then own else leAt now at_ n

/-- Whether a byte of a wave part lies in values, tags, PCs, predicates or resume PCs (R411). -/
def hostField (regs i : Nat) : Bool :=
  let j := i - 144 * regs
  decide (i < 144 * regs) || decide (j < 256) || (decide (imgPreds ≤ j) && decide (j < imgPreds + 48)) ||
    (decide (imgRpc ≤ j) && decide (j < imgRpc + 256))

/-- Whether two images of a part agree in every byte that `free` does not name. -/
def sameBut (free : Nat → Bool) : Nat → List Byte → List Byte → Bool
  | i, a :: as, b :: bs => (free i || a == b) && sameBut free (i + 1) as bs
  | _, _, _ => true

/-- A wave resumed from its part of the image: what the host has changed in values, tags, PCs, predicates and resume PCs takes
effect; a change of any other field leaves the wave stuck (R411; log entry 106). -/
def State.waveFromImage (s : State) (t w : Nat) (now old : List Byte) (regs : Nat) (bad : Bool) : State :=
  let f := 144 * regs
  match (s.teams.get? t).bind fun tm => tm.waves.get? w with
  | none => s
  | some wv =>
    let vec (r : Nat) : Vec :=
      let v := wv.vregs.getD r (Vec.splat ⟨0, 0⟩)
      Vec.of fun l =>
        let sh := if l % 2 = 1 then 16 else 1
        let tn := leAt now (128 * regs + 16 * r + l / 2) 1 / sh % 16
        let tk := leAt old (128 * regs + 16 * r + l / 2) 1 / sh % 16
        ⟨BitVec.ofNat 32 (hostValue now old (128 * r + 4 * l) 4 (v.lane l).val.toNat),
          if tn = tk then (v.lane l).tag else BitVec.ofNat 4 tn⟩
    let stuck := bad || !sameBut (hostField regs) 0 now old
    (s.writeRegs t w ((List.range regs).map fun r => (r, vec r)) []).modWave t w fun wv =>
      ({ wv with
        pcs := lanes32.map fun l => BitVec.ofNat 64 (hostValue now old (f + 8 * l) 8 (wv.pcs.getD l 0).toNat)
        preds := (List.range 12).map fun k => BitVec.ofNat 32 (hostValue now old (f + imgPreds + 4 * k) 4 (wv.preds.getD k 0).toNat)
        rpc := lanes32.map fun l => BitVec.ofNat 64 (hostValue now old (f + imgRpc + 8 * l) 8 (wv.rpc.getD l 0).toNat)
        never := if stuck then BitVec.allOnes 32 else wv.never } : Wave).brkResume

/-- Every debug-saved team goes on in place, from its image (R411). -/
def State.debugResume (s : State) (part : Nat) : State :=
  (s.haltedTeams part).foldl (fun s x =>
    let (t, tm, l) := x
    match tm.debugSaved with
    | none => s
    | some k =>
      let span := waveSpan l.header.regs
      let now := s.readSeen (slotBase (s.descOf l.ctx tm.ver) k) tm.debugImage.length 0
      let old := tm.debugImage
      let stash := 256 + tm.waves.length * span
      let bad := !sameBut (fun i => decide (256 ≤ i) && decide (i < stash)) 0 now old
      let part (x : Nat) (im : List Byte) : List Byte := (im.drop (256 + x * span)).take span
      ((List.zip (List.range tm.waves.length) tm.waves).foldl (fun s w =>
          s.waveFromImage t w.2.1 (part w.1 now) (part w.1 old) l.header.regs bad) s).modTeam t fun tm =>
        { tm with debugSaved := none, debugImage := [] }) s

end Sys2Proof.Machine
end

