-- ==== Sys2Proof/Machine/Faults.lean ====
section
/-! DEFINITION. The fault queue (R393-R398), the halt of a partition (R399-R404), uncorrectable data (R359), and the loss of
a spindle (R88-R93, R357, R467). -/

namespace Sys2Proof.Machine

/-! ## Rejected writes (R15, R425) -/

/-- A write to the management block is rejected: ERR and its offset. -/
def State.reject (s : State) (off : Nat) : State := { s with err := true, errAddr := BitVec.ofNat 32 off }

/-- A command of a host register takes effect: the host ports are up, and the registers are not closed in recovery (R436, R437; log entry
92). -/
def State.command (s : State) (f : State → State) : Host.Outcome State Fault Refusal := .next (if s.bootstat = 1 then f s else s)

/-- The state that a step which always goes on ends in. -/
def State.outcomeOf (s : State) (o : Host.Outcome State Fault Refusal) : State :=
  match o with
  | .next t => t
  | _ => s

/-- Offsets of a partition block and of a power unit's register in the management block (R424). -/
def partOffset (p : Nat) : Nat := 0x100000 + 0x1000 * p
def powerOffset (u : Nat) : Nat := 0x250000 + 8 * u

/-! ## The fault queue (R393-R398) -/

/-- Merges saturate (R394). -/
def sat16 (n : Nat) : Nat := Nat.min n 0xFFFF

/-- The pages of a wait changed. -/
def Wait.mapPages (f : List (W64 × Option W32) → List (W64 × Option W32)) (x : Wait) : Wait :=
  match x.wake with
  | .fault ps => { x with wake := .fault (f ps) }
  | _ => x

/-- Whether a team runs under a context of a partition. -/
def State.runsUnder (s : State) (part ctx : Nat) (t : Team) : Bool :=
  match s.launches.get? t.launch with
  | some l => l.part == part && l.ctx == ctx
  | none => false

/-- The pages on which the waits and engine commands of a context are parked changed. -/
def State.mapPages (s : State) (part ctx : Nat) (f : List (W64 × Option W32) → List (W64 × Option W32)) : State :=
  let wave (w : Wave) : Wave := { w with waits := w.waits.map (Wait.mapPages f) }
  let team (t : Team) : Team := if s.runsUnder part ctx t then { t with waves := t.waves.mapVals wave } else t
  let cmd (x : Cmd) : Cmd :=
    if (s.teams.get? x.team).elim false (s.runsUnder part ctx) then { x with parked := f x.parked } else x
  let core (c : Core) : Core := { c with cmds := c.cmds.map cmd }
  { s with teams := s.teams.mapVals team, cores := s.cores.mapVals core }

/-- The waits and engine commands on a page of a context learn the SEQ of its entry. -/
def State.tellSeq (s : State) (part ctx : Nat) (page : W64) (seq : W32) : State :=
  s.mapPages part ctx fun ps => ps.map fun p => if p.1 = page ∧ p.2 = none then (page, some seq) else p

/-- One access joins an entry. -/
def FqEntry.merge (e : FqEntry) (p : Parked) (now : W64) : FqEntry :=
  { e with merges := sat16 (e.merges + 1), parked := sat16 (e.parked + 1), kind := e.kind ||| p.kind, tscLast := now }

/-- The first access of a new entry. -/
def Parked.entry (p : Parked) (slot : Nat) (seq : W32) (since : W64) (host : Bool) : FqEntry where
  slot := slot
  vpage := p.vpage
  ctx := p.ctx
  kind := p.kind
  level := p.level
  cause := p.cause
  state := 1
  merges := 0
  tscFirst := p.tsc
  tscLast := 0
  source := p.source
  parked := 1
  seq := seq
  ident := p.ident
  since := since
  host := host

/-- Whether a parked access merges into an entry (R395). -/
def Parked.joins (a : Parked) (e : FqEntry) : Bool := e.ctx == a.ctx && e.vpage == a.vpage && (e.state == 1 || e.state == 2)

/-- The lowest slot of a partition's fault queue that is free. -/
def Part.freeEntry (p : Part) : Option Nat := (List.range 512).find? fun k => !(p.fq.any fun e => e.slot == k)

/-- FAULT_PARK (R395): the access that arrived first, and with it those that wait for the same page, merge into its entry or
take a free one; with 512 entries in use it waits, and only an access that merges goes before it (log entry 131). A new entry is
reported to the host in host-assisted fault service (R430). -/
def execFaultPark (part : Nat) (s : State) : Host.Outcome State Fault Refusal :=
  let p := s.part part
  match (if p.freeEntry.isSome then p.fqWait.head? else p.fqWait.find? fun a => p.fq.any a.joins) with
  | none => .next s
  | some a =>
    if p.pstate ≠ 1 then .next s
    else
      let same := p.fqWait.filter fun x => x.ctx == a.ctx && x.vpage == a.vpage
      let rest := p.fqWait.filter fun x => !(x.ctx == a.ctx && x.vpage == a.vpage)
      match p.fq.find? a.joins with
      | some e =>
        let e' := same.foldl (fun e x => e.merge x s.tsc) e
        .next ((s.modPart part fun p => { p with fqWait := rest, fq := p.fq.map fun x => if x.seq = e.seq then e' else x }).tellSeq
          part a.ctx a.vpage e.seq)
      | none =>
        match p.freeEntry with
        | none => .next s
        | some k =>
          let e := (same.drop 1).foldl (fun e x => e.merge x s.tsc) (a.entry k p.nextSeq (if p.dbghalt = 0 then s.tsc else 0) (p.modes.getLsbD 0))
          let s := (s.modPart part fun p => { p with fqWait := rest, fq := p.fq ++ [e], nextSeq := p.nextSeq + 1 }).tellSeq
            part a.ctx a.vpage p.nextSeq
          .next (if p.modes.getLsbD 0 then s.partEvent (engineSource part) 9 part p.nextSeq.toNat else s)

/-- FQTAKE (R396), by the service agent: for partition p manager core p mod 4, or the host when its mode was host-assisted as the entry was
made (R430; log entry 98). -/
def execFqtake (part : Nat) (seq : W32) (s : State) : Host.Outcome State Fault Refusal :=
  s.command fun s =>
    if (s.part part).fq.any fun e => e.seq == seq && e.state == 1 then
      s.modPart part fun p => { p with fq := p.fq.map fun e => if e.seq = seq then { e with state := 2 } else e }
    else s.reject (partOffset part + 0x78)

/-- A page of a fault wait is resolved. A subset blocked on several entries wakes with the last (R397). -/
def dropPage (seq : W32) (page : W64) (ps : List (W64 × Option W32)) : List (W64 × Option W32) :=
  ps.filter fun p => !(p.1 == page && p.2 == some seq)

/-- Every access parked on an entry is replayed (R396, R397): commands go on, and subsets that wait for nothing more become
READY, those of a saved team when it is evaluated (R407). -/
def State.replay (s : State) (part : Nat) (e : FqEntry) : State :=
  let s := s.mapPages part e.ctx (dropPage e.seq e.vpage)
  let wake (w : Wave) : Wave := w.wake s.time fun x => x.wake == .fault []
  let team (t : Team) : Team :=
    if s.runsUnder part e.ctx t && t.place == .resident then { t with waves := t.waves.mapVals wake } else t
  { s with teams := s.teams.mapVals team }

/-- FQRESOLVE with FAIL = 0 (R396), by the service agent: the entry is resolved, its accesses are replayed, and it is free. -/
def execFqresolve (part : Nat) (seq : W32) (s : State) : Host.Outcome State Fault Refusal :=
  s.command fun s =>
    match (s.part part).fq.find? fun e => e.seq == seq && e.state == 2 with
    | none => s.reject (partOffset part + 0x80)
    | some e => (s.modPart part fun p => { p with fq := p.fq.filter fun x => x.seq != seq }).replay part e

/-- Whether the host serves an entry of a partition: of one that it does not serve it may take and resolve nothing, for no duty is performed
by both (R430; log entry 98). -/
def State.hostServes (s : State) (part : Nat) (seq : W32) : Bool := (s.part part).fq.any fun e => e.seq == seq && e.host

/-- FQRESOLVE with FAIL = 1 (R396, R453), by the service agent: a context fault FAULTFAIL, detected by the queue engine. -/
def execFqresolveFail (part : Nat) (seq : W32) (s : State) : Host.Outcome State Fault Refusal :=
  s.command fun s =>
    match (s.part part).fq.find? fun e => e.seq == seq && e.state == 2 with
    | none => s.reject (partOffset part + 0x80)
    | some e => s.raise part .faultfail (engineSource part) e.vpage 0 e.ctx e.ident

/-- WATCHDOG (R398): an entry older than the limit. -/
def execWatchdog (part : Nat) (seq : W32) (s : State) : Host.Outcome State Fault Refusal :=
  let p := s.part part
  match p.fq.find? fun e => e.seq == seq && (e.state == 1 || e.state == 2) with
  | none => .next s
  | some e =>
    if s.running part && p.dbghalt == 0 && decide (p.fwdog.toNat < s.tsc.toNat - e.since.toNat) then
      .next (s.raise part .watchdog (engineSource part) e.vpage 0 e.ctx e.ident)
    else .next s

/-! ## The halt (R399-R404) -/

/-- Code of a cause (R399). -/
def Cause.code (c : Cause) : Nat := c.ctorIdx + 1

/-- UNITKIND of a source number (R10, R401, R467). -/
def unitKind (src : Nat) : Nat :=
  if src < 24 * 64 then 1
  else if src < 40 * 64 then (if 36 * 64 ≤ src ∧ 16 ≤ src % 64 then 5 else 4)
  else if src < 42 * 64 then 2
  else if src < 42 * 64 + 24 then 3 else 6

/-- The cause a halt records: the earliest, then the lowest source number (R400). -/
def firstCause : List CauseRec → Option CauseRec
  | [] => none
  | c :: cs =>
    match firstCause cs with
    | none => some c
    | some d => if d.tsc.toNat < c.tsc.toNat ∨ (d.tsc = c.tsc ∧ d.source < c.source) then some d else some c

/-- The requests of stations, slots and slice buffers that no slice has accepted. -/
def State.unaccepted (s : State) : List Req :=
  (s.stations.flatMap fun st => st.2.queue.map (·.2)) ++
  (s.channels.flatMap fun ch => (ch.2.flight ++ ch.2.held).flatMap Slot.msgs) ++
  (s.stations.flatMap fun st => (st.2.sent ++ st.2.resend).flatMap fun e =>
    if (s.channel e.1).awaiting.contains (st.1, e.2.seq) then e.2.msgs else []) ++
  s.slices.flatMap fun sl => sl.2.inq

/-- Requests that satisfy a test are discarded before a slice accepts them (R400, R90). -/
def State.discardRequests (s : State) (p : Req → Bool) : State :=
  let slot (x : Slot) : Slot := { x with msgs := x.msgs.filter fun r => !p r }
  { s with
    stations := s.stations.mapVals fun st => { st with
      queue := st.queue.filter fun e => !p e.2
      sent := st.sent.map fun e => (e.1, slot e.2)
      resend := st.resend.map fun e => (e.1, slot e.2) }
    channels := s.channels.mapVals fun ch => { ch with flight := ch.flight.map slot, held := ch.held.map slot }
    slices := s.slices.mapVals fun sl => { sl with inq := sl.inq.filter fun r => !p r } }

/-- Messages on their way through the mesh that satisfy a test are discarded. -/
def State.dropMessages (s : State) (p : MeshMsg → Bool) : State :=
  { s with routers := s.routers.mapVals fun r => { r with out := r.out.mapVals fun l => l.filter fun m => !p m } }

/-- Cores whose filters no longer answer invalidations (R90 step 3): nothing waits for them. -/
def State.forgetCores (s : State) (p : Nat → Bool) : State :=
  { s with
    slices := s.slices.mapVals fun sl => { sl with pend := sl.pend.map fun w => { w with cores := w.cores.filter fun c => !p c } }
    links := s.links.mapVals fun k => { k with snoops := k.snoops.map fun w => { w with waits := w.waits.filter fun x => !p x.2 } } }

/-- A request that is to be answered, as opposed to an answer. -/
def linkAsks : LinkBody → Bool
  | .data _ _ => false
  | .olds _ => false
  | .scale _ _ => false
  | .ack => false
  | .denied => false
  | .allowed _ _ => false
  | .snoopAck _ => false
  | _ => true

/-- Whether part of a message has left: it is the first of a network that spans flits (R354). -/
def Link.begun (k : Link) (m : LinkOut) : Bool :=
  decide (0 < k.sentBytes.getD m.msg.net 0) && k.sendQ.find? (fun x => x.msg.net == m.msg.net) == some m

/-- Whether a request waits to leave at a port, no byte of it sent. -/
def Link.unsent (k : Link) (tag : Nat) : Bool := k.sendQ.any fun m => linkAsks m.msg.body && m.msg.tag == tag && !k.begun m

/-- Whether a message is a request that some asker sends to another package. -/
def Msg.asks (p : Asker → Nat → Bool) : Msg → Bool
  | .toLink _ m a part => linkAsks m.body && p a part
  | _ => false

/-- Whether a request to another package, of an asker, has not left this one. -/
def State.stillHere (s : State) (p : Asker → Bool) : Bool :=
  (s.routers.any fun r => r.2.out.any fun o => o.2.any fun m => m.msg.asks fun a _ => p a) ||
    s.links.any fun k => (k.2.inbox.any fun m => m.asks fun a _ => p a) || k.2.outstanding.any fun o => p o.asker && k.2.unsent o.tag

/-- Whether an asker is one message of an atomic. -/
def AtomReq.isAsker (a : AtomReq) : Asker → Bool
  | .remote _ t w o part => t == a.team && w == a.wave && o == a.op && part == a.part
  | _ => false

/-- STATE of a stop record's entry (R403): 1 not performed, 2 performed, 3 unknown. -/
def State.atomState (s : State) (a : AtomReq) : Nat :=
  if a.link.isSome then (if s.stillHere a.isAsker then 1 else 3)
  else if s.unaccepted.any fun r => r.id == a.req then 1 else 2

/-- A body entry (R402). -/
def State.atomEntry (s : State) (a : AtomReq) : Nat :=
  a.vline % 2 ^ 48 * 2 ^ 16 + (if a.peer then 2 ^ 15 else 0) + s.atomState a * 2 ^ 13 + a.slot % 64 * 2 ^ 7 + a.mod.toNat * 4 + a.insn % 4

/-- A stop record (R401): the detecting unit alone gives the address, and a detecting core the PC. -/
def State.stopRecord (s : State) (part : Nat) (c : CauseRec) (n src : Nat) (core : Option Core) : List Byte :=
  let mine := src == c.source
  let kind := unitKind src
  let tail : List Byte := match core with
    | some k =>
      toLe 1 (Nat.min 24 k.atomsInFlight.length) ++ toLe 1 (Nat.min 255 k.cmds.length) ++ toLe 1 (Nat.min 255 k.atomsUnsent.length) ++ zeros 18 ++
        (k.atomsInFlight.flatMap fun a => toLe 8 (s.atomEntry a))
    | none => []
  let hd := toLe 8 c.tsc.toNat ++ toLe 2 src ++ toLe 1 kind ++ toLe 1 c.cause.code ++ toLe 2 c.source ++ toLe 2 (sat16 n) ++ toLe 8 s.tsc.toNat ++
    toLe 8 (if mine then c.addr.toNat else 0) ++ toLe 8 (if mine && kind == 1 then c.pc.toNat else 0) ++ toLe 2 c.ctx ++ toLe 1 part
  (hd ++ tail ++ zeros 256).take 256

/-- The cores of a partition: the enabled cores of its spindles. -/
def State.partCores (s : State) (part : Nat) : List Nat :=
  ((List.range 24).filter fun k => (s.part part).spindles.getLsbD k).flatMap fun k => (s.spindle k).enabled.map fun p => k * 36 + p

/-- The slices of a partition. -/
def Part.sliceList (p : Part) : List Nat := (List.range 96).filter fun k => p.slices.getLsbD k

/-- Every stop record of a halt: cores of spindles that are not fenced, slices, the queue engine, the detecting unit. -/
def State.stopRecords (s : State) (part : Nat) (c : CauseRec) (n : Nat) : State :=
  let base := (s.part part).stopbase.toNat
  if base = 0 then s
  else
    let cores := (s.partCores part).filter fun k => !(s.spindle (k / 36)).fenced
    let units : List (Nat × Option Core) := cores.map (fun k => (coreSource k, some (s.core k))) ++
      (s.part part).sliceList.map (fun k => (sliceSource k, none)) ++ [(engineSource part, none)]
    let units := if units.any fun u => u.1 == c.source then units else units ++ [(c.source, none)]
    let recs := units.map fun u => (u.1, s.stopRecord part c n u.1 u.2)
    recs.foldl (fun s r => s.writePa (base + 256 * r.1) 0 r.2) s

/-- A core without anything that is in progress or cached; its counters stay (R152). -/
def Core.cleared (c : Core) : Core :=
  { Core.reset with
    reuseLook := c.reuseLook
    reuseHit := c.reuseHit
    collide := c.collide
    overflow := c.overflow
    swaps := c.swaps }

/-- The root launches of a partition that satisfy a test. -/
def State.rootsOf (s : State) (p : Launch → Bool) : List Nat :=
  (s.launches.filter fun l => l.2.parent.isNone && p l.2).map (·.1)

/-- Requests at a link port end: those not yet sent never leave (R90, R400), and with `sent` no answer is awaited of the others. -/
def Link.forget (k : Link) (p : Asker → Nat → Bool) (sent : Bool) : Link :=
  let tags := (k.outstanding.filter fun o => p o.asker o.part).map (·.tag)
  { k with
    inbox := k.inbox.filter fun m => !m.asks p
    sendQ := k.sendQ.filter fun m => !(linkAsks m.msg.body && tags.contains m.msg.tag) || k.begun m
    outstanding := k.outstanding.filter fun o => !(p o.asker o.part && (sent || k.unsent o.tag)) }

/-- The halt of a partition (R400-R404): stop records, requests not accepted discarded, slices closed, cores stopped; launches complete with HALTED,
queues stop with QERR 5; the fault queue and saved teams are discarded. Requests already accepted complete; what a core holds and has not
sent is discarded before any launch completes. -/
def State.haltPart (s : State) (part : Nat) : State :=
  let p := s.part part
  match firstCause p.causes with
  | none => s
  | some c =>
    if p.pstate ≠ 1 then s
    else
      let n := (p.causes.filter fun x => decide (x.tsc.toNat ≤ c.tsc.toNat + 64)).length
      let s := s.stopRecords part c n
      let mine := s.partCores part
      let others := p.sliceList.flatMap fun k => ((s.slice k).inq.filter fun r => r.part != part || r.ofPeer).map fun r => (k, r)
      let s := s.discardRequests fun r => r.part == part && !r.ofPeer
      let s := p.sliceList.foldl (fun s k => s.modSlice k fun sl => { sl with closed := true, inq := [] }) s
      let s := others.foldl (fun s x => s.arriveAtSlice x.1 x.2) s
      let s := s.dropMessages fun m => m.msg.asks fun _ p => p == part
      let s := { s with links := s.links.mapVals fun k => k.forget (fun _ p => p == part) true }
      let s := s.forgetCores mine.contains
      let s := mine.foldl (fun s k => s.modCore k fun x => { x.cleared with stopped := true }) s
      let s := (s.rootsOf fun l => l.part == part).foldl (fun s r => s.endTree r 2) s
      let s := ((s.queues.filter fun q => s.queuePart q.1 == part && q.2.cbpa != 0).map (·.1)).foldl (fun s q => s.setQState q 2 5) s
      let s := s.modPart part fun p => { p with
        fq := [], fqWait := [], causes := [], linkHeld := [], linkWaits := [], pstate := 2, hcause := BitVec.ofNat 8 c.cause.code }
      let s := { s with withheld := s.withheld.filter fun x => s.ownerOf (x * 64) != part }
      s.partEvent c.source 7 part c.ident

/-- HALT (R400). -/
def execHalt (part : Nat) (s : State) : Host.Outcome State Fault Refusal := .next (s.haltPart part)

/-- The teams on a core with an operation under way on a sector of addresses. -/
def State.touching (s : State) (core sec : Nat) : List Asker :=
  s.teams.flatMap fun t => if t.2.core != core then [] else
    t.2.waves.flatMap fun w => (w.2.ops.filter fun o => o.pieces.any fun p => p.va.toNat / 64 == sec).map fun o => Asker.op t.1 w.1 o.id

/-- The PAs of the sector at a VA in the contexts of the teams on a core. -/
def State.secsAt (s : State) (core : Nat) (va : Nat) : List Nat :=
  (s.teams.filterMap fun t => if t.2.core = core then
      (s.launches.get? t.2.launch).bind fun l => (s.runsOf l.ctx l.part ⟨true, false, false⟩ (va / 64 * 64) 64).bind fun rs => rs.head?.map fun r => r.1 / 64
    else none).eraseDups

/-- UNCORRECTABLE (R359): a slice, a memory socket or a core finds data that it cannot correct, and withholds them until the halt of the
partition that owns them. A slice or a memory socket gives the PA of the data, a core the VA of the access, and its spindle the
partition. The event names a launch when the requests that met the error are those of one (R435). -/
def execUncorrectable (part source : Nat) (addr : W64) (s : State) : Host.Outcome State Fault Refusal :=
  let core := decide (unitKind source = 1)
  let owner := if core then (s.spindle (source / 64)).part else s.ownerOf addr.toNat
  if part ≠ owner ∨ !s.running part then .next s
  else
    let at_ := source / 64 * 36 + source % 64
    let met := if core then s.touching at_ (addr.toNat / 64)
      else s.slices.flatMap fun sl => (sl.2.admitted.filter fun r => r.line == addr.toNat / 256).map Req.asker
    let who := s.meetsOne met
    let s :=
      if core then
        let secs := s.secsAt at_ addr.toNat
        s.modCore at_ fun c => { c with badVa := (addr.toNat / 64) :: c.badVa, badPa := secs ++ c.badPa }
      else { s with withheld := s.withheld ++ [addr.toNat / 64] }
    .next (s.raise part .uncorrectable source addr 0 who.1 who.2)

/-! ## The loss of a spindle (R88-R93) -/

/-- A launch and its descendants: the launches whose parent team belongs to one of them. -/
def State.descendants (s : State) : Nat → List Nat → List Nat
  | 0, ls => ls
  | n + 1, ls =>
    let more := (s.launches.filter fun l => !ls.contains l.1 && (match l.2.parent with
      | some (t, _) => (match s.teams.get? t with | some tm => ls.contains tm.launch | none => false)
      | none => false)).map (·.1)
    if more.isEmpty then ls else s.descendants n (ls ++ more)

/-- A launch, root or child grid, completes with a code: its teams and its child grids, at most ten deep (R52), end (R91). -/
def State.endLaunch (s : State) (lid : Nat) (code : Byte) : State :=
  let tree := s.descendants 11 [lid]
  let s := ((s.teams.filter fun t => tree.contains t.2.launch).map (·.1)).foldl State.removeTeam s
  let s := { s with launches := s.launches.filter fun l => l.1 == lid || !tree.contains l.1 }
  s.completeLaunch lid code 0

/-- A list with a number put in its place. -/
def insertSorted (i : Nat) : List Nat → List Nat
  | [] => [i]
  | j :: l => if i ≤ j then i :: j :: l else j :: insertSorted i l

/-- A team of a lost spindle (R91): one that has issued nothing counts as unplaced, and is placed elsewhere when there is room; another
is restarted, in a CO-RESIDENT grid only where it fits at once; else its launch ends with DIE LOST. With the identifiers of the
launches that ended. -/
def State.loseTeam (acc : State × List Nat) (t : Nat) : State × List Nat :=
  let s := acc.1
  match s.teams.get? t with
  | none => acc
  | some tm =>
    match s.launches.get? tm.launch with
    | none => acc
    | some l =>
      let s1 := (s.removeTeam t).modLaunch tm.launch fun l => { l with ready := insertSorted tm.index l.ready }
      let may := !tm.started || (l.header.idempotent && !tm.fvc && !(s.logicalDies l.part).isEmpty)
      let spot := (s1.launches.get? tm.launch).bind fun l => (s1.target tm.launch l tm.index).map fun x => (l, x)
      if !may then (s.endLaunch tm.launch 3, acc.2 ++ [l.ident])
      else if !l.packet.coResident then (s1, acc.2)
      else match spot with
        | some (l, c, h) => (s1.placeTeam tm.launch l tm.index c h, acc.2)
        | none => if tm.started then (s.endLaunch tm.launch 3, acc.2 ++ [l.ident]) else (s1, acc.2)

/-- Every core of a spindle loses what it holds and becomes as `f` gives it; but the copy commands of teams that are saved or have moved go
on, with the answers to them (R90, R333). -/
def State.emptyCores (s : State) (k : Nat) (f : Core → Core) : State :=
  let keep (c : Core) (core : Nat) : Core :=
    let cmds := c.cmds.filter fun x => s.elsewhere k x.team
    { f c with
      cmds := cmds
      ranges := c.ranges.filter fun r => cmds.any fun x => x.id == r.cmd
      atomsInFlight := c.atomsInFlight.filter fun a => s.elsewhere k a.team
      inbox := c.inbox.filter (s.forSaved core) }
  (List.range 36).foldl (fun s p => s.modCore (36 * k + p) fun c => keep c (36 * k + p)) s

/-- What a spindle holds and has not given to a home slice is discarded: its cores' stores and lines, and the commands of its teams and their
mapped bytes (R88). -/
def State.discardHeld (s : State) (k : Nat) : State :=
  let s := s.emptyCores k Core.cleared
  { s with teams := s.teams.mapVals fun t => if t.core / 36 == k && (match t.place with | .saved _ => false | _ => true) then
      { t with maps := t.maps.map fun m => { m with sec := [] } } else t }

/-- Whether a request is one of a spindle that it drops when it is lost: of its cores, unless for a team that is saved or has moved. -/
def State.ofLost (s : State) (k : Nat) (a : Asker) : Bool :=
  let core : Option Nat := match a with
    | .op t _ _ => (s.teams.get? t).map Team.core
    | .evict c _ => some c
    | .cmd c _ _ => some c
    | .prefetch c => some c
    | .fetch c => some c
    | .remote c _ _ _ _ => some c
    | .probe c _ _ _ => some c
    | _ => none
  let team : Option Nat := match a with
    | .remote _ t _ _ _ => some t
    | a => s.askerTeam a
  core.any (· / 36 == k) && !(team.any fun t => s.elsewhere k t)

/-- R90 for a spindle: its ports close, requests not accepted are dropped, the directory forgets it, what it holds is discarded, its
teams are handled and its partition is renumbered. The identifiers of launches that completed with DIE LOST are given back. -/
def State.fence (s : State) (k : Nat) : State × List Nat :=
  let mine (c : Nat) : Bool := c / 36 == k
  let part := (s.spindle k).part
  let s := s.modSpindle k fun x => { x with fenced := true, resetSinceFence := x.fenced && x.resetSinceFence }
  let lost := s.ofLost k
  let s := s.discardRequests fun r => match r.asker with
    | .op t _ _ => mine r.core && !s.elsewhere k t
    | a => lost a
  let s := s.dropMessages fun m => m.source / 64 == k && m.msg.asks fun a _ => lost a
  let s := { s with links := s.links.mapVals fun x => x.forget (fun a _ => lost a) false }
  let s := { s with slices := s.slices.mapVals fun sl => { sl with dir := sl.dir.mapVals fun d => { d with sharers := d.sharers &&& ~~~(1#24 <<< k) } } }
  let s := ((s.forgetCores mine).discardHeld k).renumber part
  let teams := (s.teams.filter fun t => (match t.2.place with | .resident => true | .draining => true | _ => false) && mine t.2.core).map (·.1)
  let r := teams.foldl State.loseTeam (s, [])
  (r.1.discardHeld k, r.2)

/-- A failure that the mandrel detects (R92, R467): the spindle is fenced, and DIELOST is raised when a launch was lost. -/
def State.dieFails (s : State) (k : Nat) : State :=
  if 24 ≤ k ∨ (s.spindle k).fenced then s
  else
    let part := (s.spindle k).part
    let r := s.fence k
    match r.2 with
    | [] => r.1
    | i :: is => if r.1.running part then r.1.raise part .dielost (monitorSource k) 0 0 0xFFFF (is.foldl Nat.min i) else r.1

/-- Whether a request that crosses to a spindle has not arrived, or has no answer, within the limit, counted in ticks of the TSC (R357): an
entry of a core's neighbour link, or an invalidation that a slice or a link port sent (log entry 94). -/
def State.stuckOn (s : State) (core target : Nat) : Bool :=
  let old (since : W64) : Bool := decide ((s.part (s.spindle target).part).todie.toNat ≤ (s.tsc - since).toNat)
  ((s.core core).links.any fun d => d.2.any fun e => e.target / 36 == target && target != core / 36 && old e.since) ||
    (s.slices.any fun sl => sl.2.pend.any fun p => (p.cores.any fun c => c / 36 == target) && old p.since) ||
    (s.links.any fun l => l.2.snoops.any fun x => (x.waits.any fun w => w.2 / 36 == target) && old x.since)

/-- Whether a cross-die time-out has expired. It is suspended while the target is halted for debug (R357). -/
def State.timedOut (s : State) (core target : Nat) : Bool :=
  s.stuckOn core target && !(s.part (s.spindle target).part).dbghalt.getLsbD target

/-- The spindle that a write of a spindle's power register fences: by SPOP 1 or 2, or by a command to PARKED or OFF that takes effect (R432,
R433, R463). -/
def State.fenceOfWrite (s : State) (off : Nat) (v : W64) : Option (Nat × Bool) :=
  let u := (off - powerOffset 0) / 8
  let down := decide (3 ≤ bits v 8 3) && decide ((s.unit u).state < 3)
  if powerOffset 0 ≤ off ∧ off < powerOffset 24 ∧ off % 8 = 0 ∧ (bits v 24 2 = 1 ∨ bits v 24 2 = 2 ∨ down) then some (u, false) else none

/-- The spindle that an event fences, and whether the mandrel detects a failure. -/
def State.fenceOf (s : State) (e : Instr) : Option (Nat × Bool) :=
  match e with
  | .dieFailure k => some (k, true)
  | .crossDieTimeout c k => if s.timedOut c k then some (k, true) else none
  | .spopFence k => some (k, false)
  | .spopReset k => some (k, false)
  | .powerCommand u target => if u < 24 ∧ 3 ≤ target ∧ (s.unit u).state < 3 then some (u, false) else none
  | .registerWrite off v => s.fenceOfWrite off v
  | .rdmaWrite _ pa data =>
    if Config.mbase ≤ pa ∧ data.length = 8 then s.fenceOfWrite (pa - Config.mbase) (BitVec.ofNat 64 (leNat data)) else none
  | _ => none

/-- The sockets that are fenced at the same time as the event under way, by events that follow it without delay (R93). -/
def State.fencedNext (s : State) : List (Nat × Instr) → List (Nat × Bool)
  | (0, e) :: l => match s.fenceOf e with
    | some x => x :: s.fencedNext l
    | none => []
  | _ => []

/-- R90 applied to the sockets below one that are fenced at the same time, in ascending order (R93; log entry 122). -/
def State.fenceLower (s : State) (k : Nat) : State :=
  (sortBy (fun a b : Nat × Bool => decide (a.1 ≤ b.1)) (s.fencedNext s.agenda)).foldl (fun s x =>
    if k ≤ x.1 ∨ (s.spindle x.1).fenced then s else if x.2 then s.dieFails x.1 else (s.fence x.1).1) s

/-- DIE_FAILURE (R90, R92, R93). -/
def execDieFailure (socket : Nat) (s : State) : Host.Outcome State Fault Refusal := .next ((s.fenceLower socket).dieFails socket)

/-- CROSS_DIE_TIMEOUT (R357): the target of a request that has run out counts as failed. -/
def execCrossDieTimeout (core target : Nat) (s : State) : Host.Outcome State Fault Refusal :=
  if s.timedOut core target then .next ((s.fenceLower target).dieFails target) else .next s

end Sys2Proof.Machine
end

