-- ==== Sys2Proof/Machine/Flit.lean ====
section
/-! DEFINITION. The bytes of a flit (R354): its header, its CRC-32C, and its bits on the working wavelengths (R352). -/

namespace Sys2Proof.Machine

/-- One bit of CRC-32C, least significant bit first (log entry 123). -/
def crcBit (c : W32) : W32 := if c.getLsbD 0 then (c >>> 1) ^^^ 0x82F63B78#32 else c >>> 1

/-- CRC-32C of bytes. -/
def crc32c (bs : List Byte) : W32 :=
  ~~~(bs.foldl (fun (c : W32) b => (List.range 8).foldl (fun c _ => crcBit c) (c ^^^ b.setWidth 32)) (BitVec.allOnes 32))

/-- The working wavelengths of a mask, in ascending order. -/
def wavesOf (m : BitVec 16) : List Nat := (List.range 16).filter fun i => m.getLsbD i

/-- Wavelengths in a mask. -/
def waveCount (m : BitVec 16) : Nat := (wavesOf m).length

/-- The lowest eight of the wavelengths in a mask. -/
def lowestEight (m : BitVec 16) : BitVec 16 := BitVec.ofNat 16 (((wavesOf m).take 8).foldl (fun n i => n + 2 ^ i) 0)

/-- The wavelengths of the transmit direction of every link that an external laser source feeds (R352). -/
def laserWaves (source : Nat) : BitVec 16 := BitVec.ofNat 16 (0xF <<< (4 * source))

end Sys2Proof.Machine

namespace Sys2Proof

open Machine

/-- Bytes 0x00-0xFB: PAYLOAD and HDR. -/
def FlitFrame.covered (f : FlitFrame) : List Byte := toLe 250 f.payload.toNat ++ toLe 2 f.hdr.toNat

/-- Whether the CRC of a flit is correct. -/
def FlitFrame.intact (f : FlitFrame) : Bool := crc32c f.covered == f.crc

/-- HDR[15:13] and HDR[12:0]. -/
def FlitFrame.net (f : FlitFrame) : Nat := (f.hdr.extractLsb' 13 3).toNat
def FlitFrame.seq (f : FlitFrame) : BitVec 13 := f.hdr.extractLsb' 0 13

/-- A flit with its CRC. -/
def FlitFrame.make (payload : BitVec 2000) (net : BitVec 3) (seq : BitVec 13) : FlitFrame :=
  let f : FlitFrame := ⟨payload, net ++ seq, 0⟩
  { f with crc := crc32c f.covered }

/-- The 256 bytes of a flit as the four beats of 64 bytes that carry it, bit 0 first (R352). -/
def FlitFrame.beats (f : FlitFrame) : BitVec 2048 := f.crc ++ f.hdr ++ f.payload

/-- The bits of a flit on each working wavelength: bit i goes on the (i mod W)-th (R352; log entry 124). -/
def FlitFrame.fibre (f : FlitFrame) (mask : BitVec 16) : AMap (List Bool) :=
  let ws := wavesOf mask
  let whole := f.beats
  (List.range ws.length).map fun j =>
    (ws.getD j 0, (List.range ((2048 - j + ws.length - 1) / ws.length)).map fun n => whole.getLsbD (j + n * ws.length))

end Sys2Proof
end

