-- ==== Sys2Proof/Machine/Links.lean ====
section
/-! DEFINITION. Scale-up links: messages of other packages and to them (R276, R277, R353), flits and replay (R354, R355),
control flits (R464), light and stripes (R352, R356, R465), loss and recovery (R357, R358), and the snoop filters (R298). -/

namespace Sys2Proof.Machine

/-! ## Links -/

/-- The power unit of a link (R433). -/
def linkUnit (l : Nat) : Nat := 36 + l

/-- A link carries flits while it is in service and ACTIVE or TRIM (R432). -/
def State.linkUp (s : State) (l : Nat) : Bool := (s.link l).inService && decide ((s.unit (linkUnit l)).state ≤ 1)

def linkRouter (l : Nat) : Nat := sockRouter (12 + l / 8)

/-- The wavelengths that a link uses of those that are lit: at most eight in TRIM (R432). -/
def State.inUse (s : State) (l : Nat) (m : BitVec 16) : BitVec 16 := if (s.unit (linkUnit l)).state = 1 then lowestEight m else m

/-! ## Records (R356, R358) -/

/-- An event record of a port. -/
def State.linkEvent (s : State) (l : Nat) (r : LinkRecord) : State :=
  s.putEvent (eventBytes r.tsc (linkSource l) r.code (toLe 1 l ++ toLe 2 r.oldMask.toNat ++ toLe 2 r.newMask.toNat ++ toLe 4 r.replayed ++
    toLe 4 r.darkNs.toNat ++ toLe 1 r.dir))

/-- Masks of the two directions change (R356, R432, R465): each direction that changed owes a record. `light`: wavelengths went dark. -/
def State.newMasks (s : State) (l code : Nat) (light : Bool) (rx tx : BitVec 16) : State :=
  let k := s.link l
  let one (dir : Nat) (o n : BitVec 16) (rep : Nat) (dark : W32) (tsc : W64) : List LinkRecord :=
    if o = n then []
    else [⟨code, o, n, dir, if light then rep else 0, if light then dark else 0, if light then tsc else s.tsc, s.time + 12000, none, false⟩]
  let rs := one 0 k.txMask tx k.txResent k.peerDark k.reportTsc ++ one 1 k.rxMask rx k.rxDisc k.darkNs k.detectTsc
  s.modLink l fun k => { k with txMask := tx, rxMask := rx, records := k.records ++ rs }

/-- The records that a link still owes are written: no flit of it will be accepted any more. -/
def State.flushRecords (s : State) (l : Nat) : State :=
  (s.link l).records.foldl (fun s r => s.linkEvent l r) (s.modLink l fun k => { k with records := [] })

/-! ## Loss of a link (R357, R358) -/

/-- The partitions with a request outstanding on a link: one that was sent on it and awaits its answer (R357). -/
def Link.partitions (k : Link) : List Nat := ((k.outstanding.filter LinkWait.sent).map LinkWait.part).eraseDups

/-- Launch identifier and context of a team's launch. -/
def State.teamIdent (s : State) (t : Nat) : Nat × Nat :=
  ((s.teams.get? t).bind fun tm => s.launches.get? tm.launch).elim (0, 0xFFFF) fun l => (l.ident, l.ctx)

/-- Launch identifier and context of an asker. -/
def State.askerIdent (s : State) : Asker → Nat × Nat
  | .remote _ t _ _ _ => s.teamIdent t
  | .probe _ t _ _ => s.teamIdent t
  | .cmd core cmd _ => ((s.core core).cmds.find? (·.id == cmd)).elim (0, 0xFFFF) fun c => s.teamIdent c.team
  | _ => (0, 0xFFFF)

/-- LINKLOST for a partition: it names the launch of the request on the link when there is one. -/
def State.linkLost (s : State) (part l : Nat) : State :=
  if s.running part then
    let x := match (s.link l).outstanding.filter fun o => o.part == part with
      | [o] => s.askerIdent o.asker
      | _ => (0, 0xFFFF)
    s.raise part .linklost (linkSource l) 0 0 x.2 x.1
  else s

/-- The TSC since which a partition's requests on a link are held for its host (R358). -/
def State.heldSince (s : State) (part l : Nat) : Option W64 := ((s.part part).linkHeld.find? (·.1 == l)).map (·.2)

/-- The recovery decision as a link becomes lost (R358): in host-assisted mode the requests are held and the host is asked. -/
def State.askHost (s : State) (part l : Nat) : State :=
  if (s.part part).modes.getLsbD 1 && (s.heldSince part l).isNone then
    (s.modPart part fun p => { p with linkHeld := p.linkHeld ++ [(l, s.tsc)] }).partEvent (linkSource l) 10 part l
  else s

/-- The host has decided (R358): the time during which the requests were held does not count for their time-outs (R357). -/
def State.unhold (s : State) (part l : Nat) : State :=
  let span : W64 := (s.heldSince part l).elim 0 fun t => s.tsc - t
  (s.modPart part fun p => { p with linkHeld := p.linkHeld.filter (·.1 != l) }).modLink l fun k => { k with
    outstanding := k.outstanding.map fun o => if o.part = part && o.sent then { o with since := o.since.map (· + span) } else o }

/-- Requests that wait at the port while the link is out of service are held from now on, or no longer (R357). -/
def State.holdUnsent (s : State) (l : Nat) (since : Option W64) : State :=
  s.modLink l fun k => { k with outstanding := k.outstanding.map fun o => if o.sent then o else { o with since := since } }

/-- A link becomes lost (R358): CODE 2 records, the replay buffer kept, a retrain begun. -/
def State.loseLink (s : State) (l : Nat) : State :=
  let k := s.link l
  if !k.inService then s
  else
    let r (dir : Nat) (o : BitVec 16) (d : W32) : LinkRecord := ⟨2, o, 0, dir, 0, d, s.tsc, s.time, none, true⟩
    let s := (s.linkEvent l (r 0 k.txMask k.peerDark)).linkEvent l (r 1 k.rxMask k.darkNs)
    let s := s.modLink l fun k => { k with inService := false, retraining := true, retrainFailed := false, resendAt := 0 }
    k.partitions.foldl (fun s p => s.askHost p l) (s.holdUnsent l (some s.tsc))

/-- A link that is commanded to PARKED or OFF loses its outstanding requests (R432, R357). Its replay buffer is kept, so that SEQ goes
on when the link returns (log entry 125). -/
def State.dropLink (s : State) (l : Nat) : State :=
  let s := ((s.link l).partitions.foldl (fun s p => s.linkLost p l) s).flushRecords l
  (s.modLink l fun k => { k with
    inService := false, retraining := false, retrainFailed := false, resendAt := 0
    outstanding := k.outstanding.filter fun o => !o.sent, probe := 0 }).holdUnsent l (some s.tsc)

/-- LINK_LOST (R355, R356, R358): a flit has failed 16 successive sends, or fewer than 4 of the wavelengths in use are lit in a direction. -/
def execLinkLost (link : Nat) (s : State) : Host.Outcome State Fault Refusal :=
  let k := s.link link
  let failed := match k.replay with
    | f :: _ => decide (16 ≤ f.2)
    | [] => false
  if failed || decide (waveCount (k.txMask &&& k.peerLit) < 4) || decide (waveCount (k.rxMask &&& k.lit) < 4) then .next (s.loseLink link) else .next s

/-- RETRAIN_END (R358): the link returns on the lit wavelengths when at least 4 are lit in each direction, resends every
unacknowledged flit and owes a CODE 3 record for each direction; else it stays lost. -/
def execRetrainEnd (link : Nat) (rx tx : BitVec 16) (s : State) : Host.Outcome State Fault Refusal :=
  let k := s.link link
  if !k.retraining then .next s
  else if 4 ≤ waveCount rx ∧ 4 ≤ waveCount tx then
    let s := ({ s with lasersOut := s.lasersOut &&& ~~~tx } : State).modLink link fun k => { k with
      inService := true, retraining := false, retrainFailed := false, txMask := 0, rxMask := 0, lit := rx, peerLit := tx, reported := rx,
      replay := k.replay.map (fun f => (f.1, 0)), resendAt := k.replay.length, lastSend := s.time, ctlDue := true, rxDisc := 0, txResent := 0,
      lastGood := s.tsc, asked := 0 }
    .next ((s.newMasks link 3 false (s.inUse link rx) (s.inUse link tx)).holdUnsent link none)
  else
    let s := (s.modLink link fun k => { k with retraining := false, retrainFailed := true }).flushRecords link
    .next (k.partitions.foldl (fun s p => if (s.heldSince p link).isSome then s else s.linkLost p link) s)

/-- LINKSVC with value 1 (R358): wait for the retrain, with the outcomes of the hardware-assisted mode. -/
def execLinksvcWait (part link : Nat) (s : State) : Host.Outcome State Fault Refusal :=
  s.command fun s =>
    if (s.heldSince part link).isSome then
      let s1 := (s.unhold part link).modPart part fun p => { p with linkWaits := link :: p.linkWaits.erase link }
      if (s.link link).retrainFailed then s1.linkLost part link else s1
    else s

/-- LINKSVC with value 2 (R358): LINKLOST at once. -/
def execLinksvcLinklost (part link : Nat) (s : State) : Host.Outcome State Fault Refusal :=
  s.command fun s => if (s.heldSince part link).isSome then (s.unhold part link).linkLost part link else s

/-- CROSS_LINK_TIMEOUT (R357): with the link in service it counts as a loss of the link, after which the requests that ran out are timed
afresh (log entry 126); else the partition takes LINKLOST. The time-out of a sent request is suspended while it is held for the host. -/
def execCrossLinkTimeout (part link : Nat) (s : State) : Host.Outcome State Fault Refusal :=
  let k := s.link link
  let ran (o : LinkWait) : Bool := o.part == part && !(o.sent && (s.heldSince part link).isSome) &&
    o.since.any fun t => decide ((s.part part).tolink.toNat ≤ (s.tsc - t).toNat)
  if !k.outstanding.any ran then .next s
  else if k.inService then
    .next ((s.loseLink link).modLink link fun k => { k with
      outstanding := k.outstanding.map fun o => if ran o then { o with since := some s.tsc } else o })
  else .next (s.linkLost part link)

/-! ## The snoop filter (R298) -/

/-- Whether the filter of 16-way sets has room for a line, or holds it. -/
def Link.filterRoom (k : Link) (line : Nat) : Bool :=
  k.snoop.contains line || decide ((k.snoop.filter fun x => x % 4096 == line % 4096).length < 16)

/-- A message that the port itself originates for this package: it gets a tag, and its time-out runs from now when the link is out
of service (R357). -/
def State.portRequest (s : State) (l net : Nat) (tm : Terms) (asker : Asker) (part : Nat) (late checked : Bool) (body : LinkBody) :
    State :=
  s.modLink l fun k => { k with
    sendQ := k.sendQ ++ [⟨⟨k.nextTag, net, none, tm.prio, false, body, checked⟩, tm.deadline⟩]
    outstanding := k.outstanding ++ [⟨k.nextTag, asker, part, false, if k.inService then none else some s.tsc, late⟩]
    nextTag := k.nextTag + 1 }

/-- A snoop of the port for a line that its filter holds, for the partition that owns the line (R357). -/
def State.sendSnoop (s : State) (l net line : Nat) (tm : Terms) (asker : Asker) : State :=
  s.portRequest l net tm asker (s.ownerOf (line * 256)) false false (.snoop line)

/-- EXT_SNOOP (R298): a line that the filter does not hold is acknowledged at once, any other is snooped across the link, on the
write's network and with its terms. -/
def execExtSnoop (link : Nat) (s : State) : Host.Outcome State Fault Refusal :=
  match takeFirst (fun m : Msg => match m with | .snoop _ _ _ _ _ _ => true | _ => false) (s.link link).inbox with
  | some (.snoop k wid line net _ tm, rest) =>
    let s := s.modLink link fun x => { x with inbox := rest }
    .next (if (s.link link).snoop.contains line then s.sendSnoop link net line tm (.snoop k wid line)
      else s.sendMesh (linkRouter link) (.slice k) net (linkSource link) tm (.snoopAck k wid link))
  | _ => .next s

/-- The read whose data wait for room in the set of the filter that a line lies in. -/
def Link.waiting (k : Link) (line : Nat) : Option Req :=
  k.inbox.findSome? fun m => match m with
    | .readReply r _ _ => if r.line % 4096 = line % 4096 then some r else none
    | _ => none

/-- SNOOP_FILTER_EVICT (R298): an invalidation goes across the port, with the terms and on the network of the read that needs the
room; the entry leaves when it is acknowledged. -/
def execSnoopFilterEvict (link line : Nat) (s : State) : Host.Outcome State Fault Refusal :=
  let k := s.link link
  if k.snoop.contains line && !(k.outstanding.any fun o => o.asker == .filter line) then
    match k.waiting line with
    | some r => .next (s.sendSnoop link (netOf r.dom) line r.terms (.filter line))
    | none => .next (s.sendSnoop link 0 line (Terms.nobody 0xFF) (.filter line))
  else .next s

/-! ## Messages of the package at a port -/

/-- The terms of an asker. -/
def State.askerTerms (s : State) : Asker → Terms
  | .remote _ t w _ _ => s.termsOf t w
  | .probe _ t w _ => s.termsOf t w
  | .cmd core cmd _ => ((s.core core).cmds.find? (·.id == cmd)).elim (Terms.nobody 0xFF) fun c => s.termsOf c.team c.wave
  | _ => Terms.nobody 0xFF

/-- A message for the other package that answers one of its requests. -/
def State.linkReplies (s : State) (l tag net prio : Nat) (late : Bool) (deadline : W64) (body : LinkBody) : State :=
  s.modLink l fun k => { k with sendQ := k.sendQ ++ [⟨⟨tag, net, none, prio, late, body, false⟩, deadline⟩] }

/-- The bytes of a part in the sectors of its line. -/
def PeerPart.cut (p : PeerPart) (secs : AMap Sector) : List Byte :=
  (List.range p.len).map fun k => ((secs.get? ((p.pa % 256 + k) / 64)).elim 0 fun x => Sector.byte x ((p.pa % 256 + k) % 64))

/-- What a request of another package gets, by the answers of the slices that served its parts: any refusal refuses it. -/
def PeerServe.body (v : PeerServe) : LinkBody :=
  let refused := v.answers.any fun m => match m with | .denied _ => true | .discard _ => true | _ => false
  if refused then .denied
  else
    match v.answers with
    | .readReply _ first _ :: rest => .data (v.parts.flatMap fun p => (v.answers.findSome? fun m => match m with
        | .readReply r secs _ => if r.id = p.id then some (p.cut secs) else none
        | _ => none).getD []) (if v.alloc && rest.isEmpty then first else [])
    | .atomReply _ _ :: _ => .olds (v.answers.flatMap fun m => match m with | .atomReply _ os => os | _ => [])
    | .scaleReply _ x nv :: _ => .scale x nv
    | _ => .ack

/-- The answer of a home slice to a part of a request of another package: with the last part's, the request is answered (R277). -/
def State.peerAnswered (s : State) (l : Nat) (r : Req) (m : Msg) : State :=
  match (s.link l).serving.find? fun v => v.parts.any fun p => p.id == r.id with
  | none => s
  | some v =>
    let v1 := { v with answers := v.answers ++ [m] }
    if v1.answers.length < v1.parts.length then s.modLink l fun k => { k with serving := k.serving.map fun x => if x = v then v1 else x }
    else
      let late := v1.answers.any fun a => a.req?.any Req.late
      (s.modLink l fun k => { k with serving := k.serving.erase v }).linkReplies l v.tag v.net r.prio late r.deadline v1.body

/-- One message of the mesh taken in by a port: requests get a tag; read data wait for room in the filter. -/
def State.absorbLink (s : State) (l : Nat) (m : Msg) : State :=
  match m with
  | .toLink _ x asker part => s.portRequest l x.net { s.askerTerms asker with prio := x.prio } asker part x.late x.checked x.body
  | .readReply r _ _ =>
    if !(s.link l).filterRoom r.line then s.modLink l fun k => { k with inbox := k.inbox ++ [m] }
    else
      (s.modLink l fun k => { k with snoop := if k.snoop.contains r.line then k.snoop else r.line :: k.snoop }).peerAnswered l r m
  | .snoop _ _ _ _ _ _ => s.modLink l fun k => { k with inbox := k.inbox ++ [m] }
  | .invalAck _ wid _ => s.modLink l fun k => { k with snoops := k.snoops.map fun x => { x with waits := x.waits.filter (·.1 != wid) } }
  | m => match m.req? with
    | some r => s.peerAnswered l r m
    | none => s

/-- Everything that has reached a port over the mesh. -/
def State.absorbPort (s : State) (l : Nat) : State :=
  (s.link l).inbox.foldl (fun s m => s.absorbLink l m) (s.modLink l fun k => { k with inbox := [] })

/-- Answers of cores to a snoop that was delivered to them: with the last one the snoop is acknowledged. -/
def State.snoopsDone (s : State) (l : Nat) : State :=
  let done := (s.link l).snoops.filter fun x => x.waits.isEmpty
  done.foldl (fun s x => s.linkReplies l x.tag x.net x.prio false x.deadline (.snoopAck x.line))
    (s.modLink l fun k => { k with snoops := k.snoops.filter fun x => !x.waits.isEmpty })

/-! ## Sending (R352, R354, R355) -/

/-- Whether a message may go: the requests of a partition that waits for its host do not (R358). -/
def State.mayLeave (s : State) (l : Nat) (m : LinkOut) : Bool :=
  (s.link l).begun m ||
    !(linkAsks m.msg.body && (s.link l).outstanding.any fun o => o.tag == m.msg.tag && (s.heldSince o.part l).isSome)

/-- The remaining time of a message as its first byte leaves (R353). -/
def State.stamped (s : State) (m : LinkOut) : LinkOut := { m with msg := { m.msg with remaining := (s.remaining m.deadline).1 } }

/-- Messages of a network into a payload of so much space: those that end in it, how many bytes of the next have left, and what remains.
`stamp` is applied to a message whose first byte leaves. -/
def packFlit (stamp : LinkOut → LinkOut) : Nat → Nat → List LinkOut → List LinkOut × Nat × List LinkOut
  | _, sent, [] => ([], sent, [])
  | space, sent, m :: ms =>
    let m := if sent = 0 then stamp m else m
    if linkSize m.msg - sent ≤ space then
      let r := packFlit stamp (space - (linkSize m.msg - sent)) 0 ms
      (m :: r.1, r.2)
    else ([], sent + space, m :: ms)

/-- A data flit goes out: a record whose direction it is the first to use notes it (R356). -/
def Link.noteSent (k : Link) (dir : Nat) (seq : BitVec 13) : Link :=
  { k with records := k.records.map fun r => if r.dir = dir ∧ r.first = none then { r with first := some seq } else r }

/-- Requests whose last byte has left: their time-outs run from now (R357). -/
def Link.noteRequests (k : Link) (tags : List Nat) (tsc : W64) : Link :=
  { k with outstanding := k.outstanding.map fun o => if tags.contains o.tag then { o with sent := true, since := some tsc } else o }

/-- The bits of a flit, data or control, on the working wavelengths (R352); those that a failed laser source feeds are dark. -/
def State.lightOf (s : State) (l : Nat) (f : FlitFrame) : AMap (List Bool) :=
  (f.fibre (s.link l).txMask).filter fun w => !s.lasersOut.getLsbD w.1

/-- A flit leaves over the working wavelengths. -/
def State.emit (s : State) (l : Nat) (f : Flit) : State :=
  s.modLink l fun k => { k.noteSent 0 f.frame.seq with fibre := s.lightOf l f.frame }

/-- A new flit: the next network in rotation with a message that may leave and a credit. -/
def State.newFlit (s : State) (l : Nat) : State :=
  let k := s.link l
  let mine (n : Nat) : List LinkOut := k.sendQ.filter fun m => m.msg.net == n && s.mayLeave l m
  if 4096 ≤ k.replay.length then s
  else
    match ((List.range 5).map fun i => (k.rr + i) % 5).find? fun n => !(mine n).isEmpty && decide (0 < k.credits.getD n 0) with
    | none => s
    | some n =>
      let sent := k.sentBytes.getD n 0
      let p := packFlit s.stamped 250 sent (mine n)
      let shown := p.1 ++ (if 0 < p.2.1 then p.2.2.take 1 else [])
      let f : Flit := ⟨FlitFrame.make (Config.flitPayload (shown.map LinkOut.msg) sent) (BitVec.ofNat 3 n) k.nextSeq, p.1.map LinkOut.msg⟩
      let asks := (p.1.filter fun m => linkAsks m.msg.body).map fun m => m.msg.tag
      (s.emit l f).modLink l fun k => { k.noteRequests asks s.tsc with
        sendQ := p.2.2 ++ k.sendQ.filter fun m => !(mine n).contains m
        sentBytes := modAt k.sentBytes n fun _ => p.2.1
        credits := modAt k.credits n (· - 1)
        rr := n + 1
        nextSeq := k.nextSeq + 1
        lastSend := if k.replay.isEmpty then s.time else k.lastSend
        replay := k.replay ++ [(f, 0)] }

/-- FLIT_SEND (R355): a resend goes on with its next flit, else a new flit is sent. -/
def execFlitSend (link : Nat) (s : State) : Host.Outcome State Fault Refusal :=
  let s := (s.absorbPort link).snoopsDone link
  let k := s.link link
  if !s.linkUp link then .next s
  else if 0 < k.resendAt then
    let s := (k.replay[k.replay.length - k.resendAt]?).elim s fun f => s.emit link f.1
    .next (s.modLink link fun k => { k with resendAt := k.resendAt - 1, txResent := k.txResent + 1,
                                            records := k.records.map fun r => if r.dir = 0 then { r with replayed := r.replayed + 1 } else r })
  else .next (s.newFlit link)

/-- A resend starts from the oldest unacknowledged flit, whose last send has failed. -/
def Link.resend (k : Link) (now : Nat) : Link :=
  { k with
    resendAt := k.replay.length, lastSend := now
    replay := match k.replay with
      | f :: fs => (f.1, f.2 + 1) :: fs
      | [] => [] }

/-- ACK_TIMEOUT (R355): no acknowledgement for 2 µs. -/
def execAckTimeout (link : Nat) (s : State) : Host.Outcome State Fault Refusal :=
  let k := s.link link
  if k.inService && !k.replay.isEmpty && decide (k.lastSend + 12000 ≤ s.time) then .next (s.modLink link fun k => k.resend s.time)
  else .next s

/-! ## Receiving (R277, R355) -/

/-- What a request of another package needs of the page, and the bytes of the export that it names: partition, index, generation,
offset and length. -/
def linkTarget : LinkBody → Option (Need × Nat × Nat × Nat × Nat × Nat)
  | .read p ix gen off len _ => some (⟨true, false, false⟩, p, ix, gen, off, len)
  | .write p ix gen line m _ =>
    some (⟨false, true, false⟩, p, ix, gen, 256 * line, (List.range 256).foldl (fun n i => if m.getLsbD i then i + 1 else n) 0)
  | .atom p ix gen line ls isRed =>
    some (⟨!isRed, true, false⟩, p, ix, gen, 256 * line, ls.foldl (fun n a => Nat.max n (a.off + atomBytes a.mod.toNat)) 0)
  | .amax p ix gen off _ => some (⟨true, true, false⟩, p, ix, gen, off, 128)
  | .qscale p ix gen off _ => some (⟨true, true, false⟩, p, ix, gen, off, 128)
  | .arrive p ix gen off _ => some (⟨true, true, false⟩, p, ix, gen, off, 64)
  | .check p ix gen off len rd wr => some (⟨rd, wr, false⟩, p, ix, gen, off, len)
  | _ => none

/-- Whether a request touches any of n bytes from a place in it. -/
def linkTouches (b : LinkBody) (at_ n : Nat) : Bool :=
  match b with
  | .write _ _ _ _ m _ => (List.range n).any fun i => m.getLsbD (at_ + i)
  | .atom _ _ _ _ ls _ => ls.any fun a => decide (a.off < at_ + n) && decide (at_ < a.off + atomBytes a.mod.toNat)
  | _ => true

/-- The domain of a network (R297). -/
def domOfNet (n : Nat) : Dom :=
  match n with
  | 0 => .sc
  | 1 => .tso
  | 2 => .cau
  | 3 => .rc
  | _ => .blk

/-- The part of a request that lies in one line: its place in the request, PA, length, key and the floor of its page. -/
structure ExportSpan where
  at_ : Nat
  pa : Nat
  len : Nat
  key : Nat
  floor : Nat
  deriving DecidableEq, Repr

/-- The parts of a request, translated at base + offset through the page tables of the export's context (R277, R428); `none` when the
export is missing or stale, its entry is withheld (R359), or a page is not there or does not allow the access. -/
def State.exportSpans (s : State) (b : LinkBody) : Option (List ExportSpan) :=
  (linkTarget b).bind fun (need, part, ix, gen, off, len) =>
    let p := s.part part
    let ent := p.exptab.toNat + 32 * ix
    if p.exptab = 0 ∨ s.ownerOf ent ≠ part ∨ p.pstate ≠ 1 ∨ s.withheldAt ent 32 ∨ s.readPa (ent + 2) 2 ≠ gen ∨ s.readPa (ent + 16) 8 < off + len then none
    else
      let root := (s.ctx (s.readPa ent 2)).now.root.toNat
      ((lineSpans (s.readPa (ent + 8) 8 + off) len).filter fun x => linkTouches b x.1 x.2.2).mapM fun x =>
        match s.walkFrom part x.2.1 3 0 root with
        | .ok leaf pa => if !leafAllows leaf need || s.ownerOf pa != part then none else some ⟨x.1, pa, x.2.2, leafKey leaf, leafFloor leaf⟩
        | _ => none

/-- What home slices are asked for the parts of a request; `none` where an atomic element of it lies in two lines (log entry 127). -/
def linkKinds (b : LinkBody) (ps : List ExportSpan) : Option (List (ExportSpan × ReqKind)) :=
  let whole (kind : Nat → ReqKind) : Option (List (ExportSpan × ReqKind)) := match ps with
    | [p] => some [(p, kind (p.pa % 256))]
    | _ => none
  match b with
  | .read _ _ _ _ _ _ => some (ps.map fun p => (p, .read (BitVec.ofNat 4 ((List.range 4).foldl (fun n i =>
      if p.pa % 256 / 64 ≤ i ∧ 64 * i < p.pa % 256 + p.len then n + 2 ^ i else n) 0)) false))
  | .write _ _ _ _ m d => some (ps.map fun p =>
      (p, .write (BitVec.ofNat 256 ((m.toNat >>> p.at_ % 2 ^ p.len) <<< (p.pa % 256)))
        (BitVec.ofNat 2048 ((d.toNat >>> (8 * p.at_)) <<< (8 * (p.pa % 256))))))
  | .atom _ _ _ _ ls isRed =>
    let inside (p : ExportSpan) (a : AtomLane) : Bool := decide (p.at_ ≤ a.off) && decide (a.off + atomBytes a.mod.toNat ≤ p.at_ + p.len)
    if ls.all fun a => ps.any fun p => inside p a then
      some (ps.map fun p => (p, .atom ((ls.filter (inside p)).map fun a => { a with off := p.pa % 256 + (a.off - p.at_) }) isRed))
    else none
  | .amax _ _ _ _ m => whole fun o => .amax o m
  | .qscale _ _ _ _ m => whole fun o => .qscale o m
  | .arrive _ _ _ _ n => whole fun o => .bar o (.arrive 0 n 0 none)
  | _ => none

/-- The deadline that a message brings: its remaining time from now (R353). -/
def State.arrivalDeadline (s : State) (m : LinkMsg) : W64 := m.remaining.elim (BitVec.allOnes 64) fun r => s.tsc + r.setWidth 64

/-- A request of another package (R277, R353): checked, and sent to the home slices of the lines it touches, or refused. A check is
answered with the highest floor of its pages and the places of its lines; an access that it has allowed is not held to the floors once
more, for changes of them come after it (R266). -/
def State.linkRequest (s : State) (l : Nat) (m : LinkMsg) : State :=
  let dom := domOfNet m.net
  let d := s.arrivalDeadline m
  let no := s.linkReplies l m.tag m.net m.prio false d .denied
  match s.exportSpans m.body with
  | none => no
  | some ps =>
    match m.body with
    | .check _ _ _ _ _ _ _ => s.linkReplies l m.tag m.net m.prio false d (.allowed (ps.foldl (fun n p => Nat.max n p.floor) 0) (ps.map ExportSpan.pa))
    | b =>
      match if !m.checked && ps.any fun p => decide (Dom.rank dom < p.floor) then none else linkKinds b ps with
      | none => no
      | some [] => s.linkReplies l m.tag m.net m.prio false d .ack
      | some ks =>
        let res := ks.foldl (fun (acc : State × List PeerPart) x =>
          match acc.1.homeOf (x.1.pa / 256) with
          | none => acc
          | some k =>
            let s := acc.1.undefinePages
            let r : Req := ⟨s.nextUid, 0, linkSource l, .link l m.tag, dom, x.1.pa / 256, x.1.key, x.2, d, m.prio, 1024, 0xFF, false, false, d⟩
            ({ s with nextUid := s.nextUid + 1 }.sendMesh (linkRouter l) (.slice k) m.net (linkSource l) r.terms (.request r),
              acc.2 ++ [⟨r.id, x.1.at_, x.1.pa, x.1.len⟩])) (s, [])
        if res.2.length < ks.length then no
        else res.1.modLink l fun k => { k with serving := k.serving ++ [⟨m.tag, m.net, match b with | .read _ _ _ _ _ a => a | _ => false, res.2, []⟩] }

/-- An answer from another package (R353): it goes to the asker with its own remaining time and PRIORITY; a late mark counts for the
asker's queue, once (R75). -/
def State.linkAnswer (s : State) (l : Nat) (m : LinkMsg) : State :=
  match (s.link l).outstanding.find? fun o => o.tag == m.tag with
  | none => s
  | some o =>
    let s := s.modLink l fun k => { k with outstanding := k.outstanding.filter fun x => x.tag != m.tag }
    let tm : Terms := { s.askerTerms o.asker with deadline := s.arrivalDeadline m, prio := m.prio, part := o.part }
    let s := if m.late && !o.late then s.countLate 0 tm.queue o.part else s
    let send (dest : MeshDest) (msg : Msg) : State := s.sendMesh (linkRouter l) dest m.net (linkSource l) tm msg
    match o.asker with
    | .remote core _ _ _ _ => send (.core core) (.linkReply o.asker m)
    | .probe core _ _ _ => send (.core core) (.linkReply o.asker m)
    | .cmd core _ _ => send (.core core) (.linkReply o.asker m)
    | .snoop k wid _ => send (.slice k) (.snoopAck k wid l)
    | .filter line => s.modLink l fun k => { k with snoop := k.snoop.filter (· != line) }
    | _ => s

/-- The lines of packages behind a link, as L1s name them, that a core holds, or awaits, under an exporter's line. -/
def Core.farCopies (c : Core) (l line : Nat) : List Nat :=
  ((c.l1.map (·.1)) ++ c.farReads.map (·.2.2.1)).eraseDups.filter fun x =>
    decide (2 ^ 48 ≤ x) && x % 2 ^ 48 == line && Config.linkTo (x / 2 ^ 48 - 1) % 32 == l

/-- A snoop of another package (R298): the spindles that hold the line, or await it, have an invalidation delivered to each of their
cores, on the network of the write; without such spindles the snoop is acknowledged at once. -/
def State.linkSnoop (s : State) (l : Nat) (m : LinkMsg) (line : Nat) : State :=
  let copies := s.cores.flatMap fun c => (c.2.farCopies l line).map fun x => (c.1 / 36, x)
  let dests := s.cores.flatMap fun c => ((copies.filter (·.1 == c.1 / 36)).map (·.2)).eraseDups.map fun x => (c.1, x)
  let tm : Terms := ⟨s.arrivalDeadline m, m.prio, 1024, 0xFF, s.arrivalDeadline m⟩
  let r := dests.foldl (fun (acc : State × List (Nat × Nat)) x =>
    let wid := acc.1.nextUid
    ({ acc.1 with nextUid := wid + 1 }.sendMesh (linkRouter l) (.core x.1) m.net (linkSource l) tm
      (.inval (96 + l) wid x.2 (domOfNet m.net) tm), acc.2 ++ [(wid, x.1)])) (s, [])
  (r.1.modLink l fun k => { k with snoops := k.snoops ++ [⟨line, m.tag, m.net, m.prio, tm.deadline, r.2, s.tsc⟩] }).snoopsDone l

/-- A message delivered by a link. -/
def State.linkDeliver (s : State) (l : Nat) (m : LinkMsg) : State :=
  match m.body with
  | .snoop line => s.linkSnoop l m line
  | b => if linkAsks b then s.linkRequest l m else s.linkAnswer l m

/-- A negative acknowledgement for the SEQ expected. -/
def Link.nak (k : Link) (now : Nat) : Link :=
  { k with rxDiscarding := true, rxAgain := false, rxLastNak := now, rxNakCount := k.rxNakCount + 1, rxNakSeq := k.rxExpect, ctlDue := true }

/-- A flit that was discarded (R355): the first one while a SEQ is expected is answered by a negative acknowledgement. -/
def Link.discard (k : Link) (now : Nat) : Link :=
  let count (r : LinkRecord) : LinkRecord := if r.dir = 1 then { r with replayed := r.replayed + 1 } else r
  let k := { k with rxDisc := k.rxDisc + 1, records := k.records.map count }
  if k.rxDiscarding then { k with rxAgain := true } else k.nak now

/-- A flit that was accepted: the credit of its network returns, and the records of its direction are final. -/
def Link.accept (k : Link) (f : Flit) : Link :=
  { k with
    rxExpect := k.rxExpect + 1, rxDiscarding := false, rxAgain := false, ctlDue := true
    rxDisc := if k.lit = k.rxMask then 0 else k.rxDisc
    rxCredits := modAt k.rxCredits f.frame.net (· + 1)
    records := k.records.map fun r => if r.dir = 1 then { r with accepted := true } else r }

/-- FLIT_RECEIVE (R355): accepted only with a correct CRC and the SEQ expected; then its messages are delivered in order. A flit of
NET 5-7 is no data flit (R354). -/
def execFlitReceive (link : Nat) (flit : Flit) (s : State) : Host.Outcome State Fault Refusal :=
  let k := s.link link
  let good := flit.frame.intact
  if !s.linkUp link ∨ (good = true ∧ 4 < flit.frame.net) then .next s
  else
    let s := s.modLink link fun k => { k.noteSent 1 flit.frame.seq with lastGood := if good then s.tsc else k.lastGood }
    if good && flit.frame.seq == k.rxExpect then
      .next (flit.msgs.foldl (fun s m => s.linkDeliver link m) (s.modLink link fun k => k.accept flit))
    else .next (s.modLink link fun k => k.discard s.time)

/-- NAK_REPEAT (R355): further discards with the same SEQ expected, at most one in 200 ns. The intervals of a link that R355, R356 and R464 give
in ns, and the 2 µs of R405, are counted on `State.time`, which FREEZE does not stop (DESIGN CHOICE, log entry 133). -/
def execNakRepeat (link : Nat) (s : State) : Host.Outcome State Fault Refusal :=
  let k := s.link link
  if s.linkUp link && k.rxDiscarding && k.rxAgain && decide (k.rxLastNak + 1200 ≤ s.time) then .next (s.modLink link fun k => k.nak s.time)
  else .next s

/-! ## Control flits (R464) -/

/-- A control flit of an end: its receive-side state, with NET 7 and SEQ 0 (R354). -/
def Link.control (k : Link) : CtlFlit :=
  let c : CtlState := ⟨k.rxExpect, k.rxNakCount, k.rxNakSeq, k.rxCredits, k.lit, k.darkNs, k.probe⟩
  ⟨FlitFrame.make (Config.controlPayload c) 7 0, c⟩

/-- CONTROL_FLIT_SEND: when the state changed, and at least every 100 ns (log entry 133); it travels as any flit does (R352). -/
def execControlFlitSend (link : Nat) (s : State) : Host.Outcome State Fault Refusal :=
  let k := s.link link
  if s.linkUp link && (k.ctlDue || decide (k.lastCtl + 600 ≤ s.time)) then
    .next (s.modLink link fun k => { k with
      fibre := s.lightOf link k.control.frame, ctlSent := [k.control], ctlDue := false, lastCtl := s.time, probe := 0, reported := k.lit })
  else .next s

/-- Flits that a cumulative acknowledgement covers leave the replay buffer. -/
def Link.acked (k : Link) (ack : BitVec 13) (now : Nat) : Link :=
  let n := (match k.replay with
    | f :: _ => (ack - f.1.frame.seq).toNat
    | [] => 0)
  if n = 0 ∨ k.replay.length < n then k
  else
    let gone := (k.replay.take n).map fun f => f.1.frame.seq
    { k with
      replay := k.replay.drop n
      resendAt := Nat.min k.resendAt (k.replay.length - n)
      lastSend := now
      txResent := if k.peerLit = k.txMask then 0 else k.txResent
      records := k.records.map fun r => if r.dir = 0 ∧ (r.first.elim false gone.contains) then { r with accepted := true } else r }

/-! ## Light (R356, R465) -/

/-- LOSS_OF_LIGHT (R356): the receiver finds wavelengths dark and reports them, with the time since the last good flit. The loss of a laser
source of this package darkens its wavelengths in the transmit direction of every link (R352), which the other ends find out. -/
def execLossOfLight (link : Nat) (lost : BitVec 16) (laser : Option Nat) (s : State) : Host.Outcome State Fault Refusal :=
  match laser with
  | some n => .next { s with lasersOut := s.lasersOut ||| laserWaves n }
  | none =>
    if (s.link link).inService && (s.link link).lit &&& lost != 0 then
      .next (s.modLink link fun k =>
        { k with lit := k.lit &&& ~~~lost, darkNs := (s.tsc - k.lastGood).setWidth 32, detectTsc := s.tsc, ctlDue := true })
    else .next s

/-- RESTRIPE (R356): at a flit boundary after the report of the dark wavelengths has gone out, or has come in, each direction goes on over
the wavelengths that are still lit. -/
def execRestripe (link : Nat) (rx tx : BitVec 16) (s : State) : Host.Outcome State Fault Refusal :=
  let k := s.link link
  if k.inService && rx == k.rxMask &&& k.lit && rx == k.rxMask &&& k.reported && tx == k.txMask &&& k.peerLit && (rx != k.rxMask || tx != k.txMask)
  then .next (s.newMasks link 1 true rx tx) else .next s

/-- LINK_EVENT_RECORD (R356): a record whose REPLAYED is final, for the transmit direction when no resend is in progress, or whose direction
carried no data flit for 2 µs (log entry 133). -/
def execLinkEventRecord (link : Nat) (s : State) : Host.Outcome State Fault Refusal :=
  let k := s.link link
  match takeFirst (fun r : LinkRecord => (r.accepted && (r.dir == 1 || k.resendAt == 0)) || (r.first == none && decide (r.due ≤ s.time)))
    k.records with
  | none => .next s
  | some (r, rest) => .next ((s.modLink link fun k => { k with records := rest }).linkEvent link r)

/-- Wavelengths that are found lit return to use (R465): `rx` in the receive direction, `tx` in the other. A laser source whose light is found
has come back. -/
def State.wavesBack (s : State) (l : Nat) (rx tx : BitVec 16) : State :=
  let k := s.link l
  (({ s with lasersOut := s.lasersOut &&& ~~~tx } : State).modLink l fun k => { k with
    lit := k.lit ||| rx, reported := k.reported ||| rx, peerLit := k.peerLit ||| tx, ctlDue := true }).newMasks l 3 false
      (s.inUse l (k.rxMask ||| rx)) (s.inUse l (k.txMask ||| tx))

/-- Which of some wavelengths a receiver finds lit as it probes them: light comes from outside the package (log entry 84). -/
def State.probed (s : State) (waves : BitVec 16) : BitVec 16 × State := let r := s.fresh; (waves &&& r.1.setWidth 16, r.2)

/-- A wavelength of the transmit direction that the other end was asked to probe and reports lit returns to use. -/
def State.askedBack (s : State) (l : Nat) (lit : BitVec 16) : State :=
  let back := (s.link l).asked &&& lit
  if back = 0 then s else (s.modLink l fun k => { k with asked := k.asked &&& ~~~back }).wavesBack l 0 back

/-- CONTROL_FLIT_RECEIVE (R464, R355, R465): acknowledgements, a resend when the count of negative acknowledgements rose,
credits, the light that the other end finds, and the wavelengths it asks to probe: those found lit here, and those that it found lit,
return to use at this end too. One that fails its CRC, or is no control flit, is discarded. -/
def execControlFlitReceive (link : Nat) (flit : CtlFlit) (s : State) : Host.Outcome State Fault Refusal :=
  let k := s.link link
  let c := flit.state
  if !s.linkUp link ∨ !flit.frame.intact ∨ flit.frame.net ≠ 7 then .next s
  else
    let rose : BitVec 16 := c.nakCount - k.txNakSeen
    let s := s.modLink link fun k => { k.acked c.ack s.time with lastGood := s.tsc }
    let s := if rose ≠ 0 ∧ rose.toNat < 2 ^ 15 then s.modLink link fun k => { k.resend s.time with txNakSeen := c.nakCount } else s
    let s := s.modLink link fun k => { k with
      credits := (List.range 5).map fun n => k.credits.getD n 0 + (c.credits.getD n 0 - k.txCreditSeen.getD n 0).toNat
      txCreditSeen := c.credits
      reportTsc := if c.lit = k.peerLit then k.reportTsc else s.tsc
      peerDark := c.darkNs
      peerLit := c.lit }
    let s := s.askedBack link c.lit
    if c.probe = 0 then .next s
    else let p := s.probed c.probe; .next (p.2.wavesBack link p.1 (c.probe &&& c.lit))

/-- A RESTORE of a link (R465): the named wavelengths that its receivers find lit (`rx` here, `tx` at the other end) return to use, and the
other end is asked to probe; on a link whose retrain failed, a new retrain. Rejected while the link is PARKED or OFF. -/
def State.restoreLink (s : State) (link : Nat) (waves rx tx asked : BitVec 16) : State :=
  if 32 ≤ link ∨ waves = 0 then s
  else
    let k := s.link link
    if 3 ≤ (s.unit (linkUnit link)).state then s.reject (powerOffset (linkUnit link))
    else if k.inService then (s.modLink link fun k => { k with probe := waves, asked := asked }).wavesBack link (waves &&& rx) (waves &&& tx)
    else if k.retrainFailed then s.modLink link fun k => { k with retraining := true, retrainFailed := false }
    else s

/-- RESTORE (R465). -/
def execRestore (link : Nat) (waves rx tx : BitVec 16) (s : State) : Host.Outcome State Fault Refusal := 
  s.command fun s => s.restoreLink link waves rx tx 0

end Sys2Proof.Machine
end

