-- ==== Sys2Proof/Machine/Power.lean ====
section
/-! DEFINITION. Power units (R432-R434), the spindle commands (R463), and boot (R436, R437). -/

namespace Sys2Proof.Machine

/-- Cells of a memory stack forgotten (R432: contents lost; log entry 13). -/
def State.forgetStack (s : State) (m : Nat) : State :=
  { s with mem := s.mem.filter fun c => !(decide (c.1 < 0x200_0000_0000) && c.1 / 2 ^ 35 == m) }

/-- Whether the storage of a memory socket holds a granule that a partition owns, in either view (R432, R258). -/
def State.stackOwned (s : State) (m : Nat) : Bool :=
  s.granuleOwner.any fun g => g.2 != 0xFF && (g.1 / 32 == m || (decide (512 ≤ g.1) && decide (g.1 < 896)))

/-- A link takes a power state (R432): in TRIM it uses eight wavelengths, in ACTIVE all that are lit, in IDLE it keeps its stripe. -/
def State.linkPower (s : State) (l old new : Nat) : State :=
  let k := s.link l
  if 3 ≤ new then (if 3 ≤ old then s else s.dropLink l)
  else if 3 ≤ old then
    (if new ≤ 1 then s.modLink l fun k => { k with retraining := true, retrainFailed := false } else s)
  else if !k.inService then s
  else if new = 1 then s.newMasks l 1 false (lowestEight k.rxMask) (lowestEight k.txMask)
  else if new = 0 then s.newMasks l 3 false (k.rxMask ||| k.lit) (k.txMask ||| k.peerLit)
  else s

/-- A unit takes a power state (R432). A spindle in PARKED or OFF is fenced; its partition is renumbered (R83). -/
def State.setPower (s : State) (u state : Nat) : State :=
  let old := (s.unit u).state
  let s := s.modUnit u fun x => { x with state := state }
  if u < 24 then
    let s := if 3 ≤ state ∧ old < 3 then ((s.fenceLower u).fence u).1 else s
    s.renumber (s.spindle u).part
  else if u < 36 then (if state = 4 then s.forgetStack (u - 24) else s)
  else s.linkPower (u - 36) old state

/-- A command to a unit (R432, R434): under protection it takes effect at once only when it names a lower state. A value of CMD that names no
state is rejected (DEDUCED, log entry 88); there is no unit beyond the 68 (R424). -/
def State.powerCommand (s : State) (u target : Nat) : State :=
  if 68 ≤ u then s
  else if 4 < target ∨ (3 ≤ target ∧ 24 ≤ u ∧ u < 36 ∧ s.stackOwned (u - 24)) then s.reject (powerOffset u)
  else
    let x := s.unit u
    let s := s.modUnit u fun x => { x with cmd := target }
    if x.prot && decide (target ≤ x.state) then s
    else if x.state = target then s
    else s.setPower u target

/-- POWER_COMMAND (R432). -/
def execPowerCommand (unit target : Nat) (s : State) : Host.Outcome State Fault Refusal := 
  s.command fun s => s.powerCommand unit target

/-- A protection event, codes 4-6: the manual states neither SOURCE nor the detail (log entry 12). -/
def State.protectionEvent (s : State) (code : Nat) : State :=
  let a := s.fresh
  let b := a.2.fresh
  let c := b.2.fresh
  let d := c.2.fresh
  d.2.putEvent (eventBytes s.tsc (a.1.toNat % 65536) code (toLe 8 b.1.toNat ++ toLe 8 c.1.toNat ++ toLe 5 d.1.toNat))

/-- The state that protection asks of a unit (R434); over temperature says nothing of links. -/
def protectState (u : Nat) (overcurrent : Bool) : Option Nat :=
  if overcurrent then some 2 else if u < 24 then some 1 else if u < 36 then some 2 else none

/-- PROTECTION_ENTER (R434): the unit goes to a lower state, if it is not in one already. -/
def execProtectionEnter (unit : Nat) (overcurrent : Bool) (s : State) : Host.Outcome State Fault Refusal :=
  match protectState unit overcurrent with
  | none => .next s
  | some p =>
    if 68 ≤ unit then .next s
    else
      let s1 := if (s.unit unit).state < p then s.setPower unit p else s
      .next ((s1.modUnit unit fun x => { x with prot := true }).protectionEvent (if overcurrent then 5 else 4))

/-- PROTECTION_RELEASE (R434): the condition has been clear for 1 ms; the unit returns to CMD. -/
def execProtectionRelease (unit : Nat) (s : State) : Host.Outcome State Fault Refusal :=
  let x := s.unit unit
  if !x.prot then .next s
  else
    let s := s.modUnit unit fun x => { x with prot := false }
    .next ((if x.state = x.cmd then s else s.setPower unit x.cmd).protectionEvent 6)

/-! ## Spindle commands (R463) -/

/-- A spindle in its reset state: its cores, and the count of CLOCK, which starts at the command that resets it, not as the reset ends (R190;
DESIGN CHOICE, log entry 135). -/
def State.resetCores (s : State) (k : Nat) : State :=
  (s.emptyCores k fun _ => Core.reset).modSpindle k fun x => { x with clkBase := x.clkTicks }

/-- SPOP 1 (R463): R90 with FENCED and RESETTING, then the reset. -/
def State.spopReset (s : State) (u : Nat) : State :=
  if 68 ≤ u then s
  else if 24 ≤ u then s.reject (powerOffset u)
  else
    let s := (((s.fenceLower u).fence u).1).resetCores u
    s.modSpindle u fun x => { x with resetting := true, resetSinceFence := true }

/-- SPOP 2 (R463). -/
def State.spopFence (s : State) (u : Nat) : State :=
  if 68 ≤ u then s else if 24 ≤ u then s.reject (powerOffset u) else ((s.fenceLower u).fence u).1

/-- SPOP 3 (R463): accepted only for a fenced spindle of a running partition, reset first when it has not been. -/
def State.spopReturn (s : State) (u : Nat) : State :=
  let x := s.spindle u
  if 68 ≤ u then s
  else if 24 ≤ u ∨ !x.fenced ∨ x.resetting ∨ (s.part x.part).pstate ≠ 1 then s.reject (powerOffset u)
  else
    let s := if x.resetSinceFence then s else s.resetCores u
    (s.modSpindle u fun x => { x with fenced := false, resetSinceFence := false }).renumber x.part

/-- SPOP_RESET. -/
def execSpopReset (unit : Nat) (s : State) : Host.Outcome State Fault Refusal := s.command fun s => s.spopReset unit

/-- SPOP_FENCE. -/
def execSpopFence (unit : Nat) (s : State) : Host.Outcome State Fault Refusal := s.command fun s => s.spopFence unit

/-- SPOP_RETURN. -/
def execSpopReturn (unit : Nat) (s : State) : Host.Outcome State Fault Refusal := s.command fun s => s.spopReturn unit

/-- RESET_COMPLETE (R463): RESETTING returns to 0; FENCED stays. -/
def execResetComplete (socket : Nat) (s : State) : Host.Outcome State Fault Refusal :=
  if (s.spindle socket).resetting then .next (s.modSpindle socket fun x => { x with resetting := false }) else .next s

/-! ## Boot (R436, R437) -/

/-- BOOT (R436, R437): each step extends the measurement; a failed verification ends in recovery. The host ports, which come up with step 4 or
in recovery, answer nothing before. -/
def execBoot (verified : Bool) (s : State) : Host.Outcome State Fault Refusal :=
  if s.bootstat ≠ 0 then .next s
  else
    let h := Config.bootMeasure (Config.bootMeasure s.bootHash 1) 2
    if verified then .next { s with bootHash := Config.bootMeasure (Config.bootMeasure h 3) 4, bootstat := 1 }
    else .next { s with bootHash := h, bootstat := 2 }

end Sys2Proof.Machine
end

