-- ==== Sys2Proof/Machine/Host.lean ====
section
/-! DEFINITION. The host: RDMA (R66, R423), the registers of the management block (R15, R424-R435), contexts (R381, R382, R426),
partitions (R427), owners (R466), keys (R431), services (R410, R418, R427), SPDM (R438), and translation invalidations (R266). -/

namespace Sys2Proof.Machine

/-! ## Contexts (R381, R382, R409, R426) -/

def ctxOffset (c : Nat) : Nat := 0x200000 + 16 * c

/-- The descriptor at a PA, when its CONTEXT field is the context's number. -/
def State.readDesc (s : State) (pa c : Nat) : Option CtxDesc :=
  if s.readPa (pa + 0x20) 2 ≠ c then none
  else
    let w (o n : Nat) : Nat := s.readPa (pa + o) n
    some ⟨BitVec.ofNat 64 (w 0 8), BitVec.ofNat 64 (w 8 8), BitVec.ofNat 64 (w 16 8), BitVec.ofNat 32 (w 24 4), BitVec.ofNat 32 (w 28 4)⟩

/-- A write of CTXDESC (R426). Reserved bits are ignored and set ERR (R15). -/
def State.ctxCreate (s : State) (c : Nat) (v : W64) : State :=
  let off := ctxOffset c + 8
  if 4096 ≤ c ∨ (s.ctx c).desc ≠ 0 ∨ !v.getLsbD 0 then s.reject off
  else
    match s.readDesc (bits v 6 42 * 64) c with
    | none => s.reject off
    | some d =>
      let s := s.modCtx c fun _ => { Ctx.reset with desc := v &&& 0x00FF_FFFF_FFFF_FFC1, now := d }
      if v &&& ~~~0x00FF_FFFF_FFFF_FFC1 = 0 then s else s.reject off

/-- RELOAD (R382, R426): teams placed or restored afterwards run under the new values. -/
def State.ctxReload (s : State) (c : Nat) : State :=
  let x := s.ctx c
  if x.desc = 0 then s
  else
    match s.readDesc (bits x.desc 6 42 * 64) c with
    | none => s.reject (ctxOffset c)
    | some d => s.modCtx c fun x => { x with past := x.past.set x.ver x.now, ver := x.ver + 1, now := d }

/-- KILL (R409, R426): every team of the context ends and its launches complete with KILLED; with the last of them its number is free. -/
def State.ctxKill (s : State) (c : Nat) : State :=
  if (s.ctx c).desc = 0 then s
  else
    let s := s.modCtx c fun x => { x with dying := true }
    ((s.rootsOf fun l => l.ctx == c).foldl (fun s r => s.endTree r 1) s).reapCtx c

/-- PREQ (R382, R405). -/
def State.ctxPreq (s : State) (c : Nat) (on : Bool) : State :=
  if (s.ctx c).desc = 0 then s else (s.modCtx c fun x => { x with preq := on }).clearPreq c

def State.ctxDbgbrk (s : State) (c : Nat) (on : Bool) : State :=
  if (s.ctx c).desc = 0 then s else s.modCtx c fun x => { x with dbgbrk := on }

def State.ctxScbchk (s : State) (c : Nat) (on : Bool) : State :=
  if (s.ctx c).desc = 0 then s else s.modCtx c fun x => { x with scbchk := on }

/-- CTXDESC_CREATE. -/
def execCtxdescCreate (ctx : Nat) (val : W64) (s : State) : Host.Outcome State Fault Refusal := s.command fun s => s.ctxCreate ctx val

/-- RELOAD. -/
def execReload (ctx : Nat) (s : State) : Host.Outcome State Fault Refusal := s.command fun s => s.ctxReload ctx

/-- KILL. -/
def execKill (ctx : Nat) (s : State) : Host.Outcome State Fault Refusal := s.command fun s => s.ctxKill ctx

/-- PREQ. -/
def execPreq (ctx : Nat) (on : Bool) (s : State) : Host.Outcome State Fault Refusal := s.command fun s => s.ctxPreq ctx on

/-- DBGBRK. -/
def execDbgbrk (ctx : Nat) (on : Bool) (s : State) : Host.Outcome State Fault Refusal := s.command fun s => s.ctxDbgbrk ctx on

/-- SCBCHK. -/
def execScbchk (ctx : Nat) (on : Bool) (s : State) : Host.Outcome State Fault Refusal := s.command fun s => s.ctxScbchk ctx on

/-! ## Queues (R61, R466) -/

def queueOffset (q : Nat) : Nat := 0x222000 + 16 * q

/-- QSTATE is DISABLED or ERROR, and no launch that the queue has consumed is incomplete. -/
def State.queueFree (s : State) (q : Nat) : Bool := (s.queue q).qstate != 1 && !(s.launches.any fun l => l.2.queue == q)

/-- A write of QCB (R61): a new life of the control block at the new address. Its QCMD counts as written (log entry 128). -/
def State.qcbWrite (s : State) (q : Nat) (v : W64) : State :=
  let off := queueOffset q
  if 1024 ≤ q ∨ !s.queueFree q then s.reject off
  else
    let cb := bits v 8 40 * 256
    let f (o : Nat) : W64 := if cb = 0 then 0 else BitVec.ofNat 64 (s.readPa (cb + o) 8)
    let s := s.modQueue q fun x => { x with
      cbpa := BitVec.ofNat 40 (bits v 8 40), head := f 8, late := f 0x20, latepkt := f 0x28, failed := f 0x30, outcomes := [], chains := [], cmdWritten := true }
    let s := if cb = 0 then s else s.rereadBlock q
    if v &&& ~~~0x0000_FFFF_FFFF_FF00 = 0 then s else s.reject off

/-- A write of QCTX (R61). -/
def State.qctxWrite (s : State) (q : Nat) (v : W64) : State :=
  let off := queueOffset q + 8
  if 1024 ≤ q ∨ !s.queueFree q then s.reject off
  else
    let s := s.modQueue q fun x => { x with ctxValid := v.getLsbD 63, ctx := v.setWidth 12 }
    if v &&& ~~~0x8000_0000_0000_0FFF = 0 then s else s.reject off

/-- A write to a queue-owner byte (R466). -/
def State.queueOwnerWrite (s : State) (q : Nat) (v : Byte) : State :=
  if 1024 ≤ q ∨ !s.queueFree q then s.reject (0x220000 + q / 8 * 8)
  else { s with queueOwner := if v = 0xFF then s.queueOwner.erase q else s.queueOwner.set q v }

/-- A write to a granule-owner byte (R466): of a byte that holds a partition only one that changes it is accepted, while the partition is
free. -/
def State.granuleOwnerWrite (s : State) (g : Nat) (v : Byte) : State :=
  let old := s.granuleOwner.getD g 0xFF
  if 4096 ≤ g ∨ (old ≠ 0xFF ∧ (old = v ∨ (s.part old.toNat).pstate ≠ 0)) then s.reject (0x230000 + g / 8 * 8)
  else { s with granuleOwner := if v = 0xFF then s.granuleOwner.erase g else s.granuleOwner.set g v }

/-- QCB_WRITE. -/
def execQcbWrite (queue : Nat) (val : W64) (s : State) : Host.Outcome State Fault Refusal := s.command fun s => s.qcbWrite queue val

/-- QCTX_WRITE. -/
def execQctxWrite (queue : Nat) (val : W64) (s : State) : Host.Outcome State Fault Refusal := s.command fun s => s.qctxWrite queue val

/-- QUEUE_OWNER_WRITE. -/
def execQueueOwnerWrite (queue : Nat) (val : Byte) (s : State) : Host.Outcome State Fault Refusal := s.command fun s => s.queueOwnerWrite queue val

/-- GRANULE_OWNER_WRITE. -/
def execGranuleOwnerWrite (granule : Nat) (val : Byte) (s : State) : Host.Outcome State Fault Refusal :=
  s.command fun s => s.granuleOwnerWrite granule val

/-! ## Partitions (R404, R427, R463) -/

/-- PCMD 1 (R427): a fenced spindle that is selected is reset first, and FENCED clears (R463). -/
def State.partCreate (s : State) (p : Nat) : State :=
  let x := s.part p
  let dies := (List.range 24).filter fun k => x.spindlesReg.getLsbD k
  let taken := dies.any fun k => (s.spindle k).part != 0xFF
  let shared := s.parts.any fun o => o.1 != p && o.2.pstate != 0 && (o.2.slices &&& x.slicesReg) != 0
  if 24 ≤ p ∨ x.pstate ≠ 0 ∨ x.spindlesReg = 0 ∨ x.slicesReg = 0 ∨ taken ∨ shared then s.reject (partOffset p)
  else
    let s := s.modPart p fun x => { x with
      spindles := x.spindlesReg, slices := x.slicesReg, pstate := 1, hcause := 0, fq := [], fqWait := [], nextSeq := 1, causes := [],
      linkHeld := [], linkWaits := [], clearing := false }
    let s := dies.foldl (fun s k =>
      let s := if (s.spindle k).fenced then s.resetCores k else s
      s.modSpindle k fun d => { d with part := p, fenced := false, resetSinceFence := false }) s
    ((s.part p).sliceList.foldl (fun s k => s.modSlice k fun sl => { sl with closed := false }) s).renumber p

/-- The written bytes of a line that a slice holds reach memory at once, and the line leaves. -/
def State.storeLine (s : State) (k line : Nat) : State :=
  let s := ((s.slice k).spills.filter (·.line == line)).foldl (fun s x => s.unspill k x.id) s
  match (s.slice k).lines.get? line with
  | none => s
  | some ln =>
    ((ln.sec.filter fun e => e.2.mask != 0).foldl (fun s e => s.storeSector (line * 256 + 64 * e.1) ln.key e.2.data e.2.mask) s).modSlice k
      fun sl => { sl with lines := sl.lines.erase line }

/-- The lines of which a slice holds bytes, cached or on their way to memory, that satisfy a test on their key. -/
def Slice.linesUnder (sl : Slice) (p : Nat → Bool) : List Nat :=
  (((sl.lines.filter fun e => p e.2.key).map (·.1)) ++ (sl.spills.filter fun x => p x.key).map Spill.line).eraseDups

/-- Whether a slice has requests that it has accepted, or is about to, and that are not complete. -/
def Slice.busy (sl : Slice) : Bool := !(sl.inq.isEmpty && sl.admitted.isEmpty && sl.pend.isEmpty && sl.fills.isEmpty)

/-- The spindles, slices, queues and granules of a partition are free (R427). FENCED stays (R463). -/
def State.freePart (s : State) (p : Nat) : State :=
  let cores := s.partCores p
  let s := (s.part p).sliceList.foldl (fun s k => (((s.slice k).linesUnder fun _ => true).foldl (fun s l => s.storeLine k l) s).modSlice k fun sl =>
    { Slice.reset with pos := sl.pos }) s
  let s := cores.foldl (fun s c => s.modCore c Core.cleared) s
  let free (d : Spindle) : Spindle := if d.part = p then { d with part := 0xFF } else d
  (({ s with
    spindles := s.spindles.mapVals free
    links := s.links.mapVals fun k => k.forget (fun _ q => q == p) true
    withheld := s.withheld.filter fun x => s.ownerOf (x * 64) != p
    queueOwner := s.queueOwner.filter fun e => e.2.toNat != p
    granuleOwner := s.granuleOwner.filter fun e => e.2.toNat != p }).modPart p fun x =>
    { x with spindles := 0, slices := 0, pstate := 0, hcause := 0, fq := [], fqWait := [], causes := [], linkHeld := [], linkWaits := [],
             clearing := false })

/-- PCMD 2 (R427): every context of the partition is killed, a halt under way completes, and then everything of it is free: when its launches
are complete and its slices have completed what they accepted (R400, R88). Until then the clear is under way. -/
def State.partClear (s : State) (p : Nat) : State :=
  let s := s.haltPart p
  let s := ((s.ctxs.filter fun c => c.2.desc != 0 && bits c.2.desc 48 8 == p).map (·.1)).foldl State.ctxKill s
  if (s.launches.any fun l => l.2.part == p) || (s.part p).sliceList.any fun k => (s.slice k).busy then
    s.modPart p fun x => { x with clearing := true }
  else s.freePart p

/-- PCMD_CREATE. -/
def execPcmdCreate (part : Nat) (s : State) : Host.Outcome State Fault Refusal := s.command fun s => s.partCreate part

/-- PCMD_CLEAR. -/
def execPcmdClear (part : Nat) (s : State) : Host.Outcome State Fault Refusal := s.command fun s => s.partClear part

/-! ## Services (R410, R418, R427) -/

/-- The launch of a partition that waits for a digest decision. -/
def State.digestWaiter (s : State) (part ident : Nat) : Option Nat :=
  (s.launches.find? fun l => l.2.part == part && l.2.ident == ident && l.2.st == .digestWait).map (·.1)

/-- DIGSVC 1 (R418): the serialised re-execution. -/
def State.digestAgain (s : State) (part ident : Nat) : State :=
  match s.digestWaiter part ident with
  | some l => s.modLaunch l Launch.again
  | none => s

/-- DIGSVC 2 (R418): a context fault DIGEST. -/
def State.digestFault (s : State) (part ident : Nat) : State :=
  match s.digestWaiter part ident with
  | some l => (match s.launches.get? l with
    | some x => s.raise part .digest (engineSource part) 0 0 x.ctx ident
    | none => s)
  | none => s

/-- QGRANT (R427). -/
def State.qgrant (s : State) (part q : Nat) : State :=
  if s.queuePart q = part ∧ q < 1024 then s.modQueue q fun x => { x with grants := x.grants + 1 } else s

/-- A write of DBGHALT (R410): time-outs and the watchdog stop or go on (R357, R398), and waves that stopped at a BRK go on when their spindle does (R170). -/
def State.setDbghalt (s : State) (p : Nat) (v : BitVec 24) : State :=
  let off := (s.part p).dbghalt &&& ~~~v
  let s := s.setHalt p v
  let go (t : Team) : Team := if off.getLsbD (t.core / 36) then { t with waves := t.waves.mapVals Wave.brkResume } else t
  { s with teams := s.teams.mapVals fun t => if (s.launches.get? t.launch).elim false fun l => l.part == p then go t else t }

/-- DEBUG_SAVE. -/
def execDebugSave (part : Nat) (s : State) : Host.Outcome State Fault Refusal := s.command fun s => s.debugSave part

/-- DEBUG_RESUME. -/
def execDebugResume (part : Nat) (s : State) : Host.Outcome State Fault Refusal := s.command fun s => s.debugResume part

/-- DIGSVC_REEXECUTE. -/
def execDigsvcReexecute (part ident : Nat) (s : State) : Host.Outcome State Fault Refusal := s.command fun s => s.digestAgain part ident

/-- DIGSVC_FAULT. -/
def execDigsvcFault (part ident : Nat) (s : State) : Host.Outcome State Fault Refusal := s.command fun s => s.digestFault part ident

/-- QGRANT. -/
def execQgrant (part queue : Nat) (s : State) : Host.Outcome State Fault Refusal := s.command fun s => s.qgrant part queue

/-- DBGHALT. -/
def execDbghalt (part : Nat) (sockets : BitVec 24) (s : State) : Host.Outcome State Fault Refusal := s.command fun s => s.setDbghalt part sockets

/-! ## Keys (R431) -/

/-- KEYCMD 1: the keys of KEYDATA, which is then zero. -/
def State.keyLoad (s : State) (i : Nat) : State :=
  if i = 0 ∨ 1024 ≤ i ∨ (s.keys.get? i).isSome then s.reject 0x240040
  else { s with keys := s.keys.set i s.keyData, keyData := 0 }

/-- KEYCMD 2: after every slice has written back its lines under the key. -/
def State.keyUnload (s : State) (i : Nat) : State :=
  if (s.keys.get? i).isNone then s.reject 0x240040
  else
    let s := s.slices.foldl (fun s sl => (sl.2.linesUnder (· == i)).foldl (fun s l => s.storeLine sl.1 l) s) s
    { s with keys := s.keys.erase i }

/-- KEYCMD_LOAD. -/
def execKeycmdLoad (index : Nat) (s : State) : Host.Outcome State Fault Refusal := s.command fun s => s.keyLoad index

/-- KEYCMD_UNLOAD. -/
def execKeycmdUnload (index : Nat) (s : State) : Host.Outcome State Fault Refusal := s.command fun s => s.keyUnload index

/-! ## Identity registers and counters (R152, R425) -/

def State.clearErr (s : State) : State := { s with err := false }

/-- The counters of a core to zero (R152). -/
def State.clearCounters (s : State) (core : Nat) : State :=
  if core < 864 then s.modCore core fun c => { c with reuseLook := 0, reuseHit := 0, collide := 0, overflow := 0, swaps := 0 } else s

/-- ERR_CLEAR. -/
def execErrClear (s : State) : Host.Outcome State Fault Refusal := .next s.clearErr

/-- FREEZE. -/
def execFreeze (on : Bool) (s : State) : Host.Outcome State Fault Refusal := .next { s with freeze := on }

/-- COUNTER_CLEAR. -/
def execCounterClear (core : Nat) (s : State) : Host.Outcome State Fault Refusal := s.command fun s => s.clearCounters core

/-! ## Reading the management block (R424) -/

/-- 64-bit word `k` of a wide register. -/
def wordOf128 (x k : Nat) : Nat := x / 2 ^ (64 * k) % 2 ^ 64

def State.readIdentity (s : State) (r : Nat) : Nat :=
  match r / 8 with
  | 0 => wordOf128 Config.devcap.toNat 0
  | 1 => wordOf128 Config.devcap.toNat 1
  | 2 => s.tsc.toNat
  | 3 => s.bootstat.toNat
  | 4 => s.errAddr.toNat * 2 ^ 32 + (if s.err then 1 else 0)
  | 5 => if s.freeze then 1 else 0
  | _ => 0

/-- Placement registers (R80). -/
def State.readPlacement (s : State) (r : Nat) : Nat :=
  if r = 0x600 then ((List.range 24).map fun k => (s.spindle k).enabled.length).foldl (· + ·) 0
  else
    let k := r / 64
    let d := s.spindle k
    let en := d.enabled
    let lpt := (List.range 40).map fun j => if j < 36 then BitVec.ofNat 8 (en.getD j 0xFF) else 0
    match r % 64 / 8 with
    | 0 => en.length * 2 ^ 36 + d.fused.toNat
    | 6 => d.part * 2 ^ 8 + (if d.resetting then 4 else 0) + (if d.fenced then 2 else 0) + (if d.part != 0xFF && s.placeable d.part k then 1 else 0)
    | 7 => 0
    | w => leAt lpt (8 * (w - 1)) 8

/-- Core counters (R152). -/
def State.readCounter (s : State) (r : Nat) : Nat :=
  let c := s.core (r / 128)
  match r % 128 / 8 with
  | 0 => c.reuseLook
  | 1 => c.reuseHit
  | 2 => c.collide
  | 3 => c.overflow
  | 4 => c.cnf.length
  | 5 => ((s.teams.filter fun t => t.2.place == .resident && t.2.core == r / 128).flatMap fun t => t.2.waves.flatMap fun w => w.2.names).length
  | 6 => c.swaps
  | _ => 0

/-- A partition block (R427). -/
def State.readPart (s : State) (p r : Nat) : Nat :=
  let x := s.part p
  match r / 8 with
  | 1 => x.spindlesReg.toNat
  | 2 => wordOf128 x.slicesReg.toNat 0
  | 3 => wordOf128 x.slicesReg.toNat 1
  | 4 => wordOf128 x.memshare.toNat 0
  | 5 => wordOf128 x.memshare.toNat 1
  | 6 => x.hbase.toNat
  | 7 => x.stopbase.toNat
  | 8 => x.modes.toNat
  | 9 => x.todie.toNat
  | 10 => x.tolink.toNat
  | 11 => x.fwdog.toNat
  | 12 => x.exptab.toNat
  | 13 => x.peerlist.toNat
  | 14 => x.hcause.toNat * 256 + x.pstate
  | 19 => x.dbghalt.toNat
  | _ => 0

/-- A port (R429). -/
def State.readPort (s : State) (u r : Nat) : Nat :=
  let x := s.port u
  match r / 8 with
  | 0 => x.mac.toNat
  | 1 => (if x.enable then 2 ^ 31 else 0) + x.pcp.toNat * 2 ^ 12 + x.vlan.toNat
  | 2 => x.partmask.toNat
  | 3 => x.txFrames.toNat
  | 4 => x.rxFrames.toNat
  | 5 => x.rxDrop.toNat
  | _ => 0

/-- An entry of a fault queue as the host reads it (R394). -/
def FqEntry.bytes (e : FqEntry) : List Byte :=
  toLe 8 e.vpage.toNat ++ toLe 2 e.ctx ++ toLe 1 e.kind.toNat ++ toLe 1 e.level ++ toLe 1 e.cause ++ toLe 1 e.state ++ toLe 2 e.merges ++
    toLe 8 e.tscFirst.toNat ++ toLe 8 e.tscLast.toNat ++ toLe 2 e.source ++ toLe 2 e.parked ++ toLe 4 e.seq.toNat

def State.readFq (s : State) (p r : Nat) : Nat :=
  match (s.part p).fq.find? fun e => e.slot == r / 64 with
  | some e => leAt e.bytes (r % 64) 8
  | none => 0

def State.readEvq (s : State) (r : Nat) : Nat :=
  match r / 8 with
  | 0 => s.evq.base.toNat
  | 1 => s.evq.log2.toNat
  | 2 => s.evq.head.toNat
  | 3 => s.evq.tail.toNat
  | 4 => s.evq.drop.toNat
  | _ => 0

/-- Eight owner bytes. -/
def owners (m : AMap Byte) (r : Nat) : Nat := leNat ((List.range 8).map fun k => m.getD (r + k) 0xFF)

/-- Where the firmware image window begins in the management block, to the end of which it extends (R437; log entry 99). -/
def firmwareWindow : Nat := 0x401000

/-- The eight bytes of the management block at an aligned offset (R424). In recovery only the identity registers and the firmware image window
answer (R437). -/
def State.regRead (s : State) (o : Nat) : Nat :=
  if o < 0x30 then s.readIdentity o
  else if s.bootstat = 2 then (if firmwareWindow ≤ o then (s.fwImage.getD (o / 8) 0).toNat else 0)
  else if 0x10000 ≤ o ∧ o < 0x10608 then s.readPlacement (o - 0x10000)
  else if 0x40000 ≤ o ∧ o < 0x5B000 then s.readCounter (o - 0x40000)
  else if 0x100000 ≤ o ∧ o < 0x118000 then s.readPart ((o - 0x100000) / 4096) (o % 4096)
  else if 0x200000 ≤ o ∧ o < 0x210000 then
    let c := s.ctx ((o - 0x200000) / 16)
    if o % 16 = 8 then c.desc.toNat else (if c.preq then 4 else 0) + (if c.dbgbrk then 2 else 0) + (if c.scbchk then 1 else 0)
  else if 0x220000 ≤ o ∧ o < 0x220400 then owners s.queueOwner (o - 0x220000)
  else if 0x222000 ≤ o ∧ o < 0x226000 then
    let q := s.queue ((o - 0x222000) / 16)
    if o % 16 = 8 then (if q.ctxValid then 2 ^ 63 else 0) + q.ctx.toNat else q.cbpa.toNat * 256
  else if 0x230000 ≤ o ∧ o < 0x231000 then owners s.granuleOwner (o - 0x230000)
  else if 0x240000 ≤ o ∧ o < 0x240040 then s.keyData.toNat / 2 ^ (8 * (o - 0x240000)) % 2 ^ 64
  else if 0x250000 ≤ o ∧ o < 0x250220 then
    let x := s.unit ((o - 0x250000) / 8)
    x.state * 2 ^ 16 + x.cmd * 2 ^ 8 + (if x.prot then 16 else 0)
  else if 0x260000 ≤ o ∧ o < 0x260028 then s.readEvq (o - 0x260000)
  else if 0x280000 ≤ o ∧ o < 0x280400 then s.readPort ((o - 0x280000) / 64) (o % 64)
  else if 0x300000 ≤ o ∧ o < 0x3C0000 then s.readFq ((o - 0x300000) / 0x8000) (o % 0x8000)
  else if 0x400000 ≤ o ∧ o < 0x401000 then leAt s.spdm.box (o - 0x400000) 8
  else 0

/-! ## Writing the management block (R15, R424-R435) -/

/-- Reserved bits of a write that are not zero set ERR (R15). -/
def State.checkReserved (s : State) (o : Nat) (v mask : W64) : State := if v &&& ~~~mask = 0 then s else s.reject o

/-- A wordOf128 of a wide register written. -/
def putHalf (w old k v : Nat) : BitVec w := BitVec.ofNat w (old % 2 ^ (64 * k) + v * 2 ^ (64 * k) + old / 2 ^ (64 * (k + 1)) * 2 ^ (64 * (k + 1)))

/-- A write to a partition block (R427). -/
def State.writePart (s : State) (o p r : Nat) (v : W64) : State :=
  match r / 8 with
  | 0 => (match bits v 0 2 with | 1 => s.partCreate p | 2 => s.partClear p | _ => s).checkReserved o v 3
  | 1 => (s.modPart p fun x => { x with spindlesReg := v.setWidth 24 }).checkReserved o v 0xFFFFFF
  | 2 => s.modPart p fun x => { x with slicesReg := putHalf 96 x.slicesReg.toNat 0 v.toNat }
  | 3 => (s.modPart p fun x => { x with slicesReg := putHalf 96 x.slicesReg.toNat 1 (bits v 0 32) }).checkReserved o v 0xFFFFFFFF
  | 4 => s.modPart p fun x => { x with memshare := putHalf 128 x.memshare.toNat 0 v.toNat }
  | 5 => s.modPart p fun x => { x with memshare := putHalf 128 x.memshare.toNat 1 v.toNat }
  | 6 => s.modPart p fun x => { x with hbase := v }
  | 7 => s.modPart p fun x => { x with stopbase := v }
  | 8 => (s.modPart p fun x => { x with modes := v.setWidth 4 }).checkReserved o v 15
  | 9 => s.modPart p fun x => { x with todie := v }
  | 10 => s.modPart p fun x => { x with tolink := v }
  | 11 => s.modPart p fun x => { x with fwdog := v }
  | 12 => s.modPart p fun x => { x with exptab := v }
  | 13 => s.modPart p fun x => { x with peerlist := v }
  | 14 => s.checkReserved o v 0xFF03
  | 15 =>
    let seq : W32 := v.setWidth 32
    (if s.hostServes p seq then s.outcomeOf (execFqtake p seq s) else s.reject o).checkReserved o v 0xFFFFFFFF
  | 16 =>
    let seq : W32 := v.setWidth 32
    (if !s.hostServes p seq then s.reject o
     else s.outcomeOf (if v.getLsbD 32 then execFqresolveFail p seq s else execFqresolve p seq s)).checkReserved o v 0x1FFFFFFFF
  | 17 =>
    let s' := match bits v 62 2 with
      | 1 => s.digestAgain p (bits v 0 58)
      | 2 => s.digestFault p (bits v 0 58)
      | _ => s
    s'.checkReserved o v 0xC3FF_FFFF_FFFF_FFFF
  | 18 => (s.qgrant p (bits v 0 10)).checkReserved o v 0x3FF
  | 19 => (s.setDbghalt p (v.setWidth 24)).checkReserved o v 0xFFFFFF
  | 20 =>
    (match bits v 0 2 with
     | 1 => s.debugSave p
     | 2 => s.debugResume p
     | _ => s).checkReserved o v 3
  | 21 =>
    let l := bits v 8 6
    let s' := if 32 ≤ l then s else match bits v 0 2 with
      | 1 => s.outcomeOf (execLinksvcWait p l s)
      | 2 => s.outcomeOf (execLinksvcLinklost p l s)
      | _ => s
    s'.checkReserved o v 0x3F03
  | _ => s

/-- A write to CTXCTL (R382); ignored while the context does not exist (R426). -/
def State.writeCtxctl (s : State) (o c : Nat) (v : W64) : State :=
  if (s.ctx c).desc = 0 then s
  else
    let s := ((s.ctxScbchk c (v.getLsbD 0)).ctxDbgbrk c (v.getLsbD 1)).ctxPreq c (v.getLsbD 2)
    let s := if v.getLsbD 4 then s.ctxReload c else s
    (if v.getLsbD 3 then s.ctxKill c else s).checkReserved o v 0x1F

/-- A write to a power unit register (R433). -/
def State.writeUnit (s : State) (o u : Nat) (v : W64) : State :=
  let waves : BitVec 16 := v.extractLsb' 32 16
  let s := if 36 ≤ u ∧ waves ≠ 0 then
      let p := s.probed waves
      p.2.restoreLink (u - 36) waves p.1 0 waves
    else s
  let s := match bits v 24 2 with
    | 0 => s
    | 1 => s.spopReset u
    | 2 => s.spopFence u
    | _ => s.spopReturn u
  let s := if bits v 8 3 = (s.unit u).cmd then s else s.powerCommand u (bits v 8 3)
  s.checkReserved o v (if u < 36 then 0x0307_0710 else 0xFFFF_0307_0710)

/-- A write to a scale-out port (R429). -/
def State.writePort (s : State) (o u r : Nat) (v : W64) : State :=
  match r / 8 with
  | 0 => (s.modPort u fun x => { x with mac := v.setWidth 48 }).checkReserved o v 0xFFFF_FFFF_FFFF
  | 1 => (s.modPort u fun x => { x with enable := v.getLsbD 31, pcp := v.extractLsb' 12 3, vlan := v.setWidth 12 }).checkReserved o v 0x8000_7FFF
  | 2 => (s.modPort u fun x => { x with partmask := v.setWidth 24 }).checkReserved o v 0xFFFFFF
  | _ => s

/-- A write to the event queue's control (R435). -/
def State.writeEvq (s : State) (o r : Nat) (v : W64) : State :=
  match r / 8 with
  | 0 => { s with evq := { s.evq with base := v &&& ~~~0xFFF } }.checkReserved o v (~~~0xFFF)
  | 1 => if v.toNat < 6 ∨ 16 < v.toNat then s.reject o else { s with evq := { s.evq with log2 := v } }
  | 2 => { s with evq := { s.evq with head := v } }
  | _ => s

/-- Eight owner bytes written, each by itself (R466). -/
def putOwners (put : State → Nat → Byte → State) (s : State) (r : Nat) (v : W64) : State :=
  (List.range 8).foldl (fun s k => put s (r + k) (v.extractLsb' (8 * k) 8)) s

/-- A write to a placement register, all of whose fields are read only (R80). -/
def State.writePlacement (s : State) (o r : Nat) (v : W64) : State :=
  if r = 0x600 then s.checkReserved o v 0x3FF
  else if r % 64 = 0 then s.checkReserved o v 0xFFF_FFFF_FFFF
  else if r % 64 = 0x30 then s.checkReserved o v 0xFF07
  else s

/-- A write to a counter block (R152). -/
def State.writeCounter (s : State) (o core r : Nat) (v : W64) : State :=
  if r = 0x38 then (if v.getLsbD 0 then s.clearCounters core else s).checkReserved o v 1
  else if r = 0x20 ∨ r = 0x28 then s.checkReserved o v 0x3FFF
  else s

/-- Eight bytes written into the SPDM mailbox; those of offset 0 hand the request over to the responder (log entry 92). -/
def State.writeMailbox (s : State) (r : Nat) (v : W64) : State :=
  let box := s.spdm.box ++ zeros (r + 8 - s.spdm.box.length)
  { s with spdm := { s.spdm with box := box.take r ++ toLe 8 v.toNat ++ box.drop (r + 8), asked := s.spdm.asked || r == 0 } }

/-- The eight bytes of the management block at an aligned offset written. Fields that are read only ignore a write. -/
def State.regWrite (s : State) (o : Nat) (v : W64) : State :=
  if o = 0x20 then (if v.getLsbD 0 then s.clearErr else s).checkReserved o v 0xFFFF_FFFF_0000_0001
  else if o = 0x28 then { s with freeze := v.getLsbD 0 }.checkReserved o v 1
  else if o = 0 then s.checkReserved o v 0xFFF
  else if o = 8 then s.checkReserved o v 0
  else if o = 0x18 then s.checkReserved o v 0xFF
  else if o < 0x30 then s
  else if s.bootstat = 2 then (if firmwareWindow ≤ o then { s with fwImage := s.fwImage.set (o / 8) v } else s)
  else if 0x10000 ≤ o ∧ o < 0x10608 then s.writePlacement o (o - 0x10000) v
  else if 0x40000 ≤ o ∧ o < 0x5B000 then s.writeCounter o ((o - 0x40000) / 128) (o % 128) v
  else if 0x100000 ≤ o ∧ o < 0x118000 then s.writePart o ((o - 0x100000) / 4096) (o % 4096) v
  else if 0x200000 ≤ o ∧ o < 0x210000 then
    (if o % 16 = 8 then s.ctxCreate ((o - 0x200000) / 16) v else s.writeCtxctl o ((o - 0x200000) / 16) v)
  else if 0x220000 ≤ o ∧ o < 0x220400 then putOwners State.queueOwnerWrite s (o - 0x220000) v
  else if 0x222000 ≤ o ∧ o < 0x226000 then
    (if o % 16 = 8 then s.qctxWrite ((o - 0x222000) / 16) v else s.qcbWrite ((o - 0x222000) / 16) v)
  else if 0x230000 ≤ o ∧ o < 0x231000 then putOwners State.granuleOwnerWrite s (o - 0x230000) v
  else if 0x240000 ≤ o ∧ o < 0x240040 then
    { s with keyData := Sector.put s.keyData (o - 0x240000) (toLe 8 v.toNat) }
  else if o = 0x240040 then
    (match bits v 62 2 with
     | 1 => s.keyLoad (bits v 0 10)
     | 2 => s.keyUnload (bits v 0 10)
     | _ => s).checkReserved o v 0xC000_0000_0000_03FF
  else if 0x250000 ≤ o ∧ o < 0x250220 then s.writeUnit o ((o - 0x250000) / 8) v
  else if 0x260000 ≤ o ∧ o < 0x260028 then s.writeEvq o (o - 0x260000) v
  else if 0x280000 ≤ o ∧ o < 0x280400 then s.writePort o ((o - 0x280000) / 64) (o % 64) v
  else if 0x400000 ≤ o ∧ o < 0x401000 then s.writeMailbox (o - 0x400000) v
  else s

/-- REGISTER_WRITE (R15). An offset that is not 8-byte aligned writes nothing and sets ERR (R423). Before boot has brought the host ports up
nothing arrives (R436). -/
def execRegisterWrite (off : Nat) (val : W64) (s : State) : Host.Outcome State Fault Refusal :=
  .next (if s.bootstat = 0 then s else if off % 8 ≠ 0 then s.reject off else s.regWrite off val)

/-! ## RDMA (R66, R423) -/

/-- Whether an access touches the management block, and whether it is a register access. -/
def inMgmt (pa n : Nat) : Bool := decide (pa < Config.mbase + 0x1000000 ∧ Config.mbase < pa + n)
def isRegister (pa n : Nat) : Bool := decide (Config.mbase ≤ pa ∧ n = 8 ∧ pa % 8 = 0)

/-- What an RDMA operation asks for, in order (R66, R423): a register access, or the lines that it touches, and the reply. `data`: what it
writes, or nothing for a read. Bytes at addresses that hold no memory go nowhere, and read as free values. -/
def State.hostOps (s : State) (pa n : Nat) (data : Option (List Byte)) : List HostOp :=
  let last : HostOp := if data.isSome then .ack else .reply
  if inMgmt pa n then
    [if isRegister pa n then data.elim (.regRead (pa - Config.mbase)) fun bs => .regWrite (pa - Config.mbase) (BitVec.ofNat 64 (leNat bs))
     else .reject (pa - Config.mbase) n, last]
  else if s.bootstat = 1 && (paPlace pa).isSome && (paPlace (pa + n - 1)).isSome then
    ((lineSpans pa n).map fun x => data.elim (HostOp.read x.2.1 x.2.2) fun bs => .write x.2.1 ((bs.drop x.1).take x.2.2)) ++ [last]
  else (if data.isSome then [] else [.open n]) ++ [last]

/-- A queue pair as it stands. -/
def State.hostQp (s : State) (qp : Nat) : HostQp := s.hostQps.getD qp ⟨[], false, []⟩

/-- A queue pair changed; one with nothing to do is not listed. -/
def State.setHostQp (s : State) (qp : Nat) (q : HostQp) : State :=
  { s with hostQps := if q.ops.isEmpty then s.hostQps.erase qp else s.hostQps.set qp q }

/-- The request of a queue pair for bytes of one line, from its port die to the home slice (R66, R278, R348). -/
def State.hostAsk (s : State) (qp pa : Nat) (kind : ReqKind) (k : Nat) : State :=
  let tm := Terms.nobody 0xFF
  let r : Req := ⟨s.nextUid, 0, qpSource qp, .host qp, qpDom qp, pa / 256, 0, kind, tm.deadline, tm.prio, tm.queue, tm.part, true, false, tm.own⟩
  let q := s.hostQp qp
  ({ s with nextUid := s.nextUid + 1, hostQps := s.hostQps.set qp { q with sent := true } }).sendMesh (sockRouter (12 + qpDie qp)) (.slice k)
    (netOf r.dom) r.source tm (.request r)

/-- Bytes of one line written or read for a queue pair (R66, R278): by a request to the home slice, else at the memory socket, which makes
it wait in IDLE and serves nothing in PARKED and OFF (R432). `none`: it waits. -/
def State.hostLine (s : State) (qp pa : Nat) (kind : ReqKind) (done : State → State) (fail : State) : Option State :=
  match s.homeOf (pa / 256) with
  | some k => if (s.hostQp qp).sent then none else some (s.hostAsk qp pa kind k)
  | none =>
    let k := memSocket pa
    if s.sockUp k then some (done s) else if (s.unit (sockUnit k)).state = 2 then none else some fail

/-- A queue pair goes on with its first operation (R66): the next one starts when it has been answered. -/
def State.hostGo (s : State) (qp : Nat) : State :=
  let q := s.hostQp qp
  let rest := q.ops.tail
  let went (s : State) (got : List Byte) : State := s.setHostQp qp ⟨rest, false, q.got ++ got⟩
  let replied (r : HostReply) : State := { s.setHostQp qp ⟨rest, false, []⟩ with hostOut := s.hostOut ++ [r] }
  let failed := s.setHostQp qp ⟨.error :: rest.dropWhile fun o => match o with | .ack => false | .reply => false | _ => true, false, []⟩
  match q.ops with
  | [] => s
  | .ack :: _ => replied (.ack qp)
  | .reply :: _ => replied (.data qp q.got)
  | .error :: .ack :: rest => { s.setHostQp qp ⟨rest, false, []⟩ with hostOut := s.hostOut ++ [.remoteError qp] }
  | .error :: .reply :: rest => { s.setHostQp qp ⟨rest, false, []⟩ with hostOut := s.hostOut ++ [.remoteError qp] }
  | .error :: _ => replied (.remoteError qp)
  | .regWrite off v :: _ => (went s []).regWrite off v
  | .regRead off :: _ => went s (toLe 8 (s.regRead off))
  | .reject off n :: _ => (went s (zeros n)).reject off
  | .open n :: _ => let r := s.freeBytes n; went r.1 r.2
  | .write pa bs :: _ =>
    let s := s.undefinePages
    (s.hostLine qp pa (.write (maskAt 256 (pa % 256) bs.length) (BitVec.ofNat 2048 (leNat bs <<< (8 * (pa % 256)))))
      (fun s => went (s.writePa pa 0 bs) []) failed).getD s
  | .read pa n :: _ =>
    (s.undefinePages.hostLine qp pa (.read (BitVec.ofNat 4 ((List.range 4).foldl (fun m i =>
        if pa % 256 / 64 ≤ i ∧ 64 * i < pa % 256 + n then m + 2 ^ i else m) 0)) false)
      (fun u => if s.withheldAt pa n then failed else went u (u.readPaKey pa n 0)) failed).getD s

/-- A queue pair goes on as far as it can. -/
def State.hostRun (qp : Nat) : Nat → State → State
  | 0, s => s
  | n + 1, s => (s.hostGo qp).hostRun qp n

/-- What a queue pair is given follows what it was given before (R66). Each of two host ports has 64 queue pairs; numbers 128 to 131 are the
manager cores (log entry 132); on any other nothing is supported. Before boot has brought the host ports up nothing arrives (R436). -/
def State.rdma (s : State) (qp pa n : Nat) (data : Option (List Byte)) : State :=
  if s.bootstat = 0 then s
  else if 132 ≤ qp then { s with hostOut := s.hostOut ++ [.remoteError qp] }
  else
    let q := s.hostQp qp
    let ops := q.ops ++ s.hostOps pa n data
    (s.setHostQp qp { q with ops := ops }).hostRun qp ops.length

/-- RDMA_WRITE (R66, R423). -/
def execRdmaWrite (qp pa : Nat) (data : List Byte) (s : State) : Host.Outcome State Fault Refusal := .next (s.rdma qp pa data.length (some data))

/-- RDMA_READ (R423). Data that cannot be corrected are not read (R359): the request ends with an error. -/
def execRdmaRead (qp pa len : Nat) (s : State) : Host.Outcome State Fault Refusal := .next (s.rdma qp pa len none)

/-- REMOTE_OPERATION_ERROR (R423). -/
def execRemoteOperationError (qp : Nat) (s : State) : Host.Outcome State Fault Refusal :=
  .next (if s.bootstat = 0 then s else { s with hostOut := s.hostOut ++ [.remoteError qp] })

/-! ## SPDM (R438) -/

/-- Measurements 1 to 4 (R438): the ROM, the firmware, its configuration, and DEVCAP together with every HARVEST, hashed in this order (DESIGN
CHOICE, log entry 92). -/
def State.measurements (s : State) : List (BitVec 256) :=
  [Config.measured 1, Config.measured 2, Config.measured 3,
   sha3 (toLe 16 Config.devcap.toNat ++ (List.range 24).flatMap fun k => toLe 8 (s.readPlacement (64 * k)))]

/-- The responder takes the request that begins the mailbox, when it has been handed over and has the request code, and puts its
response in its place (log entry 92). The bytes of a response are those of DSP0274, which the manual does not repeat (log entry
12). -/
def State.spdmAnswer (s : State) (code : Nat) (request : List Byte) (after : Spdm → Spdm) : State :=
  let x := s.spdm
  if x.asked && decide (4 ≤ request.length) && leAt x.box 1 1 == code && request == x.box.take request.length then
    { s with spdm := after { x with asked := false, box := (Config.spdmResponse code request x.version x.negotiated s.bootHash s.measurements).take 4096 } }
  else s

/-- GET_VERSION. -/
def execGetVersion (request : List Byte) (s : State) : Host.Outcome State Fault Refusal :=
  .next (s.spdmAnswer 0x84 request fun x => { x with version := true, negotiated := false })

/-- GET_CAPABILITIES. -/
def execGetCapabilities (request : List Byte) (s : State) : Host.Outcome State Fault Refusal := .next (s.spdmAnswer 0xE1 request id)

/-- NEGOTIATE_ALGORITHMS. -/
def execNegotiateAlgorithms (request : List Byte) (s : State) : Host.Outcome State Fault Refusal :=
  .next (s.spdmAnswer 0xE3 request fun x => { x with negotiated := x.version })

/-- GET_DIGESTS. -/
def execGetDigests (request : List Byte) (s : State) : Host.Outcome State Fault Refusal := .next (s.spdmAnswer 0x81 request id)

/-- GET_CERTIFICATE. -/
def execGetCertificate (request : List Byte) (s : State) : Host.Outcome State Fault Refusal := .next (s.spdmAnswer 0x82 request id)

/-- CHALLENGE. -/
def execChallenge (request : List Byte) (s : State) : Host.Outcome State Fault Refusal := .next (s.spdmAnswer 0x83 request id)

/-- GET_MEASUREMENTS. -/
def execGetMeasurements (request : List Byte) (s : State) : Host.Outcome State Fault Refusal := .next (s.spdmAnswer 0xE0 request id)

/-! ## Translation invalidations (R266, R145) -/

/-- The context of a team. -/
def State.teamCtx (s : State) (t : Nat) : Option Nat := ((s.teams.get? t).bind fun tm => s.launches.get? tm.launch).map Launch.ctx

/-- Whether an access of an asker may have used a translation of a context: one of a wave's operation numbered below `op`, of a copy
command, of another package, or of the core itself, whose lines keep no context. -/
def State.mayUse (s : State) (ctx op : Nat) : Asker → Bool
  | .op t _ _ => s.teamCtx t == some ctx
  | .remote _ t _ o _ => s.teamCtx t == some ctx && decide (o < op)
  | .cmd core cmd _ => ((s.core core).cmds.find? (·.id == cmd)).any fun c => s.teamCtx c.team == some ctx
  | .evict _ _ => true
  | .prefetch _ => true
  | .fetch _ => true
  | .link _ _ => true
  | _ => false

/-- Whether an access goes to an export of a partition, through the page tables of its context (R277). -/
def Place.isExport : Place → Bool
  | .peer _ _ => true
  | .remote _ _ _ _ _ _ => true
  | _ => false

/-- Whether no access that used a translation is on its way any more (R266): none in a store queue, waiting as an atomic, in the crossbar
before its home slice, or under way to another package. An access to an export may have used those of the exporter. -/
def State.accessesOver (s : State) (v : TransInval) : Bool :=
  (s.cores.all fun c =>
    (c.2.sq.all fun q => q.2.all fun e => !(decide (e.op < v.op) && (s.teamCtx e.team == some v.ctx || e.parts.any fun p => p.2.1.isExport))) &&
      c.2.atomsUnsent.all fun a => !(decide (a.op < v.op) && (s.teamCtx a.team == some v.ctx || a.peer))) &&
    (s.unaccepted.all fun r => !(decide (r.id < v.uid) && (s.mayUse v.ctx v.op r.asker || s.foreign r))) &&
    (s.routers.all fun r => r.2.out.all fun o => o.2.all fun m => !m.msg.asks fun a _ => s.mayUse v.ctx v.op a) &&
    s.links.all fun l => (l.2.inbox.all fun m => !m.asks fun a _ => s.mayUse v.ctx v.op a) &&
      l.2.outstanding.all fun o => !s.mayUse v.ctx v.op o.asker

/-- Every core drops the translations of the range and the context's load reuse entries. -/
def State.dropTranslations (s : State) (v : TransInval) : State :=
  let covered (e : TlbEntry) : Bool := e.ctx % 4096 == v.ctx && decide (v.lo / 65536 ≤ e.vpage) && decide (e.vpage ≤ v.hi / 65536)
  let drop (c : Core) : Core := { c.dropReuse (fun e => e.isLoad && e.ctx == v.ctx) with tlb := c.tlb.filter fun e => !covered e }
  { s with cores := s.cores.mapVals drop }

/-- What the cores of a context's partition hold masked, and the stashes of its teams, is sent home: it may stand under old translations. -/
def State.flushFor (s : State) (ctx : Nat) : State :=
  let part := bits (s.ctx ctx).desc 48 8
  let tm := Terms.nobody part
  let s := (s.liveCores part).foldl (fun s c => (s.writeBackAll c .rc tm).writeBackAll c .blk tm) s
  ((s.teams.map (·.1)).filter fun t => s.teamCtx t == some ctx).foldl (fun s t => s.cleanTeamStash t tm) s

/-- Whether a write-back sent before request `uid` has not been accepted. -/
def State.flushing (s : State) (uid : Nat) : Bool := s.unaccepted.any fun r => r.isEvict && decide (r.id < uid)

/-- TRANSLATION_INVALIDATION: a range of virtual addresses of a context. It begins by dropping the translations; once every access that
used one has been accepted at its home slice or discarded, what is masked under them is sent home, and when that is accepted it completes
(log entry 129). -/
def execTranslationInvalidation (ctx lo hi : Nat) (s : State) : Host.Outcome State Fault Refusal :=
  match s.transInvals.find? fun v => v.ctx == ctx && v.lo == lo && v.hi == hi with
  | none =>
    let v : TransInval := ⟨ctx, lo, hi, s.nextOp, s.nextUid, false⟩
    .next { s.dropTranslations v with transInvals := s.transInvals ++ [v] }
  | some v =>
    let put (w : TransInval) : List TransInval := s.transInvals.map fun x => if x = v then w else x
    if v.flushed then
      .next (if s.flushing v.uid then s else { s.dropTranslations v with transInvals := s.transInvals.erase v })
    else if s.accessesOver v then
      let t := (s.dropTranslations v).flushFor ctx
      .next { t with transInvals := put { v with flushed := true, uid := t.nextUid } }
    else .next s

end Sys2Proof.Machine
end

