-- ==== Sys2Proof/WellFormed.lean ====
section
/-! DEFINITION. Which terms of the syntax are instructions of the machine: for the instructions of the opcode map the
encoding rules of check 1 (R115), for the steps of other agents the ranges of their numbers (R1). -/

namespace Sys2Proof

/-- The ranges of the numbers a step of another agent names. -/
def stepInRange (i : Instr) : Bool :=
  match i with
  | .nop _ => true
  | .bra _ => true
  | .brx _ => true
  | .call _ => true
  | .callx _ => true
  | .ret _ => true
  | .exit _ => true
  | .jenrol _ => true
  | .jwait _ => true
  | .yield _ => true
  | .sleep _ => true
  | .pcmp _ => true
  | .plog _ => true
  | .pmov _ => true
  | .pvote _ => true
  | .ballot _ => true
  | .glaunch _ => true
  | .gjoin _ => true
  | .trap _ => true
  | .brk _ => true
  | .iadd _ => true
  | .isub _ => true
  | .iaddc _ => true
  | .imul _ => true
  | .imulh _ => true
  | .imad _ => true
  | .imin _ => true
  | .imax _ => true
  | .iabs _ => true
  | .blut _ => true
  | .shl _ => true
  | .shr _ => true
  | .shra _ => true
  | .rot _ => true
  | .shd _ => true
  | .popc _ => true
  | .clz _ => true
  | .brev _ => true
  | .bfe _ => true
  | .bfi _ => true
  | .isel _ => true
  | .icmp _ => true
  | .mov _ => true
  | .movi _ => true
  | .lea _ => true
  | .bshuf _ => true
  | .dot4 _ => true
  | .sad _ => true
  | .idiv _ => true
  | .lxch _ => true
  | .lanebc _ => true
  | .rds _ => true
  | .iota _ => true
  | .fadd _ => true
  | .fsub _ => true
  | .fmul _ => true
  | .ffma _ => true
  | .fmin _ => true
  | .fmax _ => true
  | .fcmp _ => true
  | .fclass _ => true
  | .frcp _ => true
  | .frsq _ => true
  | .fsqrt _ => true
  | .fexp2 _ => true
  | .flog2 _ => true
  | .fsin _ => true
  | .fcos _ => true
  | .ftanh _ => true
  | .pkadd _ => true
  | .pkmul _ => true
  | .pkfma _ => true
  | .bfma2 _ => true
  | .dadd _ => true
  | .dmul _ => true
  | .dfma _ => true
  | .cvt _ => true
  | .qcvt _ => true
  | .dqcvt _ => true
  | .amaxr _ => true
  | .qscale _ => true
  | .fsetmode _ => true
  | .fflags _ => true
  | .mma _ => true
  | .mmaq _ => true
  | .scld _ => true
  | .scrd _ => true
  | .fragx _ => true
  | .acccvt _ => true
  | .ld _ => true
  | .ldk _ => true
  | .st _ => true
  | .atom _ => true
  | .red _ => true
  | .fence _ => true
  | .bridge _ => true
  | .cctlIvi _ => true
  | .cctlWb _ => true
  | .cctlInv _ => true
  | .cctlPf _ => true
  | .cctlPfs _ => true
  | .smapMap _ => true
  | .smapUnmap _ => true
  | .swb _ => true
  | .sdrop _ => true
  | .tcopy _ => true
  | .tdesc _ => true
  | .gather _ => true
  | .scatter _ => true
  | .rcopy _ => true
  | .coll _ => true
  | .waitc _ => true
  | .push _ => true
  | .pop _ => true
  | .ringinit _ => true
  | .binit _ => true
  | .barrive _ => true
  | .barriveb _ => true
  | .bwait _ => true
  | .btest _ => true
  | .binval _ => true
  | .rett _ => true
  | .rdside _ => true
  | .wrctx _ => true
  | .dgread _ => true
  | .haltself _ => true
  | .issueGroupBuild core slot => decide (core < 864) && decide (slot < 2)
  | .subsetRetirement _ wave _ => decide (wave < 32)
  | .sleepExpiry _ wave => decide (wave < 32)
  | .swapTrigger core => decide (core < 864)
  | .swap core => decide (core < 864)
  | .loadDataArrival _ wave _ => decide (wave < 32)
  | .remoteReplyArrival _ wave _ => decide (wave < 32)
  | .storeAck _ wave _ => decide (wave < 32)
  | .storeQueueRelease core _ => decide (core < 864)
  | .atomicReply _ wave _ => decide (wave < 32)
  | .ringAck _ wave _ => decide (wave < 32)
  | .barrierReply _ wave _ => decide (wave < 32)
  | .mmaComplete _ wave _ => decide (wave < 32)
  | .fenceComplete _ wave _ => decide (wave < 32)
  | .slicePerform slice => decide (slice < 96)
  | .invalidationArrival core => decide (core < 864)
  | .writePropagated slice _ => decide (slice < 96)
  | .extSnoop link => decide (link < 32)
  | .snoopFilterEvict link _ => decide (link < 32)
  | .l1Eviction core _ sector => decide (core < 864) && decide (sector < 4)
  | .stashRecall _ _ _ => true
  | .engineAccess core _ => decide (core < 864)
  | .tdescComplete core _ => decide (core < 864)
  | .copyComplete core _ => decide (core < 864)
  | .ringReserve core _ => decide (core < 864)
  | .ringFill core _ => decide (core < 864)
  | .wakeArrival core => decide (core < 864)
  | .registrationRetry _ wave => decide (wave < 32)
  | .deadlineBoost slice => decide (slice < 96)
  | .neighbourEntryArrival core dir => decide (core < 864) && decide (dir < 4)
  | .queuePost queue => decide (queue < 1024)
  | .frameSend port => decide (port < 16)
  | .frameReceive port _ => decide (port < 16)
  | .controlBlockReread queue => decide (queue < 1024)
  | .qcmdEnable queue => decide (queue < 1024)
  | .qcmdDisable queue => decide (queue < 1024)
  | .packetConsume queue => decide (queue < 1024)
  | .dependenceSatisfied _ => true
  | .teamPlace _ => true
  | .coResidentAdmit _ => true
  | .childLaunch _ => true
  | .teamRetire _ => true
  | .gridRetire _ => true
  | .serialisedExecution _ => true
  | .preemptSave _ => true
  | .wakeEvaluate _ => true
  | .teamRestore _ core => decide (core < 864)
  | .faultPark part => decide (part < 24)
  | .fqtake part _ => decide (part < 24)
  | .fqresolve part _ => decide (part < 24)
  | .fqresolveFail part _ => decide (part < 24)
  | .watchdog part _ => decide (part < 24)
  | .halt part => decide (part < 24)
  | .uncorrectable part _ _ => decide (part < 24)
  | .dieFailure socket => decide (socket < 24)
  | .crossDieTimeout core _ => decide (core < 864)
  | .crossLinkTimeout part link => decide (part < 24) && decide (link < 32)
  | .slotSend slice => decide (slice < 96)
  | .slotReceive slice _ => decide (slice < 96)
  | .slotResend slice _ => decide (slice < 96)
  | .routerForward router out => decide (router < 24) && decide (out < 13)
  | .sliceAdmission slice => decide (slice < 96)
  | .socketAdmission socket => decide (socket < 16)
  | .flitSend link => decide (link < 32)
  | .flitReceive link _ => decide (link < 32)
  | .nakRepeat link => decide (link < 32)
  | .ackTimeout link => decide (link < 32)
  | .controlFlitSend link => decide (link < 32)
  | .controlFlitReceive link _ => decide (link < 32)
  | .lossOfLight link _ laser => decide (link < 32) && laser.all fun n => decide (n < 4)
  | .restripe link _ _ => decide (link < 32)
  | .linkEventRecord link => decide (link < 32)
  | .linkLost link => decide (link < 32)
  | .retrainEnd link _ _ => decide (link < 32)
  | .protectionEnter unit _ => decide (unit < 68)
  | .protectionRelease unit => decide (unit < 68)
  | .resetComplete socket => decide (socket < 24)
  | .rdmaWrite _ _ _ => true
  | .rdmaRead _ _ _ => true
  | .remoteOperationError _ => true
  | .registerWrite _ _ => true
  | .errClear => true
  | .freeze _ => true
  | .counterClear core => decide (core < 864)
  | .ctxdescCreate ctx _ => decide (ctx < 4096)
  | .reload ctx => decide (ctx < 4096)
  | .kill ctx => decide (ctx < 4096)
  | .preq ctx _ => decide (ctx < 4096)
  | .dbgbrk ctx _ => decide (ctx < 4096)
  | .scbchk ctx _ => decide (ctx < 4096)
  | .qcbWrite queue _ => decide (queue < 1024)
  | .qctxWrite queue _ => decide (queue < 1024)
  | .queueOwnerWrite queue _ => decide (queue < 1024)
  | .granuleOwnerWrite granule _ => decide (granule < 4096)
  | .pcmdCreate part => decide (part < 24)
  | .pcmdClear part => decide (part < 24)
  | .digsvcReexecute part _ => decide (part < 24)
  | .digsvcFault part _ => decide (part < 24)
  | .qgrant part queue => decide (part < 24) && decide (queue < 1024)
  | .dbghalt part _ => decide (part < 24)
  | .debugSave part => decide (part < 24)
  | .debugResume part => decide (part < 24)
  | .linksvcWait part link => decide (part < 24) && decide (link < 32)
  | .linksvcLinklost part link => decide (part < 24) && decide (link < 32)
  | .keycmdLoad index => decide (index < 1024)
  | .keycmdUnload index => decide (index < 1024)
  | .powerCommand unit target => decide (unit < 68) && decide (target < 8)
  | .spopReset unit => decide (unit < 68)
  | .spopFence unit => decide (unit < 68)
  | .spopReturn unit => decide (unit < 68)
  | .restore link _ _ _ => decide (link < 32)
  | .boot _ => true
  | .getVersion _ => true
  | .getCapabilities _ => true
  | .negotiateAlgorithms _ => true
  | .getDigests _ => true
  | .getCertificate _ => true
  | .challenge _ => true
  | .getMeasurements _ => true
  | .translationInvalidation ctx _ _ => decide (ctx < 4096)

/-- An instruction of the opcode map keeps check 1 of R115; a step names units that the package has. -/
def Instr.wellFormed (i : Instr) : Bool :=
  match Machine.opcodeOf i with
  | some (opc, f) => Machine.formOk opc f && decide (Machine.mkInstr opc f = some i)
  | none => stepInRange i

end Sys2Proof
end

