-- ==== Sys2Proof/Decode.lean ====
section
/-! DEFINITION. The decoder: from the two words at a PC (R94) to an instruction, or to the reason of the ILLEGAL trap (R386);
and the encoder, from the same tables (R97). -/

namespace Sys2Proof.Machine

/-- Why check 1 fails: REASON and FIELD of the side-buffer record (R386). -/
structure Illegal where
  reason : Nat
  field : Nat
  deriving DecidableEq, Repr

/-- The domain, scope and order codes of R108; `none` for a reserved value. -/
def domOf : Nat → Option Dom
  | 0 => some .rc
  | 1 => some .sc
  | 2 => some .tso
  | 3 => some .cau
  | 4 => some .blk
  | _ => none
def scopeOf : Nat → Option Scope
  | 0 => some .team
  | 1 => some .core
  | 2 => some .clus
  | 3 => some .die
  | 4 => some .pkg
  | 5 => some .sys
  | _ => none
def orderOf : Nat → Ordering4
  | 0 => .plain
  | 1 => .acq
  | 2 => .rel
  | _ => .acqrel

/-- The ordering subfields of SRCC (R108), where every one is allowed; REASON 3 otherwise. -/
def decOrd (ds ss os hs : List Nat) (raw : BitVec 10) : Except Nat Opnd :=
  let d := (raw.extractLsb' 0 3).toNat
  let s := (raw.extractLsb' 3 3).toNat
  let o := (raw.extractLsb' 6 2).toNat
  let h := raw.extractLsb' 8 2
  match domOf d, scopeOf s with
  | some dom, some sc =>
    if ds.contains d && ss.contains s && os.contains o && hs.contains h.toNat then .ok (.ord dom sc (orderOf o) h)
    else .error 3
  | _, _ => .error 3

/-- An operand field of 10 bits: class [9], peek [8], index [7:0] (R97). A destination field is given with peek 0. -/
def decOpnd (k : Fld) (raw : BitVec 10) : Except Nat Opnd :=
  let cls := raw.getLsbD 9
  let peek := raw.getLsbD 8
  let n := raw.extractLsb' 0 8
  match k with
  | .none => if raw = 0 then .ok .none else .error 3
  | .reg => if cls then .error 6 else .ok (.v n)
  | .vec => if cls then .ok (.ch n peek) else .ok (.v n)
  | .pair => if cls || n.getLsbD 0 then .error 6 else .ok (.p n)
  | .b2 => if cls then .ok (.ch n peek) else if n.getLsbD 0 then .error 6 else .ok (.b2 n)
  | .b4 => if cls || n.extractLsb' 0 2 != 0 then .error 6 else .ok (.b4 n)
  | .b8 => if cls then .ok (.ch n peek) else if n.extractLsb' 0 3 != 0 then .error 6 else .ok (.b8 n)
  | .b8r => if cls || n.extractLsb' 0 3 != 0 then .error 6 else .ok (.b8 n)
  | .pred => if cls || decide (12 ≤ n.toNat) then .error 6 else .ok (.k n)
  | .rejoin => if cls || decide (4 ≤ n.toNat) then .error 6 else .ok (.j n)
  | .chan => if cls then .ok (.ch n peek) else .error 6
  | .ord ds ss os hs => decOrd ds ss os hs raw

/-- The first field whose decoding failed for a reason. -/
def firstBad (reason : Nat) : List (Nat × Except Nat Opnd) → Option Illegal
  | [] => none
  | (fld, .error r) :: l => if r = reason then some ⟨reason, fld⟩ else firstBad reason l
  | (_, .ok _) :: l => firstBad reason l

/-- Check 1 of R115 in the order opcode, word count, GUARD, MOD, reserved fields, extension word, operand forms; the first
failure decides REASON and FIELD. `e` is the second word, which counts only when LONG = 1. -/
def decode (w e : W64) : Except Illegal Instr :=
  let opc := (w.extractLsb' 10 10).toNat
  let long := w.getLsbD 9
  let mod := w.extractLsb' 59 5
  let guardRaw := w.extractLsb' 4 4
  let sense := w.getLsbD 8
  let ext : Option W64 := if long then some e else none
  match wordForms opc with
  | none => .error ⟨1, 0⟩
  | some _ =>
    if !longOk opc mod.toNat long then .error ⟨2, 0⟩
    else if (guardRaw.toNat = 15 ∧ sense = true) ∨ (12 ≤ guardRaw.toNat ∧ guardRaw.toNat ≤ 14) then .error ⟨3, 0⟩
    else
      match fields opc mod.toNat long (barBit opc ext) with
      | none => .error ⟨3, 6⟩
      | some sh =>
        let d := decOpnd sh.dst (w.extractLsb' 28 1 ++ 0#1 ++ w.extractLsb' 20 8)
        let a := decOpnd sh.a (w.extractLsb' 29 10)
        let b := decOpnd sh.b (w.extractLsb' 39 10)
        let c := decOpnd sh.c (w.extractLsb' 49 10)
        match firstBad 3 [(1, d), (2, a), (3, b), (4, c)] with
        | some bad => .error bad
        | none =>
          if long && !extOk sh.ext e then .error ⟨4, 5⟩
          else
            match d, a, b, c with
            | .ok d, .ok a, .ok b, .ok c =>
              match mkInstr opc ⟨w.extractLsb' 0 4, if guardRaw.toNat = 15 then none else some (guardRaw, sense), mod,
                  d, a, b, c, ext⟩ with
              | some i => .ok i
              | none => .error ⟨1, 0⟩
            | d, a, b, c => .error ((firstBad 6 [(1, d), (2, a), (3, b), (4, c)]).getD ⟨6, 0⟩)

/-! ## The encoder -/

/-- The 10 bits of an operand (R97, R108): a register's peek bit is written 0. -/
def encOpnd : Opnd → BitVec 10
  | .none => 0
  | .v n => 0#2 ++ n
  | .p n => 0#2 ++ n
  | .b2 n => 0#2 ++ n
  | .b4 n => 0#2 ++ n
  | .b8 n => 0#2 ++ n
  | .k n => 0#2 ++ n
  | .j n => 0#2 ++ n
  | .ch n p => 1#1 ++ BitVec.ofBool p ++ n
  | .ord d s o h => h ++ BitVec.ofNat 2 o.ctorIdx ++ BitVec.ofNat 3 s.ctorIdx ++ BitVec.ofNat 3 d.ctorIdx

/-- The destination field: class and index. -/
def encDst (o : Opnd) : BitVec 9 := (encOpnd o).extractLsb' 9 1 ++ (encOpnd o).extractLsb' 0 8

/-- GSENSE and GUARD. -/
def encGuard : Option (BitVec 4 × Bool) → BitVec 5
  | none => 0#1 ++ 15#4
  | some (k, sense) => BitVec.ofBool sense ++ k

/-- The first word of an instruction with an opcode (R97). -/
def encodeForm (opc : Nat) (f : Form) : W64 :=
  f.mod ++ encOpnd f.c ++ encOpnd f.b ++ encOpnd f.a ++ encDst f.dst ++ BitVec.ofNat 10 opc ++
    BitVec.ofBool f.ext.isSome ++ encGuard f.guard ++ f.stall

/-- The words of an instruction: the first, and the extension word (0 when there is none). Steps of other agents have no
words. -/
def encode (i : Instr) : Option (W64 × W64) :=
  match opcodeOf i with
  | some (opc, f) => some (encodeForm opc f, f.ext.getD 0)
  | none => none

/-- How many words an instruction has in memory. -/
def Form.words (f : Form) : Nat := if f.ext.isSome then 2 else 1

/-- The bytes of an instruction, each word little-endian (R94). -/
def encodeBytes (i : Instr) : List Byte :=
  match opcodeOf i with
  | some (opc, f) =>
    toLe 8 (encodeForm opc f).toNat ++ (match f.ext with | some e => toLe 8 e.toNat | none => [])
  | none => []

/-- The decoder on bytes: 8 or 16 of them, and the rest; missing bytes read 0. -/
def decodeBytes (bs : List Byte) : Except Illegal (Instr × List Byte) :=
  match decode (BitVec.ofNat 64 (leAt bs 0 8)) (BitVec.ofNat 64 (leAt bs 8 8)) with
  | .error x => .error x
  | .ok i =>
    match opcodeOf i with
    | some (_, f) => .ok (i, bs.drop (8 * (if f.ext.isSome then 2 else 1)))
    | none => .ok (i, bs)

end Sys2Proof.Machine

namespace Sys2Proof

/-- The instruction that the decoder reads from an instruction's bits, the first word in bits 63..0 and the extension
word in bits 127..64. -/
def decodeTableWord (nbits w : Nat) : Option Instr :=
  match Machine.decodeBytes (Machine.toLe 16 (w % 2 ^ nbits)) with
  | .ok (i, _) => some i
  | .error _ => none

end Sys2Proof
end

