-- ==== Sys2Proof/Machine/Fetch.lean ====
section
/-! DEFINITION. Instruction fetch (R94-R96) for the wave subset at the head of the issue group, and the trap of an encoding
that check 1 refuses (R116). -/

namespace Sys2Proof.Machine

/-- How a fetch ends. -/
inductive Fetched where
  | words (w e : W64) (s : State)
  /-- A replayable fault (R95). -/
  | miss (ps : List Parked)
  /-- A permission violation at a virtual address (R95, R257). -/
  | perm (va : W64)
  /-- The line is not there yet: the state in which it is asked for. -/
  | wait (s : State)

/-- What a core holds written of a line in its L1, but for private bytes: mask and data (R96, R275). -/
def Core.lineImage (c : Core) (line : Nat) : BitVec 256 × BitVec 2048 :=
  match c.l1.get? line with
  | none => (0, 0)
  | some ln => ln.sec.foldl (fun (acc : BitVec 256 × BitVec 2048) (e : Nat × L1Sector) =>
      (acc.1 ||| BitVec.shiftLeft ((e.2.mask &&& ~~~e.2.privMask).setWidth 256) (64 * e.1),
        acc.2 ||| BitVec.shiftLeft (e.2.data.setWidth 2048) (512 * e.1))) (0, 0)

/-- A word of a line that the core's fetch path holds. Else the line is asked for, once: a read in BLK with the launch's deadline
(R74, R96), after the core's write-backs of the line have been acknowledged; what the core holds written of it is laid over the
answer. -/
def State.codeWord (s : State) (w : Nat) (tm : Team) (ln : Launch) (pa key : Nat) : W64 ⊕ State :=
  let line := pa / 256
  let c := s.core tm.core
  match c.ipath.get? line with
  | some x => .inl (x.extractLsb' (8 * (pa % 256)) 64)
  | none =>
    if c.ifetch.any (fun e => e.2.1 == line) || c.lineOut line then .inr s
    else
      let d := (tm.waves.get? w).elim ln.deadline fun wv => minW ln.deadline wv.inherited
      let r := s.sendReq tm.core (.fetch tm.core) .blk line key (.read 0xF false) ⟨d, ln.prio, ln.queue, ln.part, ln.deadline⟩ false
      .inr (r.1.modCore tm.core fun c => { c with ifetch := c.ifetch ++ [(r.2, line, c.lineImage line)] })

/-- One 64-bit word of code at a virtual address: its value, or why it cannot be had. -/
def State.fetchWord (s : State) (t w : Nat) (tm : Team) (ln : Launch) (va : W64) : Fetched :=
  if apertureOf va.toNat ≠ .global then .perm va
  else
    match s.translate (tm.vctx ln.ctx) tm.core va.toNat with
    | .miss level cause =>
      .miss [⟨t, s.tsc, ln.ctx, BitVec.ofNat 64 (va.toNat / 65536 * 65536), 4, level, cause, coreSource tm.core, ln.ident⟩]
    | .bad => .perm va
    | .held => .wait s
    | .ok leaf pa =>
      if !leafAllows leaf ⟨true, false, true⟩ || s.ownerOf pa != ln.part then .perm va
      else
        let s := s.fillTlb (tm.vctx ln.ctx) tm.core va.toNat
        match s.codeWord w tm ln pa (leafKey leaf) with
        | .inl x => .words x 0 s
        | .inr s => .wait s

/-- Both words of the instruction at a PC: the extension word counts when LONG = 1 (R94). -/
def State.fetch (s : State) (t w : Nat) (tm : Team) (ln : Launch) (pc : W64) : Fetched :=
  match s.fetchWord t w tm ln pc with
  | .words x _ s =>
    if x.getLsbD 9 then
      (match s.fetchWord t w tm ln (pc + 8) with
       | .words e _ s => .words x e s
       | other => other)
    else .words x 0 s
  | other => other

/-- The ILLEGAL trap of an encoding that check 1 refuses: REASON and FIELD of R386, every lane of the subset in LANES. -/
def State.illegal (s : State) (c : Cur) (w e : W64) (x : Illegal) : State :=
  match s.teams.get? c.team with
  | none => s
  | some tm =>
    match tm.waves.get? c.wave, s.launches.get? tm.launch with
    | some wv, some ln =>
      let lanes := c.lanes &&& wv.readyAt c.pc
      let g := (w.extractLsb' 4 4).toNat
      let act := if g < 12 then lanes &&& (if w.getLsbD 8 then ~~~(wv.preds.getD g 0) else wv.preds.getD g 0) else lanes
      let f : Form := ⟨w.extractLsb' 0 4, none, w.extractLsb' 59 5, .none, .none, .none, .none, none⟩
      let i : Iss := ⟨c.team, c.wave, c.pc, lanes, act, (w.extractLsb' 10 10).toNat, f, w,
        if w.getLsbD 9 then e else 0, tm, wv, ln⟩
      if lanes = 0 then s else s.takeTrap i ⟨.illegal, x.field, 1, x.reason, lanes, 0, 0⟩
    | _, _ => s

/-- The subset at the head of the group when its fetch fails: BLOCKED on the fault, or a context fault (R95). -/
def State.fetchFailed (s : State) (c : Cur) (f : Fetched) : State :=
  match s.teams.get? c.team with
  | none => s
  | some tm =>
    match tm.waves.get? c.wave, s.launches.get? tm.launch with
    | some wv, some ln =>
      let lanes := c.lanes &&& wv.readyAt c.pc
      match f with
      | .miss ps =>
        (s.park ln.part ps).modWave c.team c.wave fun wv =>
          wv.blockOn lanes c.pc (.fault (ps.map fun (p : Parked) => (p.vpage, none)))
      | .perm va => (s.raise ln.part .permission (coreSource tm.core) va c.pc ln.ctx ln.ident).modWave c.team c.wave
          fun wv => { wv with never := wv.never ||| lanes }
      | .words _ _ _ => s
      | .wait s => s
    | _, _ => s

end Sys2Proof.Machine
end

