-- ==== Sys2Proof/Machine/Issue.lean ====
section
/-! DEFINITION. The issue builder (R126-R131), sleeping threads (R158), and the active set with its swaps (R132-R135). -/

namespace Sys2Proof.Machine

/-! ## Issuable threads -/

/-- A spindle whose cores run: powered, in its partition, not halted for debug (R79, R90, R410, R432). -/
def State.spindleRuns (s : State) (k : Nat) : Bool :=
  let sp := s.spindle k
  decide ((s.unit k).state ≤ 1) && !sp.fenced && !sp.resetting && decide (sp.part < 24) &&
    !(s.part sp.part).dbghalt.getLsbD k

/-- READY threads that no trap of other threads, halt or breakpoint keeps from issuing (R385, R392, R170). -/
def Wave.live (w : Wave) : Mask :=
  laneMask fun l =>
    w.threads.getD l .exited == .ready && (!w.trapped || w.tmask.getLsbD l) && !w.never.getLsbD l && !w.brkStop.getLsbD l

/-- Threads asleep under SLEEP: until SLEEP_EXPIRY (R158). -/
def Wave.asleep (w : Wave) : Mask := laneMask fun l => w.sleepUntil.getD l 0 != 0

/-- Threads whose last stall count has elapsed in core cycle `cycle` (R128). -/
def Wave.rested (w : Wave) (cycle : Nat) : Mask := laneMask fun l => decide (w.notBefore.getD l 0 ≤ cycle)

/-- The instruction at a PC of a wave as the builder sees it. -/
def State.peek (s : State) (t w : Nat) (pc : W64) (lanes : Mask) : Option (Nat × Iss) :=
  match s.teams.get? t with
  | none => none
  | some tm =>
    match s.launches.get? tm.launch with
    | none => none
    | some ln =>
      match s.fetch t w tm ln pc with
      | .words x e _ =>
        (match decode x e with
         | .ok i =>
           (match opcodeOf i with
            | some (opc, f) => ({ s with cur := some ⟨t, w, pc, lanes, x, e⟩ }.issuing opc f).map fun i => (opc, i)
            | none => none)
         | .error _ => none)
      | _ => none

/-- Whether a line that a PC's instruction needs has been asked for and is not there yet. -/
def State.fetching (s : State) (t w : Nat) (pc : W64) : Bool :=
  match s.teams.get? t with
  | none => false
  | some tm =>
    match s.launches.get? tm.launch with
    | none => false
    | some ln => match s.fetch t w tm ln pc with
      | .wait s' => s'.nextUid == s.nextUid
      | _ => false

/-- How the instruction at a PC stands. -/
inductive Stand where
  /-- Nothing holds it. -/
  | free
  /-- It waits for a class V result (R112, R128), or its code is on its way. -/
  | interlock
  /-- An unmet JWAIT (R160). -/
  | unmet
  /-- A JWAIT that is met, with the time since which it has been: the arrival or exit of the last enrolled lane, or the JENROL
  that cleared the last lane missing (R161). -/
  | met (since : Nat)
  deriving DecidableEq, Repr

def State.standAt (s : State) (t w : Nat) (pc : W64) (lanes : Mask) : Stand :=
  match s.peek t w pc lanes with
  | some (0x009, i) =>
    let j := i.readRejoin s (rejoinIx i.f.a)
    if i.wave.joined pc j then .met ((maskLanes j).foldl (fun b l => Nat.max b (i.wave.waitSince.getD l 0)) (i.wave.rejoinAt.getD (rejoinIx i.f.a) 0))
    else .unmet
  | some (_, i) => if i.held s then .interlock else .free
  | none => if s.fetching t w pc then .interlock else .free

/-- The PCs of a wave's READY threads. -/
def Wave.readyPcs (w : Wave) : List W64 :=
  ((lanes32.filter fun l => w.threads.getD l .exited == .ready).map fun l => w.pcs.getD l 0).eraseDups

/-- A PC of a wave that counts for the selection rule: its lanes, the time since which it waits, whether the whole subset is
issuable, and whether a trap of other threads, a halt or a breakpoint holds it. -/
structure Cand where
  pc : W64
  lanes : Mask
  since : Nat
  ok : Bool
  held : Bool
  deriving DecidableEq, Repr

/-- The PCs among which the builder selects for a wave (R57): those of its READY threads, without threads at an unmet JWAIT and
threads asleep, which count again from the moment they become issuable (R161). A subset is issuable when every thread of it has
rested, none sleeps, no class V result holds it (R128), and no trap of other threads, halt or breakpoint holds one of its threads
(R385, R392, R170). A PC waits since the earliest time at which one of its threads that count last issued or became READY
(DESIGN CHOICE, log entry 67). -/
def State.cands (s : State) (t : Nat) (w : Nat × Wave) : List Cand :=
  let cycle := (s.teams.get? t).elim 0 fun tm => s.cycleOf tm.core
  w.2.readyPcs.filterMap fun pc =>
    let m := w.2.readyAt pc
    let since := (maskLanes (m &&& ~~~w.2.asleep)).foldl (fun b l => Nat.min b (w.2.waitSince.getD l 0)) s.time
    let held := decide (m &&& ~~~w.2.live ≠ 0)
    let rested := decide (m &&& ~~~(w.2.rested cycle) = 0) && decide (m &&& w.2.asleep = 0) && !held
    if m &&& ~~~w.2.asleep = 0 then none
    else match s.standAt t w.1 pc m with
      | .unmet => none
      | .met at_ => some ⟨pc, m, Nat.max since at_, rested, held⟩
      | .interlock => some ⟨pc, m, since, false, held⟩
      | .free => some ⟨pc, m, since, rested, held⟩

/-- The PC that has waited longest among some; of several, the one of the lowest lane (log entry 109). -/
def longest (l : List Cand) : Option Cand :=
  l.foldl (fun acc x => match acc with
    | none => some x
    | some b => if x.since < b.since then some x else some b) none

/-- The PC at which a wave of count 63 issues (R129): its longest-waiting one, among those that no trap of other threads, halt
or breakpoint holds, so that the handler which ends the trap can issue (log entry 67). -/
def mustIssue (l : List Cand) : Option Cand := longest (l.filter fun x => !x.held)

/-- The seed's PC (R129): the most issuable threads, ties to the longest wait, then to the lowest lane (log entry 109); at count
63 the longest-waiting one alone. -/
def seedPc (opp : Nat) (l : List Cand) : Option Cand :=
  if opp = 63 then (mustIssue l).filter (·.ok)
  else (l.filter (·.ok)).foldl (fun acc x => match acc with
    | none => some x
    | some b =>
      let n := (maskLanes x.lanes).length
      let m := (maskLanes b.lanes).length
      if m < n ∨ (m = n ∧ x.since < b.since) then some x else some b) none

/-! ## Units (R126, R256) -/

/-- The execution unit of an opcode: 0 CTL, 1 INT, 2 FP, 3 SFU, 4 MAT, 5 MEM, 6 ENG. -/
def unitOf (opc : Nat) : Nat :=
  if opc < 0x080 ∨ 0x3E0 ≤ opc then 0
  else if opc < 0x180 then 1
  else if opc = 0x1D0 ∨ opc = 0x1D1 then 5
  else if opc < 0x280 then (if classOf opc = .s then 3 else 2)
  else if opc < 0x300 then 4
  else if opc < 0x380 then 5
  else if opc < 0x3C0 then 6
  else 5

/-- Core cycles for which a group of some subsets occupies its unit. -/
def occupancy (opc subsets : Nat) : Nat :=
  if opc = 0x0B2 then 16
  else if classOf opc = .s then 4
  else if classOf opc = .d then 4
  else if opc = 0x280 ∨ opc = 0x281 then subsets
  else 1

/-! ## The builder (R129-R131) -/

/-- An active wave as the builder sees it: team, wave index, the wave, its effective deadline and its candidates. -/
structure Act where
  team : Nat
  wid : Nat
  wave : Wave
  deadline : W64
  cands : List Cand
  deriving DecidableEq, Repr

/-- What the wave issues if it is chosen as seed. -/
def Act.seed (x : Act) : Option Cand := seedPc x.wave.opp x.cands

/-- The wave has an issuable thread. -/
def Act.canIssue (x : Act) : Bool := x.cands.any (·.ok)

/-- The active waves of a core. -/
def State.activeWaves (s : State) (core : Nat) : List Act :=
  (s.core core).slots.filterMap fun e =>
    match s.wave? e.2.1 e.2.2 with
    | some w => if w.active then some ⟨e.2.1, e.2.2, w, s.effective e.2.1 e.2.2, s.cands e.2.1 (e.2.2, w)⟩ else none
    | none => none

/-- Keys of a wave slot and of an issue slot in the table of busy units, beside the units: the wave has joined a group, the slot
has issued one, in this core cycle (R126). -/
def slotKey (slot : Nat) : Nat := 64 + slot
def issueKey (slot : Nat) : Nat := 200 + slot

/-- The waves visited after the seed: whole issuable subsets at its PC in free lanes, of the same grid, in order of deadline
(R130); a wave at count 63 joins at its longest-waiting PC alone (R129). -/
def joinWaves (launchOf : Nat → Nat) (pc : W64) (seed : Nat) : Mask → List Act → List (Nat × Nat × Mask)
  | _, [] => []
  | taken, a :: rest =>
    match a.cands.find? fun x => x.pc == pc && x.ok with
    | some x =>
      let allowed := decide (launchOf a.team = launchOf seed) && (x.lanes &&& taken == 0) &&
        (a.wave.opp != 63 || (match mustIssue a.cands with | some y => y.pc == pc | none => false))
      if allowed then (a.team, a.wid, x.lanes) :: joinWaves launchOf pc seed (taken ||| x.lanes) rest
      else joinWaves launchOf pc seed taken rest
    | none => joinWaves launchOf pc seed taken rest

/-- Opportunity counts and starvation in core cycle `cycle` after a group is chosen (R129). -/
def State.noteGroup (s : State) (core cycle : Nat) (act : List Act) (grp : List (Nat × Nat × Mask)) (pc : W64) : State :=
  act.foldl (fun s x =>
    let joined := grp.any fun g => g.1 == x.team && g.2.1 == x.wid
    let s := s.modWave x.team x.wid fun wv =>
      if joined then
        { wv with
          starvedSince := none
          opp := match longest x.cands with
            | some y => if y.pc = pc then 0 else Nat.min 63 (wv.opp + 1)
            | none => wv.opp }
      else { wv with starvedSince := if x.canIssue then some (wv.starvedSince.getD cycle) else none }
    if joined then
      s.modCore core fun c => { c with unitBusy := c.unitBusy.set (slotKey x.wave.slot) (cycle + 1) }
    else s) s

/-- The seed wave of a slot in core cycle `cycle` (R129): a wave that has had an issuable thread for 16 core cycles without
joining a group, the one that has waited longest first; else the earliest effective deadline; ties to the lower slot. A wave at
count 63 whose longest-waiting PC is not issuable can issue nothing and is passed over (log entry 67). -/
def seedWave (cycle : Nat) (act : List Act) : Option Act :=
  let can := act.filter fun x => x.seed.isSome
  let starved := can.filter fun x => match x.wave.starvedSince with
    | some t => decide (16 ≤ cycle - t)
    | none => false
  (sortBy (fun a b =>
      decide (a.wave.starvedSince.getD 0 < b.wave.starvedSince.getD 0) ||
        (a.wave.starvedSince.getD 0 == b.wave.starvedSince.getD 0 && decide (a.wave.slot ≤ b.wave.slot))) starved).head? <|>
    can.head?

/-- ISSUE_GROUP_BUILD (R129, R130): one issue slot of a core in one core cycle, which issues at most one group (R126). When the
unit of the seed's instruction is still occupied, the slot issues nothing in this cycle (log entry 110). -/
def execIssueGroupBuild (core slot : Nat) (s : State) : Host.Outcome State Fault Refusal :=
  let k := core / 36
  let c := s.core core
  let cycle := s.cycle k
  if !s.group.isEmpty || c.stopped || !s.spindleRuns k || (s.spindle k).fused.getLsbD (core % 36) || decide (2 ≤ slot) ||
      decide (cycle < c.unitBusy.getD (issueKey slot) 0) then .next s
  else
    let order := sortBy (fun (a b : Act) =>
      decide (a.deadline.toNat < b.deadline.toNat) || (a.deadline == b.deadline && decide (a.wave.slot ≤ b.wave.slot)))
      ((s.activeWaves core).filter fun x => decide (c.unitBusy.getD (slotKey x.wave.slot) 0 ≤ cycle))
    match seedWave cycle order with
    | none => .next (s.noteGroup core cycle order [] 0)
    | some a =>
      match a.seed with
      | none => .next s
      | some x =>
        let unit := (s.peek a.team a.wid x.pc x.lanes).map (·.1)
        if cycle < unit.elim 0 fun opc => c.unitBusy.getD (unitOf opc) 0 then .next (s.noteGroup core cycle order [] 0)
        else
          let launchOf (t : Nat) : Nat := (s.teams.get? t).elim 0 Team.launch
          let grp := (a.team, a.wid, x.lanes) ::
            joinWaves launchOf x.pc a.team x.lanes (order.filter fun y => !(y.team == a.team && y.wid == a.wid))
          let s := (s.noteGroup core cycle order grp x.pc).modCore core fun c =>
            { c with unitBusy := (match unit with
                | some opc => c.unitBusy.set (unitOf opc) (cycle + occupancy opc grp.length)
                | none => c.unitBusy).set (issueKey slot) (cycle + 1) }
          .next { s with group := grp.map fun g => ⟨g.1, g.2.1, x.pc, g.2.2, 0, 0⟩ }

/-- Sleeping lanes of the same PC, whose wake times have all come (R158). -/
def Wave.wakeable (w : Wave) (tsc : Nat) : Mask :=
  laneMask fun l => w.sleepUntil.getD l 0 != 0 && lanes32.all fun k =>
    w.pcs.getD k 0 != w.pcs.getD l 0 || w.threads.getD k .exited != .ready || decide (w.sleepUntil.getD k 0 ≤ tsc)

/-- SLEEP_EXPIRY (R158): the threads of a PC whose largest wake time has passed are issuable together, and wait from now on
(R161). -/
def execSleepExpiry (team wave : Nat) (s : State) : Host.Outcome State Fault Refusal :=
  .next (s.modWave team wave fun w =>
    let m := w.wakeable s.tsc.toNat
    { w with
      sleepUntil := mergeLanes m w.sleepUntil 0 fun _ => 0
      waitSince := mergeLanes m w.waitSince 0 fun _ => s.time })

/-! ## The active set (R132-R135) -/

/-- The waves of a core: team, index, wave. -/
def State.coreWaves (s : State) (core : Nat) : List (Nat × Nat × Wave) :=
  (s.core core).slots.filterMap fun e => (s.wave? e.2.1 e.2.2).map fun w => (e.2.1, e.2.2, w)

def Wave.hasReady (w : Wave) : Bool := w.threads.any (· == .ready)

/-- A pending wave becomes eligible with a READY thread, its pass count 0; without one it is not eligible (R132). -/
def State.noteEligible (s : State) (core : Nat) : State :=
  (s.coreWaves core).foldl (fun s x =>
    if x.2.2.active then s
    else s.modWave x.1 x.2.1 fun w =>
      if !w.hasReady then { w with eligibleSince := none }
      else match w.eligibleSince with
        | some _ => w
        | none => { w with eligibleSince := some (s.cycleOf core), passCount := 0 }) s

/-- Whether every READY thread of a wave waits for a class V result, the others being BLOCKED or EXITED (R133). -/
def State.stuck (s : State) (x : Nat × Nat × Wave) : Bool :=
  x.2.2.readyPcs.all fun pc => match s.peek x.1 x.2.1 pc (x.2.2.readyAt pc) with
    | some (_, i) => i.interlocked || i.waitcHeld s
    | none => false

/-- SWAP_TRIGGER (R133). -/
def execSwapTrigger (core : Nat) (s : State) : Host.Outcome State Fault Refusal :=
  let s := s.noteEligible core
  let ws := s.coreWaves core
  let last := ((s.core core).lastSwap).getD 0
  let waited := ws.any fun x => !x.2.2.active && (match x.2.2.eligibleSince with
    | some t => decide (1024 ≤ s.cycleOf core - Nat.max t last)
    | none => false)
  if waited || ws.any (fun x => x.2.2.active && s.stuck x) then .next (s.modCore core fun c => { c with swapWanted := true })
  else .next s

/-- The 64 core cycles since the last swap of a core have passed (R133). -/
def State.swapDue (s : State) (core : Nat) : Bool :=
  match (s.core core).lastSwap with
  | some t => decide (t + 64 ≤ s.cycleOf core)
  | none => true

/-- SWAP (R134, R135). Among waves moved out that have been active equally long, the lower wave slot goes first (log entry
111). -/
def execSwap (core : Nat) (s : State) : Host.Outcome State Fault Refusal :=
  let c := s.core core
  if !c.swapWanted || !s.swapDue core || c.stopped || !s.spindleRuns (core / 36) then .next s
  else
    let cycle := s.cycleOf core
    let s := s.noteEligible core
    let ws := s.coreWaves core
    let dl (x : Nat × Nat × Wave) : Nat := (s.effective x.1 x.2.1).toNat
    let pend := sortBy (fun a b =>
      decide (b.2.2.passCount < a.2.2.passCount) || (a.2.2.passCount == b.2.2.passCount &&
        (decide (dl a < dl b) || (dl a == dl b && decide (a.2.2.slot ≤ b.2.2.slot)))))
      (ws.filter fun x => !x.2.2.active && x.2.2.eligibleSince.isSome)
    let take := pend.take 8
    let act := ws.filter fun x => x.2.2.active
    let idle (x : Nat × Nat × Wave) : Bool := !((s.cands x.1 (x.2.1, x.2.2)).any (·.ok))
    let rank := sortBy (fun a b =>
      (idle a && !idle b) || (idle a == idle b && (decide (a.2.2.activeSince < b.2.2.activeSince) ||
        (a.2.2.activeSince == b.2.2.activeSince && decide (a.2.2.slot ≤ b.2.2.slot))))) act
    let out := rank.take (act.length + take.length - 8)
    let s := out.foldl (fun s x => s.modWave x.1 x.2.1 fun w =>
      { w with active := false, passCount := 0, eligibleSince := if w.hasReady then some cycle else none, cache := [], starvedSince := none }) s
    let s := take.foldl (fun s x => s.modWave x.1 x.2.1 fun w => { w with active := true, activeSince := cycle, eligibleSince := none, passCount := 0 }) s
    let s := (pend.drop 8).foldl (fun s x => s.modWave x.1 x.2.1 fun w => { w with passCount := w.passCount + 1 }) s
    .next (s.modCore core fun c => { c with swaps := c.swaps + 1, lastSwap := some cycle, swapWanted := false })

end Sys2Proof.Machine
end

