-- ==== Sys2Proof/Machine/LaneOps.lean ====
section
/-! DEFINITION. Lane exchange (R189) and special registers (R190, R191). -/

namespace Sys2Proof.Machine

/-- The source lane of LXCH (R189) by mode: 0 `.sel`, 1 `.rotu`, 2 `.rotd`, 3 `.xor`. -/
def lxchSrc (mode l n : Nat) : Nat :=
  match mode with
  | 0 => n % 32
  | 1 => (l + 32 - n % 32) % 32
  | 2 => (l + n) % 32
  | _ => l ^^^ (n % 32)

/-- The exchange: a source lane outside the active lanes yields the lane's own value; with `.p`, C records the success. -/
def exchangeOut (i : Iss) (s : State) (src : Nat → Nat) : Out :=
  let va := vec1 (i.srcA s) 0
  let ok (l : Nat) : Bool := i.act.getLsbD (src l)
  { vecs := [Vec.of fun l => if ok l then va.lane (src l) else va.lane l]
    pred := if i.f.mod.toNat ≥ 4 then some (predIx i.f.c, laneMask ok) else none }

def execLxch (f : Form) (s : State) := issueFixed 0x0C0 f s fun i =>
  let vb := i.srcB s
  .ok (exchangeOut i s fun l => lxchSrc (i.f.mod.toNat % 4) l (lane32 vb l).toNat)

/-- LANEBC: one source lane for the subset, b of the lowest active lane or that lane itself. -/
def execLanebc (f : Form) (s : State) := issueFixed 0x0C1 f s fun i =>
  let vb := i.srcB s
  let m := lowest i.act
  let src := if i.f.mod.toNat % 4 = 1 then m else (lane32 vb m).toNat % 32
  .ok (exchangeOut i s fun _ => src)

/-- Core cycles counted since the spindle's last reset, at the running clock (R190). -/
def State.clock (s : State) (spindle : Nat) : Nat := ((s.spindle spindle).clkTicks - (s.spindle spindle).clkBase) / 6

/-- A special register that is one value for the wave (R190). -/
def rdsValue (i : Iss) (s : State) : Nat → Nat
  | 1 => i.wave.slot
  | 2 => i.wid
  | 3 => i.wave.role.ctorIdx
  | 4 => i.team.tx
  | 5 => i.team.ty
  | 6 => i.team.tz
  | 7 => i.launch.packet.dx
  | 8 => i.launch.packet.dy
  | 9 => i.launch.packet.dz
  | 10 => i.launch.packet.gx
  | 11 => i.launch.packet.gy
  | 12 => i.launch.packet.gz
  | 13 => i.team.coreLog
  | 14 => i.team.core % 36
  | 15 => i.team.dieLog
  | 16 => i.team.core / 36
  | 17 => i.launch.part
  | 18 => i.launch.depth
  | 19 => s.tsc.toNat
  | 20 => s.clock (i.team.core / 36)
  | _ => 0

def rdsOut (i : Iss) (s : State) : Out :=
  let mod := i.f.mod.toNat
  if mod = 0 then { vecs := b32Vecs 32 fun l => (l : Int) }
  else { vecs := b32Vecs (if mod ≥ 19 then 64 else 32) fun _ => (rdsValue i s mod : Int) }

def execRds (f : Form) (s : State) := issueFixed 0x0D0 f s fun i => .ok (rdsOut i s)

end Sys2Proof.Machine
end

