-- ==== Sys2Proof/Machine/Matrix.lean ====
section
/-! DEFINITION. Matrix instructions and the scale store (R236-R256), but for SCLD, which is a load. -/

namespace Sys2Proof.Machine

/-- Element formats of the float types of R241: (A, B). -/
def mmaFmts (t : Nat) : Fmt × Fmt :=
  match t with
  | 0 => (fmtBf16, fmtBf16)
  | 1 => (fmtF16, fmtF16)
  | 2 => (fmtE4m3, fmtE4m3)
  | 3 => (fmtE4m3, fmtE5m2)
  | 4 => (fmtE5m2, fmtE4m3)
  | _ => (fmtE5m2, fmtE5m2)

/-- The tags required of A and B (R241). -/
def mmaTags (t : Nat) : Nat × Nat :=
  match t with
  | 0 => (3, 3)
  | 1 => (2, 2)
  | 2 => (4, 4)
  | 3 => (4, 5)
  | 4 => (5, 4)
  | 5 => (5, 5)
  | 6 => (6, 6)
  | 7 => (7, 7)
  | 8 => (6, 7)
  | _ => (8, 8)

/-- Bits per element. -/
def mmaWidth (t : Nat) : Nat := if t < 2 then 16 else if t < 9 then 8 else 4

/-- Bits of A[m][k] and of B[k][n] (R238); a B lane outside the active lanes reads +0 (R246). -/
def elemA (w : Nat) (a : List Vec) (m k : Nat) : Nat := elem w ((vec1 a (k / (32 / w))).val m) (k % (32 / w))
def elemB (w : Nat) (act : Mask) (b : List Vec) (k n : Nat) : Nat :=
  let l := 8 * (n % 4) + k / (32 / w)
  if act.getLsbD l then elem w ((vec1 b (n / 4)).val l) (k % (32 / w)) else 0

/-- Product of R243, as FP32 bits: a zero A element gives +0 without a flag. -/
def mmaProduct (x y : FVal) : Nat × Flg :=
  match x with
  | .fin _ 0 _ => (0, 0)
  | x => let p := mulVal x y; let r := round32 p.1; (r.1, r.2 ||| p.2)

/-- Round32 of a sum of FP32 bits. -/
def add32 (a b : Nat) : Nat × Flg :=
  let v := addVal 0 (f32 a) (f32 b)
  let r := round32 v.1
  (r.1, r.2 ||| v.2)

/-- One level of the summation tree. -/
def pairUp : List Nat → List Nat × Flg
  | a :: b :: r =>
    let x := add32 a b
    let t := pairUp r
    (x.1 :: t.1, x.2 ||| t.2)
  | l => (l, 0)

/-- `levels` levels of the tree. -/
def sumTree : Nat → List Nat → Nat × Flg
  | 0, p => (p.getD 0 0, 0)
  | n + 1, p => let q := pairUp p; let r := sumTree n q.1; (r.1, q.2 ||| r.2)

/-- Accumulate of R243 on the products of a row and column. -/
def accumulate (cv : Nat) (p : List (Nat × Flg)) : Nat × Flg :=
  let t := sumTree (Nat.log2 p.length) (p.map (·.1))
  let d := add32 cv t.1
  (d.1, p.foldl (fun f x => f ||| x.2) 0 ||| t.2 ||| d.2)

/-- A float element of D (R243). -/
def mmaFloat (t : Nat) (act : Mask) (a b : List Vec) (cv m n : Nat) : Nat × Flg :=
  let w := mmaWidth t
  let (fa, fb) := mmaFmts t
  accumulate cv ((List.range (256 / w)).map fun k =>
    mmaProduct (fa.decode (elemA w a m k)) (fb.decode (elemB w act b k n)))

/-- An integer element of D (R244): MOD types 6 `.s8`, 7 `.n8`, 8 `.sn8`, 9 `.s4`, 10 `.n4`, 11 `.sn4`. -/
def mmaInt (t : Nat) (act : Mask) (a b : List Vec) (cv m n : Nat) : Nat :=
  let w := mmaWidth t
  let val (signed : Bool) (x : Nat) : Int := if signed then sInt w x else (x : Int)
  let sum := (List.range (256 / w)).foldl (fun (acc : Int) k =>
    acc + val (t % 3 != 1) (elemA w a m k) * val (t % 3 == 0) (elemB w act b k n)) (cv : Int)
  (BitVec.ofInt 32 sum).toNat

/-- A byte and an FP32 word of the scale window (R247). -/
def Wave.windowByte (w : Wave) (o : Nat) : Nat := (w.window.extractLsb' (8 * o) 8).toNat
def Wave.windowWord (w : Wave) (o : Nat) : W32 := w.window.extractLsb' (8 * o) 32

/-- An element of D for MMAQ (R248); the steps of the decoding raise their flags too (R197). -/
def mmaQn4 (wv : Wave) (ext : W64) (act : Mask) (a b : List Vec) (cv m n : Nat) : Nat × Flg :=
  let cA := wv.windowByte (bits ext 8 8 + m)
  let cB := wv.windowByte (bits ext 16 8 + n)
  let sA := (wv.windowWord (bits ext 24 8)).toNat
  let sB := (wv.windowWord (bits ext 32 8)).toNat
  accumulate cv ((List.range 64).map fun k =>
    let x := decodeQn4 (elemA 4 a m k) cA sA
    let y := if act.getLsbD (8 * (n % 4) + k / 8) then decodeQn4 (elemB 4 act b k n) cB sB else (0, 0)
    let p := mmaProduct (f32 x.1) (f32 y.1)
    (p.1, x.2 ||| y.2 ||| p.2))

/-- The 8 vectors of D and the flags of each row's lane (R243, R245): a row that is not selected passes C through. -/
def mmaResult (i : Iss) (s : State) (el : Nat → Nat → Nat → Nat × Flg) : List Vec × List (Nat × BitVec 5) :=
  let z := 16 ≤ i.f.mod.toNat
  let vc := i.srcC s
  let rowp := bits (i.f.ext.getD 0) 0 4
  let rows := if rowp = 0 then i.act else i.act &&& i.readPred s (rowp - 1)
  let d := (List.range 8).map fun n => lanes32.map fun m =>
    let cv := if z then 0 else ((vec1 vc n).val m).toNat
    if rows.getLsbD m then el cv m n else (cv, 0)
  (d.map fun v => v.map fun x => ⟨BitVec.ofNat 32 x.1, 12⟩,
   (d.flatMap fun v => (List.zip lanes32 v).map fun x => (x.1, x.2.2)).filter fun x => i.act.getLsbD x.1 && x.2 != 0)

/-- The operation of MMA and MMAQ (R254). -/
def mmaOp (i : Iss) (s : State) (r : List Vec × List (Nat × BitVec 5)) : Op :=
  { i.resultOp s r.1 with kind := .matrix, counted := some 2, flags := r.2 }

/-- Tags of the blocks (R206, R241): every active lane of A, B and C. -/
def mmaCheck (i : Iss) (s : State) (ta tb : Nat) : Option Trap :=
  let va := i.srcA s
  let vb := i.srcB s
  let vc := i.srcC s
  i.checkTag 2 i.act va (List.replicate 8 ta) <|> i.checkTag 3 i.act vb [tb, tb] <|>
    (if 16 ≤ i.f.mod.toNat then none else i.checkTag 4 i.act vc (List.replicate 8 12))

/-- MMA (R243, R244). -/
def execMma (f : Form) (s : State) := issue 0x280 f s fun i =>
  let t := i.f.mod.toNat % 16
  match mmaCheck i s (mmaTags t).1 (mmaTags t).2 with
  | some tr => .trap tr
  | none =>
    let a := i.srcA s
    let b := i.srcB s
    let r := mmaResult i s fun cv m n => if t < 6 then mmaFloat t i.act a b cv m n else (mmaInt t i.act a b cv m n, 0)
    .done ((s.popSources i).beginOp i (mmaOp i s r))

/-- MMAQ (R248). -/
def execMmaq (f : Form) (s : State) := issue 0x281 f s fun i =>
  match mmaCheck i s 9 9 with
  | some tr => .trap tr
  | none =>
    let a := i.srcA s
    let b := i.srcB s
    let r := mmaResult i s fun cv m n => mmaQn4 i.wave (i.f.ext.getD 0) i.act a b cv m n
    .done ((s.popSources i).beginOp i (mmaOp i s r))

/-- MMA_COMPLETE (R254): the oldest matrix operation of the wave writes D, or pushes its entries, and MTX falls. -/
def execMmaComplete (team wave op : Nat) (s : State) : Host.Outcome State Fault Refusal :=
  match s.wave? team wave with
  | none => .next s
  | some wv =>
    match wv.ops.find? fun o => o.kind == .matrix with
    | some o => if o.id = op then .next (s.finishIfRoom team wave o) else .next s
    | none => .next s

/-- SCRD (R251). -/
def execScrd (f : Form) (s : State) := issue 0x289 f s fun i =>
  let h := i.f.mod.toNat
  .done (s.beginOp i (i.resultOp s [Vec.of fun l => ⟨i.wave.windowWord (128 * h + 4 * l), 0⟩]))

/-- FRAGX (R252). -/
def execFragx (f : Form) (s : State) := issueFixed 0x290 f s fun i =>
  let va := i.srcA s
  let vb := i.srcB s
  .ok { vecs := [Vec.of fun l =>
    let b := (lane32 vb l).toNat
    let v := vec1 va (b % 8)
    let src := b / 256 % 32
    if i.act.getLsbD src then v.lane src else v.lane l] }

/-- The tags that ACCCVT requires (R253). -/
def acccvtTags (mod : Nat) : List Nat × Option (List Nat) × Option (List Nat) :=
  match mod with
  | 0 => ([12], none, none)
  | 1 => ([12], none, none)
  | 2 => ([1], none, none)
  | 3 => ([0], none, none)
  | 4 => ([12], some [12], none)
  | 5 => ([12], some [12], none)
  | 6 => ([12], some [12], some [4])
  | 7 => ([12], some [12], some [4])
  | _ => ([12], some [12], some [5])

/-- A lane of ACCCVT: tag, bits, flags. Rounding is to nearest even. -/
def acccvtLane (mod : Nat) (a b c : W32) : Nat × Nat × Flg :=
  match mod with
  | 0 => (1, a.toNat, 0)
  | 1 => (0, a.toNat, 0)
  | 2 => (12, a.toNat, 0)
  | 3 => (12, a.toNat, 0)
  | 4 => (3, cvtHalves fmtBf16 0 false a b)
  | 5 => (2, cvtHalves fmtF16 0 false a b)
  | 6 => (4, cvtBytes fmtE4m3 false true a b c)
  | 7 => (4, cvtBytes fmtE4m3 true true a b c)
  | 8 => (5, cvtBytes fmtE5m2 false true a b c)
  | _ => (5, cvtBytes fmtE5m2 true true a b c)

/-- ACCCVT (R253). -/
def execAcccvt (f : Form) (s : State) := issueFixed 0x291 f s fun i =>
  let va := i.srcA s
  let vb := i.srcB s
  let vc := i.srcC s
  let mod := i.f.mod.toNat
  let (ta, tb, tc) := acccvtTags mod
  i.tagged ([(2, va, ta)] ++ (tb.map fun t => (3, vb, t)).toList ++ (tc.map fun t => (4, vc, t)).toList)
    (fpOut (acccvtLane mod 0 0 0).1 fun l => (acccvtLane mod (lane32 va l) (lane32 vb l) (lane32 vc l)).2)

end Sys2Proof.Machine
end

