-- ==== Sys2Proof/Machine/Dispatch.lean ====
section
/-! DEFINITION. The meaning of each instruction: one arm for each row of the opcode table. -/

namespace Sys2Proof.Machine

def exec (i : Instr) (s : State) : Host.Outcome State Fault Refusal :=
  match i with
  | .nop f => Sys2Proof.Machine.execNop f s
  | .bra f => Sys2Proof.Machine.execBra f s
  | .brx f => Sys2Proof.Machine.execBrx f s
  | .call f => Sys2Proof.Machine.execCall f s
  | .callx f => Sys2Proof.Machine.execCallx f s
  | .ret f => Sys2Proof.Machine.execRet f s
  | .exit f => Sys2Proof.Machine.execExit f s
  | .jenrol f => Sys2Proof.Machine.execJenrol f s
  | .jwait f => Sys2Proof.Machine.execJwait f s
  | .yield f => Sys2Proof.Machine.execYield f s
  | .sleep f => Sys2Proof.Machine.execSleep f s
  | .pcmp f => Sys2Proof.Machine.execPcmp f s
  | .plog f => Sys2Proof.Machine.execPlog f s
  | .pmov f => Sys2Proof.Machine.execPmov f s
  | .pvote f => Sys2Proof.Machine.execPvote f s
  | .ballot f => Sys2Proof.Machine.execBallot f s
  | .glaunch f => Sys2Proof.Machine.execGlaunch f s
  | .gjoin f => Sys2Proof.Machine.execGjoin f s
  | .trap f => Sys2Proof.Machine.execTrap f s
  | .brk f => Sys2Proof.Machine.execBrk f s
  | .iadd f => Sys2Proof.Machine.execIadd f s
  | .isub f => Sys2Proof.Machine.execIsub f s
  | .iaddc f => Sys2Proof.Machine.execIaddc f s
  | .imul f => Sys2Proof.Machine.execImul f s
  | .imulh f => Sys2Proof.Machine.execImulh f s
  | .imad f => Sys2Proof.Machine.execImad f s
  | .imin f => Sys2Proof.Machine.execImin f s
  | .imax f => Sys2Proof.Machine.execImax f s
  | .iabs f => Sys2Proof.Machine.execIabs f s
  | .blut f => Sys2Proof.Machine.execBlut f s
  | .shl f => Sys2Proof.Machine.execShl f s
  | .shr f => Sys2Proof.Machine.execShr f s
  | .shra f => Sys2Proof.Machine.execShra f s
  | .rot f => Sys2Proof.Machine.execRot f s
  | .shd f => Sys2Proof.Machine.execShd f s
  | .popc f => Sys2Proof.Machine.execPopc f s
  | .clz f => Sys2Proof.Machine.execClz f s
  | .brev f => Sys2Proof.Machine.execBrev f s
  | .bfe f => Sys2Proof.Machine.execBfe f s
  | .bfi f => Sys2Proof.Machine.execBfi f s
  | .isel f => Sys2Proof.Machine.execIsel f s
  | .icmp f => Sys2Proof.Machine.execIcmp f s
  | .mov f => Sys2Proof.Machine.execMov f s
  | .movi f => Sys2Proof.Machine.execMovi f s
  | .lea f => Sys2Proof.Machine.execLea f s
  | .bshuf f => Sys2Proof.Machine.execBshuf f s
  | .dot4 f => Sys2Proof.Machine.execDot4 f s
  | .sad f => Sys2Proof.Machine.execSad f s
  | .idiv f => Sys2Proof.Machine.execIdiv f s
  | .lxch f => Sys2Proof.Machine.execLxch f s
  | .lanebc f => Sys2Proof.Machine.execLanebc f s
  | .rds f => Sys2Proof.Machine.execRds f s
  | .iota f => Sys2Proof.Machine.execIota f s
  | .fadd f => Sys2Proof.Machine.execFadd f s
  | .fsub f => Sys2Proof.Machine.execFsub f s
  | .fmul f => Sys2Proof.Machine.execFmul f s
  | .ffma f => Sys2Proof.Machine.execFfma f s
  | .fmin f => Sys2Proof.Machine.execFmin f s
  | .fmax f => Sys2Proof.Machine.execFmax f s
  | .fcmp f => Sys2Proof.Machine.execFcmp f s
  | .fclass f => Sys2Proof.Machine.execFclass f s
  | .frcp f => Sys2Proof.Machine.execFrcp f s
  | .frsq f => Sys2Proof.Machine.execFrsq f s
  | .fsqrt f => Sys2Proof.Machine.execFsqrt f s
  | .fexp2 f => Sys2Proof.Machine.execFexp2 f s
  | .flog2 f => Sys2Proof.Machine.execFlog2 f s
  | .fsin f => Sys2Proof.Machine.execFsin f s
  | .fcos f => Sys2Proof.Machine.execFcos f s
  | .ftanh f => Sys2Proof.Machine.execFtanh f s
  | .pkadd f => Sys2Proof.Machine.execPkadd f s
  | .pkmul f => Sys2Proof.Machine.execPkmul f s
  | .pkfma f => Sys2Proof.Machine.execPkfma f s
  | .bfma2 f => Sys2Proof.Machine.execBfma2 f s
  | .dadd f => Sys2Proof.Machine.execDadd f s
  | .dmul f => Sys2Proof.Machine.execDmul f s
  | .dfma f => Sys2Proof.Machine.execDfma f s
  | .cvt f => Sys2Proof.Machine.execCvt f s
  | .qcvt f => Sys2Proof.Machine.execQcvt f s
  | .dqcvt f => Sys2Proof.Machine.execDqcvt f s
  | .amaxr f => Sys2Proof.Machine.execAmaxr f s
  | .qscale f => Sys2Proof.Machine.execQscale f s
  | .fsetmode f => Sys2Proof.Machine.execFsetmode f s
  | .fflags f => Sys2Proof.Machine.execFflags f s
  | .mma f => Sys2Proof.Machine.execMma f s
  | .mmaq f => Sys2Proof.Machine.execMmaq f s
  | .scld f => Sys2Proof.Machine.execScld f s
  | .scrd f => Sys2Proof.Machine.execScrd f s
  | .fragx f => Sys2Proof.Machine.execFragx f s
  | .acccvt f => Sys2Proof.Machine.execAcccvt f s
  | .ld f => Sys2Proof.Machine.execLd f s
  | .ldk f => Sys2Proof.Machine.execLdk f s
  | .st f => Sys2Proof.Machine.execSt f s
  | .atom f => Sys2Proof.Machine.execAtom f s
  | .red f => Sys2Proof.Machine.execRed f s
  | .fence f => Sys2Proof.Machine.execFence f s
  | .bridge f => Sys2Proof.Machine.execBridge f s
  | .cctlIvi f => Sys2Proof.Machine.execCctlIvi f s
  | .cctlWb f => Sys2Proof.Machine.execCctlWb f s
  | .cctlInv f => Sys2Proof.Machine.execCctlInv f s
  | .cctlPf f => Sys2Proof.Machine.execCctlPf f s
  | .cctlPfs f => Sys2Proof.Machine.execCctlPfs f s
  | .smapMap f => Sys2Proof.Machine.execSmapMap f s
  | .smapUnmap f => Sys2Proof.Machine.execSmapUnmap f s
  | .swb f => Sys2Proof.Machine.execSwb f s
  | .sdrop f => Sys2Proof.Machine.execSdrop f s
  | .tcopy f => Sys2Proof.Machine.execTcopy f s
  | .tdesc f => Sys2Proof.Machine.execTdesc f s
  | .gather f => Sys2Proof.Machine.execGather f s
  | .scatter f => Sys2Proof.Machine.execScatter f s
  | .rcopy f => Sys2Proof.Machine.execRcopy f s
  | .coll f => Sys2Proof.Machine.execColl f s
  | .waitc f => Sys2Proof.Machine.execWaitc f s
  | .push f => Sys2Proof.Machine.execPush f s
  | .pop f => Sys2Proof.Machine.execPop f s
  | .ringinit f => Sys2Proof.Machine.execRinginit f s
  | .binit f => Sys2Proof.Machine.execBinit f s
  | .barrive f => Sys2Proof.Machine.execBarrive f s
  | .barriveb f => Sys2Proof.Machine.execBarriveb f s
  | .bwait f => Sys2Proof.Machine.execBwait f s
  | .btest f => Sys2Proof.Machine.execBtest f s
  | .binval f => Sys2Proof.Machine.execBinval f s
  | .rett f => Sys2Proof.Machine.execRett f s
  | .rdside f => Sys2Proof.Machine.execRdside f s
  | .wrctx f => Sys2Proof.Machine.execWrctx f s
  | .dgread f => Sys2Proof.Machine.execDgread f s
  | .haltself f => Sys2Proof.Machine.execHaltself f s
  | .issueGroupBuild core slot => Sys2Proof.Machine.execIssueGroupBuild core slot s
  | .subsetRetirement team wave op => Sys2Proof.Machine.execSubsetRetirement team wave op s
  | .sleepExpiry team wave => Sys2Proof.Machine.execSleepExpiry team wave s
  | .swapTrigger core => Sys2Proof.Machine.execSwapTrigger core s
  | .swap core => Sys2Proof.Machine.execSwap core s
  | .loadDataArrival team wave op => Sys2Proof.Machine.execLoadDataArrival team wave op s
  | .remoteReplyArrival team wave op => Sys2Proof.Machine.execRemoteReplyArrival team wave op s
  | .storeAck team wave op => Sys2Proof.Machine.execStoreAck team wave op s
  | .storeQueueRelease core dom => Sys2Proof.Machine.execStoreQueueRelease core dom s
  | .atomicReply team wave op => Sys2Proof.Machine.execAtomicReply team wave op s
  | .ringAck team wave op => Sys2Proof.Machine.execRingAck team wave op s
  | .barrierReply team wave op => Sys2Proof.Machine.execBarrierReply team wave op s
  | .mmaComplete team wave op => Sys2Proof.Machine.execMmaComplete team wave op s
  | .fenceComplete team wave op => Sys2Proof.Machine.execFenceComplete team wave op s
  | .slicePerform slice => Sys2Proof.Machine.execSlicePerform slice s
  | .invalidationArrival core => Sys2Proof.Machine.execInvalidationArrival core s
  | .writePropagated slice wid => Sys2Proof.Machine.execWritePropagated slice wid s
  | .extSnoop link => Sys2Proof.Machine.execExtSnoop link s
  | .snoopFilterEvict link line => Sys2Proof.Machine.execSnoopFilterEvict link line s
  | .l1Eviction core line sector => Sys2Proof.Machine.execL1Eviction core line sector s
  | .stashRecall team line write => Sys2Proof.Machine.execStashRecall team line write s
  | .engineAccess core cmd => Sys2Proof.Machine.execEngineAccess core cmd s
  | .tdescComplete core cmd => Sys2Proof.Machine.execTdescComplete core cmd s
  | .copyComplete core cmd => Sys2Proof.Machine.execCopyComplete core cmd s
  | .ringReserve core cmd => Sys2Proof.Machine.execRingReserve core cmd s
  | .ringFill core cmd => Sys2Proof.Machine.execRingFill core cmd s
  | .wakeArrival core => Sys2Proof.Machine.execWakeArrival core s
  | .registrationRetry team wave => Sys2Proof.Machine.execRegistrationRetry team wave s
  | .deadlineBoost slice => Sys2Proof.Machine.execDeadlineBoost slice s
  | .neighbourEntryArrival core dir => Sys2Proof.Machine.execNeighbourEntryArrival core dir s
  | .queuePost queue => Sys2Proof.Machine.execQueuePost queue s
  | .frameSend port => Sys2Proof.Machine.execFrameSend port s
  | .frameReceive port frame => Sys2Proof.Machine.execFrameReceive port frame s
  | .controlBlockReread queue => Sys2Proof.Machine.execControlBlockReread queue s
  | .qcmdEnable queue => Sys2Proof.Machine.execQcmdEnable queue s
  | .qcmdDisable queue => Sys2Proof.Machine.execQcmdDisable queue s
  | .packetConsume queue => Sys2Proof.Machine.execPacketConsume queue s
  | .dependenceSatisfied launch => Sys2Proof.Machine.execDependenceSatisfied launch s
  | .teamPlace launch => Sys2Proof.Machine.execTeamPlace launch s
  | .coResidentAdmit launch => Sys2Proof.Machine.execCoResidentAdmit launch s
  | .childLaunch launch => Sys2Proof.Machine.execChildLaunch launch s
  | .teamRetire team => Sys2Proof.Machine.execTeamRetire team s
  | .gridRetire launch => Sys2Proof.Machine.execGridRetire launch s
  | .serialisedExecution launch => Sys2Proof.Machine.execSerialisedExecution launch s
  | .preemptSave team => Sys2Proof.Machine.execPreemptSave team s
  | .wakeEvaluate team => Sys2Proof.Machine.execWakeEvaluate team s
  | .teamRestore team core => Sys2Proof.Machine.execTeamRestore team core s
  | .faultPark p => Sys2Proof.Machine.execFaultPark p s
  | .fqtake p seq => Sys2Proof.Machine.execFqtake p seq s
  | .fqresolve p seq => Sys2Proof.Machine.execFqresolve p seq s
  | .fqresolveFail p seq => Sys2Proof.Machine.execFqresolveFail p seq s
  | .watchdog p seq => Sys2Proof.Machine.execWatchdog p seq s
  | .halt p => Sys2Proof.Machine.execHalt p s
  | .uncorrectable p source addr => Sys2Proof.Machine.execUncorrectable p source addr s
  | .dieFailure socket => Sys2Proof.Machine.execDieFailure socket s
  | .crossDieTimeout core target => Sys2Proof.Machine.execCrossDieTimeout core target s
  | .crossLinkTimeout p link => Sys2Proof.Machine.execCrossLinkTimeout p link s
  | .slotSend slice => Sys2Proof.Machine.execSlotSend slice s
  | .slotReceive slice good => Sys2Proof.Machine.execSlotReceive slice good s
  | .slotResend slice station => Sys2Proof.Machine.execSlotResend slice station s
  | .routerForward router out => Sys2Proof.Machine.execRouterForward router out s
  | .sliceAdmission slice => Sys2Proof.Machine.execSliceAdmission slice s
  | .socketAdmission socket => Sys2Proof.Machine.execSocketAdmission socket s
  | .flitSend link => Sys2Proof.Machine.execFlitSend link s
  | .flitReceive link flit => Sys2Proof.Machine.execFlitReceive link flit s
  | .nakRepeat link => Sys2Proof.Machine.execNakRepeat link s
  | .ackTimeout link => Sys2Proof.Machine.execAckTimeout link s
  | .controlFlitSend link => Sys2Proof.Machine.execControlFlitSend link s
  | .controlFlitReceive link flit => Sys2Proof.Machine.execControlFlitReceive link flit s
  | .lossOfLight link lost laser => Sys2Proof.Machine.execLossOfLight link lost laser s
  | .restripe link rx tx => Sys2Proof.Machine.execRestripe link rx tx s
  | .linkEventRecord link => Sys2Proof.Machine.execLinkEventRecord link s
  | .linkLost link => Sys2Proof.Machine.execLinkLost link s
  | .retrainEnd link rx tx => Sys2Proof.Machine.execRetrainEnd link rx tx s
  | .protectionEnter unit overcurrent => Sys2Proof.Machine.execProtectionEnter unit overcurrent s
  | .protectionRelease unit => Sys2Proof.Machine.execProtectionRelease unit s
  | .resetComplete socket => Sys2Proof.Machine.execResetComplete socket s
  | .rdmaWrite qp pa data => Sys2Proof.Machine.execRdmaWrite qp pa data s
  | .rdmaRead qp pa len => Sys2Proof.Machine.execRdmaRead qp pa len s
  | .remoteOperationError qp => Sys2Proof.Machine.execRemoteOperationError qp s
  | .registerWrite off val => Sys2Proof.Machine.execRegisterWrite off val s
  | .errClear => Sys2Proof.Machine.execErrClear s
  | .freeze on => Sys2Proof.Machine.execFreeze on s
  | .counterClear core => Sys2Proof.Machine.execCounterClear core s
  | .ctxdescCreate ctx val => Sys2Proof.Machine.execCtxdescCreate ctx val s
  | .reload ctx => Sys2Proof.Machine.execReload ctx s
  | .kill ctx => Sys2Proof.Machine.execKill ctx s
  | .preq ctx on => Sys2Proof.Machine.execPreq ctx on s
  | .dbgbrk ctx on => Sys2Proof.Machine.execDbgbrk ctx on s
  | .scbchk ctx on => Sys2Proof.Machine.execScbchk ctx on s
  | .qcbWrite queue val => Sys2Proof.Machine.execQcbWrite queue val s
  | .qctxWrite queue val => Sys2Proof.Machine.execQctxWrite queue val s
  | .queueOwnerWrite queue val => Sys2Proof.Machine.execQueueOwnerWrite queue val s
  | .granuleOwnerWrite granule val => Sys2Proof.Machine.execGranuleOwnerWrite granule val s
  | .pcmdCreate p => Sys2Proof.Machine.execPcmdCreate p s
  | .pcmdClear p => Sys2Proof.Machine.execPcmdClear p s
  | .digsvcReexecute p ident => Sys2Proof.Machine.execDigsvcReexecute p ident s
  | .digsvcFault p ident => Sys2Proof.Machine.execDigsvcFault p ident s
  | .qgrant p queue => Sys2Proof.Machine.execQgrant p queue s
  | .dbghalt p sockets => Sys2Proof.Machine.execDbghalt p sockets s
  | .debugSave p => Sys2Proof.Machine.execDebugSave p s
  | .debugResume p => Sys2Proof.Machine.execDebugResume p s
  | .linksvcWait p link => Sys2Proof.Machine.execLinksvcWait p link s
  | .linksvcLinklost p link => Sys2Proof.Machine.execLinksvcLinklost p link s
  | .keycmdLoad index => Sys2Proof.Machine.execKeycmdLoad index s
  | .keycmdUnload index => Sys2Proof.Machine.execKeycmdUnload index s
  | .powerCommand unit target => Sys2Proof.Machine.execPowerCommand unit target s
  | .spopReset unit => Sys2Proof.Machine.execSpopReset unit s
  | .spopFence unit => Sys2Proof.Machine.execSpopFence unit s
  | .spopReturn unit => Sys2Proof.Machine.execSpopReturn unit s
  | .restore link waves rx tx => Sys2Proof.Machine.execRestore link waves rx tx s
  | .boot verified => Sys2Proof.Machine.execBoot verified s
  | .getVersion request => Sys2Proof.Machine.execGetVersion request s
  | .getCapabilities request => Sys2Proof.Machine.execGetCapabilities request s
  | .negotiateAlgorithms request => Sys2Proof.Machine.execNegotiateAlgorithms request s
  | .getDigests request => Sys2Proof.Machine.execGetDigests request s
  | .getCertificate request => Sys2Proof.Machine.execGetCertificate request s
  | .challenge request => Sys2Proof.Machine.execChallenge request s
  | .getMeasurements request => Sys2Proof.Machine.execGetMeasurements request s
  | .translationInvalidation ctx lo hi => Sys2Proof.Machine.execTranslationInvalidation ctx lo hi s

end Sys2Proof.Machine
end

