-- ==== Sys2Proof/Machine/Sched.lean ====
section
/-! DEFINITION. The scheduler that stands in when the agenda is empty (log entry 11): which agent acts next. The agents of the
package act at the same time and the manual fixes no order among them; an agent with nothing to do is not asked. -/

namespace Sys2Proof.Machine

/-- What the machine does on its own: an event; or one of the table's last two, which stand apart because compiled Lean can build no
constructor with fields beyond the 244th of a type; or a queue pair's next operation. -/
inductive Turn where
  | event (i : Instr)
  | measure (request : List Byte)
  | invalidate (ctx lo hi : Nat)
  /-- A queue pair of a host port, or a manager core, goes on with what it holds (R66, R278). -/
  | host (qp : Nat)
  deriving DecidableEq, Repr

/-- What may come next for an operation of a wave. -/
def Op.events (t w : Nat) (o : Op) : List Instr :=
  match o.kind with
  | .load _ => [if o.isRemote then .remoteReplyArrival t w o.id else .loadDataArrival t w o.id]
  | .scld _ => [if o.isRemote then .remoteReplyArrival t w o.id else .loadDataArrival t w o.id]
  | .store => [.storeAck t w o.id]
  | .red => [.storeAck t w o.id]
  | .writeback => [.storeAck t w o.id]
  | .atom _ => [if o.isRemote then .remoteReplyArrival t w o.id else .atomicReply t w o.id]
  | .ring _ => [if o.isRemote then .remoteReplyArrival t w o.id else .ringAck t w o.id]
  | .barrier _ => [.barrierReply t w o.id]
  | .matrix => [.mmaComplete t w o.id]
  | .fence _ _ _ _ => [.fenceComplete t w o.id]
  | .ivi => [.fenceComplete t w o.id]
  | .result => [.subsetRetirement t w o.id]
  | .copy _ _ => []
  | .glaunch => [.remoteReplyArrival t w o.id]

/-- What may come next for a wave. -/
def Wave.events (t w : Nat) (wv : Wave) : List Instr :=
  wv.ops.flatMap (Op.events t w) ++
    (if wv.sleepUntil.any (· != 0) then [.sleepExpiry t w] else []) ++
    (if wv.waits.any (fun x => !x.registered && match x.wake with | .bwait false _ _ => true | _ => false) then [.registrationRetry t w] else [])

/-- What may come next for a team. -/
def State.teamEvents (s : State) (t : Nat) (tm : Team) : List Instr :=
  match tm.place with
  | .saved _ => if tm.readmitSince.isSome then ((s.launches.get? tm.launch).elim [] Launch.cores).map (Instr.teamRestore t) else [.wakeEvaluate t]
  | _ => tm.waves.flatMap (fun w => w.2.events t w.1) ++
      (if tm.waves.all fun w => w.2.threads.all (· == .exited) then [.teamRetire t]
       else if tm.waves.all fun w => w.2.threads.all (· != .ready) then [.preemptSave t] else [])

/-- What may come next for a launch. -/
def Launch.events (k : Nat) (l : Launch) : List Instr :=
  match l.st with
  | .handed => [.childLaunch k]
  | .waiting => [.dependenceSatisfied k]
  | .coWaiting => [.coResidentAdmit k]
  | .placing => [if l.serial then .serialisedExecution k else .teamPlace k]
  | .placed => (if l.ready.isEmpty then [] else [.teamPlace k]) ++ [.gridRetire k]
  | .ending => [.gridRetire k]
  | _ => []

/-- What may come next for a core. -/
def Core.events (k : Nat) (c : Core) : List Instr :=
  (if c.slots.isEmpty then [] else [.issueGroupBuild k 0, .issueGroupBuild k 1, .swapTrigger k]) ++
  (if c.swapWanted then [.swap k] else []) ++
  ((List.zip allDoms (List.range 5)).flatMap fun d => if (c.sq.getD d.2 []).isEmpty then [] else [.storeQueueRelease k d.1]) ++
  (c.cmds.flatMap fun x => [.engineAccess k x.id, .ringReserve k x.id, .ringFill k x.id,
    match x.kind with | .tdesc _ => .tdescComplete k x.id | _ => .copyComplete k x.id]) ++
  ((List.range 4).flatMap fun d => if (c.links.getD d []).isEmpty then [] else [.neighbourEntryArrival k d]) ++
  (if c.inbox.any Msg.isInval then [.invalidationArrival k] else []) ++
  (if c.inbox.any fun m => match m with | .wake _ _ _ => true | _ => false then [.wakeArrival k] else [])

/-- What may come next for a slice. -/
def Slice.events (k : Nat) (sl : Slice) : List Instr :=
  (if sl.inq.isEmpty then [] else [.sliceAdmission k]) ++
  (if sl.admitted.isEmpty && sl.inbox.isEmpty then [] else [.slicePerform k]) ++
  (sl.pend.map fun p => .writePropagated k p.id) ++
  (if sl.boosts.isEmpty then [] else [.deadlineBoost k])

/-- What may come next for a link. -/
def Link.events (k : Nat) (l : Link) : List Instr :=
  (if l.sendQ.isEmpty && l.inbox.isEmpty && l.resendAt == 0 && !l.snoops.any (·.waits.isEmpty) then [] else [.flitSend k]) ++
  (if l.inbox.isEmpty then [] else [.extSnoop k]) ++
  (l.inbox.filterMap fun m => match m with
    | .readReply r _ _ => (if l.filterRoom r.line then none else l.snoop.find? fun x => x % 4096 == r.line % 4096).map (Instr.snoopFilterEvict k)
    | _ => none) ++
  (if l.inService then [.controlFlitSend k] else []) ++
  (if l.replay.isEmpty then [] else [.ackTimeout k, .linkLost k]) ++
  (if l.rxAgain then [.nakRepeat k] else []) ++
  (if l.rxMask &&& l.lit != l.rxMask || l.txMask &&& l.peerLit != l.txMask then
    [.restripe k (l.rxMask &&& l.lit) (l.txMask &&& l.peerLit), .linkLost k] else []) ++
  (if l.records.isEmpty then [] else [.linkEventRecord k]) ++
  ((l.outstanding.map LinkWait.part).eraseDups.map fun p => .crossLinkTimeout p k)

/-- What may come next for a queue. -/
def Queue.events (k : Nat) (q : Queue) : List Instr :=
  (if q.posts.isEmpty then [] else [.queuePost k]) ++
  (if q.cbpa = 0 then [] else [.controlBlockReread k]) ++
  (if q.qcmd = 1 then [.qcmdEnable k] else if q.qcmd = 2 then [.qcmdDisable k] else []) ++
  (if q.qstate = 1 ∧ q.head.toNat < q.tail.toNat then [.packetConsume k] else [])

/-- What may come next for a partition. -/
def Part.events (k : Nat) (p : Part) : List Instr :=
  (if p.causes.isEmpty then [] else [.halt k]) ++ (if p.fqWait.isEmpty then [] else [.faultPark k]) ++ (p.fq.map fun e => .watchdog k e.seq) ++
  (if p.clearing then [.pcmdClear k] else [])

/-- The responder takes the request that the mailbox holds (R438). -/
def Spdm.turns (x : Spdm) : List Turn :=
  if !x.asked then []
  else match leAt x.box 1 1 with
    | 0x84 => [.event (.getVersion x.box)]
    | 0xE1 => [.event (.getCapabilities x.box)]
    | 0xE3 => [.event (.negotiateAlgorithms x.box)]
    | 0x81 => [.event (.getDigests x.box)]
    | 0x82 => [.event (.getCertificate x.box)]
    | 0x83 => [.event (.challenge x.box)]
    | 0xE0 => [.measure x.box]
    | _ => []

/-- The spindles that the entries of a core's links are bound for. -/
def Core.linkTargets (c : Core) : List Nat := (c.links.flatMap fun l => l.2.map fun e => e.target / 36).eraseDups

/-- The spindles from which slices and link ports await answers to invalidations. -/
def State.awaitedDies (s : State) : List Nat :=
  let acks : List Nat := s.slices.flatMap fun e => e.2.pend.flatMap fun p => p.cores.map (· / 36)
  let snoops : List Nat := s.links.flatMap fun l => l.2.snoops.flatMap fun x => x.waits.map fun w => w.2 / 36
  (acks ++ snoops).eraseDups

/-- Every event that some agent has something to do for. -/
def State.events (s : State) : List Instr :=
  s.parts.flatMap (fun e => e.2.events e.1) ++ s.queues.flatMap (fun e => e.2.events e.1) ++ s.launches.flatMap (fun e => e.2.events e.1) ++
  s.teams.flatMap (fun e => s.teamEvents e.1 e.2) ++ s.cores.flatMap (fun e => e.2.events e.1) ++
  ((s.stations.flatMap fun e => (e.2.queue.map (·.1)) ++ e.2.resend.map (·.1)).eraseDups.map Instr.slotSend) ++
  (s.channels.flatMap fun e => if e.2.flight.isEmpty then [] else [.slotReceive e.1 true]) ++
  (s.stations.flatMap fun e => e.2.asks.map fun a => .slotResend a.1 e.1) ++
  (s.cores.flatMap fun e => e.2.linkTargets.map fun d => .crossDieTimeout e.1 d) ++
  (s.awaitedDies.map fun d => .crossDieTimeout (36 * d) d) ++
  (s.slices.flatMap fun e => e.2.admitted.flatMap fun r => (s.recalls r).map fun t => .stashRecall t r.line r.kind.writes) ++
  s.slices.flatMap (fun e => e.2.events e.1) ++
  (s.socks.flatMap fun e => if e.2.inq.isEmpty then [] else [.socketAdmission e.1]) ++
  (s.routers.flatMap fun e => (e.2.out.filter fun o => !o.2.isEmpty).map fun o => .routerForward e.1 o.1) ++
  s.links.flatMap (fun e => e.2.events e.1) ++
  (s.ports.flatMap fun e => if e.2.sendQ.isEmpty then [] else [.frameSend e.1]) ++
  (s.spindles.flatMap fun e => if e.2.resetting then [.resetComplete e.1] else [])

/-- The step that the machine takes on its own: boot first, then the agents in rotation. -/
def State.pick (s : State) : Turn :=
  if s.bootstat = 0 then .event (.boot true)
  else
    let l := s.events.map Turn.event ++ s.spdm.turns ++ (s.transInvals.map fun v => .invalidate v.ctx v.lo v.hi) ++
      s.hostQps.map fun q => .host q.1
    (l[s.time / 2 % l.length]?).getD (.event (.issueGroupBuild 0 0))

end Sys2Proof.Machine
end

