-- ==== Sys2Proof/Machine/Run.lean ====
section
/-! DEFINITION. What a step runs: a subset of the issue group, or an event; and the launch that `State.withFetchWord` places. -/

namespace Sys2Proof.Machine

/-- A subset of the issue group fetches, decodes and executes its instruction (R94, R116). While its code is on its way it does
not issue. -/
def runSubset (c : Cur) (s : State) : Host.Outcome State Fault Refusal :=
  match s.teams.get? c.team with
  | none => .next s
  | some tm =>
    match s.launches.get? tm.launch with
    | none => .next s
    | some ln =>
      match s.fetch c.team c.wave tm ln c.pc with
      | .words w e s' =>
        match decode w e with
        | .ok i => exec i { s' with cur := some { c with enc0 := w, enc1 := if w.getLsbD 9 then e else 0 } }
        | .error x => .next (s'.illegal c w e x)
      | .miss ps => .next (s.fetchFailed c (.miss ps))
      | .perm va => .next (s.fetchFailed c (.perm va))
      | .wait s' => .next s'

/-- An event happens after its delay; an instruction of the opcode map is no event and is dropped (log entry 11). -/
def runEvent (dt : Nat) (ev : Instr) (s : State) : Host.Outcome State Fault Refusal :=
  match opcodeOf ev with
  | some _ => .next (s.advance dt)
  | none => exec ev (s.advance dt)

/-- What the machine does on its own happens, two ticks later (log entry 11). -/
def runTurn (t : Turn) (s : State) : Host.Outcome State Fault Refusal :=
  match t with
  | .event i => runEvent 2 i s
  | .measure request => execGetMeasurements request (s.advance 2)
  | .invalidate ctx lo hi => execTranslationInvalidation ctx lo hi (s.advance 2)
  | .host qp => .next ((s.advance 2).hostRun qp ((s.hostQp qp).ops.length))

/-- A launch that has placed team 1 of one GEN wave on core 0, at PC 0x10000 (log entry 23). -/
def probeLaunch : Launch where
  ident := 0
  root := 1
  parent := none
  ctx := 0
  part := 0
  queue := 0
  packetNo := 0
  packet := ⟨1, 0, 0, 0, 1, 1, 1, 32, 1, 1, 0, 0, 0, 0, 0, 0, 0, 0⟩
  header := ⟨0, 1, 256, 1, 0, 0, 0, 0, 0, [], []⟩
  affinity := []
  depth := 0
  deadline := BitVec.allOnes 64
  prio := 0
  st := .placed
  fail := 0
  detail := 0
  startTsc := 0
  nextTeam := 1
  retired := 0
  ready := []
  serial := false
  reexec := false
  folded := 0
  gdigest := 0
  gcount := 0
  early := []
  refdig := 0
  obsdig := 0
  dtab := 0
  cores := [0]
  late := false
  waitSince := none
  drain := none

def probeTeam : Team where
  launch := 1
  index := 0
  tx := 0
  ty := 0
  tz := 0
  core := 0
  coreLog := 0
  dieLog := 0
  share := 0
  waves := [(0, Wave.placed 0 .gen 256 0 0x10000 0)]
  bind := List.replicate 64 ⟨0, true, 0, 0, 0⟩
  stash := []
  maps := []
  privBase := 0
  ver := 0
  fvc := false
  digest := 0
  contribs := 0
  kids := List.replicate 16 ⟨0, .free⟩
  place := .resident
  debugSaved := none
  debugImage := []
  started := false
  readmitSince := none
  undefAt := []

end Sys2Proof.Machine
end

