-- ==== Sys2Proof/Machine/Step.lean ====
section
/-! DEFINITION. One step of the package: the next subset of the issue group fetches and executes; else the next event of the
agenda happens; else the scheduler's. -/

namespace Sys2Proof.Machine

/-- One step (log entry 11). -/
def step (s : State) : Host.Outcome State Fault Refusal :=
  match s.group with
  | c :: rest => runSubset c { s with group := rest }
  | [] =>
    match s.agenda with
    | (dt, ev) :: rest => runEvent dt ev { s with agenda := rest }
    | [] => runTurn s.pick s

/-- The state in which the next step fetches and runs an instruction given by its bits: team 1 of `probeLaunch` is on core
0, its page is translated, the words stand at its PC and in the core's fetch path, and the issue group holds its subset (log entry 23). -/
def State.withFetchWord (s : State) (nbits w : Nat) : State :=
  { s with
    mem := Memory.writeN s.mem 0x10000 (toLe 16 (w % 2 ^ nbits))
    granuleOwner := s.granuleOwner.set 0 0
    parts := s.parts.set 0 { Part.reset with pstate := 1 }
    launches := s.launches.set 1 probeLaunch
    teams := s.teams.set 1 probeTeam
    cores := s.cores.set 0 { Core.reset with
      tlb := [⟨0, 1, 0x1001F, 0x10000⟩], slots := [(0, (1, 0))], ipath := [(0x100, BitVec.ofNat 2048 (w % 2 ^ nbits))] }
    bootstat := 1
    group := [⟨1, 0, 0x10000, 0xFFFFFFFF, 0, 0⟩] }

end Sys2Proof.Machine
end

