-- ==== Sys2Proof/Safety.lean ====
section
/-! DEFINITION. What counts as a safe state and a safe step, and the vocabulary of the statements: a subset that issues and
passes the checks that stand before an instruction's own, and the state in which its instruction ends. -/

namespace Sys2Proof

/-- What holds between steps: the memory is canonical, no instruction is in the middle of its issue. -/
def Machine.State.Inv (s : Machine.State) : Prop := Machine.Memory.wf s.mem = true ∧ s.cur = none

/-- A step that runs. -/
def Safe (s : Machine.State) : Prop := ∃ t, Machine.step s = .next t

end Sys2Proof

namespace Sys2Proof.Machine

/-- The subset that `cur` names issues an instruction, as `i`, and passes everything that R115 puts before the instruction's
own operand checks: no interlock holds it (R112), the staging buffer has room for its results (R141), a WAITC has nothing to wait
for (R325), its registers are below REGS (R25), its role allows the instruction (R26), no hazard is open where the scoreboard
checks (R114), its channels are bound and of the right kind (R35), some lane passes the guard (R106), and its channels have the
entries and the room it needs (R103). -/
structure Executes (opc : Nat) (f : Form) (s : State) (i : Iss) : Prop where
  subset : s.issuing opc f = some i
  free : i.interlocked = false
  room : i.staged s = false
  waited : i.waitcHeld s = false
  regs : i.checkRegs = none
  role : i.checkRole = none
  stall : i.checkStall (s.ctx i.launch.ctx).scbchk = none
  chan : i.checkChan = none
  active : i.act ≠ 0
  ready : i.channelWait s = none

/-- The state in which a subset's instruction ends: its effect, the wakes of channel waits that a channel operand may meet
(R360), and no subset at issue. -/
def Iss.ends (i : Iss) (t : State) : State := { i.wakes t with cur := none }

/-- The state after a fixed-latency instruction has retired with its results (R148). -/
def Iss.retires (i : Iss) (s : State) (o : Out) : State := i.ends (s.retire i o)

/-- The state in which a failing check ends a subset's instruction: its trap is taken (R384), the answers of exporters that its
checks have had are used up (R277), and no subset is at issue. -/
def Iss.traps (i : Iss) (s : State) (t : Trap) : State :=
  { (s.dropProbes i.tid i.wid i.team.core).takeTrap i t with cur := none }

/-- An operation of the subset is in flight in a state: it joined the wave's operations in flight, its counter rose by 1, the
subset goes on after the instruction, and registers and predicates are as they were (R112, R148, R315, R324). -/
def Iss.Begins (i : Iss) (t : State) (o : Op) : Prop :=
  ∃ w, t.wave? i.tid i.wid = some w ∧ w.ops = i.wave.ops ++ [o] ∧
    (∀ c : Fin 4, w.count c.val = i.wave.count c.val + if o.counted = some c then 1 else 0) ∧
    (∀ l, l < 32 → w.pcs.getD l 0 = if i.lanes.getLsbD l then i.pc + i.len else i.wave.pcs.getD l 0) ∧
    w.vregs = i.wave.vregs ∧ w.preds = i.wave.preds ∧ w.rejoin = i.wave.rejoin ∧ w.flags = i.wave.flags

/-- What a load may still wait for once its checks have passed is over: the counter's limit and the accesses of its threads that
it must follow (R280, R283-R288, R324, R332); for an SC load, and a `.hnol1` load of what is not mapped, the core's own written bytes of
its lines (R296, R307); write-backs of the lines that it reads at their home slices (R280); room for what it reads that is still to
propagate (R296). -/
def Iss.LoadGoes (i : Iss) (s : State) (as : List LaneAcc) (ps : List Piece) : Prop :=
  let c := s.core i.team.core
  let direct (p : Piece) : Bool := i.dom == .sc || (i.hint == 3 && !p.place.isMapped)
  let home (p : Piece) : Bool :=
    direct p || !p.place.isMapped || !i.team.mappedReady (match p.place with | .mapped o _ _ => o | _ => 0) p.len
  i.accessWait s .load as ps = false ∧
    (∀ p ∈ ps, direct p = true → ∀ e ∈ c.ownStores i.tid i.wid, e.meets p = false) ∧
    (∀ l ∈ linesOf ((ps.filter direct).map (·.place)), s.lineDirty i.team.core i.tid l = false) ∧
    (∀ l ∈ linesOf ((ps.filter home).map (·.place)), c.lineOut l = false) ∧
    (∀ l ∈ linesOf (ps.map (·.place)), s.pendingRoom i.tid i.wid l = true)

/-- The same for a store (R283, R287, R295, R310): its queue has room. -/
def Iss.StoreGoes (i : Iss) (s : State) (as : List LaneAcc) (ps : List Piece) : Prop :=
  i.accessWait s .store as ps = false ∧ ((s.core i.team.core).sq.getD (netOf i.dom) []).length < sqCapacity i.dom ∧
    i.releaseWait s = none

/-- The same for a barrier instruction on the object at a piece (R293, R371). -/
def Iss.BarrierGoes (i : Iss) (s : State) (p : Piece) (rel : Bool) : Prop :=
  let c := s.core i.team.core
  i.accessWait s .atomic [] ((maskLanes i.act).map fun l => { p with lane := l }) = false ∧
    (∀ l ∈ linesOf [p.place], s.lineDirty i.team.core i.tid l = false ∧ c.lineOut l = false) ∧
    (rel = true → s.release i s.nextOp allDoms i.scope = none)

end Sys2Proof.Machine
end

