-- ==== Sys2Proof/Certificates/Slice0/Obligations.lean ====
section
/-! DEFINITION. The statements for the provers, O1 onwards in the order of OBLIGATIONS.json. -/

open Sys2Proof Sys2Proof.Machine

/-! ## Encoding -/

/-- Decoding undoes encoding, for every well-formed instruction of the opcode map: in its words and in memory. -/
def Obligations.EncodeThenDecode : Prop :=
  -- Every well-formed instruction of the opcode map is what the decoder reads from its encoded words (R97-R108, R117).
  (∀ (i : Instr) (w e : W64), i.wellFormed = true → encode i = some (w, e) → decode w e = .ok i) ∧
  -- The same in memory: an instruction's bytes, whatever follows them, decode to it and leave what follows (R94).
  (∀ (i : Instr) (w e : W64) (rest : List Byte), i.wellFormed = true → encode i = some (w, e) →
    decodeBytes (encodeBytes i ++ rest) = .ok (i, rest))

/-- What the decoder accepts is a well-formed instruction with the opcode of the word: no field value that check 1 refuses
gets through (R97-R101, R115). -/
def Obligations.DecodedInstructionsAreWellFormed : Prop :=
  ∀ (w e : W64) (i : Instr), decode w e = .ok i →
    i.wellFormed = true ∧ ∃ f, opcodeOf i = some ((w.extractLsb' 10 10).toNat, f)

/-- Worked encodings of the manual decode to the instructions they stand for, and its worked ill-formed words are refused:
words of every format (chapters 05, 07, 08, 10, 11, 14, 15, 17 and 18). -/
def Obligations.SampleWordsDecode : Prop :=
  decode 0x0000000000000621 0xFFFFFFFFFFFFFFC0 =
    .ok (.bra ⟨1, some (2, false), 0, .none, .none, .none, .none, some 0xFFFFFFFFFFFFFFC0⟩) ∧
  decode 0x40000000801042F4 0x64 = .ok (.pcmp ⟨4, none, 8, .k 1, .v 4, .none, .none, some 0x64⟩) ∧
  decode 0x20000000407202F4 0xFFFFFFFB = .ok (.iadd ⟨4, none, 4, .v 7, .v 2, .none, .none, some 0xFFFFFFFB⟩) ∧
  decode 0x38040001209302F6 1 = .ok (.lxch ⟨6, none, 7, .v 9, .v 9, .none, .k 2, some 1⟩) ∧
  decode 0x480C028080A60CF2 0 = .ok (.ffma ⟨2, none, 9, .v 10, .v 4, .v 5, .v 6, none⟩) ∧
  decode 0x00400800020A00F1 0 = .ok (.mma ⟨1, none, 0, .b8 32, .b8 0, .b2 16, .b8 32, none⟩) ∧
  decode 0x39400300800C20F1 0 = .ok (.st ⟨1, none, 7, .none, .p 4, .v 6, .ord .rc .pkg .rel 0, none⟩) ∧
  decode 0x90420600409C40F1 0 = .ok (.atom ⟨1, none, 18, .v 9, .p 2, .p 12, .ord .sc .pkg .plain 0, none⟩) ∧
  decode 0x08000000000E42F1 0 = .ok (.waitc ⟨1, none, 1, .none, .none, .none, .none, some 0⟩) ∧
  decode 0x00000060809E64F1 0 = .ok (.pop ⟨1, none, 0, .v 9, .ch 4 true, .none, .none, none⟩) ∧
  decode 0x0810000080BF04F1 0 = .ok (.barrive ⟨1, none, 1, .v 11, .p 4, .none, .ord .rc .core .plain 0, none⟩) ∧
  decode 0x00000300000F88F1 0 = .ok (.wrctx ⟨1, none, 0, .none, .none, .p 6, .none, none⟩) ∧
  -- a comparison that MOD does not list, a 64-bit immediate where the type has 32, a block that starts odd, a class-0 channel
  decode 0xC0000000801042F4 0x64 = .error ⟨3, 6⟩ ∧
  decode 0x20000000407202F4 0xFFFFFFFFFFFFFFFB = .error ⟨4, 5⟩ ∧
  decode 0x00400880020A00F1 0 = .error ⟨6, 3⟩ ∧
  decode 0x00000001003E60F1 0 = .error ⟨6, 1⟩

/-- Check 1 of R115 in the order that log entry 15 fixes: a word whose opcode the map does not assign is refused with REASON 1;
else a word count that the opcode does not have, with REASON 2; else a reserved guard, with REASON 3 (R117, R386). -/
def Obligations.ReservedWordsAreRefused : Prop :=
  ∀ (w e : W64),
    let opc := (w.extractLsb' 10 10).toNat
    let mod := (w.extractLsb' 59 5).toNat
    let guard := (w.extractLsb' 4 4).toNat
    (wordForms opc = none → decode w e = .error ⟨1, 0⟩) ∧
    (wordForms opc ≠ none → longOk opc mod (w.getLsbD 9) = false → decode w e = .error ⟨2, 0⟩) ∧
    (longOk opc mod (w.getLsbD 9) = true → (12 ≤ guard ∧ guard ≤ 14) ∨ (guard = 15 ∧ w.getLsbD 8 = true) →
      decode w e = .error ⟨3, 0⟩)

/-! ## Steps -/

/-- A step runs the decoded instruction of the subset at the head of the issue group; with no group, the next event of the agenda. -/
def Obligations.StepRunsTheDecodedInstruction : Prop :=
  -- A step runs the decoded instruction: when the subset at the head of the issue group fetches words that decode, the step is
  -- the instruction's `exec` with that subset at issue (R94, R96, R126).
  (∀ (s s' : State) (c : Cur) (rest : List Cur) (tm : Team) (ln : Launch) (w e : W64) (i : Instr),
    s.group = c :: rest → s.teams.get? c.team = some tm → s.launches.get? tm.launch = some ln →
    State.fetch { s with group := rest } c.team c.wave tm ln c.pc = .words w e s' → decode w e = .ok i →
    step s = exec i { s' with cur := some { c with enc0 := w, enc1 := if w.getLsbD 9 then e else 0 } }) ∧
  -- While the code is on its way the subset does not issue: the step only asks for the line that it lacks (R96).
  (∀ (s s' : State) (c : Cur) (rest : List Cur) (tm : Team) (ln : Launch),
    s.group = c :: rest → s.teams.get? c.team = some tm → s.launches.get? tm.launch = some ln →
    State.fetch { s with group := rest } c.team c.wave tm ln c.pc = .wait s' → step s = .next s') ∧
  -- With no issue group, the step is the next event of the agenda, after its delay (log entry 11).
  (∀ (s : State) (dt : Nat) (ev : Instr) (rest : List (Nat × Instr)),
    s.group = [] → s.agenda = (dt, ev) :: rest → opcodeOf ev = none →
    step s = exec ev (State.advance { s with agenda := rest } dt))

/-- Words that check 1 refuses trap: the step leaves the state in which the whole subset has taken ILLEGAL with the REASON and
FIELD of the refusal, both words recorded (R116, R386). -/
def Obligations.StepTrapsOnRefusedWords : Prop :=
  ∀ (s s' : State) (c : Cur) (rest : List Cur) (tm : Team) (ln : Launch) (wv : Wave) (w e : W64) (x : Illegal),
    s.group = c :: rest → s.teams.get? c.team = some tm → s.launches.get? tm.launch = some ln →
    State.fetch { s with group := rest } c.team c.wave tm ln c.pc = .words w e s' → decode w e = .error x →
    s'.teams.get? c.team = some tm → s'.launches.get? tm.launch = some ln → tm.waves.get? c.wave = some wv →
    c.lanes &&& wv.readyAt c.pc ≠ 0 → wv.trapped = false →
    ∃ t tm' w', step s = .next t ∧ t.teams.get? c.team = some tm' ∧ tm'.waves.get? c.wave = some w' ∧
      w'.trapped = true ∧ w'.tmask = c.lanes &&& wv.readyAt c.pc ∧ w'.side.cls = 0 ∧ w'.side.check = 1 ∧
      w'.side.reason = BitVec.ofNat 8 x.reason ∧ w'.side.field = BitVec.ofNat 8 x.field ∧ w'.side.enc0 = w ∧
      w'.side.enc1 = (if w.getLsbD 9 then e else 0) ∧ w'.side.pc = c.pc ∧ w'.vregs = wv.vregs

/-- A step always answers a next state: no state stops the machine (R46, R384, R399: traps, replayable faults and context
faults are next states). -/
def Obligations.EveryStepAnswersANextState : Prop := ∀ s : State, Safe s

/-- Every step keeps the memory canonical and leaves no instruction in the middle of its issue. -/
def Obligations.EveryStepKeepsTheInvariant : Prop :=
  ∀ s t : State, s.Inv → step s = .next t → t.Inv

/-- The invariant holds after reset, and the registers have the values that their maps give for reset: the identity registers
(R425), every partition block (R427) and every spindle's PLSTAT (R80). -/
def Obligations.ResetHasTheInvariant : Prop :=
  State.Inv State.reset ∧ State.reset.tsc = 0 ∧ State.reset.bootstat = 0 ∧ State.reset.errAddr = 0 ∧ State.reset.err = false ∧
  State.reset.freeze = false ∧
  (∀ p, let x := State.reset.part p
    x.spindlesReg = 0 ∧ x.slicesReg = 0 ∧ x.memshare = 0 ∧ x.hbase = 0 ∧ x.stopbase = 0 ∧ x.modes = 0 ∧ x.todie = 100000 ∧
    x.tolink = 2000000 ∧ x.fwdog = 50000000 ∧ x.exptab = 0 ∧ x.peerlist = 0 ∧ x.hcause = 0 ∧ x.pstate = 0 ∧ x.dbghalt = 0) ∧
  (∀ k, let x := State.reset.spindle k
    x.part = 0xFF ∧ x.fenced = false ∧ x.resetting = false)

/-! ## The checks before an instruction -/

/-- What happens before any instruction takes its own effect: interlocks, the checks of R115, and the guard. -/
def Obligations.ChecksBeforeTheInstruction : Prop :=
  -- While an interlock holds a subset (R112), the staging buffer is full (R141) or a WAITC still waits (R325), no instruction of the
  -- opcode map changes anything.
  (∀ (ins : Instr) (opc : Nat) (f : Form) (s : State) (i : Iss),
    opcodeOf ins = some (opc, f) → s.issuing opc f = some i → i.held s = true →
    exec ins s = .next { s with cur := none }) ∧
  -- A failing check of R115 traps, whatever the instruction: the first of checks 2 to 5 that fails gives the trap that the subset
  -- takes, and nothing else of the instruction happens.
  (∀ (ins : Instr) (opc : Nat) (f : Form) (s : State) (i : Iss) (t : Trap),
    opcodeOf ins = some (opc, f) → s.issuing opc f = some i → i.held s = false →
    (i.checkRegs = some t ∨
     (i.checkRegs = none ∧ i.checkRole = some t) ∨
     (i.checkRegs = none ∧ i.checkRole = none ∧ i.checkStall (s.ctx i.launch.ctx).scbchk = some t) ∨
     (i.checkRegs = none ∧ i.checkRole = none ∧ i.checkStall (s.ctx i.launch.ctx).scbchk = none ∧ i.checkChan = some t)) →
    exec ins s = .next (i.traps s t)) ∧
  -- Which traps those checks give: ILLEGAL for a register numbered REGS or higher (R25), ROLE for an instruction that the wave's
  -- role may not issue (R26), CHANNEL for an unbound channel (R35).
  (∀ (i : Iss),
    (∀ n : BitVec 8, i.f.a = .v n → i.f.dst = .none → i.launch.header.regs ≤ n.toNat →
      i.checkRegs = some ⟨.illegal, 2, 2, 5, i.lanes, 0, 0⟩) ∧
    (∀ n : BitVec 8, i.f.dst = .v n → i.launch.header.regs ≤ n.toNat →
      i.checkRegs = some ⟨.illegal, 1, 2, 5, i.lanes, 0, 0⟩) ∧
    (0x280 ≤ i.opc → i.opc ≤ 0x2FF → i.wave.role = .cpy ∨ i.wave.role = .vec →
      i.checkRole = some ⟨.role, 0, 3, 0, i.lanes, 0, BitVec.ofNat 64 i.wave.role.ctorIdx⟩) ∧
    (0x380 ≤ i.opc → i.opc ≤ 0x385 → i.wave.role = .mtx ∨ i.wave.role = .vec →
      i.checkRole = some ⟨.role, 0, 3, 0, i.lanes, 0, BitVec.ofNat 64 i.wave.role.ctorIdx⟩) ∧
    (i.opc < 0x280 → i.checkRole = none) ∧
    (∀ (n : BitVec 8) (p : Bool), i.f.a = .ch n p → i.bind? n.toNat = none →
      i.checkChan = some ⟨.channel, 2, 5, 0, i.lanes, 0, BitVec.ofNat 64 (n.toNat + 256 * 0xFF)⟩)) ∧
  -- A subset none of whose lanes passes the guard goes on to the next instruction, and nothing else of the instruction happens
  -- (R106), whatever the instruction.
  (∀ (ins : Instr) (opc : Nat) (f : Form) (s : State) (i : Iss),
    opcodeOf ins = some (opc, f) → s.issuing opc f = some i → i.held s = false → i.checkRegs = none →
    i.checkRole = none → i.checkStall (s.ctx i.launch.ctx).scbchk = none → i.checkChan = none → i.act = 0 →
    exec ins s = .next (i.ends (s.issuedNext i [])))

/-- A subset whose channel operand lacks an entry, or room, becomes BLOCKED at its PC with the wake condition, whatever the
instruction (R103, R360): no register, predicate or byte of the stash changes. -/
def Obligations.ChannelOperandBlocks : Prop :=
  ∀ (ins : Instr) (opc : Nat) (f : Form) (s : State) (i : Iss) (wk : Wake),
    opcodeOf ins = some (opc, f) → s.issuing opc f = some i → i.held s = false → i.checkRegs = none →
    i.checkRole = none → i.checkStall (s.ctx i.launch.ctx).scbchk = none → i.checkChan = none → i.act ≠ 0 →
    i.channelWait s = some wk →
    ∃ t tm w, exec ins s = .next t ∧ t.teams.get? i.tid = some tm ∧ tm.waves.get? i.wid = some w ∧
      (∀ l, l < 32 → i.lanes.getLsbD l = true → w.threads.getD l .exited = .blocked) ∧
      w.waits = i.wave.waits ++ [⟨i.lanes, i.pc, wk, false, BitVec.allOnes 64⟩] ∧ w.vregs = i.wave.vregs ∧ w.preds = i.wave.preds ∧
      w.pcs = i.wave.pcs ∧ tm.stash = i.team.stash ∧ t.mem = s.mem ∧ t.cores = (s.dropProbes i.tid i.wid i.team.core).cores

/-- Trap entry (R384) and the offsets of the classes (R383). -/
def Obligations.TrapEntrySavesAndRedirects : Prop :=
  -- Trap entry (R384): TMASK holds every lane of the subset, each of those lanes saves its resume PC (the next instruction for
  -- SOFT) and goes to the class's offset from HBASE, TRAPPED is set and the record written; other lanes keep their PCs, registers
  -- and predicates stay, and no other wave changes.
  (∀ (s : State) (i : Iss) (t : Trap),
    s.teams.get? i.tid = some i.team → i.team.waves.get? i.wid = some i.wave → i.wave.trapped = false →
    ∃ tm w, (s.takeTrap i t).teams.get? i.tid = some tm ∧ tm.waves.get? i.wid = some w ∧
      w.trapped = true ∧ w.tmask = i.lanes ∧
      (∀ l, l < 32 → i.lanes.getLsbD l = true →
        w.rpc.getD l 0 = (if t.cls = .soft then i.pc + i.len else i.pc) ∧
        w.pcs.getD l 0 = (s.part i.launch.part).hbase + BitVec.ofNat 64 (0x100 * t.cls.code)) ∧
      (∀ l, l < 32 → i.lanes.getLsbD l = false →
        w.rpc.getD l 0 = i.wave.rpc.getD l 0 ∧ w.pcs.getD l 0 = i.wave.pcs.getD l 0) ∧
      w.side = i.sideRec s.tsc t ∧
      w.vregs = i.wave.vregs ∧ w.preds = i.wave.preds ∧ w.rejoin = i.wave.rejoin ∧ w.flags = i.wave.flags ∧
      w.rm = i.wave.rm ∧ w.ftz = i.wave.ftz ∧ w.threads = i.wave.threads ∧
      (∀ u v, u ≠ i.tid ∨ v ≠ i.wid → (s.takeTrap i t).wave? u v = s.wave? u v) ∧
      (s.takeTrap i t).mem = s.mem ∧ (s.takeTrap i t).parts = s.parts) ∧
  -- Trap offsets (R383): each class has its own, in steps of 0x100, all below 0x1000.
  (∀ a b : TrapClass, (a.code = b.code → a = b) ∧ 0x100 * a.code < 0x1000)

/-- A trap inside a handler (R385): for threads in TMASK it is a context fault with cause NESTED and they issue nothing more; a
subset that was in flight when TRAPPED was set changes nothing. -/
def Obligations.NestedTrapIsAContextFault : Prop :=
  ∀ (s : State) (i : Iss) (t : Trap), s.teams.get? i.tid = some i.team → i.team.waves.get? i.wid = some i.wave →
    i.wave.trapped = true →
    (i.wave.tmask &&& i.lanes = 0 → s.takeTrap i t = s) ∧
    (i.wave.tmask &&& i.lanes ≠ 0 →
      ((s.takeTrap i t).part i.launch.part).causes = (s.part i.launch.part).causes ++
        [⟨.nested, s.tsc, coreSource i.team.core, 0, i.pc, i.launch.ctx, i.launch.ident⟩] ∧
      ∃ tm w, (s.takeTrap i t).teams.get? i.tid = some tm ∧ tm.waves.get? i.wid = some w ∧
        w.never = i.wave.never ||| i.lanes ∧ w.side = i.wave.side ∧ w.pcs = i.wave.pcs ∧ w.rpc = i.wave.rpc)

/-! ## Fixed-latency instructions -/

/-- What the retirement of a fixed-latency instruction leaves unchanged, and what it writes (R137, R148, R149, R173): of the
registers only the active lanes of the destination's, with the results; of the predicates, rejoin masks and flags only those
named, in the active lanes; each lane of the subset goes to the next instruction or, if active, where the instruction sends it;
trap state, counters, window and operations in flight stay, and so do memory, slices, launches, contexts and partitions. A
channel destination writes no register. A write that breaks R112 leaves, in each lane, the new value or the older one (R113). A
reserved tag that a result took over from a ring entry is written as one of 0 to 12 (R204), which is the model's choice (log entry
107). -/
def Obligations.RetirementWritesOnlyItsResults : Prop :=
  ∀ (opc : Nat) (f : Form) (s : State) (i : Iss) (o : Out), Executes opc f s i →
    ∃ w, (i.retires s o).wave? i.tid i.wid = some w ∧
      (∀ n, n ∉ opndRegs f.dst → w.vregs.getD n Vec.zero = i.wave.vregs.getD n Vec.zero) ∧
      (o.vecs = [] → w.vregs = i.wave.vregs) ∧
      (∀ k n l, (opndRegs f.dst)[k]? = some n → k < o.vecs.length → n < i.wave.vregs.length → l < 32 →
        i.wave.hazardsOf i.act (.reg n) = [] →
        (w.vregs.getD n Vec.zero).lane l =
          if i.act.getLsbD l then (o.vecs.getD k Vec.zero).legal.lane l else (i.wave.vregs.getD n Vec.zero).lane l) ∧
      (∀ n, n < i.wave.preds.length → i.wave.hazardsOf i.act (.pred n) = [] → w.preds.getD n 0 =
        match o.pred with
        | some (m, v) => if n = m then mergeMask i.act (i.wave.preds.getD n 0) v else i.wave.preds.getD n 0
        | none => i.wave.preds.getD n 0) ∧
      (∀ n, n < i.wave.rejoin.length → i.wave.hazardsOf i.act (.rejoin n) = [] → w.rejoin.getD n 0 =
        match o.rejoin with
        | some (m, v) => if n = m then mergeMask i.act (i.wave.rejoin.getD n 0) v else i.wave.rejoin.getD n 0
        | none => i.wave.rejoin.getD n 0) ∧
      (o.clear = [] ∨ i.wave.hazardsOf i.act .flags = [] → ∀ l, l < 32 → w.flags.getD l 0 =
        if i.act.getLsbD l then (i.wave.flags.getD l 0 ||| o.flags.getD l 0) &&& ~~~(o.clear.getD l 0)
        else i.wave.flags.getD l 0) ∧
      (o.mode = none ∨ i.wave.hazardsOf i.act .mode = [] → (w.rm, w.ftz) = o.mode.getD (i.wave.rm, i.wave.ftz)) ∧
      (∀ n l, n < i.wave.preds.length → l < 32 → (w.preds.getD n 0).getLsbD l = (i.wave.preds.getD n 0).getLsbD l ∨
        ∃ v, o.pred = some (n, v) ∧ i.act.getLsbD l = true ∧ (w.preds.getD n 0).getLsbD l = v.getLsbD l) ∧
      (∀ l, l < 32 → i.lanes.getLsbD l = true → i.act.getLsbD l = true ∨ o.pcs = none →
        w.pcs.getD l 0 = match o.pcs with | some ps => ps.getD l 0 | none => i.pc + i.len) ∧
      (∀ l, l < 32 → i.act.getLsbD l = false → i.lanes.getLsbD l = true → w.pcs.getD l 0 = i.pc + i.len) ∧
      (∀ l, l < 32 → i.act.getLsbD l = false → i.lanes.getLsbD l = false → w.pcs.getD l 0 = i.wave.pcs.getD l 0) ∧
      w.trapped = i.wave.trapped ∧ w.tmask = i.wave.tmask ∧ w.rpc = i.wave.rpc ∧ w.side = i.wave.side ∧
      w.window = i.wave.window ∧ w.desc0 = i.wave.desc0 ∧ w.desc1 = i.wave.desc1 ∧ w.ops = i.wave.ops ∧
      w.mem = i.wave.mem ∧ w.cpy = i.wave.cpy ∧ w.mtx = i.wave.mtx ∧ w.net = i.wave.net ∧
      (i.retires s o).mem = s.mem ∧ (i.retires s o).slices = s.slices ∧ (i.retires s o).launches = s.launches ∧
      (i.retires s o).ctxs = s.ctxs ∧ (i.retires s o).parts = s.parts ∧ (i.retires s o).keys = s.keys

/-- Branches, calls and returns (R154), and the misaligned targets that trap (R155). -/
def Obligations.BranchesSetTheNextPc : Prop :=
  -- Branches (R154): BRA and CALL send each active lane to PC + displacement; BRX, CALLX and RET to its 64-bit source, where every
  -- active lane's target has bits [2:0] zero; CALL and CALLX write the link, PC + 16 and PC + 8, as a pair of B32 vectors.
  (∀ (f : Form) (s : State) (i : Iss),
    let link (x : W64) : List Vec := [Vec.splat ⟨x.setWidth 32, 0⟩, Vec.splat ⟨x.extractLsb' 32 32, 0⟩]
    let target (l : Nat) : W64 := lane64 (i.srcA s) l
    let aligned : Prop := ∀ l, l < 32 → i.act.getLsbD l = true → (target l).extractLsb' 0 3 = 0
    (Executes 0x001 f s i →
      exec (.bra f) s = .next (i.retires s { pcs := some (List.replicate 32 (i.pc + f.ext.getD 0)) })) ∧
    (Executes 0x002 f s i → aligned →
      exec (.brx f) s = .next (i.retires s { pcs := some (lanes32.map target) })) ∧
    (Executes 0x003 f s i →
      exec (.call f) s = .next (i.retires s
        { vecs := link (i.pc + 16), pcs := some (List.replicate 32 (i.pc + f.ext.getD 0)) })) ∧
    (Executes 0x004 f s i → aligned →
      exec (.callx f) s = .next (i.retires s { vecs := link (i.pc + 8), pcs := some (lanes32.map target) })) ∧
    (Executes 0x005 f s i → aligned →
      exec (.ret f) s = .next (i.retires s { pcs := some (lanes32.map target) }))) ∧
  -- A misaligned target in an active lane of BRX, CALLX or RET (R155): the subset takes ALIGN; LANES names the offending lanes and
  -- ADDR holds the lowest one's target.
  (∀ (f : Form) (s : State) (i : Iss),
    let target (l : Nat) : W64 := lane64 (i.srcA s) l
    let bad : Mask := laneMask fun l => i.act.getLsbD l && (target l).extractLsb' 0 3 != 0
    let trap : Trap := ⟨.align, 2, 8, 0, bad, target (lowest bad), 0⟩
    bad ≠ 0 →
    (Executes 0x002 f s i → exec (.brx f) s = .next (i.traps s trap)) ∧
    (Executes 0x004 f s i → exec (.callx f) s = .next (i.traps s trap)) ∧
    (Executes 0x005 f s i → exec (.ret f) s = .next (i.traps s trap)))

/-- Instructions about the threads themselves: they go on, end, enrol, wait, yield or sleep. -/
def Obligations.ThreadsEndAndWait : Prop :=
  -- NOP, EXIT, JENROL, JWAIT, YIELD and SLEEP (R156-R160): NOP goes on; EXIT makes the active lanes EXITED; JENROL sets (MOD 0) or
  -- clears the active lanes of a rejoin mask; a JWAIT whose enrolled lanes are all EXITED or READY at its PC goes on; YIELD goes on,
  -- or blocks its active lanes with a wake already met at the next PC while pre-emption is requested; SLEEP sets each active lane's
  -- wake time to TSC + d, where 0 is no wait.
  (∀ (f : Form) (s : State) (i : Iss),
    (Executes 0x000 f s i → exec (.nop f) s = .next (i.retires s {})) ∧
    (Executes 0x006 f s i → i.chans = [] → ∃ t w, exec (.exit f) s = .next t ∧ t.wave? i.tid i.wid = some w ∧
      (∀ l, l < 32 → w.threads.getD l .exited = if i.act.getLsbD l then .exited else i.wave.threads.getD l .ready)) ∧
    (∀ n, Executes 0x008 f s i → f.dst = .j n →
      exec (.jenrol f) s = .next (i.retires s { rejoin := some (n.toNat, if f.mod.toNat = 0 then i.act else 0) })) ∧
    (∀ n, Executes 0x009 f s i → f.a = .j n →
      i.readRejoin s n.toNat &&& ~~~(i.wave.exited ||| i.wave.readyAt i.pc) = 0 →
      exec (.jwait f) s = .next (i.ends (s.issuedNext i []))) ∧
    (Executes 0x00A f s i → (s.ctx i.launch.ctx).preq = false → exec (.yield f) s = .next (i.ends (s.issuedNext i []))) ∧
    (Executes 0x00A f s i → (s.ctx i.launch.ctx).preq = true →
      exec (.yield f) s = .next (i.ends ((s.issuedNext i []).modWave i.tid i.wid fun w =>
        w.blockOn i.act (i.pc + 8) .yield))) ∧
    (Executes 0x00B f s i →
      exec (.sleep f) s = .next (i.ends (((s.popSources i).issuedNext i []).modWave i.tid i.wid fun w =>
        { w with sleepUntil := mergeLanes i.act w.sleepUntil 0 fun l =>
          if lane32 (i.srcB s) l = 0 then 0 else s.tsc.toNat + (lane32 (i.srcB s) l).toNat })))) ∧
  -- A JWAIT whose condition is not met waits: nothing changes (R160).
  (∀ (f : Form) (s : State) (i : Iss) (n : BitVec 8), Executes 0x009 f s i → f.a = .j n →
    i.readRejoin s n.toNat &&& ~~~(i.wave.exited ||| i.wave.readyAt i.pc) ≠ 0 → exec (.jwait f) s = .next { s with cur := none })

/-- Predicates (R162-R165) and integer comparisons (R162, R185). -/
def Obligations.PredicateAndComparisonResults : Prop :=
  -- PLOG (R163): each operation on the bits of two predicates.
  (∀ (f : Form) (s : State) (i : Iss) (d x y : BitVec 8), Executes 0x011 f s i → f.dst = .k d → f.a = .k x → f.b = .k y →
    let a := i.readPred s x.toNat
    let b := i.readPred s y.toNat
    exec (.plog f) s = .next (i.retires s { pred := some (d.toNat,
      if f.mod = 0 then a &&& b else if f.mod = 1 then a ||| b else if f.mod = 2 then a ^^^ b
      else if f.mod = 3 then a &&& ~~~b else if f.mod = 4 then a ||| ~~~b else if f.mod = 5 then ~~~(a ^^^ b)
      else if f.mod = 6 then ~~~(a &&& b) else ~~~(a ||| b)) })) ∧
  -- PMOV (R164): between predicates, from a predicate to 0 or 1, from a nonzero test, and the constants one and zero.
  (∀ (f : Form) (s : State) (i : Iss), Executes 0x012 f s i →
    (∀ d a, f.mod = 0 → f.dst = .k d → f.a = .k a →
      exec (.pmov f) s = .next (i.retires s { pred := some (d.toNat, i.readPred s a.toNat) })) ∧
    (∀ a, f.mod = 1 → f.a = .k a →
      exec (.pmov f) s = .next (i.retires s
        { vecs := [Vec.of fun l => ⟨if (i.readPred s a.toNat).getLsbD l then 1 else 0, 0⟩] })) ∧
    (∀ d, f.mod = 2 → f.dst = .k d →
      exec (.pmov f) s = .next (i.retires s
        { pred := some (d.toNat, laneMask fun l => lane32 (i.srcA s) l != 0) })) ∧
    (∀ d, f.mod = 3 → f.dst = .k d →
      exec (.pmov f) s = .next (i.retires s { pred := some (d.toNat, BitVec.allOnes 32) })) ∧
    (∀ d, f.mod = 4 → f.dst = .k d → exec (.pmov f) s = .next (i.retires s { pred := some (d.toNat, 0) }))) ∧
  -- PVOTE and BALLOT (R165) act over the active lanes of the subset only.
  (∀ (f : Form) (s : State) (i : Iss),
    (∀ d x (v : Bool), Executes 0x013 f s i → f.dst = .k d → f.a = .k x →
      let k := i.readPred s x.toNat
      let all : Prop := ∀ l, l < 32 → i.act.getLsbD l = true → k.getLsbD l = true
      let any : Prop := ∃ l, l < 32 ∧ i.act.getLsbD l = true ∧ k.getLsbD l = true
      (v = true ↔ (f.mod = 0 ∧ all) ∨ (f.mod = 1 ∧ any) ∨ (f.mod ≠ 0 ∧ f.mod ≠ 1 ∧ (all ∨ ¬any))) →
      exec (.pvote f) s = .next (i.retires s { pred := some (d.toNat, if v then BitVec.allOnes 32 else 0) })) ∧
    (∀ x, Executes 0x014 f s i → f.a = .k x →
      exec (.ballot f) s = .next (i.retires s { vecs := [Vec.splat ⟨i.readPred s x.toNat &&& i.act, 0⟩] }))) ∧
  -- PCMP (R162) and ICMP (R185): MOD is 4 × cond + type, and the signed types compare in two's complement.
  (∀ (f : Form) (s : State) (i : Iss),
    let w := if 2 ≤ f.mod.toNat % 4 then 64 else 32
    let signed : Bool := decide (f.mod.toNat % 2 = 0)
    let a (l : Nat) : Int := laneInt w signed (i.srcA s) l
    let b (l : Nat) : Int := laneInt w signed (i.srcB s) l
    let c := f.mod.toNat / 4
    let cond (l : Nat) : Bool :=
      if c = 0 then decide (a l = b l) else if c = 1 then decide (a l ≠ b l) else if c = 2 then decide (a l < b l)
      else if c = 3 then decide (a l ≤ b l) else if c = 4 then decide (a l > b l) else decide (a l ≥ b l)
    (∀ d, Executes 0x010 f s i → f.dst = .k d →
      exec (.pcmp f) s = .next (i.retires s { pred := some (d.toNat, laneMask cond) })) ∧
    (Executes 0x0A1 f s i →
      exec (.icmp f) s = .next (i.retires s { vecs := [Vec.of fun l => ⟨if cond l then 0xFFFFFFFF else 0, 0⟩] })))

/-- TRAP and BRK (R170). That a BRK under debug break sets its socket's bit of DBGHALT (R410) is the model's reading (log entry 70, DEDUCED). -/
def Obligations.SoftTrapsAndBreakpoints : Prop :=
  -- TRAP takes the SOFT trap with its code, and BRK too while the context's debug-break control is clear (R170): the code is that
  -- of the lowest active lane, DETAIL bit 32 marks BRK, and the trap resumes at the next instruction.
  (∀ (f : Form) (s : State) (i : Iss), i.wave.trapped = false →
    let code : Nat := (lane32 (i.srcB s) (lowest i.act)).toNat
    let takes (t : State) (detail : Nat) : Prop := ∃ w, t.wave? i.tid i.wid = some w ∧ w.trapped = true ∧ w.tmask = i.lanes ∧
      w.side.cls = 5 ∧ w.side.active = i.act ∧ w.side.pc = i.pc ∧ w.side.detail = BitVec.ofNat 64 detail ∧
      w.vregs = i.wave.vregs ∧ ∀ l, l < 32 → i.lanes.getLsbD l = true →
        w.rpc.getD l 0 = i.pc + i.len ∧ w.pcs.getD l 0 = (s.part i.launch.part).hbase + 0x500
    (Executes 0x030 f s i → ∃ t, exec (.trap f) s = .next t ∧ takes t code) ∧
    (Executes 0x031 f s i → (s.ctx i.launch.ctx).dbgbrk = false → ∃ t, exec (.brk f) s = .next t ∧ takes t (code + 2 ^ 32))) ∧
  -- BRK with the debug-break control set (R170) halts the core's socket for debug, stops the subset at the BRK and writes the
  -- record; that the halt sets the socket's bit of DBGHALT (R410) is the model's reading (log entry 70, DEDUCED).
  (∀ (f : Form) (s : State) (i : Iss), Executes 0x031 f s i → (s.ctx i.launch.ctx).dbgbrk = true →
    ∃ t w, exec (.brk f) s = .next t ∧ t.wave? i.tid i.wid = some w ∧ w.brkStop = i.lanes ∧ w.side.cls = 5 ∧
      w.side.detail = BitVec.ofNat 64 ((lane32 (i.srcB s) (lowest i.act)).toNat + 2 ^ 32) ∧ w.pcs = i.wave.pcs ∧
      (t.part i.launch.part).dbghalt = (s.part i.launch.part).dbghalt ||| (1#24 <<< (i.team.core / 36)))

/-- Integer arithmetic (R171-R176). -/
def Obligations.IntegerArithmeticResults : Prop :=
  -- IADD, ISUB, IMUL, IMULH, IMAD, IMIN, IMAX and IABS (R171, R175): the operands are numbers of type T, the exact result is
  -- clamped into T's range under `.sat`, and its low w bits are written, tagged B32.
  (∀ (f : Form) (s : State) (i : Iss),
    let w : Nat := if 2 ≤ f.mod.toNat % 4 then 64 else 32
    let signed : Bool := decide (f.mod.toNat % 2 = 0)
    let lo : Int := if signed then -(2 ^ (w - 1)) else 0
    let hi : Int := if signed then 2 ^ (w - 1) - 1 else 2 ^ w - 1
    let a (l : Nat) : Int := laneInt w signed (i.srcA s) l
    let b (l : Nat) : Int := laneInt w signed (i.srcB s) l
    let c (l : Nat) : Int := laneInt w signed (i.srcC s) l
    let result (x : Nat → Int) : State :=
      i.retires s { vecs := b32Vecs w fun l => if 4 ≤ f.mod.toNat then max lo (min hi (x l)) else x l }
    (Executes 0x080 f s i → exec (.iadd f) s = .next (result fun l => a l + b l)) ∧
    (Executes 0x081 f s i → exec (.isub f) s = .next (result fun l => a l - b l)) ∧
    (Executes 0x083 f s i → exec (.imul f) s = .next (result fun l => a l * b l)) ∧
    (Executes 0x084 f s i → exec (.imulh f) s = .next (result fun l => a l * b l / 2 ^ w)) ∧
    (Executes 0x085 f s i → exec (.imad f) s = .next (result fun l => a l * b l + c l)) ∧
    (Executes 0x086 f s i → exec (.imin f) s = .next (result fun l => min (a l) (b l))) ∧
    (Executes 0x087 f s i → exec (.imax f) s = .next (result fun l => max (a l) (b l))) ∧
    (Executes 0x088 f s i → exec (.iabs f) s = .next (result fun l => ((a l).natAbs : Int)))) ∧
  -- IADDC (R176): a 32-bit addition through predicate kC, which receives the carry; `.sub` (MOD 5) complements b.
  (∀ (f : Form) (s : State) (i : Iss) (k : BitVec 8), Executes 0x082 f s i → f.c = .k k →
    let sum (l : Nat) : Nat := (lane32 (i.srcA s) l).toNat +
      (if f.mod = 5 then ~~~(lane32 (i.srcB s) l) else lane32 (i.srcB s) l).toNat +
      (if (i.readPred s k.toNat).getLsbD l then 1 else 0)
    exec (.iaddc f) s = .next (i.retires s
      { vecs := [Vec.of fun l => ⟨BitVec.ofNat 32 (sum l % 2 ^ 32), 0⟩]
        pred := some (k.toNat, laneMask fun l => decide (sum l / 2 ^ 32 = 1)) }))

/-- Shifts and bit operations (R179-R184). -/
def Obligations.ShiftAndBitResults : Prop :=
  -- SHL, SHR, SHRA and ROT (R180): the amount is not reduced modulo w.
  (∀ (f : Form) (s : State) (i : Iss),
    let n (l : Nat) : Nat := (lane32 (i.srcB s) l).toNat
    let a (l : Nat) : W32 := lane32 (i.srcA s) l
    let a64 (l : Nat) : W64 := lane64 (i.srcA s) l
    let result (g : Nat → W32) (h : Nat → W64) : State := i.retires s
      { vecs := if f.mod.toNat / 2 % 2 = 1 then
          [Vec.of fun l => ⟨(h l).setWidth 32, 0⟩, Vec.of fun l => ⟨(h l).extractLsb' 32 32, 0⟩]
        else [Vec.of fun l => ⟨g l, 0⟩] }
    (Executes 0x090 f s i → exec (.shl f) s = .next (result (fun l => a l <<< n l) fun l => a64 l <<< n l)) ∧
    (Executes 0x091 f s i → exec (.shr f) s = .next (result (fun l => a l >>> n l) fun l => a64 l >>> n l)) ∧
    (Executes 0x092 f s i →
      exec (.shra f) s = .next (result (fun l => (a l).sshiftRight (n l)) fun l => (a64 l).sshiftRight (n l))) ∧
    (Executes 0x093 f s i →
      exec (.rot f) s = .next (result (fun l => (a l).rotateLeft (n l)) fun l => (a64 l).rotateLeft (n l)))) ∧
  -- Counting and reversing (R182), on w bits: POPC counts the ones; CLZ gives the n with the n highest bits 0 and, unless n = w,
  -- the next one 1; BREV moves bit i to bit w − 1 − i.
  (∀ (f : Form) (s : State) (i : Iss) (n : Nat → Nat) (d : Nat → W64),
    let w : Nat := if f.mod.toNat / 2 % 2 = 1 then 64 else 32
    let a (l k : Nat) : Bool := if w = 64 then (lane64 (i.srcA s) l).getLsbD k else (lane32 (i.srcA s) l).getLsbD k
    let count : State := i.retires s { vecs := [Vec.of fun l => ⟨BitVec.ofNat 32 (n l), 0⟩] }
    (Executes 0x098 f s i → (∀ l, l < 32 → n l = ((List.range w).filter (a l)).length) → exec (.popc f) s = .next count) ∧
    (Executes 0x099 f s i →
      (∀ l, l < 32 → n l ≤ w ∧ (∀ k, w - n l ≤ k → k < w → a l k = false) ∧ (n l < w → a l (w - 1 - n l) = true)) →
      exec (.clz f) s = .next count) ∧
    (Executes 0x09A f s i → (∀ l k, l < 32 → k < w → (d l).getLsbD k = a l (w - 1 - k)) →
      exec (.brev f) s = .next (i.retires s { vecs :=
        if w = 64 then [Vec.of fun l => ⟨(d l).setWidth 32, 0⟩, Vec.of fun l => ⟨(d l).extractLsb' 32 32, 0⟩]
        else [Vec.of fun l => ⟨(d l).setWidth 32, 0⟩] }))) ∧
  -- Bit-level instructions on 32-bit values, bit by bit: BLUT (R179), BFE and BFI (R183), and the funnel shift SHD (R181). `d` is
  -- any function of the lane whose bits are as the rule says.
  (∀ (f : Form) (s : State) (i : Iss) (d : Nat → W32),
    let a (l : Nat) : W32 := lane32 (i.srcA s) l
    let b (l : Nat) : W32 := lane32 (i.srcB s) l
    let c (l : Nat) : W32 := lane32 (i.srcC s) l
    let pos (l : Nat) : Nat := (b l).toNat % 256
    let len (l : Nat) : Nat := Nat.min ((b l).toNat / 256 % 256) 32
    let one (x : Bool) : Nat := if x then 1 else 0
    let result : State := i.retires s { vecs := [Vec.of fun l => ⟨d l, 0⟩] }
    (Executes 0x089 f s i →
      (∀ l k, l < 32 → k < 32 → (d l).getLsbD k =
        (f.ext.getD 0).getLsbD (one ((a l).getLsbD k) + 2 * one ((b l).getLsbD k) + 4 * one ((c l).getLsbD k))) →
      exec (.blut f) s = .next result) ∧
    (Executes 0x09B f s i →
      (∀ l k, l < 32 → k < 32 →
        let signed : Bool := decide (f.mod = 0)
        let src (j : Nat) : Bool := if j < 32 then (a l).getLsbD j else signed && (a l).getLsbD 31
        (d l).getLsbD k =
          if len l = 0 then false else if k < len l then src (pos l + k) else signed && src (pos l + len l - 1)) →
      exec (.bfe f) s = .next result) ∧
    (Executes 0x09C f s i →
      (∀ l k, l < 32 → k < 32 → (d l).getLsbD k =
        if pos l ≤ k ∧ k < pos l + len l then (c l).getLsbD (k - pos l) else (a l).getLsbD k) →
      exec (.bfi f) s = .next result) ∧
    (Executes 0x094 f s i →
      (∀ l, l < 32 →
        let x : W64 := a l ++ c l
        let n : Nat := if 4 ≤ f.mod.toNat then Nat.min (b l).toNat 64 else (b l).toNat % 64
        d l = if f.mod.toNat % 2 = 1 then (x >>> n).setWidth 32 else (x <<< n).extractLsb' 32 32) →
      exec (.shd f) s = .next result)) ∧
  -- BSHUF (R184), byte by byte of the result.
  (∀ (f : Form) (s : State) (i : Iss) (d : Nat → W32), Executes 0x0AB f s i →
    (∀ l k, l < 32 → k < 4 →
      let p : W64 := lane32 (i.srcC s) l ++ lane32 (i.srcA s) l
      let ctl : Nat := (lane32 (i.srcB s) l).toNat / 256 ^ k
      let byte : BitVec 8 := p.extractLsb' (8 * (ctl % 8)) 8
      (d l).extractLsb' (8 * k) 8 = if ctl / 16 % 2 = 1 then 0 else if ctl / 32 % 2 = 1 then
        (if byte.getLsbD 7 then 0xFF else 0) else byte) →
    exec (.bshuf f) s = .next (i.retires s { vecs := [Vec.of fun l => ⟨d l, 0⟩] }))

/-- Selections, moves and addresses (R185-R188), and sums over bytes and halves (R178). -/
def Obligations.SelectMoveAddressAndSumResults : Prop :=
  -- Selections, moves and addresses: ISEL and MOV keep value and tag (R185), MOVI writes its immediate with the tag that MOD
  -- selects (R186), LEA forms a 64-bit address (R187), IOTA adds the scaled lane number (R188).
  (∀ (f : Form) (s : State) (i : Iss),
    (∀ k, Executes 0x0A0 f s i → f.c = .k k →
      let pick (j l : Nat) : Lane :=
        if (i.readPred s k.toNat).getLsbD l then (vec1 (i.srcA s) j).lane l else (vec1 (i.srcB s) j).lane l
      exec (.isel f) s = .next (i.retires s
        { vecs := if f.mod = 2 then [Vec.of (pick 0), Vec.of (pick 1)] else [Vec.of (pick 0)] })) ∧
    (Executes 0x0A8 f s i →
      exec (.mov f) s = .next (i.retires s { vecs := (i.srcA s).take (if f.mod = 2 then 2 else 1) })) ∧
    (∀ e, Executes 0x0A9 f s i → f.ext = some e →
      exec (.movi f) s = .next (i.retires s { vecs :=
        if f.mod = 10 then [Vec.splat ⟨e.setWidth 32, 10⟩, Vec.splat ⟨e.extractLsb' 32 32, 11⟩]
        else if f.mod = 16 then [Vec.splat ⟨e.setWidth 32, 0⟩, Vec.splat ⟨e.extractLsb' 32 32, 0⟩]
        else [Vec.splat ⟨e.setWidth 32, f.mod.setWidth 4⟩] })) ∧
    (Executes 0x0AA f s i →
      let x (l : Nat) : W64 := lane64 (i.srcA s) l +
        (if f.mod.toNat % 4 = 0 then (lane32 (i.srcB s) l).signExtend 64 else (lane32 (i.srcB s) l).setWidth 64) *
          BitVec.ofNat 64 (2 ^ (f.mod.toNat / 4))
      exec (.lea f) s = .next (i.retires s
        { vecs := [Vec.of fun l => ⟨(x l).setWidth 32, 0⟩, Vec.of fun l => ⟨(x l).extractLsb' 32 32, 0⟩] })) ∧
    (Executes 0x0D1 f s i →
      exec (.iota f) s = .next (i.retires s { vecs := [Vec.of fun l =>
        ⟨BitVec.ofNat 32 (((lane32 (i.srcA s) l).toNat + l * 2 ^ f.mod.toNat) % 2 ^ 32), 0⟩] }))) ∧
  -- DOT4 and SAD (R178): sums over bytes and halves. MOD[1:0] of DOT4 is 0 `.s8`, 1 `.n8`, 2 `.sn`, bit 2 `.sat`.
  (∀ (f : Form) (s : State) (i : Iss),
    let byte (v : List Vec) (l k : Nat) : BitVec 8 := (lane32 v l).extractLsb' (8 * k) 8
    let half (v : List Vec) (l k : Nat) : BitVec 16 := (lane32 v l).extractLsb' (16 * k) 16
    let kind := f.mod.toNat % 4
    let x (l k : Nat) : Int := if kind = 1 then ((byte (i.srcA s) l k).toNat : Int) else (byte (i.srcA s) l k).toInt
    let y (l k : Nat) : Int := if kind = 0 then (byte (i.srcB s) l k).toInt else ((byte (i.srcB s) l k).toNat : Int)
    let z (l : Nat) : Int := if kind = 1 then ((lane32 (i.srcC s) l).toNat : Int) else (lane32 (i.srcC s) l).toInt
    let dot (l : Nat) : Int := z l + x l 0 * y l 0 + x l 1 * y l 1 + x l 2 * y l 2 + x l 3 * y l 3
    let lo : Int := if kind = 1 then 0 else -2147483648
    let hi : Int := if kind = 1 then 4294967295 else 2147483647
    let db (l k : Nat) : Nat := (((byte (i.srcA s) l k).toNat : Int) - ((byte (i.srcB s) l k).toNat : Int)).natAbs
    let dh (l k : Nat) : Nat := (((half (i.srcA s) l k).toNat : Int) - ((half (i.srcB s) l k).toNat : Int)).natAbs
    let acc (l : Nat) : Nat := (lane32 (i.srcC s) l).toNat
    (Executes 0x0B0 f s i → exec (.dot4 f) s = .next (i.retires s { vecs := [Vec.of fun l =>
      ⟨BitVec.ofInt 32 (if 4 ≤ f.mod.toNat then max lo (min hi (dot l)) else dot l), 0⟩] })) ∧
    (Executes 0x0B1 f s i → exec (.sad f) s = .next (i.retires s { vecs := [Vec.of fun l =>
      ⟨BitVec.ofNat 32 (if f.mod = 0 then acc l + db l 0 + db l 1 + db l 2 + db l 3 else acc l + dh l 0 + dh l 1), 0⟩] })))

/-- Integer division (R177): its results, and the zero divisors that trap. -/
def Obligations.IntegerDivision : Prop :=
  -- IDIV (R177): unless an active lane divides by zero without `.nz`, the operation starts with the quotient, or under `.rem` the
  -- remainder, truncated towards zero, or with a held result (R144) writes it at once; division by zero gives all ones and the dividend; −2^(w−1) ÷ −1 does not trap.
  (∀ (f : Form) (s : State) (i : Iss), Executes 0x0B2 f s i →
    let w : Nat := if f.mod.toNat / 2 % 2 = 1 then 64 else 32
    let signed : Bool := decide (f.mod.toNat % 2 = 0)
    let a (l : Nat) : Int := laneInt w signed (i.srcA s) l
    let b (l : Nat) : Int := laneInt w signed (i.srcB s) l
    let q (l : Nat) : Int := if b l = 0 then -1 else (a l).tdiv (b l)
    let r (l : Nat) : Int := if b l = 0 then a l else a l - (a l).tdiv (b l) * b l
    let rem : Bool := decide (f.mod.toNat / 4 % 2 = 1)
    let vals := b32Vecs w (fun l => if rem then r l else q l)
    (8 ≤ f.mod.toNat ∨ (∀ l, l < 32 → i.act.getLsbD l = true → laneNat w (i.srcB s) l ≠ 0)) →
    ((s.reuseLookup i s.nextOp).2 = none →
      ∃ t w' o, exec (.idiv f) s = .next t ∧ t.wave? i.tid i.wid = some w' ∧ o ∈ w'.ops ∧ o.kind = .result ∧ o.lanes = i.act ∧
        o.dst = f.dst ∧ o.regs = opndRegs f.dst ∧ o.vals = vals) ∧
    ((s.reuseLookup i s.nextOp).2 ≠ none →
      ∃ t w', exec (.idiv f) s = .next t ∧ t.wave? i.tid i.wid = some w' ∧ w'.ops = i.wave.ops ∧
        (∀ l, l < 32 → i.lanes.getLsbD l = true → w'.pcs.getD l 0 = i.pc + i.len) ∧
        ∀ k n l, (opndRegs f.dst)[k]? = some n → k < vals.length → n < i.wave.vregs.length → l < 32 →
          i.wave.hazardsOf i.act (.reg n) = [] →
          (w'.vregs.getD n Vec.zero).lane l =
            if i.act.getLsbD l then (vals.getD k Vec.zero).lane l else (i.wave.vregs.getD n Vec.zero).lane l)) ∧
  -- A division by zero in an active lane without `.nz` (R177) takes ARITH with the zero-divisor lanes, and writes nothing.
  (∀ (f : Form) (s : State) (i : Iss), Executes 0x0B2 f s i → f.mod.toNat < 8 →
    let w : Nat := if f.mod.toNat / 2 % 2 = 1 then 64 else 32
    let zeros : Mask := laneMask fun l => i.act.getLsbD l && laneNat w (i.srcB s) l == 0
    zeros ≠ 0 → exec (.idiv f) s = .next (i.traps s ⟨.arith, 3, 8, 0, zeros, 0, 0⟩))

/-- Lane exchange (R189) and special registers (R190). -/
def Obligations.LaneAndSpecialRegisterReads : Prop :=
  -- LXCH and LANEBC (R189): a lane receives the value and tag of its source lane if that lane is active in the subset, its own
  -- otherwise; with `.p` (MOD 4 and up) kC records which lanes received one.
  (∀ (f : Form) (s : State) (i : Iss) (k : BitVec 8) (src : Nat → Nat), (4 ≤ f.mod.toNat → f.c = .k k) →
    let a := vec1 (i.srcA s) 0
    let n (l : Nat) : Nat := (lane32 (i.srcB s) l).toNat
    let result : State := i.retires s
      { vecs := [Vec.of fun l => if i.act.getLsbD (src l) then a.lane (src l) else a.lane l]
        pred := if 4 ≤ f.mod.toNat then some (k.toNat, laneMask fun l => i.act.getLsbD (src l)) else none }
    (Executes 0x0C0 f s i →
      (∀ l, l < 32 → src l = if f.mod.toNat % 4 = 0 then n l % 32 else if f.mod.toNat % 4 = 1 then (l + (32 - n l % 32)) % 32
        else if f.mod.toNat % 4 = 2 then (l + n l) % 32 else l ^^^ (n l % 32)) →
      exec (.lxch f) s = .next result) ∧
    (Executes 0x0C1 f s i →
      (∀ l, l < 32 → src l = if f.mod.toNat % 4 = 1 then lowest i.act else n (lowest i.act) % 32) →
      exec (.lanebc f) s = .next result)) ∧
  -- RDS (R190): the special register that MOD selects, in every lane; LANE differs by lane, TSC and CLOCK write a pair.
  (∀ (f : Form) (s : State) (i : Iss), Executes 0x0D0 f s i →
    let one (x : Nat) : Prop := exec (.rds f) s = .next (i.retires s { vecs := [Vec.of fun _ => ⟨BitVec.ofNat 32 x, 0⟩] })
    let two (x : W64) : Prop := exec (.rds f) s = .next (i.retires s
      { vecs := [Vec.of fun _ => ⟨x.setWidth 32, 0⟩, Vec.of fun _ => ⟨x.extractLsb' 32 32, 0⟩] })
    (f.mod = 0 → exec (.rds f) s = .next (i.retires s { vecs := [Vec.of fun l => ⟨BitVec.ofNat 32 l, 0⟩] })) ∧
    (f.mod = 1 → one i.wave.slot) ∧ (f.mod = 2 → one i.wid) ∧ (f.mod = 3 → one i.wave.role.ctorIdx) ∧
    (f.mod = 4 → one i.team.tx) ∧ (f.mod = 5 → one i.team.ty) ∧ (f.mod = 6 → one i.team.tz) ∧
    (f.mod = 7 → one i.launch.packet.dx) ∧ (f.mod = 8 → one i.launch.packet.dy) ∧ (f.mod = 9 → one i.launch.packet.dz) ∧
    (f.mod = 10 → one i.launch.packet.gx) ∧ (f.mod = 11 → one i.launch.packet.gy) ∧ (f.mod = 12 → one i.launch.packet.gz) ∧
    (f.mod = 13 → one i.team.coreLog) ∧ (f.mod = 14 → one (i.team.core % 36)) ∧ (f.mod = 15 → one i.team.dieLog) ∧
    (f.mod = 16 → one (i.team.core / 36)) ∧ (f.mod = 17 → one i.launch.part) ∧ (f.mod = 18 → one i.launch.depth) ∧
    (f.mod = 19 → two s.tsc) ∧ (f.mod = 20 → two
      (BitVec.ofNat 64 (((s.spindle (i.team.core / 36)).clkTicks - (s.spindle (i.team.core / 36)).clkBase) / 6))))

/-- Floating-point arithmetic in its three widths (R216-R219, R222-R224), and the mode and flags (R233, R234). -/
def Obligations.FloatArithmeticResults : Prop :=
  -- FP32 arithmetic (R216, R217): with F32 sources in every active lane, FADD, FSUB, FMUL and FFMA round the exact result once
  -- under the wave's mode, FMIN and FMAX select; the destination is tagged F32 and each active lane raises its flags.
  (∀ (f : Form) (s : State) (i : Iss),
    let rm := (i.readMode s).1
    let ftz := (i.readMode s).2
    let a (l : Nat) : Nat := (lane32 (i.srcA s) l).toNat
    let b (l : Nat) : Nat := (lane32 (i.srcB s) l).toNat
    let c (l : Nat) : Nat := (lane32 (i.srcC s) l).toNat
    let result (g : Nat → Nat × Flg) : State := i.retires s
      { vecs := [lanes32.map fun l => ⟨BitVec.ofNat 32 (g l).1, 1⟩], flags := lanes32.map fun l => (g l).2 }
    let ab := i.checkTags [(2, i.srcA s, [1]), (3, i.srcB s, [1])] = none
    let abc := i.checkTags [(2, i.srcA s, [1]), (3, i.srcB s, [1]), (4, i.srcC s, [1])] = none
    (Executes 0x180 f s i → ab → exec (.fadd f) s = .next (result fun l => fmtF32.add rm ftz false (a l) (b l))) ∧
    (Executes 0x181 f s i → ab → exec (.fsub f) s = .next (result fun l => fmtF32.add rm ftz true (a l) (b l))) ∧
    (Executes 0x182 f s i → ab → exec (.fmul f) s = .next (result fun l => fmtF32.mul rm ftz (a l) (b l))) ∧
    (Executes 0x183 f s i → abc →
      exec (.ffma f) s = .next (result fun l => fmtF32.fma rm ftz (f.mod.getLsbD 4) (a l) (b l) (c l))) ∧
    (Executes 0x184 f s i → ab → exec (.fmin f) s = .next (result fun l => (fmtF32.minMax ftz false (a l) (b l), 0))) ∧
    (Executes 0x185 f s i → ab → exec (.fmax f) s = .next (result fun l => (fmtF32.minMax ftz true (a l) (b l), 0)))) ∧
  -- FCMP (R218) and FCLASS (R219): all ones or zero, and the class mask, tagged B32, in FP32 and FP64.
  (∀ (f : Form) (s : State) (i : Iss),
    let ftz := (i.readMode s).2
    let result (g : Nat → Nat × Flg) : State := i.retires s
      { vecs := [lanes32.map fun l => ⟨BitVec.ofNat 32 (g l).1, 0⟩], flags := lanes32.map fun l => (g l).2 }
    let holds (c : Bool × Flg) : Nat × Flg := (if c.1 then 0xFFFFFFFF else 0, c.2)
    (Executes 0x186 f s i → f.mod.toNat < 8 → i.checkTags [(2, i.srcA s, [1]), (3, i.srcB s, [1])] = none →
      exec (.fcmp f) s = .next (result fun l => holds (fcmpHolds (f.mod.toNat % 8)
        (fmtF32.decodeIn ftz (lane32 (i.srcA s) l).toNat) (fmtF32.decodeIn ftz (lane32 (i.srcB s) l).toNat)))) ∧
    (Executes 0x186 f s i → 8 ≤ f.mod.toNat → i.checkTags [(2, i.srcA s, [10, 11]), (3, i.srcB s, [10, 11])] = none →
      exec (.fcmp f) s = .next (result fun l => holds (fcmpHolds (f.mod.toNat % 8)
        (fmtF64.decode (lane64 (i.srcA s) l).toNat) (fmtF64.decode (lane64 (i.srcB s) l).toNat)))) ∧
    (Executes 0x187 f s i → f.mod ≠ 12 → i.checkTags [(2, i.srcA s, [1])] = none →
      exec (.fclass f) s = .next (result fun l => (fmtF32.classify (lane32 (i.srcA s) l).toNat, 0))) ∧
    (Executes 0x187 f s i → f.mod = 12 → i.checkTags [(2, i.srcA s, [10, 11])] = none →
      exec (.fclass f) s = .next (result fun l => (fmtF64.classify (lane64 (i.srcA s) l).toNat, 0)))) ∧
  -- Packed and FP64 arithmetic (R222-R224): PKADD, PKMUL and PKFMA element-wise on two halves, BFMA2 with one rounding, DADD, DMUL
  -- and DFMA on pairs, without FTZ.
  (∀ (f : Form) (s : State) (i : Iss),
    let rm := (i.readMode s).1
    let ftz := (i.readMode s).2
    let fm : Fmt := if f.mod.toNat % 16 = 11 then fmtBf16 else fmtF16
    let tag : Nat := if f.mod.toNat % 16 = 11 then 3 else 2
    let va := i.srcA s
    let vb := i.srcB s
    let vc := i.srcC s
    let h (v : List Vec) (l k : Nat) : Nat := ((lane32 v l).extractLsb' (16 * k) 16).toNat
    let packed (g : Nat → Nat → Nat × Flg) : State := i.retires s
      { vecs := [lanes32.map fun l => ⟨BitVec.ofNat 32 ((g l 0).1 + (g l 1).1 * 65536), BitVec.ofNat 4 tag⟩]
        flags := lanes32.map fun l => (g l 0).2 ||| (g l 1).2 }
    let double (g : Nat → Nat × Flg) : State := i.retires s
      { vecs := [lanes32.map fun l => ⟨BitVec.ofNat 32 (g l).1, 10⟩, lanes32.map fun l => ⟨BitVec.ofNat 32 ((g l).1 / 2 ^ 32), 11⟩]
        flags := lanes32.map fun l => (g l).2 }
    let d (v : List Vec) (l : Nat) : Nat := (lane64 v l).toNat
    (Executes 0x1A0 f s i → i.checkTags [(2, va, [tag]), (3, vb, [tag])] = none →
      exec (.pkadd f) s = .next (packed fun l k => fm.add rm ftz false (h va l k) (h vb l k))) ∧
    (Executes 0x1A1 f s i → i.checkTags [(2, va, [tag]), (3, vb, [tag])] = none →
      exec (.pkmul f) s = .next (packed fun l k => fm.mul rm ftz (h va l k) (h vb l k))) ∧
    (Executes 0x1A2 f s i → i.checkTags [(2, va, [tag]), (3, vb, [tag]), (4, vc, [tag])] = none →
      exec (.pkfma f) s = .next (packed fun l k => fm.fma rm ftz (f.mod.getLsbD 4) (h va l k) (h vb l k) (h vc l k))) ∧
    (Executes 0x1A3 f s i → i.checkTags [(2, va, [3]), (3, vb, [3]), (4, vc, [1])] = none →
      exec (.bfma2 f) s = .next (i.retires s
        { vecs := [lanes32.map fun l => ⟨BitVec.ofNat 32 (bfma2Lane rm ftz (lane32 va l) (lane32 vb l) (lane32 vc l)).1, 1⟩]
          flags := lanes32.map fun l => (bfma2Lane rm ftz (lane32 va l) (lane32 vb l) (lane32 vc l)).2 })) ∧
    (Executes 0x1B0 f s i → i.checkTags [(2, va, [10, 11]), (3, vb, [10, 11])] = none →
      exec (.dadd f) s = .next (double fun l => fmtF64.add rm false (f.mod.getLsbD 4) (d va l) (d vb l))) ∧
    (Executes 0x1B1 f s i → i.checkTags [(2, va, [10, 11]), (3, vb, [10, 11])] = none →
      exec (.dmul f) s = .next (double fun l => fmtF64.mul rm false (d va l) (d vb l))) ∧
    (Executes 0x1B2 f s i → i.checkTags [(2, va, [10, 11]), (3, vb, [10, 11]), (4, vc, [10, 11])] = none →
      exec (.dfma f) s = .next (double fun l => fmtF64.fma rm false (f.mod.getLsbD 4) (d va l) (d vb l) (d vc l)))) ∧
  -- FSETMODE (R233) writes the old mode and sets RM and FTZ from the lowest active lane; FFLAGS (R234) writes each active lane's flags
  -- and clears those whose bit of b is 1.
  (∀ (f : Form) (s : State) (i : Iss),
    let b (l : Nat) : W32 := lane32 (i.srcB s) l
    (Executes 0x1E0 f s i →
      exec (.fsetmode f) s = .next (i.retires s
        { vecs := [Vec.splat ⟨BitVec.ofNat 32 ((i.readMode s).1.toNat * 64 + (if (i.readMode s).2 then 32 else 0)), 0⟩]
          mode := some ((b (lowest i.act)).extractLsb' 6 2, (b (lowest i.act)).getLsbD 5) })) ∧
    (Executes 0x1E1 f s i →
      exec (.fflags f) s = .next (i.retires s
        { vecs := [Vec.of fun l => ⟨(i.readFlags s l).setWidth 32, 0⟩], clear := lanes32.map fun l => (b l).setWidth 5 })))

/-- Special functions (R220, R221). -/
def Obligations.SpecialFunctionResults : Prop :=
  -- FRCP, FRSQ, FSQRT, FEXP2, FLOG2, FSIN, FCOS and FTANH (R220, R221) complete on every F32 operand: each lane's result and flags
  -- are a function of the operand's bits and the mode alone.
  (∀ (f : Form) (s : State) (i : Iss), i.checkTags [(2, i.srcA s, [1])] = none →
    let result (opc : Nat) : State :=
      let g (l : Nat) : Nat × Flg := specialLane opc (i.readMode s).1 (i.readMode s).2 (lane32 (i.srcA s) l).toNat
      i.retires s { vecs := [lanes32.map fun l => ⟨BitVec.ofNat 32 (g l).1, 1⟩], flags := lanes32.map fun l => (g l).2 }
    (Executes 0x190 f s i → exec (.frcp f) s = .next (result 0x190)) ∧
    (Executes 0x191 f s i → exec (.frsq f) s = .next (result 0x191)) ∧
    (Executes 0x192 f s i → exec (.fsqrt f) s = .next (result 0x192)) ∧
    (Executes 0x193 f s i → exec (.fexp2 f) s = .next (result 0x193)) ∧
    (Executes 0x194 f s i → exec (.flog2 f) s = .next (result 0x194)) ∧
    (Executes 0x195 f s i → exec (.fsin f) s = .next (result 0x195)) ∧
    (Executes 0x196 f s i → exec (.fcos f) s = .next (result 0x196)) ∧
    (Executes 0x197 f s i → exec (.ftanh f) s = .next (result 0x197))) ∧
  -- The special cases that R221 lists: reciprocal and reciprocal root of zeros and infinities, and NaN, with FTZ off.
  (∀ rm : BitVec 2,
    specialLane 0x190 rm false 0x00000000 = (0x7F800000, fDZ) ∧ specialLane 0x190 rm false 0x80000000 = (0xFF800000, fDZ) ∧
    specialLane 0x190 rm false 0x7F800000 = (0, 0) ∧ specialLane 0x190 rm false 0xFF800000 = (0x80000000, 0) ∧
    specialLane 0x191 rm false 0x80000000 = (0xFF800000, fDZ) ∧ specialLane 0x191 rm false 0xBF800000 = (0x7FC00000, fNV) ∧
    specialLane 0x192 rm false 0xBF800000 = (0x7FC00000, fNV) ∧ specialLane 0x192 rm false 0x80000000 = (0x80000000, 0) ∧
    specialLane 0x193 rm false 0x7F800000 = (0x7F800000, 0) ∧ specialLane 0x193 rm false 0xFF800000 = (0, 0) ∧
    specialLane 0x194 rm false 0x00000000 = (0xFF800000, fDZ) ∧ specialLane 0x194 rm false 0xFF800000 = (0x7FC00000, fNV) ∧
    specialLane 0x195 rm false 0x7F800000 = (0x7FC00000, fNV) ∧ specialLane 0x196 rm false 0x00000000 = (0x3F800000, 0) ∧
    specialLane 0x197 rm false 0x7F800000 = (0x3F800000, 0) ∧
    (∀ opc, 0x190 ≤ opc → opc ≤ 0x197 → specialLane opc rm false 0x7FC00000 = (0x7FC00000, 0)))

/-- A source that lacks its tag in an active lane takes TAG (R206), for every instruction that checks tags: the sources are checked in
field order, an immediate passes, and the trap of the first that fails is taken with its field, the mask of exactly its failing lanes
and, of the lowest of them, the tag found and the tag required (R387); nothing else happens. A reserved tag fails every check (R204). -/
def Obligations.WrongTagTraps : Prop :=
  ∀ (f : Form) (s : State) (i : Iss),
    let mod := f.mod.toNat
    let lacks (v : List Vec) (req : List Nat) (l : Nat) : Prop := ∃ k, k < req.length ∧ (vec1 v k).tagAt l ≠ BitVec.ofNat 4 (req.getD k 0)
    -- a check: the operand field, the lanes checked, the source's vectors and the tag required of each vector.
    let bad (x : Nat × Mask × List Vec × List Nat) (l : Nat) : Prop := l < 32 ∧ x.2.1.getLsbD l = true ∧ lacks x.2.2.1 x.2.2.2 l
    let wrong (x : Nat × Mask × List Vec × List Nat) (t : Trap) : Prop :=
      t.cls = .tag ∧ t.field = x.1 ∧ t.check = 7 ∧ (∀ l, t.lanes.getLsbD l = true ↔ bad x l) ∧
      ∃ l k, bad x l ∧ (∀ j, j < l → ¬ bad x j) ∧ (vec1 x.2.2.1 k).tagAt l ≠ BitVec.ofNat 4 (x.2.2.2.getD k 0) ∧
        t.detail = BitVec.ofNat 64 (((vec1 x.2.2.1 k).tagAt l).toNat + 16 * x.2.2.2.getD k 0)
    let traps (checks : List (Nat × Mask × List Vec × List Nat)) (ins : Instr) : Prop :=
      ∀ before x after, checks = before ++ x :: after → (∀ y ∈ before, ∀ l, ¬ bad y l) → (∃ l, bad x l) →
        ∃ t, wrong x t ∧ exec ins s = .next (i.traps s t)
    let a (req : List Nat) : List (Nat × Mask × List Vec × List Nat) := [(2, i.act, i.srcA s, req)]
    let b (req : List Nat) : List (Nat × Mask × List Vec × List Nat) := if i.immB then [] else [(3, i.act, i.srcB s, req)]
    let c (req : List Nat) : List (Nat × Mask × List Vec × List Nat) := [(4, i.act, i.srcC s, req)]
    let pair : List Nat := [10, 11]
    let scale : List (Nat × Mask × List Vec × List Nat) := [(4, 1#32 <<< lowest i.act, i.srcC s, [1])]
    -- the FP32 arithmetic, comparisons, classes and special functions (R216-R220).
    (Executes 0x180 f s i → traps (a [1] ++ b [1]) (.fadd f)) ∧ (Executes 0x181 f s i → traps (a [1] ++ b [1]) (.fsub f)) ∧
    (Executes 0x182 f s i → traps (a [1] ++ b [1]) (.fmul f)) ∧ (Executes 0x183 f s i → traps (a [1] ++ b [1] ++ c [1]) (.ffma f)) ∧
    (Executes 0x184 f s i → traps (a [1] ++ b [1]) (.fmin f)) ∧ (Executes 0x185 f s i → traps (a [1] ++ b [1]) (.fmax f)) ∧
    (Executes 0x186 f s i → mod < 8 → traps (a [1] ++ b [1]) (.fcmp f)) ∧ (Executes 0x186 f s i → 8 ≤ mod → traps (a pair ++ b pair) (.fcmp f)) ∧
    (Executes 0x187 f s i → mod ≠ 12 → traps (a [1]) (.fclass f)) ∧ (Executes 0x187 f s i → mod = 12 → traps (a pair) (.fclass f)) ∧
    (Executes 0x190 f s i → traps (a [1]) (.frcp f)) ∧ (Executes 0x191 f s i → traps (a [1]) (.frsq f)) ∧
    (Executes 0x192 f s i → traps (a [1]) (.fsqrt f)) ∧ (Executes 0x193 f s i → traps (a [1]) (.fexp2 f)) ∧
    (Executes 0x194 f s i → traps (a [1]) (.flog2 f)) ∧ (Executes 0x195 f s i → traps (a [1]) (.fsin f)) ∧
    (Executes 0x196 f s i → traps (a [1]) (.fcos f)) ∧ (Executes 0x197 f s i → traps (a [1]) (.ftanh f)) ∧
    -- the packed and FP64 arithmetic (R222-R224): tag 3 for BF16, 2 for FP16.
    (let half : List Nat := if mod % 16 = 11 then [3] else [2]
     (Executes 0x1A0 f s i → traps (a half ++ b half) (.pkadd f)) ∧ (Executes 0x1A1 f s i → traps (a half ++ b half) (.pkmul f)) ∧
     (Executes 0x1A2 f s i → traps (a half ++ b half ++ c half) (.pkfma f))) ∧
    (Executes 0x1A3 f s i → traps (a [3] ++ b [3] ++ c [1]) (.bfma2 f)) ∧
    (Executes 0x1B0 f s i → traps (a pair ++ b pair) (.dadd f)) ∧ (Executes 0x1B1 f s i → traps (a pair ++ b pair) (.dmul f)) ∧
    (Executes 0x1B2 f s i → traps (a pair ++ b pair ++ c pair) (.dfma f)) ∧
    -- conversions (R226-R229): CVT by its MOD, `.as` with a source B tagged ACC or reserved, QCVT and DQCVT with the scale's lane.
    (Executes 0x1C0 f s i → mod < 27 →
      traps (((cvtTags mod).1.elim [] a) ++ ((cvtTags mod).2.1.elim [] b) ++ ((cvtTags mod).2.2.elim [] c)) (.cvt f)) ∧
    (Executes 0x1C0 f s i → mod = 27 →
      let refused (l : Nat) : Prop := l < 32 ∧ i.act.getLsbD l = true ∧ 12 ≤ ((vec1 (i.srcB s) 0).tagAt l).toNat
      (∃ l, refused l) → ∃ t, t.cls = .tag ∧ t.field = 3 ∧ t.check = 7 ∧ (∀ l, t.lanes.getLsbD l = true ↔ refused l) ∧
        (∃ l, refused l ∧ (∀ j, j < l → ¬ refused j) ∧ t.detail.extractLsb' 0 4 = (vec1 (i.srcB s) 0).tagAt l ∧
          t.detail.getLsbD 8 = ((vec1 (i.srcB s) 0).tagAt l == 12)) ∧
        exec (.cvt f) s = .next (i.traps s t)) ∧
    (Executes 0x1C1 f s i → traps (a [1] ++ (if mod = 0 then [(3, i.act, i.srcB s, [1])] else []) ++ scale) (.qcvt f)) ∧
    (Executes 0x1C2 f s i →
      traps ([(2, i.act &&& laneMask fun k => (maskLanes i.act).any fun l => dqcvtLane mod l == k, i.srcA s, [dqcvtTag mod])] ++
        (if mod < 2 then [(3, i.act &&& (1#32 <<< 8), i.srcB s, [0])] else []) ++ scale) (.dqcvt f)) ∧
    -- matrix operations (R241, R248, R253): 8 registers of A, 2 of B, and 8 of C where C is read.
    (let blocks (ta tb : Nat) : List (Nat × Mask × List Vec × List Nat) := a (List.replicate 8 ta) ++ [(3, i.act, i.srcB s, [tb, tb])] ++
       (if 16 ≤ mod then [] else c (List.replicate 8 12))
     (Executes 0x280 f s i → traps (blocks (mmaTags (mod % 16)).1 (mmaTags (mod % 16)).2) (.mma f)) ∧
     (Executes 0x281 f s i → traps (blocks 9 9) (.mmaq f))) ∧
    (Executes 0x291 f s i →
      traps (a (acccvtTags mod).1 ++ ((acccvtTags mod).2.1.elim [] b) ++ ((acccvtTags mod).2.2.elim [] c)) (.acccvt f)) ∧
    -- the FP atomics (R311) and the amax ring (R230).
    (Executes 0x310 f s i → ∀ ts, atomSrcTags mod = some ts → traps [(3, i.act, i.srcB s, ts)] (.atom f)) ∧
    (Executes 0x311 f s i → ∀ ts, atomSrcTags mod = some ts → traps [(3, i.act, i.srcB s, ts)] (.red f)) ∧
    (Executes 0x1D0 f s i → traps [(3, i.act, i.srcB s, [mod - 9 + 1])] (.amaxr f))

/-- Every NaN that FP arithmetic writes is its format's canonical NaN (R194), whatever NaN the operands held. -/
def Obligations.NanResultsAreCanonical : Prop :=
  ∀ fm ∈ [fmtF32, fmtF16, fmtBf16, fmtF64], ∀ (rm : BitVec 2) (ftz neg isMax : Bool) (a b c : Nat),
    (fm.decode (fm.add rm ftz neg a b).1 = .nan → (fm.add rm ftz neg a b).1 = fm.nanBits) ∧
    (fm.decode (fm.mul rm ftz a b).1 = .nan → (fm.mul rm ftz a b).1 = fm.nanBits) ∧
    (fm.decode (fm.fma rm ftz neg a b c).1 = .nan → (fm.fma rm ftz neg a b c).1 = fm.nanBits) ∧
    (fm.decode (fm.minMax ftz isMax a b) = .nan → fm.minMax ftz isMax a b = fm.nanBits)

/-- CVT, QCVT and DQCVT (R225-R229): with the tags that each form requires, they complete with the value of each lane, or of the
whole 64- or 32-element block, rounded once. -/
def Obligations.ConversionResults : Prop :=
  ∀ (f : Form) (s : State) (i : Iss),
    let mod := f.mod.toNat
    let rm := (i.readMode s).1
    let va := i.srcA s
    let vb := i.srcB s
    let vc := i.srcC s
    let m := lowest i.act
    let one (tag : Nat) (g : Nat → Nat × Flg) : State := i.retires s
      { vecs := [lanes32.map fun l => ⟨BitVec.ofNat 32 (g l).1, BitVec.ofNat 4 tag⟩], flags := lanes32.map fun l => (g l).2 }
    let tagged : Prop := i.checkTags (((cvtTags mod).1.map fun t => (2, va, t)).toList ++
      ((cvtTags mod).2.1.map fun t => (3, vb, t)).toList ++ ((cvtTags mod).2.2.map fun t => (4, vc, t)).toList) = none
    (Executes 0x1C0 f s i → mod ≠ 14 → mod < 27 → tagged →
      exec (.cvt f) s = .next (one (cvtLane mod rm 0 0 0 0).1 fun l =>
        (cvtLane mod rm (lane32 va l) (lane32 vb l) (lane32 vc l) (lane64 va l).toNat).2)) ∧
    (Executes 0x1C0 f s i → mod = 14 → tagged →
      exec (.cvt f) s = .next (i.retires s (fpOut64 fun l => ((fmtF64.ofVal 0 false (fmtF32.decode (lane32 va l).toNat)).1, 0)))) ∧
    (Executes 0x1C0 f s i → mod = 27 → (∀ l, l < 32 → i.act.getLsbD l = true → ((vec1 vb 0).tagAt l).toNat < 12) →
      exec (.cvt f) s = .next (i.retires s { vecs := [Vec.of fun l => ⟨lane32 va l, (vec1 vb 0).tagAt l⟩] })) ∧
    (Executes 0x1C0 f s i → 28 ≤ mod →
      exec (.cvt f) s = .next (i.retires s { vecs :=
        [Vec.of fun l => ⟨(vec1 va 0).val l, if mod = 28 then 10 else 0⟩,
         Vec.of fun l => ⟨(vec1 va 1).val l, if mod = 28 then 11 else 0⟩] })) ∧
    (Executes 0x1C1 f s i → mod = 0 → i.checkTag 2 i.act va [1] = none → i.checkTag 3 i.act vb [1] = none →
      i.checkTag 4 (1#32 <<< m) vc [1] = none →
      exec (.qcvt f) s = .next (i.retires s (qcvtQn4 i va vb vc))) ∧
    (Executes 0x1C1 f s i → mod ≠ 0 → i.checkTag 2 i.act va [1] = none → i.checkTag 4 (1#32 <<< m) vc [1] = none →
      exec (.qcvt f) s = .next (i.retires s (qcvtOut i mod rm va vc))) ∧
    (Executes 0x1C2 f s i →
      i.checkTag 2 (i.act &&& laneMask fun k => (maskLanes i.act).any fun l => dqcvtLane mod l == k) va [dqcvtTag mod] = none →
      (mod < 2 → i.checkTag 3 (i.act &&& (1#32 <<< 8)) vb [0] = none) → i.checkTag 4 (1#32 <<< m) vc [1] = none →
      exec (.dqcvt f) s = .next (one 1 fun l =>
        if mod < 2 then
          decodeQn4 (elem 4 (zeroLane i.act va (dqcvtLane mod l)) (l % 8)) ((zeroLane i.act vb 8).toNat % 256) (lane32 vc m).toNat
        else fmtF32.divVal rm false (dqcvtVal mod l (zeroLane i.act va (dqcvtLane mod l))) (f32 (lane32 vc m).toNat)))

/-! ## Matrix instructions -/

/-- Matrix operations (R241-R254). -/
def Obligations.MatrixOperationsStart : Prop :=
  -- MMA, MMAQ and SCRD (R241-R251): with the tags that R241 requires of the blocks, they start a class V operation with its whole
  -- result: for MMA and MMAQ 8 vectors tagged ACC, a row outside the row predicate passing C through, each other element the
  -- accumulation of its products (for the integer types the sum modulo 2^32); for SCRD a word of the scale window per lane.
  (∀ (f : Form) (s : State) (i : Iss),
    let t := f.mod.toNat % 16
    let z : Bool := decide (16 ≤ f.mod.toNat)
    let va := i.srcA s
    let vb := i.srcB s
    let vc := i.srcC s
    let rowp := bits (f.ext.getD 0) 0 4
    let rows : Mask := if rowp = 0 then i.act else i.act &&& i.readPred s (rowp - 1)
    let tags (ta tb : Nat) : Prop := i.checkTag 2 i.act va (List.replicate 8 ta) = none ∧ i.checkTag 3 i.act vb [tb, tb] = none ∧
      (z = false → i.checkTag 4 i.act vc (List.replicate 8 12) = none)
    let cv (m n : Nat) : Nat := if z then 0 else ((vec1 vc n).val m).toNat
    let starts (ins : Instr) (element : Nat → Nat → Nat) : Prop :=
      ∃ u o, exec ins s = .next u ∧ i.Begins u o ∧ o.kind = .matrix ∧ o.counted = some 2 ∧ o.lanes = i.act ∧ o.dst = f.dst ∧
        o.vals.length = 8 ∧ ∀ m n, m < 32 → n < 8 → (o.vals.getD n Vec.zero).lane m =
          ⟨BitVec.ofNat 32 (if rows.getLsbD m then element m n else cv m n), 12⟩
    (Executes 0x280 f s i → tags (mmaTags t).1 (mmaTags t).2 → t < 6 →
      starts (.mma f) fun m n => (accumulate (cv m n) ((List.range (256 / mmaWidth t)).map fun k =>
        mmaProduct ((mmaFmts t).1.decode (elemA (mmaWidth t) va m k)) ((mmaFmts t).2.decode (elemB (mmaWidth t) i.act vb k n)))).1) ∧
    (Executes 0x280 f s i → tags (mmaTags t).1 (mmaTags t).2 → 6 ≤ t →
      let signed (b : Bool) (x : Nat) : Int := if b then sInt (mmaWidth t) x else (x : Int)
      starts (.mma f) fun m n => (((List.range (256 / mmaWidth t)).foldl (fun (acc : Int) k =>
        acc + signed (t % 3 != 1) (elemA (mmaWidth t) va m k) * signed (t % 3 == 0) (elemB (mmaWidth t) i.act vb k n))
          (cv m n : Int)) % 2 ^ 32).toNat) ∧
    (Executes 0x281 f s i → tags 9 9 →
      starts (.mmaq f) fun m n => (mmaQn4 i.wave (f.ext.getD 0) i.act va vb (cv m n) m n).1) ∧
    (Executes 0x289 f s i →
      ∃ u o, exec (.scrd f) s = .next u ∧ i.Begins u o ∧ o.kind = .result ∧ o.counted = none ∧ o.lanes = i.act ∧ o.dst = f.dst ∧
        o.vals = [Vec.of fun l => ⟨i.wave.window.extractLsb' (8 * (128 * f.mod.toNat + 4 * l)) 32, 0⟩])) ∧
  -- FRAGX (R252) gathers a word of an 8-register block from an active source lane, or keeps its own lane's; ACCCVT (R253) converts
  -- accumulators under the tags that its form requires.
  (∀ (f : Form) (s : State) (i : Iss),
    let mod := f.mod.toNat
    let va := i.srcA s
    let vb := i.srcB s
    let vc := i.srcC s
    let r (l : Nat) : Nat := ((lane32 vb l).extractLsb' 0 3).toNat
    let src (l : Nat) : Nat := ((lane32 vb l).extractLsb' 8 5).toNat
    let tags := acccvtTags mod
    (Executes 0x290 f s i → exec (.fragx f) s = .next (i.retires s
      { vecs := [Vec.of fun l => if i.act.getLsbD (src l) then (vec1 va (r l)).lane (src l) else (vec1 va (r l)).lane l] })) ∧
    (Executes 0x291 f s i →
      i.checkTags ([(2, va, tags.1)] ++ (tags.2.1.map fun t => (3, vb, t)).toList ++ (tags.2.2.map fun t => (4, vc, t)).toList) = none →
      let g (l : Nat) : Nat × Flg := (acccvtLane mod (lane32 va l) (lane32 vb l) (lane32 vc l)).2
      exec (.acccvt f) s = .next (i.retires s
        { vecs := [lanes32.map fun l => ⟨BitVec.ofNat 32 (g l).1, BitVec.ofNat 4 (acccvtLane mod 0 0 0).1⟩]
          flags := lanes32.map fun l => (g l).2 })))

/-! ## Memory instructions -/

/-- LD, LDK and SCLD (R249, R307, R308): once their checks pass and nothing holds them, they start a load of the checked pieces,
counted in MEM, whose destination waits for it; a load whose key the reuse table holds writes the entry's results at once and is
counted in issue order, with no request (R142, R144, R324). -/
def Obligations.LoadsStart : Prop :=
  ∀ (f : Form) (s : State) (i : Iss) (ps : List Piece),
    let need : Need := ⟨true, false, false⟩
    let as (width : Nat) := i.accesses s (maskLanes i.act) width need false
    let goes (width : Nat) : Prop := i.verdict s (as width) need = .ok ps ∧ i.LoadGoes (s.fillTlbs i (as width)) (as width) ps
    let c := (s.fillTlbs i (as (kindBytes f.mod.toNat))).core i.team.core
    let key : ReuseEntry := { i.reuseKey with isLoad := true, epoch := c.epoch }
    let hit : Option ReuseEntry := if i.loadEligible then c.reuse.find? fun e => e.sameKey key else none
    let starts (ins : Instr) (k : OpKind) : Prop :=
      ∃ u o, exec ins s = .next u ∧ i.Begins u o ∧ o.kind = k ∧ o.counted = some 0 ∧ o.pieces = ps ∧ o.lanes = i.act ∧ o.dst = f.dst ∧
        o.regs = opndRegs f.dst ∧ o.dom = i.dom ∧ o.ready = false
    let reuses (ins : Instr) (e : ReuseEntry) : Prop :=
      ∃ u w o, exec ins s = .next u ∧ u.wave? i.tid i.wid = some w ∧ o.counted = some 0 ∧ o.ready = true ∧
        (∀ x ∈ w.ops, x = o ∨ x ∈ i.wave.ops) ∧ (i.wave.ops = [] → w.ops = [] ∧ w.mem = i.wave.mem) ∧
        (∀ l, l < 32 → i.lanes.getLsbD l = true → w.pcs.getD l 0 = i.pc + i.len) ∧
        (∀ n, n ∉ opndRegs f.dst → w.vregs.getD n Vec.zero = i.wave.vregs.getD n Vec.zero) ∧
        (∀ k n l, (opndRegs f.dst)[k]? = some n → k < e.results.length → n < i.wave.vregs.length → l < 32 →
          i.wave.hazardsOf i.act (.reg n) = [] → (w.vregs.getD n Vec.zero).lane l =
            if i.act.getLsbD l then ((c.cnf.get? (e.results.getD k 0)).elim Vec.zero CnfEntry.vec).legal.lane l
            else (i.wave.vregs.getD n Vec.zero).lane l)
    (Executes 0x300 f s i → goes (kindBytes f.mod.toNat) → hit = none → starts (.ld f) (.load f.mod)) ∧
    (Executes 0x301 f s i → goes (kindBytes f.mod.toNat) → hit = none → starts (.ldk f) (.load f.mod)) ∧
    (∀ e, Executes 0x300 f s i → goes (kindBytes f.mod.toNat) → hit = some e → reuses (.ld f) e) ∧
    (∀ e, Executes 0x301 f s i → goes (kindBytes f.mod.toNat) → hit = some e → reuses (.ldk f) e) ∧
    (Executes 0x288 f s i → goes 4 → starts (.scld f) (.scld (f.mod.getLsbD 0)))

/-- ST (R279, R295, R310): the store is counted in MEM and its bytes, each piece at the address its lane computes, join the queue of
its domain at the core, the second 8-byte parts of 16-byte accesses to follow the first ones. Beside the undefined contents that a
page of private memory has at its first use (R70), nothing reaches memory, a home slice or an L1 yet, nor the stash unless the store
is a release at CLUS or wider, or pops a ring. -/
def Obligations.StoresAreQueued : Prop :=
  ∀ (f : Form) (s : State) (i : Iss) (ps : List Piece),
    let need : Need := ⟨false, true, false⟩
    let as := i.accesses s (maskLanes i.act) (kindBytes f.mod.toNat) need false
    let s1 := s.fillTlbs i as
    let q := (s.core i.team.core).sq.getD (netOf i.dom) []
    let bytes (ps : List Piece) := ps.map (fun p => (p.lane, p.place, ((storeBytes f.mod.toNat (i.srcB s) p.lane).drop p.at_).take p.len))
    Executes 0x308 f s i → i.verdict s as need = .ok ps → i.StoreGoes s1 as ps →
    ((∀ a ∈ as, apertureOf a.ea ≠ .priv) → s1.mem = s.mem ∧ s1.slices = s.slices ∧ ∀ c, (s1.core c).l1 = (s.core c).l1) ∧
    ∃ u o e, exec (.st f) s = .next u ∧ i.Begins u o ∧ o.kind = .store ∧ o.counted = some 0 ∧ o.pieces = ps ∧ o.lanes = i.act ∧
      e.op = o.id ∧ e.team = i.tid ∧ e.wave = i.wid ∧ e.dom = i.dom ∧ e.order = i.order ∧ e.scope = i.scope ∧ e.sent = false ∧
      e.parts = bytes (ps.filter fun p => !p.second) ∧ e.rest = bytes (ps.filter Piece.second) ∧
      ((releases i.order = false ∨ i.scope.ctorIdx < 2) →
        (u.core i.team.core).sq.getD (netOf i.dom) [] = q ++ [e] ∧
        (∀ d, d ≠ netOf i.dom → (u.core i.team.core).sq.getD d [] = (s.core i.team.core).sq.getD d []) ∧
        u.mem = s1.mem ∧ u.slices = s1.slices ∧ (∀ c, (u.core c).l1 = (s1.core c).l1) ∧
        (i.chans = [] → ∀ t, (u.teams.get? t).map Team.stash = (s.teams.get? t).map Team.stash))

/-- A queued store leaves its queue (R295, R296): bytes at unmapped stash offsets go to the stash, all of its first parts at once, and a
store with second 8-byte parts (R279) stays queued with those; RC and BLK bytes go to the L1 as masked bytes, where it has or makes
room without losing written bytes (R268), or, at mapped stash offsets, to the stash as masked bytes (R271), and memory and home
slices do not change; SC, TSO, CAU and `.hnol1` bytes go in one request to the home slice of their line, and the store stays queued
until that answers. -/
def Obligations.StoreReleaseWritesItsBytes : Prop :=
  ∀ (s : State) (core : Nat) (dom : Dom) (e : QStore),
    let q := (s.core core).sq.getD (netOf dom) []
    (q.find? fun x => s.mayRelease core q x) = some e → e.dom = dom →
    let gone (u : State) : Prop := ∀ x ∈ (u.core core).sq.getD (netOf dom) [], x.op ≠ e.op
    (∀ tm, s.teams.get? e.team = some tm → (∀ p ∈ e.parts, ∃ off, p.2.1 = .stash off) →
      ∃ u tm', exec (.storeQueueRelease core dom) s = .next u ∧ u.teams.get? e.team = some tm' ∧
        tm'.stash = (e.parts.foldl (fun (t : Team) p => match p.2.1 with | .stash off => t.stashWrite off p.2.2 | _ => t) tm).stash ∧
        (∀ l off bs, e.parts = [(l, .stash off, bs)] → tm'.stashRead off bs.length = bs ∧
          ∀ a n, a + n ≤ off ∨ off + bs.length ≤ a → tm'.stashRead a n = tm.stashRead a n) ∧
        u.mem = s.mem ∧ u.slices = s.slices ∧ (e.rest = [] → gone u) ∧
        (e.rest ≠ [] → ∃ x ∈ (u.core core).sq.getD (netOf dom) [], x.op = e.op ∧ x.parts = e.rest ∧ x.rest = [] ∧ x.sent = false)) ∧
    (∀ l pa key bs room, e.parts = [(l, .phys pa key, bs)] → e.rest = [] → releases e.order = false → dom = .rc ∨ dom = .blk →
      e.hnol1 = false → 0 < bs.length → pa % 64 + bs.length ≤ 64 → (s.core core).l1Room (pa / 256) = some room →
      (∀ w ∈ (s.core core).wbOut, w.line = pa / 256 → w.dom = dom) →
      ∃ u, exec (.storeQueueRelease core dom) s = .next u ∧ (u.core core).l1Read pa bs.length false = some bs ∧
        (∀ sec, sec ≠ pa / 64 → (u.core core).l1Sector sec = room.l1Sector sec) ∧
        (∀ sec x, (s.core core).l1Sector sec = some x → x.mask ≠ 0 → room.l1Sector sec = some x) ∧
        (∀ c, c ≠ core → u.core c = s.core c) ∧ u.mem = s.mem ∧ u.slices = s.slices ∧ gone u) ∧
    (∀ l off pa key bs tm, e.parts = [(l, .mapped off pa key, bs)] → e.rest = [] → releases e.order = false → dom = .rc ∨ dom = .blk →
      s.teams.get? e.team = some tm → 0 < bs.length → off % 64 + bs.length ≤ 64 →
      (∀ w ∈ (s.core core).wbOut, w.line = pa / 256 → w.dom = dom) →
      ∃ u tm', exec (.storeQueueRelease core dom) s = .next u ∧ u.teams.get? e.team = some tm' ∧ tm'.stashRead off bs.length = bs ∧
        (∀ a n, a + n ≤ off ∨ off + bs.length ≤ a → tm'.stashRead a n = tm.stashRead a n) ∧
        (∀ m x, tm'.mapAt (off / 64) = some (m, x) → ∀ b, b < bs.length →
          (if dom = .blk then x.blkMask else x.rcMask).getLsbD (off % 64 + b) = true) ∧
        u.mem = s.mem ∧ u.slices = s.slices ∧ gone u) ∧
    (∀ l pa key bs k, e.parts = [(l, .phys pa key, bs)] → (dom ≠ .rc ∧ dom ≠ .blk) ∨ e.hnol1 = true → 0 < bs.length →
      pa % 256 + bs.length ≤ 256 → s.lineDirty core e.team (pa / 256) = false → (s.core core).lineOut (pa / 256) = false →
      s.homeOf (pa / 256) = some k →
      let img := linePut (0, 0) (pa % 256) bs
      ∃ u r, exec (.storeQueueRelease core dom) s = .next u ∧ (k, r) ∈ (u.station (stationOf core)).queue ∧
        r.asker = .op e.team e.wave e.op ∧ r.dom = dom ∧ r.line = pa / 256 ∧ r.kind = .write img.1 img.2 ∧
        ∃ x ∈ (u.core core).sq.getD (netOf dom) [], x.op = e.op ∧ x.sent = true)

/-- Atomics and reductions (R306, R311-R314), and what they compute. -/
def Obligations.AtomicOperations : Prop :=
  -- ATOM and RED (R311-R314): with the tags that MOD requires of B, once their checks pass and nothing holds them, they start an
  -- operation counted in MEM. Lanes at unmapped stash offsets are performed at once, in ascending order of lane (R306): the operation has
  -- the old bytes of each, and the stash holds the new ones and is unchanged elsewhere.
  (∀ (f : Form) (s : State) (i : Iss) (ps : List Piece),
    let mod := f.mod.toNat
    let w := atomBytes mod
    let vs := i.srcB s
    let goes (need : Need) : Prop :=
      let as := i.accesses s (maskLanes i.act) w need true
      i.verdict s as need = .ok ps ∧ i.atomicWait (s.fillTlbs i as) as ps = none ∧
        (∀ ts, atomSrcTags mod = some ts → i.checkTag 3 i.act vs ts = none)
    let lane (x : Team × List (Nat × Nat × List Byte)) (p : Piece) : Team × List (Nat × Nat × List Byte) := match p.place with
      | .stash off =>
        let b := atomOperand mod vs p.lane
        let old := x.1.stashNat off w
        (x.1.stashWrite off (toLe w (atomNew mod old b.1.toNat b.2.toNat)), x.2 ++ [(p.lane, 0, toLe w old)])
      | _ => x
    let starts (ins : Instr) (k : OpKind) : Prop :=
      ∃ u o, exec ins s = .next u ∧ i.Begins u o ∧ o.kind = k ∧ o.counted = some 0 ∧ o.pieces = ps ∧ o.lanes = i.act ∧ o.dst = f.dst ∧
        ((∀ p ∈ ps, ∃ off, p.place = .stash off) → i.chans = [] → releases i.order = false →
          ∃ tm, u.teams.get? i.tid = some tm ∧ o.need = 0 ∧ (ps.map (·.lane)).Pairwise (· ≤ ·) ∧
            o.got = (ps.foldl lane (i.team, [])).2 ∧ tm.stash = (ps.foldl lane (i.team, [])).1.stash) ∧
        (∀ l off va, ps = [⟨l, 0, w, .stash off, va⟩] → i.chans = [] → releases i.order = false →
          ∃ tm, u.teams.get? i.tid = some tm ∧
            let b := atomOperand mod vs l
            let old := i.team.stashNat off w
            o.got = [(l, 0, toLe w old)] ∧
            tm.stashNat off w = atomNew mod old b.1.toNat b.2.toNat % 2 ^ (8 * w) ∧
            ∀ a n, a + n ≤ off ∨ off + w ≤ a → tm.stashRead a n = i.team.stashRead a n)
    (Executes 0x310 f s i → goes ⟨true, true, false⟩ → starts (.atom f) (.atom f.mod)) ∧
    (Executes 0x311 f s i → goes ⟨false, true, false⟩ → starts (.red f) .red)) ∧
  -- What the atomic operations compute (R311), on 32- and 64-bit values: sums, minima and maxima, bit operations, exchange, compare
  -- and swap, the floating-point sums rounded to nearest even, minima and maxima, and the wrapping increment and decrement.
  (∀ (old b swap : BitVec 32) (x y z : BitVec 64),
    atomNew 0 old.toNat b.toNat swap.toNat = (old + b).toNat ∧
    atomNew 1 x.toNat y.toNat z.toNat = (x + y).toNat ∧
    atomNew 2 old.toNat b.toNat swap.toNat = (if b.toInt < old.toInt then b else old).toNat ∧
    atomNew 3 old.toNat b.toNat swap.toNat = (if b < old then b else old).toNat ∧
    atomNew 4 old.toNat b.toNat swap.toNat = (if old.toInt < b.toInt then b else old).toNat ∧
    atomNew 5 old.toNat b.toNat swap.toNat = (if old < b then b else old).toNat ∧
    atomNew 6 x.toNat y.toNat z.toNat = (if y.toInt < x.toInt then y else x).toNat ∧
    atomNew 7 x.toNat y.toNat z.toNat = (if y < x then y else x).toNat ∧
    atomNew 8 x.toNat y.toNat z.toNat = (if x.toInt < y.toInt then y else x).toNat ∧
    atomNew 9 x.toNat y.toNat z.toNat = (if x < y then y else x).toNat ∧
    atomNew 10 old.toNat b.toNat swap.toNat = (old &&& b).toNat ∧ atomNew 11 old.toNat b.toNat swap.toNat = (old ||| b).toNat ∧
    atomNew 12 old.toNat b.toNat swap.toNat = (old ^^^ b).toNat ∧ atomNew 13 x.toNat y.toNat z.toNat = (x &&& y).toNat ∧
    atomNew 14 x.toNat y.toNat z.toNat = (x ||| y).toNat ∧ atomNew 15 x.toNat y.toNat z.toNat = (x ^^^ y).toNat ∧
    atomNew 16 old.toNat b.toNat swap.toNat = b.toNat ∧ atomNew 17 x.toNat y.toNat z.toNat = y.toNat ∧
    atomNew 18 old.toNat b.toNat swap.toNat = (if old = b then swap else old).toNat ∧
    atomNew 19 x.toNat y.toNat z.toNat = (if x = y then z else x).toNat ∧
    atomNew 20 old.toNat b.toNat swap.toNat = (fmtF32.add 0 false false old.toNat b.toNat).1 ∧
    atomNew 21 old.toNat b.toNat swap.toNat = fmtF32.minMax false false old.toNat b.toNat ∧
    atomNew 22 old.toNat b.toNat swap.toNat = fmtF32.minMax false true old.toNat b.toNat ∧
    atomNew 23 x.toNat y.toNat z.toNat = (fmtF64.add 0 false false x.toNat y.toNat).1 ∧
    (∀ p ∈ [(24, fmtF16), (25, fmtBf16)],
      atomNew p.1 old.toNat b.toNat swap.toNat % 65536 = (p.2.add 0 false false (old.toNat % 65536) (b.toNat % 65536)).1 ∧
      atomNew p.1 old.toNat b.toNat swap.toNat / 65536 = (p.2.add 0 false false (old.toNat / 65536) (b.toNat / 65536)).1) ∧
    atomNew 26 old.toNat b.toNat swap.toNat = (if b ≤ old then 0 else old + 1).toNat ∧
    atomNew 27 old.toNat b.toNat swap.toNat = (if old = 0 ∨ b < old then b else old - 1).toNat)

/-- AMAXR and QSCALE (R208, R209, R230, R231): on a ring that passes its checks they start an operation counted in MEM that answers
every active lane. A ring at an unmapped stash offset is changed at once: AMAXR folds the largest magnitude m of the active lanes
into the slot at HEAD and answers m; QSCALE answers the scale and with `.adv` moves HEAD on and clears its slot. -/
def Obligations.RingOperationsStart : Prop :=
  ∀ (f : Form) (s : State) (i : Iss) (as : List LaneAcc) (ps : List Piece),
    let all := (maskLanes i.act).flatMap fun l => ps.map fun p => { p with lane := l }
    let goes : Prop := i.ringAccess s = .ok (as, ps) ∧ i.atomicWait (s.fillTlbs i as) as all = none
    let m : Nat := (maskLanes i.act).foldl (fun acc l => Nat.max acc (amaxLane (f.mod.toNat - 9) (lane32 (i.srcB s) l))) 0
    let starts (ins : Instr) (q : Bool) (r : List Byte → Nat × Bool × List Byte) : Prop :=
      ∃ u o, exec ins s = .next u ∧ i.Begins u o ∧ o.kind = .ring q ∧ o.counted = some 0 ∧ o.lanes = i.act ∧ o.dst = f.dst ∧
        (∀ off va, ps = [⟨lowest i.act, 0, 128, .stash off, va⟩] → i.chans = [] → releases i.order = false →
          ∃ tm, u.teams.get? i.tid = some tm ∧
            let x := r (i.team.stashRead off 128)
            o.need = 0 ∧ o.got = [(0, 0, toLe 4 x.1 ++ [if x.2.1 then 1 else 0])] ∧
            (x.2.2.length = 128 → tm.stashRead off 128 = x.2.2 ∧
              ∀ a n, a + n ≤ off ∨ off + 128 ≤ a → tm.stashRead a n = i.team.stashRead a n))
    (Executes 0x1D0 f s i → i.checkTag 3 i.act (i.srcB s) [f.mod.toNat - 9 + 1] = none → goes →
      starts (.amaxr f) false fun r => (m, false, amaxFold r m)) ∧
    (Executes 0x1D1 f s i → goes → starts (.qscale f) true fun r => qscaleRing r f.mod.toNat) ∧
    (∀ r : List Byte, r.length = 128 →
      let h := leAt r 64 4 % 16
      (amaxFold r m).length = 128 ∧ (m < 2 ^ 32 → leAt (amaxFold r m) (4 * h) 4 = Nat.max (leAt r (4 * h) 4) m) ∧
      (∀ k, k < 128 → k < 4 * h ∨ 4 * h + 4 ≤ k → (amaxFold r m)[k]? = r[k]?) ∧
      (qscaleRing r f.mod.toNat).2.2.length = 128 ∧
      (f.mod.toNat / 8 % 2 = 0 → (qscaleRing r f.mod.toNat).2.2 = r))

/-- Instructions that wait for others: FENCE and BRIDGE (R316, R317), WAITC (R325). -/
def Obligations.FencesAndWaits : Prop :=
  -- FENCE and BRIDGE (R292, R316, R317): they start an operation that names the domain, the target domain of a BRIDGE between two
  -- domains, the SCOPE and whether it acquires; until it completes, no thread of the subset issues anything (R316).
  (∀ (f : Form) (s : State) (i : Iss),
    let acq : Bool := acquires i.order
    let starts (ins : Instr) (target : Option Dom) : Prop :=
      ∃ u o, exec ins s = .next u ∧ i.Begins u o ∧ o.kind = .fence i.dom target i.scope acq ∧ o.lanes = i.act
    (Executes 0x318 f s i → starts (.fence f) none) ∧
    (Executes 0x319 f s i → starts (.bridge f) (if domCode f.mod.toNat = i.dom then none else some (domCode f.mod.toNat))) ∧
    (∀ j : Iss, (∃ o ∈ j.wave.ops, o.lanes &&& j.lanes ≠ 0 ∧ ∃ d target sc a, o.kind = .fence d target sc a) → j.interlocked = true)) ∧
  -- WAITC (R325) goes on when the wave's counter of its class is at most min(src, 63), and not before; until then the subset does
  -- not issue.
  (∀ (f : Form) (s : State) (i : Iss), Executes 0x390 f s i →
    let k := Nat.min (lane32 (i.srcB s) (lowest i.act)).toNat 63
    exec (.waitc f) s = .next (i.ends ((s.popSources i).issuedNext i [])) ∧
    (∃ w, (i.ends ((s.popSources i).issuedNext i [])).wave? i.tid i.wid = some w ∧ w.vregs = i.wave.vregs ∧
      ∀ l, l < 32 → i.lanes.getLsbD l = true → w.pcs.getD l 0 = i.pc + i.len) ∧
    i.wave.count f.mod.toNat ≤ k) ∧
  (∀ (f : Form) (s : State) (i : Iss), s.issuing 0x390 f = some i → i.act ≠ 0 → i.srcB s ≠ [] →
    Nat.min (lane32 (i.srcB s) (lowest i.act)).toNat 63 < i.wave.count f.mod.toNat →
    exec (.waitc f) s = .next { s with cur := none })

/-- Cache control (R318) and stash mappings (R319, R320). The model's readings: the wait of SMAP.unmap and SWB while a page is not there
(log entry 55, DEDUCED), and the wait for the wave's queued stores (log entry 54, DEDUCED). -/
def Obligations.CacheAndStashControl : Prop :=
  -- CCTL (R318): `.ivi` takes the lines of the active lanes' addresses out of the fetch path of every core within SCOPE; `.wb` and
  -- `.inv` start a write-back counted in MEM when no store of the wave is queued; `.pf` and `.pfs` go on at once.
  (∀ (f : Form) (s : State) (i : Iss), Executes 0x320 f s i →
    let goesOn (u : State) : Prop := ∃ w, u.wave? i.tid i.wid = some w ∧ w.ops = i.wave.ops ∧ w.vregs = i.wave.vregs ∧
      ∀ l, l < 32 → i.lanes.getLsbD l = true → w.pcs.getD l 0 = i.pc + i.len
    (∃ u, exec (.cctlIvi f) s = .next u ∧ goesOn u ∧ u.mem = s.mem ∧
      ∀ c, c ∈ s.coresWithin i.team.core i.launch.part i.scope → ∀ l ∈ i.cctlLines s, ∀ e ∈ (u.core c).ipath, e.1 ≠ l.1) ∧
    (i.wave.mem ≠ 63 → i.storesQueued s = false →
      (∃ u o, exec (.cctlWb f) s = .next u ∧ i.Begins u o ∧ o.kind = .writeback ∧ o.counted = some 0) ∧
      (∃ u o, exec (.cctlInv f) s = .next u ∧ i.Begins u o ∧ o.kind = .writeback ∧ o.counted = some 0)) ∧
    (∃ u, exec (.cctlPf f) s = .next u ∧ goesOn u ∧ u.mem = s.mem ∧ u.slices = s.slices) ∧
    (∃ u, exec (.cctlPfs f) s = .next u ∧ goesOn u ∧ u.mem = s.mem ∧ u.slices = s.slices)) ∧
  -- SMAP, SWB and SDROP (R319, R320): SMAP.map adds the mapping when its checks pass, SMAP.unmap ends the mapping of its address and
  -- keeps the stash bytes, SWB starts a write-back, SDROP leaves the sectors named unfilled and unwritten. That SMAP.unmap and SWB wait
  -- while a page that they write back to is not there, and that all of them wait for queued stores of the wave, is the model's reading
  -- (log entries 55 and 54, DEDUCED).
  (∀ (f : Form) (s : State) (i : Iss), i.storesQueued s = false →
    let m := lowest i.act
    let g := i.ea s m
    let o := (lane32 (i.srcB s) m).toNat % 2 ^ 19
    let len := ((vec1 (i.srcB s) 1).val m).toNat
    (Executes 0x328 f s i → g % 256 = 0 → o % 256 = 0 → len % 256 = 0 → len ≠ 0 →
      smapCheck i.launch.header.stash i.team.maps g o len = none →
      ∃ u tm, exec (.smapMap f) s = .next u ∧ u.teams.get? i.tid = some tm ∧ tm.maps = i.team.maps ++ [⟨o, g, len, []⟩] ∧
        tm.stash = i.team.stash ∧ u.mem = s.mem) ∧
    let own := (i.team.maps.find? fun x => x.g == g).elim [] fun x => x.sec.map (·.1)
    let freed := own.foldl (fun s x => s.cleanStash i.tid x true i.terms) s
    let dirty := (i.stashTargets s).filter fun x => i.team.dirtyStash.contains x
    let clean := dirty.foldl (fun s x => s.cleanStash i.tid x false i.terms) s
    (Executes 0x328 f s i → i.wave.mem ≠ 63 → freed.stashMasked i.tid own = true → exec (.smapUnmap f) s = .next (i.ends freed)) ∧
    (Executes 0x328 f s i → i.wave.mem ≠ 63 → freed.stashMasked i.tid own = false →
      ∃ u op tm, exec (.smapUnmap f) s = .next u ∧ i.Begins u op ∧ op.kind = .writeback ∧ op.counted = some 0 ∧
        u.teams.get? i.tid = some tm ∧ tm.stash = i.team.stash ∧ ∀ x ∈ tm.maps, x.g ≠ g) ∧
    (Executes 0x329 f s i → i.wave.mem ≠ 63 → clean.stashMasked i.tid dirty = true → exec (.swb f) s = .next (i.ends clean)) ∧
    (Executes 0x329 f s i → i.wave.mem ≠ 63 → clean.stashMasked i.tid dirty = false →
      ∃ u op, exec (.swb f) s = .next u ∧ i.Begins u op ∧ op.kind = .writeback ∧ op.counted = some 0) ∧
    (Executes 0x32A f s i →
      ∃ u tm, exec (.sdrop f) s = .next u ∧ u.teams.get? i.tid = some tm ∧ tm.stash = i.team.stash ∧ u.mem = s.mem ∧
        ∀ x ∈ i.stashTargets s, ∀ y ∈ tm.maps, y.sec.get? x = none))

/-! ## Copy engines and channels -/

/-- TCOPY, TDESC, GATHER, SCATTER, RCOPY and COLL (R321-R329): with acceptable operands and nothing that holds them, they hand one
command to the engine port that ENG names, at its beginning, and count it in CPY, or in NET for RCOPY and COLL. A source of RCOPY or
COLL that is neither global nor peer takes ILLEGAL. -/
def Obligations.CopyCommandsAreHandedOver : Prop :=
  ∀ (f : Form) (s : State) (i : Iss),
    let m := lowest i.act
    let e := f.ext.getD 0
    let va := i.srcA s
    let vb := i.srcB s
    let a := lane64 va m
    let b := lane64 vb m
    let hands (ins : Instr) (cnt : Fin 4) (p : Cmd → Prop) : Prop :=
      ∃ u o c, exec ins s = .next u ∧ i.Begins u o ∧ o.kind = .copy (domCode (bits e 8 3)) (domCode (bits e 11 3)) ∧ o.counted = some cnt ∧
        (u.core i.team.core).cmds = (s.core i.team.core).cmds ++ [c] ∧
        c.id = o.id ∧ c.team = i.tid ∧ c.wave = i.wid ∧ c.lane = m ∧ c.port = ((i.team.bind[bits e 0 6]?).elim 0 Bind.param) ∧
        c.pos = 0 ∧ c.failed = false ∧ c.arrived = false ∧ c.sdom = domCode (bits e 8 3) ∧ c.ddom = domCode (bits e 11 3) ∧
        c.bar = (if e.getLsbD 24 then some (lane64 (i.srcC s) m) else none) ∧ p c
    (Executes 0x380 f s i → i.cmdBarCheck s true = none → i.cmdWait s 1 (f.mod ≠ 1) = false →
      ((s.core i.team.core).cmds.any fun c => c.team == i.tid && c.wave == i.wid && c.kind == .tdesc (e.getLsbD 20)) = false →
      hands (.tcopy f) 1 fun c => c.kind = .tcopy (if e.getLsbD 20 then i.wave.desc1 else i.wave.desc0)
        ((List.range 16).map fun d => if i.act.getLsbD d then (lane32 va d).toInt else 0)) ∧
    (Executes 0x381 f s i → a.toNat % 64 = 0 → i.cmdWait s 1 false = false →
      hands (.tdesc f) 1 fun c => c.kind = .tdesc (e.getLsbD 20) ∧ c.src = a ∧ c.count * c.esize = 576) ∧
    (Executes 0x382 f s i → i.laneAlign (sizeCode (f.mod.toNat % 8)) va (if 8 ≤ f.mod.toNat then none else some b) = none →
      i.cmdBarCheck s true = none → i.cmdWait s 1 (f.mod.toNat < 8) = false →
      hands (.gather f) 1 fun c => c.kind = .gather ∧ c.esize = sizeCode (f.mod.toNat % 8) ∧ c.dst = b ∧
        ∀ l, l < 32 → i.act.getLsbD l = true → (l, some (lane64 va l)) ∈ c.lanes) ∧
    (Executes 0x383 f s i → i.laneAlign (sizeCode f.mod.toNat) va (some b) = none →
      i.cmdBarCheck s true = none → i.cmdWait s 1 true = false →
      hands (.scatter f) 1 fun c => c.kind = .scatter ∧ c.esize = sizeCode f.mod.toNat ∧ c.src = b ∧
        ∀ l, l < 32 → i.act.getLsbD l = true → (l, some (lane64 va l)) ∈ c.lanes) ∧
    (a.toNat % 64 = 0 → b.toNat % 64 = 0 → (∀ x, x = a ∨ x = b → apertureOf x.toNat = .global ∨ apertureOf x.toNat = .peer) →
      i.cmdBarCheck s false = none → i.cmdWait s 3 true = false →
      (Executes 0x384 f s i → hands (.rcopy f) 3 fun c => c.kind = .rcopy ∧ c.src = a ∧ c.dst = b ∧ c.total = bits e 32 32) ∧
      (Executes 0x385 f s i → hands (.coll f) 3 fun c => c.kind = .coll f.mod.toNat ∧ c.src = a ∧ c.dst = b ∧ c.total = bits e 32 32)) ∧
    (a.toNat % 64 = 0 → b.toNat % 64 = 0 → apertureOf a.toNat ≠ .global → apertureOf a.toNat ≠ .peer →
      (Executes 0x384 f s i → exec (.rcopy f) s = .next (i.traps s (i.badAperture 2 a))) ∧
      (Executes 0x385 f s i → exec (.coll f) s = .next (i.traps s (i.badAperture 2 a))))

/-- Channel instructions (R338, R339) and the stage ring under a push (R336). -/
def Obligations.ChannelInstructionsComplete : Prop :=
  -- PUSH, POP and RINGINIT (R338, R339): PUSH sends one entry through its channel; POP takes one when it retires, a peek leaves it (R104),
  -- and it reaches D with its tags; RINGINIT writes an empty header and leaves the entries' bytes.
  (∀ (f : Form) (s : State) (i : Iss),
    let o := ((i.team.bind[bits (f.ext.getD 0) 0 6]?).elim 0 fun b => b.addr.toNat)
    let n := bits (f.ext.getD 0) 8 7
    (Executes 0x398 f s i → exec (.push f) s = .next (i.retires s { vecs := [vec1 (i.srcA s) 0] })) ∧
    (Executes 0x399 f s i →
      ∃ u op, exec (.pop f) s = .next u ∧ i.Begins u op ∧ op.kind = .result ∧ op.dst = f.dst ∧ op.lanes = i.act ∧
        op.vals = [vec1 (i.srcA s) 0] ∧ ∀ n pk, f.a = .ch n pk → op.pops.map (·.2) = if pk then [] else [1]) ∧
    (Executes 0x39A f s i → o + 64 + 144 * n ≤ i.launch.header.stash → s.ringReserved i.tid i.team.core o = false →
      ∃ u tm, exec (.ringinit f) s = .next u ∧ u.teams.get? i.tid = some tm ∧
        ringHead tm o = 0 ∧ ringTail tm o = 0 ∧ ringNent tm o = n ∧ ringFree tm o = n ∧ ringPhase tm o = 0 ∧
        (∀ a k, a + k ≤ o ∨ o + 24 ≤ a → tm.stashRead a k = i.team.stashRead a k))) ∧
  -- A push into a stage ring (R336): the entry of reservation TAIL becomes full with the values and tags pushed, TAIL rises by 1 and
  -- FREE falls by 1, and every other byte of the stash stays: with an entry that was not full and FREE > 0, and
  -- a vector without reserved tags (R204).
  (∀ (tm : Team) (o : Nat) (v : Vec),
    let ne := ringNent tm o
    let t := ringTail tm o
    let i := t % ne
    let tm' := ringFill (ringReserve tm o) o t v
    1 ≤ ne → ne ≤ 64 → 0 < ringFree tm o → ringFull tm o t = false → v.length = 32 → (∀ l, l < 32 → (v.tagAt l).toNat < 13) →
    ringTail tm' o = (t + 1) % 2 ^ 32 ∧ ringFree tm' o = ringFree tm o - 1 ∧ ringHead tm' o = ringHead tm o ∧ ringNent tm' o = ne ∧
    ringFull tm' o t = true ∧ ringEntry tm' o i = v ∧
    (∀ n, n % ne ≠ i → ringFull tm' o n = ringFull tm o n ∧ ringEntry tm' o (n % ne) = ringEntry tm o (n % ne)) ∧
    (∀ a k, a + k ≤ o ∨ o + 64 + 144 * ne ≤ a → tm'.stashRead a k = tm.stashRead a k))

/-! ## Barriers -/

/-- Phase p has passed when (PHASE - p - 1) mod 2^32 < 2^31 (R365): so the phase that an arrival counted toward has once it
completes; a phase up to 2^31 - 1 ahead of PHASE has not, and one more than 2^31 behind it reads as ahead. -/
def Obligations.PhasePassing : Prop :=
  (∀ phase p : W32, phasePassed phase.toNat p.toNat = decide ((phase - p - 1).toNat < 2 ^ 31)) ∧
  (∀ p : W32, phasePassed (p + 1).toNat p.toNat = true) ∧
  (∀ (phase : W32) (d : Nat), d < 2 ^ 31 → phasePassed phase.toNat (phase + BitVec.ofNat 32 d).toNat = false) ∧
  (∀ (phase : W32) (d : Nat), 2 ^ 31 < d → d < 2 ^ 32 → phasePassed phase.toNat (phase - BitVec.ofNat 32 d).toNat = false)

/-- The barrier object (R362-R365, R372, R377): what BINIT writes, what an arrival below the targets and one that reaches them
exactly leave, and what BINVAL clears. -/
def Obligations.BarrierObjectOperations : Prop :=
  (∀ (tarr tbytes : W32) (pmask owner : W64) (sl : Bool),
    let o := barInit tarr tbytes pmask owner sl
    o.length = 64 ∧ barPhase o = 0 ∧ barValid o = true ∧ leAt o 4 4 = tarr.toNat ∧ leAt o 8 4 = 0 ∧ leAt o 16 4 = tbytes.toNat ∧
      leAt o 20 4 = 0 ∧ leAt o 24 8 = 0 ∧ barWdl o = 2 ^ 64 - 1 ∧ leAt o 40 8 = pmask.toNat ∧ leAt o 48 8 = 0 ∧
      leAt o 56 8 = owner.toNat ∧ leAt o 12 4 = if sl then 3 else 1) ∧
  (∀ (o : List Byte) (a n x : Nat) (q : Option Nat), o.length = 64 → barValid o = true → (∀ k, q = some k → k < 64) →
    leAt o 8 4 + a < 2 ^ 32 → leAt o 24 8 + n < 2 ^ 64 → leAt o 20 4 + x < 2 ^ 32 →
    let r := (barArrive o a n x q).1
    let met := leAt o 4 4 ≤ leAt o 8 4 + a ∧ leAt o 16 4 + (leAt o 20 4 + x) ≤ leAt o 24 8 + n
    r.length = 64 ∧ (barArrive o a n x q).2.1 = some (barPhase o) ∧
    (¬ met → barPhase r = barPhase o ∧ leAt r 8 4 = leAt o 8 4 + a ∧ leAt r 24 8 = leAt o 24 8 + n ∧
      leAt r 20 4 = leAt o 20 4 + x ∧ barWdl r = barWdl o ∧ (barArrive o a n x q).2.2 = false ∧
      (∀ k, q = some k → 0 < a → nbits (leAt r 48 8) k 1 = 1)) ∧
    (0 < leAt o 4 4 → leAt o 8 4 + a = leAt o 4 4 → leAt o 24 8 + n = leAt o 16 4 + (leAt o 20 4 + x) →
      barPhase r = (barPhase o + 1) % 2 ^ 32 ∧ leAt r 8 4 = 0 ∧ leAt r 24 8 = 0 ∧ leAt r 20 4 = 0 ∧ leAt r 48 8 = 0 ∧
      barWdl r = 2 ^ 64 - 1 ∧ leAt r 4 4 = leAt o 4 4 ∧ leAt r 16 4 = leAt o 16 4 ∧ (barArrive o a n x q).2.2 = true)) ∧
  (∀ o : List Byte, o.length = 64 → barValid (barInval o) = false ∧ barWdl (barInval o) = 2 ^ 64 - 1 ∧
    barPhase (barInval o) = barPhase o)

/-- BINIT, BARRIVE, BARRIVEB, BTEST and BINVAL (R371-R377): on an object that passes its checks, with nothing that holds them and
their release done, they start an operation counted in MEM; on a stash object the operation is performed at once, with the value
for D; on a slice object it goes to the home slice, and one answer is awaited. -/
def Obligations.BarrierInstructionsStart : Prop :=
  ∀ (f : Form) (s : State) (i : Iss) (as : List LaneAcc) (p : Piece),
    let b (k : Nat) : W32 := (vec1 (i.srcB s) k).val (lowest i.act)
    let starts (ins : Instr) (wr rel reply : Bool) (op : Bool → BarOp) : Prop :=
      i.barObject s wr = .ok (as, p) → i.BarrierGoes (s.fillTlbs i as) p rel →
      (∀ pa key, p.place.pa? = some (pa, key) → s.homeOf (pa / 256) ≠ none) → p.place.isPeer = false →
      ∃ u o, exec ins s = .next u ∧ i.Begins u o ∧ o.kind = .barrier reply ∧ o.counted = some 0 ∧ o.dst = f.dst ∧ o.lanes = i.act ∧
        (∀ off, p.place = .stash off →
          let r := (op false).apply (i.team.stashRead off 64) false
          o.need = 0 ∧ o.got = [(0, 0, toLe 4 r.2.1)] ∧
          (i.chans = [] → r.1.length = 64 → ∃ tm, u.teams.get? i.tid = some tm ∧ tm.stashRead off 32 = r.1.take 32 ∧
            ∀ a k, a + k ≤ off ∨ off + 64 ≤ a → tm.stashRead a k = i.team.stashRead a k)) ∧
        ((∀ off, p.place ≠ .stash off) → o.need = 1 ∧
          ∃ x ∈ (u.station (stationOf i.team.core)).queue, x.2.asker = .op i.tid i.wid o.id ∧ x.2.dom = .sc ∧
            ∃ off, x.2.kind = .bar off (op true))
    let q (sl : Bool) : Nat := if sl then i.team.index % 64 else i.wid
    (Executes 0x3C0 f s i → b 0 ≠ 0 ∨ b 1 ≠ 0 →
      starts (.binit f) true true false fun sl => .init (b 0) (b 1) (b 3 ++ b 2) (if sl then BitVec.ofNat 64 i.launch.ident else 0)) ∧
    (Executes 0x3C1 f s i → starts (.barrive f) true true true fun sl =>
      .arrive (if f.mod.getLsbD 0 then 1 else (maskLanes i.act).length) 0 (if f.mod.getLsbD 1 then (b 0).toNat else 0) (some (q sl))) ∧
    (Executes 0x3C2 f s i → starts (.barriveb f) true true false fun _ =>
      if f.mod = 0 then .arrive 0 (b 0).toNat 0 none else .arrive 0 0 (b 0).toNat none) ∧
    (Executes 0x3C4 f s i → starts (.btest f) false false true fun _ => .test (b 0) (decide (f.mod = 1))) ∧
    (Executes 0x3C5 f s i → starts (.binval f) true true false fun _ => .inval)

/-- BWAIT (R360, R367, R375): when the object is valid and the phase has passed, the subset goes on after it; else it becomes
BLOCKED at its PC with that wake condition. At a stash object it lends its deadline, unless the object's WDL is earlier; at a slice
object it registers with the home slice unless that holds 2,048 registrations. A stash object is read in the stash, a slice object
at its home slice, after written bytes of its line that the core holds have gone there. That the evaluation follows the thread's own
stores and operations on the object is the model's reading (log entry 49, DEDUCED). -/
def Obligations.BwaitWaitsForItsPhase : Prop :=
  ∀ (f : Form) (s : State) (i : Iss) (as : List LaneAcc) (p : Piece), Executes 0x3C3 f s i →
    i.barObject s false = .ok (as, p) → p.place.isPeer = false →
    let s1 := s.fillTlbs i as
    let all := (maskLanes i.act).map fun l => { p with lane := l }
    (((s1.core i.team.core).ownStores i.tid i.wid).any fun e => all.any fun x => e.meets x) = false →
    (i.wave.ops.any fun o => overlapWait .atomic .sc all o) = false →
    (∀ pa key, p.place.pa? = some (pa, key) →
      s1.lineDirty i.team.core i.tid (pa / 256) = false ∧ (s1.core i.team.core).lineOut (pa / 256) = false) →
    let ph := lane32 (i.srcB s) (lowest i.act)
    let o : List Byte := match p.place with
      | .stash off => i.team.stashRead off 64
      | pl => match pl.pa? with
        | some (pa, key) => (s1.sliceObject pa key i.terms).2
        | none => []
    let holds : Bool := barValid o && phasePassed (barPhase o) ph.toNat
    let at_ := i.barKey (i.ea s (lowest i.act)) p.place
    ∃ u w reg lent, exec (.bwait f) s = .next u ∧ u.wave? i.tid i.wid = some w ∧ w.vregs = i.wave.vregs ∧ w.preds = i.wave.preds ∧
      (holds = true → ∀ l, l < 32 → i.lanes.getLsbD l = true → w.pcs.getD l 0 = i.pc + i.len) ∧
      (holds = false → w.pcs = i.wave.pcs ∧
        (i.chans = [] → (∀ l, l < 32 → i.lanes.getLsbD l = true → w.threads.getD l .exited = .blocked) ∧
          w.waits = i.wave.waits ++ [⟨i.lanes, i.pc, .bwait at_.1 at_.2 ph, reg, lent⟩]) ∧
        (∀ off, p.place = .stash off → reg = true ∧ lent = barLoan o (s1.effective i.tid i.wid) ∧
          ∃ tm, u.teams.get? i.tid = some tm ∧ tm.stashRead off 64 = barLend o (s1.effective i.tid i.wid).toNat) ∧
        (∀ pa key, p.place.pa? = some (pa, key) → lent = BitVec.allOnes 64 ∧
          (∀ k, s1.homeOf (pa / 256) = some k →
            let s2 := (s1.sliceObject pa key i.terms).1
            (reg = true ↔ ((s1.slice k).regs.filter (·.live)).length < 2048) ∧
            (reg = true → ∃ x ∈ (u.slice k).regs, x.team = i.tid ∧ x.wave = i.wid ∧ x.lanes = i.lanes ∧ x.line = pa / 256 ∧
              x.off = pa % 256 ∧ x.deadline = barLoan (s2.readSeen pa 64 key) (s2.effective i.tid i.wid) ∧ x.live = true))))

/-! ## System instructions -/

/-- Handlers (R389-R391), HALTSELF (R392) and DGREAD (R420). -/
def Obligations.HandlerAndSystemInstructions : Prop :=
  -- RETT and WRCTX (R389, R390) in a handler: RETT sends each active lane to its resume PC and takes it out of TMASK, TRAPPED
  -- clearing when TMASK becomes empty; WRCTX replaces the resume PCs of the active lanes. Outside the handler both take ILLEGAL.
  (∀ (f : Form) (s : State) (i : Iss),
    let inside : Prop := i.wave.trapped = true ∧ ∀ l, l < 32 → i.act.getLsbD l = true → i.wave.tmask.getLsbD l = true
    let rpc (l : Nat) : W64 :=
      if f.mod = 0 then lane64 (i.srcB s) l else i.wave.rpc.getD l 0 + (lane32 (i.srcB s) l).signExtend 64
    (Executes 0x3E0 f s i → inside →
      ∃ u w, exec (.rett f) s = .next u ∧ u.wave? i.tid i.wid = some w ∧ w.tmask = i.wave.tmask &&& ~~~i.act ∧
        w.trapped = decide (w.tmask ≠ 0) ∧ w.vregs = i.wave.vregs ∧ w.preds = i.wave.preds ∧ w.rpc = i.wave.rpc ∧ w.side = i.wave.side ∧
        ∀ l, l < 32 → w.pcs.getD l 0 = if i.act.getLsbD l then i.wave.rpc.getD l 0
          else if i.lanes.getLsbD l then i.pc + i.len else i.wave.pcs.getD l 0) ∧
    (Executes 0x3E2 f s i → inside → (∀ l, l < 32 → i.act.getLsbD l = true → (rpc l).extractLsb' 0 3 = 0) →
      ∃ u w, exec (.wrctx f) s = .next u ∧ u.wave? i.tid i.wid = some w ∧ w.tmask = i.wave.tmask ∧ w.trapped = true ∧
        w.vregs = i.wave.vregs ∧ w.preds = i.wave.preds ∧
        (∀ l, l < 32 → w.rpc.getD l 0 = if i.act.getLsbD l then rpc l else i.wave.rpc.getD l 0) ∧
        ∀ l, l < 32 → i.lanes.getLsbD l = true → w.pcs.getD l 0 = i.pc + i.len) ∧
    (i.wave.trapped = false → let t := i.traps s ⟨.illegal, 0, 8, 7, i.act, 0, 2⟩
      (Executes 0x3E0 f s i → exec (.rett f) s = .next t) ∧ (Executes 0x3E2 f s i → exec (.wrctx f) s = .next t))) ∧
  -- RDSIDE (R391) and DGREAD (R420) start a class V result: word l of the wave's side-buffer record in each lane l, and the team's
  -- digest or count of contributions as a pair, once no earlier instruction of the wave owes it one.
  (∀ (f : Form) (s : State) (i : Iss),
    (Executes 0x3E1 f s i → ∃ u o, exec (.rdside f) s = .next u ∧ i.Begins u o ∧ o.kind = .result ∧ o.dst = f.dst ∧ o.lanes = i.act ∧
      o.vals = [Vec.of fun l => ⟨BitVec.ofNat 32 (leAt i.wave.side.bytes (4 * l) 4), 0⟩]) ∧
    (Executes 0x3E3 f s i → i.owesDigest s = false →
      let x : W64 := if f.mod = 0 then i.team.digest else i.team.contribs
      ∃ u o, exec (.dgread f) s = .next u ∧ i.Begins u o ∧ o.kind = .result ∧ o.dst = f.dst ∧ o.lanes = i.act ∧
        o.vals = [Vec.of fun _ => ⟨x.setWidth 32, 0⟩, Vec.of fun _ => ⟨x.extractLsb' 32 32, 0⟩])) ∧
  -- HALTSELF (R392) raises a context fault with cause HALTSELF in the team's partition, and the threads of the subset issue nothing
  -- further; registers and PCs stay.
  (∀ (f : Form) (s : State) (i : Iss), Executes 0x3E4 f s i →
    ∃ u w, exec (.haltself f) s = .next u ∧ u.wave? i.tid i.wid = some w ∧ w.never = i.wave.never ||| i.lanes ∧
      w.vregs = i.wave.vregs ∧ w.pcs = i.wave.pcs ∧
      (u.part i.launch.part).causes = (s.part i.launch.part).causes ++
        [⟨.haltself, s.tsc, coreSource i.team.core, 0, i.pc, i.launch.ctx, i.launch.ident⟩])

/-- GLAUNCH and GJOIN (R166-R169) by lane 0 of wave 0: at depth 10 GLAUNCH takes DEPTH (R52); with 16 child grids of the team live, or
16,384 of the package, it answers BUSY (R53, R77); else, with an aligned readable packet and the release done, it hands the child over and
answers with its join word, where the packet is in the stash, or asks for the packet first. GJOIN answers DONE with the code of a
retired child, whose slot becomes free, and acquires; RUNNING or a wait for a live one; NOCHILD for a free slot. Other lanes take
ILLEGAL. That a GLAUNCH whose packet is still on its way counts as a live child is the model's reading (log entry 145, DEDUCED). -/
def Obligations.ChildGridInstructions : Prop :=
  ∀ (f : Form) (s : State) (i : Iss),
    let leader : Prop := i.wid = 0 ∧ i.act = 1
    let ea := i.ea s 0
    let answers (ins : Instr) (p : W32 → Prop) : Prop :=
      ∃ u o x, exec ins s = .next u ∧ i.Begins u o ∧ o.kind = .result ∧ o.dst = f.dst ∧ o.vals = [Vec.splat ⟨x, 0⟩] ∧ p x
    (¬ leader → let t := i.traps s ⟨.illegal, 0, 8, 7, i.act, 0, 1⟩
      (Executes 0x020 f s i → exec (.glaunch f) s = .next t) ∧ (Executes 0x021 f s i → exec (.gjoin f) s = .next t)) ∧
    (Executes 0x020 f s i → leader → 10 ≤ i.launch.depth →
      exec (.glaunch f) s = .next (i.traps s ⟨.depth, 0, 8, 0, i.act, 0, 10⟩)) ∧
    (Executes 0x020 f s i → leader → i.launch.depth < 10 → ea % 128 = 0 → 16 ≤ i.team.liveKids ∨ 16384 ≤ s.liveKids →
      answers (.glaunch f) fun x => x = joinWord 1 0 0 0) ∧
    (∀ ps, Executes 0x020 f s i → leader → i.launch.depth < 10 → ea % 128 = 0 → i.team.liveKids < 16 → s.liveKids < 16384 →
      s.release i s.nextOp allDoms .pkg = none →
      let as : List LaneAcc := [⟨0, ea, 128, s.access (i.who 0) ea 128 true ⟨true, false, false⟩ .sc⟩]
      i.packetRead.verdict s as ⟨true, false, false⟩ = .ok ps → i.packetRead.LoadGoes (s.fillTlbs i as) as ps →
      let away := ps.any fun p => !p.place.isStash
      let k := i.team.childSlot
      let g := nextGen (i.team.kids.getD k ⟨0, .free⟩).gen
      (away = false → ∃ u o lid bs tm, exec (.glaunch f) s = .next u ∧ i.Begins u o ∧ o.kind = .result ∧ o.dst = f.dst ∧
        o.vals = [Vec.splat ⟨joinWord 0 0 g k, 0⟩] ∧ u.launches.get? lid = some (childLaunch i.launch i.tid k bs) ∧
        u.teams.get? i.tid = some tm ∧ (k < i.team.kids.length → tm.kids.getD k ⟨0, .free⟩ = ⟨g, .live lid⟩) ∧
        (∀ off va, ps = [⟨0, 0, 128, .stash off, va⟩] → bs = i.team.stashRead off 128)) ∧
      (away = true → ∃ u o, exec (.glaunch f) s = .next u ∧ i.Begins u o ∧ o.kind = .glaunch ∧ o.dst = f.dst ∧ o.pieces = ps ∧
        o.counted = none)) ∧
    (Executes 0x021 f s i → leader →
      let k := (i.joinSlot s).1
      let slot := (i.joinSlot s).2.1
      let same := (i.joinSlot s).2.2
      (same = false ∨ slot.st = .free → answers (.gjoin f) fun x => x = joinWord 3 0 slot.gen k) ∧
      (∀ l, same = true → slot.st = .live l → f.mod ≠ 0 → answers (.gjoin f) fun x => x = joinWord 2 0 slot.gen k) ∧
      (∀ l, same = true → slot.st = .live l → f.mod = 0 → i.chans = [] →
        ∃ u w, exec (.gjoin f) s = .next u ∧ u.wave? i.tid i.wid = some w ∧ w.waits = i.wave.waits ++ [⟨i.lanes, i.pc, .gjoin k, false, BitVec.allOnes 64⟩] ∧
          w.pcs = i.wave.pcs ∧ ∀ l, l < 32 → i.lanes.getLsbD l = true → w.threads.getD l .exited = .blocked) ∧
      (∀ code, same = true → slot.st = .retired code →
        ∃ u o tm, exec (.gjoin f) s = .next u ∧ i.Begins u o ∧ o.kind = .result ∧ o.dst = f.dst ∧
          o.vals = [Vec.splat ⟨joinWord 0 code.toNat slot.gen k, 0⟩] ∧ u.teams.get? i.tid = some tm ∧
          (k < i.team.kids.length → tm.kids.getD k ⟨0, .free⟩ = ⟨slot.gen, .free⟩) ∧
          (∀ j, j ≠ k → tm.kids.getD j ⟨0, .free⟩ = i.team.kids.getD j ⟨0, .free⟩) ∧
          (u.core i.team.core).epoch = (s.core i.team.core).epoch + 1 ∧
          ∀ d, (u.core i.team.core).held.getD (netOf d) [] = []))

/-! ## Events of the cores -/

/-- The answers and completions of operations (R148, R254, R307-R316): when nothing more is awaited and the destination has room, the
event of an operation's kind retires it: its results go to the lanes of its subset in the destination registers, all other
registers stay, and the operation is over. A fence also applies what its filter holds (R296, R316). -/
def Obligations.OperationsRetire : Prop :=
  ∀ (s : State) (t w : Nat) (o : Op) (i : Iss) (wv : Wave),
    s.wave? t w = some wv → s.op? t w o.id = some o → s.opIss t w o = some i → o.ready = false → s.takeReply t w o.id = none →
    o.need = 0 → s.dstRoom i o.pops (if o.kind = .glaunch then 1 else o.withResults.vals.length) = true →
    (∀ hi, o.kind = .scld hi → ∀ x ∈ wv.ops, x.id < o.id → x.ready = false → ∀ h, x.kind ≠ .scld h) →
    let vals := o.withResults.vals
    let retired (u : State) : Prop := ∃ w', u.wave? t w = some w' ∧ (∀ x ∈ w'.ops, x.id = o.id → x.ready = true) ∧
      (∀ n, n ∉ opndRegs o.dst → w'.vregs.getD n Vec.zero = wv.vregs.getD n Vec.zero) ∧
      (o.kind ≠ .glaunch → o.kind ≠ .store → ∀ k n l, (opndRegs o.dst)[k]? = some n → k < vals.length → n < wv.vregs.length → l < 32 →
        wv.hazardsOf o.lanes (.reg n) = [] →
        (∀ e ∈ o.older, e.1 ≠ n) → (w'.vregs.getD n Vec.zero).lane l =
          if o.lanes.getLsbD l then (vals.getD k Vec.zero).legal.lane l else (wv.vregs.getD n Vec.zero).lane l)
    let retires (ev : Instr) : Prop := ∃ u, exec ev s = .next u ∧ retired u
    (o.kind = .result → retires (.subsetRetirement t w o.id)) ∧
    (o.kind.isLoad = true → o.kind ≠ .glaunch → o.isRemote = false → retires (.loadDataArrival t w o.id)) ∧
    (o.kind = .glaunch ∨ (o.isRemote = true ∧ (o.kind.isLoad = true ∨ o.kind.isAtomic = true) ∧ o.kind ≠ .red) →
      retires (.remoteReplyArrival t w o.id)) ∧
    (o.kind = .glaunch → ∃ u, exec (.remoteReplyArrival t w o.id) s = .next u ∧
      u.launches.get? s.nextUid = some (childLaunch i.launch t i.team.childSlot (o.laneBytes 0 128))) ∧
    (o.kind = .store ∨ o.kind = .red →
      (o.kind = .store → ∃ core e, s.entryOf t w o.id = some (core, e) ∧ e.sent = true ∧ e.rest = []) →
      retires (.storeAck t w o.id)) ∧
    (o.kind = .writeback → s.writtenBack i.team.core o = true → retires (.storeAck t w o.id)) ∧
    (∀ mod, o.kind = .atom mod → o.isRemote = false → retires (.atomicReply t w o.id)) ∧
    (∀ q, o.kind = .ring q → o.isRemote = false → retires (.ringAck t w o.id)) ∧
    (∀ r, o.kind = .barrier r → retires (.barrierReply t w o.id)) ∧
    (o.kind = .matrix → (wv.ops.find? fun x => x.kind == .matrix) = some o → retires (.mmaComplete t w o.id)) ∧
    (∀ d target sc acq, o.kind = .fence d target sc acq → s.release i o.id [d] sc = none →
      ∃ u, exec (.fenceComplete t w o.id) s = .next u ∧ retired u ∧
        ∀ d' ∈ fenceFilters d target sc acq, (u.core i.team.core).held.getD (netOf d') [] = [])

/-- The issue builder and the active set (R126-R135, R158): a group is built of subsets at one PC, of one grid, with disjoint lanes,
and is not empty when an active wave has something to issue and the units are free; SLEEP_EXPIRY frees the lanes whose time and that of
the other lanes at their PC has come; a pending wave that has waited 1,024 cycles asks for a swap, and a swap is counted and timed. -/
def Obligations.IssueAndSwapEvents : Prop :=
  ∀ (s : State) (core slot : Nat),
    let c := s.core core
    let cycle := s.cycleOf core
    let launchOf (t : Nat) : Nat := (s.teams.get? t).elim 0 Team.launch
    (s.group = [] →
      ∃ u, exec (.issueGroupBuild core slot) s = .next u ∧ u.mem = s.mem ∧
        (∀ a ∈ u.group, ∀ b ∈ u.group, a.pc = b.pc ∧ launchOf a.team = launchOf b.team) ∧
        (u.group.map (·.lanes)).Pairwise (fun a b => a &&& b = 0) ∧
        (c.stopped = false → s.spindleRuns (core / 36) = true → (s.spindle (core / 36)).fused.getLsbD (core % 36) = false → slot < 2 →
          (∀ n, c.unitBusy.getD n 0 ≤ cycle) → (∃ x ∈ s.activeWaves core, x.seed ≠ none) → u.group ≠ [])) ∧
    (∀ t w wv, s.wave? t w = some wv →
      ∃ u w', exec (.sleepExpiry t w) s = .next u ∧ u.wave? t w = some w' ∧ w'.vregs = wv.vregs ∧ w'.pcs = wv.pcs ∧
        ∀ l, l < 32 →
          let last : Prop := ∀ k, k < 32 → wv.pcs.getD k 0 = wv.pcs.getD l 0 → wv.threads.getD k .exited = .ready →
            wv.sleepUntil.getD k 0 ≤ s.tsc.toNat
          (last → w'.sleepUntil.getD l 0 = 0) ∧ (¬ last → w'.sleepUntil.getD l 0 = wv.sleepUntil.getD l 0)) ∧
    ((∃ x ∈ (s.noteEligible core).coreWaves core, x.2.2.active = false ∧ ∃ since, x.2.2.eligibleSince = some since ∧
        1024 ≤ cycle - Nat.max since (c.lastSwap.getD 0)) →
      ∃ u, exec (.swapTrigger core) s = .next u ∧ (u.core core).swapWanted = true) ∧
    (c.swapWanted = true → (∀ t, c.lastSwap = some t → t + 64 ≤ cycle) → c.stopped = false → s.spindleRuns (core / 36) = true →
      ∃ u, exec (.swap core) s = .next u ∧ (u.core core).swaps = c.swaps + 1 ∧ (u.core core).lastSwap = some cycle ∧
        (u.core core).swapWanted = false ∧ u.mem = s.mem)

/-! ## Events of the fabric and the home slices -/

/-- The crossbar, the mesh and admission (R342-R349): a slot carries whole messages for its slice, at most 512 bytes; a good slot that
no awaited one precedes is delivered, a bad one is awaited again and asked for over the mesh, and its station sends the same slot; an
output sends its message on to a router with room, or delivers it; a slice admits, with the late mark of R75; a memory socket answers
with the sectors of a line. -/
def Obligations.FabricEvents : Prop :=
  ∀ (s : State) (k : Nat),
    let ch := s.channel k
    let ready (st : Nat) : Bool := (s.station st).queue.any (fun e => e.1 == k) || (s.station st).resend.any fun e => e.1 == k
    (∀ st, (((List.range 216).map fun n => (ch.token + n) % 216).find? ready) = some st →
      ((s.station st).resend.any fun e => e.1 == k) = false →
      nextNet (s.station st).queue k (((s.station st).rr.getD k 4 + 1) % 5) ≠ none →
      ∃ u x, exec (.slotSend k) s = .next u ∧ (u.channel k).flight = ch.flight ++ [x] ∧ x.station = st ∧ x.msgs ≠ [] ∧
        (x.msgs.map Req.size).sum ≤ 512 ∧ (∀ r ∈ x.msgs, (k, r) ∈ (s.station st).queue) ∧ (u.channel k).token = (ch.token + 1) % 216) ∧
    (∀ x rest, ch.flight = x :: rest →
      (ch.awaiting = [] → ch.held = [] → (s.slice k).closed = false →
        ∃ u, exec (.slotReceive k true) s = .next u ∧ (u.channel k).flight = rest ∧ (u.slice k).inq = (s.slice k).inq ++ x.msgs) ∧
      (x.fails < 2 → ∃ u, exec (.slotReceive k false) s = .next u ∧ (u.channel k).flight = rest ∧
        (x.station, x.seq) ∈ (u.channel k).awaiting ∧ u.slices = s.slices ∧
        ∃ o m, m ∈ (u.router (k / 4)).out.getD o [] ∧ m.dest = .station x.station ∧ m.msg = .resend k x.seq)) ∧
    (∀ st n rest e, takeFirst (fun a : Nat × Nat => a.1 == k) (s.station st).asks = some ((k, n), rest) →
      ((s.station st).sent.find? fun e => e.1 == k && e.2.seq == n) = some e →
      ∃ u, exec (.slotResend k st) s = .next u ∧ (u.station st).asks = rest ∧ (u.station st).resend = (s.station st).resend ++ [e]) ∧
    (∀ out m, (s.router k).out.getD out [] = [m] → m.net < 5 →
      (out ∈ meshOuts k → s.routerRoom (routeNext k out) (routeOut (routeNext k out) m.dest) m = true →
        m.msg.lateMark ≠ some false ∨ s.tsc.toNat ≤ m.tm.own.toNat →
        ∃ u o m', exec (.routerForward k out) s = .next u ∧ (u.router k).out.getD out [] = [] ∧
          m' ∈ (u.router (routeNext k out)).out.getD o [] ∧ m'.dest = m.dest ∧ m'.msg = m.msg) ∧
      (∀ j line key d, 4 ≤ out → m.dest = .slice j → m.msg = .sockData j line key d → m.net ≠ 4 ∨ s.invalBefore m = false →
        ∃ u, exec (.routerForward k out) s = .next u ∧ (u.router k).out.getD out [] = [] ∧
          (u.slice j).inbox = (s.slice j).inbox ++ [m.msg])) ∧
    (∀ r, (s.slice k).inq = [r] →
      ∃ u, exec (.sliceAdmission k) s = .next u ∧ (r.late = true ∨ s.tsc.toNat ≤ r.own.toNat → (u.slice k).inq = []) ∧
        (u.slice k).admitted = (s.slice k).admitted ++ [{ r with late := r.late || decide (r.own.toNat < s.tsc.toNat) }] ∧
        (u.slice k).pos = ((s.slice k).pos + 1) % 256) ∧
    (∀ m j line key secs late, s.sockUp k = true → (s.sock k).inq = [m] → m.msg = .sockRead j line key secs late →
      ∃ u, exec (.socketAdmission k) s = .next u ∧ (u.sock k).inq = [] ∧
        ∃ o x, x ∈ (u.router (sockRouter k)).out.getD o [] ∧ x.dest = .slice j ∧
          x.msg = .sockData j line key (((List.range 4).filter fun i => secs.getLsbD i).map fun i =>
            (i, s.loadSector (line * 256 + 64 * i) key)))

/-- The home slices and the copies (R267, R268, R270, R271, R296, R298): a slice performs an admitted request that nothing holds, and a
write that no copy holds is what the sector then reads; a propagated write is over; an invalidation drops the line from the L1 or is held
in RC and BLK; an evicted sector leaves the L1; a recall that passes its check sends the written bytes of a mapped sector to their home
slice, and the stash holds them clean, or, for a write, not at all; a snoop crosses the link when the filter holds the line, and is
acknowledged when it does not. That an admitted request waits while an earlier write of its line is not yet readable, and one of another
package while it propagates, is the model's reading (log entry 56, DEDUCED). -/
def Obligations.CoherenceEvents : Prop :=
  ∀ (s : State) (k line : Nat),
    (let s0 := s.absorb k
     let missing (r : Req) : List Nat := r.kind.needs.filter fun i => !(((s0.slice k).cached r.line i).elim false SliceSector.filled)
     ∀ r, ((s0.slice k).admitted.find? fun r => !s0.heldBack k r && (s0.barred r || (missing r).isEmpty)) = some r →
      (∃ u, exec (.slicePerform k) s = .next u ∧ ∀ x ∈ (u.slice k).admitted, x.id ≠ r.id) ∧
      (∀ m d j, r.kind = .write m d → s0.homeOf r.line = some k → s0.mapHoldersOf r.line = [] → s0.copyHolders k r.line r.asker = [] →
        ((s0.slice k).dir.getD r.line ⟨0, false⟩).ext = false → j < 4 →
        ((s0.slice k).taken.contains r.line = true ∨ (s0.slice k).taken.length < 32768) →
        ∃ u, exec (.slicePerform k) s = .next u ∧
          u.sectorAt (r.line * 256 + 64 * j) r.key =
            Sector.merge (s0.sectorAt (r.line * 256 + 64 * j) r.key) (d.extractLsb' (512 * j) 512) (m.extractLsb' (64 * j) 64))) ∧
    (∀ wid p, (((s.absorb k).slice k).pend.find? fun p => p.id == wid && p.cores.isEmpty && p.links.isEmpty) = some p →
      ∃ u, exec (.writePropagated k wid) s = .next u ∧ ∀ x ∈ (u.slice k).pend, x.id ≠ wid) ∧
    (∀ core rest j wid dom tm, takeFirst Msg.isInval (s.core core).inbox = some (.inval j wid line dom tm, rest) →
      ∃ u, exec (.invalidationArrival core) s = .next u ∧ (u.core core).inbox = rest ∧
        (dom ≠ .rc → dom ≠ .blk → ∀ n, n < 4 → (u.core core).l1Sector (4 * line + n) = none) ∧
        (dom = .rc ∨ dom = .blk → ((s.core core).held.getD (netOf dom) []).length < 256 →
          (u.core core).held.getD (netOf dom) [] = (s.core core).held.getD (netOf dom) [] ++ [(j, wid, line, tm)])) ∧
    (∀ rest j wid net l tm,
      takeFirst (fun m : Msg => match m with | .snoop _ _ _ _ _ _ => true | _ => false) (s.link k).inbox = some (.snoop j wid line net l tm, rest) →
      ((s.link k).snoop.contains line = true →
        ∃ u m, exec (.extSnoop k) s = .next u ∧ (u.link k).inbox = rest ∧ (u.link k).sendQ = (s.link k).sendQ ++ [m] ∧
          m.msg.body = .snoop line ∧ m.msg.net = net ∧ m.deadline = tm.deadline) ∧
      ((s.link k).snoop.contains line = false →
        ∃ u o m, exec (.extSnoop k) s = .next u ∧ (u.link k).inbox = rest ∧ m ∈ (u.router (linkRouter k)).out.getD o [] ∧
          m.dest = .slice j ∧ m.msg = .snoopAck j wid k)) ∧
    ((s.link k).snoop.contains line = true → ((s.link k).outstanding.any fun o => o.asker == .filter line) = false →
      ∃ u m, exec (.snoopFilterEvict k line) s = .next u ∧ (u.link k).sendQ = (s.link k).sendQ ++ [m] ∧ m.msg.body = .snoop line) ∧
    (∀ core sec, sec < 4 → (s.core core).badPa.contains (4 * line + sec) = false →
      ∃ u, exec (.l1Eviction core line sec) s = .next u ∧ (u.core core).l1Sector (4 * line + sec) = none) ∧
    (∀ t tm ln m f x (write : Bool), s.teams.get? t = some tm → s.launches.get? tm.launch = some ln → tm.maps = [m] → m.sec = [(f, x)] →
      x.pa / 256 = line → tm.mapAt f = some (m, x) → (s.core tm.core).badPa.contains (x.pa / 64) = false →
      let w : Who := ⟨ln.part, tm.vctx ln.ctx, tm.core, ln.header.floor, ln.header.priv, ln.header.stash, tm.privBase, tm.maps, 0, 0, true⟩
      let recalled (p : State → Prop) : Prop := ∃ u tm' m', exec (.stashRecall t line write) s = .next u ∧
        u.teams.get? t = some tm' ∧ tm'.maps = [m'] ∧ tm'.stash = tm.stash ∧ (∀ y, m'.sec.get? f = some y → y.mask = 0) ∧
        (write = true → m'.sec.get? f = none) ∧ p u
      (x.mask = 0 → recalled fun _ => True) ∧
      (∀ a b pa key j, x.mask ≠ 0 → s.homeOf (pa / 256) = some j →
        s.physPiece w (m.g + (f * 64 - m.o)) ⟨false, true, false⟩ (if x.blkMask = 0 then 1 else 0) 0 = .ok [(a, b, .phys pa key)] →
        recalled fun u => ∀ d mask, (d, mask) ∈ [(Dom.rc, x.rcMask), (Dom.blk, x.blkMask)] → mask ≠ 0 →
          ∃ r, (j, r) ∈ (u.station (stationOf tm.core)).queue ∧ r.asker = .evict tm.core (some t) ∧ r.dom = d ∧ r.line = pa / 256 ∧
            r.kind = .write (mask.setWidth 256 <<< (64 * (pa / 64 % 4)))
              ((tm.stash.getD f 0).setWidth 2048 <<< (512 * (pa / 64 % 4)))))

/-- Barrier wakes (R367, R368, R379): at WAKE_ARRIVAL and REGISTRATION_RETRY a subset evaluates its BWAIT again, and when the phase
of its valid object has passed it is READY there; at DEADLINE_BOOST the owners' waves inherit what their objects lend. That an evaluation
reads the object at its home slice in one step (log entry 49, DEDUCED), and how long a boost lasts when WDL changes (log entry 130, DEDUCED),
are the model's readings. -/
def Obligations.BarrierWakes : Prop :=
  (∀ (s : State) (core t w : Nat) (rest : List Msg) (tm : Team) (wv : Wave) (x : Wait) (va pa key : Nat) (ph : W32),
    x.wake = .bwait false va ph → x.lanes ≠ 0 → s.teams.get? t = some tm → tm.place = .resident → s.wave? t w = some wv →
    wv.waits = [x] →
    let woken (u : State) : Prop := ∃ w', u.wave? t w = some w' ∧ w'.waits = [] ∧ w'.pcs = wv.pcs ∧ w'.vregs = wv.vregs ∧
      ∀ l, l < 32 → x.lanes.getLsbD l = true → w'.threads.getD l .exited = .ready
    (takeFirst (fun m : Msg => match m with | .wake _ _ _ => true | _ => false) (s.core core).inbox = some (.wake t w x.lanes, rest) →
      let s0 := s.modCore core fun c => { c with inbox := rest }
      s0.barPa t va = some (pa, key) → barHolds (s0.readSeen pa 64 key) ph = true →
      ∃ u, exec (.wakeArrival core) s = .next u ∧ woken u) ∧
    (x.registered = false → s.barPa t va = some (pa, key) → barHolds (s.readSeen pa 64 key) ph = true →
      ∃ u, exec (.registrationRetry t w) s = .next u ∧ woken u)) ∧
  (∀ (s : State) (k : Nat),
    ∃ u, exec (.deadlineBoost k) s = .next u ∧ (u.slice k).boosts = [] ∧ u.mem = s.mem ∧
      ∀ t w tm wv l b, s.teams.get? t = some tm → tm.waves.get? w = some wv → s.launches.get? tm.launch = some l →
        b ∈ (s.slice k).boosts → b.2.1.toNat = l.ident → ∃ w', u.wave? t w = some w' ∧ w'.inherited = u.lent t w)

/-! ## Events of engines and channels -/

/-- The copy engines (R280-R286, R324, R326, R330, R331, R337): a command's next element begins when nothing stands before it, and asks
for every piece of its source; an answer is taken in; an element whose source has come is written, or joins its stream; a loaded descriptor
that keeps R326 enters its slot; a command whose bytes are written completes, after the arrival it owes, and leaves the port; a stream
reserves the entries of its ring in order, and fills each with its next 128 bytes, under the tag of the command, when they have landed: the
entry then reads as full. The model's choices: which write-backs an element waits for (log entry 29, DEDUCED), which accesses of
a command overlap (log entry 51, DEDUCED), that an RCOPY or COLL takes a destination line at a time (log entry 60, DEDUCED), and when the
contents of private pages become undefined (log entry 105, DESIGN CHOICE). -/
def Obligations.EngineEvents : Prop :=
  ∀ (s : State) (core : Nat) (c : Cmd), ((s.core core).cmds.find? fun x => x.id == c.id) = some c → (s.core core).stopped = false →
    c.failed = false →
    let leaves (u : State) : Prop := (∀ x ∈ (u.core core).cmds, x.id ≠ c.id) ∧ ∀ x ∈ (u.core core).ranges, x.cmd ≠ c.id
    let becomes (ev : Instr) (p : State → Cmd → Prop) : Prop := ∃ u c', exec ev s = .next u ∧ c' ∈ (u.core core).cmds ∧ c'.id = c.id ∧ p u c'
    let arrived := takeFirst (fun m : Msg => (m.cmdPart core c.id).isSome && s.canTake c.team c.wave m) (s.core core).inbox
    let quiet : Prop := arrived = none ∧ c.parked = [] ∧ c.reads = [] ∧ (s.core core).cmdReady c = true ∧ c.pos < c.count
    let s1 := s.undefinePages
    (∀ w, quiet → c.begun = false → (∀ co, c.kind ≠ .tcopy none co) → s.wave? c.team c.wave = some w →
      cmdAfter (s.cmdsOf c.team) w c = false →
      (∀ bs dst lane, c.element = (.inr bs, dst, lane) → becomes (.engineAccess core c.id) fun _ c' => c'.begun = true ∧ c'.got = [(0, bs)]) ∧
      (∀ a dst lane ps, c.element = (.inl a, dst, lane) →
        s1.engineAccess core c lane a c.size ⟨true, false, false⟩ c.sdom = .ok ps →
        (∀ l ∈ linesOf (ps.map (·.2.2)), s1.pendingRoom c.team c.wave l = true) →
        s1.engineClean core c ((ps.filter fun p => !s1.engineHas c p).map (·.2.2)) = none →
        becomes (.engineAccess core c.id) fun _ c' => c'.begun = true ∧ c'.pos = c.pos ∧ c'.reads.length + c'.got.length = ps.length)) ∧
    (∀ r secs rest n, arrived = some (.readReply r secs false, rest) → (Msg.readReply r secs false).cmdPart core c.id = some n →
      becomes (.engineAccess core c.id) fun u c' => (u.core core).inbox = rest ∧ c'.reads = c.reads.filter (·.id != n) ∧
        c'.got = c.got ++ (c.reads.filter (·.id == n)).map fun p => (p.at_, p.cut secs)) ∧
    (∀ r rest n, arrived = some (.ack r, rest) → (Msg.ack r).cmdPart core c.id = some n →
      becomes (.engineAccess core c.id) fun u c' => (u.core core).inbox = rest ∧ c'.writes = c.writes.filter (·.id != n)) ∧
    (quiet → c.begun = true →
      ((∃ sl, c.kind = .tdesc sl) ∨ c.ring ≠ none →
        becomes (.engineAccess core c.id) fun _ c' => c'.begun = false ∧ c'.pos = c.pos + 1 ∧ c'.stream = c.stream ++ c.bytes) ∧
      (∀ qs, (∀ sl, c.kind ≠ .tdesc sl) → c.ring = none →
        s1.engineAccess core c c.element.2.2 c.element.2.1 c.bytes.length ⟨false, true, false⟩ c.ddom = .ok qs →
        (qs.any fun q => c.clash q) = false → (c.ddom = .rc ∨ c.ddom = .blk ∨ c.writes = []) →
        (c.ddom = .cau → ∀ w, s1.wave? c.team c.wave = some w → w.pendingLines = []) →
        s1.engineClean core c ((qs.map (·.2.2)).filter fun p => !c.local_ p) = none →
        becomes (.engineAccess core c.id) fun _ c' => c'.begun = false ∧ c'.pos = c.pos + 1 ∧
          c'.digest = c.digest ++ c.contributions c.element.2.1 c.bytes)) ∧
    (∀ slot wv, c.kind = .tdesc slot → c.count ≤ c.pos → s.wave? c.team c.wave = some wv →
      descValid (BitVec.ofNat 4608 (leNat c.stream)) = true →
      ∃ u w', exec (.tdescComplete core c.id) s = .next u ∧ u.wave? c.team c.wave = some w' ∧
        (if slot then w'.desc1 else w'.desc0) = some (BitVec.ofNat 4608 (leNat c.stream)) ∧ leaves u) ∧
    ((∀ sl, c.kind ≠ .tdesc sl) → c.written = true → c.parked = [] →
      (2 ≤ c.scope.ctorIdx → (∀ tm, s.teams.get? c.team = some tm → tm.dirtyStash = []) ∧
        ∀ x ∈ (s.core core).wbOut, x.mapped = true → x.dom ≠ c.ddom) →
      (c.bar = none ∨ c.arrived = true → ∃ u, exec (.copyComplete core c.id) s = .next u ∧ leaves u) ∧
      (∀ b, c.bar = some b → c.arrived = false → ((s.cmdIss c).bind fun i => s.release i c.id allDoms c.scope) = none →
        (∀ a n o, s.engineAccess core c c.lane b 64 ⟨true, true, false⟩ .sc = .ok [(a, n, .stash o)] →
          becomes (.copyComplete core c.id) fun u c' => c'.arrived = true ∧
            u.teams.get? c.team = (s.stashBarrier c.team o (.arrive 0 c.total 0 none)).1.teams.get? c.team) ∧
        (∀ a n pa key, s.engineAccess core c c.lane b 64 ⟨true, true, false⟩ .sc = .ok [(a, n, .phys pa key)] →
          s.engineClean core c [.phys pa key] = none →
          becomes (.copyComplete core c.id) fun _ c' => c'.arrived = true ∧ ∃ id, c'.writes = [arrivalPart id b]))) ∧
    (∀ o tm, c.ring = some o → s.teams.get? c.team = some tm → (s.core core).cmdReady c = true →
      c.reserved.length < (c.total + 127) / 128 → 0 < ringFree tm o →
      becomes (.ringReserve core c.id) fun u c' => u.teams.get? c.team = some (ringReserve tm o) ∧ c'.reserved = c.reserved ++ [ringTail tm o]) ∧
    (∀ o n tm, c.ring = some o → c.reserved[c.filled]? = some n → s.teams.get? c.team = some tm →
      Nat.min c.total (128 * (c.filled + 1)) ≤ c.stream.length → 1 ≤ ringNent tm o → ringNent tm o ≤ 64 → ringFull tm o n = false →
      becomes (.ringFill core c.id) fun u c' => c'.filled = c.filled + 1 ∧ ∃ tm', u.teams.get? c.team = some tm' ∧
        ringFull tm' o n = true ∧ ringEntry tm' o (n % ringNent tm o) = Vec.of fun l =>
          ⟨BitVec.ofNat 32 (leAt ((c.stream.drop (128 * c.filled)).take 128) (4 * l) 4), c.etag⟩)

/-- Members behind channels (R340, R341, R351, R429): an entry that has crossed, of the core that its cluster's link is granted to,
reaches the target's buffer, unless the target is fenced; a posted packet, after the release of the push, waits for room, is written to slot
TAIL of the ring, its 128 bytes, and when that store has propagated TAIL advances and the post is done; a ring that the pusher's partition
does not own halts that partition (R8); an enabled port sends its oldest message as a frame, and delivers, or drops and counts, what it
receives. The model's choices: that the release comes first, then the slot, then TAIL, and a team that is gone has none left to make (log
entry 52, DEDUCED), and the byte order of the address and the check sequence (log entry 37, DEDUCED). -/
def Obligations.ChannelMemberEvents : Prop :=
  ∀ (s : State) (k : Nat),
    (∀ dir e rest, (s.core k).links.getD dir [] = e :: rest → s.linkTurn k dir = some k →
      ∃ u, exec (.neighbourEntryArrival k dir) s = .next u ∧ (u.core k).links.getD dir [] = rest ∧
        ((s.spindle (e.target / 36)).fenced = false → (u.core e.target).recv.getD (oppositeDir dir) [] =
          (s.core e.target).recv.getD (oppositeDir dir) [] ++ [e.vec]) ∧
        ((s.spindle (e.target / 36)).fenced = true → (u.core e.target).recv = (s.core e.target).recv)) ∧
    (∀ x rest, (s.queue k).posts = x :: rest →
      (∀ s', s.postRelease x = some s' → exec (.queuePost k) s = .next s') ∧
      (s.postRelease x = none →
        let tail := s.readPa x.cb 8
        let size := 2 ^ s.readPa (x.cb + 24) 1
        let slot := s.readPa (x.cb + 16) 8 + tail % size * 128
        let denied (pa : Nat) : Prop := ∃ u r, exec (.queuePost k) s = .next u ∧ (u.queue k).posts = rest ∧ u.mem = s.mem ∧
          u.slices = s.slices ∧ (u.part x.part).causes = (s.part x.part).causes ++ [r] ∧ r.cause = .permission ∧ r.addr = BitVec.ofNat 64 pa
        (s.ownerOf x.cb ≠ x.part → denied x.cb) ∧
        (s.ownerOf x.cb = x.part → s.withheldAt x.cb 64 = false →
          (size ≤ tail - s.readPa (x.cb + 8) 8 → exec (.queuePost k) s = .next s) ∧
          (tail - s.readPa (x.cb + 8) 8 < size →
            (s.ownerOf slot ≠ x.part → denied slot) ∧
            (s.ownerOf slot = x.part → s.holdsNow slot x.bytes = false →
              (s.readSeen slot 128 0 = x.bytes → exec (.queuePost k) s = .next s) ∧
              (s.readSeen slot 128 0 ≠ x.bytes →
                ∃ u, exec (.queuePost k) s = .next u ∧ (u.queue k).posts = x :: rest ∧
                  (x.bytes.length = 128 → slot % 128 = 0 → (s.homeOf (slot / 256)).isSome = true → u.readSeen slot 128 0 = x.bytes))) ∧
            (s.ownerOf slot = x.part → s.holdsNow slot x.bytes = true →
              ∃ u, exec (.queuePost k) s = .next u ∧ (u.queue k).posts = rest ∧
                (x.cb % 64 = 0 → (s.homeOf (x.cb / 256)).isSome = true → u.readPa x.cb 8 = (tail + 1) % 2 ^ 64)))))) ∧
    (∀ part bs rest, (s.port k).sendQ = (part, bs) :: rest → (s.port k).enable = true →
      ∃ u, exec (.frameSend k) s = .next u ∧ (u.port k).sendQ = rest ∧ (u.port k).wire = (s.port k).wire ++ [frameOf (s.port k) part bs] ∧
        (u.port k).txFrames = (s.port k).txFrames + 1) ∧
    (∀ fr, (s.port k).enable = true →
      ∃ u, exec (.frameReceive k fr) s = .next u ∧
        match (s.port k).accepts fr with
        | some part => (u.port k).recvQ.getD part [] = (s.port k).recvQ.getD part [] ++ [fr.payload] ∧
            (u.port k).rxFrames = (s.port k).rxFrames + 1
        | none => (u.port k).rxDrop = (s.port k).rxDrop + 1 ∧ (u.port k).recvQ = (s.port k).recvQ)

/-! ## Launches, teams and faults -/

/-- Queues and packets (R61-R71, R77): the control block is reread, and that of an ENABLED queue is checked: the lowest cause of R64 that
holds stops the queue, in the engine and in the block; QCMD enables a queue, skipping to TAIL, or disables it, or an error of R64 stops it;
an enabled queue with packets consumes the next one; a launch whose dependences are met proceeds to placement, and so does a child grid that
passes its checks. The model's choices: that the reserved bits of QFLAGS count as a reserved byte (log entry 134, DESIGN CHOICE), that a
block's QCMD is acted on once for each write (log entry 128, DEDUCED), and that a slot is read whole (log entry 60, DEDUCED). -/
def Obligations.QueueEvents : Prop :=
  ∀ (s : State) (k : Nat),
    let q := s.queue k
    (k < 1024 → q.cbpa ≠ 0 → q.qstate ≠ 1 →
      ∃ u, exec (.controlBlockReread k) s = .next u ∧ (u.queue k).tail = BitVec.ofNat 64 (s.readPa q.cb 8) ∧
        (q.cmdWritten = true → let cmd := BitVec.ofNat 8 (s.readPa (q.cb + 0x38) 1)
          (u.queue k).qcmd = if cmdActs cmd q.qstate then cmd else 0) ∧
        (q.cmdWritten = false → (u.queue k).qcmd = q.qcmd) ∧ (u.queue k).head = q.head ∧ u.mem = s.mem) ∧
    (k < 1024 → q.cbpa ≠ 0 → q.qstate = 1 →
      let tail := s.readPa q.cb 8
      let log2 := s.readPa (q.cb + 0x18) 1
      let own := s.queuePart k
      let others := s.queues.filter fun e => e.1 != k && s.queuePart e.1 == own && e.2.qstate == 1
      let beyond (field : Queue → Byte) (o : Nat) : Prop := 256 < others.foldl (fun n e => n + (field e.2).toNat) (s.readPa (q.cb + o) 1)
      let cause1 : Prop := beyond Queue.memres 0x1A ∨ beyond Queue.fabres 0x1B
      let cause2 : Prop := log2 < 6 ∨ 16 < log2 ∨ s.readPa (q.cb + 0x10) 8 % 256 ≠ 0 ∨ 2 ≤ s.readPa (q.cb + 0x3B) 1 ∨
        s.readPa (q.cb + 0x3C) 196 ≠ 0
      let cause3 : Prop := tail < q.head.toNat ∨ 2 ^ log2 < tail - q.head.toNat ∨ 2 ^ 48 - 1 ≤ tail
      let cause4 : Prop := (s.rereadBlock k).ringOwned own ((s.rereadBlock k).queue k) = false
      let c := s.ctx q.ctx.toNat
      let cause6 : Prop := q.ctxValid = false ∨ c.desc = 0 ∨ c.dying = true ∨ bits c.desc 48 8 ≠ own
      ∃ u, exec (.controlBlockReread k) s = .next u ∧ (u.queue k).tail = BitVec.ofNat 64 tail ∧ (u.queue k).head = q.head ∧
        let stops (e : Byte) : Prop := (u.queue k).qstate = 2 ∧ (u.queue k).qerr = e ∧
          ((s.homeOf (q.cb / 256)).isSome = true → u.readPa (q.cb + 0x39) 1 = 2 ∧ u.readPa (q.cb + 0x3A) 1 = e.toNat)
        (cause1 → stops 1) ∧ (¬ cause1 → cause2 → stops 2) ∧ (¬ cause1 → ¬ cause2 → cause3 → stops 3) ∧
        (¬ cause1 → ¬ cause2 → ¬ cause3 → cause4 → stops 4) ∧
        (¬ cause1 → ¬ cause2 → ¬ cause3 → ¬ cause4 → cause6 → stops 6) ∧
        (¬ cause1 → ¬ cause2 → ¬ cause3 → ¬ cause4 → ¬ cause6 → (u.queue k).qstate = 1 ∧ (u.queue k).qerr = q.qerr ∧ u.mem = s.mem)) ∧
    (k < 1024 → q.cbpa ≠ 0 → q.qcmd = 1 → q.qstate ≠ 1 →
      ∃ u, exec (.qcmdEnable k) s = .next u ∧ (u.queue k).qcmd = 0 ∧
        match s.queueError k true with
        | none => (u.queue k).qstate = 1 ∧ (u.queue k).qerr = 0 ∧ (u.queue k).head = q.tail
        | some e => (u.queue k).qstate = 2 ∧ (u.queue k).qerr = e ∧ (u.queue k).head = q.head) ∧
    (k < 1024 → q.cbpa ≠ 0 → q.qcmd = 2 → q.qstate = 1 →
      ∃ u, exec (.qcmdDisable k) s = .next u ∧ (u.queue k).qcmd = 0 ∧ (u.queue k).qstate = 0) ∧
    (k < 1024 → q.qstate = 1 → q.head.toNat < q.tail.toNat → s.running (s.queuePart k) = true → (s.ofQueue k).length < 4096 →
      (∀ l ∈ s.ofQueue k, l.2.st ≠ .waiting ∧ l.2.st ≠ .coWaiting ∧ (l.2.st = .placing → l.2.reexec = true)) →
      ((s.part (s.queuePart k)).modes.getLsbD 3 = true → q.grants ≠ 0) →
      s.withheldAt (q.ringbase.toNat + q.head.toNat % 2 ^ q.log2.toNat * 128) 128 = false →
      ∃ u, exec (.packetConsume k) s = .next u ∧ (u.queue k).head = q.head + 1) ∧
    (∀ l, s.launches.get? k = some l → l.st = .waiting → s.running l.part = true → l.packet.kind = 1 →
      s.dependence l.packet.dep0 0 (nbits l.packet.lflags 1 1 == 1) = .met →
      s.dependence l.packet.dep1 1 (nbits l.packet.lflags 2 1 == 1) = .met →
      ∃ u l', exec (.dependenceSatisfied k) s = .next u ∧ u.launches.get? k = some l' ∧ u.teams = s.teams ∧
        l'.st = if l.packet.coResident && !l.serial then .coWaiting else .placing) ∧
    (∀ l s' l', s.launches.get? k = some l → l.st = .handed → s.running l.part = true → l.fail = 0 → s.examine l = (s', .ok l') →
      ∃ u x, exec (.childLaunch k) s = .next u ∧ u.launches.get? k = some x ∧ x.header = l'.header ∧ x.packet = l'.packet ∧
        x.st = if l'.packet.coResident && !l.serial then .coWaiting else .placing)

/-- Placement and retirement (R49-R56, R70, R85, R86, R412, R417): a launch that may place and has a fitting core places its next team
there, one after the other when it is serialised. The team is resident, and every thread of its waves READY in the initial state of R70: the
PC at CODEOBJ + ENTRY, v0 and v1 the halves of ARGS with tag raw, every other register 0, no predicate or rejoin mask set, counters 0, mode
RNE without FTZ, no flag. A CO-RESIDENT grid is placed whole or not at all; a team that has exited, is idle and has nothing mapped to write
back retires; a grid all of whose teams have retired, and whose stores have propagated, completes. The model's choices: an empty stash (log
entry 7, DESIGN CHOICE), which wave slots (log entry 119, DESIGN CHOICE), and the drain before completion (log entry 34, DEDUCED). -/
def Obligations.PlacementEvents : Prop :=
  ∀ (s : State) (lid : Nat) (l : Launch), s.launches.get? lid = some l →
    let places (ev : Instr) : Prop := ∀ i c h, s.ready? lid l = some (i, c, h) → s.servedFirst lid l = false →
      ∃ u tm, exec ev s = .next u ∧ u.teams.get? s.nextUid = some tm ∧ tm.launch = lid ∧ tm.index = i ∧ tm.core = c ∧
        tm.place = .resident ∧ tm.stash = [] ∧ tm.maps = [] ∧ tm.bind = s.bindings l c h ∧
        tm.tx = i % l.packet.gx ∧ tm.ty = i / l.packet.gx % l.packet.gy ∧ tm.tz = i / (l.packet.gx * l.packet.gy) ∧
        ∀ w, w < l.header.waves → ∃ wv, tm.waves.get? w = some wv ∧
          wv.pcs = List.replicate 32 (l.packet.codeobj + BitVec.ofNat 64 l.header.entry) ∧ wv.threads = List.replicate 32 .ready ∧
          (∀ n, n < l.header.regs → ∀ lane, lane < 32 → (wv.vregs.getD n Vec.zero).tagAt lane = 0 ∧
            (wv.vregs.getD n Vec.zero).val lane =
              if n = 0 then l.packet.args.setWidth 32 else if n = 1 then l.packet.args.extractLsb' 32 32 else 0) ∧
          wv.preds = List.replicate 12 0 ∧ wv.rejoin = List.replicate 4 0 ∧ wv.mem = 0 ∧ wv.cpy = 0 ∧ wv.mtx = 0 ∧ wv.net = 0 ∧
          wv.rm = 0 ∧ wv.ftz = false ∧ wv.flags = List.replicate 32 0 ∧ wv.waits = [] ∧ wv.ops = []
    (l.serial = false → places (.teamPlace lid)) ∧ (l.serial = true → places (.serialisedExecution lid)) ∧
    (s.servedFirst lid l = true ∨ s.admitAll lid l = none → exec (.coResidentAdmit lid) s = .next s) ∧
    (∀ u, s.servedFirst lid l = false → s.admitAll lid l = some u → l.ready = [] → l.nextTeam ≤ l.total →
      exec (.coResidentAdmit lid) s = .next u ∧ ∃ l', u.launches.get? lid = some l' ∧ l'.nextTeam = l.total) ∧
    (∀ t tm, s.teams.get? t = some tm → tm.launch = lid → tm.place = .resident ∨ tm.place = .draining → tm.allExited = true →
      s.running l.part = true → (s.spindle (tm.core / 36)).fenced = false → (tm.kids.any ChildSlot.isLive) = false → tm.idle = true →
      tm.dirtyStash = [] →
      ∃ u l', exec (.teamRetire t) s = .next u ∧ u.teams.get? t = none ∧ u.launches.get? lid = some l' ∧ l'.retired = l.retired + 1) ∧
    (l.st = .placed → l.retired = l.total → s.running l.part = true → l.parent = none → l.header.record = false →
      l.header.check = false ∨ l.packet.compl = 0 → s.drainFor lid l = none → s.drainFor lid { l with drain := none } = none →
      ∃ u, exec (.gridRetire lid) s = .next u ∧ u.launches.get? lid = none ∧
        ∀ t tm, s.teams.get? t = some tm → ∃ tm', u.teams.get? t = some tm' ∧ tm'.waves = tm.waves)

/-- Pre-emption and debug saves (R405-R411): a saveable team that is wanted away, has nothing masked or under way and finds a slot is saved
there: its image stands in memory from the slot's base on, with the values, PCs and predicates of its waves and a wake record for each wait;
a saved team one of whose wake records is met waits for re-admission; it is restored on a core that it may use and that has room when it
gives way to no other; DEBUG_SAVE keeps the image of a halted team, DEBUG_RESUME takes it back and clears its breakpoint stops. The model's
choices: the places of the fields in the image (log entry 32, DESIGN CHOICE), what must have come to rest before a save (log entry 72,
DEDUCED), who gives way to whom (log entry 121, DEDUCED), what a debug save restores (log entry 106, DEDUCED). -/
def Obligations.PreemptionEvents : Prop :=
  ∀ (s : State) (t : Nat) (tm : Team) (l : Launch), s.teams.get? t = some tm → s.launches.get? tm.launch = some l →
    let regs := l.header.regs
    let size := 256 + l.header.waves * waveSpan regs + l.header.stash
    let desc := s.descOf l.ctx tm.ver
    let stands (u : State) (k : Nat) : Prop := (∀ i, i < (tm.image l).length → (s.homeOf ((slotBase desc k + i) / 256)).isSome = true) →
      u.readSeen (slotBase desc k) (tm.image l).length 0 = tm.image l
    (∀ k, tm.place = .resident → s.running l.part = true → (s.core tm.core).stopped = false → tm.saveable = true →
      (s.core tm.core).wbOut = [] → ((s.core tm.core).sq.all fun q => q.2.all fun e => e.team != t) = true →
      (∀ w ∈ tm.waves, w.2.pendingLines = []) → s.sendHome t tm l = none → l.packet.coResident = false →
      (s.ctx l.ctx).preq = true ∨ s.preceded tm l = true → s.saveSlot l.part l.ctx desc size = some k →
      ∃ u tm', exec (.preemptSave t) s = .next u ∧ u.teams.get? t = some tm' ∧ tm'.place = .saved k ∧ stands u k) ∧
    (∀ j w wv, tm.waves[j]? = some (w, wv) → (∀ x ∈ tm.waves, x.2.vregs.length = regs ∧ ∀ v ∈ x.2.vregs, v.length = 32) →
      let at_ (o n : Nat) : List Byte := ((tm.image l).drop (256 + j * waveSpan regs + o)).take n
      let record (n kind address value : Nat) (lanes : Mask) : Prop := at_ (144 * regs + 2444 + 32 * n) 32 =
        toLe 4 kind ++ toLe 4 lanes.toNat ++ toLe 8 address ++ toLe 8 value ++ toLe 8 wv.replies
      let address (b : Nat) : Nat := (tm.bind[b]?).elim 0 fun b => b.addr.toNat
      (∀ n lane, n < regs → lane < 32 → at_ (128 * n + 4 * lane) 4 = toLe 4 ((wv.vregs.getD n Vec.zero).val lane).toNat) ∧
      (∀ lane, lane < 32 → at_ (144 * regs + 8 * lane) 8 = toLe 8 (wv.pcs.getD lane 0).toNat) ∧
      (∀ n, n < 12 → at_ (144 * regs + 288 + 4 * n) 4 = toLe 4 (wv.preds.getD n 0).toNat) ∧
      ∀ x, wv.waits = [x] → match x.wake with
        | .bwait _ a ph => record 0 1 a ph.toNat x.lanes
        | .ringPop o => record 0 2 o (ringHead tm o) x.lanes
        | .recv b => record 0 2 (address b) 0 x.lanes
        | .push b => record 0 3 (address b) (if (tm.bind[b]?).any (·.kind == 5) then ringTail tm (address b) else 0) x.lanes
        | .remote _ => record 0 4 0 0 x.lanes
        | .gjoin c => record 0 5 c 0 x.lanes
        | .fault ps => ∀ n p, n < 32 → ps[n]? = some p → record n 6 p.1.toNat (p.2.getD 0).toNat x.lanes
        | .yield => record 0 7 0 0 x.lanes) ∧
    (∀ k, tm.place = .saved k → tm.readmitSince = none →
      (∃ w ∈ tm.waves, ∃ x ∈ w.2.waits, s.waitMet t tm l w.2 x = true) →
      ∃ u tm', exec (.wakeEvaluate t) s = .next u ∧ u.teams.get? t = some tm' ∧ tm'.readmitSince = some s.time ∧ tm'.waves = tm.waves) ∧
    (∀ k since core, tm.place = .saved k → tm.readmitSince = some since → s.running l.part = true → l.wants tm.index core = true →
      s.coreFits core l.header = true → s.givesWay (t, tm, l) core = false →
      ∃ u tm', exec (.teamRestore t core) s = .next u ∧ u.teams.get? t = some tm' ∧ tm'.place = .resident ∧ tm'.core = core ∧
        tm'.readmitSince = none ∧ tm'.stash = tm.stash) ∧
    (∀ k p, s.bootstat = 1 → s.haltedTeams p = [(t, tm, l)] → s.saveSlot l.part l.ctx desc size = some k →
      ∃ u tm', exec (.debugSave p) s = .next u ∧ u.teams.get? t = some tm' ∧ tm'.debugSaved = some k ∧ tm'.place = tm.place ∧ stands u k) ∧
    (∀ k p, s.bootstat = 1 → s.haltedTeams p = [(t, tm, l)] → tm.debugSaved = some k →
      ∃ u tm', exec (.debugResume p) s = .next u ∧ u.teams.get? t = some tm' ∧ tm'.debugSaved = none ∧
        ∀ w wv, tm.waves.get? w = some wv → ∃ w', tm'.waves.get? w = some w' ∧ w'.brkStop = 0 ∧ w'.trapped = wv.trapped)

/-- The fault queue, the halt and the loss of a spindle (R90, R357, R359, R393-R404): a parked access takes a free entry; FQTAKE moves an entry
of STATE 1 on, and FQRESOLVE one of STATE 2: the accesses parked on it are replayed, so that no wait and no command names it any more and a
subset that waited for nothing else is READY, and the entry is free; STATE 3 is passed within that step, since every access leaves the entry at
once. A SEQ that names no entry in that STATE changes nothing but ERR. A failed resolve, an expired watchdog and uncorrectable data, which are
withheld, raise their causes; a cause halts the partition; a failed or timed-out spindle is fenced, and a link on which a request runs out is
lost. The model's choices: the first free entry is taken (log entry 77, DEDUCED), who may serve an entry (log entry 98, DEDUCED), which launch
uncorrectable data name (log entry 100, DEDUCED), which requests cross to a spindle (log entry 94, DEDUCED), and that a time-out on a link in
service loses it (log entry 126, DEDUCED). -/
def Obligations.FaultEvents : Prop :=
  ∀ (s : State) (p : Nat),
    let x := s.part p
    let rejected (ev : Instr) (o : Nat) : Prop := ∃ u, exec ev s = .next u ∧ u.err = true ∧
      u.errAddr = BitVec.ofNat 32 (0x100000 + 0x1000 * p + o) ∧ u.parts = s.parts ∧ u.teams = s.teams
    (∀ a k, x.fqWait = [a] → x.pstate = 1 → (∀ e ∈ x.fq, ¬ (e.ctx = a.ctx ∧ e.vpage = a.vpage)) →
      ((List.range 512).find? fun k => !(x.fq.any fun e => e.slot == k)) = some k →
      ∃ u, exec (.faultPark p) s = .next u ∧ (u.part p).fqWait = [] ∧
        (u.part p).fq = x.fq ++ [a.entry k x.nextSeq (if x.dbghalt = 0 then s.tsc else 0) (x.modes.getLsbD 0)] ∧
        (u.part p).nextSeq = x.nextSeq + 1) ∧
    (∀ e, e ∈ x.fq →
      (s.bootstat = 1 → e.state = 1 → exec (.fqtake p e.seq) s = .next (s.modPart p fun y =>
        { y with fq := y.fq.map fun z => if z.seq = e.seq then { z with state := 2 } else z })) ∧
      (s.bootstat = 1 → (x.fq.find? fun z => z.seq == e.seq && z.state == 2) = some e →
        (∃ u, exec (.fqresolve p e.seq) s = .next u ∧ ((u.part p).fq = x.fq.filter fun z => z.seq != e.seq) ∧
          (∀ t tm w wv, s.teams.get? t = some tm → s.runsUnder p e.ctx tm = true → tm.waves.get? w = some wv → ∃ w', u.wave? t w = some w' ∧
            (∀ y ∈ w'.waits, ∀ ps, y.wake = .fault ps → (e.vpage, some e.seq) ∉ ps) ∧
            ∀ y ∈ wv.waits, y.wake = .fault [(e.vpage, some e.seq)] → tm.place = .resident →
              ∀ lane, lane < 32 → y.lanes.getLsbD lane = true → w'.threads.getD lane .exited = .ready) ∧
          ∀ core, ∀ c ∈ (u.core core).cmds, (s.teams.get? c.team).elim false (s.runsUnder p e.ctx) = true →
            (e.vpage, some e.seq) ∉ c.parked) ∧
        (∃ u, exec (.fqresolveFail p e.seq) s = .next u ∧ (u.part p).causes = x.causes ++
          [⟨.faultfail, s.tsc, engineSource p, e.vpage, 0, e.ctx, e.ident⟩])) ∧
      ((x.fq.find? fun z => z.seq == e.seq && (z.state == 1 || z.state == 2)) = some e → s.running p = true → x.dbghalt = 0 →
        x.fwdog.toNat < s.tsc.toNat - e.since.toNat →
        ∃ u, exec (.watchdog p e.seq) s = .next u ∧ (u.part p).causes = x.causes ++
          [⟨.watchdog, s.tsc, engineSource p, e.vpage, 0, e.ctx, e.ident⟩])) ∧
    (∀ seq, s.bootstat = 1 →
      ((∀ e ∈ x.fq, e.seq = seq → e.state ≠ 1) → rejected (.fqtake p seq) 0x78) ∧
      ((∀ e ∈ x.fq, e.seq = seq → e.state ≠ 2) → rejected (.fqresolve p seq) 0x80 ∧ rejected (.fqresolveFail p seq) 0x80)) ∧
    (∀ c, firstCause x.causes = some c → x.pstate = 1 →
      ∃ u, exec (.halt p) s = .next u ∧ (u.part p).pstate = 2 ∧ (u.part p).hcause = BitVec.ofNat 8 c.cause.code ∧ (u.part p).fq = [] ∧
        (s.evq.base = 0 → (u.part p).causes = []) ∧ ∀ k ∈ s.partCores p, (u.core k).stopped = true) ∧
    (∀ source addr, s.running p = true → (unitKind source = 1 → (s.spindle (source / 64)).part = p) →
      (unitKind source ≠ 1 → s.ownerOf addr.toNat = p) →
      let at_ := source / 64 * 36 + source % 64
      let met := if unitKind source = 1 then s.touching at_ (addr.toNat / 64)
        else s.slices.flatMap fun sl => (sl.2.admitted.filter fun r => r.line == addr.toNat / 256).map Req.asker
      let raises (ctx ident : Nat) : Prop := ∃ u, exec (.uncorrectable p source addr) s = .next u ∧
        (unitKind source ≠ 1 → addr.toNat / 64 ∈ u.withheld) ∧ (unitKind source = 1 → addr.toNat / 64 ∈ (u.core at_).badVa) ∧
        (u.part p).causes = x.causes ++ [⟨.uncorrectable, s.tsc, source, addr, 0, ctx, ident⟩]
      (met = [] → raises 0xFFFF 0) ∧
      ∀ t w o tm l, met = [.op t w o] → s.teams.get? t = some tm → s.launches.get? tm.launch = some l → raises l.ctx l.ident) ∧
    (∀ k, k < 24 → (s.spindle k).fenced = false → ∃ u, exec (.dieFailure k) s = .next u ∧ (u.spindle k).fenced = true) ∧
    (∀ core k, k < 24 → (s.spindle k).fenced = false → (s.part (s.spindle k).part).dbghalt.getLsbD k = false →
      let old (since : W64) : Prop := (s.part (s.spindle k).part).todie.toNat ≤ (s.tsc - since).toNat
      ((∃ d, ∃ e ∈ (s.core core).links.getD d [], e.target / 36 = k ∧ k ≠ core / 36 ∧ old e.since) ∨
        (∃ sl ∈ s.slices, ∃ w ∈ sl.2.pend, (∃ c ∈ w.cores, c / 36 = k) ∧ old w.since) ∨
        ∃ l ∈ s.links, ∃ y ∈ l.2.snoops, (∃ w ∈ y.waits, w.2 / 36 = k) ∧ old y.since) →
      ∃ u, exec (.crossDieTimeout core k) s = .next u ∧ (u.spindle k).fenced = true) ∧
    (∀ link o t, o ∈ (s.link link).outstanding → o.part = p → (o.sent = true → s.heldSince p link = none) → o.since = some t →
      x.tolink.toNat ≤ (s.tsc - t).toNat →
      ∃ u, exec (.crossLinkTimeout p link) s = .next u ∧
        if (s.link link).inService then (u.link link).inService = false ∧ (u.link link).retraining = true
        else s.running p = true → ∃ r, (u.part p).causes = x.causes ++ [r] ∧ r.cause = .linklost)

/-! ## Links and the host -/

/-- Flits and control flits (R298, R353-R355, R464): a message that may leave goes out, with its remaining time, in a flit with its header and
CRC that joins the replay buffer; the flit expected is accepted, any other is discarded with a negative acknowledgement; a snoop of a line
that no core holds or awaits is acknowledged at once (R298); a repeat, a time-out and a control flit do what R355 and R464 say of counts,
resends and credits. The model's choices: the layout of messages in the payload (log entry 38, DESIGN CHOICE), which bits go on which
wavelength (log entry 124, DEDUCED), the parameters of CRC-32C (log entry 123, PRESUMED), when a repeat is due (log entry 83, DEDUCED), and
the clock of the 200 ns, 100 ns and 2 µs (log entry 133, DESIGN CHOICE). -/
def Obligations.FlitEvents : Prop :=
  ∀ (s : State) (l : Nat),
    let k := s.link l
    (let s0 := (s.absorbPort l).snoopsDone l
     let k0 := s0.link l
     ∀ m, s0.linkUp l = true → k0.resendAt = 0 → k0.replay.length < 4096 → k0.sendQ = [m] → s0.mayLeave l m = true → m.msg.net < 5 →
      0 < k0.credits.getD m.msg.net 0 → k0.sentBytes.getD m.msg.net 0 = 0 → linkSize m.msg ≤ 250 →
      let out := (s0.stamped m).msg
      let frame := FlitFrame.make (Config.flitPayload [out] 0) (BitVec.ofNat 3 m.msg.net) k0.nextSeq
      ∃ u, exec (.flitSend l) s = .next u ∧ (u.link l).replay = k0.replay ++ [(⟨frame, [out]⟩, 0)] ∧
        ((u.link l).fibre = (frame.fibre k0.txMask).filter fun w => !s0.lasersOut.getLsbD w.1) ∧ (u.link l).sendQ = [] ∧ (u.link l).nextSeq = k0.nextSeq + 1) ∧
    (∀ fl : Flit, s.linkUp l = true → fl.frame.net ≤ 4 →
      (fl.frame.intact = true → fl.frame.seq = k.rxExpect →
        ∃ u, exec (.flitReceive l fl) s = .next u ∧ (u.link l).rxExpect = k.rxExpect + 1 ∧ (u.link l).rxDiscarding = false) ∧
      (∀ m line, fl.frame.intact = true → fl.frame.seq = k.rxExpect → fl.msgs = [m] → m.body = .snoop line → k.snoops = [] →
        (∀ c ∈ s.cores, c.2.farCopies l line = []) →
        ∃ u out, exec (.flitReceive l fl) s = .next u ∧ (u.link l).sendQ = k.sendQ ++ [out] ∧ (u.link l).snoops = [] ∧
          out.msg.tag = m.tag ∧ out.msg.net = m.net ∧ out.msg.body = .snoopAck line) ∧
      (fl.frame.intact = false ∨ fl.frame.seq ≠ k.rxExpect →
        ∃ u, exec (.flitReceive l fl) s = .next u ∧ (u.link l).rxExpect = k.rxExpect ∧ (u.link l).rxDiscarding = true ∧
          (u.link l).rxNakCount = (if k.rxDiscarding then k.rxNakCount else k.rxNakCount + 1) ∧ u.routers = s.routers ∧ u.mem = s.mem)) ∧
    (s.linkUp l = true → k.rxDiscarding = true → k.rxAgain = true → k.rxLastNak + 1200 ≤ s.time →
      ∃ u, exec (.nakRepeat l) s = .next u ∧ (u.link l).rxNakCount = k.rxNakCount + 1 ∧ (u.link l).rxAgain = false) ∧
    (k.inService = true → k.replay ≠ [] → k.lastSend + 12000 ≤ s.time →
      ∃ u, exec (.ackTimeout l) s = .next u ∧ (u.link l).resendAt = k.replay.length ∧ (u.link l).lastSend = s.time) ∧
    (s.linkUp l = true → k.ctlDue = true ∨ k.lastCtl + 600 ≤ s.time →
      let c : CtlState := ⟨k.rxExpect, k.rxNakCount, k.rxNakSeq, k.rxCredits, k.lit, k.darkNs, k.probe⟩
      ∃ u, exec (.controlFlitSend l) s = .next u ∧ (u.link l).ctlDue = false ∧ (u.link l).lastCtl = s.time ∧
        (u.link l).ctlSent = [⟨FlitFrame.make (Config.controlPayload c) 7 0, c⟩] ∧
        (u.link l).fibre = ((FlitFrame.make (Config.controlPayload c) 7 0).fibre k.txMask).filter fun w => !s.lasersOut.getLsbD w.1) ∧
    (∀ fl : CtlFlit, s.linkUp l = true → fl.frame.intact = true → fl.frame.net = 7 →
      let c := fl.state
      ∃ u, exec (.controlFlitReceive l fl) s = .next u ∧ (u.link l).peerLit = c.lit ∧ (u.link l).txCreditSeen = c.credits ∧
        (∀ n, n < 5 → (u.link l).credits.getD n 0 = k.credits.getD n 0 + (c.credits.getD n 0 - k.txCreditSeen.getD n 0).toNat) ∧
        (c.nakCount = k.txNakSeen + 1 → (u.link l).txNakSeen = c.nakCount ∧ (u.link l).resendAt = (u.link l).replay.length))

/-- Light, loss and recovery of a link (R352, R356-R358, R465): lost wavelengths leave the lit mask and, at the restripe after the report, the
masks in use; a failed laser source darkens its four wavelengths of every link; a record that is final is written: the 32 bytes of R356 stand
in the event queue behind EQTAIL, or EQDROP counts one more (R435); a link with fewer than 4 wavelengths lit is lost and retrains; it returns on
the lit ones; wavelengths are restored; the host's choice ends the hold of its partition. The model's choices: the records and the event
queue's count (log entries 58 and 59, DEDUCED), the wavelengths in use in TRIM (log entry 81, DEDUCED), light that comes from outside (log
entry 84, DEDUCED), and a LINKSVC for a link that holds nothing (log entry 93, DEDUCED). -/
def Obligations.LinkEvents : Prop :=
  ∀ (s : State) (l : Nat),
    let k := s.link l
    (∀ lost, l < 32 → k.inService = true → k.lit &&& lost ≠ 0 →
      ∃ u, exec (.lossOfLight l lost none) s = .next u ∧ (u.link l).lit = k.lit &&& ~~~lost ∧ (u.link l).detectTsc = s.tsc ∧
        (u.link l).darkNs = (s.tsc - k.lastGood).setWidth 32 ∧ (u.link l).ctlDue = true ∧ (u.link l).rxMask = k.rxMask) ∧
    (∀ source lost, source < 4 → ∃ u, exec (.lossOfLight l lost (some source)) s = .next u ∧ u.links = s.links ∧
      ∀ w, w < 16 → u.lasersOut.getLsbD w = (s.lasersOut.getLsbD w || decide (w / 4 = source))) ∧
    (k.inService = true → k.rxMask &&& k.reported = k.rxMask &&& k.lit →
      k.rxMask &&& k.lit ≠ k.rxMask ∨ k.txMask &&& k.peerLit ≠ k.txMask →
      ∃ u, exec (.restripe l (k.rxMask &&& k.lit) (k.txMask &&& k.peerLit)) s = .next u ∧ (u.link l).rxMask = k.rxMask &&& k.lit ∧
        (u.link l).txMask = k.txMask &&& k.peerLit) ∧
    (∀ r rest, k.records = r :: rest → r.accepted = true → r.dir = 1 ∨ k.resendAt = 0 →
      let q := s.evq
      let full : Prop := q.base = 0 ∨ q.log2.toNat < 6 ∨ 16 < q.log2.toNat ∨ 2 ^ q.log2.toNat ≤ (q.tail - q.head).toNat
      let slot := q.base.toNat + 32 * (q.tail.toNat % 2 ^ q.log2.toNat)
      ∃ u, exec (.linkEventRecord l) s = .next u ∧ (u.link l).records = rest ∧
        (full → u.evq.drop = q.drop + 1 ∧ u.evq.tail = q.tail ∧ u.mem = s.mem) ∧
        (¬ full → u.evq.tail = q.tail + 1 ∧ u.evq.drop = q.drop ∧
          (q.base.toNat % 4096 = 0 → (s.homeOf (slot / 256)).isSome = true → u.readSeen slot 32 0 =
            toLe 8 r.tsc.toNat ++ toLe 2 (linkSource l) ++ toLe 1 r.code ++ toLe 1 l ++ toLe 2 r.oldMask.toNat ++ toLe 2 r.newMask.toNat ++
              toLe 4 r.replayed ++ toLe 4 r.darkNs.toNat ++ toLe 1 r.dir ++ List.replicate 7 0))) ∧
    (k.inService = true → waveCount (k.txMask &&& k.peerLit) < 4 ∨ waveCount (k.rxMask &&& k.lit) < 4 →
      ∃ u, exec (.linkLost l) s = .next u ∧ (u.link l).inService = false ∧ (u.link l).retraining = true ∧ (u.link l).replay = k.replay) ∧
    (∀ rx tx, k.retraining = true →
      ∃ u, exec (.retrainEnd l rx tx) s = .next u ∧ (u.link l).retraining = false ∧
        (4 ≤ waveCount rx → 4 ≤ waveCount tx → (u.link l).inService = true ∧ (u.link l).rxMask = s.inUse l rx ∧
          (u.link l).txMask = s.inUse l tx ∧ (u.link l).resendAt = k.replay.length) ∧
        (waveCount rx < 4 ∨ waveCount tx < 4 → (u.link l).retrainFailed = true ∧ (u.link l).inService = k.inService)) ∧
    (∀ waves rx tx, s.bootstat = 1 → l < 32 → waves ≠ 0 → (s.unit (linkUnit l)).state < 3 → k.inService = true →
      ∃ u, exec (.restore l waves rx tx) s = .next u ∧ (u.link l).txMask = s.inUse l (k.txMask ||| (waves &&& tx)) ∧
        (u.link l).rxMask = s.inUse l (k.rxMask ||| (waves &&& rx)) ∧ (u.link l).probe = waves) ∧
    (∀ p t, s.bootstat = 1 → (s.part p).linkHeld = [(l, t)] →
      (∃ u, exec (.linksvcWait p l) s = .next u ∧ (u.part p).linkHeld = [] ∧ l ∈ (u.part p).linkWaits) ∧
      (s.running p = true → ∃ u r, exec (.linksvcLinklost p l) s = .next u ∧ (u.part p).linkHeld = [] ∧
        (u.part p).causes = (s.part p).causes ++ [r] ∧ r.cause = .linklost))

/-- Power, spindle commands and boot (R432-R437, R463): a valid command puts its unit in the state it names, or, under protection, in the
lower of that and its own; protection lowers and releases a unit; a command that takes power from storage of an owned granule is rejected and
sets ERR alone; SPOP resets, fences or returns a spindle, and a reset ends; boot ends running, or in recovery when verification fails. The
model's choices: CMD values beyond the five states are rejected (log entry 88, DEDUCED), the states that protection asks for (log entry 46,
DEDUCED), how far a boot has come (log entry 92, DESIGN CHOICE). -/
def Obligations.PowerAndBootEvents : Prop :=
  ∀ (s : State) (n : Nat),
    let x := s.unit n
    let owned : Prop := 24 ≤ n ∧ n < 36 ∧ ∃ g ∈ s.granuleOwner, g.2 ≠ 0xFF ∧ (g.1 / 32 = n - 24 ∨ (512 ≤ g.1 ∧ g.1 < 896))
    let rejected (target : Nat) : Prop := ∃ u, exec (.powerCommand n target) s = .next u ∧ u.err = true ∧
      u.errAddr = BitVec.ofNat 32 (0x250000 + 8 * n) ∧ u.units = s.units ∧ u.mem = s.mem ∧ u.spindles = s.spindles
    (∀ target, s.bootstat = 1 → n < 68 → target ≤ 4 → ¬ (3 ≤ target ∧ owned) →
      ∃ u, exec (.powerCommand n target) s = .next u ∧ (u.unit n).cmd = target ∧
        (x.prot = false → (u.unit n).state = target) ∧ (x.prot = true → (u.unit n).state = Nat.max x.state target)) ∧
    (∀ target, s.bootstat = 1 → target ≤ 4 → 3 ≤ target → owned → rejected target) ∧
    (∀ target, s.bootstat = 1 → n < 68 → 4 < target → rejected target) ∧
    (∀ target, 68 ≤ n → exec (.powerCommand n target) s = .next s) ∧
    (∀ oc p, n < 68 → protectState n oc = some p →
      ∃ u, exec (.protectionEnter n oc) s = .next u ∧ (u.unit n).prot = true ∧ (u.unit n).state = Nat.max x.state p ∧
        (u.unit n).cmd = x.cmd) ∧
    (x.prot = true → ∃ u, exec (.protectionRelease n) s = .next u ∧ (u.unit n).prot = false ∧ (u.unit n).state = x.cmd) ∧
    (s.bootstat = 1 → n < 24 →
      ∃ u, exec (.spopReset n) s = .next u ∧ (u.spindle n).fenced = true ∧ (u.spindle n).resetting = true) ∧
    (s.bootstat = 1 → n < 24 → ∃ u, exec (.spopFence n) s = .next u ∧ (u.spindle n).fenced = true) ∧
    (s.bootstat = 1 → n < 24 → (s.spindle n).fenced = true → (s.spindle n).resetting = false → (s.part (s.spindle n).part).pstate = 1 →
      ∃ u, exec (.spopReturn n) s = .next u ∧ (u.spindle n).fenced = false ∧ (u.spindle n).part = (s.spindle n).part) ∧
    ((s.spindle n).resetting = true → ∃ u, exec (.resetComplete n) s = .next u ∧ (u.spindle n).resetting = false ∧
      (u.spindle n).fenced = (s.spindle n).fenced) ∧
    (s.bootstat = 0 →
      (∃ u, exec (.boot true) s = .next u ∧ u.bootstat = 1) ∧ (∃ u, exec (.boot false) s = .next u ∧ u.bootstat = 2))

/-- The host's accesses, the identity registers, keys, SPDM and translation invalidations (R15, R66, R152, R266, R423-R425, R431, R436, R438).
A queue pair with nothing under way: an RDMA write of an aligned register writes the register; one of a line of memory goes to the line's home
slice as a request for exactly its bytes (what the slice then does of it O48 states, and the pair goes on when it is answered), or, where no
slice is home, stands in storage at once; either is answered once, and a malformed access to the management block is rejected. An RDMA read
gives the register, or, of withheld data, an error. A write to a partition's HBASE is what a read gives back; a misaligned register write sets
ERR with its offset; a loaded key is the one in KEYDATA, which is then zero; the responder puts its answer into the mailbox; a translation
invalidation begins, sends home what stands masked when no access that used a translation is under way, and completes when that has arrived,
with no translation of the range in any core. The model's choices: queue pairs and their numbers (log entry 132, DESIGN CHOICE), key 0 for the
host (log entry 39, DEDUCED), a port that is up only after boot and the hand-over of requests to the responder (log entry 92, DESIGN CHOICE),
recovery (log entry 99, DEDUCED), and the stages of an invalidation (log entry 129, DEDUCED). -/
def Obligations.HostEvents : Prop :=
  ∀ (s : State) (qp : Nat),
    let base := Config.mbase
    let idle : Prop := s.hostQp qp = ⟨[], false, []⟩ ∧ qp < 132
    let plain (pa n : Nat) : Prop := inMgmt pa n = false ∧ s.bootstat = 1 ∧ (paPlace pa).isSome = true ∧ (paPlace (pa + n - 1)).isSome = true
    (∀ p v, idle → s.bootstat = 1 → p < 24 →
      ∃ u, exec (.rdmaWrite qp (base + (0x100030 + 4096 * p)) (toLe 8 v)) s = .next u ∧ u.hostOut = s.hostOut ++ [.ack qp] ∧
        (u.part p).hbase = BitVec.ofNat 64 v ∧ u.mem = s.mem ∧ u.err = s.err) ∧
    (∀ pa data, idle → s.bootstat ≠ 0 → inMgmt pa data.length = true → isRegister pa data.length = false →
      ∃ u, exec (.rdmaWrite qp pa data) s = .next u ∧ u.hostOut = s.hostOut ++ [.ack qp] ∧ u.err = true ∧
        u.errAddr = BitVec.ofNat 32 (pa - base) ∧ u.mem = s.mem ∧ u.parts = s.parts) ∧
    (∀ pa data k, idle → data ≠ [] → pa % 256 + data.length ≤ 256 → plain pa data.length → s.homeOf (pa / 256) = some k →
      ∃ u r o x, exec (.rdmaWrite qp pa data) s = .next u ∧ u.hostOut = s.hostOut ∧ (u.hostQp qp).ops = [.write pa data, .ack] ∧
        x ∈ (u.router (sockRouter (12 + qpDie qp))).out.getD o [] ∧ x.dest = .slice k ∧ x.msg = .request r ∧
        r.asker = .host qp ∧ r.line = pa / 256 ∧ r.key = 0 ∧ (r.dom = if qp < 128 then .tso else .sc) ∧
        ∃ m d, r.kind = .write m d ∧ ∀ i, i < 256 →
          m.getLsbD i = decide (pa % 256 ≤ i ∧ i < pa % 256 + data.length) ∧
          (pa % 256 ≤ i → i < pa % 256 + data.length → d.extractLsb' (8 * i) 8 = data.getD (i - pa % 256) 0)) ∧
    (∀ pa data, idle → data ≠ [] → pa % 64 + data.length ≤ 64 → plain pa data.length → s.homeOf (pa / 256) = none →
      s.sockUp (memSocket pa) = true → Memory.wf s.mem = true →
      ∃ u, exec (.rdmaWrite qp pa data) s = .next u ∧ u.hostOut = s.hostOut ++ [.ack qp] ∧
        Memory.readN u.mem (storageAddr (pa / 64 * 64) + pa % 64) data.length = data) ∧
    (∀ pa len, idle → s.bootstat ≠ 0 → inMgmt pa len = true → isRegister pa len = true →
      ∃ u, exec (.rdmaRead qp pa len) s = .next u ∧ u.hostOut = s.hostOut ++ [.data qp (toLe 8 (s.regRead (pa - base)))] ∧ u.mem = s.mem) ∧
    (∀ pa len, idle → 0 < len → pa % 256 + len ≤ 256 → plain pa len → s.homeOf (pa / 256) = none → s.sockUp (memSocket pa) = true →
      s.withheldAt pa len = true →
      ∃ u, exec (.rdmaRead qp pa len) s = .next u ∧ u.hostOut = s.hostOut ++ [.remoteError qp] ∧ u.mem = s.mem) ∧
    (∀ pa data len, s.bootstat ≠ 0 → 132 ≤ qp →
      exec (.rdmaWrite qp pa data) s = .next { s with hostOut := s.hostOut ++ [.remoteError qp] } ∧
      exec (.rdmaRead qp pa len) s = .next { s with hostOut := s.hostOut ++ [.remoteError qp] }) ∧
    (∀ pa data len, s.bootstat = 0 → exec (.rdmaWrite qp pa data) s = .next s ∧ exec (.rdmaRead qp pa len) s = .next s) ∧
    (s.bootstat ≠ 0 → ∃ u, exec (.remoteOperationError qp) s = .next u ∧ u.hostOut = s.hostOut ++ [.remoteError qp] ∧ u.mem = s.mem) ∧
    (∀ p v, p < 24 → s.bootstat = 1 →
      ∃ u, exec (.registerWrite (0x100030 + 4096 * p) v) s = .next u ∧ (u.part p).hbase = v ∧ u.regRead (0x100030 + 4096 * p) = v.toNat ∧
        u.err = s.err) ∧
    (∀ off v, s.bootstat ≠ 0 → off % 8 ≠ 0 →
      exec (.registerWrite off v) s = .next { s with err := true, errAddr := BitVec.ofNat 32 off }) ∧
    (exec .errClear s = .next { s with err := false }) ∧
    (∀ on, exec (.freeze on) s = .next { s with freeze := on }) ∧
    (∀ core, s.bootstat = 1 → core < 864 →
      ∃ u, exec (.counterClear core) s = .next u ∧ (u.core core).reuseLook = 0 ∧ (u.core core).reuseHit = 0 ∧
      (u.core core).collide = 0 ∧ (u.core core).overflow = 0 ∧ (u.core core).swaps = 0 ∧ (u.core core).l1 = (s.core core).l1) ∧
    (∀ i, s.bootstat = 1 → 0 < i → i < 1024 → s.keys.get? i = none →
      ∃ u, exec (.keycmdLoad i) s = .next u ∧ u.keys.get? i = some s.keyData ∧ u.keyData = 0 ∧ u.err = s.err) ∧
    (∀ i key, s.bootstat = 1 → s.keys.get? i = some key → ∃ u, exec (.keycmdUnload i) s = .next u ∧ u.keys = s.keys.erase i) ∧
    (∀ v, s.bootstat = 1 → ∃ u, exec (.registerWrite 0x400000 v) s = .next u ∧ u.spdm.asked = true ∧ u.regRead 0x400000 = v.toNat) ∧
    (let answers (code : Nat) (ev : List Byte → Instr) : Prop := ∀ r, s.spdm.asked = true → 4 ≤ r.length → leAt s.spdm.box 1 1 = code →
        r = s.spdm.box.take r.length →
        ∃ u, exec (ev r) s = .next u ∧ u.spdm.asked = false ∧ u.mem = s.mem ∧
          u.spdm.box = (Config.spdmResponse code r s.spdm.version s.spdm.negotiated s.bootHash s.measurements).take 4096
     answers 0x84 .getVersion ∧ answers 0xE1 .getCapabilities ∧ answers 0xE3 .negotiateAlgorithms ∧ answers 0x81 .getDigests ∧
       answers 0x82 .getCertificate ∧ answers 0x83 .challenge ∧ answers 0xE0 .getMeasurements) ∧
    (∀ ctx lo hi,
      let clean (u : State) : Prop := ∀ c, ∀ e ∈ (u.core c).tlb, ¬ (e.ctx % 4096 = ctx ∧ lo / 65536 ≤ e.vpage ∧ e.vpage ≤ hi / 65536)
      let under := s.transInvals.find? fun v => v.ctx == ctx && v.lo == lo && v.hi == hi
      (under = none → ∃ u, exec (.translationInvalidation ctx lo hi) s = .next u ∧ clean u ∧
        u.transInvals = s.transInvals ++ [⟨ctx, lo, hi, s.nextOp, s.nextUid, false⟩]) ∧
      (∀ v, under = some v →
        (v.flushed = false → s.accessesOver v = false → exec (.translationInvalidation ctx lo hi) s = .next s) ∧
        (v.flushed = false → s.accessesOver v = true → ∃ u, exec (.translationInvalidation ctx lo hi) s = .next u ∧ clean u ∧
          ∃ v' ∈ u.transInvals, v'.ctx = ctx ∧ v'.lo = lo ∧ v'.hi = hi ∧ v'.flushed = true) ∧
        (v.flushed = true → s.flushing v.uid = true → exec (.translationInvalidation ctx lo hi) s = .next s) ∧
        (v.flushed = true → s.flushing v.uid = false → ∃ u, exec (.translationInvalidation ctx lo hi) s = .next u ∧ clean u ∧
          u.transInvals = s.transInvals.erase v)))

/-- Contexts, queues' bindings, owners, partitions and services (R61, R381, R382, R409, R410, R418, R426, R427, R466): a context is
created from a matching descriptor, reread, and given its control bits; a kill ends every team of its launches, and with the last launch its
number is free and no translation of it stands; QCB and QCTX bind a free queue; owner bytes change where R466 allows, and a write elsewhere is
rejected; a partition is created from free spindles and slices and cleared again, when its slices have completed what they accepted; the
services act on what waits for them. The model's choices: when a killed context's number is free (log entry 95, DEDUCED), that what a cleared
partition's slices hold is written back (log entry 96, DEDUCED), that each byte of a write to owner bytes is judged by itself (log entry 89,
DEDUCED), services without an object (log entry 93, DEDUCED), and commands before boot or in recovery, which do nothing (log entries 92 and
99). -/
def Obligations.ManagementEvents : Prop :=
  ∀ (s : State) (n : Nat), s.bootstat = 1 →
    let rejected (ev : Instr) (off : Nat) : Prop := ∃ u, exec ev s = .next u ∧ u.err = true ∧ u.errAddr = BitVec.ofNat 32 off ∧
      u.queueOwner = s.queueOwner ∧ u.granuleOwner = s.granuleOwner
    (∀ v d, n < 4096 → (s.ctx n).desc = 0 → v.getLsbD 0 = true → s.readDesc (bits v 6 42 * 64) n = some d →
      ∃ u, exec (.ctxdescCreate n v) s = .next u ∧ (u.ctx n).desc = v &&& 0x00FF_FFFF_FFFF_FFC1 ∧ (u.ctx n).now = d) ∧
    (∀ d, (s.ctx n).desc ≠ 0 → s.readDesc (bits (s.ctx n).desc 6 42 * 64) n = some d →
      ∃ u, exec (.reload n) s = .next u ∧ (u.ctx n).now = d ∧ (u.ctx n).ver = (s.ctx n).ver + 1 ∧ (u.ctx n).desc = (s.ctx n).desc) ∧
    ((s.ctx n).desc ≠ 0 →
      (∃ u, exec (.kill n) s = .next u ∧
        (∀ t tm l r, s.teams.get? t = some tm → s.launches.get? tm.launch = some l → (∀ y ∈ s.launches, y.1 = tm.launch → y.2 = l) →
          (l.parent = none → l.root = tm.launch) → s.launches.get? l.root = some r → r.parent = none → r.ctx = n → u.teams.get? t = none) ∧
        ((∀ l ∈ s.launches, l.2.ctx ≠ n) → (u.ctx n).desc = 0 ∧ ∀ c, ∀ e ∈ (u.core c).tlb, e.ctx % 4096 ≠ n)) ∧
      (∃ u, exec (.preq n false) s = .next u ∧ (u.ctx n).preq = false) ∧
      (∀ t tm, s.teams.get? t = some tm → tm.place = .resident → (∃ l, s.launches.get? tm.launch = some l ∧ l.ctx = n) →
        ∃ u, exec (.preq n true) s = .next u ∧ (u.ctx n).preq = true) ∧
      (∀ on, ∃ u, exec (.dbgbrk n on) s = .next u ∧ (u.ctx n).dbgbrk = on ∧ (u.ctx n).desc = (s.ctx n).desc) ∧
      (∀ on, ∃ u, exec (.scbchk n on) s = .next u ∧ (u.ctx n).scbchk = on ∧ (u.ctx n).desc = (s.ctx n).desc)) ∧
    (∀ v, n < 1024 → s.queueFree n = true →
      (∃ u, exec (.qcbWrite n v) s = .next u ∧ (u.queue n).cbpa = BitVec.ofNat 40 (bits v 8 40) ∧ (u.queue n).outcomes = []) ∧
      (∃ u, exec (.qctxWrite n v) s = .next u ∧ (u.queue n).ctxValid = v.getLsbD 63 ∧ (u.queue n).ctx = v.setWidth 12)) ∧
    (∀ v, n < 1024 → s.queueFree n = true → ∃ u, exec (.queueOwnerWrite n v) s = .next u ∧ u.queueOwner.getD n 0xFF = v ∧ u.err = s.err) ∧
    (∀ v, n < 1024 → s.queueFree n = false → rejected (.queueOwnerWrite n v) (0x220000 + n / 8 * 8)) ∧
    (∀ v, n < 4096 → let old := s.granuleOwner.getD n 0xFF
      (old = 0xFF ∨ (old ≠ v ∧ (s.part old.toNat).pstate = 0) →
        ∃ u, exec (.granuleOwnerWrite n v) s = .next u ∧ u.granuleOwner.getD n 0xFF = v ∧ u.err = s.err) ∧
      (old ≠ 0xFF → old = v ∨ (s.part old.toNat).pstate ≠ 0 → rejected (.granuleOwnerWrite n v) (0x230000 + n / 8 * 8))) ∧
    (n < 24 → (s.part n).pstate = 0 → (s.part n).spindlesReg ≠ 0 → (s.part n).slicesReg ≠ 0 →
      (∀ k, k < 24 → (s.part n).spindlesReg.getLsbD k = true → (s.spindle k).part = 0xFF) →
      (∀ o ∈ s.parts, o.1 ≠ n → o.2.pstate ≠ 0 → o.2.slices &&& (s.part n).slicesReg = 0) →
      ∃ u, exec (.pcmdCreate n) s = .next u ∧ (u.part n).pstate = 1 ∧ (u.part n).spindles = (s.part n).spindlesReg ∧
        (u.part n).slices = (s.part n).slicesReg ∧
        ∀ k, k < 24 → (s.part n).spindlesReg.getLsbD k = true → (u.spindle k).part = n ∧ (u.spindle k).fenced = false) ∧
    ((s.part n).causes = [] → (∀ l ∈ s.launches, l.2.part ≠ n ∧ ∀ c ∈ s.ctxs, c.1 = l.2.ctx → bits c.2.desc 48 8 ≠ n) →
      ((∀ k, k < 96 → (s.part n).slices.getLsbD k = true → (s.slice k).busy = false) →
        ∃ u, exec (.pcmdClear n) s = .next u ∧ (u.part n).pstate = 0 ∧ (u.part n).spindles = 0 ∧ (u.part n).slices = 0 ∧
          (∀ e ∈ u.queueOwner, e.2.toNat ≠ n) ∧ (∀ e ∈ u.granuleOwner, e.2.toNat ≠ n)) ∧
      (∀ k, k < 96 → (s.part n).slices.getLsbD k = true → (s.slice k).busy = true →
        ∃ u, exec (.pcmdClear n) s = .next u ∧ (u.part n).clearing = true ∧ (u.part n).slices = (s.part n).slices ∧
          (u.slice k).busy = true)) ∧
    (∀ ident k l, (s.launches.find? fun l => l.2.part == n && l.2.ident == ident && l.2.st == .digestWait) = some (k, l) →
      s.launches.get? k = some l →
      (∃ u l', exec (.digsvcReexecute n ident) s = .next u ∧ u.launches.get? k = some l' ∧ l'.st = .placing ∧ l'.serial = true ∧
        l'.reexec = true ∧ l'.nextTeam = 0) ∧
      (∃ u, exec (.digsvcFault n ident) s = .next u ∧ (u.part n).causes = (s.part n).causes ++
        [⟨.digest, s.tsc, engineSource n, 0, 0, l.ctx, ident⟩])) ∧
    (∀ q, q < 1024 → s.queuePart q = n → ∃ u, exec (.qgrant n q) s = .next u ∧ (u.queue q).grants = (s.queue q).grants + 1) ∧
    (∀ v, ∃ u, exec (.dbghalt n v) s = .next u ∧ (u.part n).dbghalt = v ∧ u.mem = s.mem)
end

