-- ==== Sys2Proof/Laws/Encode.lean ====
section
/-! SUPPORT. The fields of an encoded word, and the operands that the decoder reads back from their fields. -/

namespace Sys2Proof.Machine

/-! ## Fields of a concatenation -/

theorem extract_append_low {n m : Nat} (x : BitVec n) (y : BitVec m) (s l : Nat) (h : s + l ≤ m) :
    (x ++ y).extractLsb' s l = y.extractLsb' s l := by
  apply BitVec.eq_of_getLsbD_eq
  intro i hi
  simp only [BitVec.getLsbD_extractLsb', BitVec.getLsbD_append, hi, decide_true, Bool.true_and]
  rw [if_pos (by omega)]

theorem extract_append_high {n m : Nat} (x : BitVec n) (y : BitVec m) (s l : Nat) (h : m ≤ s) :
    (x ++ y).extractLsb' s l = x.extractLsb' (s - m) l := by
  apply BitVec.eq_of_getLsbD_eq
  intro i hi
  simp only [BitVec.getLsbD_extractLsb', BitVec.getLsbD_append, hi, decide_true, Bool.true_and]
  rw [if_neg (by omega)]
  congr 1
  omega

theorem extract_whole {n : Nat} (x : BitVec n) : x.extractLsb' 0 n = x := by
  apply BitVec.eq_of_getLsbD_eq
  intro i hi
  simp [hi]

theorem bit_as_extract {n : Nat} (x : BitVec n) (j : Nat) : x.getLsbD j = (x.extractLsb' j 1).getLsbD 0 := by simp

/-! ## The first word (R95) -/

section
variable (m : BitVec 5) (c b a : BitVec 10) (d : BitVec 9) (o : BitVec 10) (l : BitVec 1) (g : BitVec 5) (s : BitVec 4)

theorem word_stall : (m ++ c ++ b ++ a ++ d ++ o ++ l ++ g ++ s).extractLsb' 0 4 = s := by
  rw [extract_append_low _ _ _ _ (by decide), extract_whole]

theorem word_guard : (m ++ c ++ b ++ a ++ d ++ o ++ l ++ g ++ s).extractLsb' 4 4 = g.extractLsb' 0 4 := by
  repeat rw [extract_append_high _ _ _ _ (by decide)]
  rw [extract_append_low _ _ _ _ (by decide)]

theorem word_sense : (m ++ c ++ b ++ a ++ d ++ o ++ l ++ g ++ s).extractLsb' 8 1 = g.extractLsb' 4 1 := by
  repeat rw [extract_append_high _ _ _ _ (by decide)]
  rw [extract_append_low _ _ _ _ (by decide)]

theorem word_long : (m ++ c ++ b ++ a ++ d ++ o ++ l ++ g ++ s).extractLsb' 9 1 = l := by
  repeat rw [extract_append_high _ _ _ _ (by decide)]
  rw [extract_append_low _ _ _ _ (by decide), extract_whole]

theorem word_opcode : (m ++ c ++ b ++ a ++ d ++ o ++ l ++ g ++ s).extractLsb' 10 10 = o := by
  repeat rw [extract_append_high _ _ _ _ (by decide)]
  rw [extract_append_low _ _ _ _ (by decide), extract_whole]

theorem word_dst_number : (m ++ c ++ b ++ a ++ d ++ o ++ l ++ g ++ s).extractLsb' 20 8 = d.extractLsb' 0 8 := by
  repeat rw [extract_append_high _ _ _ _ (by decide)]
  rw [extract_append_low _ _ _ _ (by decide)]

theorem word_dst_class : (m ++ c ++ b ++ a ++ d ++ o ++ l ++ g ++ s).extractLsb' 28 1 = d.extractLsb' 8 1 := by
  repeat rw [extract_append_high _ _ _ _ (by decide)]
  rw [extract_append_low _ _ _ _ (by decide)]

theorem word_srcA : (m ++ c ++ b ++ a ++ d ++ o ++ l ++ g ++ s).extractLsb' 29 10 = a := by
  repeat rw [extract_append_high _ _ _ _ (by decide)]
  rw [extract_append_low _ _ _ _ (by decide), extract_whole]

theorem word_srcB : (m ++ c ++ b ++ a ++ d ++ o ++ l ++ g ++ s).extractLsb' 39 10 = b := by
  repeat rw [extract_append_high _ _ _ _ (by decide)]
  rw [extract_append_low _ _ _ _ (by decide), extract_whole]

theorem word_srcC : (m ++ c ++ b ++ a ++ d ++ o ++ l ++ g ++ s).extractLsb' 49 10 = c := by
  repeat rw [extract_append_high _ _ _ _ (by decide)]
  rw [extract_append_low _ _ _ _ (by decide), extract_whole]

theorem word_mod : (m ++ c ++ b ++ a ++ d ++ o ++ l ++ g ++ s).extractLsb' 59 5 = m := by
  repeat rw [extract_append_high _ _ _ _ (by decide)]
  rw [extract_whole]
end

/-! ## Operands (R97-R101) -/

theorem number_of_register (n : BitVec 8) : (0#2 ++ n).extractLsb' 0 8 = n := by
  rw [extract_append_low _ _ _ _ (by decide), extract_whole]

theorem class_of_register (n : BitVec 8) : (0#2 ++ n).getLsbD 9 = false := by
  simp only [BitVec.getLsbD_append]
  simp

theorem peek_of_register (n : BitVec 8) : (0#2 ++ n).getLsbD 8 = false := by
  simp only [BitVec.getLsbD_append]
  simp

theorem number_of_channel (n : BitVec 8) (p : Bool) : (1#1 ++ BitVec.ofBool p ++ n).extractLsb' 0 8 = n := by
  rw [extract_append_low _ _ _ _ (by decide), extract_whole]

theorem class_of_channel (n : BitVec 8) (p : Bool) : (1#1 ++ BitVec.ofBool p ++ n).getLsbD 9 = true := by
  simp only [BitVec.getLsbD_append]
  simp

theorem peek_of_channel (n : BitVec 8) (p : Bool) : (1#1 ++ BitVec.ofBool p ++ n).getLsbD 8 = p := by
  simp only [BitVec.getLsbD_append]
  simp

theorem ord_dom (h o : BitVec 2) (s d : BitVec 3) : (h ++ o ++ s ++ d).extractLsb' 0 3 = d := by
  rw [extract_append_low _ _ _ _ (by decide), extract_whole]

theorem ord_scope (h o : BitVec 2) (s d : BitVec 3) : (h ++ o ++ s ++ d).extractLsb' 3 3 = s := by
  rw [extract_append_high _ _ _ _ (by decide), extract_append_low _ _ _ _ (by decide), extract_whole]

theorem ord_order (h o : BitVec 2) (s d : BitVec 3) : (h ++ o ++ s ++ d).extractLsb' 6 2 = o := by
  rw [extract_append_high _ _ _ _ (by decide), extract_append_high _ _ _ _ (by decide),
    extract_append_low _ _ _ _ (by decide), extract_whole]

theorem ord_hint (h o : BitVec 2) (s d : BitVec 3) : (h ++ o ++ s ++ d).extractLsb' 8 2 = h := by
  rw [extract_append_high _ _ _ _ (by decide), extract_append_high _ _ _ _ (by decide),
    extract_append_high _ _ _ _ (by decide), extract_whole]

/-- A source field holds what its operand was encoded to. -/
theorem decode_source (o : Opnd) (k : Fld) (h : opndOk k false o = true) : decOpnd k (encOpnd o) = .ok o := by
  cases k <;> cases o <;> simp only [opndOk, Bool.false_eq_true, Bool.false_and, Bool.not_false] at h <;>
    simp only [encOpnd, decOpnd, number_of_register, class_of_register, number_of_channel, class_of_channel, peek_of_register,
      peek_of_channel]
  case ord.ord ds ss os hs d s o hh =>
    simp only [decOrd, ord_dom, ord_scope, ord_order, ord_hint]
    simp only [Bool.and_eq_true] at h
    cases d <;> cases s <;> cases o <;> simp_all [domOf, scopeOf, orderOf, Dom.ctorIdx, Scope.ctorIdx, Ordering4.ctorIdx]
  all_goals simp_all

/-- The destination field, which has no peek bit, as a source field would hold it. -/
theorem destination_widened (o : Opnd) (h : (encOpnd o).getLsbD 8 = false) :
    (encDst o).extractLsb' 8 1 ++ 0#1 ++ (encDst o).extractLsb' 0 8 = encOpnd o := by
  apply BitVec.eq_of_getLsbD_eq
  intro i hi
  unfold encDst
  generalize hw : encOpnd o = w at *
  simp only [BitVec.getLsbD_append, BitVec.getLsbD_extractLsb']
  match i, hi with
  | 0, _ => simp
  | 1, _ => simp
  | 2, _ => simp
  | 3, _ => simp
  | 4, _ => simp
  | 5, _ => simp
  | 6, _ => simp
  | 7, _ => simp
  | 8, _ => simpa using h.symm
  | 9, _ => simp

/-- A field that is read as a domain, scope, order and hint. -/
def Fld.isOrd : Fld → Bool
  | .ord _ _ _ _ => true
  | _ => false

/-- The destination field holds what its operand was encoded to. -/
theorem decode_destination (o : Opnd) (k : Fld) (hk : k.isOrd = false) (h : opndOk k true o = true) :
    decOpnd k ((encDst o).extractLsb' 8 1 ++ 0#1 ++ (encDst o).extractLsb' 0 8) = .ok o := by
  have h8 : (encOpnd o).getLsbD 8 = false := by
    cases k <;> cases o <;>
      simp only [opndOk, Fld.isOrd, Bool.false_eq_true, Bool.true_eq_false, Bool.true_and, Bool.not_eq_true'] at h hk <;>
      simp only [encOpnd, peek_of_register, peek_of_channel] <;> simp_all
  rw [destination_widened o h8]
  apply decode_source
  cases k <;> cases o <;> simp_all [opndOk, Fld.isOrd]

/-- Opcodes have 10 bits (R95). -/
theorem wordForms_lt {opc : Nat} {x : Bool × Bool} (h : wordForms opc = some x) : opc < 1024 := by
  revert h
  unfold wordForms
  split <;> intro h <;> first
    | omega
    | cases h

end Sys2Proof.Machine
end

