-- ==== Sys2Proof/Laws/Flit.lean ====
section
/-! SUPPORT. A frame that is made with its CRC: it is intact, and carries its network and its SEQ (R354). -/

namespace Sys2Proof.Laws

theorem frame_make_intact (p : BitVec 2000) (n : BitVec 3) (q : BitVec 13) : (FlitFrame.make p n q).intact = true := by
  simp [FlitFrame.intact, FlitFrame.make, FlitFrame.covered]

theorem frame_make_net (p : BitVec 2000) (n : BitVec 3) (q : BitVec 13) : (FlitFrame.make p n q).net = n.toNat := by
  have h : (n ++ q).extractLsb' 13 3 = n := by
    ext i hi
    simp only [BitVec.getElem_extractLsb', BitVec.getLsbD_append]
    simp [BitVec.getLsbD_eq_getElem, hi]
  exact congrArg BitVec.toNat h

theorem frame_make_seq (p : BitVec 2000) (n : BitVec 3) (q : BitVec 13) : (FlitFrame.make p n q).seq = q := by
  have h : (n ++ q).extractLsb' 0 13 = q := by
    ext i hi
    simp only [BitVec.getElem_extractLsb', BitVec.getLsbD_append]
    simp [BitVec.getLsbD_eq_getElem, hi]
  exact h

/-- For every payload and header there is a CRC that is wrong. -/
theorem frame_torn (p : BitVec 2000) (h : BitVec 16) : ∃ c, (FlitFrame.mk p h c).intact = false := by
  have ne (x : W32) : (x == x + 1) = false := by simp
  exact ⟨Machine.crc32c (Machine.toLe 250 p.toNat ++ Machine.toLe 2 h.toNat) + 1, by
    simp only [FlitFrame.intact, FlitFrame.covered, ne]⟩

end Sys2Proof.Laws
end

