-- ==== Sys2Proof/Laws/Maps.lean ====
section
/-! SUPPORT. Laws of sparse tables, of lists and masks by lane, and of memory bytes. -/

namespace Sys2Proof.Machine

/-! ## Sparse tables -/

@[simp] theorem AMap.get?_set_same {α : Type} (m : AMap α) (k : Nat) (a : α) : (m.set k a).get? k = some a := by
  induction m with
  | nil => simp [AMap.set, AMap.get?]
  | cons x m ih =>
    obtain ⟨j, b⟩ := x
    unfold AMap.set
    split
    · simp [AMap.get?]
    · split
      · simp [AMap.get?]
      · next h1 h2 => simp [AMap.get?, Ne.symm h2, ih]

@[simp] theorem AMap.get?_set_other {α : Type} (m : AMap α) (k k' : Nat) (a : α) (h : k' ≠ k) :
    (m.set k a).get? k' = m.get? k' := by
  induction m with
  | nil => simp [AMap.set, AMap.get?, Ne.symm h]
  | cons x m ih =>
    obtain ⟨j, b⟩ := x
    unfold AMap.set
    split
    · simp [AMap.get?, Ne.symm h]
    · split
      · next h1 h2 => simp [AMap.get?, Ne.symm h, ← h2]
      · simp only [AMap.get?, ih]

@[simp] theorem AMap.getD_set_same {α : Type} (m : AMap α) (k : Nat) (a d : α) : (m.set k a).getD k d = a := by
  simp [AMap.getD]

@[simp] theorem AMap.getD_set_other {α : Type} (m : AMap α) (k k' : Nat) (a d : α) (h : k' ≠ k) :
    (m.set k a).getD k' d = m.getD k' d := by
  simp [AMap.getD, h]

@[simp] theorem AMap.get?_erase_same {α : Type} (m : AMap α) (k : Nat) : (m.erase k).get? k = none := by
  induction m with
  | nil => rfl
  | cons x m ih =>
    obtain ⟨j, b⟩ := x
    unfold AMap.erase
    split
    · exact ih
    · next h => simp [AMap.get?, h, ih]

@[simp] theorem AMap.get?_erase_other {α : Type} (m : AMap α) (k k' : Nat) (h : k' ≠ k) : (m.erase k).get? k' = m.get? k' := by
  induction m with
  | nil => rfl
  | cons x m ih =>
    obtain ⟨j, b⟩ := x
    unfold AMap.erase
    split
    · next hj => simp [AMap.get?, hj, Ne.symm h, ih]
    · simp only [AMap.get?, ih]

/-! ## Lists by lane -/

@[simp] theorem mergeLanes_length {α : Type} (act : Mask) (old : List α) (d : α) (new : Nat → α) :
    (mergeLanes act old d new).length = 32 := by
  simp [mergeLanes, lanes32]

/-- An entry of a list that was changed by lane. -/
theorem mergeLanes_getD {α : Type} (act : Mask) (old : List α) (d d' : α) (new : Nat → α) (l : Nat) (h : l < 32) :
    (mergeLanes act old d new).getD l d' = if act.getLsbD l then new l else old.getD l d := by
  simp [mergeLanes, lanes32, List.getD, h]

/-! ## Memory bytes (log entry 3) -/

/-- Every address of a memory is at least `k`. -/
def Memory.from_ (k : Nat) : List Host.Cell → Prop
  | [] => True
  | (a, _) :: _ => k ≤ a

theorem Memory.wf_cons {a : Nat} {b : Byte} {m : List Host.Cell} :
    Memory.wf ((a, b) :: m) = true ↔ b ≠ 0 ∧ Memory.from_ (a + 1) m ∧ Memory.wf m = true := by
  cases m with
  | nil => simp [Memory.wf, Memory.from_]
  | cons x m => obtain ⟨c, d⟩ := x; simp [Memory.wf, Memory.from_, Nat.succ_le_iff, and_assoc]

theorem Memory.read_below {m : List Host.Cell} {k j : Nat} (hw : Memory.wf m = true) (hf : Memory.from_ k m) (h : j < k) :
    Memory.read m j = 0 := by
  induction m generalizing k with
  | nil => rfl
  | cons x m ih =>
    obtain ⟨a, b⟩ := x
    have hw' := Memory.wf_cons.mp hw
    have ha : k ≤ a := hf
    simp only [Memory.read]
    rw [if_neg (by omega)]
    exact ih hw'.2.2 hw'.2.1 (by omega)

theorem Memory.write_from {m : List Host.Cell} {k j : Nat} {v : Byte} (hw : Memory.wf m = true) (hf : Memory.from_ k m)
    (h : k ≤ j) : Memory.from_ k (Memory.write m j v) := by
  cases m with
  | nil => simp only [Memory.write]; split <;> simp [Memory.from_, h]
  | cons x m =>
    obtain ⟨a, b⟩ := x
    have ha : k ≤ a := hf
    have hw' := Memory.wf_cons.mp hw
    simp only [Memory.write]
    repeat' split
    all_goals first
      | exact ha
      | exact h
      | (cases m with
         | nil => trivial
         | cons y m => obtain ⟨c, d⟩ := y; have hc : a + 1 ≤ c := hw'.2.1; show k ≤ c; omega)

/-- A write keeps the canonical form. -/
theorem Memory.write_wf {m : List Host.Cell} (j : Nat) (v : Byte) (hw : Memory.wf m = true) :
    Memory.wf (Memory.write m j v) = true := by
  induction m with
  | nil => simp only [Memory.write]; split <;> simp_all [Memory.wf]
  | cons x m ih =>
    obtain ⟨a, b⟩ := x
    have hw' := Memory.wf_cons.mp hw
    simp only [Memory.write]
    split
    · split
      · exact hw
      · next h1 h2 => exact Memory.wf_cons.mpr ⟨h2, Nat.succ_le_of_lt h1, hw⟩
    · split
      · next h1 h2 =>
        subst h2
        split
        · exact hw'.2.2
        · next h3 => exact Memory.wf_cons.mpr ⟨h3, hw'.2.1, hw'.2.2⟩
      · next h1 h2 =>
        exact Memory.wf_cons.mpr ⟨hw'.1, Memory.write_from hw'.2.2 hw'.2.1 (by omega), ih hw'.2.2⟩

theorem Memory.writeN_wf {m : List Host.Cell} (j : Nat) (bs : List Byte) (hw : Memory.wf m = true) :
    Memory.wf (Memory.writeN m j bs) = true := by
  induction bs generalizing m j with
  | nil => exact hw
  | cons b bs ih => exact ih (j + 1) (Memory.write_wf j b hw)

/-- What is left when some addresses are cleared is still canonical. -/
theorem Memory.filter_from {m : List Host.Cell} {k : Nat} (p : Host.Cell → Bool) (hw : Memory.wf m = true)
    (hf : Memory.from_ k m) : Memory.from_ k (m.filter p) := by
  induction m generalizing k with
  | nil => exact hf
  | cons x m ih =>
    obtain ⟨a, b⟩ := x
    have hw' := Memory.wf_cons.mp hw
    have ha : k ≤ a := hf
    rw [List.filter_cons]
    split
    · exact ha
    · refine ih hw'.2.2 ?_
      cases m with
      | nil => trivial
      | cons y m => obtain ⟨c, d⟩ := y; have hc : a + 1 ≤ c := hw'.2.1; show k ≤ c; omega

theorem Memory.filter_wf {m : List Host.Cell} (p : Host.Cell → Bool) (hw : Memory.wf m = true) :
    Memory.wf (m.filter p) = true := by
  induction m with
  | nil => rfl
  | cons x m ih =>
    obtain ⟨a, b⟩ := x
    have hw' := Memory.wf_cons.mp hw
    rw [List.filter_cons]
    split
    · exact Memory.wf_cons.mpr ⟨hw'.1, Memory.filter_from p hw'.2.2 hw'.2.1, ih hw'.2.2⟩
    · exact ih hw'.2.2

/-- A read after a write to the same address gives the byte written. -/
theorem Memory.read_write_same {m : List Host.Cell} (k : Nat) (v : Byte) (hw : Memory.wf m = true) :
    Memory.read (Memory.write m k v) k = v := by
  induction m with
  | nil => simp only [Memory.write]; split <;> simp_all [Memory.read]
  | cons x m ih =>
    obtain ⟨a, b⟩ := x
    have hw' := Memory.wf_cons.mp hw
    simp only [Memory.write]
    split
    · next h1 =>
      split
      · next h2 =>
        simp only [Memory.read]
        rw [if_neg (by omega), Memory.read_below hw'.2.2 hw'.2.1 (by omega), h2]
      · simp [Memory.read]
    · split
      · next h1 h2 =>
        split
        · next h3 => rw [Memory.read_below hw'.2.2 hw'.2.1 (by omega), h3]
        · simp [Memory.read]
      · next h1 h2 =>
        simp only [Memory.read]
        rw [if_neg (by omega)]
        exact ih hw'.2.2

/-- A write leaves every other address alone. -/
theorem Memory.read_write_other {m : List Host.Cell} (k j : Nat) (v : Byte) (h : j ≠ k) :
    Memory.read (Memory.write m k v) j = Memory.read m j := by
  induction m with
  | nil => simp only [Memory.write]; split <;> simp [Memory.read, Ne.symm h]
  | cons x m ih =>
    obtain ⟨a, b⟩ := x
    simp only [Memory.write]
    split
    · split
      · rfl
      · simp [Memory.read, Ne.symm h]
    · split
      · next h1 h2 =>
        split <;> simp [Memory.read, ← h2, Ne.symm h]
      · simp only [Memory.read, ih]

/-- Bytes outside a range that is written keep their values. -/
theorem Memory.read_writeN_outside {m : List Host.Cell} (k : Nat) (bs : List Byte) (j : Nat) (h : j < k ∨ k + bs.length ≤ j) :
    Memory.read (Memory.writeN m k bs) j = Memory.read m j := by
  induction bs generalizing m k with
  | nil => rfl
  | cons b bs ih =>
    simp only [Memory.writeN, List.length_cons] at *
    rw [ih (k + 1) (by omega), Memory.read_write_other _ _ _ (by omega)]

end Sys2Proof.Machine
end

