-- ==== Sys2Proof/Laws/State.lean ====
section
/-! SUPPORT. What each update of one unit of the package does to each field of the state: one lemma per field, so that no proof
unfolds a record update. -/

namespace Sys2Proof.Machine

/-! ## modCore -/

section
variable (s : State) (k : Nat) (f : Core → Core)

@[simp] theorem State.modCore_time : (s.modCore k f).time = s.time := rfl
@[simp] theorem State.modCore_tsc : (s.modCore k f).tsc = s.tsc := rfl
@[simp] theorem State.modCore_tscRem : (s.modCore k f).tscRem = s.tscRem := rfl
@[simp] theorem State.modCore_freeze : (s.modCore k f).freeze = s.freeze := rfl
@[simp] theorem State.modCore_bootstat : (s.modCore k f).bootstat = s.bootstat := rfl
@[simp] theorem State.modCore_bootHash : (s.modCore k f).bootHash = s.bootHash := rfl
@[simp] theorem State.modCore_err : (s.modCore k f).err = s.err := rfl
@[simp] theorem State.modCore_errAddr : (s.modCore k f).errAddr = s.errAddr := rfl
@[simp] theorem State.modCore_mem : (s.modCore k f).mem = s.mem := rfl
@[simp] theorem State.modCore_keys : (s.modCore k f).keys = s.keys := rfl
@[simp] theorem State.modCore_keyData : (s.modCore k f).keyData = s.keyData := rfl
@[simp] theorem State.modCore_queueOwner : (s.modCore k f).queueOwner = s.queueOwner := rfl
@[simp] theorem State.modCore_granuleOwner : (s.modCore k f).granuleOwner = s.granuleOwner := rfl
@[simp] theorem State.modCore_units : (s.modCore k f).units = s.units := rfl
@[simp] theorem State.modCore_evq : (s.modCore k f).evq = s.evq := rfl
@[simp] theorem State.modCore_spdm : (s.modCore k f).spdm = s.spdm := rfl
@[simp] theorem State.modCore_hostQps : (s.modCore k f).hostQps = s.hostQps := rfl
@[simp] theorem State.modCore_hostOut : (s.modCore k f).hostOut = s.hostOut := rfl
@[simp] theorem State.modCore_withheld : (s.modCore k f).withheld = s.withheld := rfl
@[simp] theorem State.modCore_lasersOut : (s.modCore k f).lasersOut = s.lasersOut := rfl
@[simp] theorem State.modCore_fwImage : (s.modCore k f).fwImage = s.fwImage := rfl
@[simp] theorem State.modCore_transInvals : (s.modCore k f).transInvals = s.transInvals := rfl
@[simp] theorem State.modCore_mgrEvents : (s.modCore k f).mgrEvents = s.mgrEvents := rfl
@[simp] theorem State.modCore_spindles : (s.modCore k f).spindles = s.spindles := rfl
@[simp] theorem State.modCore_teams : (s.modCore k f).teams = s.teams := rfl
@[simp] theorem State.modCore_launches : (s.modCore k f).launches = s.launches := rfl
@[simp] theorem State.modCore_queues : (s.modCore k f).queues = s.queues := rfl
@[simp] theorem State.modCore_ctxs : (s.modCore k f).ctxs = s.ctxs := rfl
@[simp] theorem State.modCore_parts : (s.modCore k f).parts = s.parts := rfl
@[simp] theorem State.modCore_slices : (s.modCore k f).slices = s.slices := rfl
@[simp] theorem State.modCore_socks : (s.modCore k f).socks = s.socks := rfl
@[simp] theorem State.modCore_stations : (s.modCore k f).stations = s.stations := rfl
@[simp] theorem State.modCore_channels : (s.modCore k f).channels = s.channels := rfl
@[simp] theorem State.modCore_routers : (s.modCore k f).routers = s.routers := rfl
@[simp] theorem State.modCore_links : (s.modCore k f).links = s.links := rfl
@[simp] theorem State.modCore_ports : (s.modCore k f).ports = s.ports := rfl
@[simp] theorem State.modCore_group : (s.modCore k f).group = s.group := rfl
@[simp] theorem State.modCore_cur : (s.modCore k f).cur = s.cur := rfl
@[simp] theorem State.modCore_agenda : (s.modCore k f).agenda = s.agenda := rfl
@[simp] theorem State.modCore_free : (s.modCore k f).free = s.free := rfl
@[simp] theorem State.modCore_nextUid : (s.modCore k f).nextUid = s.nextUid := rfl
@[simp] theorem State.modCore_nextOp : (s.modCore k f).nextOp = s.nextOp := rfl

@[simp] theorem State.core_modCore_same : (s.modCore k f).core k = f (s.core k) := by
  simp [State.core, State.modCore]
@[simp] theorem State.core_modCore_other (j : Nat) (h : j ≠ k) : (s.modCore k f).core j = s.core j := by
  simp [State.core, State.modCore, h]
end

/-! ## modSpindle -/

section
variable (s : State) (k : Nat) (f : Spindle → Spindle)

@[simp] theorem State.modSpindle_time : (s.modSpindle k f).time = s.time := rfl
@[simp] theorem State.modSpindle_tsc : (s.modSpindle k f).tsc = s.tsc := rfl
@[simp] theorem State.modSpindle_tscRem : (s.modSpindle k f).tscRem = s.tscRem := rfl
@[simp] theorem State.modSpindle_freeze : (s.modSpindle k f).freeze = s.freeze := rfl
@[simp] theorem State.modSpindle_bootstat : (s.modSpindle k f).bootstat = s.bootstat := rfl
@[simp] theorem State.modSpindle_bootHash : (s.modSpindle k f).bootHash = s.bootHash := rfl
@[simp] theorem State.modSpindle_err : (s.modSpindle k f).err = s.err := rfl
@[simp] theorem State.modSpindle_errAddr : (s.modSpindle k f).errAddr = s.errAddr := rfl
@[simp] theorem State.modSpindle_mem : (s.modSpindle k f).mem = s.mem := rfl
@[simp] theorem State.modSpindle_keys : (s.modSpindle k f).keys = s.keys := rfl
@[simp] theorem State.modSpindle_keyData : (s.modSpindle k f).keyData = s.keyData := rfl
@[simp] theorem State.modSpindle_queueOwner : (s.modSpindle k f).queueOwner = s.queueOwner := rfl
@[simp] theorem State.modSpindle_granuleOwner : (s.modSpindle k f).granuleOwner = s.granuleOwner := rfl
@[simp] theorem State.modSpindle_units : (s.modSpindle k f).units = s.units := rfl
@[simp] theorem State.modSpindle_evq : (s.modSpindle k f).evq = s.evq := rfl
@[simp] theorem State.modSpindle_spdm : (s.modSpindle k f).spdm = s.spdm := rfl
@[simp] theorem State.modSpindle_hostQps : (s.modSpindle k f).hostQps = s.hostQps := rfl
@[simp] theorem State.modSpindle_hostOut : (s.modSpindle k f).hostOut = s.hostOut := rfl
@[simp] theorem State.modSpindle_withheld : (s.modSpindle k f).withheld = s.withheld := rfl
@[simp] theorem State.modSpindle_lasersOut : (s.modSpindle k f).lasersOut = s.lasersOut := rfl
@[simp] theorem State.modSpindle_fwImage : (s.modSpindle k f).fwImage = s.fwImage := rfl
@[simp] theorem State.modSpindle_transInvals : (s.modSpindle k f).transInvals = s.transInvals := rfl
@[simp] theorem State.modSpindle_mgrEvents : (s.modSpindle k f).mgrEvents = s.mgrEvents := rfl
@[simp] theorem State.modSpindle_cores : (s.modSpindle k f).cores = s.cores := rfl
@[simp] theorem State.modSpindle_teams : (s.modSpindle k f).teams = s.teams := rfl
@[simp] theorem State.modSpindle_launches : (s.modSpindle k f).launches = s.launches := rfl
@[simp] theorem State.modSpindle_queues : (s.modSpindle k f).queues = s.queues := rfl
@[simp] theorem State.modSpindle_ctxs : (s.modSpindle k f).ctxs = s.ctxs := rfl
@[simp] theorem State.modSpindle_parts : (s.modSpindle k f).parts = s.parts := rfl
@[simp] theorem State.modSpindle_slices : (s.modSpindle k f).slices = s.slices := rfl
@[simp] theorem State.modSpindle_socks : (s.modSpindle k f).socks = s.socks := rfl
@[simp] theorem State.modSpindle_stations : (s.modSpindle k f).stations = s.stations := rfl
@[simp] theorem State.modSpindle_channels : (s.modSpindle k f).channels = s.channels := rfl
@[simp] theorem State.modSpindle_routers : (s.modSpindle k f).routers = s.routers := rfl
@[simp] theorem State.modSpindle_links : (s.modSpindle k f).links = s.links := rfl
@[simp] theorem State.modSpindle_ports : (s.modSpindle k f).ports = s.ports := rfl
@[simp] theorem State.modSpindle_group : (s.modSpindle k f).group = s.group := rfl
@[simp] theorem State.modSpindle_cur : (s.modSpindle k f).cur = s.cur := rfl
@[simp] theorem State.modSpindle_agenda : (s.modSpindle k f).agenda = s.agenda := rfl
@[simp] theorem State.modSpindle_free : (s.modSpindle k f).free = s.free := rfl
@[simp] theorem State.modSpindle_nextUid : (s.modSpindle k f).nextUid = s.nextUid := rfl
@[simp] theorem State.modSpindle_nextOp : (s.modSpindle k f).nextOp = s.nextOp := rfl

@[simp] theorem State.spindle_modSpindle_same : (s.modSpindle k f).spindle k = f (s.spindle k) := by
  simp [State.spindle, State.modSpindle]
@[simp] theorem State.spindle_modSpindle_other (j : Nat) (h : j ≠ k) : (s.modSpindle k f).spindle j = s.spindle j := by
  simp [State.spindle, State.modSpindle, h]
end

/-! ## modQueue -/

section
variable (s : State) (k : Nat) (f : Queue → Queue)

@[simp] theorem State.modQueue_time : (s.modQueue k f).time = s.time := rfl
@[simp] theorem State.modQueue_tsc : (s.modQueue k f).tsc = s.tsc := rfl
@[simp] theorem State.modQueue_tscRem : (s.modQueue k f).tscRem = s.tscRem := rfl
@[simp] theorem State.modQueue_freeze : (s.modQueue k f).freeze = s.freeze := rfl
@[simp] theorem State.modQueue_bootstat : (s.modQueue k f).bootstat = s.bootstat := rfl
@[simp] theorem State.modQueue_bootHash : (s.modQueue k f).bootHash = s.bootHash := rfl
@[simp] theorem State.modQueue_err : (s.modQueue k f).err = s.err := rfl
@[simp] theorem State.modQueue_errAddr : (s.modQueue k f).errAddr = s.errAddr := rfl
@[simp] theorem State.modQueue_mem : (s.modQueue k f).mem = s.mem := rfl
@[simp] theorem State.modQueue_keys : (s.modQueue k f).keys = s.keys := rfl
@[simp] theorem State.modQueue_keyData : (s.modQueue k f).keyData = s.keyData := rfl
@[simp] theorem State.modQueue_queueOwner : (s.modQueue k f).queueOwner = s.queueOwner := rfl
@[simp] theorem State.modQueue_granuleOwner : (s.modQueue k f).granuleOwner = s.granuleOwner := rfl
@[simp] theorem State.modQueue_units : (s.modQueue k f).units = s.units := rfl
@[simp] theorem State.modQueue_evq : (s.modQueue k f).evq = s.evq := rfl
@[simp] theorem State.modQueue_spdm : (s.modQueue k f).spdm = s.spdm := rfl
@[simp] theorem State.modQueue_hostQps : (s.modQueue k f).hostQps = s.hostQps := rfl
@[simp] theorem State.modQueue_hostOut : (s.modQueue k f).hostOut = s.hostOut := rfl
@[simp] theorem State.modQueue_withheld : (s.modQueue k f).withheld = s.withheld := rfl
@[simp] theorem State.modQueue_lasersOut : (s.modQueue k f).lasersOut = s.lasersOut := rfl
@[simp] theorem State.modQueue_fwImage : (s.modQueue k f).fwImage = s.fwImage := rfl
@[simp] theorem State.modQueue_transInvals : (s.modQueue k f).transInvals = s.transInvals := rfl
@[simp] theorem State.modQueue_mgrEvents : (s.modQueue k f).mgrEvents = s.mgrEvents := rfl
@[simp] theorem State.modQueue_spindles : (s.modQueue k f).spindles = s.spindles := rfl
@[simp] theorem State.modQueue_cores : (s.modQueue k f).cores = s.cores := rfl
@[simp] theorem State.modQueue_teams : (s.modQueue k f).teams = s.teams := rfl
@[simp] theorem State.modQueue_launches : (s.modQueue k f).launches = s.launches := rfl
@[simp] theorem State.modQueue_ctxs : (s.modQueue k f).ctxs = s.ctxs := rfl
@[simp] theorem State.modQueue_parts : (s.modQueue k f).parts = s.parts := rfl
@[simp] theorem State.modQueue_slices : (s.modQueue k f).slices = s.slices := rfl
@[simp] theorem State.modQueue_socks : (s.modQueue k f).socks = s.socks := rfl
@[simp] theorem State.modQueue_stations : (s.modQueue k f).stations = s.stations := rfl
@[simp] theorem State.modQueue_channels : (s.modQueue k f).channels = s.channels := rfl
@[simp] theorem State.modQueue_routers : (s.modQueue k f).routers = s.routers := rfl
@[simp] theorem State.modQueue_links : (s.modQueue k f).links = s.links := rfl
@[simp] theorem State.modQueue_ports : (s.modQueue k f).ports = s.ports := rfl
@[simp] theorem State.modQueue_group : (s.modQueue k f).group = s.group := rfl
@[simp] theorem State.modQueue_cur : (s.modQueue k f).cur = s.cur := rfl
@[simp] theorem State.modQueue_agenda : (s.modQueue k f).agenda = s.agenda := rfl
@[simp] theorem State.modQueue_free : (s.modQueue k f).free = s.free := rfl
@[simp] theorem State.modQueue_nextUid : (s.modQueue k f).nextUid = s.nextUid := rfl
@[simp] theorem State.modQueue_nextOp : (s.modQueue k f).nextOp = s.nextOp := rfl

@[simp] theorem State.queue_modQueue_same : (s.modQueue k f).queue k = f (s.queue k) := by
  simp [State.queue, State.modQueue]
@[simp] theorem State.queue_modQueue_other (j : Nat) (h : j ≠ k) : (s.modQueue k f).queue j = s.queue j := by
  simp [State.queue, State.modQueue, h]
end

/-! ## modCtx -/

section
variable (s : State) (k : Nat) (f : Ctx → Ctx)

@[simp] theorem State.modCtx_time : (s.modCtx k f).time = s.time := rfl
@[simp] theorem State.modCtx_tsc : (s.modCtx k f).tsc = s.tsc := rfl
@[simp] theorem State.modCtx_tscRem : (s.modCtx k f).tscRem = s.tscRem := rfl
@[simp] theorem State.modCtx_freeze : (s.modCtx k f).freeze = s.freeze := rfl
@[simp] theorem State.modCtx_bootstat : (s.modCtx k f).bootstat = s.bootstat := rfl
@[simp] theorem State.modCtx_bootHash : (s.modCtx k f).bootHash = s.bootHash := rfl
@[simp] theorem State.modCtx_err : (s.modCtx k f).err = s.err := rfl
@[simp] theorem State.modCtx_errAddr : (s.modCtx k f).errAddr = s.errAddr := rfl
@[simp] theorem State.modCtx_mem : (s.modCtx k f).mem = s.mem := rfl
@[simp] theorem State.modCtx_keys : (s.modCtx k f).keys = s.keys := rfl
@[simp] theorem State.modCtx_keyData : (s.modCtx k f).keyData = s.keyData := rfl
@[simp] theorem State.modCtx_queueOwner : (s.modCtx k f).queueOwner = s.queueOwner := rfl
@[simp] theorem State.modCtx_granuleOwner : (s.modCtx k f).granuleOwner = s.granuleOwner := rfl
@[simp] theorem State.modCtx_units : (s.modCtx k f).units = s.units := rfl
@[simp] theorem State.modCtx_evq : (s.modCtx k f).evq = s.evq := rfl
@[simp] theorem State.modCtx_spdm : (s.modCtx k f).spdm = s.spdm := rfl
@[simp] theorem State.modCtx_hostQps : (s.modCtx k f).hostQps = s.hostQps := rfl
@[simp] theorem State.modCtx_hostOut : (s.modCtx k f).hostOut = s.hostOut := rfl
@[simp] theorem State.modCtx_withheld : (s.modCtx k f).withheld = s.withheld := rfl
@[simp] theorem State.modCtx_lasersOut : (s.modCtx k f).lasersOut = s.lasersOut := rfl
@[simp] theorem State.modCtx_fwImage : (s.modCtx k f).fwImage = s.fwImage := rfl
@[simp] theorem State.modCtx_transInvals : (s.modCtx k f).transInvals = s.transInvals := rfl
@[simp] theorem State.modCtx_mgrEvents : (s.modCtx k f).mgrEvents = s.mgrEvents := rfl
@[simp] theorem State.modCtx_spindles : (s.modCtx k f).spindles = s.spindles := rfl
@[simp] theorem State.modCtx_cores : (s.modCtx k f).cores = s.cores := rfl
@[simp] theorem State.modCtx_teams : (s.modCtx k f).teams = s.teams := rfl
@[simp] theorem State.modCtx_launches : (s.modCtx k f).launches = s.launches := rfl
@[simp] theorem State.modCtx_queues : (s.modCtx k f).queues = s.queues := rfl
@[simp] theorem State.modCtx_parts : (s.modCtx k f).parts = s.parts := rfl
@[simp] theorem State.modCtx_slices : (s.modCtx k f).slices = s.slices := rfl
@[simp] theorem State.modCtx_socks : (s.modCtx k f).socks = s.socks := rfl
@[simp] theorem State.modCtx_stations : (s.modCtx k f).stations = s.stations := rfl
@[simp] theorem State.modCtx_channels : (s.modCtx k f).channels = s.channels := rfl
@[simp] theorem State.modCtx_routers : (s.modCtx k f).routers = s.routers := rfl
@[simp] theorem State.modCtx_links : (s.modCtx k f).links = s.links := rfl
@[simp] theorem State.modCtx_ports : (s.modCtx k f).ports = s.ports := rfl
@[simp] theorem State.modCtx_group : (s.modCtx k f).group = s.group := rfl
@[simp] theorem State.modCtx_cur : (s.modCtx k f).cur = s.cur := rfl
@[simp] theorem State.modCtx_agenda : (s.modCtx k f).agenda = s.agenda := rfl
@[simp] theorem State.modCtx_free : (s.modCtx k f).free = s.free := rfl
@[simp] theorem State.modCtx_nextUid : (s.modCtx k f).nextUid = s.nextUid := rfl
@[simp] theorem State.modCtx_nextOp : (s.modCtx k f).nextOp = s.nextOp := rfl

@[simp] theorem State.ctx_modCtx_same : (s.modCtx k f).ctx k = f (s.ctx k) := by
  simp [State.ctx, State.modCtx]
@[simp] theorem State.ctx_modCtx_other (j : Nat) (h : j ≠ k) : (s.modCtx k f).ctx j = s.ctx j := by
  simp [State.ctx, State.modCtx, h]
end

/-! ## modPart -/

section
variable (s : State) (k : Nat) (f : Part → Part)

@[simp] theorem State.modPart_time : (s.modPart k f).time = s.time := rfl
@[simp] theorem State.modPart_tsc : (s.modPart k f).tsc = s.tsc := rfl
@[simp] theorem State.modPart_tscRem : (s.modPart k f).tscRem = s.tscRem := rfl
@[simp] theorem State.modPart_freeze : (s.modPart k f).freeze = s.freeze := rfl
@[simp] theorem State.modPart_bootstat : (s.modPart k f).bootstat = s.bootstat := rfl
@[simp] theorem State.modPart_bootHash : (s.modPart k f).bootHash = s.bootHash := rfl
@[simp] theorem State.modPart_err : (s.modPart k f).err = s.err := rfl
@[simp] theorem State.modPart_errAddr : (s.modPart k f).errAddr = s.errAddr := rfl
@[simp] theorem State.modPart_mem : (s.modPart k f).mem = s.mem := rfl
@[simp] theorem State.modPart_keys : (s.modPart k f).keys = s.keys := rfl
@[simp] theorem State.modPart_keyData : (s.modPart k f).keyData = s.keyData := rfl
@[simp] theorem State.modPart_queueOwner : (s.modPart k f).queueOwner = s.queueOwner := rfl
@[simp] theorem State.modPart_granuleOwner : (s.modPart k f).granuleOwner = s.granuleOwner := rfl
@[simp] theorem State.modPart_units : (s.modPart k f).units = s.units := rfl
@[simp] theorem State.modPart_evq : (s.modPart k f).evq = s.evq := rfl
@[simp] theorem State.modPart_spdm : (s.modPart k f).spdm = s.spdm := rfl
@[simp] theorem State.modPart_hostQps : (s.modPart k f).hostQps = s.hostQps := rfl
@[simp] theorem State.modPart_hostOut : (s.modPart k f).hostOut = s.hostOut := rfl
@[simp] theorem State.modPart_withheld : (s.modPart k f).withheld = s.withheld := rfl
@[simp] theorem State.modPart_lasersOut : (s.modPart k f).lasersOut = s.lasersOut := rfl
@[simp] theorem State.modPart_fwImage : (s.modPart k f).fwImage = s.fwImage := rfl
@[simp] theorem State.modPart_transInvals : (s.modPart k f).transInvals = s.transInvals := rfl
@[simp] theorem State.modPart_mgrEvents : (s.modPart k f).mgrEvents = s.mgrEvents := rfl
@[simp] theorem State.modPart_spindles : (s.modPart k f).spindles = s.spindles := rfl
@[simp] theorem State.modPart_cores : (s.modPart k f).cores = s.cores := rfl
@[simp] theorem State.modPart_teams : (s.modPart k f).teams = s.teams := rfl
@[simp] theorem State.modPart_launches : (s.modPart k f).launches = s.launches := rfl
@[simp] theorem State.modPart_queues : (s.modPart k f).queues = s.queues := rfl
@[simp] theorem State.modPart_ctxs : (s.modPart k f).ctxs = s.ctxs := rfl
@[simp] theorem State.modPart_slices : (s.modPart k f).slices = s.slices := rfl
@[simp] theorem State.modPart_socks : (s.modPart k f).socks = s.socks := rfl
@[simp] theorem State.modPart_stations : (s.modPart k f).stations = s.stations := rfl
@[simp] theorem State.modPart_channels : (s.modPart k f).channels = s.channels := rfl
@[simp] theorem State.modPart_routers : (s.modPart k f).routers = s.routers := rfl
@[simp] theorem State.modPart_links : (s.modPart k f).links = s.links := rfl
@[simp] theorem State.modPart_ports : (s.modPart k f).ports = s.ports := rfl
@[simp] theorem State.modPart_group : (s.modPart k f).group = s.group := rfl
@[simp] theorem State.modPart_cur : (s.modPart k f).cur = s.cur := rfl
@[simp] theorem State.modPart_agenda : (s.modPart k f).agenda = s.agenda := rfl
@[simp] theorem State.modPart_free : (s.modPart k f).free = s.free := rfl
@[simp] theorem State.modPart_nextUid : (s.modPart k f).nextUid = s.nextUid := rfl
@[simp] theorem State.modPart_nextOp : (s.modPart k f).nextOp = s.nextOp := rfl

@[simp] theorem State.part_modPart_same : (s.modPart k f).part k = f (s.part k) := by
  simp [State.part, State.modPart]
@[simp] theorem State.part_modPart_other (j : Nat) (h : j ≠ k) : (s.modPart k f).part j = s.part j := by
  simp [State.part, State.modPart, h]
end

/-! ## modSlice -/

section
variable (s : State) (k : Nat) (f : Slice → Slice)

@[simp] theorem State.modSlice_time : (s.modSlice k f).time = s.time := rfl
@[simp] theorem State.modSlice_tsc : (s.modSlice k f).tsc = s.tsc := rfl
@[simp] theorem State.modSlice_tscRem : (s.modSlice k f).tscRem = s.tscRem := rfl
@[simp] theorem State.modSlice_freeze : (s.modSlice k f).freeze = s.freeze := rfl
@[simp] theorem State.modSlice_bootstat : (s.modSlice k f).bootstat = s.bootstat := rfl
@[simp] theorem State.modSlice_bootHash : (s.modSlice k f).bootHash = s.bootHash := rfl
@[simp] theorem State.modSlice_err : (s.modSlice k f).err = s.err := rfl
@[simp] theorem State.modSlice_errAddr : (s.modSlice k f).errAddr = s.errAddr := rfl
@[simp] theorem State.modSlice_mem : (s.modSlice k f).mem = s.mem := rfl
@[simp] theorem State.modSlice_keys : (s.modSlice k f).keys = s.keys := rfl
@[simp] theorem State.modSlice_keyData : (s.modSlice k f).keyData = s.keyData := rfl
@[simp] theorem State.modSlice_queueOwner : (s.modSlice k f).queueOwner = s.queueOwner := rfl
@[simp] theorem State.modSlice_granuleOwner : (s.modSlice k f).granuleOwner = s.granuleOwner := rfl
@[simp] theorem State.modSlice_units : (s.modSlice k f).units = s.units := rfl
@[simp] theorem State.modSlice_evq : (s.modSlice k f).evq = s.evq := rfl
@[simp] theorem State.modSlice_spdm : (s.modSlice k f).spdm = s.spdm := rfl
@[simp] theorem State.modSlice_hostQps : (s.modSlice k f).hostQps = s.hostQps := rfl
@[simp] theorem State.modSlice_hostOut : (s.modSlice k f).hostOut = s.hostOut := rfl
@[simp] theorem State.modSlice_withheld : (s.modSlice k f).withheld = s.withheld := rfl
@[simp] theorem State.modSlice_lasersOut : (s.modSlice k f).lasersOut = s.lasersOut := rfl
@[simp] theorem State.modSlice_fwImage : (s.modSlice k f).fwImage = s.fwImage := rfl
@[simp] theorem State.modSlice_transInvals : (s.modSlice k f).transInvals = s.transInvals := rfl
@[simp] theorem State.modSlice_mgrEvents : (s.modSlice k f).mgrEvents = s.mgrEvents := rfl
@[simp] theorem State.modSlice_spindles : (s.modSlice k f).spindles = s.spindles := rfl
@[simp] theorem State.modSlice_cores : (s.modSlice k f).cores = s.cores := rfl
@[simp] theorem State.modSlice_teams : (s.modSlice k f).teams = s.teams := rfl
@[simp] theorem State.modSlice_launches : (s.modSlice k f).launches = s.launches := rfl
@[simp] theorem State.modSlice_queues : (s.modSlice k f).queues = s.queues := rfl
@[simp] theorem State.modSlice_ctxs : (s.modSlice k f).ctxs = s.ctxs := rfl
@[simp] theorem State.modSlice_parts : (s.modSlice k f).parts = s.parts := rfl
@[simp] theorem State.modSlice_socks : (s.modSlice k f).socks = s.socks := rfl
@[simp] theorem State.modSlice_stations : (s.modSlice k f).stations = s.stations := rfl
@[simp] theorem State.modSlice_channels : (s.modSlice k f).channels = s.channels := rfl
@[simp] theorem State.modSlice_routers : (s.modSlice k f).routers = s.routers := rfl
@[simp] theorem State.modSlice_links : (s.modSlice k f).links = s.links := rfl
@[simp] theorem State.modSlice_ports : (s.modSlice k f).ports = s.ports := rfl
@[simp] theorem State.modSlice_group : (s.modSlice k f).group = s.group := rfl
@[simp] theorem State.modSlice_cur : (s.modSlice k f).cur = s.cur := rfl
@[simp] theorem State.modSlice_agenda : (s.modSlice k f).agenda = s.agenda := rfl
@[simp] theorem State.modSlice_free : (s.modSlice k f).free = s.free := rfl
@[simp] theorem State.modSlice_nextUid : (s.modSlice k f).nextUid = s.nextUid := rfl
@[simp] theorem State.modSlice_nextOp : (s.modSlice k f).nextOp = s.nextOp := rfl

@[simp] theorem State.slice_modSlice_same : (s.modSlice k f).slice k = f (s.slice k) := by
  simp [State.slice, State.modSlice]
@[simp] theorem State.slice_modSlice_other (j : Nat) (h : j ≠ k) : (s.modSlice k f).slice j = s.slice j := by
  simp [State.slice, State.modSlice, h]
end

/-! ## modSock -/

section
variable (s : State) (k : Nat) (f : Sock → Sock)

@[simp] theorem State.modSock_time : (s.modSock k f).time = s.time := rfl
@[simp] theorem State.modSock_tsc : (s.modSock k f).tsc = s.tsc := rfl
@[simp] theorem State.modSock_tscRem : (s.modSock k f).tscRem = s.tscRem := rfl
@[simp] theorem State.modSock_freeze : (s.modSock k f).freeze = s.freeze := rfl
@[simp] theorem State.modSock_bootstat : (s.modSock k f).bootstat = s.bootstat := rfl
@[simp] theorem State.modSock_bootHash : (s.modSock k f).bootHash = s.bootHash := rfl
@[simp] theorem State.modSock_err : (s.modSock k f).err = s.err := rfl
@[simp] theorem State.modSock_errAddr : (s.modSock k f).errAddr = s.errAddr := rfl
@[simp] theorem State.modSock_mem : (s.modSock k f).mem = s.mem := rfl
@[simp] theorem State.modSock_keys : (s.modSock k f).keys = s.keys := rfl
@[simp] theorem State.modSock_keyData : (s.modSock k f).keyData = s.keyData := rfl
@[simp] theorem State.modSock_queueOwner : (s.modSock k f).queueOwner = s.queueOwner := rfl
@[simp] theorem State.modSock_granuleOwner : (s.modSock k f).granuleOwner = s.granuleOwner := rfl
@[simp] theorem State.modSock_units : (s.modSock k f).units = s.units := rfl
@[simp] theorem State.modSock_evq : (s.modSock k f).evq = s.evq := rfl
@[simp] theorem State.modSock_spdm : (s.modSock k f).spdm = s.spdm := rfl
@[simp] theorem State.modSock_hostQps : (s.modSock k f).hostQps = s.hostQps := rfl
@[simp] theorem State.modSock_hostOut : (s.modSock k f).hostOut = s.hostOut := rfl
@[simp] theorem State.modSock_withheld : (s.modSock k f).withheld = s.withheld := rfl
@[simp] theorem State.modSock_lasersOut : (s.modSock k f).lasersOut = s.lasersOut := rfl
@[simp] theorem State.modSock_fwImage : (s.modSock k f).fwImage = s.fwImage := rfl
@[simp] theorem State.modSock_transInvals : (s.modSock k f).transInvals = s.transInvals := rfl
@[simp] theorem State.modSock_mgrEvents : (s.modSock k f).mgrEvents = s.mgrEvents := rfl
@[simp] theorem State.modSock_spindles : (s.modSock k f).spindles = s.spindles := rfl
@[simp] theorem State.modSock_cores : (s.modSock k f).cores = s.cores := rfl
@[simp] theorem State.modSock_teams : (s.modSock k f).teams = s.teams := rfl
@[simp] theorem State.modSock_launches : (s.modSock k f).launches = s.launches := rfl
@[simp] theorem State.modSock_queues : (s.modSock k f).queues = s.queues := rfl
@[simp] theorem State.modSock_ctxs : (s.modSock k f).ctxs = s.ctxs := rfl
@[simp] theorem State.modSock_parts : (s.modSock k f).parts = s.parts := rfl
@[simp] theorem State.modSock_slices : (s.modSock k f).slices = s.slices := rfl
@[simp] theorem State.modSock_stations : (s.modSock k f).stations = s.stations := rfl
@[simp] theorem State.modSock_channels : (s.modSock k f).channels = s.channels := rfl
@[simp] theorem State.modSock_routers : (s.modSock k f).routers = s.routers := rfl
@[simp] theorem State.modSock_links : (s.modSock k f).links = s.links := rfl
@[simp] theorem State.modSock_ports : (s.modSock k f).ports = s.ports := rfl
@[simp] theorem State.modSock_group : (s.modSock k f).group = s.group := rfl
@[simp] theorem State.modSock_cur : (s.modSock k f).cur = s.cur := rfl
@[simp] theorem State.modSock_agenda : (s.modSock k f).agenda = s.agenda := rfl
@[simp] theorem State.modSock_free : (s.modSock k f).free = s.free := rfl
@[simp] theorem State.modSock_nextUid : (s.modSock k f).nextUid = s.nextUid := rfl
@[simp] theorem State.modSock_nextOp : (s.modSock k f).nextOp = s.nextOp := rfl

@[simp] theorem State.sock_modSock_same : (s.modSock k f).sock k = f (s.sock k) := by
  simp [State.sock, State.modSock]
@[simp] theorem State.sock_modSock_other (j : Nat) (h : j ≠ k) : (s.modSock k f).sock j = s.sock j := by
  simp [State.sock, State.modSock, h]
end

/-! ## modStation -/

section
variable (s : State) (k : Nat) (f : Station → Station)

@[simp] theorem State.modStation_time : (s.modStation k f).time = s.time := rfl
@[simp] theorem State.modStation_tsc : (s.modStation k f).tsc = s.tsc := rfl
@[simp] theorem State.modStation_tscRem : (s.modStation k f).tscRem = s.tscRem := rfl
@[simp] theorem State.modStation_freeze : (s.modStation k f).freeze = s.freeze := rfl
@[simp] theorem State.modStation_bootstat : (s.modStation k f).bootstat = s.bootstat := rfl
@[simp] theorem State.modStation_bootHash : (s.modStation k f).bootHash = s.bootHash := rfl
@[simp] theorem State.modStation_err : (s.modStation k f).err = s.err := rfl
@[simp] theorem State.modStation_errAddr : (s.modStation k f).errAddr = s.errAddr := rfl
@[simp] theorem State.modStation_mem : (s.modStation k f).mem = s.mem := rfl
@[simp] theorem State.modStation_keys : (s.modStation k f).keys = s.keys := rfl
@[simp] theorem State.modStation_keyData : (s.modStation k f).keyData = s.keyData := rfl
@[simp] theorem State.modStation_queueOwner : (s.modStation k f).queueOwner = s.queueOwner := rfl
@[simp] theorem State.modStation_granuleOwner : (s.modStation k f).granuleOwner = s.granuleOwner := rfl
@[simp] theorem State.modStation_units : (s.modStation k f).units = s.units := rfl
@[simp] theorem State.modStation_evq : (s.modStation k f).evq = s.evq := rfl
@[simp] theorem State.modStation_spdm : (s.modStation k f).spdm = s.spdm := rfl
@[simp] theorem State.modStation_hostQps : (s.modStation k f).hostQps = s.hostQps := rfl
@[simp] theorem State.modStation_hostOut : (s.modStation k f).hostOut = s.hostOut := rfl
@[simp] theorem State.modStation_withheld : (s.modStation k f).withheld = s.withheld := rfl
@[simp] theorem State.modStation_lasersOut : (s.modStation k f).lasersOut = s.lasersOut := rfl
@[simp] theorem State.modStation_fwImage : (s.modStation k f).fwImage = s.fwImage := rfl
@[simp] theorem State.modStation_transInvals : (s.modStation k f).transInvals = s.transInvals := rfl
@[simp] theorem State.modStation_mgrEvents : (s.modStation k f).mgrEvents = s.mgrEvents := rfl
@[simp] theorem State.modStation_spindles : (s.modStation k f).spindles = s.spindles := rfl
@[simp] theorem State.modStation_cores : (s.modStation k f).cores = s.cores := rfl
@[simp] theorem State.modStation_teams : (s.modStation k f).teams = s.teams := rfl
@[simp] theorem State.modStation_launches : (s.modStation k f).launches = s.launches := rfl
@[simp] theorem State.modStation_queues : (s.modStation k f).queues = s.queues := rfl
@[simp] theorem State.modStation_ctxs : (s.modStation k f).ctxs = s.ctxs := rfl
@[simp] theorem State.modStation_parts : (s.modStation k f).parts = s.parts := rfl
@[simp] theorem State.modStation_slices : (s.modStation k f).slices = s.slices := rfl
@[simp] theorem State.modStation_socks : (s.modStation k f).socks = s.socks := rfl
@[simp] theorem State.modStation_channels : (s.modStation k f).channels = s.channels := rfl
@[simp] theorem State.modStation_routers : (s.modStation k f).routers = s.routers := rfl
@[simp] theorem State.modStation_links : (s.modStation k f).links = s.links := rfl
@[simp] theorem State.modStation_ports : (s.modStation k f).ports = s.ports := rfl
@[simp] theorem State.modStation_group : (s.modStation k f).group = s.group := rfl
@[simp] theorem State.modStation_cur : (s.modStation k f).cur = s.cur := rfl
@[simp] theorem State.modStation_agenda : (s.modStation k f).agenda = s.agenda := rfl
@[simp] theorem State.modStation_free : (s.modStation k f).free = s.free := rfl
@[simp] theorem State.modStation_nextUid : (s.modStation k f).nextUid = s.nextUid := rfl
@[simp] theorem State.modStation_nextOp : (s.modStation k f).nextOp = s.nextOp := rfl

@[simp] theorem State.station_modStation_same : (s.modStation k f).station k = f (s.station k) := by
  simp [State.station, State.modStation]
@[simp] theorem State.station_modStation_other (j : Nat) (h : j ≠ k) : (s.modStation k f).station j = s.station j := by
  simp [State.station, State.modStation, h]
end

/-! ## modChannel -/

section
variable (s : State) (k : Nat) (f : Channel → Channel)

@[simp] theorem State.modChannel_time : (s.modChannel k f).time = s.time := rfl
@[simp] theorem State.modChannel_tsc : (s.modChannel k f).tsc = s.tsc := rfl
@[simp] theorem State.modChannel_tscRem : (s.modChannel k f).tscRem = s.tscRem := rfl
@[simp] theorem State.modChannel_freeze : (s.modChannel k f).freeze = s.freeze := rfl
@[simp] theorem State.modChannel_bootstat : (s.modChannel k f).bootstat = s.bootstat := rfl
@[simp] theorem State.modChannel_bootHash : (s.modChannel k f).bootHash = s.bootHash := rfl
@[simp] theorem State.modChannel_err : (s.modChannel k f).err = s.err := rfl
@[simp] theorem State.modChannel_errAddr : (s.modChannel k f).errAddr = s.errAddr := rfl
@[simp] theorem State.modChannel_mem : (s.modChannel k f).mem = s.mem := rfl
@[simp] theorem State.modChannel_keys : (s.modChannel k f).keys = s.keys := rfl
@[simp] theorem State.modChannel_keyData : (s.modChannel k f).keyData = s.keyData := rfl
@[simp] theorem State.modChannel_queueOwner : (s.modChannel k f).queueOwner = s.queueOwner := rfl
@[simp] theorem State.modChannel_granuleOwner : (s.modChannel k f).granuleOwner = s.granuleOwner := rfl
@[simp] theorem State.modChannel_units : (s.modChannel k f).units = s.units := rfl
@[simp] theorem State.modChannel_evq : (s.modChannel k f).evq = s.evq := rfl
@[simp] theorem State.modChannel_spdm : (s.modChannel k f).spdm = s.spdm := rfl
@[simp] theorem State.modChannel_hostQps : (s.modChannel k f).hostQps = s.hostQps := rfl
@[simp] theorem State.modChannel_hostOut : (s.modChannel k f).hostOut = s.hostOut := rfl
@[simp] theorem State.modChannel_withheld : (s.modChannel k f).withheld = s.withheld := rfl
@[simp] theorem State.modChannel_lasersOut : (s.modChannel k f).lasersOut = s.lasersOut := rfl
@[simp] theorem State.modChannel_fwImage : (s.modChannel k f).fwImage = s.fwImage := rfl
@[simp] theorem State.modChannel_transInvals : (s.modChannel k f).transInvals = s.transInvals := rfl
@[simp] theorem State.modChannel_mgrEvents : (s.modChannel k f).mgrEvents = s.mgrEvents := rfl
@[simp] theorem State.modChannel_spindles : (s.modChannel k f).spindles = s.spindles := rfl
@[simp] theorem State.modChannel_cores : (s.modChannel k f).cores = s.cores := rfl
@[simp] theorem State.modChannel_teams : (s.modChannel k f).teams = s.teams := rfl
@[simp] theorem State.modChannel_launches : (s.modChannel k f).launches = s.launches := rfl
@[simp] theorem State.modChannel_queues : (s.modChannel k f).queues = s.queues := rfl
@[simp] theorem State.modChannel_ctxs : (s.modChannel k f).ctxs = s.ctxs := rfl
@[simp] theorem State.modChannel_parts : (s.modChannel k f).parts = s.parts := rfl
@[simp] theorem State.modChannel_slices : (s.modChannel k f).slices = s.slices := rfl
@[simp] theorem State.modChannel_socks : (s.modChannel k f).socks = s.socks := rfl
@[simp] theorem State.modChannel_stations : (s.modChannel k f).stations = s.stations := rfl
@[simp] theorem State.modChannel_routers : (s.modChannel k f).routers = s.routers := rfl
@[simp] theorem State.modChannel_links : (s.modChannel k f).links = s.links := rfl
@[simp] theorem State.modChannel_ports : (s.modChannel k f).ports = s.ports := rfl
@[simp] theorem State.modChannel_group : (s.modChannel k f).group = s.group := rfl
@[simp] theorem State.modChannel_cur : (s.modChannel k f).cur = s.cur := rfl
@[simp] theorem State.modChannel_agenda : (s.modChannel k f).agenda = s.agenda := rfl
@[simp] theorem State.modChannel_free : (s.modChannel k f).free = s.free := rfl
@[simp] theorem State.modChannel_nextUid : (s.modChannel k f).nextUid = s.nextUid := rfl
@[simp] theorem State.modChannel_nextOp : (s.modChannel k f).nextOp = s.nextOp := rfl

@[simp] theorem State.channel_modChannel_same : (s.modChannel k f).channel k = f (s.channel k) := by
  simp [State.channel, State.modChannel]
@[simp] theorem State.channel_modChannel_other (j : Nat) (h : j ≠ k) : (s.modChannel k f).channel j = s.channel j := by
  simp [State.channel, State.modChannel, h]
end

/-! ## modRouter -/

section
variable (s : State) (k : Nat) (f : Router → Router)

@[simp] theorem State.modRouter_time : (s.modRouter k f).time = s.time := rfl
@[simp] theorem State.modRouter_tsc : (s.modRouter k f).tsc = s.tsc := rfl
@[simp] theorem State.modRouter_tscRem : (s.modRouter k f).tscRem = s.tscRem := rfl
@[simp] theorem State.modRouter_freeze : (s.modRouter k f).freeze = s.freeze := rfl
@[simp] theorem State.modRouter_bootstat : (s.modRouter k f).bootstat = s.bootstat := rfl
@[simp] theorem State.modRouter_bootHash : (s.modRouter k f).bootHash = s.bootHash := rfl
@[simp] theorem State.modRouter_err : (s.modRouter k f).err = s.err := rfl
@[simp] theorem State.modRouter_errAddr : (s.modRouter k f).errAddr = s.errAddr := rfl
@[simp] theorem State.modRouter_mem : (s.modRouter k f).mem = s.mem := rfl
@[simp] theorem State.modRouter_keys : (s.modRouter k f).keys = s.keys := rfl
@[simp] theorem State.modRouter_keyData : (s.modRouter k f).keyData = s.keyData := rfl
@[simp] theorem State.modRouter_queueOwner : (s.modRouter k f).queueOwner = s.queueOwner := rfl
@[simp] theorem State.modRouter_granuleOwner : (s.modRouter k f).granuleOwner = s.granuleOwner := rfl
@[simp] theorem State.modRouter_units : (s.modRouter k f).units = s.units := rfl
@[simp] theorem State.modRouter_evq : (s.modRouter k f).evq = s.evq := rfl
@[simp] theorem State.modRouter_spdm : (s.modRouter k f).spdm = s.spdm := rfl
@[simp] theorem State.modRouter_hostQps : (s.modRouter k f).hostQps = s.hostQps := rfl
@[simp] theorem State.modRouter_hostOut : (s.modRouter k f).hostOut = s.hostOut := rfl
@[simp] theorem State.modRouter_withheld : (s.modRouter k f).withheld = s.withheld := rfl
@[simp] theorem State.modRouter_lasersOut : (s.modRouter k f).lasersOut = s.lasersOut := rfl
@[simp] theorem State.modRouter_fwImage : (s.modRouter k f).fwImage = s.fwImage := rfl
@[simp] theorem State.modRouter_transInvals : (s.modRouter k f).transInvals = s.transInvals := rfl
@[simp] theorem State.modRouter_mgrEvents : (s.modRouter k f).mgrEvents = s.mgrEvents := rfl
@[simp] theorem State.modRouter_spindles : (s.modRouter k f).spindles = s.spindles := rfl
@[simp] theorem State.modRouter_cores : (s.modRouter k f).cores = s.cores := rfl
@[simp] theorem State.modRouter_teams : (s.modRouter k f).teams = s.teams := rfl
@[simp] theorem State.modRouter_launches : (s.modRouter k f).launches = s.launches := rfl
@[simp] theorem State.modRouter_queues : (s.modRouter k f).queues = s.queues := rfl
@[simp] theorem State.modRouter_ctxs : (s.modRouter k f).ctxs = s.ctxs := rfl
@[simp] theorem State.modRouter_parts : (s.modRouter k f).parts = s.parts := rfl
@[simp] theorem State.modRouter_slices : (s.modRouter k f).slices = s.slices := rfl
@[simp] theorem State.modRouter_socks : (s.modRouter k f).socks = s.socks := rfl
@[simp] theorem State.modRouter_stations : (s.modRouter k f).stations = s.stations := rfl
@[simp] theorem State.modRouter_channels : (s.modRouter k f).channels = s.channels := rfl
@[simp] theorem State.modRouter_links : (s.modRouter k f).links = s.links := rfl
@[simp] theorem State.modRouter_ports : (s.modRouter k f).ports = s.ports := rfl
@[simp] theorem State.modRouter_group : (s.modRouter k f).group = s.group := rfl
@[simp] theorem State.modRouter_cur : (s.modRouter k f).cur = s.cur := rfl
@[simp] theorem State.modRouter_agenda : (s.modRouter k f).agenda = s.agenda := rfl
@[simp] theorem State.modRouter_free : (s.modRouter k f).free = s.free := rfl
@[simp] theorem State.modRouter_nextUid : (s.modRouter k f).nextUid = s.nextUid := rfl
@[simp] theorem State.modRouter_nextOp : (s.modRouter k f).nextOp = s.nextOp := rfl

@[simp] theorem State.router_modRouter_same : (s.modRouter k f).router k = f (s.router k) := by
  simp [State.router, State.modRouter]
@[simp] theorem State.router_modRouter_other (j : Nat) (h : j ≠ k) : (s.modRouter k f).router j = s.router j := by
  simp [State.router, State.modRouter, h]
end

/-! ## modLink -/

section
variable (s : State) (k : Nat) (f : Link → Link)

@[simp] theorem State.modLink_time : (s.modLink k f).time = s.time := rfl
@[simp] theorem State.modLink_tsc : (s.modLink k f).tsc = s.tsc := rfl
@[simp] theorem State.modLink_tscRem : (s.modLink k f).tscRem = s.tscRem := rfl
@[simp] theorem State.modLink_freeze : (s.modLink k f).freeze = s.freeze := rfl
@[simp] theorem State.modLink_bootstat : (s.modLink k f).bootstat = s.bootstat := rfl
@[simp] theorem State.modLink_bootHash : (s.modLink k f).bootHash = s.bootHash := rfl
@[simp] theorem State.modLink_err : (s.modLink k f).err = s.err := rfl
@[simp] theorem State.modLink_errAddr : (s.modLink k f).errAddr = s.errAddr := rfl
@[simp] theorem State.modLink_mem : (s.modLink k f).mem = s.mem := rfl
@[simp] theorem State.modLink_keys : (s.modLink k f).keys = s.keys := rfl
@[simp] theorem State.modLink_keyData : (s.modLink k f).keyData = s.keyData := rfl
@[simp] theorem State.modLink_queueOwner : (s.modLink k f).queueOwner = s.queueOwner := rfl
@[simp] theorem State.modLink_granuleOwner : (s.modLink k f).granuleOwner = s.granuleOwner := rfl
@[simp] theorem State.modLink_units : (s.modLink k f).units = s.units := rfl
@[simp] theorem State.modLink_evq : (s.modLink k f).evq = s.evq := rfl
@[simp] theorem State.modLink_spdm : (s.modLink k f).spdm = s.spdm := rfl
@[simp] theorem State.modLink_hostQps : (s.modLink k f).hostQps = s.hostQps := rfl
@[simp] theorem State.modLink_hostOut : (s.modLink k f).hostOut = s.hostOut := rfl
@[simp] theorem State.modLink_withheld : (s.modLink k f).withheld = s.withheld := rfl
@[simp] theorem State.modLink_lasersOut : (s.modLink k f).lasersOut = s.lasersOut := rfl
@[simp] theorem State.modLink_fwImage : (s.modLink k f).fwImage = s.fwImage := rfl
@[simp] theorem State.modLink_transInvals : (s.modLink k f).transInvals = s.transInvals := rfl
@[simp] theorem State.modLink_mgrEvents : (s.modLink k f).mgrEvents = s.mgrEvents := rfl
@[simp] theorem State.modLink_spindles : (s.modLink k f).spindles = s.spindles := rfl
@[simp] theorem State.modLink_cores : (s.modLink k f).cores = s.cores := rfl
@[simp] theorem State.modLink_teams : (s.modLink k f).teams = s.teams := rfl
@[simp] theorem State.modLink_launches : (s.modLink k f).launches = s.launches := rfl
@[simp] theorem State.modLink_queues : (s.modLink k f).queues = s.queues := rfl
@[simp] theorem State.modLink_ctxs : (s.modLink k f).ctxs = s.ctxs := rfl
@[simp] theorem State.modLink_parts : (s.modLink k f).parts = s.parts := rfl
@[simp] theorem State.modLink_slices : (s.modLink k f).slices = s.slices := rfl
@[simp] theorem State.modLink_socks : (s.modLink k f).socks = s.socks := rfl
@[simp] theorem State.modLink_stations : (s.modLink k f).stations = s.stations := rfl
@[simp] theorem State.modLink_channels : (s.modLink k f).channels = s.channels := rfl
@[simp] theorem State.modLink_routers : (s.modLink k f).routers = s.routers := rfl
@[simp] theorem State.modLink_ports : (s.modLink k f).ports = s.ports := rfl
@[simp] theorem State.modLink_group : (s.modLink k f).group = s.group := rfl
@[simp] theorem State.modLink_cur : (s.modLink k f).cur = s.cur := rfl
@[simp] theorem State.modLink_agenda : (s.modLink k f).agenda = s.agenda := rfl
@[simp] theorem State.modLink_free : (s.modLink k f).free = s.free := rfl
@[simp] theorem State.modLink_nextUid : (s.modLink k f).nextUid = s.nextUid := rfl
@[simp] theorem State.modLink_nextOp : (s.modLink k f).nextOp = s.nextOp := rfl

@[simp] theorem State.link_modLink_same : (s.modLink k f).link k = f (s.link k) := by
  simp [State.link, State.modLink]
@[simp] theorem State.link_modLink_other (j : Nat) (h : j ≠ k) : (s.modLink k f).link j = s.link j := by
  simp [State.link, State.modLink, h]
end

/-! ## modPort -/

section
variable (s : State) (k : Nat) (f : EthPort → EthPort)

@[simp] theorem State.modPort_time : (s.modPort k f).time = s.time := rfl
@[simp] theorem State.modPort_tsc : (s.modPort k f).tsc = s.tsc := rfl
@[simp] theorem State.modPort_tscRem : (s.modPort k f).tscRem = s.tscRem := rfl
@[simp] theorem State.modPort_freeze : (s.modPort k f).freeze = s.freeze := rfl
@[simp] theorem State.modPort_bootstat : (s.modPort k f).bootstat = s.bootstat := rfl
@[simp] theorem State.modPort_bootHash : (s.modPort k f).bootHash = s.bootHash := rfl
@[simp] theorem State.modPort_err : (s.modPort k f).err = s.err := rfl
@[simp] theorem State.modPort_errAddr : (s.modPort k f).errAddr = s.errAddr := rfl
@[simp] theorem State.modPort_mem : (s.modPort k f).mem = s.mem := rfl
@[simp] theorem State.modPort_keys : (s.modPort k f).keys = s.keys := rfl
@[simp] theorem State.modPort_keyData : (s.modPort k f).keyData = s.keyData := rfl
@[simp] theorem State.modPort_queueOwner : (s.modPort k f).queueOwner = s.queueOwner := rfl
@[simp] theorem State.modPort_granuleOwner : (s.modPort k f).granuleOwner = s.granuleOwner := rfl
@[simp] theorem State.modPort_units : (s.modPort k f).units = s.units := rfl
@[simp] theorem State.modPort_evq : (s.modPort k f).evq = s.evq := rfl
@[simp] theorem State.modPort_spdm : (s.modPort k f).spdm = s.spdm := rfl
@[simp] theorem State.modPort_hostQps : (s.modPort k f).hostQps = s.hostQps := rfl
@[simp] theorem State.modPort_hostOut : (s.modPort k f).hostOut = s.hostOut := rfl
@[simp] theorem State.modPort_withheld : (s.modPort k f).withheld = s.withheld := rfl
@[simp] theorem State.modPort_lasersOut : (s.modPort k f).lasersOut = s.lasersOut := rfl
@[simp] theorem State.modPort_fwImage : (s.modPort k f).fwImage = s.fwImage := rfl
@[simp] theorem State.modPort_transInvals : (s.modPort k f).transInvals = s.transInvals := rfl
@[simp] theorem State.modPort_mgrEvents : (s.modPort k f).mgrEvents = s.mgrEvents := rfl
@[simp] theorem State.modPort_spindles : (s.modPort k f).spindles = s.spindles := rfl
@[simp] theorem State.modPort_cores : (s.modPort k f).cores = s.cores := rfl
@[simp] theorem State.modPort_teams : (s.modPort k f).teams = s.teams := rfl
@[simp] theorem State.modPort_launches : (s.modPort k f).launches = s.launches := rfl
@[simp] theorem State.modPort_queues : (s.modPort k f).queues = s.queues := rfl
@[simp] theorem State.modPort_ctxs : (s.modPort k f).ctxs = s.ctxs := rfl
@[simp] theorem State.modPort_parts : (s.modPort k f).parts = s.parts := rfl
@[simp] theorem State.modPort_slices : (s.modPort k f).slices = s.slices := rfl
@[simp] theorem State.modPort_socks : (s.modPort k f).socks = s.socks := rfl
@[simp] theorem State.modPort_stations : (s.modPort k f).stations = s.stations := rfl
@[simp] theorem State.modPort_channels : (s.modPort k f).channels = s.channels := rfl
@[simp] theorem State.modPort_routers : (s.modPort k f).routers = s.routers := rfl
@[simp] theorem State.modPort_links : (s.modPort k f).links = s.links := rfl
@[simp] theorem State.modPort_group : (s.modPort k f).group = s.group := rfl
@[simp] theorem State.modPort_cur : (s.modPort k f).cur = s.cur := rfl
@[simp] theorem State.modPort_agenda : (s.modPort k f).agenda = s.agenda := rfl
@[simp] theorem State.modPort_free : (s.modPort k f).free = s.free := rfl
@[simp] theorem State.modPort_nextUid : (s.modPort k f).nextUid = s.nextUid := rfl
@[simp] theorem State.modPort_nextOp : (s.modPort k f).nextOp = s.nextOp := rfl

@[simp] theorem State.port_modPort_same : (s.modPort k f).port k = f (s.port k) := by
  simp [State.port, State.modPort]
@[simp] theorem State.port_modPort_other (j : Nat) (h : j ≠ k) : (s.modPort k f).port j = s.port j := by
  simp [State.port, State.modPort, h]
end

/-! ## modUnit -/

section
variable (s : State) (k : Nat) (f : PowerUnit → PowerUnit)

@[simp] theorem State.modUnit_time : (s.modUnit k f).time = s.time := rfl
@[simp] theorem State.modUnit_tsc : (s.modUnit k f).tsc = s.tsc := rfl
@[simp] theorem State.modUnit_tscRem : (s.modUnit k f).tscRem = s.tscRem := rfl
@[simp] theorem State.modUnit_freeze : (s.modUnit k f).freeze = s.freeze := rfl
@[simp] theorem State.modUnit_bootstat : (s.modUnit k f).bootstat = s.bootstat := rfl
@[simp] theorem State.modUnit_bootHash : (s.modUnit k f).bootHash = s.bootHash := rfl
@[simp] theorem State.modUnit_err : (s.modUnit k f).err = s.err := rfl
@[simp] theorem State.modUnit_errAddr : (s.modUnit k f).errAddr = s.errAddr := rfl
@[simp] theorem State.modUnit_mem : (s.modUnit k f).mem = s.mem := rfl
@[simp] theorem State.modUnit_keys : (s.modUnit k f).keys = s.keys := rfl
@[simp] theorem State.modUnit_keyData : (s.modUnit k f).keyData = s.keyData := rfl
@[simp] theorem State.modUnit_queueOwner : (s.modUnit k f).queueOwner = s.queueOwner := rfl
@[simp] theorem State.modUnit_granuleOwner : (s.modUnit k f).granuleOwner = s.granuleOwner := rfl
@[simp] theorem State.modUnit_evq : (s.modUnit k f).evq = s.evq := rfl
@[simp] theorem State.modUnit_spdm : (s.modUnit k f).spdm = s.spdm := rfl
@[simp] theorem State.modUnit_hostQps : (s.modUnit k f).hostQps = s.hostQps := rfl
@[simp] theorem State.modUnit_hostOut : (s.modUnit k f).hostOut = s.hostOut := rfl
@[simp] theorem State.modUnit_withheld : (s.modUnit k f).withheld = s.withheld := rfl
@[simp] theorem State.modUnit_lasersOut : (s.modUnit k f).lasersOut = s.lasersOut := rfl
@[simp] theorem State.modUnit_fwImage : (s.modUnit k f).fwImage = s.fwImage := rfl
@[simp] theorem State.modUnit_transInvals : (s.modUnit k f).transInvals = s.transInvals := rfl
@[simp] theorem State.modUnit_mgrEvents : (s.modUnit k f).mgrEvents = s.mgrEvents := rfl
@[simp] theorem State.modUnit_spindles : (s.modUnit k f).spindles = s.spindles := rfl
@[simp] theorem State.modUnit_cores : (s.modUnit k f).cores = s.cores := rfl
@[simp] theorem State.modUnit_teams : (s.modUnit k f).teams = s.teams := rfl
@[simp] theorem State.modUnit_launches : (s.modUnit k f).launches = s.launches := rfl
@[simp] theorem State.modUnit_queues : (s.modUnit k f).queues = s.queues := rfl
@[simp] theorem State.modUnit_ctxs : (s.modUnit k f).ctxs = s.ctxs := rfl
@[simp] theorem State.modUnit_parts : (s.modUnit k f).parts = s.parts := rfl
@[simp] theorem State.modUnit_slices : (s.modUnit k f).slices = s.slices := rfl
@[simp] theorem State.modUnit_socks : (s.modUnit k f).socks = s.socks := rfl
@[simp] theorem State.modUnit_stations : (s.modUnit k f).stations = s.stations := rfl
@[simp] theorem State.modUnit_channels : (s.modUnit k f).channels = s.channels := rfl
@[simp] theorem State.modUnit_routers : (s.modUnit k f).routers = s.routers := rfl
@[simp] theorem State.modUnit_links : (s.modUnit k f).links = s.links := rfl
@[simp] theorem State.modUnit_ports : (s.modUnit k f).ports = s.ports := rfl
@[simp] theorem State.modUnit_group : (s.modUnit k f).group = s.group := rfl
@[simp] theorem State.modUnit_cur : (s.modUnit k f).cur = s.cur := rfl
@[simp] theorem State.modUnit_agenda : (s.modUnit k f).agenda = s.agenda := rfl
@[simp] theorem State.modUnit_free : (s.modUnit k f).free = s.free := rfl
@[simp] theorem State.modUnit_nextUid : (s.modUnit k f).nextUid = s.nextUid := rfl
@[simp] theorem State.modUnit_nextOp : (s.modUnit k f).nextOp = s.nextOp := rfl

@[simp] theorem State.unit_modUnit_same : (s.modUnit k f).unit k = f (s.unit k) := by
  simp [State.unit, State.modUnit]
@[simp] theorem State.unit_modUnit_other (j : Nat) (h : j ≠ k) : (s.modUnit k f).unit j = s.unit j := by
  simp [State.unit, State.modUnit, h]
end

/-! ## modLaunch -/

section
variable (s : State) (k : Nat) (f : Launch → Launch)

@[simp] theorem State.modLaunch_time : (s.modLaunch k f).time = s.time := by unfold State.modLaunch; split <;> rfl
@[simp] theorem State.modLaunch_tsc : (s.modLaunch k f).tsc = s.tsc := by unfold State.modLaunch; split <;> rfl
@[simp] theorem State.modLaunch_tscRem : (s.modLaunch k f).tscRem = s.tscRem := by unfold State.modLaunch; split <;> rfl
@[simp] theorem State.modLaunch_freeze : (s.modLaunch k f).freeze = s.freeze := by unfold State.modLaunch; split <;> rfl
@[simp] theorem State.modLaunch_bootstat : (s.modLaunch k f).bootstat = s.bootstat := by unfold State.modLaunch; split <;> rfl
@[simp] theorem State.modLaunch_bootHash : (s.modLaunch k f).bootHash = s.bootHash := by unfold State.modLaunch; split <;> rfl
@[simp] theorem State.modLaunch_err : (s.modLaunch k f).err = s.err := by unfold State.modLaunch; split <;> rfl
@[simp] theorem State.modLaunch_errAddr : (s.modLaunch k f).errAddr = s.errAddr := by unfold State.modLaunch; split <;> rfl
@[simp] theorem State.modLaunch_mem : (s.modLaunch k f).mem = s.mem := by unfold State.modLaunch; split <;> rfl
@[simp] theorem State.modLaunch_keys : (s.modLaunch k f).keys = s.keys := by unfold State.modLaunch; split <;> rfl
@[simp] theorem State.modLaunch_keyData : (s.modLaunch k f).keyData = s.keyData := by unfold State.modLaunch; split <;> rfl
@[simp] theorem State.modLaunch_queueOwner : (s.modLaunch k f).queueOwner = s.queueOwner := by unfold State.modLaunch; split <;> rfl
@[simp] theorem State.modLaunch_granuleOwner : (s.modLaunch k f).granuleOwner = s.granuleOwner := by unfold State.modLaunch; split <;> rfl
@[simp] theorem State.modLaunch_units : (s.modLaunch k f).units = s.units := by unfold State.modLaunch; split <;> rfl
@[simp] theorem State.modLaunch_evq : (s.modLaunch k f).evq = s.evq := by unfold State.modLaunch; split <;> rfl
@[simp] theorem State.modLaunch_spdm : (s.modLaunch k f).spdm = s.spdm := by unfold State.modLaunch; split <;> rfl
@[simp] theorem State.modLaunch_hostQps : (s.modLaunch k f).hostQps = s.hostQps := by unfold State.modLaunch; split <;> rfl
@[simp] theorem State.modLaunch_hostOut : (s.modLaunch k f).hostOut = s.hostOut := by unfold State.modLaunch; split <;> rfl
@[simp] theorem State.modLaunch_withheld : (s.modLaunch k f).withheld = s.withheld := by unfold State.modLaunch; split <;> rfl
@[simp] theorem State.modLaunch_lasersOut : (s.modLaunch k f).lasersOut = s.lasersOut := by unfold State.modLaunch; split <;> rfl
@[simp] theorem State.modLaunch_fwImage : (s.modLaunch k f).fwImage = s.fwImage := by unfold State.modLaunch; split <;> rfl
@[simp] theorem State.modLaunch_transInvals : (s.modLaunch k f).transInvals = s.transInvals := by unfold State.modLaunch; split <;> rfl
@[simp] theorem State.modLaunch_mgrEvents : (s.modLaunch k f).mgrEvents = s.mgrEvents := by unfold State.modLaunch; split <;> rfl
@[simp] theorem State.modLaunch_spindles : (s.modLaunch k f).spindles = s.spindles := by unfold State.modLaunch; split <;> rfl
@[simp] theorem State.modLaunch_cores : (s.modLaunch k f).cores = s.cores := by unfold State.modLaunch; split <;> rfl
@[simp] theorem State.modLaunch_teams : (s.modLaunch k f).teams = s.teams := by unfold State.modLaunch; split <;> rfl
@[simp] theorem State.modLaunch_queues : (s.modLaunch k f).queues = s.queues := by unfold State.modLaunch; split <;> rfl
@[simp] theorem State.modLaunch_ctxs : (s.modLaunch k f).ctxs = s.ctxs := by unfold State.modLaunch; split <;> rfl
@[simp] theorem State.modLaunch_parts : (s.modLaunch k f).parts = s.parts := by unfold State.modLaunch; split <;> rfl
@[simp] theorem State.modLaunch_slices : (s.modLaunch k f).slices = s.slices := by unfold State.modLaunch; split <;> rfl
@[simp] theorem State.modLaunch_socks : (s.modLaunch k f).socks = s.socks := by unfold State.modLaunch; split <;> rfl
@[simp] theorem State.modLaunch_stations : (s.modLaunch k f).stations = s.stations := by unfold State.modLaunch; split <;> rfl
@[simp] theorem State.modLaunch_channels : (s.modLaunch k f).channels = s.channels := by unfold State.modLaunch; split <;> rfl
@[simp] theorem State.modLaunch_routers : (s.modLaunch k f).routers = s.routers := by unfold State.modLaunch; split <;> rfl
@[simp] theorem State.modLaunch_links : (s.modLaunch k f).links = s.links := by unfold State.modLaunch; split <;> rfl
@[simp] theorem State.modLaunch_ports : (s.modLaunch k f).ports = s.ports := by unfold State.modLaunch; split <;> rfl
@[simp] theorem State.modLaunch_group : (s.modLaunch k f).group = s.group := by unfold State.modLaunch; split <;> rfl
@[simp] theorem State.modLaunch_cur : (s.modLaunch k f).cur = s.cur := by unfold State.modLaunch; split <;> rfl
@[simp] theorem State.modLaunch_agenda : (s.modLaunch k f).agenda = s.agenda := by unfold State.modLaunch; split <;> rfl
@[simp] theorem State.modLaunch_free : (s.modLaunch k f).free = s.free := by unfold State.modLaunch; split <;> rfl
@[simp] theorem State.modLaunch_nextUid : (s.modLaunch k f).nextUid = s.nextUid := by unfold State.modLaunch; split <;> rfl
@[simp] theorem State.modLaunch_nextOp : (s.modLaunch k f).nextOp = s.nextOp := by unfold State.modLaunch; split <;> rfl

@[simp] theorem State.modLaunch_get?_same : (s.modLaunch k f).launches.get? k = (s.launches.get? k).map f := by
  unfold State.modLaunch; split <;> simp_all
@[simp] theorem State.modLaunch_get?_other (j : Nat) (h : j ≠ k) : (s.modLaunch k f).launches.get? j = s.launches.get? j := by
  unfold State.modLaunch; split <;> simp_all
end

/-! ## modTeam -/

section
variable (s : State) (k : Nat) (f : Team → Team)

@[simp] theorem State.modTeam_time : (s.modTeam k f).time = s.time := by unfold State.modTeam; split <;> rfl
@[simp] theorem State.modTeam_tsc : (s.modTeam k f).tsc = s.tsc := by unfold State.modTeam; split <;> rfl
@[simp] theorem State.modTeam_tscRem : (s.modTeam k f).tscRem = s.tscRem := by unfold State.modTeam; split <;> rfl
@[simp] theorem State.modTeam_freeze : (s.modTeam k f).freeze = s.freeze := by unfold State.modTeam; split <;> rfl
@[simp] theorem State.modTeam_bootstat : (s.modTeam k f).bootstat = s.bootstat := by unfold State.modTeam; split <;> rfl
@[simp] theorem State.modTeam_bootHash : (s.modTeam k f).bootHash = s.bootHash := by unfold State.modTeam; split <;> rfl
@[simp] theorem State.modTeam_err : (s.modTeam k f).err = s.err := by unfold State.modTeam; split <;> rfl
@[simp] theorem State.modTeam_errAddr : (s.modTeam k f).errAddr = s.errAddr := by unfold State.modTeam; split <;> rfl
@[simp] theorem State.modTeam_mem : (s.modTeam k f).mem = s.mem := by unfold State.modTeam; split <;> rfl
@[simp] theorem State.modTeam_keys : (s.modTeam k f).keys = s.keys := by unfold State.modTeam; split <;> rfl
@[simp] theorem State.modTeam_keyData : (s.modTeam k f).keyData = s.keyData := by unfold State.modTeam; split <;> rfl
@[simp] theorem State.modTeam_queueOwner : (s.modTeam k f).queueOwner = s.queueOwner := by unfold State.modTeam; split <;> rfl
@[simp] theorem State.modTeam_granuleOwner : (s.modTeam k f).granuleOwner = s.granuleOwner := by unfold State.modTeam; split <;> rfl
@[simp] theorem State.modTeam_units : (s.modTeam k f).units = s.units := by unfold State.modTeam; split <;> rfl
@[simp] theorem State.modTeam_evq : (s.modTeam k f).evq = s.evq := by unfold State.modTeam; split <;> rfl
@[simp] theorem State.modTeam_spdm : (s.modTeam k f).spdm = s.spdm := by unfold State.modTeam; split <;> rfl
@[simp] theorem State.modTeam_hostQps : (s.modTeam k f).hostQps = s.hostQps := by unfold State.modTeam; split <;> rfl
@[simp] theorem State.modTeam_hostOut : (s.modTeam k f).hostOut = s.hostOut := by unfold State.modTeam; split <;> rfl
@[simp] theorem State.modTeam_withheld : (s.modTeam k f).withheld = s.withheld := by unfold State.modTeam; split <;> rfl
@[simp] theorem State.modTeam_lasersOut : (s.modTeam k f).lasersOut = s.lasersOut := by unfold State.modTeam; split <;> rfl
@[simp] theorem State.modTeam_fwImage : (s.modTeam k f).fwImage = s.fwImage := by unfold State.modTeam; split <;> rfl
@[simp] theorem State.modTeam_transInvals : (s.modTeam k f).transInvals = s.transInvals := by unfold State.modTeam; split <;> rfl
@[simp] theorem State.modTeam_mgrEvents : (s.modTeam k f).mgrEvents = s.mgrEvents := by unfold State.modTeam; split <;> rfl
@[simp] theorem State.modTeam_spindles : (s.modTeam k f).spindles = s.spindles := by unfold State.modTeam; split <;> rfl
@[simp] theorem State.modTeam_cores : (s.modTeam k f).cores = s.cores := by unfold State.modTeam; split <;> rfl
@[simp] theorem State.modTeam_launches : (s.modTeam k f).launches = s.launches := by unfold State.modTeam; split <;> rfl
@[simp] theorem State.modTeam_queues : (s.modTeam k f).queues = s.queues := by unfold State.modTeam; split <;> rfl
@[simp] theorem State.modTeam_ctxs : (s.modTeam k f).ctxs = s.ctxs := by unfold State.modTeam; split <;> rfl
@[simp] theorem State.modTeam_parts : (s.modTeam k f).parts = s.parts := by unfold State.modTeam; split <;> rfl
@[simp] theorem State.modTeam_slices : (s.modTeam k f).slices = s.slices := by unfold State.modTeam; split <;> rfl
@[simp] theorem State.modTeam_socks : (s.modTeam k f).socks = s.socks := by unfold State.modTeam; split <;> rfl
@[simp] theorem State.modTeam_stations : (s.modTeam k f).stations = s.stations := by unfold State.modTeam; split <;> rfl
@[simp] theorem State.modTeam_channels : (s.modTeam k f).channels = s.channels := by unfold State.modTeam; split <;> rfl
@[simp] theorem State.modTeam_routers : (s.modTeam k f).routers = s.routers := by unfold State.modTeam; split <;> rfl
@[simp] theorem State.modTeam_links : (s.modTeam k f).links = s.links := by unfold State.modTeam; split <;> rfl
@[simp] theorem State.modTeam_ports : (s.modTeam k f).ports = s.ports := by unfold State.modTeam; split <;> rfl
@[simp] theorem State.modTeam_group : (s.modTeam k f).group = s.group := by unfold State.modTeam; split <;> rfl
@[simp] theorem State.modTeam_cur : (s.modTeam k f).cur = s.cur := by unfold State.modTeam; split <;> rfl
@[simp] theorem State.modTeam_agenda : (s.modTeam k f).agenda = s.agenda := by unfold State.modTeam; split <;> rfl
@[simp] theorem State.modTeam_free : (s.modTeam k f).free = s.free := by unfold State.modTeam; split <;> rfl
@[simp] theorem State.modTeam_nextUid : (s.modTeam k f).nextUid = s.nextUid := by unfold State.modTeam; split <;> rfl
@[simp] theorem State.modTeam_nextOp : (s.modTeam k f).nextOp = s.nextOp := by unfold State.modTeam; split <;> rfl

@[simp] theorem State.modTeam_get?_same : (s.modTeam k f).teams.get? k = (s.teams.get? k).map f := by
  unfold State.modTeam; split <;> simp_all
@[simp] theorem State.modTeam_get?_other (j : Nat) (h : j ≠ k) : (s.modTeam k f).teams.get? j = s.teams.get? j := by
  unfold State.modTeam; split <;> simp_all
end

/-! ## modWave -/

section
variable (s : State) (t w : Nat) (f : Wave → Wave)

@[simp] theorem State.modWave_time : (s.modWave t w f).time = s.time := by simp [State.modWave]
@[simp] theorem State.modWave_tsc : (s.modWave t w f).tsc = s.tsc := by simp [State.modWave]
@[simp] theorem State.modWave_tscRem : (s.modWave t w f).tscRem = s.tscRem := by simp [State.modWave]
@[simp] theorem State.modWave_freeze : (s.modWave t w f).freeze = s.freeze := by simp [State.modWave]
@[simp] theorem State.modWave_bootstat : (s.modWave t w f).bootstat = s.bootstat := by simp [State.modWave]
@[simp] theorem State.modWave_bootHash : (s.modWave t w f).bootHash = s.bootHash := by simp [State.modWave]
@[simp] theorem State.modWave_err : (s.modWave t w f).err = s.err := by simp [State.modWave]
@[simp] theorem State.modWave_errAddr : (s.modWave t w f).errAddr = s.errAddr := by simp [State.modWave]
@[simp] theorem State.modWave_mem : (s.modWave t w f).mem = s.mem := by simp [State.modWave]
@[simp] theorem State.modWave_keys : (s.modWave t w f).keys = s.keys := by simp [State.modWave]
@[simp] theorem State.modWave_keyData : (s.modWave t w f).keyData = s.keyData := by simp [State.modWave]
@[simp] theorem State.modWave_queueOwner : (s.modWave t w f).queueOwner = s.queueOwner := by simp [State.modWave]
@[simp] theorem State.modWave_granuleOwner : (s.modWave t w f).granuleOwner = s.granuleOwner := by simp [State.modWave]
@[simp] theorem State.modWave_units : (s.modWave t w f).units = s.units := by simp [State.modWave]
@[simp] theorem State.modWave_evq : (s.modWave t w f).evq = s.evq := by simp [State.modWave]
@[simp] theorem State.modWave_spdm : (s.modWave t w f).spdm = s.spdm := by simp [State.modWave]
@[simp] theorem State.modWave_hostQps : (s.modWave t w f).hostQps = s.hostQps := by simp [State.modWave]
@[simp] theorem State.modWave_hostOut : (s.modWave t w f).hostOut = s.hostOut := by simp [State.modWave]
@[simp] theorem State.modWave_withheld : (s.modWave t w f).withheld = s.withheld := by simp [State.modWave]
@[simp] theorem State.modWave_lasersOut : (s.modWave t w f).lasersOut = s.lasersOut := by simp [State.modWave]
@[simp] theorem State.modWave_fwImage : (s.modWave t w f).fwImage = s.fwImage := by simp [State.modWave]
@[simp] theorem State.modWave_transInvals : (s.modWave t w f).transInvals = s.transInvals := by simp [State.modWave]
@[simp] theorem State.modWave_mgrEvents : (s.modWave t w f).mgrEvents = s.mgrEvents := by simp [State.modWave]
@[simp] theorem State.modWave_spindles : (s.modWave t w f).spindles = s.spindles := by simp [State.modWave]
@[simp] theorem State.modWave_cores : (s.modWave t w f).cores = s.cores := by simp [State.modWave]
@[simp] theorem State.modWave_launches : (s.modWave t w f).launches = s.launches := by simp [State.modWave]
@[simp] theorem State.modWave_queues : (s.modWave t w f).queues = s.queues := by simp [State.modWave]
@[simp] theorem State.modWave_ctxs : (s.modWave t w f).ctxs = s.ctxs := by simp [State.modWave]
@[simp] theorem State.modWave_parts : (s.modWave t w f).parts = s.parts := by simp [State.modWave]
@[simp] theorem State.modWave_slices : (s.modWave t w f).slices = s.slices := by simp [State.modWave]
@[simp] theorem State.modWave_socks : (s.modWave t w f).socks = s.socks := by simp [State.modWave]
@[simp] theorem State.modWave_stations : (s.modWave t w f).stations = s.stations := by simp [State.modWave]
@[simp] theorem State.modWave_channels : (s.modWave t w f).channels = s.channels := by simp [State.modWave]
@[simp] theorem State.modWave_routers : (s.modWave t w f).routers = s.routers := by simp [State.modWave]
@[simp] theorem State.modWave_links : (s.modWave t w f).links = s.links := by simp [State.modWave]
@[simp] theorem State.modWave_ports : (s.modWave t w f).ports = s.ports := by simp [State.modWave]
@[simp] theorem State.modWave_group : (s.modWave t w f).group = s.group := by simp [State.modWave]
@[simp] theorem State.modWave_cur : (s.modWave t w f).cur = s.cur := by simp [State.modWave]
@[simp] theorem State.modWave_agenda : (s.modWave t w f).agenda = s.agenda := by simp [State.modWave]
@[simp] theorem State.modWave_free : (s.modWave t w f).free = s.free := by simp [State.modWave]
@[simp] theorem State.modWave_nextUid : (s.modWave t w f).nextUid = s.nextUid := by simp [State.modWave]
@[simp] theorem State.modWave_nextOp : (s.modWave t w f).nextOp = s.nextOp := by simp [State.modWave]

@[simp] theorem Team.modWave_get?_same (tm : Team) : (tm.modWave w f).waves.get? w = (tm.waves.get? w).map f := by
  unfold Team.modWave; split <;> simp_all
@[simp] theorem Team.modWave_get?_other (tm : Team) (v : Nat) (h : v ≠ w) : (tm.modWave w f).waves.get? v = tm.waves.get? v := by
  unfold Team.modWave; split <;> simp_all
@[simp] theorem State.modWave_teams_same : (s.modWave t w f).teams.get? t = (s.teams.get? t).map fun tm => tm.modWave w f := by
  simp [State.modWave]
@[simp] theorem State.modWave_teams_other (u : Nat) (h : u ≠ t) : (s.modWave t w f).teams.get? u = s.teams.get? u := by
  simp [State.modWave, h]
theorem State.wave?_modWave_same : (s.modWave t w f).wave? t w = (s.wave? t w).map f := by
  unfold State.wave?
  rw [State.modWave_teams_same]
  cases s.teams.get? t <;> simp
theorem State.wave?_modWave_other (u v : Nat) (h : u ≠ t ∨ v ≠ w) : (s.modWave t w f).wave? u v = s.wave? u v := by
  unfold State.wave?
  by_cases hu : u = t
  · subst hu
    have hv : v ≠ w := by rcases h with h | h; exact absurd rfl h; exact h
    rw [State.modWave_teams_same]
    cases s.teams.get? u <;> simp [hv]
  · rw [State.modWave_teams_other _ _ _ _ _ hu]
end

/-! ## Units read after an update of another table -/

section
variable (s : State)

theorem State.core_congr (t : State) (h : t.cores = s.cores) (k : Nat) : t.core k = s.core k := by simp [State.core, h]
theorem State.spindle_congr (t : State) (h : t.spindles = s.spindles) (k : Nat) : t.spindle k = s.spindle k := by simp [State.spindle, h]
theorem State.queue_congr (t : State) (h : t.queues = s.queues) (k : Nat) : t.queue k = s.queue k := by simp [State.queue, h]
theorem State.ctx_congr (t : State) (h : t.ctxs = s.ctxs) (k : Nat) : t.ctx k = s.ctx k := by simp [State.ctx, h]
theorem State.part_congr (t : State) (h : t.parts = s.parts) (k : Nat) : t.part k = s.part k := by simp [State.part, h]
theorem State.slice_congr (t : State) (h : t.slices = s.slices) (k : Nat) : t.slice k = s.slice k := by simp [State.slice, h]
theorem State.sock_congr (t : State) (h : t.socks = s.socks) (k : Nat) : t.sock k = s.sock k := by simp [State.sock, h]
theorem State.station_congr (t : State) (h : t.stations = s.stations) (k : Nat) : t.station k = s.station k := by simp [State.station, h]
theorem State.channel_congr (t : State) (h : t.channels = s.channels) (k : Nat) : t.channel k = s.channel k := by simp [State.channel, h]
theorem State.router_congr (t : State) (h : t.routers = s.routers) (k : Nat) : t.router k = s.router k := by simp [State.router, h]
theorem State.link_congr (t : State) (h : t.links = s.links) (k : Nat) : t.link k = s.link k := by simp [State.link, h]
theorem State.port_congr (t : State) (h : t.ports = s.ports) (k : Nat) : t.port k = s.port k := by simp [State.port, h]
theorem State.unit_congr (t : State) (h : t.units = s.units) (k : Nat) : t.unit k = s.unit k := by simp [State.unit, h]
end

end Sys2Proof.Machine
end

