-- ==== Sys2Proof/Laws/Issue.lean ====
section
/-! SUPPORT. What the shared operations of issue, retirement and traps can do: the lemmas that proofs cite instead of
unfolding them. -/

namespace Sys2Proof.Machine

/-- Everything that a subset at issue is: the team, wave and launch that `cur` names, the lanes of `cur` that are READY at its
PC, and the instruction given. -/
theorem State.issuing_spec {opc : Nat} {f : Form} {s : State} {i : Iss} (h : s.issuing opc f = some i) :
    ∃ c, s.cur = some c ∧ s.teams.get? c.team = some i.team ∧ i.team.waves.get? c.wave = some i.wave ∧
      s.launches.get? i.team.launch = some i.launch ∧ i.tid = c.team ∧ i.wid = c.wave ∧ i.pc = c.pc ∧
      i.lanes = c.lanes &&& i.wave.readyAt c.pc ∧ i.lanes ≠ 0 ∧ i.opc = opc ∧ i.f = f ∧ i.enc0 = c.enc0 ∧ i.enc1 = c.enc1 := by
  unfold State.issuing at h
  split at h
  · cases h
  next c hc =>
    split at h
    · cases h
    next tm ht =>
      split at h
      next w ln hw hl =>
        dsimp only at h
        split at h
        · cases h
        next hne =>
          cases h
          exact ⟨c, hc, ht, hw, hl, rfl, rfl, rfl, rfl, hne, rfl, rfl, rfl, rfl⟩
      · cases h

theorem Executes.form {opc : Nat} {f : Form} {s : State} {i : Iss} (h : Executes opc f s i) : i.f = f := by
  obtain ⟨_, _, _, _, _, _, _, _, _, _, _, h, _⟩ := State.issuing_spec h.subset
  exact h

theorem Executes.opcode {opc : Nat} {f : Form} {s : State} {i : Iss} (h : Executes opc f s i) : i.opc = opc := by
  obtain ⟨_, _, _, _, _, _, _, _, _, _, h, _⟩ := State.issuing_spec h.subset
  exact h

/-- A subset that executes has nothing left to do before the instruction's own meaning. -/
theorem Executes.front_none {opc : Nat} {f : Form} {s : State} {i : Iss} (h : Executes opc f s i) : i.front s = none := by
  unfold Iss.front
  simp only [Iss.held, h.free, h.room, h.waited, Bool.or_self, h.regs, h.role, h.stall, h.chan, h.ready, if_neg h.active, Option.map_none, Bool.false_eq_true, if_false]

/-- An instruction that executes ends as its meaning says. -/
theorem issue_of_executes {opc : Nat} {f : Form} {s : State} {i : Iss} (h : Executes opc f s i) (body : Iss → Eff) :
    issue opc f s body = .next (s.conclude i (body i)) := by
  obtain ⟨c, hc, _⟩ := State.issuing_spec h.subset
  simp [issue, hc, h.subset, h.front_none]

@[simp] theorem State.conclude_done (s : State) (i : Iss) (t : State) : s.conclude i (.done t) = i.ends t := rfl

/-- A meaning that takes effect. -/
theorem issue_done {opc : Nat} {f : Form} {s t : State} {i : Iss} {body : Iss → Eff} (h : Executes opc f s i)
    (hb : body i = .done t) : issue opc f s body = .next (i.ends t) := by
  rw [issue_of_executes h, hb, State.conclude_done]

/-- A fixed-latency meaning whose operands are acceptable. -/
theorem issueFixed_ok {opc : Nat} {f : Form} {s : State} {i : Iss} {body : Iss → Except Trap Out} {o : Out}
    (h : Executes opc f s i) (hb : body i = .ok o) : issueFixed opc f s body = .next (i.retires s o) := by
  unfold issueFixed
  exact issue_done h (by rw [hb])

/-- A fixed-latency meaning whose operands a check refuses. -/
theorem issueFixed_error {opc : Nat} {f : Form} {s : State} {i : Iss} {body : Iss → Except Trap Out} {t : Trap}
    (h : Executes opc f s i) (hb : body i = .error t) : issueFixed opc f s body = .next (s.conclude i (.trap t)) := by
  unfold issueFixed
  rw [issue_of_executes h, hb]

/-- A wave changed: the team's entry holds the changed wave. -/
theorem State.modWave_some {s : State} {t w : Nat} {tm : Team} {wv : Wave} (ht : s.teams.get? t = some tm)
    (hw : tm.waves.get? w = some wv) (f : Wave → Wave) :
    s.modWave t w f = { s with teams := s.teams.set t { tm with waves := tm.waves.set w (f wv) } } := by
  simp [State.modWave, State.modTeam, ht, Team.modWave, hw]

/-- Trap entry of a subset whose wave is not trapped (R384): only that wave changes. -/
theorem State.takeTrap_entry {s : State} {i : Iss} (t : Trap) (ht : s.teams.get? i.tid = some i.team)
    (hw : i.team.waves.get? i.wid = some i.wave) (hn : i.wave.trapped = false) :
    s.takeTrap i t =
      let wv := i.wave.trapEntry i (s.part i.launch.part).hbase s.tsc s.time (s.cycleOf i.team.core) t
      { s with teams := s.teams.set i.tid { i.team with waves := i.team.waves.set i.wid wv } } := by
  unfold State.takeTrap
  rw [hn, if_neg (by simp), State.modWave_some ht hw]

/-- Every instruction of the opcode map is an issue of the subset that `cur` names, with a meaning of its own. -/
theorem exec_is_issue (ins : Instr) (opc : Nat) (f : Form) (h : opcodeOf ins = some (opc, f)) :
    ∃ body : State → Iss → Eff, ∀ s, exec ins s = issue opc f s (body s) := by
  cases ins <;> first
    | (cases h; exact ⟨_, fun _ => rfl⟩)
    | (simp [opcodeOf] at h)

end Sys2Proof.Machine
end

