-- ==== Sys2Proof/Laws/Retire.lean ====
section
/-! SUPPORT. What channel wakes, channel pops and pushes, register writes and the retirement of a subset leave unchanged. -/

namespace Sys2Proof.Machine

/-! ## Wakes change only what says who waits -/

/-- Two waves that differ at most in threads, waits and times of waiting. -/
def Wave.SameButWaits (a b : Wave) : Prop := b = { a with threads := b.threads, waits := b.waits, waitSince := b.waitSince }

theorem Wave.SameButWaits.refl (a : Wave) : a.SameButWaits a := rfl

theorem Wave.SameButWaits.trans {a b c : Wave} (h : a.SameButWaits b) (k : b.SameButWaits c) : a.SameButWaits c := by
  unfold Wave.SameButWaits at *
  rw [k, h]

theorem Wave.wake_sameButWaits (a : Wave) (n : Nat) (p : Wait → Bool) : a.SameButWaits (a.wake n p) := rfl

/-- A state that differs at most in the waits of its waves. -/
structure State.OnlyWakes (s t : State) : Prop where
  rest : t = { s with teams := t.teams }
  waves : ∀ u v w, s.wave? u v = some w → ∃ w', t.wave? u v = some w' ∧ w.SameButWaits w'

theorem State.OnlyWakes.refl (s : State) : s.OnlyWakes s := ⟨rfl, fun _ _ w h => ⟨w, h, rfl⟩⟩

theorem State.OnlyWakes.trans {s t r : State} (h : s.OnlyWakes t) (k : t.OnlyWakes r) : s.OnlyWakes r := by
  refine ⟨?_, ?_⟩
  · rw [k.rest, h.rest]
  · intro u v w hw
    obtain ⟨w1, e1, s1⟩ := h.waves u v w hw
    obtain ⟨w2, e2, s2⟩ := k.waves u v w1 e1
    exact ⟨w2, e2, s1.trans s2⟩

theorem State.OnlyWakes.modWave (s : State) (t w : Nat) (f : Wave → Wave) (hf : ∀ x : Wave, x.SameButWaits (f x)) :
    s.OnlyWakes (s.modWave t w f) := by
  refine ⟨?_, ?_⟩
  · unfold State.modWave State.modTeam
    split <;> rfl
  · intro u v wv h
    by_cases hu : u = t ∧ v = w
    · obtain ⟨rfl, rfl⟩ := hu
      rw [State.wave?_modWave_same, h]
      exact ⟨_, rfl, hf _⟩
    · rw [State.wave?_modWave_other]
      · exact ⟨_, h, rfl⟩
      · by_cases h1 : u = t <;> simp_all

theorem State.OnlyWakes.foldl {α : Type} (l : List α) (f : State → α → State) (hf : ∀ (s : State) (a : α), s.OnlyWakes (f s a)) (s : State) :
    s.OnlyWakes (l.foldl f s) := by
  induction l generalizing s with
  | nil => exact State.OnlyWakes.refl s
  | cons a l ih => exact (hf s a).trans (ih _)

theorem State.channelWake_onlyWakes (s : State) : s.OnlyWakes s.channelWake := by
  unfold State.channelWake
  apply State.OnlyWakes.foldl
  intro s a
  split
  · exact State.OnlyWakes.refl _
  · apply State.OnlyWakes.foldl
    intro s b
    split
    · exact State.OnlyWakes.modWave _ _ _ _ fun x => x.wake_sameButWaits _ _
    · exact State.OnlyWakes.refl _

/-! ## Channels and registers -/

/-- What no retirement changes. -/
structure State.SameRest (s t : State) : Prop where
  mem : t.mem = s.mem
  slices : t.slices = s.slices
  launches : t.launches = s.launches
  ctxs : t.ctxs = s.ctxs
  parts : t.parts = s.parts
  keys : t.keys = s.keys

theorem State.SameRest.refl (s : State) : s.SameRest s := ⟨rfl, rfl, rfl, rfl, rfl, rfl⟩

theorem State.SameRest.trans {s t r : State} (h : s.SameRest t) (k : t.SameRest r) : s.SameRest r :=
  ⟨k.mem.trans h.mem, k.slices.trans h.slices, k.launches.trans h.launches, k.ctxs.trans h.ctxs, k.parts.trans h.parts,
    k.keys.trans h.keys⟩

theorem State.SameRest.modWave (s : State) (t w : Nat) (f : Wave → Wave) : s.SameRest (s.modWave t w f) :=
  ⟨by simp, by simp, by simp, by simp, by simp, by simp⟩

theorem State.SameRest.modTeam (s : State) (t : Nat) (f : Team → Team) : s.SameRest (s.modTeam t f) :=
  ⟨by simp, by simp, by simp, by simp, by simp, by simp⟩

theorem State.SameRest.modCore (s : State) (k : Nat) (f : Core → Core) : s.SameRest (s.modCore k f) :=
  ⟨rfl, rfl, rfl, rfl, rfl, rfl⟩

theorem State.OnlyWakes.sameRest {s t : State} (h : s.OnlyWakes t) : s.SameRest t := by
  rw [h.rest]
  exact ⟨rfl, rfl, rfl, rfl, rfl, rfl⟩

/-- A state with the same waves. -/
structure State.SameWaves (s t : State) : Prop where
  rest : s.SameRest t
  waves : ∀ u v, t.wave? u v = s.wave? u v

theorem State.SameWaves.refl (s : State) : s.SameWaves s := ⟨State.SameRest.refl s, fun _ _ => rfl⟩

theorem State.SameWaves.trans {s t r : State} (h : s.SameWaves t) (k : t.SameWaves r) : s.SameWaves r :=
  ⟨h.rest.trans k.rest, fun u v => (k.waves u v).trans (h.waves u v)⟩

theorem State.SameWaves.foldl {α : Type} (l : List α) (f : State → α → State) (hf : ∀ (s : State) (a : α), s.SameWaves (f s a)) (s : State) :
    s.SameWaves (l.foldl f s) := by
  induction l generalizing s with
  | nil => exact State.SameWaves.refl s
  | cons a l ih => exact (hf s a).trans (ih _)

theorem State.SameWaves.modTeam (s : State) (t : Nat) (f : Team → Team) (hf : ∀ x, (f x).waves = x.waves) :
    s.SameWaves (s.modTeam t f) := by
  refine ⟨State.SameRest.modTeam _ _ _, ?_⟩
  intro u v
  unfold State.wave?
  by_cases h : u = t
  · subst h
    rw [State.modTeam_get?_same]
    cases s.teams.get? u <;> simp [hf]
  · rw [State.modTeam_get?_other _ _ _ _ h]

theorem State.SameWaves.modCore (s : State) (k : Nat) (f : Core → Core) : s.SameWaves (s.modCore k f) :=
  ⟨State.SameRest.modCore _ _ _, fun _ _ => rfl⟩

theorem State.SameWaves.modPort (s : State) (k : Nat) (f : EthPort → EthPort) : s.SameWaves (s.modPort k f) :=
  ⟨⟨rfl, rfl, rfl, rfl, rfl, rfl⟩, fun _ _ => rfl⟩

theorem State.SameWaves.modQueue (s : State) (k : Nat) (f : Queue → Queue) : s.SameWaves (s.modQueue k f) :=
  ⟨⟨rfl, rfl, rfl, rfl, rfl, rfl⟩, fun _ _ => rfl⟩

@[simp] theorem Team.stashWrite_waves (tm : Team) (o : Nat) (b : List Byte) : (tm.stashWrite o b).waves = tm.waves := by
  induction b generalizing tm o with
  | nil => rfl
  | cons x b ih => simp only [Team.stashWrite, ih]; rfl

theorem State.SameWaves.stashTouched (s : State) (t o n : Nat) : s.SameWaves (s.stashTouched t o n) := by
  unfold State.stashTouched
  split
  · exact State.SameWaves.refl _
  · dsimp only
    split
    · exact State.SameWaves.refl _
    · exact State.SameWaves.modCore _ _ _

theorem State.chanPop_sameWaves (s : State) (t : Nat) (tm : Team) (p : Nat) (b : Bind) (k : Nat) :
    s.SameWaves (s.chanPop t tm p b k) := by
  unfold State.chanPop
  split
  · exact State.SameWaves.modCore _ _ _
  · refine State.SameWaves.trans (State.SameWaves.modTeam _ _ _ ?_) (State.SameWaves.stashTouched _ _ _ _)
    intro x
    simp [ringPop]
  · exact State.SameWaves.modPort _ _ _
  · exact State.SameWaves.refl _

theorem State.chanPush_sameWaves (s : State) (t w : Nat) (tm : Team) (p : Nat) (b : Bind) (v : Vec) :
    s.SameWaves (s.chanPush t w tm p b v) := by
  unfold State.chanPush
  split
  · exact (State.SameWaves.modCore _ _ _).trans (State.SameWaves.modTeam _ _ _ fun _ => rfl)
  · refine State.SameWaves.trans (State.SameWaves.modTeam _ _ _ ?_) (State.SameWaves.stashTouched _ _ _ _)
    intro x
    simp [ringFill, ringReserve]
  · exact (State.SameWaves.modQueue _ _ _).trans (State.SameWaves.modTeam _ _ _ fun _ => rfl)
  · exact (State.SameWaves.modPort _ _ _).trans (State.SameWaves.modTeam _ _ _ fun _ => rfl)
  · exact State.SameWaves.refl _

theorem State.popAll_sameWaves (s : State) (t : Nat) (tm : Team) (p : Nat) (ps : List (Bind × Nat)) :
    s.SameWaves (s.popAll t tm p ps) :=
  State.SameWaves.foldl _ _ (fun _ _ => State.chanPop_sameWaves _ _ _ _ _ _) _

theorem State.popSources_sameWaves (s : State) (i : Iss) : s.SameWaves (s.popSources i) := by
  unfold State.popSources
  split
  · exact State.SameWaves.refl _
  · exact State.popAll_sameWaves _ _ _ _ _

/-- A wave's registers after some are written. -/
def Wave.setRegs (w : Wave) (rs : List (Nat × Vec)) : List Vec := rs.foldl (fun v r => v.set r.1 r.2) w.vregs

/-- Two waves that differ at most in registers, which the second has as given, and names. -/
def Wave.RegsOnly (w w' : Wave) (vs : List Vec) : Prop := w' = { w with vregs := vs, names := w'.names }

theorem Wave.setRegs_fold (rs : List (Nat × Vec)) (w : Wave) :
    w.RegsOnly (rs.foldl (fun wv r => { wv with vregs := wv.vregs.set r.1 r.2 }) w) (w.setRegs rs) := by
  unfold Wave.RegsOnly Wave.setRegs
  induction rs generalizing w with
  | nil => rfl
  | cons r rs ih => simp only [List.foldl]; rw [ih]

theorem Wave.setRegs_named (rs : List (Nat × Vec)) (c : Core × List Nat) (w : Wave) :
    w.RegsOnly (rs.foldl (fun (acc : (Core × List Nat) × Wave) r =>
      let p := acc.1.1.place acc.1.2 r.2
      ((p.1, acc.1.2.tail), { acc.2 with vregs := acc.2.vregs.set r.1 r.2, names := acc.2.names.set r.1 p.2 })) (c, w)).2 (w.setRegs rs) := by
  unfold Wave.RegsOnly Wave.setRegs
  induction rs generalizing w c with
  | nil => rfl
  | cons r rs ih => simp only [List.foldl]; rw [ih]

/-- Writing registers changes the registers named, and the names, of that wave alone. -/
theorem State.writeRegs_spec (s : State) (t w : Nat) (rs : List (Nat × Vec)) (g : List Nat) (wv : Wave)
    (h : s.wave? t w = some wv) :
    s.SameRest (s.writeRegs t w rs g) ∧
      ∃ w', (s.writeRegs t w rs g).wave? t w = some w' ∧ wv.RegsOnly w' (wv.setRegs rs) := by
  have h0 := h
  unfold State.wave? at h
  unfold State.writeRegs
  cases ht : s.teams.get? t with
  | none => simp [ht] at h
  | some tm =>
    simp only [ht] at h
    simp only [h]
    split
    · refine ⟨State.SameRest.modWave _ _ _ _, ?_⟩
      rw [State.wave?_modWave_same, h0]
      exact ⟨_, rfl, Wave.setRegs_fold _ _⟩
    · refine ⟨(State.SameRest.modCore _ _ _).trans (State.SameRest.modWave _ _ _ _), ?_⟩
      rw [State.wave?_modWave_same, (State.SameWaves.modCore _ _ _).waves, h0]
      exact ⟨_, rfl, Wave.setRegs_named _ _ _⟩

end Sys2Proof.Machine
end

