-- ==== Sys2Proof/Laws/Operation.lean ====
section
/-! SUPPORT. Lane masks, and what the start of an operation in flight leaves. -/

namespace Sys2Proof.Machine

/-! ## Lane masks -/

theorem maskFold_getLsbD (p : Nat → Bool) (l : Nat) (ls : List Nat) (m : Mask) (h : ∀ x ∈ ls, x < 32) :
    (ls.foldl (fun m l => if p l then m ||| (1#32 <<< l) else m) m).getLsbD l = (m.getLsbD l || (decide (l ∈ ls) && p l)) := by
  induction ls generalizing m with
  | nil => simp
  | cons a ls ih =>
    rw [List.foldl_cons, ih _ fun x hx => h x (List.mem_cons_of_mem _ hx)]
    have ha := h a List.mem_cons_self
    by_cases hal : l = a
    · subst hal
      cases p l <;> simp [ha]
    · have hb : (1#32 <<< a).getLsbD l = false := by
        simp only [BitVec.getLsbD_shiftLeft, BitVec.getLsbD_one]
        rcases Nat.lt_or_gt_of_ne hal with h1 | h1
        · simp [h1]
        · have : l - a ≠ 0 := by omega
          simp [this]
      cases p a <;> simp [hal, BitVec.getLsbD_or, hb]

/-- A lane is in the mask of a test exactly when it passes the test. -/
theorem laneMask_getLsbD (p : Nat → Bool) {l : Nat} (h : l < 32) : (laneMask p).getLsbD l = p l := by
  unfold laneMask
  rw [maskFold_getLsbD p l _ _ (by simp [lanes32])]
  simp [lanes32, h]

theorem laneMask_eq_zero (p : Nat → Bool) : laneMask p = 0 ↔ ∀ l, l < 32 → p l = false := by
  constructor
  · intro h l hl
    rw [← laneMask_getLsbD p hl, h]
    simp
  · intro h
    apply BitVec.eq_of_getLsbD_eq
    intro l hl
    rw [laneMask_getLsbD p hl, h l hl]
    simp

/-! ## The wave of a subset -/

theorem Executes.wave {opc : Nat} {f : Form} {s : State} {i : Iss} (h : Executes opc f s i) :
    s.wave? i.tid i.wid = some i.wave := by
  obtain ⟨c, _, ht, hw, _, e1, e2, _⟩ := State.issuing_spec h.subset
  unfold State.wave?
  rw [e1, ht]
  simp only [e2, hw]

theorem Executes.team {opc : Nat} {f : Form} {s : State} {i : Iss} (h : Executes opc f s i) :
    s.teams.get? i.tid = some i.team := by
  obtain ⟨c, _, ht, _, _, e1, _⟩ := State.issuing_spec h.subset
  rw [e1, ht]

theorem State.team_of_wave {s : State} {t w : Nat} {wv : Wave} (h : s.wave? t w = some wv) :
    ∃ tm, s.teams.get? t = some tm ∧ tm.waves.get? w = some wv := by
  unfold State.wave? at h
  cases ht : s.teams.get? t with
  | none => simp [ht] at h
  | some tm => exact ⟨tm, rfl, by simpa [ht] using h⟩

/-- The wave after an instruction is over. -/
theorem State.issuedNext_wave {s : State} {i : Iss} {w : Wave} (hz : List Hazard) (h : s.wave? i.tid i.wid = some w) :
    (s.issuedNext i hz).wave? i.tid i.wid =
      some ((w.advancePcs i).issued i s.time (s.cycleOf i.team.core) hz) := by
  obtain ⟨tm, h1, h2⟩ := State.team_of_wave h
  unfold State.issuedNext State.wave?
  simp only
  rw [State.modTeam_get?_same, h1]
  simp [h2]

theorem State.issuedNext_sameRest (s : State) (i : Iss) (hz : List Hazard) : s.SameRest (s.issuedNext i hz) :=
  have h := State.SameRest.modTeam s i.tid fun tm =>
    { tm.modWave i.wid fun w => (w.advancePcs i).issued i s.time (s.cycleOf i.team.core) hz with started := true }
  ⟨h.mem, h.slices, h.launches, h.ctxs, h.parts, h.keys⟩

/-- The end of an instruction changes, of a wave, at most what says who waits. -/
theorem Iss.ends_wave (i : Iss) {t : State} {u v : Nat} {w : Wave} (h : t.wave? u v = some w) :
    ∃ w', (i.ends t).wave? u v = some w' ∧ w.SameButWaits w' := by
  unfold Iss.ends Iss.wakes
  split
  · exact ⟨w, h, rfl⟩
  · exact t.channelWake_onlyWakes.waves u v w h

theorem Iss.ends_sameRest (i : Iss) (t : State) : t.SameRest (i.ends t) := by
  unfold Iss.ends Iss.wakes
  split
  · exact ⟨rfl, rfl, rfl, rfl, rfl, rfl⟩
  · have h := t.channelWake_onlyWakes.sameRest
    exact ⟨h.mem, h.slices, h.launches, h.ctxs, h.parts, h.keys⟩

theorem Wave.count_setCount (w : Wave) (c d : Fin 4) (f : Nat → Nat) :
    (w.setCount c.val f).count d.val = if c = d then f (w.count d.val) else w.count d.val := by
  match c, d with
  | 0, 0 | 0, 1 | 0, 2 | 0, 3 | 1, 0 | 1, 1 | 1, 2 | 1, 3 | 2, 0 | 2, 1 | 2, 2 | 2, 3 | 3, 0 | 3, 1 | 3, 2 | 3, 3 => rfl

/-- Neither the next PC nor a stall count touches a wave's operation counts. -/
theorem Wave.count_issued (w : Wave) (i : Iss) (now cycle c : Nat) (hz : List Hazard) :
    ((w.advancePcs i).issued i now cycle hz).count c = w.count c := by
  unfold Wave.count Wave.issued Wave.stalled Wave.advancePcs Wave.setPcs
  split <;> rfl

theorem Wave.setCount_rest (w : Wave) (c : Nat) (f : Nat → Nat) :
    (w.setCount c f).ops = w.ops ∧ (w.setCount c f).pcs = w.pcs ∧ (w.setCount c f).vregs = w.vregs ∧
      (w.setCount c f).preds = w.preds ∧ (w.setCount c f).rejoin = w.rejoin ∧ (w.setCount c f).flags = w.flags := by
  unfold Wave.setCount
  split <;> exact ⟨rfl, rfl, rfl, rfl, rfl, rfl⟩

/-- The wave after an operation has begun. -/
theorem State.beginOp_wave {s : State} {i : Iss} {w : Wave} (o : Op) (h : s.wave? i.tid i.wid = some w) :
    ∃ w', (s.beginOp i o).wave? i.tid i.wid = some w' ∧ w'.ops = w.ops ++ [o] ∧
      (∀ c : Fin 4, w'.count c.val = w.count c.val + if o.counted = some c then 1 else 0) ∧
      w'.pcs = mergeLanes i.lanes w.pcs 0 (fun _ => i.pc + i.len) ∧
      w'.vregs = w.vregs ∧ w'.preds = w.preds ∧ w'.rejoin = w.rejoin ∧ w'.flags = w.flags := by
  unfold State.beginOp
  have h1 : ({ s with nextOp := s.nextOp + 1 } : State).wave? i.tid i.wid = some w := h
  refine ⟨_, State.issuedNext_wave [] (by rw [State.wave?_modWave_same, h1]; rfl), ?_⟩
  cases ho : o.counted with
  | none => exact ⟨rfl, fun c => by
      refine (Wave.count_issued _ i _ _ _ _).trans ?_
      simp [Wave.count], rfl, rfl, rfl, rfl, rfl⟩
  | some c =>
    obtain ⟨e1, e2, e3, e4, e5, e6⟩ := ({ w with ops := w.ops ++ [o] } : Wave).setCount_rest c.val (· + 1)
    refine ⟨e1, fun d => ?_, by rw [← e2]; rfl, e3, e4, e5, e6⟩
    have := ({ w with ops := w.ops ++ [o] } : Wave).count_setCount c d (· + 1)
    have h0 : ({ w with ops := w.ops ++ [o] } : Wave).count d.val = w.count d.val := by
      unfold Wave.count; split <;> rfl
    rw [h0] at this
    refine (Wave.count_issued _ i _ _ _ _).trans (this.trans ?_)
    by_cases hcd : c = d <;> simp [hcd]

/-- A wave that differs at most in who waits from one that an operation has joined. -/
theorem Iss.Begins.of_wave {i : Iss} {t u : State} {o : Op} (ht : t.wave? i.tid i.wid = some i.wave)
    (h : ∀ w, (t.beginOp i o).wave? i.tid i.wid = some w → ∃ w', u.wave? i.tid i.wid = some w' ∧ w.SameButWaits w') :
    i.Begins u o := by
  obtain ⟨w, h1, e1, e2, e3, e4, e5, e6, e7⟩ := State.beginOp_wave o ht
  obtain ⟨w', h2, h3⟩ := h w h1
  unfold Wave.SameButWaits at h3
  refine ⟨w', h2, ?_, ?_, ?_, ?_, ?_, ?_, ?_⟩ <;> rw [h3]
  · exact e1
  · intro c
    refine Eq.trans ?_ (e2 c)
    unfold Wave.count
    split <;> rfl
  · intro l hl
    show w.pcs.getD l 0 = _
    rw [e3, mergeLanes_getD _ _ _ _ _ _ hl]
  · exact e4
  · exact e5
  · exact e6
  · exact e7

/-- An instruction that begins an operation on a state with the subset's wave unchanged. -/
theorem State.beginOp_begins {t : State} {i : Iss} (o : Op) (ht : t.wave? i.tid i.wid = some i.wave) :
    i.Begins (i.ends (t.beginOp i o)) o :=
  Iss.Begins.of_wave ht fun _ h => i.ends_wave h

end Sys2Proof.Machine
end

