-- ==== Sys2Proof/Laws/PerInstr.lean ====
section
/-! SUPPORT. What holds of each instruction as syntax: an instruction of the opcode map has a 10-bit opcode that the map assigns
(R95, R117); an event has none. -/

namespace Sys2Proof.Laws

/-- The opcode of an instruction, if it has one, is one that the map assigns. -/
def Encoding.Statement (i : Instr) : Prop :=
  ∀ (opc : Nat) (f : Form), Machine.opcodeOf i = some (opc, f) → opc < 1024 ∧ Machine.wordForms opc ≠ none

theorem Encoding.of_opcode {i : Instr} {n : Nat} {g : Form} (h : Machine.opcodeOf i = some (n, g)) (h1 : n < 1024)
    (h2 : Machine.wordForms n ≠ none) : Encoding.Statement i := by
  intro opc f e
  rw [h] at e
  cases e
  exact ⟨h1, h2⟩

theorem Encoding.of_event {i : Instr} (h : Machine.opcodeOf i = none) : Encoding.Statement i := by
  intro opc f e
  rw [h] at e
  cases e

theorem Encoding.nop (f : Form) : Encoding.Statement (.nop f) := Encoding.of_opcode rfl (by decide) (by decide)
theorem Encoding.bra (f : Form) : Encoding.Statement (.bra f) := Encoding.of_opcode rfl (by decide) (by decide)
theorem Encoding.brx (f : Form) : Encoding.Statement (.brx f) := Encoding.of_opcode rfl (by decide) (by decide)
theorem Encoding.call (f : Form) : Encoding.Statement (.call f) := Encoding.of_opcode rfl (by decide) (by decide)
theorem Encoding.callx (f : Form) : Encoding.Statement (.callx f) := Encoding.of_opcode rfl (by decide) (by decide)
theorem Encoding.ret (f : Form) : Encoding.Statement (.ret f) := Encoding.of_opcode rfl (by decide) (by decide)
theorem Encoding.exit (f : Form) : Encoding.Statement (.exit f) := Encoding.of_opcode rfl (by decide) (by decide)
theorem Encoding.jenrol (f : Form) : Encoding.Statement (.jenrol f) := Encoding.of_opcode rfl (by decide) (by decide)
theorem Encoding.jwait (f : Form) : Encoding.Statement (.jwait f) := Encoding.of_opcode rfl (by decide) (by decide)
theorem Encoding.yield (f : Form) : Encoding.Statement (.yield f) := Encoding.of_opcode rfl (by decide) (by decide)
theorem Encoding.sleep (f : Form) : Encoding.Statement (.sleep f) := Encoding.of_opcode rfl (by decide) (by decide)
theorem Encoding.pcmp (f : Form) : Encoding.Statement (.pcmp f) := Encoding.of_opcode rfl (by decide) (by decide)
theorem Encoding.plog (f : Form) : Encoding.Statement (.plog f) := Encoding.of_opcode rfl (by decide) (by decide)
theorem Encoding.pmov (f : Form) : Encoding.Statement (.pmov f) := Encoding.of_opcode rfl (by decide) (by decide)
theorem Encoding.pvote (f : Form) : Encoding.Statement (.pvote f) := Encoding.of_opcode rfl (by decide) (by decide)
theorem Encoding.ballot (f : Form) : Encoding.Statement (.ballot f) := Encoding.of_opcode rfl (by decide) (by decide)
theorem Encoding.glaunch (f : Form) : Encoding.Statement (.glaunch f) := Encoding.of_opcode rfl (by decide) (by decide)
theorem Encoding.gjoin (f : Form) : Encoding.Statement (.gjoin f) := Encoding.of_opcode rfl (by decide) (by decide)
theorem Encoding.trap (f : Form) : Encoding.Statement (.trap f) := Encoding.of_opcode rfl (by decide) (by decide)
theorem Encoding.brk (f : Form) : Encoding.Statement (.brk f) := Encoding.of_opcode rfl (by decide) (by decide)
theorem Encoding.iadd (f : Form) : Encoding.Statement (.iadd f) := Encoding.of_opcode rfl (by decide) (by decide)
theorem Encoding.isub (f : Form) : Encoding.Statement (.isub f) := Encoding.of_opcode rfl (by decide) (by decide)
theorem Encoding.iaddc (f : Form) : Encoding.Statement (.iaddc f) := Encoding.of_opcode rfl (by decide) (by decide)
theorem Encoding.imul (f : Form) : Encoding.Statement (.imul f) := Encoding.of_opcode rfl (by decide) (by decide)
theorem Encoding.imulh (f : Form) : Encoding.Statement (.imulh f) := Encoding.of_opcode rfl (by decide) (by decide)
theorem Encoding.imad (f : Form) : Encoding.Statement (.imad f) := Encoding.of_opcode rfl (by decide) (by decide)
theorem Encoding.imin (f : Form) : Encoding.Statement (.imin f) := Encoding.of_opcode rfl (by decide) (by decide)
theorem Encoding.imax (f : Form) : Encoding.Statement (.imax f) := Encoding.of_opcode rfl (by decide) (by decide)
theorem Encoding.iabs (f : Form) : Encoding.Statement (.iabs f) := Encoding.of_opcode rfl (by decide) (by decide)
theorem Encoding.blut (f : Form) : Encoding.Statement (.blut f) := Encoding.of_opcode rfl (by decide) (by decide)
theorem Encoding.shl (f : Form) : Encoding.Statement (.shl f) := Encoding.of_opcode rfl (by decide) (by decide)
theorem Encoding.shr (f : Form) : Encoding.Statement (.shr f) := Encoding.of_opcode rfl (by decide) (by decide)
theorem Encoding.shra (f : Form) : Encoding.Statement (.shra f) := Encoding.of_opcode rfl (by decide) (by decide)
theorem Encoding.rot (f : Form) : Encoding.Statement (.rot f) := Encoding.of_opcode rfl (by decide) (by decide)
theorem Encoding.shd (f : Form) : Encoding.Statement (.shd f) := Encoding.of_opcode rfl (by decide) (by decide)
theorem Encoding.popc (f : Form) : Encoding.Statement (.popc f) := Encoding.of_opcode rfl (by decide) (by decide)
theorem Encoding.clz (f : Form) : Encoding.Statement (.clz f) := Encoding.of_opcode rfl (by decide) (by decide)
theorem Encoding.brev (f : Form) : Encoding.Statement (.brev f) := Encoding.of_opcode rfl (by decide) (by decide)
theorem Encoding.bfe (f : Form) : Encoding.Statement (.bfe f) := Encoding.of_opcode rfl (by decide) (by decide)
theorem Encoding.bfi (f : Form) : Encoding.Statement (.bfi f) := Encoding.of_opcode rfl (by decide) (by decide)
theorem Encoding.isel (f : Form) : Encoding.Statement (.isel f) := Encoding.of_opcode rfl (by decide) (by decide)
theorem Encoding.icmp (f : Form) : Encoding.Statement (.icmp f) := Encoding.of_opcode rfl (by decide) (by decide)
theorem Encoding.mov (f : Form) : Encoding.Statement (.mov f) := Encoding.of_opcode rfl (by decide) (by decide)
theorem Encoding.movi (f : Form) : Encoding.Statement (.movi f) := Encoding.of_opcode rfl (by decide) (by decide)
theorem Encoding.lea (f : Form) : Encoding.Statement (.lea f) := Encoding.of_opcode rfl (by decide) (by decide)
theorem Encoding.bshuf (f : Form) : Encoding.Statement (.bshuf f) := Encoding.of_opcode rfl (by decide) (by decide)
theorem Encoding.dot4 (f : Form) : Encoding.Statement (.dot4 f) := Encoding.of_opcode rfl (by decide) (by decide)
theorem Encoding.sad (f : Form) : Encoding.Statement (.sad f) := Encoding.of_opcode rfl (by decide) (by decide)
theorem Encoding.idiv (f : Form) : Encoding.Statement (.idiv f) := Encoding.of_opcode rfl (by decide) (by decide)
theorem Encoding.lxch (f : Form) : Encoding.Statement (.lxch f) := Encoding.of_opcode rfl (by decide) (by decide)
theorem Encoding.lanebc (f : Form) : Encoding.Statement (.lanebc f) := Encoding.of_opcode rfl (by decide) (by decide)
theorem Encoding.rds (f : Form) : Encoding.Statement (.rds f) := Encoding.of_opcode rfl (by decide) (by decide)
theorem Encoding.iota (f : Form) : Encoding.Statement (.iota f) := Encoding.of_opcode rfl (by decide) (by decide)
theorem Encoding.fadd (f : Form) : Encoding.Statement (.fadd f) := Encoding.of_opcode rfl (by decide) (by decide)
theorem Encoding.fsub (f : Form) : Encoding.Statement (.fsub f) := Encoding.of_opcode rfl (by decide) (by decide)
theorem Encoding.fmul (f : Form) : Encoding.Statement (.fmul f) := Encoding.of_opcode rfl (by decide) (by decide)
theorem Encoding.ffma (f : Form) : Encoding.Statement (.ffma f) := Encoding.of_opcode rfl (by decide) (by decide)
theorem Encoding.fmin (f : Form) : Encoding.Statement (.fmin f) := Encoding.of_opcode rfl (by decide) (by decide)
theorem Encoding.fmax (f : Form) : Encoding.Statement (.fmax f) := Encoding.of_opcode rfl (by decide) (by decide)
theorem Encoding.fcmp (f : Form) : Encoding.Statement (.fcmp f) := Encoding.of_opcode rfl (by decide) (by decide)
theorem Encoding.fclass (f : Form) : Encoding.Statement (.fclass f) := Encoding.of_opcode rfl (by decide) (by decide)
theorem Encoding.frcp (f : Form) : Encoding.Statement (.frcp f) := Encoding.of_opcode rfl (by decide) (by decide)
theorem Encoding.frsq (f : Form) : Encoding.Statement (.frsq f) := Encoding.of_opcode rfl (by decide) (by decide)
theorem Encoding.fsqrt (f : Form) : Encoding.Statement (.fsqrt f) := Encoding.of_opcode rfl (by decide) (by decide)
theorem Encoding.fexp2 (f : Form) : Encoding.Statement (.fexp2 f) := Encoding.of_opcode rfl (by decide) (by decide)
theorem Encoding.flog2 (f : Form) : Encoding.Statement (.flog2 f) := Encoding.of_opcode rfl (by decide) (by decide)
theorem Encoding.fsin (f : Form) : Encoding.Statement (.fsin f) := Encoding.of_opcode rfl (by decide) (by decide)
theorem Encoding.fcos (f : Form) : Encoding.Statement (.fcos f) := Encoding.of_opcode rfl (by decide) (by decide)
theorem Encoding.ftanh (f : Form) : Encoding.Statement (.ftanh f) := Encoding.of_opcode rfl (by decide) (by decide)
theorem Encoding.pkadd (f : Form) : Encoding.Statement (.pkadd f) := Encoding.of_opcode rfl (by decide) (by decide)
theorem Encoding.pkmul (f : Form) : Encoding.Statement (.pkmul f) := Encoding.of_opcode rfl (by decide) (by decide)
theorem Encoding.pkfma (f : Form) : Encoding.Statement (.pkfma f) := Encoding.of_opcode rfl (by decide) (by decide)
theorem Encoding.bfma2 (f : Form) : Encoding.Statement (.bfma2 f) := Encoding.of_opcode rfl (by decide) (by decide)
theorem Encoding.dadd (f : Form) : Encoding.Statement (.dadd f) := Encoding.of_opcode rfl (by decide) (by decide)
theorem Encoding.dmul (f : Form) : Encoding.Statement (.dmul f) := Encoding.of_opcode rfl (by decide) (by decide)
theorem Encoding.dfma (f : Form) : Encoding.Statement (.dfma f) := Encoding.of_opcode rfl (by decide) (by decide)
theorem Encoding.cvt (f : Form) : Encoding.Statement (.cvt f) := Encoding.of_opcode rfl (by decide) (by decide)
theorem Encoding.qcvt (f : Form) : Encoding.Statement (.qcvt f) := Encoding.of_opcode rfl (by decide) (by decide)
theorem Encoding.dqcvt (f : Form) : Encoding.Statement (.dqcvt f) := Encoding.of_opcode rfl (by decide) (by decide)
theorem Encoding.amaxr (f : Form) : Encoding.Statement (.amaxr f) := Encoding.of_opcode rfl (by decide) (by decide)
theorem Encoding.qscale (f : Form) : Encoding.Statement (.qscale f) := Encoding.of_opcode rfl (by decide) (by decide)
theorem Encoding.fsetmode (f : Form) : Encoding.Statement (.fsetmode f) := Encoding.of_opcode rfl (by decide) (by decide)
theorem Encoding.fflags (f : Form) : Encoding.Statement (.fflags f) := Encoding.of_opcode rfl (by decide) (by decide)
theorem Encoding.mma (f : Form) : Encoding.Statement (.mma f) := Encoding.of_opcode rfl (by decide) (by decide)
theorem Encoding.mmaq (f : Form) : Encoding.Statement (.mmaq f) := Encoding.of_opcode rfl (by decide) (by decide)
theorem Encoding.scld (f : Form) : Encoding.Statement (.scld f) := Encoding.of_opcode rfl (by decide) (by decide)
theorem Encoding.scrd (f : Form) : Encoding.Statement (.scrd f) := Encoding.of_opcode rfl (by decide) (by decide)
theorem Encoding.fragx (f : Form) : Encoding.Statement (.fragx f) := Encoding.of_opcode rfl (by decide) (by decide)
theorem Encoding.acccvt (f : Form) : Encoding.Statement (.acccvt f) := Encoding.of_opcode rfl (by decide) (by decide)
theorem Encoding.ld (f : Form) : Encoding.Statement (.ld f) := Encoding.of_opcode rfl (by decide) (by decide)
theorem Encoding.ldk (f : Form) : Encoding.Statement (.ldk f) := Encoding.of_opcode rfl (by decide) (by decide)
theorem Encoding.st (f : Form) : Encoding.Statement (.st f) := Encoding.of_opcode rfl (by decide) (by decide)
theorem Encoding.atom (f : Form) : Encoding.Statement (.atom f) := Encoding.of_opcode rfl (by decide) (by decide)
theorem Encoding.red (f : Form) : Encoding.Statement (.red f) := Encoding.of_opcode rfl (by decide) (by decide)
theorem Encoding.fence (f : Form) : Encoding.Statement (.fence f) := Encoding.of_opcode rfl (by decide) (by decide)
theorem Encoding.bridge (f : Form) : Encoding.Statement (.bridge f) := Encoding.of_opcode rfl (by decide) (by decide)
theorem Encoding.cctlIvi (f : Form) : Encoding.Statement (.cctlIvi f) := Encoding.of_opcode rfl (by decide) (by decide)
theorem Encoding.cctlWb (f : Form) : Encoding.Statement (.cctlWb f) := Encoding.of_opcode rfl (by decide) (by decide)
theorem Encoding.cctlInv (f : Form) : Encoding.Statement (.cctlInv f) := Encoding.of_opcode rfl (by decide) (by decide)
theorem Encoding.cctlPf (f : Form) : Encoding.Statement (.cctlPf f) := Encoding.of_opcode rfl (by decide) (by decide)
theorem Encoding.cctlPfs (f : Form) : Encoding.Statement (.cctlPfs f) := Encoding.of_opcode rfl (by decide) (by decide)
theorem Encoding.smapMap (f : Form) : Encoding.Statement (.smapMap f) := Encoding.of_opcode rfl (by decide) (by decide)
theorem Encoding.smapUnmap (f : Form) : Encoding.Statement (.smapUnmap f) := Encoding.of_opcode rfl (by decide) (by decide)
theorem Encoding.swb (f : Form) : Encoding.Statement (.swb f) := Encoding.of_opcode rfl (by decide) (by decide)
theorem Encoding.sdrop (f : Form) : Encoding.Statement (.sdrop f) := Encoding.of_opcode rfl (by decide) (by decide)
theorem Encoding.tcopy (f : Form) : Encoding.Statement (.tcopy f) := Encoding.of_opcode rfl (by decide) (by decide)
theorem Encoding.tdesc (f : Form) : Encoding.Statement (.tdesc f) := Encoding.of_opcode rfl (by decide) (by decide)
theorem Encoding.gather (f : Form) : Encoding.Statement (.gather f) := Encoding.of_opcode rfl (by decide) (by decide)
theorem Encoding.scatter (f : Form) : Encoding.Statement (.scatter f) := Encoding.of_opcode rfl (by decide) (by decide)
theorem Encoding.rcopy (f : Form) : Encoding.Statement (.rcopy f) := Encoding.of_opcode rfl (by decide) (by decide)
theorem Encoding.coll (f : Form) : Encoding.Statement (.coll f) := Encoding.of_opcode rfl (by decide) (by decide)
theorem Encoding.waitc (f : Form) : Encoding.Statement (.waitc f) := Encoding.of_opcode rfl (by decide) (by decide)
theorem Encoding.push (f : Form) : Encoding.Statement (.push f) := Encoding.of_opcode rfl (by decide) (by decide)
theorem Encoding.pop (f : Form) : Encoding.Statement (.pop f) := Encoding.of_opcode rfl (by decide) (by decide)
theorem Encoding.ringinit (f : Form) : Encoding.Statement (.ringinit f) := Encoding.of_opcode rfl (by decide) (by decide)
theorem Encoding.binit (f : Form) : Encoding.Statement (.binit f) := Encoding.of_opcode rfl (by decide) (by decide)
theorem Encoding.barrive (f : Form) : Encoding.Statement (.barrive f) := Encoding.of_opcode rfl (by decide) (by decide)
theorem Encoding.barriveb (f : Form) : Encoding.Statement (.barriveb f) := Encoding.of_opcode rfl (by decide) (by decide)
theorem Encoding.bwait (f : Form) : Encoding.Statement (.bwait f) := Encoding.of_opcode rfl (by decide) (by decide)
theorem Encoding.btest (f : Form) : Encoding.Statement (.btest f) := Encoding.of_opcode rfl (by decide) (by decide)
theorem Encoding.binval (f : Form) : Encoding.Statement (.binval f) := Encoding.of_opcode rfl (by decide) (by decide)
theorem Encoding.rett (f : Form) : Encoding.Statement (.rett f) := Encoding.of_opcode rfl (by decide) (by decide)
theorem Encoding.rdside (f : Form) : Encoding.Statement (.rdside f) := Encoding.of_opcode rfl (by decide) (by decide)
theorem Encoding.wrctx (f : Form) : Encoding.Statement (.wrctx f) := Encoding.of_opcode rfl (by decide) (by decide)
theorem Encoding.dgread (f : Form) : Encoding.Statement (.dgread f) := Encoding.of_opcode rfl (by decide) (by decide)
theorem Encoding.haltself (f : Form) : Encoding.Statement (.haltself f) := Encoding.of_opcode rfl (by decide) (by decide)
theorem Encoding.issueGroupBuild (core slot : Nat) : Encoding.Statement (.issueGroupBuild core slot) := Encoding.of_event rfl
theorem Encoding.subsetRetirement (team wave op : Nat) : Encoding.Statement (.subsetRetirement team wave op) := Encoding.of_event rfl
theorem Encoding.sleepExpiry (team wave : Nat) : Encoding.Statement (.sleepExpiry team wave) := Encoding.of_event rfl
theorem Encoding.swapTrigger (core : Nat) : Encoding.Statement (.swapTrigger core) := Encoding.of_event rfl
theorem Encoding.swap (core : Nat) : Encoding.Statement (.swap core) := Encoding.of_event rfl
theorem Encoding.loadDataArrival (team wave op : Nat) : Encoding.Statement (.loadDataArrival team wave op) := Encoding.of_event rfl
theorem Encoding.remoteReplyArrival (team wave op : Nat) : Encoding.Statement (.remoteReplyArrival team wave op) := Encoding.of_event rfl
theorem Encoding.storeAck (team wave op : Nat) : Encoding.Statement (.storeAck team wave op) := Encoding.of_event rfl
theorem Encoding.storeQueueRelease (core : Nat) (dom : Dom) : Encoding.Statement (.storeQueueRelease core dom) := Encoding.of_event rfl
theorem Encoding.atomicReply (team wave op : Nat) : Encoding.Statement (.atomicReply team wave op) := Encoding.of_event rfl
theorem Encoding.ringAck (team wave op : Nat) : Encoding.Statement (.ringAck team wave op) := Encoding.of_event rfl
theorem Encoding.barrierReply (team wave op : Nat) : Encoding.Statement (.barrierReply team wave op) := Encoding.of_event rfl
theorem Encoding.mmaComplete (team wave op : Nat) : Encoding.Statement (.mmaComplete team wave op) := Encoding.of_event rfl
theorem Encoding.fenceComplete (team wave op : Nat) : Encoding.Statement (.fenceComplete team wave op) := Encoding.of_event rfl
theorem Encoding.slicePerform (slice : Nat) : Encoding.Statement (.slicePerform slice) := Encoding.of_event rfl
theorem Encoding.invalidationArrival (core : Nat) : Encoding.Statement (.invalidationArrival core) := Encoding.of_event rfl
theorem Encoding.writePropagated (slice wid : Nat) : Encoding.Statement (.writePropagated slice wid) := Encoding.of_event rfl
theorem Encoding.extSnoop (link : Nat) : Encoding.Statement (.extSnoop link) := Encoding.of_event rfl
theorem Encoding.snoopFilterEvict (link line : Nat) : Encoding.Statement (.snoopFilterEvict link line) := Encoding.of_event rfl
theorem Encoding.l1Eviction (core line sector : Nat) : Encoding.Statement (.l1Eviction core line sector) := Encoding.of_event rfl
theorem Encoding.stashRecall (team line : Nat) (write : Bool) : Encoding.Statement (.stashRecall team line write) := Encoding.of_event rfl
theorem Encoding.engineAccess (core cmd : Nat) : Encoding.Statement (.engineAccess core cmd) := Encoding.of_event rfl
theorem Encoding.tdescComplete (core cmd : Nat) : Encoding.Statement (.tdescComplete core cmd) := Encoding.of_event rfl
theorem Encoding.copyComplete (core cmd : Nat) : Encoding.Statement (.copyComplete core cmd) := Encoding.of_event rfl
theorem Encoding.ringReserve (core cmd : Nat) : Encoding.Statement (.ringReserve core cmd) := Encoding.of_event rfl
theorem Encoding.ringFill (core cmd : Nat) : Encoding.Statement (.ringFill core cmd) := Encoding.of_event rfl
theorem Encoding.wakeArrival (core : Nat) : Encoding.Statement (.wakeArrival core) := Encoding.of_event rfl
theorem Encoding.registrationRetry (team wave : Nat) : Encoding.Statement (.registrationRetry team wave) := Encoding.of_event rfl
theorem Encoding.deadlineBoost (slice : Nat) : Encoding.Statement (.deadlineBoost slice) := Encoding.of_event rfl
theorem Encoding.neighbourEntryArrival (core dir : Nat) : Encoding.Statement (.neighbourEntryArrival core dir) := Encoding.of_event rfl
theorem Encoding.queuePost (queue : Nat) : Encoding.Statement (.queuePost queue) := Encoding.of_event rfl
theorem Encoding.frameSend (port : Nat) : Encoding.Statement (.frameSend port) := Encoding.of_event rfl
theorem Encoding.frameReceive (port : Nat) (frame : Frame) : Encoding.Statement (.frameReceive port frame) := Encoding.of_event rfl
theorem Encoding.controlBlockReread (queue : Nat) : Encoding.Statement (.controlBlockReread queue) := Encoding.of_event rfl
theorem Encoding.qcmdEnable (queue : Nat) : Encoding.Statement (.qcmdEnable queue) := Encoding.of_event rfl
theorem Encoding.qcmdDisable (queue : Nat) : Encoding.Statement (.qcmdDisable queue) := Encoding.of_event rfl
theorem Encoding.packetConsume (queue : Nat) : Encoding.Statement (.packetConsume queue) := Encoding.of_event rfl
theorem Encoding.dependenceSatisfied (launch : Nat) : Encoding.Statement (.dependenceSatisfied launch) := Encoding.of_event rfl
theorem Encoding.teamPlace (launch : Nat) : Encoding.Statement (.teamPlace launch) := Encoding.of_event rfl
theorem Encoding.coResidentAdmit (launch : Nat) : Encoding.Statement (.coResidentAdmit launch) := Encoding.of_event rfl
theorem Encoding.childLaunch (launch : Nat) : Encoding.Statement (.childLaunch launch) := Encoding.of_event rfl
theorem Encoding.teamRetire (team : Nat) : Encoding.Statement (.teamRetire team) := Encoding.of_event rfl
theorem Encoding.gridRetire (launch : Nat) : Encoding.Statement (.gridRetire launch) := Encoding.of_event rfl
theorem Encoding.serialisedExecution (launch : Nat) : Encoding.Statement (.serialisedExecution launch) := Encoding.of_event rfl
theorem Encoding.preemptSave (team : Nat) : Encoding.Statement (.preemptSave team) := Encoding.of_event rfl
theorem Encoding.wakeEvaluate (team : Nat) : Encoding.Statement (.wakeEvaluate team) := Encoding.of_event rfl
theorem Encoding.teamRestore (team core : Nat) : Encoding.Statement (.teamRestore team core) := Encoding.of_event rfl
theorem Encoding.faultPark (part : Nat) : Encoding.Statement (.faultPark part) := Encoding.of_event rfl
theorem Encoding.fqtake (part : Nat) (seq : W32) : Encoding.Statement (.fqtake part seq) := Encoding.of_event rfl
theorem Encoding.fqresolve (part : Nat) (seq : W32) : Encoding.Statement (.fqresolve part seq) := Encoding.of_event rfl
theorem Encoding.fqresolveFail (part : Nat) (seq : W32) : Encoding.Statement (.fqresolveFail part seq) := Encoding.of_event rfl
theorem Encoding.watchdog (part : Nat) (seq : W32) : Encoding.Statement (.watchdog part seq) := Encoding.of_event rfl
theorem Encoding.halt (part : Nat) : Encoding.Statement (.halt part) := Encoding.of_event rfl
theorem Encoding.uncorrectable (part source : Nat) (addr : W64) : Encoding.Statement (.uncorrectable part source addr) := Encoding.of_event rfl
theorem Encoding.dieFailure (socket : Nat) : Encoding.Statement (.dieFailure socket) := Encoding.of_event rfl
theorem Encoding.crossDieTimeout (core target : Nat) : Encoding.Statement (.crossDieTimeout core target) := Encoding.of_event rfl
theorem Encoding.crossLinkTimeout (part link : Nat) : Encoding.Statement (.crossLinkTimeout part link) := Encoding.of_event rfl
theorem Encoding.slotSend (slice : Nat) : Encoding.Statement (.slotSend slice) := Encoding.of_event rfl
theorem Encoding.slotReceive (slice : Nat) (good : Bool) : Encoding.Statement (.slotReceive slice good) := Encoding.of_event rfl
theorem Encoding.slotResend (slice station : Nat) : Encoding.Statement (.slotResend slice station) := Encoding.of_event rfl
theorem Encoding.routerForward (router out : Nat) : Encoding.Statement (.routerForward router out) := Encoding.of_event rfl
theorem Encoding.sliceAdmission (slice : Nat) : Encoding.Statement (.sliceAdmission slice) := Encoding.of_event rfl
theorem Encoding.socketAdmission (socket : Nat) : Encoding.Statement (.socketAdmission socket) := Encoding.of_event rfl
theorem Encoding.flitSend (link : Nat) : Encoding.Statement (.flitSend link) := Encoding.of_event rfl
theorem Encoding.flitReceive (link : Nat) (flit : Flit) : Encoding.Statement (.flitReceive link flit) := Encoding.of_event rfl
theorem Encoding.nakRepeat (link : Nat) : Encoding.Statement (.nakRepeat link) := Encoding.of_event rfl
theorem Encoding.ackTimeout (link : Nat) : Encoding.Statement (.ackTimeout link) := Encoding.of_event rfl
theorem Encoding.controlFlitSend (link : Nat) : Encoding.Statement (.controlFlitSend link) := Encoding.of_event rfl
theorem Encoding.controlFlitReceive (link : Nat) (flit : CtlFlit) : Encoding.Statement (.controlFlitReceive link flit) := Encoding.of_event rfl
theorem Encoding.lossOfLight (link : Nat) (lost : BitVec 16) (laser : Option Nat) : Encoding.Statement (.lossOfLight link lost laser) := Encoding.of_event rfl
theorem Encoding.restripe (link : Nat) (rx tx : BitVec 16) : Encoding.Statement (.restripe link rx tx) := Encoding.of_event rfl
theorem Encoding.linkEventRecord (link : Nat) : Encoding.Statement (.linkEventRecord link) := Encoding.of_event rfl
theorem Encoding.linkLost (link : Nat) : Encoding.Statement (.linkLost link) := Encoding.of_event rfl
theorem Encoding.retrainEnd (link : Nat) (rx tx : BitVec 16) : Encoding.Statement (.retrainEnd link rx tx) := Encoding.of_event rfl
theorem Encoding.protectionEnter (unit : Nat) (overcurrent : Bool) : Encoding.Statement (.protectionEnter unit overcurrent) := Encoding.of_event rfl
theorem Encoding.protectionRelease (unit : Nat) : Encoding.Statement (.protectionRelease unit) := Encoding.of_event rfl
theorem Encoding.resetComplete (socket : Nat) : Encoding.Statement (.resetComplete socket) := Encoding.of_event rfl
theorem Encoding.rdmaWrite (qp : Nat) (pa : Nat) (data : List Byte) : Encoding.Statement (.rdmaWrite qp pa data) := Encoding.of_event rfl
theorem Encoding.rdmaRead (qp : Nat) (pa : Nat) (len : Nat) : Encoding.Statement (.rdmaRead qp pa len) := Encoding.of_event rfl
theorem Encoding.remoteOperationError (qp : Nat) : Encoding.Statement (.remoteOperationError qp) := Encoding.of_event rfl
theorem Encoding.registerWrite (off : Nat) (val : W64) : Encoding.Statement (.registerWrite off val) := Encoding.of_event rfl
theorem Encoding.errClear : Encoding.Statement .errClear := Encoding.of_event rfl
theorem Encoding.freeze (on : Bool) : Encoding.Statement (.freeze on) := Encoding.of_event rfl
theorem Encoding.counterClear (core : Nat) : Encoding.Statement (.counterClear core) := Encoding.of_event rfl
theorem Encoding.ctxdescCreate (ctx : Nat) (val : W64) : Encoding.Statement (.ctxdescCreate ctx val) := Encoding.of_event rfl
theorem Encoding.reload (ctx : Nat) : Encoding.Statement (.reload ctx) := Encoding.of_event rfl
theorem Encoding.kill (ctx : Nat) : Encoding.Statement (.kill ctx) := Encoding.of_event rfl
theorem Encoding.preq (ctx : Nat) (on : Bool) : Encoding.Statement (.preq ctx on) := Encoding.of_event rfl
theorem Encoding.dbgbrk (ctx : Nat) (on : Bool) : Encoding.Statement (.dbgbrk ctx on) := Encoding.of_event rfl
theorem Encoding.scbchk (ctx : Nat) (on : Bool) : Encoding.Statement (.scbchk ctx on) := Encoding.of_event rfl
theorem Encoding.qcbWrite (queue : Nat) (val : W64) : Encoding.Statement (.qcbWrite queue val) := Encoding.of_event rfl
theorem Encoding.qctxWrite (queue : Nat) (val : W64) : Encoding.Statement (.qctxWrite queue val) := Encoding.of_event rfl
theorem Encoding.queueOwnerWrite (queue : Nat) (val : Byte) : Encoding.Statement (.queueOwnerWrite queue val) := Encoding.of_event rfl
theorem Encoding.granuleOwnerWrite (granule : Nat) (val : Byte) : Encoding.Statement (.granuleOwnerWrite granule val) := Encoding.of_event rfl
theorem Encoding.pcmdCreate (part : Nat) : Encoding.Statement (.pcmdCreate part) := Encoding.of_event rfl
theorem Encoding.pcmdClear (part : Nat) : Encoding.Statement (.pcmdClear part) := Encoding.of_event rfl
theorem Encoding.digsvcReexecute (part : Nat) (ident : Nat) : Encoding.Statement (.digsvcReexecute part ident) := Encoding.of_event rfl
theorem Encoding.digsvcFault (part : Nat) (ident : Nat) : Encoding.Statement (.digsvcFault part ident) := Encoding.of_event rfl
theorem Encoding.qgrant (part queue : Nat) : Encoding.Statement (.qgrant part queue) := Encoding.of_event rfl
theorem Encoding.dbghalt (part : Nat) (sockets : BitVec 24) : Encoding.Statement (.dbghalt part sockets) := Encoding.of_event rfl
theorem Encoding.debugSave (part : Nat) : Encoding.Statement (.debugSave part) := Encoding.of_event rfl
theorem Encoding.debugResume (part : Nat) : Encoding.Statement (.debugResume part) := Encoding.of_event rfl
theorem Encoding.linksvcWait (part link : Nat) : Encoding.Statement (.linksvcWait part link) := Encoding.of_event rfl
theorem Encoding.linksvcLinklost (part link : Nat) : Encoding.Statement (.linksvcLinklost part link) := Encoding.of_event rfl
theorem Encoding.keycmdLoad (index : Nat) : Encoding.Statement (.keycmdLoad index) := Encoding.of_event rfl
theorem Encoding.keycmdUnload (index : Nat) : Encoding.Statement (.keycmdUnload index) := Encoding.of_event rfl
theorem Encoding.powerCommand (unit : Nat) (target : Nat) : Encoding.Statement (.powerCommand unit target) := Encoding.of_event rfl
theorem Encoding.spopReset (unit : Nat) : Encoding.Statement (.spopReset unit) := Encoding.of_event rfl
theorem Encoding.spopFence (unit : Nat) : Encoding.Statement (.spopFence unit) := Encoding.of_event rfl
theorem Encoding.spopReturn (unit : Nat) : Encoding.Statement (.spopReturn unit) := Encoding.of_event rfl
theorem Encoding.restore (link : Nat) (waves rx tx : BitVec 16) : Encoding.Statement (.restore link waves rx tx) := Encoding.of_event rfl
theorem Encoding.boot (verified : Bool) : Encoding.Statement (.boot verified) := Encoding.of_event rfl
theorem Encoding.getVersion (request : List Byte) : Encoding.Statement (.getVersion request) := Encoding.of_event rfl
theorem Encoding.getCapabilities (request : List Byte) : Encoding.Statement (.getCapabilities request) := Encoding.of_event rfl
theorem Encoding.negotiateAlgorithms (request : List Byte) : Encoding.Statement (.negotiateAlgorithms request) := Encoding.of_event rfl
theorem Encoding.getDigests (request : List Byte) : Encoding.Statement (.getDigests request) := Encoding.of_event rfl
theorem Encoding.getCertificate (request : List Byte) : Encoding.Statement (.getCertificate request) := Encoding.of_event rfl
theorem Encoding.challenge (request : List Byte) : Encoding.Statement (.challenge request) := Encoding.of_event rfl
theorem Encoding.getMeasurements (request : List Byte) : Encoding.Statement (.getMeasurements request) := Encoding.of_event rfl
theorem Encoding.translationInvalidation (ctx lo hi : Nat) : Encoding.Statement (.translationInvalidation ctx lo hi) := Encoding.of_event rfl

end Sys2Proof.Laws
end

