-- ==== Sys2Proof/Tests/Slice0.lean ====
section
/-! SUPPORT. Tests: a word of every instruction written out from the encoding of chapter 5 and its opcode chapter, an ill-formed
term for each check, single steps with results from the rules, and for every statement a state that meets its hypotheses. -/

namespace Sys2Proof.Tests

open Sys2Proof.Machine

set_option Elab.async false

/-! ## Words (R95, R97-R102, R117 and the operand tables of chapters 7 to 18)

A word is MOD, SRCC, SRCB, SRCA, the destination's class and index, OPCODE, LONG, GSENSE and GUARD (15: no guard), and STALL 1;
a channel has bit 9 of its field set, an ordering field holds HINT, ORDER, SCOPE and DOMAIN. -/

/-- Each word decodes to its instruction, which is well-formed and encodes to the word. -/
def agree (l : List (W64 × W64 × Instr)) : Bool :=
  l.all fun x => (match decode x.1 x.2.1 with | .ok i => decide (i = x.2.2) | .error _ => false) &&
    decide (encode x.2.2 = some (x.1, x.2.1)) && x.2.2.wellFormed

def controlWords : List (W64 × W64 × Instr) := [
  (0x00000000000000F1, 0x0, .nop ⟨1, none, 0, .none, .none, .none, .none, none⟩),
  (0x00000000000006F1, 0x40, .bra ⟨1, none, 0, .none, .none, .none, .none, some 0x40⟩),
  (0x00000000800008F1, 0x0, .brx ⟨1, none, 0, .none, .p 4, .none, .none, none⟩),
  (0x0000000000A00EF1, 0xFFFFFFFFFFFFFFF8, .call ⟨1, none, 0, .p 10, .none, .none, .none, some 0xFFFFFFFFFFFFFFF8⟩),
  (0x0000000080A010F1, 0x0, .callx ⟨1, none, 0, .p 10, .p 4, .none, .none, none⟩),
  (0x00000000800014F1, 0x0, .ret ⟨1, none, 0, .none, .p 4, .none, .none, none⟩),
  (0x00000000000018F1, 0x0, .exit ⟨1, none, 0, .none, .none, .none, .none, none⟩),
  (0x08000000002020F1, 0x0, .jenrol ⟨1, none, 1, .j 2, .none, .none, .none, none⟩),
  (0x00000000600024F1, 0x0, .jwait ⟨1, none, 0, .none, .j 3, .none, .none, none⟩),
  (0x00000000000028F1, 0x0, .yield ⟨1, none, 0, .none, .none, .none, .none, none⟩),
  (0x0000028000002CF1, 0x0, .sleep ⟨1, none, 0, .none, .none, .v 5, .none, none⟩),
  (0xB8000600803040F1, 0x0, .pcmp ⟨1, none, 23, .k 3, .p 4, .p 12, .none, none⟩),
  (0x30000180401044F1, 0x0, .plog ⟨1, none, 6, .k 1, .k 2, .k 3, .none, none⟩),
  (0x10000000804048F1, 0x0, .pmov ⟨1, none, 2, .k 4, .v 4, .none, .none, none⟩),
  (0x10000000C0504CF1, 0x0, .pvote ⟨1, none, 2, .k 5, .k 6, .none, .none, none⟩),
  (0x00000001609050F1, 0x0, .ballot ⟨1, none, 0, .v 9, .k 11, .none, .none, none⟩),
  (0x00000000809080F1, 0x0, .glaunch ⟨1, none, 0, .v 9, .p 4, .none, .none, none⟩),
  (0x08000000009086F1, 0x5, .gjoin ⟨1, none, 1, .v 9, .none, .none, .none, some 0x5⟩),
  (0x000000000000C2F1, 0x2A, .trap ⟨1, none, 0, .none, .none, .none, .none, some 0x2A⟩),
  (0x000002800000C4F1, 0x0, .brk ⟨1, none, 0, .none, .none, .v 5, .none, none⟩)]

def integerWords : List (W64 × W64 × Instr) := [
  (0x3800060080A200F1, 0x0, .iadd ⟨1, none, 7, .p 10, .p 4, .p 12, .none, none⟩),
  (0x00000280809204F1, 0x0, .isub ⟨1, none, 0, .v 9, .v 4, .v 5, .none, none⟩),
  (0x28080280809208F1, 0x0, .iaddc ⟨1, none, 5, .v 9, .v 4, .v 5, .k 4, none⟩),
  (0x0800000080920EF1, 0xFFFFFFFB, .imul ⟨1, none, 1, .v 9, .v 4, .none, .none, some 0xFFFFFFFB⟩),
  (0x1000060080A210F1, 0x0, .imulh ⟨1, none, 2, .p 10, .p 4, .p 12, .none, none⟩),
  (0x181C060080A214F1, 0x0, .imad ⟨1, none, 3, .p 10, .p 4, .p 12, .p 14, none⟩),
  (0x00000280809218F1, 0x0, .imin ⟨1, none, 0, .v 9, .v 4, .v 5, .none, none⟩),
  (0x0800028080921CF1, 0x0, .imax ⟨1, none, 1, .v 9, .v 4, .v 5, .none, none⟩),
  (0x3000000080A220F1, 0x0, .iabs ⟨1, none, 6, .p 10, .p 4, .none, .none, none⟩),
  (0x000C0280809226F1, 0x96, .blut ⟨1, none, 0, .v 9, .v 4, .v 5, .v 6, some 0x96⟩),
  (0x1800028080A240F1, 0x0, .shl ⟨1, none, 3, .p 10, .p 4, .v 5, .none, none⟩),
  (0x08000280809244F1, 0x0, .shr ⟨1, none, 1, .v 9, .v 4, .v 5, .none, none⟩),
  (0x00000280809248F1, 0x0, .shra ⟨1, none, 0, .v 9, .v 4, .v 5, .none, none⟩),
  (0x0800000080924EF1, 0x7, .rot ⟨1, none, 1, .v 9, .v 4, .none, .none, some 0x7⟩),
  (0x280C0280809250F1, 0x0, .shd ⟨1, none, 5, .v 9, .v 4, .v 5, .v 6, none⟩),
  (0x08000000809260F1, 0x0, .popc ⟨1, none, 1, .v 9, .v 4, .none, .none, none⟩),
  (0x18000000809264F1, 0x0, .clz ⟨1, none, 3, .v 9, .p 4, .none, .none, none⟩),
  (0x1800000080A268F1, 0x0, .brev ⟨1, none, 3, .p 10, .p 4, .none, .none, none⟩),
  (0x0800000080926EF1, 0x804, .bfe ⟨1, none, 1, .v 9, .v 4, .none, .none, some 0x804⟩),
  (0x000C0280809270F1, 0x0, .bfi ⟨1, none, 0, .v 9, .v 4, .v 5, .v 6, none⟩),
  (0x100E060080A280F1, 0x0, .isel ⟨1, none, 2, .p 10, .p 4, .p 12, .k 7, none⟩),
  (0x48000280809284F1, 0x0, .icmp ⟨1, none, 9, .v 9, .v 4, .v 5, .none, none⟩),
  (0x1000000080A2A0F1, 0x0, .mov ⟨1, none, 2, .p 10, .p 4, .none, .none, none⟩),
  (0x5000000000A2A6F1, 0x3FF0000000000000, .movi ⟨1, none, 10, .p 10, .none, .none, .none, some 0x3FF0000000000000⟩),
  (0x8800028080A2A8F1, 0x0, .lea ⟨1, none, 17, .p 10, .p 4, .v 5, .none, none⟩),
  (0x000C02808092ACF1, 0x0, .bshuf ⟨1, none, 0, .v 9, .v 4, .v 5, .v 6, none⟩),
  (0x300C02808092C0F1, 0x0, .dot4 ⟨1, none, 6, .v 9, .v 4, .v 5, .v 6, none⟩),
  (0x080C02808092C4F1, 0x0, .sad ⟨1, none, 1, .v 9, .v 4, .v 5, .v 6, none⟩),
  (0x680002808092C8F1, 0x0, .idiv ⟨1, none, 13, .v 9, .v 4, .v 5, .none, none⟩),
  (0x38040280809300F1, 0x0, .lxch ⟨1, none, 7, .v 9, .v 4, .v 5, .k 2, none⟩),
  (0x28040000809304F1, 0x0, .lanebc ⟨1, none, 5, .v 9, .v 4, .none, .k 2, none⟩),
  (0xA000000000A340F1, 0x0, .rds ⟨1, none, 20, .p 10, .none, .none, .none, none⟩),
  (0x10000000809344F1, 0x0, .iota ⟨1, none, 2, .v 9, .v 4, .none, .none, none⟩)]

def floatWords : List (W64 × W64 × Instr) := [
  (0x48000280809600F1, 0x0, .fadd ⟨1, none, 9, .v 9, .v 4, .v 5, .none, none⟩),
  (0x48000280809604F1, 0x0, .fsub ⟨1, none, 9, .v 9, .v 4, .v 5, .none, none⟩),
  (0x4800000080960AF1, 0x40000000, .fmul ⟨1, none, 9, .v 9, .v 4, .none, .none, some 0x40000000⟩),
  (0xC80C028080960CF1, 0x0, .ffma ⟨1, none, 25, .v 9, .v 4, .v 5, .v 6, none⟩),
  (0x48000280809610F1, 0x0, .fmin ⟨1, none, 9, .v 9, .v 4, .v 5, .none, none⟩),
  (0x48000280809614F1, 0x0, .fmax ⟨1, none, 9, .v 9, .v 4, .v 5, .none, none⟩),
  (0x68000600809618F1, 0x0, .fcmp ⟨1, none, 13, .v 9, .p 4, .p 12, .none, none⟩),
  (0x6000000080961CF1, 0x0, .fclass ⟨1, none, 12, .v 9, .p 4, .none, .none, none⟩),
  (0x48000000809640F1, 0x0, .frcp ⟨1, none, 9, .v 9, .v 4, .none, .none, none⟩),
  (0x48000000809644F1, 0x0, .frsq ⟨1, none, 9, .v 9, .v 4, .none, .none, none⟩),
  (0x48000000809648F1, 0x0, .fsqrt ⟨1, none, 9, .v 9, .v 4, .none, .none, none⟩),
  (0x4800000080964CF1, 0x0, .fexp2 ⟨1, none, 9, .v 9, .v 4, .none, .none, none⟩),
  (0x48000000809650F1, 0x0, .flog2 ⟨1, none, 9, .v 9, .v 4, .none, .none, none⟩),
  (0x48000000809654F1, 0x0, .fsin ⟨1, none, 9, .v 9, .v 4, .none, .none, none⟩),
  (0x48000000809658F1, 0x0, .fcos ⟨1, none, 9, .v 9, .v 4, .none, .none, none⟩),
  (0x4800000080965CF1, 0x0, .ftanh ⟨1, none, 9, .v 9, .v 4, .none, .none, none⟩),
  (0x50000280809680F1, 0x0, .pkadd ⟨1, none, 10, .v 9, .v 4, .v 5, .none, none⟩),
  (0x58000280809684F1, 0x0, .pkmul ⟨1, none, 11, .v 9, .v 4, .v 5, .none, none⟩),
  (0xD80C0280809688F1, 0x0, .pkfma ⟨1, none, 27, .v 9, .v 4, .v 5, .v 6, none⟩),
  (0x580C028080968CF1, 0x0, .bfma2 ⟨1, none, 11, .v 9, .v 4, .v 5, .v 6, none⟩),
  (0xE000060080A6C0F1, 0x0, .dadd ⟨1, none, 28, .p 10, .p 4, .p 12, .none, none⟩),
  (0x6000060080A6C4F1, 0x0, .dmul ⟨1, none, 12, .p 10, .p 4, .p 12, .none, none⟩),
  (0x601C060080A6C8F1, 0x0, .dfma ⟨1, none, 12, .p 10, .p 4, .p 12, .p 14, none⟩),
  (0x7000000080A700F1, 0x0, .cvt ⟨1, none, 14, .p 10, .v 4, .none, .none, none⟩),
  (0x000C0280809704F1, 0x0, .qcvt ⟨1, none, 0, .v 9, .v 4, .v 5, .v 6, none⟩),
  (0x100C0000809708F1, 0x0, .dqcvt ⟨1, none, 2, .v 9, .v 4, .none, .v 6, none⟩),
  (0x51400280809740F1, 0x0, .amaxr ⟨1, none, 10, .v 9, .p 4, .v 5, .ord .rc .pkg .rel 0, none⟩),
  (0x71900000809744F1, 0x0, .qscale ⟨1, none, 14, .v 9, .p 4, .none, .ord .rc .core .acqrel 0, none⟩),
  (0x00000000009782F1, 0xE0, .fsetmode ⟨1, none, 0, .v 9, .none, .none, .none, some 0xE0⟩),
  (0x00000280009784F1, 0x0, .fflags ⟨1, none, 0, .v 9, .none, .v 5, .none, none⟩)]

def matrixWords : List (W64 × W64 × Instr) := [
  (0xA0000800020A00F1, 0x0, .mma ⟨1, none, 20, .b8 32, .b8 0, .b2 16, .none, none⟩),
  (0x00500800020A06F1, 0x2C28200000, .mmaq ⟨1, none, 0, .b8 32, .b8 0, .b2 16, .b8 40, some 0x2C28200000⟩),
  (0x08C00000809A20F1, 0x0, .scld ⟨1, none, 1, .v 9, .p 4, .none, .ord .rc .pkg .acq 0, none⟩),
  (0x08000000009A24F1, 0x0, .scrd ⟨1, none, 1, .v 9, .none, .none, .none, none⟩),
  (0x00000281009A40F1, 0x0, .fragx ⟨1, none, 0, .v 9, .b8 8, .v 5, .none, none⟩),
  (0x480C0280809A44F1, 0x0, .acccvt ⟨1, none, 9, .v 9, .v 4, .v 5, .v 6, none⟩)]

def memoryWords : List (W64 × W64 × Instr) := [
  (0xA4180000808C02F1, 0xFFFFFFF8, .ld ⟨1, none, 20, .b4 8, .p 4, .none, .ord .blk .core .plain 2, some 0xFFFFFFF8⟩),
  (0x04000000809C04F1, 0x0, .ldk ⟨1, none, 0, .v 9, .p 4, .none, .ord .rc .team .plain 2, none⟩),
  (0x63400600800C20F1, 0x0, .st ⟨1, none, 12, .none, .p 4, .p 12, .ord .rc .pkg .rel 1, none⟩),
  (0x90420600409C40F1, 0x0, .atom ⟨1, none, 18, .v 9, .p 2, .p 12, .ord .sc .pkg .plain 0, none⟩),
  (0xA7400280800C44F1, 0x0, .red ⟨1, none, 20, .none, .p 4, .v 5, .ord .rc .pkg .rel 3, none⟩),
  (0x01C60000000C60F1, 0x0, .fence ⟨1, none, 0, .none, .none, .none, .ord .cau .pkg .acqrel 0, none⟩),
  (0x10520000000C64F1, 0x0, .bridge ⟨1, none, 2, .none, .none, .none, .ord .sc .sys .plain 0, none⟩),
  (0x00400000800C80F1, 0x0, .cctlIvi ⟨1, none, 0, .none, .p 4, .none, .ord .rc .pkg .plain 0, none⟩),
  (0x08000000800C80F1, 0x0, .cctlWb ⟨1, none, 1, .none, .p 4, .none, .ord .rc .team .plain 0, none⟩),
  (0x10000000800C80F1, 0x0, .cctlInv ⟨1, none, 2, .none, .p 4, .none, .ord .rc .team .plain 0, none⟩),
  (0x18000000800C80F1, 0x0, .cctlPf ⟨1, none, 3, .none, .p 4, .none, .ord .rc .team .plain 0, none⟩),
  (0x20000000800C80F1, 0x0, .cctlPfs ⟨1, none, 4, .none, .p 4, .none, .ord .rc .team .plain 0, none⟩),
  (0x00000600800CA0F1, 0x0, .smapMap ⟨1, none, 0, .none, .p 4, .p 12, .ord .rc .team .plain 0, none⟩),
  (0x08000000800CA0F1, 0x0, .smapUnmap ⟨1, none, 1, .none, .p 4, .none, .ord .rc .team .plain 0, none⟩),
  (0x08000000000CA4F1, 0x0, .swb ⟨1, none, 1, .none, .none, .none, .ord .rc .team .plain 0, none⟩),
  (0x00000000800CA8F1, 0x0, .sdrop ⟨1, none, 0, .none, .p 4, .none, .ord .rc .team .plain 0, none⟩)]

def engineWords : List (W64 × W64 × Instr) := [
  (0x00000000800E02F1, 0x4401, .tcopy ⟨1, none, 0, .none, .v 4, .none, .none, some 0x4401⟩),
  (0x00000000800E06F1, 0x100001, .tdesc ⟨1, none, 0, .none, .p 4, .none, .none, some 0x100001⟩),
  (0x10000600800E0AF1, 0xC001, .gather ⟨1, none, 2, .none, .p 4, .p 12, .none, some 0xC001⟩),
  (0x200C0600800E0EF1, 0x1000001, .scatter ⟨1, none, 4, .none, .p 4, .p 12, .p 6, some 0x1000001⟩),
  (0x00000600800E12F1, 0x8000000001, .rcopy ⟨1, none, 0, .none, .p 4, .p 12, .none, some 0x8000000001⟩),
  (0x38000600800E16F1, 0x4000000001, .coll ⟨1, none, 7, .none, .p 4, .p 12, .none, some 0x4000000001⟩),
  (0x18000280000E40F1, 0x0, .waitc ⟨1, none, 3, .none, .none, .v 5, .none, none⟩),
  (0x00000000907E60F1, 0x0, .push ⟨1, none, 0, .ch 7 false, .v 4, .none, .none, none⟩),
  (0x00000060809E64F1, 0x0, .pop ⟨1, none, 0, .v 9, .ch 4 true, .none, .none, none⟩),
  (0x00000000000E6AF1, 0x4003, .ringinit ⟨1, none, 0, .none, .none, .none, .none, some 0x4003⟩)]

def barrierWords : List (W64 × W64 × Instr) := [
  (0x00100400800F00F1, 0x0, .binit ⟨1, none, 0, .none, .p 4, .b4 8, .ord .rc .core .plain 0, none⟩),
  (0x18100280809F04F1, 0x0, .barrive ⟨1, none, 3, .v 9, .p 4, .v 5, .ord .rc .core .plain 0, none⟩),
  (0x08100280800F08F1, 0x0, .barriveb ⟨1, none, 1, .none, .p 4, .v 5, .ord .rc .core .plain 0, none⟩),
  (0x00100280800F0CF1, 0x0, .bwait ⟨1, none, 0, .none, .p 4, .v 5, .ord .rc .core .plain 0, none⟩),
  (0x08100000809F10F1, 0x0, .btest ⟨1, none, 1, .v 9, .p 4, .none, .ord .rc .core .plain 0, none⟩),
  (0x00100000800F14F1, 0x0, .binval ⟨1, none, 0, .none, .p 4, .none, .ord .rc .core .plain 0, none⟩)]

def systemWords : List (W64 × W64 × Instr) := [
  (0x00000000000F80F1, 0x0, .rett ⟨1, none, 0, .none, .none, .none, .none, none⟩),
  (0x00000000014F84F1, 0x0, .rdside ⟨1, none, 0, .v 20, .none, .none, .none, none⟩),
  (0x08000000000F8AF1, 0x8, .wrctx ⟨1, none, 1, .none, .none, .none, .none, some 0x8⟩),
  (0x0800000000AF8CF1, 0x0, .dgread ⟨1, none, 1, .p 10, .none, .none, .none, none⟩),
  (0x00000000000F90F1, 0x0, .haltself ⟨1, none, 0, .none, .none, .none, .none, none⟩)]

theorem test_decode_control : agree controlWords = true := by decide

theorem test_decode_integer : agree integerWords = true := by decide

theorem test_decode_float : agree floatWords = true := by decide

theorem test_decode_matrix : agree matrixWords = true := by decide

theorem test_decode_memory : agree memoryWords = true := by decide

theorem test_decode_engine : agree engineWords = true := by decide

theorem test_decode_barrier : agree barrierWords = true := by decide

theorem test_decode_system : agree systemWords = true := by decide

/-! ## Well-formedness (R97-R102, R106, R115, R174, R237; R1 for the numbers of units) -/

/-- One term for each check, which the check refuses. -/
def illFormed : List Instr := [
  -- a branch without its extension word; RETT with one
  .bra ⟨1, none, 0, .none, .none, .none, .none, none⟩, .rett ⟨1, none, 0, .none, .none, .none, .none, some 0⟩,
  -- a guard above k11
  .nop ⟨1, some (12, false), 0, .none, .none, .none, .none, none⟩,
  -- a MOD that the instruction does not list; a CCTL that names another of its kinds
  .iaddc ⟨1, none, 0, .v 9, .v 4, .v 5, .k 4, none⟩, .cctlWb ⟨1, none, 2, .none, .p 4, .none, .ord .rc .team .plain 0, none⟩,
  -- an operand in a field that must be zero; a register where a predicate stands; a pair that starts odd; a block off its multiple
  .nop ⟨1, none, 0, .v 0, .none, .none, .none, none⟩, .ballot ⟨1, none, 0, .v 9, .v 1, .none, .none, none⟩,
  .iadd ⟨1, none, 2, .p 9, .p 4, .p 6, .none, none⟩, .mma ⟨1, none, 0, .b8 33, .b8 0, .b2 16, .b8 32, none⟩,
  -- predicate 12, rejoin mask 4, a peek at a destination
  .ballot ⟨1, none, 0, .v 9, .k 12, .none, .none, none⟩, .jwait ⟨1, none, 0, .none, .j 4, .none, .none, none⟩,
  .push ⟨1, none, 0, .ch 7 true, .v 4, .none, .none, none⟩,
  -- a domain, scope or order that the access does not take
  .ld ⟨1, none, 3, .v 9, .p 4, .none, .ord .rc .pkg .rel 0, none⟩, .fence ⟨1, none, 0, .none, .none, .none, .ord .rc .pkg .plain 1, none⟩,
  -- an immediate beside a source B; an immediate wider than its type; a displacement off 8; bits above an offset's 32
  .iadd ⟨1, none, 0, .v 9, .v 4, .v 5, .none, some 1⟩, .iadd ⟨1, none, 0, .v 9, .v 4, .none, .none, some 0x100000000⟩,
  .bra ⟨1, none, 0, .none, .none, .none, .none, some 4⟩, .ld ⟨1, none, 3, .v 9, .p 4, .none, .ord .rc .pkg .plain 0, some 0x100000000⟩,
  -- a GJOIN slot above 15, a BLUT table above 8 bits, a row predicate above k11, a ring of no entries, a copy of no bytes
  .gjoin ⟨1, none, 1, .v 9, .none, .none, .none, some 16⟩, .blut ⟨1, none, 0, .v 9, .v 4, .v 5, .v 6, some 0x100⟩,
  .mma ⟨1, none, 0, .b8 32, .b8 0, .b2 16, .b8 32, some 13⟩, .ringinit ⟨1, none, 0, .none, .none, .none, .none, some 3⟩,
  .rcopy ⟨1, none, 0, .none, .p 4, .p 12, .none, some 1⟩,
  -- a core, a wave, a slice and a unit that the package does not have
  .swap 864, .sleepExpiry 1 32, .slicePerform 96, .powerCommand 68 0]

theorem test_ill_formed : illFormed.all (fun i => !i.wellFormed) = true := by decide

/-! ## A machine with one team

Team 1 is one wave of 256 registers on core 0, its PC at 0x10000, the page 0x10000-0x1FFFF mapped with every permission, all memory homed at slice 0. Every channel
of the wave is scale-out port 0, which has received one message; binding entry 1 is a copy engine, entry 3 a ring at stash
offset 1024. -/

def theLaunch : Launch :=
  { probeLaunch with header := { probeLaunch.header with stash := 0x40000, chmaps := List.replicate 1024 2 } }

def theTeam : Team :=
  { probeTeam with bind := [⟨0, true, 0, 0, 0⟩, ⟨4, false, 0, 0, 0⟩, ⟨7, false, 0, 0, 0⟩, ⟨5, false, 0, 0, 1024⟩] }

/-- The subset of all 32 lanes stands at issue. -/
def ready : State :=
  let s := State.reset.withFetchWord 0 0
  { s with
    group := []
    cur := some ⟨1, 0, 0x10000, 0xFFFFFFFF, 0, 0⟩
    launches := [(1, theLaunch)]
    teams := [(1, theTeam)]
    parts := [(0, { Part.reset with pstate := 1, slices := 1 })]
    ports := [(0, { EthPort.reset with recvQ := [(0, [List.replicate 128 7])], enable := true })] }

/-- The same with the wave changed. -/
def readyWith (f : Wave → Wave) : State := ready.modWave 1 0 f

/-- The same with register n holding one value, with a tag, in every lane. -/
def put (w : Wave) (n : Nat) (x : W32) (t : BitVec 4) : Wave := { w with vregs := w.vregs.set n (Vec.splat ⟨x, t⟩) }

/-- The subset of an instruction, when it passes everything before the instruction's own checks. -/
def passes (opc : Nat) (f : Form) (s : State) : Option Iss :=
  (s.issuing opc f).bind fun i =>
    if !i.interlocked && !i.staged s && !i.waitcHeld s && i.checkRegs.isNone && i.checkRole.isNone && (i.checkStall (s.ctx i.launch.ctx).scbchk).isNone &&
      i.checkChan.isNone && i.act != 0 && (i.channelWait s).isNone then some i else none

/-- What passes, executes. -/
theorem executes_of_passes {opc : Nat} {f : Form} {s : State} {i : Iss} (h : passes opc f s = some i) : Executes opc f s i := by
  unfold passes at h
  cases hi : s.issuing opc f with
  | none => simp [hi] at h
  | some j =>
    simp only [hi, Option.bind_some] at h
    split at h
    · next hc =>
      cases h
      simp only [Bool.and_eq_true, Bool.not_eq_true', Option.isNone_iff_eq_none, bne_iff_ne, ne_eq] at hc
      obtain ⟨⟨⟨⟨⟨⟨⟨⟨h1, h8⟩, h9⟩, h2⟩, h3⟩, h4⟩, h5⟩, h6⟩, h7⟩ := hc
      exact ⟨hi, h1, h8, h9, h2, h3, h4, h5, h6, h7⟩
    · cases h

/-- Every instruction of a list passes on `ready`. -/
def allPass (l : List (W64 × W64 × Instr)) : Bool :=
  l.all fun x => match opcodeOf x.2.2 with
    | some (opc, f) => (passes opc f ready).isSome
    | none => false

/-! The premise `Executes` of the statements about single instructions is met for each instruction, on the words above. -/

theorem witness_executes_control : allPass controlWords = true := by decide
theorem witness_executes_integer : allPass integerWords = true := by decide
theorem witness_executes_float : allPass floatWords = true := by decide
theorem witness_executes_matrix : allPass matrixWords = true := by decide
theorem witness_executes_memory : allPass memoryWords = true := by decide
theorem witness_executes_engine : allPass engineWords = true := by decide
theorem witness_executes_barrier : allPass barrierWords = true := by decide
theorem witness_executes_system : allPass systemWords = true := by decide

/-! ## Witnesses: the statements about decoding and steps -/

/-- An instruction that executes in a state, its subset satisfying a further test: the form in which the witnesses below show
that the premises of a statement are met together. -/
def meets (opc : Nat) (f : Form) (s : State) (p : Iss → Bool) : Bool :=
  match passes opc f s with
  | some i => p i
  | none => false

theorem executes_of_meets {opc : Nat} {f : Form} {s : State} {p : Iss → Bool} (h : meets opc f s p = true) :
    ∃ i, Executes opc f s i ∧ p i = true := by
  unfold meets at h
  cases hp : passes opc f s with
  | none => simp [hp] at h
  | some i => exact ⟨i, executes_of_passes hp, by simpa [hp] using h⟩

/-- A word that the decoder refuses for a reason. -/
def refuses (w : W64) (reason : Nat) : Bool := match decode w 0 with | .error x => decide (x = ⟨reason, 0⟩) | .ok _ => false

/-- ReservedWordsAreRefused, each clause: opcode 0x3FF; a BRA without its extension word; GUARD 12, 14, and 15 with GSENSE. -/
theorem witness_reserved_words :
    wordForms 0x3FF = none ∧ (wordForms 1 ≠ none ∧ longOk 1 0 false = false) ∧ longOk 0 0 false = true ∧
    refuses 0xFFCF1 1 = true ∧ refuses 0x4F1 2 = true ∧ refuses 0xC1 3 = true ∧ refuses 0xE1 3 = true ∧ refuses 0x1F1 3 = true := by
  decide

/-- A state in which the next step fetches a word. -/
def fetching (w : Nat) : State := State.reset.withFetchWord 128 w

/-- The word that a state's issue group fetches, with what the subset is: the premises of the statements about steps. -/
def fetches (s : State) (p : Cur → Team → Launch → Wave → W64 → W64 → State → Bool) : Bool :=
  match s.group with
  | c :: rest =>
    match s.teams.get? c.team with
    | some tm =>
      match s.launches.get? tm.launch, tm.waves.get? c.wave with
      | some ln, some wv =>
        match State.fetch { s with group := rest } c.team c.wave tm ln c.pc with
        | .words w e s' => p c tm ln wv w e s'
        | _ => false
      | _, _ => false
    | none => false
  | [] => false

/-- Whether the subset at the head of the issue group waits for its code. -/
def fetchWaits (s : State) : Bool :=
  match s.group with
  | c :: rest =>
    match s.teams.get? c.team with
    | some tm =>
      match s.launches.get? tm.launch with
      | some ln => match State.fetch { s with group := rest } c.team c.wave tm ln c.pc with
        | .wait _ => true
        | _ => false
      | none => false
    | none => false
  | [] => false

/-- StepRunsTheDecodedInstruction, second part: a core whose fetch path holds no line. -/
theorem witness_fetch_waits : fetchWaits ((fetching 0xF1).modCore 0 fun c => { c with ipath := [] }) = true := by decide +kernel

/-- StepRunsTheDecodedInstruction and StepTrapsOnRefusedWords: NOP, and the unassigned opcode 0x3FF. -/
theorem witness_steps :
    fetches (fetching 0xF1) (fun _ _ _ _ w e _ => match decode w e with | .ok i => decide (i = .nop ⟨1, none, 0, .none, .none, .none, .none, none⟩) | _ => false) = true ∧
    fetches (fetching 0xFFCF1) (fun c tm ln wv w e s' =>
      (match decode w e with | .error x => decide (x = ⟨1, 0⟩) | _ => false) && decide (s'.teams.get? c.team = some tm) &&
        decide (s'.launches.get? tm.launch = some ln) && c.lanes &&& wv.readyAt c.pc != 0 && !wv.trapped) = true := by
  decide +kernel

/-- StepRunsTheDecodedInstruction, third part: an event of the agenda. -/
theorem witness_next_event : State.reset.group = [] ∧ opcodeOf .errClear = none := ⟨rfl, rfl⟩

/-- EveryStepKeepsTheInvariant: the invariant has a state, and the step from it answers a next state. -/
theorem witness_invariant : State.Inv State.reset := ⟨rfl, rfl⟩

/-! ## Witnesses: the checks before an instruction, and traps -/

/-- A form of an instruction with the guard off. -/
def iaddForm : Form := ⟨1, none, 0, .v 9, .v 4, .v 5, .none, none⟩

/-- What `issuing` gives, tested. -/
def issues (opc : Nat) (f : Form) (s : State) (p : Iss → Bool) : Bool :=
  match s.issuing opc f with
  | some i => p i
  | none => false

/-- The same for a subset that nothing holds. -/
def issuesFree (opc : Nat) (f : Form) (s : State) (p : Iss → Bool) : Bool := issues opc f s fun i => !i.held s && p i

/-- An operation in flight that is still to write register 4. -/
def flying : Op :=
  { id := 7, kind := .result, lanes := 0xFFFFFFFF, pc := 0x10000, dst := .v 4, dom := .rc, scope := .team, order := .plain, pieces := [],
    need := 0, got := [], regs := [4], vals := [], ready := false, counted := none, enc0 := 0, enc1 := 0, hint := 0, isRemote := false,
    flags := [], digest := [], pops := [], fwd := [], older := [] }

/-- Hazards of the scoreboard: register 4 written one issue ago with a latency of 6. -/
def hazard4 : Hazard := ⟨0xFFFFFFFF, .reg 4, 1, 6, 0x10000, Vec.zero, 0⟩

def checked : State := (readyWith fun w => { w with hazards := [hazard4] }).modCtx 0 fun c => { c with scbchk := true }

def noPort : State := ready.modPort 0 fun _ => EthPort.reset

/-- ChecksBeforeTheInstruction: an interlock; each check of 2 to 5 failing first; a guard that no lane passes. -/
theorem witness_checks :
    issues 0x080 iaddForm (readyWith fun w => { w with ops := [flying] }) Iss.interlocked = true ∧
    issuesFree 0x080 iaddForm (ready.modLaunch 1 fun l => { l with header := { l.header with regs := 9 } }) (fun i =>
      decide (i.checkRegs = some ⟨.illegal, 1, 2, 5, i.lanes, 0, 0⟩)) = true ∧
    issuesFree 0x280 ⟨1, none, 0, .b8 32, .b8 0, .b2 16, .b8 32, none⟩ (readyWith fun w => { w with role := .vec }) (fun i =>
      i.checkRegs.isNone && i.checkRole.isSome) = true ∧
    issuesFree 0x380 ⟨1, none, 0, .none, .v 4, .none, .none, some 1⟩ (readyWith fun w => { w with role := .mtx }) (fun i =>
      i.checkRegs.isNone && i.checkRole.isSome) = true ∧
    issuesFree 0x080 iaddForm checked (fun i => i.checkRegs.isNone && i.checkRole.isNone &&
      (i.checkStall (checked.ctx i.launch.ctx).scbchk).isSome) = true ∧
    issuesFree 0x399 ⟨1, none, 0, .v 9, .ch 7 false, .none, .none, none⟩ (ready.modLaunch 1 fun l => { l with header := { l.header with chmaps := [] } })
      (fun i => i.checkRegs.isNone && i.checkRole.isNone && (i.bind? 7).isNone && i.checkChan.isSome) = true ∧
    issuesFree 0x080 { iaddForm with guard := some (0, false) } ready (fun i => i.checkRegs.isNone && i.checkRole.isNone &&
      (i.checkStall (ready.ctx i.launch.ctx).scbchk).isNone && i.checkChan.isNone && i.act == 0) = true := by
  decide +kernel

/-- ChannelOperandBlocks: a POP from a port that has received nothing. -/
theorem witness_channel_blocks :
    issuesFree 0x399 ⟨1, none, 0, .v 9, .ch 7 false, .none, .none, none⟩ noPort (fun i => i.checkRegs.isNone && i.checkRole.isNone &&
      (i.checkStall (noPort.ctx i.launch.ctx).scbchk).isNone && i.checkChan.isNone && i.act != 0 &&
      decide (i.channelWait noPort = some (.recv 2))) = true := by
  decide +kernel

def inHandler (m : Mask) : State := readyWith fun w => { w with trapped := true, tmask := m }

/-- TrapEntrySavesAndRedirects and NestedTrapIsAContextFault: a subset outside a handler; inside one; in flight at trap entry. -/
theorem witness_traps :
    issues 0x080 iaddForm ready (fun i => decide (ready.teams.get? i.tid = some i.team) && decide (i.team.waves.get? i.wid = some i.wave) &&
      !i.wave.trapped) = true ∧
    issues 0x080 iaddForm (inHandler 1) (fun i => decide ((inHandler 1).teams.get? i.tid = some i.team) &&
      decide (i.team.waves.get? i.wid = some i.wave) && i.wave.trapped && i.wave.tmask &&& i.lanes != 0) = true ∧
    issues 0x080 iaddForm (inHandler 0) (fun i => i.wave.trapped && i.wave.tmask &&& i.lanes == 0) = true := by
  decide +kernel

/-! ## Witnesses: fixed-latency instructions -/

/-- Registers that all hold one value with one tag. -/
def filled (x : W32) (t : BitVec 4) : State := readyWith fun w => { w with vregs := List.replicate 256 (Vec.splat ⟨x, t⟩) }

/-- Pairs that hold 64-bit values tagged F64. -/
def filled64 : State := readyWith fun w =>
  { w with vregs := (List.range 256).map fun n => Vec.splat ⟨0, if n % 2 = 0 then 10 else 11⟩ }

def misaligned (i : Iss) (s : State) : Mask := laneMask fun l => i.act.getLsbD l && (lane64 (i.srcA s) l).extractLsb' 0 3 != 0

/-- BranchesSetTheNextPc: targets of 0 are aligned, targets of 4 + 2^34 are not. -/
theorem witness_branches :
    ([0x002, 0x005].all fun opc => meets opc ⟨1, none, 0, .none, .p 4, .none, .none, none⟩ ready fun i => misaligned i ready == 0) = true ∧
    meets 0x004 ⟨1, none, 0, .p 10, .p 4, .none, .none, none⟩ ready (fun i => misaligned i ready == 0) = true ∧
    ([0x002, 0x005].all fun opc => meets opc ⟨1, none, 0, .none, .p 4, .none, .none, none⟩ (filled 4 0) fun i => misaligned i (filled 4 0) != 0) = true ∧
    meets 0x004 ⟨1, none, 0, .p 10, .p 4, .none, .none, none⟩ (filled 4 0) (fun i => misaligned i (filled 4 0) != 0) = true := by
  decide +kernel

/-- ThreadsEndAndWait: EXIT without channels; JWAIT met and not met; YIELD without and with a request for pre-emption. -/
theorem witness_threads :
    meets 0x006 ⟨1, none, 0, .none, .none, .none, .none, none⟩ ready (fun i => i.chans == []) = true ∧
    meets 0x009 ⟨1, none, 0, .none, .j 3, .none, .none, none⟩ ready (fun i =>
      i.readRejoin ready 3 &&& ~~~(i.wave.exited ||| i.wave.readyAt i.pc) == 0) = true ∧
    (let s := readyWith fun w => { w with rejoin := [0, 0, 0, 1], threads := w.threads.set 0 .blocked }
     meets 0x009 ⟨1, none, 0, .none, .j 3, .none, .none, none⟩ s (fun i =>
      i.readRejoin s 3 &&& ~~~(i.wave.exited ||| i.wave.readyAt i.pc) != 0)) = true ∧
    meets 0x00A ⟨1, none, 0, .none, .none, .none, .none, none⟩ ready (fun i => !(ready.ctx i.launch.ctx).preq) = true ∧
    (let s := ready.modCtx 0 fun c => { c with preq := true }
     meets 0x00A ⟨1, none, 0, .none, .none, .none, .none, none⟩ s (fun i => (s.ctx i.launch.ctx).preq)) = true := by
  decide +kernel

/-- PredicateAndComparisonResults: every kind of PMOV; a vote that is true and one that is false; the first and the last
comparison of each width. -/
theorem witness_predicates :
    ([(0, .k 4, .k 3), (1, .v 9, .k 3), (2, .k 4, .v 4), (3, .k 4, .none), (4, .k 4, .none)].all fun x : BitVec 5 × Opnd × Opnd =>
      meets 0x012 ⟨1, none, x.1, x.2.1, x.2.2, .none, .none, none⟩ ready fun _ => true) = true ∧
    ([0, 1, 2].all fun m => meets 0x013 ⟨1, none, m, .k 5, .k 6, .none, .none, none⟩ ready fun i => i.readPred ready 6 &&& i.act == 0) = true ∧
    (let s := readyWith fun w => { w with preds := w.preds.set 6 0xFFFFFFFF }
     ([0, 1, 2].all fun m => meets 0x013 ⟨1, none, m, .k 5, .k 6, .none, .none, none⟩ s fun i => i.readPred s 6 &&& i.act == i.act)) = true ∧
    ([0, 1, 20, 21].all fun m => meets 0x010 ⟨1, none, m, .k 3, .v 4, .v 5, .none, none⟩ ready fun _ => true) = true ∧
    ([2, 3, 22, 23].all fun m => meets 0x0A1 ⟨1, none, m, .v 9, .p 4, .p 12, .none, none⟩ ready fun _ => true) = true := by
  decide +kernel

/-- SoftTrapsAndBreakpoints: with the debug-break control clear and set. -/
theorem witness_soft_traps :
    (let s := ready.modCtx 0 fun c => { c with dbgbrk := true }
     meets 0x031 ⟨1, none, 0, .none, .none, .v 5, .none, none⟩ s (fun i => (s.ctx i.launch.ctx).dbgbrk)) = true ∧
    ([0x030, 0x031].all fun opc => meets opc ⟨1, none, 0, .none, .none, .v 5, .none, none⟩ ready fun i =>
      !i.wave.trapped && !(ready.ctx i.launch.ctx).dbgbrk) = true := by
  decide +kernel

/-- The integer statements at the MODs where their clauses part: both widths, both signs, `.sat`, `.sub`, `.w`, `.rem`, `.nz`. -/
theorem witness_integer_forms :
    ([0, 1, 4, 5].all fun m => meets 0x080 ⟨1, none, m, .v 9, .v 4, .v 5, .none, none⟩ ready fun _ => true) = true ∧
    ([2, 3, 6, 7].all fun m => meets 0x080 ⟨1, none, m, .p 10, .p 4, .p 12, .none, none⟩ ready fun _ => true) = true ∧
    ([1, 5].all fun m => meets 0x082 ⟨1, none, m, .v 9, .v 4, .v 5, .k 4, none⟩ ready fun _ => true) = true ∧
    ([0, 1, 4, 5].all fun m => meets 0x094 ⟨1, none, m, .v 9, .v 4, .v 5, .v 6, none⟩ ready fun _ => true) = true ∧
    ([0, 10, 16].all fun m => meets 0x0A9 ⟨1, none, m, if m = 0 then .v 9 else .p 10, .none, .none, .none, some 1⟩ ready fun _ => true) = true ∧
    ([0, 4, 8, 12].all fun m => meets 0x0B2 ⟨1, none, m, .v 9, .v 4, .v 5, .none, none⟩ (filled 3 0) fun _ => true) = true ∧
    (let s := filled 3 0
     let t := (passes 0x0B2 ⟨1, none, 0, .v 9, .v 4, .v 5, .none, none⟩ s).elim s fun i => s.modCore 0 fun c => { c with reuse := [i.reuseKey] }
     meets 0x0B2 ⟨1, none, 0, .v 9, .v 4, .v 5, .none, none⟩ s (fun i => (s.reuseLookup i s.nextOp).2.isNone) &&
      meets 0x0B2 ⟨1, none, 0, .v 9, .v 4, .v 5, .none, none⟩ t (fun i => (t.reuseLookup i t.nextOp).2.isSome)) = true ∧
    ([0, 4].all fun m => meets 0x0B2 ⟨1, none, m, .v 9, .v 4, .v 5, .none, none⟩ ready fun i =>
      (laneMask fun l => i.act.getLsbD l && laneNat 32 (i.srcB ready) l == 0) != 0) = true ∧
    ([0, 1, 2, 3].all fun m => meets 0x0C0 ⟨1, none, m, .v 9, .v 4, .v 5, .none, none⟩ ready fun _ => true) = true ∧
    ([4, 5, 6, 7].all fun m => meets 0x0C0 ⟨1, none, m, .v 9, .v 4, .v 5, .k 2, none⟩ ready fun _ => true) = true ∧
    ((List.range 19).all fun m => meets 0x0D0 ⟨1, none, BitVec.ofNat 5 m, .v 9, .none, .none, .none, none⟩ ready fun _ => true) = true ∧
    ([19, 20].all fun m => meets 0x0D0 ⟨1, none, m, .p 10, .none, .none, .none, none⟩ ready fun _ => true) = true := by
  decide +kernel

/-- The floating-point statements: sources with the tags each needs, in every active lane. -/
theorem witness_float_tags :
    (let s := filled 0x3F800000 1
     ([0x180, 0x181, 0x182, 0x184, 0x185].all fun opc => meets opc ⟨1, none, 9, .v 9, .v 4, .v 5, .none, none⟩ s fun i =>
        (i.checkTags [(2, i.srcA s, [1]), (3, i.srcB s, [1])]).isNone) &&
      meets 0x183 ⟨1, none, 25, .v 9, .v 4, .v 5, .v 6, none⟩ s (fun i =>
        (i.checkTags [(2, i.srcA s, [1]), (3, i.srcB s, [1]), (4, i.srcC s, [1])]).isNone) &&
      ([0, 7].all fun m => meets 0x186 ⟨1, none, m, .v 9, .v 4, .v 5, .none, none⟩ s fun i => (i.checkTags [(2, i.srcA s, [1]), (3, i.srcB s, [1])]).isNone) &&
      meets 0x187 ⟨1, none, 9, .v 9, .v 4, .none, .none, none⟩ s (fun i => (i.checkTags [(2, i.srcA s, [1])]).isNone) &&
      ([0x190, 0x191, 0x192, 0x193, 0x194, 0x195, 0x196, 0x197].all fun opc => meets opc ⟨1, none, 9, .v 9, .v 4, .none, .none, none⟩ s fun i =>
        (i.checkTags [(2, i.srcA s, [1])]).isNone)) = true ∧
    (let s := filled64
     ([8, 15].all fun m => meets 0x186 ⟨1, none, m, .v 9, .p 4, .p 12, .none, none⟩ s fun i =>
        (i.checkTags [(2, i.srcA s, [10, 11]), (3, i.srcB s, [10, 11])]).isNone) &&
      meets 0x187 ⟨1, none, 12, .v 9, .p 4, .none, .none, none⟩ s (fun i => (i.checkTags [(2, i.srcA s, [10, 11])]).isNone) &&
      ([0x1B0, 0x1B1].all fun opc => meets opc ⟨1, none, 12, .p 10, .p 4, .p 12, .none, none⟩ s fun i =>
        (i.checkTags [(2, i.srcA s, [10, 11]), (3, i.srcB s, [10, 11])]).isNone) &&
      meets 0x1B2 ⟨1, none, 28, .p 10, .p 4, .p 12, .p 14, none⟩ s (fun i =>
        (i.checkTags [(2, i.srcA s, [10, 11]), (3, i.srcB s, [10, 11]), (4, i.srcC s, [10, 11])]).isNone)) = true ∧
    ([(10, filled 0 2, [2]), (11, filled 0 3, [3])].all fun x : BitVec 5 × State × List Nat =>
      ([0x1A0, 0x1A1].all fun opc => meets opc ⟨1, none, x.1, .v 9, .v 4, .v 5, .none, none⟩ x.2.1 fun i =>
        (i.checkTags [(2, i.srcA x.2.1, x.2.2), (3, i.srcB x.2.1, x.2.2)]).isNone) &&
      meets 0x1A2 ⟨1, none, x.1, .v 9, .v 4, .v 5, .v 6, none⟩ x.2.1 (fun i =>
        (i.checkTags [(2, i.srcA x.2.1, x.2.2), (3, i.srcB x.2.1, x.2.2), (4, i.srcC x.2.1, x.2.2)]).isNone)) = true ∧
    (let s := (filled 0 3).modWave 1 0 fun w => put w 6 0 1
     meets 0x1A3 ⟨1, none, 11, .v 9, .v 4, .v 5, .v 6, none⟩ s fun i =>
      (i.checkTags [(2, i.srcA s, [3]), (3, i.srcB s, [3]), (4, i.srcC s, [1])]).isNone) = true := by
  decide +kernel

/-- Whether source A, B or C of an instruction, read as its field says, lacks the required tags in an active lane. -/
def lacksTag (fld : Nat) (req : List Nat) (s : State) (i : Iss) : Bool :=
  let vs := if fld = 2 then i.srcA s else if fld = 3 then i.srcB s else i.srcC s
  !(fld == 3 && i.immB) && (i.checkTag fld i.act vs req).isSome

/-- WrongTagTraps: for each clause sources tagged B32 where another tag is required; source C alone; a source B of `.as` tagged ACC,
and one with a reserved tag; the scale of QCVT. -/
theorem witness_wrong_tags :
    ([0x180, 0x181, 0x182, 0x184, 0x185].all fun opc => meets opc ⟨1, none, 9, .v 9, .v 4, .v 5, .none, none⟩ ready (lacksTag 2 [1] ready)) = true ∧
    (let s := readyWith fun w => put (put w 4 0 1) 5 0 1
     meets 0x183 ⟨1, none, 9, .v 9, .v 4, .v 5, .v 6, none⟩ s fun i => !lacksTag 2 [1] s i && !lacksTag 3 [1] s i && lacksTag 4 [1] s i) = true ∧
    (meets 0x186 ⟨1, none, 0, .v 9, .v 4, .v 5, .none, none⟩ ready (lacksTag 2 [1] ready) &&
      meets 0x186 ⟨1, none, 8, .v 9, .p 4, .p 12, .none, none⟩ ready (lacksTag 2 [10, 11] ready) &&
      meets 0x187 ⟨1, none, 9, .v 9, .v 4, .none, .none, none⟩ ready (lacksTag 2 [1] ready) &&
      meets 0x187 ⟨1, none, 12, .v 9, .p 4, .none, .none, none⟩ ready (lacksTag 2 [10, 11] ready)) = true ∧
    ([0x190, 0x191, 0x192, 0x193, 0x194, 0x195, 0x196, 0x197].all fun opc => meets opc ⟨1, none, 9, .v 9, .v 4, .none, .none, none⟩ ready (lacksTag 2 [1] ready)) = true ∧
    ([(10, [2]), (11, [3])].all fun x : BitVec 5 × List Nat =>
      ([0x1A0, 0x1A1].all fun opc => meets opc ⟨1, none, x.1, .v 9, .v 4, .v 5, .none, none⟩ ready (lacksTag 2 x.2 ready)) &&
        meets 0x1A2 ⟨1, none, x.1, .v 9, .v 4, .v 5, .v 6, none⟩ ready (lacksTag 2 x.2 ready)) = true ∧
    (meets 0x1A3 ⟨1, none, 11, .v 9, .v 4, .v 5, .v 6, none⟩ ready (lacksTag 2 [3] ready) &&
      ([0x1B0, 0x1B1].all fun opc => meets opc ⟨1, none, 12, .p 10, .p 4, .p 12, .none, none⟩ ready (lacksTag 2 [10, 11] ready)) &&
      meets 0x1B2 ⟨1, none, 12, .p 10, .p 4, .p 12, .p 14, none⟩ ready (lacksTag 2 [10, 11] ready)) = true ∧
    (meets 0x1C0 ⟨1, none, 0, .v 9, .v 4, .v 8, .none, none⟩ ready (lacksTag 2 [1] ready) &&
      ([12, 13].all fun t => let s := readyWith fun w => put w 5 0 t
        meets 0x1C0 ⟨1, none, 27, .v 9, .v 4, .v 5, .none, none⟩ s fun i => decide (12 ≤ ((vec1 (i.srcB s) 0).tagAt 0).toNat)) &&
      (let s := readyWith fun w => put (put w 4 0 1) 5 0 1
       meets 0x1C1 ⟨1, none, 0, .v 9, .v 4, .v 5, .v 6, none⟩ s fun i => !lacksTag 2 [1] s i && !lacksTag 3 [1] s i && lacksTag 4 [1] s i) &&
      meets 0x1C2 ⟨1, none, 0, .v 9, .v 4, .v 5, .v 6, none⟩ ready (lacksTag 2 [9] ready)) = true ∧
    (([(0x280, none), (0x281, some 0)].all fun x : Nat × Option W64 => meets x.1 ⟨1, none, 0, .b8 32, .b8 0, .b2 16, .b8 40, x.2⟩ ready fun i =>
        lacksTag 2 (List.replicate 8 (if x.1 = 0x280 then (mmaTags 0).1 else 9)) ready i) &&
      meets 0x291 ⟨1, none, 0, .v 9, .v 4, .none, .none, none⟩ ready (lacksTag 2 [12] ready)) = true ∧
    ([(0x310, (20 : BitVec 5), Opnd.v 9), (0x311, 20, .none), (0x1D0, 9, .v 9)].all fun x =>
      meets x.1 ⟨1, none, x.2.1, x.2.2, .p 4, .v 6, .ord .rc .pkg .plain 0, none⟩ ready (lacksTag 3 [1] ready)) = true := by
  decide +kernel

/-- ConversionResults: the tags of every form of CVT, and of the forms of QCVT and DQCVT. -/
theorem witness_conversions :
    ((List.range 27).all fun m =>
      let t := cvtTags m
      let req (x : Option (List Nat)) (k : Nat) : BitVec 4 := BitVec.ofNat 4 ((x.getD []).getD k 0)
      let f : Form := ⟨1, none, BitVec.ofNat 5 m, if m = 14 then .p 10 else .v 9, if m = 12 ∨ m = 13 then .p 4 else .v 4,
        if m ≤ 11 then .v 8 else .none, if 4 ≤ m ∧ m ≤ 11 then .v 6 else .none, none⟩
      let s := readyWith fun w => put (put (put (put w 4 0 (req t.1 0)) 5 0 (req t.1 1)) 8 0 (req t.2.1 0)) 6 0 (req t.2.2 0)
      meets 0x1C0 f s fun i => (i.checkTags ((t.1.map fun t => (2, i.srcA s, t)).toList ++ (t.2.1.map fun t => (3, i.srcB s, t)).toList ++
        (t.2.2.map fun t => (4, i.srcC s, t)).toList)).isNone) = true ∧
    meets 0x1C0 ⟨1, none, 27, .v 9, .v 4, .v 5, .none, none⟩ ready (fun i => (laneMask fun l => (vec1 (i.srcB ready) 0).tagAt l == 12) == 0) = true ∧
    ([28, 29].all fun m => meets 0x1C0 ⟨1, none, m, .p 10, .p 4, .none, .none, none⟩ ready fun _ => true) = true ∧
    (let s := filled 0 1
     meets 0x1C1 ⟨1, none, 0, .v 9, .v 4, .v 5, .v 6, none⟩ s (fun i => (i.checkTag 2 i.act (i.srcA s) [1]).isNone &&
        (i.checkTag 3 i.act (i.srcB s) [1]).isNone && (i.checkTag 4 (1#32 <<< lowest i.act) (i.srcC s) [1]).isNone) &&
      ([1, 6].all fun m => meets 0x1C1 ⟨1, none, m, .v 9, .v 4, .none, .v 6, none⟩ s fun i => (i.checkTag 2 i.act (i.srcA s) [1]).isNone &&
        (i.checkTag 4 (1#32 <<< lowest i.act) (i.srcC s) [1]).isNone)) = true ∧
    ((List.range 8).all fun m =>
      let s := readyWith fun w => put (put w 4 0 (BitVec.ofNat 4 (dqcvtTag m))) 6 0 1
      meets 0x1C2 ⟨1, none, BitVec.ofNat 5 m, .v 9, .v 4, if m ≤ 1 then .v 5 else .none, .v 6, none⟩ s fun i =>
        (i.checkTag 2 (i.act &&& laneMask fun k => (maskLanes i.act).any fun l => dqcvtLane m l == k) (i.srcA s) [dqcvtTag m]).isNone &&
          (m ≥ 2 || (i.checkTag 3 (i.act &&& (1#32 <<< 8)) (i.srcB s) [0]).isNone) &&
          (i.checkTag 4 (1#32 <<< lowest i.act) (i.srcC s) [1]).isNone) = true := by
  decide +kernel

/-! ## Witnesses: matrix, memory, engine, barrier and system instructions -/

/-- An ordering field of a plain access in RC, and in another domain with a release. -/
def rc : Opnd := .ord .rc .pkg .plain 0

/-- An address at 0x10100 in the mapped page, and at stash offset 0x800, in the pair v4-v5. -/
def paged : State := readyWith fun w => put w 4 0x10100 0
def stashed : State := readyWith fun w => put (put w 4 0x800 0) 5 0xFE000000 0

/-- The wave with every register 0 under a tag. -/
def tagged (w : Wave) (f : Nat → Nat) : Wave :=
  { w with vregs := (List.range 256).map fun n => Vec.splat (Lane.mk 0 (BitVec.ofNat 4 (f n))) }

/-- MatrixOperationsStart: the tags of each type, with C and with `.zero`; FragmentResults: the tags of each form. -/
theorem witness_matrix :
    ((List.range 12).all fun t =>
      let s := readyWith fun w => tagged w fun n => if n < 8 then (mmaTags t).1 else if n < 18 then (mmaTags t).2 else 12
      let good (m : Nat) (i : Iss) : Bool := (i.checkTag 2 i.act (i.srcA s) (List.replicate 8 (mmaTags t).1)).isNone &&
        (i.checkTag 3 i.act (i.srcB s) [(mmaTags t).2, (mmaTags t).2]).isNone &&
        (m ≥ 16 || (i.checkTag 4 i.act (i.srcC s) (List.replicate 8 12)).isNone)
      meets 0x280 ⟨1, none, BitVec.ofNat 5 t, .b8 32, .b8 0, .b2 16, .b8 40, none⟩ s (good t) &&
        meets 0x280 ⟨1, none, BitVec.ofNat 5 (t + 16), .b8 32, .b8 0, .b2 16, .none, none⟩ s (good (t + 16))) = true ∧
    (let s := readyWith fun w => tagged w fun n => if n < 18 then 9 else 12
     meets 0x281 ⟨1, none, 0, .b8 32, .b8 0, .b2 16, .b8 40, some 0⟩ s fun i => (i.checkTag 2 i.act (i.srcA s) (List.replicate 8 9)).isNone &&
        (i.checkTag 3 i.act (i.srcB s) [9, 9]).isNone && (i.checkTag 4 i.act (i.srcC s) (List.replicate 8 12)).isNone) = true ∧
    ((List.range 10).all fun m =>
      let t := acccvtTags m
      let tag (x : Option (List Nat)) : BitVec 4 := BitVec.ofNat 4 ((x.getD []).getD 0 0)
      let s := readyWith fun w => put (put (put w 4 0 (BitVec.ofNat 4 (t.1.getD 0 0))) 5 0 (tag t.2.1)) 6 0 (tag t.2.2)
      meets 0x291 ⟨1, none, BitVec.ofNat 5 m, .v 9, .v 4, if m ≤ 3 then .none else .v 5, if m ≤ 5 then .none else .v 6, none⟩ s fun i =>
        (i.checkTags ([(2, i.srcA s, t.1)] ++ (t.2.1.map fun t => (3, i.srcB s, t)).toList ++ (t.2.2.map fun t => (4, i.srcC s, t)).toList)).isNone) = true := by
  decide +kernel

/-- `LoadGoes` as a test. -/
def loadGoes (i : Iss) (s : State) (as : List LaneAcc) (ps : List Piece) : Bool :=
  let c := s.core i.team.core
  let direct (p : Piece) : Bool := i.dom == .sc || (i.hint == 3 && !p.place.isMapped)
  let home (p : Piece) : Bool :=
    direct p || !p.place.isMapped || !i.team.mappedReady (match p.place with | .mapped o _ _ => o | _ => 0) p.len
  !i.accessWait s .load as ps && (ps.all fun p => !direct p || (c.ownStores i.tid i.wid).all fun e => !e.meets p) &&
    ((linesOf ((ps.filter direct).map (·.place))).all fun l => !s.lineDirty i.team.core i.tid l) &&
    ((linesOf ((ps.filter home).map (·.place))).all fun l => !c.lineOut l) &&
    (linesOf (ps.map (·.place))).all fun l => s.pendingRoom i.tid i.wid l

/-- The pieces of an access whose checks pass, with a further test. -/
def reaches (s : State) (i : Iss) (width : Nat) (need : Need) (atomic : Bool) (p : List LaneAcc → List Piece → Bool) : Bool :=
  let as := i.accesses s (maskLanes i.act) width need atomic
  match i.verdict s as need with
  | .ok ps => p as ps
  | .error _ => false

def ldForm : Form := ⟨1, none, 0, .v 9, .p 4, .none, rc, none⟩

/-- The state in which the reuse table holds the load's key. -/
def loaded (opc : Nat) : State := paged.modCore 0 fun c => { c with reuse := match passes opc ldForm paged with
  | some i => [{ i.reuseKey with isLoad := true, epoch := c.epoch }]
  | none => [] }

/-- The entry of the reuse table that a load hits. -/
def loadHit (i : Iss) (s : State) (as : List LaneAcc) : Option ReuseEntry :=
  let c := (s.fillTlbs i as).core i.team.core
  if i.loadEligible then c.reuse.find? fun e => e.sameKey { i.reuseKey with isLoad := true, epoch := c.epoch } else none

/-- LoadsStart: global and stash loads in every domain that go, with no hit; a hit of LD and of LDK; SCLD. -/
theorem witness_loads :
    ([paged, stashed].all fun s => [Dom.rc, .sc, .tso, .cau, .blk].all fun d =>
      meets 0x300 ⟨1, none, 0, .v 9, .p 4, .none, .ord d .pkg .plain 0, none⟩ s fun i => reaches s i 4 ⟨true, false, false⟩ false fun as ps =>
        loadGoes i (s.fillTlbs i as) as ps && (loadHit i s as).isNone) = true ∧
    ([0x301, 0x288].all fun opc => meets opc ldForm paged fun i => reaches paged i 4 ⟨true, false, false⟩ false fun as ps =>
        loadGoes i (paged.fillTlbs i as) as ps && (loadHit i paged as).isNone) = true ∧
    ([0x300, 0x301].all fun opc => meets opc ldForm (loaded opc) fun i => reaches (loaded opc) i 4 ⟨true, false, false⟩ false fun as ps =>
        loadGoes i ((loaded opc).fillTlbs i as) as ps && (loadHit i (loaded opc) as).isSome) = true := by
  decide +kernel

/-- StoresAreQueued: plain stores, and a release at TEAM, to global memory and to the stash, none of them private. -/
theorem witness_stores :
    ([paged, stashed].all fun s => [Opnd.ord .rc .pkg .plain 0, .ord .sc .pkg .plain 0, .ord .rc .team .rel 0].all fun o =>
      meets 0x308 ⟨1, none, 0, .none, .p 4, .v 6, o, none⟩ s fun i => reaches s i 4 ⟨false, true, false⟩ false fun as ps =>
        let u := s.fillTlbs i as
        (as.all fun a => apertureOf a.ea != .priv) && !i.accessWait u .store as ps && decide (((u.core i.team.core).sq.getD (netOf i.dom) []).length < sqCapacity i.dom) &&
          (i.releaseWait u).isNone) = true := by
  decide +kernel

/-- AtomicsStart: ATOM and RED on global memory and, in one lane, on the stash; a tag that MOD requires. -/
theorem witness_atomics :
    (let goes (opc : Nat) (m : BitVec 5) (d : Opnd) (s : State) : Bool :=
      meets opc ⟨1, none, m, d, .p 4, .v 6, rc, none⟩ s fun i => reaches s i 4 ⟨opc == 0x310, true, false⟩ true fun as ps =>
        (i.atomicWait (s.fillTlbs i as) as ps).isNone && ((atomSrcTags m.toNat).all fun ts => (i.checkTag 3 i.act (i.srcB s) ts).isNone)
     goes 0x310 0 (.v 9) paged && goes 0x311 0 .none paged && goes 0x310 20 (.v 9) (paged.modWave 1 0 fun w => put w 6 0 1)) = true ∧
    -- lanes at one stash offset, all of them and one alone
    ([(0x310, Opnd.v 9), (0x311, .none)].all fun x => meets x.1 ⟨1, none, 0, x.2, .p 4, .v 6, rc, none⟩ stashed fun i =>
      reaches stashed i 4 ⟨x.1 == 0x310, true, false⟩ true fun as ps => (i.atomicWait (stashed.fillTlbs i as) as ps).isNone &&
        (ps.all fun p => match p.place with | .stash _ => true | _ => false) && ps.length == 32 && i.chans == [] && !releases i.order) = true ∧
    (let s := { stashed with cur := some ⟨1, 0, 0x10000, 1, 0, 0⟩ }
     let s := s.modWave 1 0 fun w => { w with preds := w.preds.set 0 1 }
     [(0x310, Opnd.v 9), (0x311, .none)].all fun x =>
      meets x.1 ⟨1, some (0, false), 0, x.2, .p 4, .v 6, rc, none⟩ s fun i => reaches s i 4 ⟨x.1 == 0x310, true, false⟩ true fun as ps =>
        (i.atomicWait (s.fillTlbs i as) as ps).isNone && (match ps with | [⟨0, 0, 4, .stash 0x800, _⟩] => true | _ => false) && i.chans == [] && !releases i.order) = true := by
  decide +kernel

/-- RingOperationsStart: rings in memory and in the stash. -/
theorem witness_rings :
    ([paged, stashed].all fun s =>
      let s := s.modWave 1 0 fun w => put w 6 0 1
      [(0x1D0, (9 : BitVec 5), Opnd.v 6), (0x1D1, 0, .none), (0x1D1, 14, .none)].all fun x =>
        meets x.1 ⟨1, none, x.2.1, .v 9, .p 4, x.2.2, rc, none⟩ s fun i =>
          match i.ringAccess s with
          | .ok (as, ps) => (i.atomicWait (s.fillTlbs i as) as ((maskLanes i.act).flatMap fun l => ps.map fun p => { p with lane := l })).isNone &&
              (x.1 != 0x1D0 || (i.checkTag 3 i.act (i.srcB s) [1]).isNone) && (s.teams != stashed.teams || (match ps with | [⟨l, 0, 128, .stash 0x800, _⟩] => l == lowest i.act | _ => false) && i.chans == [] && !releases i.order)
          | .error _ => false) = true := by
  decide +kernel

/-- FencesAndWaits: a subset that a fence holds; a WAITC met at its limit and one short of it. -/
theorem witness_waits :
    issues 0x080 iaddForm (readyWith fun w => { w with ops := [{ flying with kind := .fence .rc none .pkg true }] }) Iss.interlocked = true ∧
    (let s := readyWith fun w => { w with mem := 2 }
     meets 0x390 ⟨1, none, 0, .none, .none, .none, .none, some 2⟩ s (fun i =>
        decide (i.wave.count 0 ≤ Nat.min (lane32 (i.srcB s) (lowest i.act)).toNat 63)) &&
      issues 0x390 ⟨1, none, 0, .none, .none, .none, .none, some 1⟩ s (fun i => i.act != 0 && !(i.srcB s).isEmpty &&
        decide (Nat.min (lane32 (i.srcB s) (lowest i.act)).toNat 63 < i.wave.count 0))) = true := by
  decide +kernel

/-- A mapping of a page that no entry translates, one sector of it filled, with this mask. -/
def mappedOut (mask : BitVec 64) : State :=
  (paged.modTeam 1 fun t => { t with maps := [⟨0x800, 0x70000, 256, [(0x20, ⟨true, mask, 0, 0, 0⟩)]⟩] }).modWave 1 0 fun w => put (put w 4 0x70000 0) 5 0 0

/-- The sectors of the mapping that a subset's address names. -/
def ownSecs (i : Iss) (s : State) : List Nat := (i.team.maps.find? fun x => x.g == i.ea s (lowest i.act)).elim [] fun x => x.sec.map (·.1)

/-- CacheAndStashControl: CCTL on global lines; SMAP.map of 256 bytes; the others with no store queued. -/
theorem witness_cache_control :
    ([0, 1, 2, 3, 4].all fun m => meets 0x320 ⟨1, none, m, .none, .p 4, .none, .ord .rc .team .plain 0, none⟩ paged fun i =>
      i.wave.mem != 63 && !i.storesQueued paged) = true ∧
    (let s := readyWith fun w => put (put w 4 0x10200 0) 13 256 0
     meets 0x328 ⟨1, none, 0, .none, .p 4, .p 12, .ord .rc .team .plain 0, none⟩ s fun i =>
      let g := i.ea s (lowest i.act)
      let o := (lane32 (i.srcB s) (lowest i.act)).toNat % 2 ^ 19
      let len := ((vec1 (i.srcB s) 1).val (lowest i.act)).toNat
      decide (g % 256 = 0 ∧ o % 256 = 0 ∧ len % 256 = 0 ∧ len ≠ 0) &&
        (smapCheck i.launch.header.stash i.team.maps g o len).isNone && !i.storesQueued s) = true ∧
    ([0x329, 0x32A].all fun opc => meets opc ⟨1, none, 1, .none, .none, .none, .ord .rc .team .plain 0, none⟩ paged fun i =>
      i.wave.mem != 63 && !i.storesQueued paged) = true ∧
    -- unmapped, with no bytes to write back
    ([paged, mappedOut 0].all fun s => meets 0x328 ⟨1, none, 1, .none, .p 4, .none, .ord .rc .team .plain 0, none⟩ s fun i =>
      i.wave.mem != 63 && !i.storesQueued s && !((ownSecs i s).foldl (fun s x => s.cleanStash i.tid x true i.terms) s).stashMasked i.tid (ownSecs i s)) = true ∧
    ([(0, false), (1, true)].all fun x => [0x329, 0x32A].all fun opc =>
      let s := mappedOut x.1
      meets opc ⟨1, none, 0, .none, .p 4, .none, .ord .rc .team .plain 0, none⟩ s fun i =>
        let dirty := (i.stashTargets s).filter fun x => i.team.dirtyStash.contains x
        i.wave.mem != 63 && !i.storesQueued s && (dirty.foldl (fun s x => s.cleanStash i.tid x false i.terms) s).stashMasked i.tid dirty == x.2) = true ∧
    -- masked bytes over a page that is not there
    (let s := mappedOut 1
     meets 0x328 ⟨1, none, 1, .none, .p 4, .none, .ord .rc .team .plain 0, none⟩ s fun i =>
      i.wave.mem != 63 && !i.storesQueued s && ((ownSecs i s).foldl (fun s x => s.cleanStash i.tid x true i.terms) s).stashMasked i.tid (ownSecs i s)) = true := by
  decide +kernel

/-- CopyCommandsAreHandedOver: each command, with aligned operands and nothing that holds it. -/
theorem witness_copy_commands :
    meets 0x380 ⟨1, none, 0, .none, .v 6, .none, .none, some 1⟩ ready (fun i => (i.cmdBarCheck ready true).isNone && !i.cmdWait ready 1 true &&
      !((ready.core i.team.core).cmds.any fun _ => true)) = true ∧
    meets 0x381 ⟨1, none, 0, .none, .p 4, .none, .none, some 1⟩ ready (fun i =>
      decide ((lane64 (i.srcA ready) (lowest i.act)).toNat % 64 = 0) && !i.cmdWait ready 1 false) = true ∧
    meets 0x382 ⟨1, none, 2, .none, .p 4, .p 12, .none, some 1⟩ ready (fun i =>
      (i.laneAlign 4 (i.srcA ready) (some (lane64 (i.srcB ready) (lowest i.act)))).isNone && (i.cmdBarCheck ready true).isNone &&
        !i.cmdWait ready 1 true) = true ∧
    meets 0x383 ⟨1, none, 2, .none, .p 4, .p 12, .none, some 1⟩ ready (fun i =>
      (i.laneAlign 4 (i.srcA ready) (some (lane64 (i.srcB ready) (lowest i.act)))).isNone && (i.cmdBarCheck ready true).isNone &&
        !i.cmdWait ready 1 true) = true ∧
    ([0x384, 0x385].all fun opc => meets opc ⟨1, none, 0, .none, .p 4, .p 12, .none, some 0x4000000001⟩ ready fun i =>
      let a := lane64 (i.srcA ready) (lowest i.act)
      let b := lane64 (i.srcB ready) (lowest i.act)
      decide (a.toNat % 64 = 0 ∧ b.toNat % 64 = 0) && apertureOf a.toNat == .global && apertureOf b.toNat == .global &&
        (i.cmdBarCheck ready false).isNone && !i.cmdWait ready 3 true) = true := by
  decide +kernel

/-- A ring of 4 entries at offset 1024 of the team's stash: RINGINIT's header. -/
def ringTeam : Team := ringInit theTeam 1024 4

/-- ChannelInstructionsComplete: RINGINIT of 64 entries. RingPushFillsOneEntry: a new ring, and one whose TAIL is about to wrap. -/
theorem witness_rings_of_channels :
    meets 0x39A ⟨1, none, 0, .none, .none, .none, .none, some 0x4003⟩ ready (fun i =>
      decide (1024 + 64 + 144 * 64 ≤ i.launch.header.stash) && !ready.ringReserved i.tid i.team.core 1024) = true ∧
    (1 ≤ ringNent ringTeam 1024 ∧ ringNent ringTeam 1024 ≤ 64 ∧ 0 < ringFree ringTeam 1024 ∧ ringFull ringTeam 1024 (ringTail ringTeam 1024) = false) ∧
    (let t := ringTeam.stashWrite 1028 (toLe 4 0xFFFFFFFF)
     let t := t.stashWrite 1040 (toLe 8 8)
     1 ≤ ringNent t 1024 ∧ ringTail t 1024 = 0xFFFFFFFF ∧ 0 < ringFree t 1024 ∧ ringFull t 1024 (ringTail t 1024) = false) := by
  decide +kernel

/-- An object that BINIT has left, with one arrival expected. -/
def object : List Byte := barInit 1 0 0 0 false

/-- BarrierObjectOperations: an arrival below the targets, and one that reaches them. -/
theorem witness_objects :
    (barInit 2 0 0 0 false).length = 64 ∧ barValid (barInit 2 0 0 0 false) = true ∧
    ¬ (leAt (barInit 2 0 0 0 false) 4 4 ≤ leAt (barInit 2 0 0 0 false) 8 4 + 1) ∧
    (0 < leAt object 4 4 ∧ leAt object 8 4 + 1 = leAt object 4 4 ∧ leAt object 24 8 + 0 = leAt object 16 4 + (leAt object 20 4 + 0)) := by
  decide +kernel

/-- Bytes stored at stash offset 0x800. -/
def objectAt (bs : List Byte) : State := stashed.modTeam 1 fun t => t.stashWrite 0x800 bs

def barGoes (i : Iss) (s : State) (p : Piece) (rel : Bool) : Bool :=
  let c := s.core i.team.core
  !i.accessWait s .atomic [] ((maskLanes i.act).map fun l => { p with lane := l }) && !(linesOf [p.place]).any (fun l => s.lineDirty i.team.core i.tid l) &&
    !(linesOf [p.place]).any (fun l => c.lineOut l) && (!rel || (s.release i s.nextOp allDoms i.scope).isNone)

/-- BarrierInstructionsStart: each instruction on an object in the stash and on one at its home slice. -/
theorem witness_barriers :
    ([objectAt object, paged].all fun s =>
      let s := s.modWave 1 0 fun w => put w 8 1 0
      [(0x3C0, (0 : BitVec 5), Opnd.none, Opnd.b4 8, true, true), (0x3C1, 0, .v 9, .none, true, true), (0x3C1, 3, .v 9, .v 8, true, true),
       (0x3C2, 0, .none, .v 8, true, true), (0x3C2, 1, .none, .v 8, true, true), (0x3C4, 0, .v 9, .v 8, false, false), (0x3C4, 1, .v 9, .none, false, false),
       (0x3C5, 0, .none, .none, true, true)].all fun x =>
        meets x.1 ⟨1, none, x.2.1, x.2.2.1, .p 4, x.2.2.2.1, .ord .rc .core .plain 0, none⟩ s fun i =>
          match i.barObject s x.2.2.2.2.1 with
          | .ok (as, p) => barGoes i (s.fillTlbs i as) p x.2.2.2.2.2 && !p.place.isPeer && i.chans == [] &&
              (match p.place.pa? with | some (pa, _) => (s.homeOf (pa / 256)).isSome | none => true) &&
              (x.1 != 0x3C0 || (vec1 (i.srcB s) 0).val (lowest i.act) != 0)
          | .error _ => false) = true := by
  decide +kernel

/-- BwaitWaitsForItsPhase: phase 0 before and after it has passed, in the stash; an invalid object at a slice. -/
theorem witness_bwait :
    ([(objectAt object, false), (objectAt (barArrive object 1 0 0 none).1, true), (paged, false)].all fun x =>
      meets 0x3C3 ⟨1, none, 0, .none, .p 4, .v 8, .ord .rc .core .plain 0, none⟩ x.1 fun i =>
        match i.barObject x.1 false with
        | .ok (as, p) =>
          let s1 := x.1.fillTlbs i as
          let o : List Byte := match p.place with
            | .stash off => i.team.stashRead off 64
            | pl => match pl.pa? with | some (pa, key) => (s1.sliceObject pa key i.terms).2 | none => []
          !p.place.isPeer && ((s1.core i.team.core).ownStores i.tid i.wid).isEmpty && i.wave.ops.isEmpty && i.chans == [] &&
            (match p.place.pa? with
             | some (pa, _) => !s1.lineDirty i.team.core i.tid (pa / 256) && !(s1.core i.team.core).lineOut (pa / 256)
             | none => true) &&
            decide ((barValid o && phasePassed (barPhase o) 0) = x.2)
        | .error _ => false) = true := by
  decide +kernel

/-- HandlerAndSystemInstructions: inside a handler with aligned resume PCs; outside one. -/
theorem witness_handlers :
    ([0x3E0, 0x3E2].all fun opc =>
      let f : Form := ⟨1, none, 0, .none, .none, if opc = 0x3E2 then .p 12 else .none, .none, none⟩
      (meets opc f (inHandler 0xFFFFFFFF) fun i => i.wave.trapped && i.act &&& ~~~i.wave.tmask == 0) &&
        meets opc f ready fun i => !i.wave.trapped) = true ∧
    meets 0x3E3 ⟨1, none, 1, .p 10, .none, .none, .none, none⟩ ready (fun i => !i.owesDigest ready) = true := by
  decide +kernel

/-- Lane 0 of wave 0 alone, with its team's child slots. -/
def leading (kids : List ChildSlot) : State :=
  ({ stashed with cur := some ⟨1, 0, 0x10000, 1, 0, 0⟩ } : State).modTeam 1 fun t =>
    { t.modWave 0 fun w => { w with preds := w.preds.set 0 1 } with kids := kids ++ List.replicate (16 - kids.length) ⟨0, .free⟩ }

def glaunch : Form := ⟨1, some (0, false), 0, .v 9, .p 4, .none, .none, none⟩
def gjoin (m : BitVec 5) : Form := ⟨1, some (0, false), m, .v 9, .none, .none, .none, some 0⟩

/-- The packet of a GLAUNCH: whether its access passes with nothing that holds it, and whether a piece of it lies outside the stash. -/
def packetAway (i : Iss) (s : State) (acc : Acc) : Option Bool :=
  let as : List LaneAcc := [⟨0, i.ea s 0, 128, acc⟩]
  match i.packetRead.verdict s as ⟨true, false, false⟩ with
  | .ok ps => if loadGoes i.packetRead (s.fillTlbs i as) as ps then some (ps.any fun p => !p.place.isStash) else none
  | .error _ => none

/-- Offset 0 of PEER entry 0, which names an export of package n; its exporter has allowed the read. -/
def awayPacket (n : Nat) : State :=
  let s := ((leading []).modWave 1 0 fun w => put (put w 4 0 0) 5 0xFD000000 0).modCtx 0 fun c => { c with now := { c.now with peertab := 0x18000 } }
  { s with mem := Memory.writeN s.mem 0x18000 (toLe 8 (n * 2 ^ 55) ++ toLe 8 0x1000 ++ toLe 8 3) }.modCore 0 fun c =>
    { c with probes := [⟨1, 0, 1, n, 0, 0, 0, 0, 128, true, false, some (some (0, []))⟩] }

/-- Lane 0 of the team as it accesses memory. -/
def leaderWho : Who := ⟨0, 0, 0, theLaunch.header.floor, theLaunch.header.priv, theLaunch.header.stash, theTeam.privBase, theTeam.maps, 0, 0, false⟩

theorem access_peer (s : State) (w : Who) (need : Need) (d : Dom) :
    s.access w 0xFD00000000000000 128 true need d = s.peerPiece w 0xFD00000000000000 128 need (Dom.rank d) := by
  unfold State.access State.accessPart
  rw [if_neg (by decide)]
  dsimp only
  rw [if_neg (by decide), show apertureOf 0xFD00000000000000 = .peer by decide]

theorem access_away (n : Nat) (h : n ≠ Config.packageNumber) (hn : n = 0 ∨ n = 1) :
    (awayPacket n).access leaderWho 0xFD00000000000000 128 true ⟨true, false, false⟩ .sc = .ok [(0, 128, .remote n 0 0 0 0 [])] := by
  rw [access_peer]
  unfold State.peerPiece
  dsimp only
  rcases hn with rfl | rfl
  all_goals
    rw [if_neg (by decide +kernel), if_neg (by decide +kernel), if_neg (fun e => h (by rw [← e]; decide +kernel))]
    decide +kernel

/-- ChildGridInstructions (for a packet in another package with `access_away`): other lanes; 16 live children; a packet in the stash and one in another package; a free, live and retired
slot. -/
theorem witness_children :
    ([0x020, 0x021].all fun opc => meets opc ⟨1, none, 0, .v 9, if opc = 0x20 then .p 4 else .none, .none, .none, if opc = 0x20 then none else some 0⟩ ready
      fun i => i.act != 1) = true ∧
    (let s := leading (List.replicate 16 ⟨1, .live 9⟩)
     meets 0x020 glaunch s fun i => i.wid == 0 && i.act == 1 && decide (i.launch.depth < 10 ∧ i.ea s 0 % 128 = 0 ∧ 16 ≤ i.team.liveKids)) = true ∧
    -- at depth 10, and with 16,384 live children in the package
    (let s := (leading []).modLaunch 1 fun l => { l with depth := 10 }
     meets 0x020 glaunch s fun i => i.wid == 0 && i.act == 1 && decide (10 ≤ i.launch.depth)) = true ∧
    (let s : State := { leading [] with launches := (1, theLaunch) :: List.replicate 16384 (2, { theLaunch with parent := some (9, 0) }) }
     meets 0x020 glaunch s fun i => i.wid == 0 && i.act == 1 && decide (i.launch.depth < 10 ∧ i.ea s 0 % 128 = 0 ∧ 16384 ≤ s.liveKids)) = true ∧
    (let s := leading []
     meets 0x020 glaunch s fun i => i.wid == 0 && i.act == 1 && decide (i.launch.depth < 10 ∧ i.ea s 0 % 128 = 0 ∧ i.team.liveKids < 16 ∧ s.liveKids < 16384) &&
      (s.release i s.nextOp allDoms .pkg).isNone &&
      decide (packetAway i s (s.access (i.who 0) (i.ea s 0) 128 true ⟨true, false, false⟩ .sc) = some false)) = true ∧
    (let s := (leading []).modWave 1 0 fun w => put (put w 4 0x10100 0) 5 0 0
     meets 0x020 glaunch s fun i => i.wid == 0 && i.act == 1 && decide (i.launch.depth < 10 ∧ i.ea s 0 % 128 = 0 ∧ i.team.liveKids < 16 ∧ s.liveKids < 16384) &&
      (s.release i s.nextOp allDoms .pkg).isNone &&
      decide (packetAway i s (s.access (i.who 0) (i.ea s 0) 128 true ⟨true, false, false⟩ .sc) = some true)) = true ∧
    ([0, 1].all fun n => let s := awayPacket n
     meets 0x020 glaunch s fun i => i.wid == 0 && i.act == 1 && decide (i.launch.depth < 10 ∧ i.ea s 0 % 128 = 0 ∧ i.team.liveKids < 16 ∧ s.liveKids < 16384) &&
      (s.release i s.nextOp allDoms .pkg).isNone && decide (i.who 0 = leaderWho ∧ i.ea s 0 = 0xFD00000000000000) &&
      decide (packetAway i s (.ok [(0, 128, .remote n 0 0 0 0 [])]) = some true)) = true ∧
    ([(ChildState.free, (0 : BitVec 5)), (.live 9, 0), (.live 9, 1), (.retired 5, 0)].all fun x =>
      let s := leading [⟨1, x.1⟩]
      meets 0x021 (gjoin x.2) s fun i => i.wid == 0 && i.act == 1 && (i.joinSlot s).2.2 && decide ((i.joinSlot s).2.1.st = x.1) && i.chans == []) = true := by
  decide +kernel

/-! ## Witnesses and results: the events of the cores, the fabric and the home slices

For each clause a state that meets its premises; the same line tests what the event then leaves there. -/

/-- An event answers a next state that passes a test. -/
def gives (ev : Instr) (s : State) (p : State → Bool) : Bool :=
  match exec ev s with
  | .next u => p u
  | _ => false

/-- An operation in flight that writes 5 to register 9. -/
def landing : Op := { flying with dst := .v 9, regs := [9], vals := [Vec.splat ⟨5, 0⟩] }

/-- Whether an operation meets the premises of OperationsRetire, and its event retires it: register 9 holds its value. -/
def lands (o : Op) (ev : Instr) (sq : List QStore := []) : Bool :=
  let s := (readyWith fun w => { w with ops := [o] }).modCore 0 fun c => { c with sq := [(0, sq)] }
  (match s.opIss 1 0 o with
   | some i => s.dstRoom i o.pops (if o.kind = .glaunch then 1 else o.withResults.vals.length)
   | none => false) &&
    (s.takeReply 1 0 o.id).isNone && gives ev s fun u => match u.wave? 1 0 with
      | some w => w.ops.all (·.ready) && (w.vregs.getD 8 []).all (· == Lane.zero) &&
          (o.kind == .glaunch || w.vregs.getD 9 [] == (o.withResults.vals.headD Vec.zero))
      | none => false

/-- OperationsRetire: each kind of operation. -/
theorem witness_retirements :
    lands landing (.subsetRetirement 1 0 7) = true ∧
    lands { landing with kind := .load 3, pieces := [⟨0, 0, 4, .stash 0, 0⟩], got := [(0, 0, [1, 2, 3, 4])] } (.loadDataArrival 1 0 7) = true ∧
    lands { landing with kind := .scld true, pieces := [⟨0, 0, 4, .stash 0, 0⟩], got := [(0, 0, [1, 2, 3, 4])] } (.loadDataArrival 1 0 7) = true ∧
    lands { landing with kind := .load 3, isRemote := true } (.remoteReplyArrival 1 0 7) = true ∧
    lands { landing with kind := .glaunch, isRemote := true } (.remoteReplyArrival 1 0 7) = true ∧
    ([OpKind.red, .writeback].all fun k => lands { landing with kind := k, dst := .none, vals := [] } (.storeAck 1 0 7)) = true ∧
    (let e : QStore := ⟨1, 0, 7, .sc, .team, .plain, false, [(0, .stash 0, [1])], [], true⟩
     lands { landing with kind := .store, dst := .none, vals := [] } (.storeAck 1 0 7) [e] = true ∧
       ((readyWith fun w => w).modCore 0 fun c => { c with sq := [(0, [e])] }).entryOf 1 0 7 = some (0, e)) ∧
    lands { landing with kind := .atom 0, got := [(0, 0, [9, 0, 0, 0])] } (.atomicReply 1 0 7) = true ∧
    lands { landing with kind := .ring false, got := [(0, 0, [9, 0, 0, 0, 0])] } (.ringAck 1 0 7) = true ∧
    lands { landing with kind := .barrier true, got := [(0, 0, [9, 0, 0, 0])] } (.barrierReply 1 0 7) = true ∧
    lands { landing with kind := .matrix } (.mmaComplete 1 0 7) = true ∧
    (lands { landing with kind := .fence .rc none .pkg true, dst := .none, vals := [] } (.fenceComplete 1 0 7) = true ∧
     (let o : Op := { landing with kind := .fence .rc none .pkg true }
      let s := readyWith fun w => { w with ops := [o] }
      (match s.opIss 1 0 o with | some i => (s.release i o.id [.rc] .pkg).isNone | none => false) = true)) := by
  decide +kernel

/-- A store queue of core 0 with one entry. -/
def queued (dom : Dom) (pl : Place) : State :=
  ready.modCore 0 fun c => { c with sq := [(netOf dom, [⟨1, 0, 7, dom, .team, .plain, false, [(0, pl, [1, 2, 3, 4])], [], false⟩])] }

/-- Whether a store of a domain may leave its queue, and its release answers a state that passes a test. -/
def released (s : State) (d : Dom) (p : State → Bool) : Bool :=
  let q := (s.core 0).sq.getD (netOf d) []
  (q.find? fun x => s.mayRelease 0 q x).any (·.dom == d) && (s.core 0).wbOut.isEmpty && gives (.storeQueueRelease 0 d) s p

/-- The same store with its entry changed. -/
def queuedAs (dom : Dom) (f : QStore → QStore) : State :=
  (queued dom (.phys 0x1013C 0)).modCore 0 fun c => { c with sq := c.sq.map fun e => (e.1, e.2.map f) }

/-- StoreReleaseWritesItsBytes: to the stash, across its sectors; in two steps when second 8-byte parts follow; to the end of a sector
of the L1, and of a mapped range, in RC and BLK; in a request to the home slice, in SC, TSO and CAU and past the L1. -/
theorem witness_store_release :
    ([Dom.sc, .tso, .cau, .rc, .blk].all fun d => released (queued d (.stash 0x83E)) d fun u =>
        (u.core 0).sq.getD (netOf d) [] == [] && ((u.teams.get? 1).elim [] fun t => t.stashRead 0x83D 6) == [0, 1, 2, 3, 4, 0]) = true ∧
    ([Dom.sc, .rc].all fun d => released
      (queuedAs d fun e => { e with parts := [(0, .stash 0x800, [1]), (1, .stash 0x808, [2])], rest := [(0, .stash 0x810, [3])] }) d fun u =>
        ((u.core 0).sq.getD (netOf d) []).map (fun x => (x.parts, x.rest.isEmpty)) == [([(0, .stash 0x810, [3])], true)] &&
          ((u.teams.get? 1).elim [] fun t => t.stashRead 0x800 9) == [1, 0, 0, 0, 0, 0, 0, 0, 2]) = true ∧
    ([Dom.rc, .blk].all fun d => ((queued d (.phys 0x1013C 0)).core 0 |>.l1Room 0x101).isSome && released (queued d (.phys 0x1013C 0)) d fun u =>
        (u.core 0).sq.getD (netOf d) [] == [] && (u.core 0).l1Read 0x1013C 4 false == some [1, 2, 3, 4]) = true ∧
    ([Dom.rc, .blk].all fun d => released
      ((queued d (.mapped 0x83C 0x1013C 0)).modTeam 1 fun t => { t with maps := [⟨0x800, 0x10100, 0x100, []⟩] }) d fun u =>
        (u.core 0).sq.getD (netOf d) [] == [] && (u.teams.get? 1).any fun t => t.stashRead 0x83C 4 == [1, 2, 3, 4] &&
          (t.mapAt 0x20).any fun x => (if d = .blk then x.2.blkMask else x.2.rcMask) == 0xF000000000000000) = true ∧
    ([(Dom.sc, false), (.tso, false), (.cau, false), (.rc, true), (.blk, true)].all fun x =>
      let s := queuedAs x.1 fun e => { e with hnol1 := x.2 }
      !s.lineDirty 0 1 0x101 && s.homeOf 0x101 == some 0 && released s x.1 fun u =>
        ((u.core 0).sq.getD (netOf x.1) []).map QStore.sent == [true] && (u.station (stationOf 0)).queue.any fun y =>
          y.1 == 0 && y.2.line == 0x101 && decide (y.2.kind = .write (0xF <<< 0x3C) (0x04030201 <<< 0x1E0))) = true := by
  decide +kernel

/-- Core 0 belongs to partition 0, and its wave is active. -/
def running : State := ({ (readyWith fun w => { w with active := true }) with cur := none } : State).modSpindle 0 fun d => { d with part := 0 }

/-- IssueAndSwapEvents: a group for an active wave; sleeping lanes; a wave that has waited 1024 cycles; a swap, the first and a later one. -/
theorem witness_issue_events :
    (running.spindleRuns 0 && (running.activeWaves 0).any (fun x => x.seed.isSome) && gives (.issueGroupBuild 0 1) running fun u =>
      u.group == [⟨1, 0, 0x10000, 0xFFFFFFFF, 0, 0⟩]) = true ∧
    -- lane 3 at another PC: its time is over although that of lane 2 is not
    (gives (.sleepExpiry 1 0) { (readyWith fun w => { w with sleepUntil := [3, 4, 5, 4], pcs := [0x10000, 0x10000, 0x10000, 0x10008] }) with tsc := 4 }
      fun u => match u.wave? 1 0 with
      | some w => w.sleepUntil.take 4 == [3, 4, 5, 0]
      | none => false) = true ∧
    (let s := (readyWith fun w => { w with eligibleSince := some 0 }).modSpindle 0 fun d => { d with clkTicks := 6 * 1024 }
     ((s.noteEligible 0).coreWaves 0).any (fun x => !x.2.2.active && x.2.2.eligibleSince == some 0) &&
       gives (.swapTrigger 0) s fun u => (u.core 0).swapWanted) = true ∧
    ([none, some 65].all fun last =>
      let s := (running.modSpindle 0 fun d => { d with clkTicks := 6 * 129 }).modCore 0 fun c => { c with swapWanted := true, lastSwap := last }
      gives (.swap 0) s fun u => (u.core 0).swaps == 1 && (u.core 0).lastSwap == some 129 && !(u.core 0).swapWanted) = true := by
  decide +kernel

/-- A write of the whole line 0x101 in RC, from core 0; a read of its sector 0. -/
def aWrite (asker : Asker) : Req :=
  ⟨40, 0, 0, asker, .rc, 0x101, 0, .write (BitVec.allOnes 256) 7, 5, 0, 1024, 0, false, false, 5⟩
def aRead : Req := { aWrite .none with id := 41, kind := .read 1 false }
def aTerms : Terms := ⟨5, 0, 1024, 0, 5⟩
def aSlot : Slot := ⟨3, 9, [aRead], 0⟩
def meshMsg (d : MeshDest) (n : Nat) (m : Msg) : MeshMsg := ⟨d, n, 0, aTerms, 0, false, m⟩

/-- FabricEvents: the last station before the token sends; a slot is good, is bad, is sent again; a message goes to a neighbour (a BLK
message too) and to its slice; a late and a timely request are admitted; a memory socket answers. -/
theorem witness_fabric_events :
    (let s := (ready.modStation 3 fun x => { x with queue := [(2, aRead)] }).modChannel 2 fun c => { c with token := 4 }
     gives (.slotSend 2) s fun u => (u.channel 2).flight == [⟨3, 0, [aRead], 0⟩] && (u.channel 2).token == 5 && (u.station 3).queue == []) = true ∧
    (let s := ready.modChannel 2 fun c => { c with flight := [aSlot] }
     gives (.slotReceive 2 true) s (fun u => (u.slice 2).inq == [aRead] && (u.channel 2).flight == []) &&
       gives (.slotReceive 2 false) s fun u => (u.channel 2).awaiting == [(3, 9)] && (u.slice 2).inq == [] &&
         (u.router 0).out.any fun e => e.2.any fun m => m.dest == .station 3 && m.msg == .resend 2 9) = true ∧
    (let s := ready.modStation 3 fun x => { x with asks := [(2, 9)], sent := [(2, aSlot)] }
     gives (.slotResend 2 3) s fun u => (u.station 3).resend == [(2, aSlot)] && (u.station 3).asks == []) = true ∧
    ([0, 4].all fun n =>
      let m := meshMsg (.slice 90) n (.ack aRead)
      let s := ready.modRouter 0 fun r => { r with out := [(0, [m])] }
      (meshOuts 0).contains 0 && s.routerRoom (routeNext 0 0) (routeOut (routeNext 0 0) m.dest) m && decide (s.tsc.toNat ≤ m.tm.own.toNat) &&
        gives (.routerForward 0 0) s fun u => (u.router 0).out.getD 0 [] == [] && (u.router 1).out.any fun e => e.2.any fun x => x.msg == m.msg) = true ∧
    (let m := meshMsg (.slice 2) 0 (.sockData 2 0x101 0 [(0, 7)])
     let s := ready.modRouter 0 fun r => { r with out := [(7, [m])] }
     gives (.routerForward 0 7) s fun u => (u.slice 2).inbox == [m.msg]) = true ∧
    ([(0, false), (6, true)].all fun x : W64 × Bool =>
      let s := ({ ready with tsc := x.1 } : State).modSlice 0 fun k => { k with inq := [aRead], pos := 255 }
      gives (.sliceAdmission 0) s fun u => (u.slice 0).admitted == [{ aRead with late := x.2 }] && (u.slice 0).inq == [] && (u.slice 0).pos == 0) = true ∧
    (let m := meshMsg (.sock 0) 0 (.sockRead 0 0x101 0 3 false)
     let s := ({ ready with mem := [(0x10140, 9)] } : State).modSock 0 fun x => { x with inq := [m] }
     s.sockUp 0 && gives (.socketAdmission 0) s fun u => (u.sock 0).inq == [] && (u.router 0).out.any fun e => e.2.any fun x =>
       x.dest == .slice 0 && x.msg == .sockData 0 0x101 0 [(0, 0), (1, 9)]) = true := by
  decide +kernel

/-- A team that maps line 0x101 at stash offset 0x800, and one sector of it. -/
def mapping (x : MapSec) : State :=
  ready.modTeam 1 fun t => { t with maps := [⟨0x800, 0x10100, 0x100, [(0x20, x)]⟩], stash := [(0x20, 3)] }

/-- CoherenceEvents: a write without other copies, and what its line then reads; a write whose sharers have answered; invalidations
in SC and RC; a snoop for a line that the filter holds, and its eviction; an L1 eviction; a recall of both kinds. -/
theorem witness_coherence_events :
    (let s := ready.modSlice 0 fun k => { k with admitted := [aWrite (.evict 0 none)] }
     s.homeOf 0x101 == some 0 && s.mapHoldersOf 0x101 == [] && s.copyHolders 0 0x101 (.evict 0 none) == [] &&
       !((s.slice 0).dir.getD 0x101 ⟨0, false⟩).ext && decide ((s.slice 0).taken.length < 32768) && gives (.slicePerform 0) s fun u => (u.slice 0).admitted == [] &&
         u.sectorAt 0x10100 0 == 7 && u.sectorAt 0x10140 0 == 0) = true ∧
    (let s := ready.modSlice 0 fun k => { k with pend := [⟨3, aWrite .none, [5], [], false, none, 0⟩], inbox := [.invalAck 0 3 5] }
     (((s.absorb 0).slice 0).pend.find? fun p => p.id == 3 && p.cores.isEmpty && p.links.isEmpty).isSome &&
       gives (.writePropagated 0 3) s fun u => (u.slice 0).pend == []) = true ∧
    ([Dom.sc, .rc].all fun d =>
      let s := ready.modCore 0 fun c => { c with inbox := [.inval 0 3 0x101 d aTerms], l1 := [(0x101, ⟨0, [(0, ⟨true, 7, 0, 0, 0, []⟩)], 0⟩)] }
      gives (.invalidationArrival 0) s fun u => (u.core 0).inbox == [] &&
        (if d = .sc then (u.core 0).l1 == [] else (u.core 0).held.getD 3 [] == [(0, 3, 0x101, aTerms)])) = true ∧
    ([[0x101], []].all fun f =>
      let s := ready.modLink 2 fun k => { k with snoop := f, inbox := [.snoop 0 3 0x101 0 2 aTerms] }
      gives (.extSnoop 2) s fun u => (u.link 2).inbox == [] &&
        if f == [] then (u.router (linkRouter 2)).out.any fun e => e.2.any fun m => m.dest == .slice 0 && m.msg == .snoopAck 0 3 2
        else (u.link 2).sendQ.map (fun m => (m.msg.body, m.deadline)) == [(.snoop 0x101, 5)]) = true ∧
    (let s := ready.modLink 2 fun k => { k with snoop := [0x101] }
     gives (.snoopFilterEvict 2 0x101) s fun u => ((u.link 2).sendQ.map fun m => m.msg.body) == [.snoop 0x101]) = true ∧
    (let s := ready.modCore 0 fun c => { c with l1 := [(0x101, ⟨0, [(3, ⟨true, 7, 1, 0, 0, []⟩)], 0⟩)] }
     gives (.l1Eviction 0 0x101 3) s fun u => (u.core 0).l1Sector (4 * 0x101 + 3) == none && (u.core 0).wbOut != []) = true ∧
    ([true, false].all fun w => [0, 1].all fun mask =>
      let s := mapping ⟨true, mask, 0, 0x10100, 0⟩
      (match s.teams.get? 1 with
       | some t => (t.mapAt 0x20).isSome && (match s.physPiece
            ⟨theLaunch.part, t.vctx theLaunch.ctx, t.core, theLaunch.header.floor, theLaunch.header.priv, theLaunch.header.stash, t.privBase, t.maps, 0, 0, true⟩
            0x10100 ⟨false, true, false⟩ 1 0 with
          | .ok [(_, _, .phys 0x10100 0)] => true
          | _ => false)
       | none => false) && gives (.stashRecall 1 0x101 w) s fun u =>
      (match u.teams.get? 1 with
       | some t => (t.maps.map fun m => ((m.sec.get? 0x20).elim 0 MapSec.mask, (m.sec.get? 0x20).isNone)) == [(0, w)] && t.stash == [(0x20, 3)]
       | none => false) && (mask == 0 || (u.station (stationOf 0)).queue.any fun y =>
         y.1 == 0 && y.2.asker == .evict 0 (some 1) && y.2.line == 0x101 && decide (y.2.kind = .write 1 3))) = true := by
  decide +kernel

/-- A subset blocked on phase 0 of the object at 0x10140, which has passed. -/
def blocked (reg : Bool) : State :=
  let o := (barArrive object 1 0 0 none).1
  let s := readyWith fun w => w.blockOn 0xFFFFFFFF 0x10000 (.bwait false 0x10140 0)
  (({ s with mem := Memory.writeN s.mem 0x10140 o } : State).modWave 1 0 fun w => { w with waits := w.waits.map fun x => { x with registered := reg } }).modCore 0
    fun c => { c with inbox := [.wake 1 0 0xFFFFFFFF] }

/-- BarrierWakes: a wake arrives, a registration is retried, and a boost reaches the owner's waves. -/
theorem witness_barrier_events :
    (let woken (u : State) : Bool := match u.wave? 1 0 with
      | some w => w.waits == [] && w.threads.all (· == .ready)
      | none => false
     (blocked true).barPa 1 0x10140 == some (0x10140, 0) && (blocked true).readSeen 0x10140 64 0 == (barArrive object 1 0 0 none).1 && barHolds ((blocked true).readSeen 0x10140 64 0) 0 &&
       gives (.wakeArrival 0) (blocked true) woken && gives (.registrationRetry 1 0) (blocked false) woken) = true ∧
    (let o := barInit 2 0 1 (BitVec.ofNat 64 0) true
     let s := ({ ready with mem := Memory.writeN ready.mem 0x10140 (barLend o 77) } : State).modSlice 0 fun k =>
       { k with boosts := [(0x10140, 0, 1, 77)], regs := [⟨0x101, 0x40, 0, 1, 0, 1, 77, true⟩] }
     gives (.deadlineBoost 0) s fun u => (u.slice 0).boosts == [] && match u.wave? 1 0 with
       | some w => w.inherited == 77 && u.lent 1 0 == 77
       | none => false) = true := by
  decide +kernel

/-! ## Witnesses and results: engines, queues, teams, faults, links and the host -/

/-- A command of the team's wave at port 0: a copy of 64 bytes from 0x10100 to 0x10200. -/
def copying : Cmd where
  id := 7
  port := 0
  team := 1
  wave := 0
  lane := 0
  pc := 0x10000
  kind := .rcopy
  lanes := []
  src := 0x10100
  dst := 0x10200
  count := 1
  pos := 0
  esize := 64
  sdom := .sc
  ddom := .sc
  scope := .pkg
  bar := none
  total := 64
  ring := none
  stream := []
  reserved := []
  filled := 0
  etag := 0
  parked := []
  begun := false
  reads := []
  got := []
  writes := []
  digest := []
  arrived := false
  failed := false

/-- Core 0 holds one command; the byte at 0x10100 is 9, and the stash holds an empty ring of 4 entries. -/
def engine (c : Cmd) : State :=
  (({ ready with mem := [(0x10100, 9)] } : State).modTeam 1 fun t => ringInit t 1024 4).modCore 0 fun k =>
    { k with cmds := [c], ranges := [⟨7, 0x10200, 64, 0x10100, 64, none⟩] }

/-- A descriptor of one dimension of one 4-byte element. -/
def oneElement : List Byte :=
  toLe 8 0x10100 ++ toLe 8 0x10200 ++ [1, 2, 0, 0] ++ zeros 44 ++ toLe 4 1 ++ toLe 4 1 ++ zeros 24 ++ zeros 480

/-- What a command has become, with a further test of the state. -/
def engineGives (ev : Instr) (s : State) (p : State → Cmd → Bool) : Bool :=
  gives ev s fun u => match (u.core 0).cmds with
    | [c] => p u c
    | _ => false

/-- Whether nothing stands before a command's next element, or the delivery of one. -/
def quiet (s : State) (c : Cmd) : Bool :=
  (takeFirst (fun m : Msg => (m.cmdPart 0 c.id).isSome && s.canTake c.team c.wave m) (s.core 0).inbox).isNone && c.parked.isEmpty &&
    c.reads.isEmpty && (s.core 0).cmdReady c && decide (c.pos < c.count) && !(s.core 0).stopped &&
    (s.wave? c.team c.wave).elim false fun w => !cmdAfter (s.cmdsOf c.team) w c

/-- The 64 bytes of the element. -/
def nines : List Byte := List.replicate 64 9

/-- EngineEvents, an element: its source asked for, or zeros; the answer to a read, and to a write; bytes that are written, and that
join a stream. -/
theorem witness_engine_elements :
    (let s := engine copying
     let s1 := s.undefinePages
     (match s1.engineAccess 0 copying 0 0x10100 copying.size ⟨true, false, false⟩ .sc with
      | .ok ps => (linesOf (ps.map (·.2.2))).all (fun l => s1.pendingRoom 1 0 l) &&
          (s1.engineClean 0 copying ((ps.filter fun p => !s1.engineHas copying p).map (·.2.2))).isNone
      | .error _ => false) &&
       quiet s copying && copying.element == (.inl 0x10100, 0x10200, 0) && engineGives (.engineAccess 0 7) s fun _ c =>
         c.begun && c.pos == 0 && c.reads.map (fun p => (p.off, p.len, p.addr)) == [(0, 64, 0x10100)] && c.got == []) = true ∧
    (let c := { copying with kind := .gather, lanes := [(0, none)] }
     quiet (engine c) c && c.element == (.inr (zeros 64), 0, 0) && engineGives (.engineAccess 0 7) (engine c) fun _ c =>
       c.begun && c.got == [(0, zeros 64)]) = true ∧
    (let rq (k : ReqKind) : Req := { aWrite (.cmd 0 7 50) with id := 50, kind := k }
     let rd : Cmd := { copying with begun := true, reads := [⟨50, 0, 0, 64, 1, 0x10100, 0x10100, false⟩] }
     let wr : Cmd := { copying with pos := 1, writes := [⟨50, 0, 0, 64, 1, 0x10200, 0x10200, false⟩] }
     let data : Msg := .readReply (rq (.read 1 false)) [(0, Sector.ofBytes nines)] false
     let ack : Msg := .ack (rq (.write 1 9))
     (data.cmdPart 0 7 == some 50 && ack.cmdPart 0 7 == some 50) &&
       engineGives (.engineAccess 0 7) ((engine rd).modCore 0 fun k => { k with inbox := [data] }) (fun u c =>
         (u.core 0).inbox == [] && c.reads == [] && c.got == [(0, nines)]) &&
       engineGives (.engineAccess 0 7) ((engine wr).modCore 0 fun k => { k with inbox := [ack] }) fun u c =>
         (u.core 0).inbox == [] && c.writes == []) = true ∧
    (let c : Cmd := { copying with begun := true, got := [(0, nines)] }
     let s1 := (engine c).undefinePages
     (match s1.engineAccess 0 c c.element.2.2 c.element.2.1 c.bytes.length ⟨false, true, false⟩ c.ddom with
      | .ok qs => !(qs.any fun q => c.clash q) && (s1.engineClean 0 c ((qs.map (·.2.2)).filter fun p => !c.local_ p)).isNone
      | .error _ => false) && c.writes.isEmpty && quiet (engine c) c && engineGives (.engineAccess 0 7) (engine c) fun u c =>
         c.pos == 1 && !c.begun && c.writes.map (fun p => (p.addr, p.len)) == [(0x10200, 64)] &&
           (u.station (stationOf 0)).queue.any fun x => x.2.line == 0x102 && decide (x.2.kind = .write (BitVec.allOnes 64).toNat (leNat nines))) = true ∧
    (let c : Cmd := { copying with kind := .gather, lanes := [(0, some 0x10100)], ring := some 1024, begun := true, got := [(0, nines)] }
     quiet (engine c) c && engineGives (.engineAccess 0 7) (engine c) fun _ c => c.pos == 1 && !c.begun && c.stream == nines) = true := by
  decide +kernel

/-- EngineEvents, the end of a command: a descriptor into either slot; a command that is over, and one that owes its arrival; a
stream's first entry reserved, and its last filled. -/
theorem witness_engine_ends :
    ([true, false].all fun slot =>
      let c := { copying with kind := .tdesc slot, count := 9, pos := 9, stream := oneElement }
      descValid (BitVec.ofNat 4608 (leNat oneElement)) && gives (.tdescComplete 0 7) (engine c) fun u => (u.core 0).cmds == [] &&
        match u.wave? 1 0 with
        | some w => (if slot then w.desc1 else w.desc0) == some (BitVec.ofNat 4608 (leNat oneElement))
        | none => false) = true ∧
    (let c := { copying with pos := 1 }
     c.written && (engine c).teams.all (fun t => t.2.dirtyStash == []) && ((engine c).core 0).wbOut == [] &&
       gives (.copyComplete 0 7) (engine c) fun u => (u.core 0).cmds == [] && (u.core 0).ranges == []) = true ∧
    -- the arrival at an object of its home slice
    (let c : Cmd := { copying with pos := 1, bar := some 0x10240 }
     let s := engine c
     ((s.cmdIss c).bind fun i => s.release i c.id allDoms c.scope).isNone &&
       (match s.engineAccess 0 c 0 0x10240 64 ⟨true, true, false⟩ .sc with
        | .ok [(_, _, .phys pa key)] => pa == 0x10240 && (s.engineClean 0 c [.phys pa key]).isNone
        | _ => false) &&
       engineGives (.copyComplete 0 7) s fun _ c => c.arrived && c.writes.map CmdPart.va == [0x10240]) = true ∧
    (let c : Cmd := { copying with pos := 1, bar := some 0xFE00000000000800 }
     let s := (engine c).modTeam 1 fun t => t.stashWrite 0x800 (barInit 1 64 0 0 false)
     ((s.cmdIss c).bind fun i => s.release i c.id allDoms c.scope).isNone &&
       (match s.engineAccess 0 c 0 0xFE00000000000800 64 ⟨true, true, false⟩ .sc with | .ok [(_, _, .stash 0x800)] => true | _ => false) &&
       engineGives (.copyComplete 0 7) s fun u c => c.arrived && ((u.teams.get? 1).elim 0 fun t => t.stashNat 0x818 8) == 64) = true ∧
    (let c := { copying with kind := .gather, ring := some 1024, total := 200 }
     (match (engine c).teams.get? 1 with | some t => decide (0 < ringFree t 1024) | none => false) && gives (.ringReserve 0 7) (engine c) fun u =>
       (u.core 0).cmds.map Cmd.reserved == [[0]] && ((u.teams.get? 1).elim 0 fun t => ringFree t 1024) == 3) = true ∧
    (let c := { copying with kind := .gather, ring := some 1024, total := 200, reserved := [0, 1], filled := 1, stream := List.replicate 200 5, etag := 3 }
     ((engine c).teams.all fun t => ringNent t.2 1024 == 4 && !ringFull t.2 1024 1) && gives (.ringFill 0 7) (engine c) fun u =>
       (u.core 0).cmds.map Cmd.filled == [2] && (u.teams.get? 1).any fun t => ringFull t 1024 1 &&
         (ringEntry t 1024 1).lane 17 == ⟨0x05050505, 3⟩ && (ringEntry t 1024 1).lane 18 == ⟨0, 3⟩) = true := by
  decide +kernel

/-- A post of partition p for the control block at 0x10100, of a team that is gone; queue 2 holds it. -/
def thePost (p : Nat) (b : Byte) : Post := ⟨9, 0, p, 0x10100, b :: List.replicate 127 0⟩

def posting (mem : List Host.Cell) (p : Nat) (b : Byte) : State :=
  let s : State := { ready with mem := mem, queueOwner := [(2, p)], parts := ready.parts ++ [(1, { Part.reset with pstate := 1 })] }
  s.modQueue 2 fun q => { q with posts := [thePost p b] }

/-- ChannelMemberEvents, a neighbour's entry: it and its core, which runs or is fenced. -/
theorem witness_neighbour_entries :
    ([false, true].all fun f =>
      let s := (ready.modCore 0 fun c => { c with links := [(0, [⟨0, 1, 0, Vec.zero⟩])] }).modSpindle 0 fun x => { x with fenced := f }
      s.linkTurn 0 0 == some 0 && gives (.neighbourEntryArrival 0 0) s fun u =>
        (u.core 0).links.getD 0 [] == [] && (u.core 1).recv.getD (oppositeDir 0) [] == if f then [] else [Vec.zero]) = true := by
  decide +kernel

/-- ChannelMemberEvents, posts that go no further: of a wave that has a store queued; to a block, and to a slot, of another partition;
to a full ring; to a slot that a store is on its way to. -/
theorem witness_posts_held :
    (let s := ((queued .rc (.phys 0x1013C 0)).modWave 1 0 fun w => { w with ops := [{ flying with id := 0, kind := .store, dst := .none, regs := [] }] }).modQueue 2 fun q => { q with posts := [⟨1, 0, 0, 0x10100, []⟩] }
     (s.postRelease ⟨1, 0, 0, 0x10100, []⟩).isSome) = true ∧
    ([(1, 3, 0, 0x10100), (0, 0x40, 0, 0x40000000)].all fun x : Nat × Byte × Nat × Nat =>
      let s := posting [(0x10112, if x.2.1 = 3 then 3 else 0), (0x10113, if x.2.1 = 3 then 0 else x.2.1), (0x10118, 6)] x.1 1
      s.postRelease (thePost x.1 1) == none && !s.withheldAt 0x10100 64 && s.ownerOf x.2.2.2 != x.1 && gives (.queuePost 2) s fun u =>
        (u.queue 2).posts == [] && u.mem == s.mem && (u.part x.1).causes.map (fun r => (r.cause, r.addr.toNat)) == [(.permission, x.2.2.2)]) = true ∧
    (let s := posting [(0x10100, 64), (0x10112, 3), (0x10118, 6)] 0 1
     s.ownerOf 0x10100 == 0 && decide (2 ^ s.readPa 0x10118 1 ≤ s.readPa 0x10100 8 - s.readPa 0x10108 8) && gives (.queuePost 2) s (· == s)) = true ∧
    (let s := (posting [(0x10112, 3), (0x10118, 6)] 0 0).modSlice 0 fun k => { k with inq := [{ aWrite .none with line := 0x300, kind := .write 1 0 }] }
     s.readSeen 0x30000 128 0 == (thePost 0 0).bytes && !s.holdsNow 0x30000 (thePost 0 0).bytes && gives (.queuePost 2) s (· == s)) = true := by
  decide +kernel

/-- ChannelMemberEvents, a post that goes on: the slot is written, and TAIL when it holds the packet. -/
theorem witness_posts :
    (let s := posting [(0x10112, 3), (0x10118, 6)] 0 1
     decide (s.readPa 0x10100 8 - s.readPa 0x10108 8 < 2 ^ s.readPa 0x10118 1) && s.ownerOf 0x30000 == 0 && (s.homeOf 0x300).isSome &&
       s.readSeen 0x30000 128 0 != (thePost 0 1).bytes && gives (.queuePost 2) s fun u =>
         (u.queue 2).posts == [thePost 0 1] && u.readSeen 0x30000 1 0 == [1]) = true ∧
    (let s := posting [(0x10112, 3), (0x10118, 6)] 0 0
     s.holdsNow 0x30000 (thePost 0 0).bytes && (s.homeOf 0x101).isSome && gives (.queuePost 2) s fun u =>
       (u.queue 2).posts == [] && u.readPa 0x10100 8 == 1) = true := by
  decide +kernel

/-- A port with a message to send to partition 0, and one for it received. -/
def withPort : State := ready.modPort 0 fun p => { p with partmask := 1, sendQ := [(0, List.replicate 128 0)] }

/-- A frame that a port makes carries the check sequence of its bytes. -/
theorem frame_checks (p : EthPort) (part : Nat) (bs : List Byte) : ((frameOf p part bs).fcs == frameFcs (frameOf p part bs)) = true := by
  simp [frameOf, frameFcs]

/-- ChannelMemberEvents, frames: a port that is enabled, with a message; its own frame, which it takes in, and one of another type,
which is dropped. -/
theorem witness_frames :
    ((withPort.port 0).sendQ == [(0, List.replicate 128 0)] && (withPort.port 0).enable) = true ∧
    (withPort.port 0).accepts (frameOf (withPort.port 0) 0 (List.replicate 128 0)) = some 0 ∧
    gives (.frameReceive 0 { frameOf (withPort.port 0) 0 (List.replicate 128 0) with etherType := 0 }) withPort (fun u => (u.port 0).rxDrop == 1) = true := by
  refine ⟨by decide +kernel, ?_, by decide +kernel⟩
  unfold EthPort.accepts
  rw [frame_checks]
  decide +kernel

/-- The published check value of the code of a frame's check sequence. -/
theorem test_frame_code : fcs32 ([0x31, 0x32, 0x33, 0x34, 0x35, 0x36, 0x37, 0x38, 0x39].map (BitVec.ofNat 8)) = 0xCBF43926 := by decide +kernel

/-- Queue 1023 of partition 0 in context 5, its control block at 0x10200 and a ring of 64 packets at 0x20000. -/
def withQueue (f : Queue → Queue) : State :=
  let s : State := { ready with mem := [(0x10200, 3), (0x10212, 2), (0x10218, 6), (0x10238, 1)], queueOwner := [(1023, 0)], launches := [], teams := [] }
  (s.modCtx 5 fun c => { c with desc := 1 }).modQueue 1023 fun q =>
    f { q with cbpa := 0x102, ctxValid := true, ctx := 5, tail := 3, ringbase := 0x20000, log2 := 6 }

/-- The queue ENABLED, with its block's bytes and fields of its own chosen so that the named cause of R64 is the lowest. -/
def enabledQueues : List (Byte × State) :=
  let mk (mem : List Host.Cell) (f : Queue → Queue) : State := { withQueue fun q => f { q with qstate := 1 } with mem := mem }
  let two (s : State) (f : Queue → Queue) : State :=
    { (s.modQueue 5 fun q => f { q with qstate := 1 }) with queueOwner := [(1023, 0), (5, 0)] }
  [(1, two (mk [(0x10200, 3), (0x10212, 2), (0x10218, 6), (0x1021A, 255)] id) fun q => { q with memres := 2 }),
   (1, two (mk [(0x10200, 3), (0x10212, 2), (0x10218, 6), (0x1021B, 255)] id) fun q => { q with fabres := 2 }),
   (2, mk [(0x10200, 3), (0x10212, 2), (0x10218, 5)] id), (2, mk [(0x10200, 3), (0x10212, 2), (0x10218, 17)] id),
   (2, mk [(0x10200, 3), (0x10210, 1), (0x10212, 2), (0x10218, 6)] id), (2, mk [(0x10200, 3), (0x10212, 2), (0x10218, 6), (0x1023B, 2)] id),
   (2, mk [(0x10200, 3), (0x10212, 2), (0x10218, 6), (0x1023C, 1)] id),
   (3, mk [(0x10200, 3), (0x10212, 2), (0x10218, 6)] fun q => { q with head := 4 }), (3, mk [(0x10200, 65), (0x10212, 2), (0x10218, 6)] id),
   (3, mk (((List.range 6).map fun k => (0x10200 + k, 0xFF)) ++ [(0x10212, 2), (0x10218, 6)]) fun q => { q with head := 0xFFFFFFFFFFFE }),
   (4, mk [(0x10200, 3), (0x10213, 0x40), (0x10218, 6)] id), (6, mk [(0x10200, 3), (0x10212, 2), (0x10218, 6)] fun q => { q with ctxValid := false }),
   (6, mk [(0x10200, 3), (0x10212, 2), (0x10218, 6)] fun q => { q with ctx := 6 }), (0, mk [(0x10200, 3), (0x10212, 2), (0x10218, 6)] id)]

/-- QueueEvents, the reread of an ENABLED queue: each cause of R64 as the lowest, and none. -/
theorem witness_enabled_rereads :
    (enabledQueues.all fun x => (x.2.queue 1023).qstate == 1 && (x.2.queue 1023).cbpa == 0x102 && gives (.controlBlockReread 1023) x.2 fun u =>
      (u.queue 1023).qerr == x.1 && ((u.queue 1023).qstate == if x.1 = 0 then 1 else 2) &&
        u.readPa 0x10239 2 == if x.1 = 0 then 0 else 2 + 256 * x.1.toNat) = true := by
  decide +kernel

/-- QueueEvents: a reread after QCMD was written and one after no write; an enable that succeeds and one that does not; a disable; a packet consumed; a launch and a child grid
that go on. -/
theorem witness_queue_events :
    ([true, false].all fun b => gives (.controlBlockReread 1023) (withQueue fun q => { q with tail := 0, log2 := 0, cmdWritten := b }) fun u =>
      (u.queue 1023).tail == 3 && (u.queue 1023).log2 == 6 && (u.queue 1023).qcmd == if b then 1 else 0) = true ∧
    (let s := withQueue fun q => { q with qcmd := 1 }
     (s.queueError 1023 true).isNone && gives (.qcmdEnable 1023) s fun u => (u.queue 1023).qstate == 1 && (u.queue 1023).head == 3 &&
       (u.queue 1023).qcmd == 0 && u.readPa 0x10238 2 == 0x0100) = true ∧
    (let s := withQueue fun q => { q with qcmd := 1, log2 := 5 }
     s.queueError 1023 true == some 2 && gives (.qcmdEnable 1023) s fun u => (u.queue 1023).qstate == 2 && (u.queue 1023).qerr == 2 &&
       (u.queue 1023).head == 0) = true ∧
    gives (.qcmdDisable 1023) (withQueue fun q => { q with qcmd := 2, qstate := 1 }) (fun u => (u.queue 1023).qstate == 0 && (u.queue 1023).qcmd == 0) = true ∧
    (let s := withQueue fun q => { q with qstate := 1 }
     s.running (s.queuePart 1023) && (s.ofQueue 1023).isEmpty && gives (.packetConsume 1023) s fun u => (u.queue 1023).head == 1 && u.readPa 0x10208 8 == 1) = true ∧
    ([(0, LaunchState.placing), (1, .coWaiting)].all fun x =>
      let s := ready.modLaunch 1 fun l => { l with st := .waiting, packet := { l.packet with lflags := x.1 } }
      s.dependence 0 0 false == .met && gives (.dependenceSatisfied 1) s fun u => (u.launches.get? 1).elim false fun l => l.st == x.2) = true := by
  decide +kernel

/-- A code object of one GEN wave of 8 registers, its header at 0x10100; slice 0 holds the header's line. -/
def object1 : SliceLine := ⟨0, [(0, ⟨true, 0x80000010000000000000001000000000000000000000000000001000800000000000000000000000000000000000002000000000001000001315A4C50, 0⟩), (1, ⟨true, 0, 0⟩), (2, ⟨true, 0, 0⟩), (3, ⟨true, 0, 0⟩)]⟩

/-- Context 5's table: its entries for the page 0x10000, at 0x30000, 0x34000 and 0x38000. -/
def tables : List Host.Cell :=
  toCells 0x30000 (1 + 0x30000 + 1 * 2 ^ 14) ++ toCells 0x34000 (1 + 0x30000 + 2 * 2 ^ 14) ++ toCells 0x38008 (0x1001F) where
  toCells (a n : Nat) : List Host.Cell := ((List.range 8).map fun k => (a + k, BitVec.ofNat 8 (n / 256 ^ k))).filter fun c => c.2 != 0

/-- A child grid that GLAUNCH handed over. -/
def handed : State :=
  let s : State := { ready with mem := tables, slices := [(0, { Slice.reset with lines := [(0x101, object1)] })] }
  (s.modCtx 0 fun c => { c with now := { c.now with root := 0x30000 } }).modLaunch 1 fun l =>
    { l with st := .handed, parent := some (9, 0), packet := { l.packet with codeobj := 0x10100 } }

theorem witness_child_launch :
    ((match handed.launches.get? 1 with
      | some l => (match (handed.examine l).2 with | .ok _ => l.fail == 0 && handed.running l.part | .error _ => false)
      | none => false) &&
      gives (.childLaunch 1) handed fun u => (u.launches.get? 1).elim false fun l => l.st == .placing && l.header.regs == 8) = true := by
  decide +kernel

/-- Partition 0 has spindle 0, whose cores 0 and 1 are enabled; the launch has one team to place. -/
def placing (f : Launch → Launch) : State :=
  (({ ready with teams := [] } : State).modSpindle 0 fun d => { d with part := 0, fused := 0xFFFFFFFFC }).modLaunch 1 fun l =>
    f { l with st := .placing, nextTeam := 0, cores := [0, 1], header := { l.header with regs := 8, entry := 256 }, packet := { l.packet with codeobj := 0xFF00, args := 0x200000001 } }

/-- A team that has exited and owes nothing. -/
def exited : State := readyWith fun w => { w with threads := List.replicate 32 .exited }

/-- PlacementEvents: a plain, a serialised and a CO-RESIDENT launch, one without a core and one that another precedes; a team, resident or draining, that retires; a grid that does. -/
theorem witness_placement_events :
    ([false, true].all fun b =>
      let s := placing fun l => { l with serial := b }
      (match s.launches.get? 1 with | some l => s.ready? 1 l == some (0, 0, 0) && !s.servedFirst 1 l | none => false) &&
        gives (if b then .serialisedExecution 1 else .teamPlace 1) s fun u => match u.teams.get? s.nextUid with
          | some t => t.launch == 1 && t.core == 0 && t.place == .resident && t.stash == [] && t.waves.all fun w =>
              w.2.pcs == List.replicate 32 0x10000 && w.2.threads == List.replicate 32 .ready && w.2.preds == List.replicate 12 0 &&
                w.2.rejoin == List.replicate 4 0 && w.2.vregs.map (fun v => (v.val 31, v.tagAt 31)) == [(1, 0), (2, 0)] ++ List.replicate 6 (0, 0)
          | none => false) = true ∧
    (let s := placing fun l => { l with st := .coWaiting, cores := [] }
     ((s.launches.get? 1).elim false fun l => (s.admitAll 1 l).isNone) && gives (.coResidentAdmit 1) s fun u => u == s) = true ∧
    (let s := placing fun l => { l with st := .coWaiting }
     let t := { s with launches := s.launches ++ [(2, { theLaunch with st := .coWaiting, prio := theLaunch.prio + 1 })] }
     ((t.launches.get? 1).elim false fun l => t.servedFirst 1 l) && gives (.coResidentAdmit 1) t fun u => u == t) = true ∧
    (let s := placing fun l => { l with st := .coWaiting }
     ((s.launches.get? 1).elim false fun l => !s.servedFirst 1 l && (s.admitAll 1 l).isSome && l.ready == [] && decide (l.nextTeam ≤ l.total)) && gives (.coResidentAdmit 1) s fun u => (u.teams.get? s.nextUid).isSome && (u.launches.get? 1).elim false fun l => l.st == .placed) = true ∧
    ([TeamPlace.resident, .draining].all fun p =>
      let s := exited.modTeam 1 fun t => { t with place := p }
      (match s.teams.get? 1 with | some t => t.allExited && t.idle && t.dirtyStash == [] && !(s.spindle 0).fenced && !t.kids.any ChildSlot.isLive | none => false) && s.running 0 &&
        gives (.teamRetire 1) s fun u => (u.teams.get? 1).isNone && (u.launches.get? 1).elim false fun l => l.retired == 1) = true ∧
    (let s := ready.modLaunch 1 fun l => { l with retired := 1 }
     ((s.launches.get? 1).elim false fun l => l.retired == l.total && (s.drainFor 1 l).isNone && (s.drainFor 1 { l with drain := none }).isNone) &&
       s.running 0 && gives (.gridRetire 1) s fun u => (u.launches.get? 1).isNone && (u.teams.get? 1).isSome) = true := by
  decide +kernel

/-- A context with a save area of one slot at 0x20000, and a team of one wave of 8 registers that waits for a yield. -/
def yielding (f : Team → Team) : State :=
  let s := readyWith fun w => { w with vregs := w.vregs.take 8 }.blockOn 0xFFFFFFFF 0x10000 .yield
  let s := (s.modLaunch 1 fun l => { l with cores := [0], header := { l.header with regs := 8, stash := 0, flags := 1 } }).modTeam 1 f
  s.modCtx 0 fun c => { c with preq := true, now := { c.now with savebase := 0x20000, saveslots := 1, slotsize := 0x2000 } }

/-- What the first wave record of the image of team 1 holds, from an offset on. -/
def recordOf (s : State) (o n : Nat) : List Byte :=
  match s.teams.get? 1, s.launches.get? 1 with
  | some t, some l => ((t.image l).drop (256 + o)).take n
  | _, _ => []

/-- Team 1 waiting for something else. -/
def waitingFor (w : Wake) : State :=
  (yielding id).modWave 1 0 fun wv => { wv with waits := [⟨0xFFFFFFFF, 0x10000, w, false, BitVec.allOnes 64⟩] }

/-- PreemptionEvents: a save, whose image stands in memory; what an image says of registers, PCs, predicates and of each kind of wait; an
evaluation, a restore; a debug save and a debug resume. -/
theorem witness_preemption_events :
    (let s := yielding id
     (match s.teams.get? 1, s.launches.get? 1 with
      | some t, some l => t.saveable && s.saveSlot 0 0 (s.descOf 0 t.ver) (256 + l.header.waves * waveSpan 8) == some 0 && (s.sendHome 1 t l).isNone &&
          !l.packet.coResident && t.place == .resident && t.waves.all fun w => w.2.pendingLines.isEmpty
      | _, _ => false) && !(s.core 0).stopped && (s.core 0).wbOut.isEmpty && (s.core 0).sq.isEmpty && s.running 0 && (s.ctx 0).preq &&
      gives (.preemptSave 1) s fun u => (u.teams.get? 1).elim false fun t => t.place == .saved 0) = true ∧
    (let s := (yielding id).modWave 1 0 fun w => { w with vregs := w.vregs.set 7 (Vec.splat ⟨0x01020304, 0⟩), preds := w.preds.set 11 9 }
     recordOf s (128 * 7 + 4 * 31) 4 == [4, 3, 2, 1] && recordOf s (144 * 8 + 8 * 31) 8 == [0, 0, 1, 0, 0, 0, 0, 0] &&
       recordOf s (144 * 8 + 288 + 44) 4 == [9, 0, 0, 0]) = true ∧
    ([(Wake.bwait false 0x40 6, 1, 0x40, 6), (.bwait true 0x40 6, 1, 0x40, 6), (.ringPop 1024, 2, 1024, 0), (.recv 3, 2, 1024, 0), (.push 3, 3, 1024, 0),
      (.push 0, 3, 0, 0), (.remote 1, 4, 0, 0), (.gjoin 15, 5, 15, 0), (.fault [(0x20000, some 9)], 6, 0x20000, 9), (.yield, 7, 0, 0)].all
        fun x : Wake × Nat × Nat × Nat => ((waitingFor x.1).teams.get? 1).elim false fun t => wakeRecords t 0 ⟨0xFFFFFFFF, 0x10000, x.1, false, 0⟩ == [
          toLe 4 x.2.1 ++ toLe 4 0xFFFFFFFF ++ toLe 8 x.2.2.1 ++ toLe 8 x.2.2.2 ++ toLe 8 0]) = true ∧
    (recordOf (waitingFor (.fault [(0x20000, some 9), (0x30000, none)])) (144 * 8 + 2444 + 32) 32 ==
      toLe 4 6 ++ toLe 4 0xFFFFFFFF ++ toLe 8 0x30000 ++ toLe 8 0 ++ toLe 8 0) = true ∧
    (let s := yielding fun t => { t with place := .saved 0 }
     (match s.teams.get? 1, s.launches.get? 1 with
      | some t, some l => t.readmitSince.isNone && t.waves.any fun w => w.2.waits.any fun x => s.waitMet 1 t l w.2 x
      | _, _ => false) && gives (.wakeEvaluate 1) s fun u => (u.teams.get? 1).elim false fun t => t.readmitSince == some 0) = true ∧
    (let s := yielding fun t => { t with place := .saved 0, readmitSince := some 0 }
     (match s.teams.get? 1, s.launches.get? 1 with
      | some t, some l => l.wants 0 0 && s.coreFits 0 l.header && !s.givesWay (1, t, l) 0
      | _, _ => false) && gives (.teamRestore 1 0) s fun u =>
       (u.teams.get? 1).elim false fun t => t.place == .resident && t.core == 0 && t.waves.all fun w => w.2.threads.all (· == .ready)) = true ∧
    (let s := (yielding id).modPart 0 fun p => { p with dbghalt := 1 }
     (s.haltedTeams 0).length == 1 && (match s.teams.get? 1, s.launches.get? 1 with
      | some t, some l => s.saveSlot 0 0 (s.descOf 0 t.ver) (256 + l.header.waves * waveSpan 8) == some 0
      | _, _ => false)) = true ∧
    (let s := (yielding fun t => { t.modWave 0 (fun w => { w with brkStop := 1 }) with debugSaved := some 0 }).modPart 0 fun p => { p with dbghalt := 1 }
     (s.haltedTeams 0).length == 1 && gives (.debugResume 0) s fun u => (u.teams.get? 1).elim false fun t =>
       t.debugSaved == none && t.waves.all fun w => w.2.brkStop == 0) = true := by
  decide +kernel

/-- An access of context 0 to the page 0x20000, and its entry. -/
def parked : Parked := ⟨1, 3, 0, 0x20000, 1, 0, 1, 0, 0⟩

def faulting (st : Nat) : State :=
  ({ ready with tsc := 100 } : State).modPart 0 fun p => { p with fq := [{ parked.entry 0 9 5 false with state := st }], fwdog := 94, nextSeq := 10 }

/-- A team that waits for the entry alone, and a command that waits for it and another page. -/
def onEntry : State :=
  let s := ({ (faulting 2) with teams := [(1, { theTeam with waves := theTeam.waves })] }).modWave 1 0 fun w =>
    { w.blockOn 0xFFFF 0x10000 (.fault [(0x20000, some 9)]) with hazards := [] }
  s.modCore 0 fun c => { c with cmds := [{ copying with parked := [(0x20000, some 9), (0x30000, some 10)] }] }

/-- What a register write that is rejected leaves: ERR and its address. -/
def turnedAway (ev : Instr) (s : State) (off : Nat) : Bool :=
  gives ev s fun u => u.err && u.errAddr == BitVec.ofNat 32 off && u.parts == s.parts && u.teams == s.teams

/-- FaultEvents: an access parked; an entry taken, resolved with what was parked on it, failed, and too old; entries in another STATE and
SEQs that no entry has; a halt; data that is uncorrectable, met by one launch or by none. -/
theorem witness_fault_events :
    (let s := ready.modPart 0 fun p => { p with fqWait := [parked] }
     gives (.faultPark 0) s fun u => (u.part 0).fq == [parked.entry 0 1 0 false] && (u.part 0).nextSeq == 2) = true ∧
    gives (.fqtake 0 9) (faulting 1) (fun u => (u.part 0).fq.map FqEntry.state == [2]) = true ∧
    ((onEntry.teams.get? 1).elim false (onEntry.runsUnder 0 0) && gives (.fqresolve 0 9) onEntry fun u => (u.part 0).fq == [] &&
      (u.core 0).cmds.map Cmd.parked == [[(0x30000, some 10)]] &&
      (u.wave? 1 0).elim false fun w => w.waits == [] && w.threads == List.replicate 32 .ready) = true ∧
    gives (.fqresolveFail 0 9) (faulting 2) (fun u => (u.part 0).causes.map (fun c => (c.cause, c.addr, c.ident)) == [(.faultfail, 0x20000, 0)]) = true ∧
    ([1, 2].all fun st => (faulting st).running 0 && gives (.watchdog 0 9) (faulting st) fun u => (u.part 0).causes.map CauseRec.cause == [.watchdog]) = true ∧
    ([(2, Instr.fqtake 0 9, 0x100078), (1, .fqtake 0 8, 0x100078), (1, .fqresolve 0 9, 0x100080), (1, .fqresolveFail 0 9, 0x100080),
      (2, .fqresolve 0 8, 0x100080)].all fun x : Nat × Instr × Nat => turnedAway x.2.1 (faulting x.1) x.2.2) = true ∧
    turnedAway (.fqtake 23 9) (faulting 1) 0x117078 = true ∧
    (let s := (({ ready with tsc := 100 } : State).modPart 0 fun p => { p with spindles := 1, causes := [⟨.engine, 9, 0, 0, 0, 0, 0⟩] }).modSpindle 0 fun d =>
       { d with part := 0, fused := 0xFFFFFFFFC }
     s.evq.base == 0 && gives (.halt 0) s fun u => (u.part 0).pstate == 2 && (u.part 0).hcause == 7 && (u.core 1).stopped && (u.part 0).causes == []) = true ∧
    (unitKind 2560 == 2 && ready.ownerOf 0x40 == 0 && unitKind 0 == 1 && [2560, 0].all fun source => let s := ready.modSpindle 0 fun d => { d with part := 0 }
     s.running 0 && gives (.uncorrectable 0 source 0x40) s fun u =>
       (u.part 0).causes.map (fun c => (c.cause, c.ctx, c.ident)) == [(.uncorrectable, 0xFFFF, 0)] &&
       (if source == 0 then (u.core 0).badVa.contains 1 else u.withheld.contains 1)) = true ∧
    (let s := ((ready.modSpindle 0 fun d => { d with part := 0 }).modLaunch 1 fun l => { l with ident := 77 }).modWave 1 0 fun w => { w with ops := [{ flying with pieces := [⟨0, 0, 4, .stash 0, 0x10140⟩] }] }
     let r : Req := { aWrite (.op 1 0 7) with line := 0 }
     s.touching 0 (0x10140 / 64) == [.op 1 0 7] && gives (.uncorrectable 0 0 0x10140) s (fun u => (u.part 0).causes.map (fun c => (c.ctx, c.ident)) == [(0, 77)]) &&
       gives (.uncorrectable 0 2560 0x40) (s.modSlice 0 fun sl => { sl with admitted := [r] }) fun u =>
         (u.part 0).causes.map (fun c => (c.ctx, c.ident)) == [(0, 77)]) = true := by
  decide +kernel

/-- FaultEvents: a spindle that fails; a time-out over a spindle boundary, of a neighbour link's entry, of a slice's invalidation and of a
link port's; a time-out of a request to another package, over a link in and out of service. -/
theorem witness_loss_events :
    gives (.dieFailure 23) ready (fun u => (u.spindle 23).fenced) = true ∧
    (let s := ({ ready with tsc := 100000 } : State).modSpindle 0 fun d => { d with part := 0 }
     [s.modCore 0 fun c => { c with links := [(0, [⟨0, 36, 0, Vec.zero⟩])] }, s.modSlice 0 fun sl => { sl with pend := [⟨1, aWrite .none, [36], [], false, none, 0⟩] },
      s.modLink 3 fun k => { k with snoops := [⟨4, 1, 0, 0, 0, [(1, 36)], 0⟩] }].all fun s =>
        !(s.spindle 1).fenced && s.stuckOn 0 1 && gives (.crossDieTimeout 0 1) s fun u => (u.spindle 1).fenced) = true ∧
    ([true, false].all fun up =>
      let s := ({ ready with tsc := 2000000 } : State).modLink 5 fun k => { k with inService := up, outstanding := [⟨0, .none, 0, true, some 0, false⟩] }
      (s.heldSince 0 5).isNone && gives (.crossLinkTimeout 0 5) s fun u => if up then !(u.link 5).inService && (u.link 5).retraining
        else (u.part 0).causes.map CauseRec.cause == [.linklost]) = true := by
  decide +kernel

def aMessage : LinkMsg := ⟨0, 0, none, 0, false, .ack, false⟩

/-- FlitEvents: a flit sent; a snoop that finds no copy; a repeated negative acknowledgement; a time-out; a control flit sent. The frames of the flits received are those of
`Laws.frame_make_intact`, `Laws.frame_make_net`, `Laws.frame_make_seq` and `Laws.frame_torn`; the CRC is that of the published check value. -/
theorem witness_flit_events :
    crc32c ([0x31, 0x32, 0x33, 0x34, 0x35, 0x36, 0x37, 0x38, 0x39].map (BitVec.ofNat 8)) = 0xE3069283 ∧
    (let m : LinkOut := ⟨aMessage, BitVec.allOnes 64⟩
     let s := ready.modLink 1 fun k => { k with sendQ := [m] }
     ((s.absorbPort 1).snoopsDone 1).linkUp 1 && ((s.absorbPort 1).snoopsDone 1).mayLeave 1 m && decide (linkSize aMessage ≤ 250) && gives (.flitSend 1) s fun u =>
       (u.link 1).replay.map (fun x => (x.1.msgs.map LinkMsg.body, x.2)) == [([.ack], 0)] && (u.link 1).nextSeq == 1) = true ∧
    (ready.linkUp 1 && (ready.link 1).snoops == [] && (ready.link 1).rxExpect == 0 && ready.cores.all (fun c => c.2.farCopies 1 5 == []) &&
      (((ready.linkDeliver 1 { aMessage with tag := 3, body := .snoop 5 }).link 1).sendQ.map fun x => (x.msg.tag, x.msg.body)) == [(3, .snoopAck 5)]) = true ∧
    (let s := ({ ready with time := 1200 } : State).modLink 1 fun k => { k with rxDiscarding := true, rxAgain := true }
     gives (.nakRepeat 1) s fun u => (u.link 1).rxNakCount == 1) = true ∧
    (let s := ({ ready with time := 12000 } : State).modLink 1 fun k => { k with replay := [(⟨FlitFrame.make 5 0 0, [aMessage]⟩, 0)] }
     gives (.ackTimeout 1) s (fun u => (u.link 1).resendAt == 1) && gives (.controlFlitSend 1) s fun u => (u.link 1).lastCtl == 12000) = true := by
  decide +kernel

/-- A record of link 1 that is final. -/
def finalRecord : LinkRecord := ⟨1, 0xFFFF, 0xFFFE, 1, 3, 400, 100, 0, none, true⟩

/-- LinkEvents: light lost on a link, and from a laser source; a restripe, its record written and dropped, a link lost and its retrains, a
restored wavelength, the host's choices. -/
theorem witness_link_events :
    (let s := ({ ready with tsc := 450 } : State).modLink 1 fun k => { k with lastGood := 50 }
     [1, 0x8000].all fun m => gives (.lossOfLight 1 m none) s fun u => (u.link 1).lit == 0xFFFF &&& ~~~m && (u.link 1).ctlDue && (u.link 1).darkNs == 400 &&
       (u.link 1).detectTsc == 450 && (u.link 1).rxMask == 0xFFFF) = true ∧
    (gives (.lossOfLight 1 0 (some 0)) ready (fun u => u.lasersOut == 0x000F) && gives (.lossOfLight 1 0 (some 3)) ready fun u => u.lasersOut == 0xF000 && u.links == ready.links) = true ∧
    (let s := ready.modLink 1 fun k => { k with lit := 0xFFFE, reported := 0xFFFE }
     gives (.restripe 1 0xFFFE 0xFFFF) s fun u => (u.link 1).rxMask == 0xFFFE && (u.link 1).txMask == 0xFFFF) = true ∧
    (let s := ready.modLink 1 fun k => { k with records := [finalRecord] }
     s.evq.base == 0 && gives (.linkEventRecord 1) s fun u => (u.link 1).records == [] && u.evq.drop == s.evq.drop + 1 && u.evq.tail == s.evq.tail) = true ∧
    (let s := { ready.modLink 1 fun k => { k with records := [finalRecord] } with evq := { ready.evq with base := 0x20000, log2 := 6, tail := 64, head := 1 } }
     (s.homeOf (0x20000 / 256)).isSome && gives (.linkEventRecord 1) s fun u => (u.link 1).records == [] && u.evq.tail == 65 && u.evq.drop == s.evq.drop &&
       u.readSeen 0x20000 32 0 == toLe 8 100 ++ toLe 2 (linkSource 1) ++ [1, 1, 0xFF, 0xFF, 0xFE, 0xFF] ++ toLe 4 3 ++ toLe 4 400 ++ [1] ++ List.replicate 7 0) = true ∧
    ([(0xFFFF, 7), (7, 0xFFFF)].all fun x : BitVec 16 × BitVec 16 => let s := ready.modLink 1 fun k => { k with lit := x.1, peerLit := x.2 }
     gives (.linkLost 1) s fun u => !(u.link 1).inService && (u.link 1).retraining) = true ∧
    (let s := ready.modLink 1 fun k => { k with inService := false, retraining := true }
     gives (.retrainEnd 1 15 15) s (fun u => (u.link 1).inService && (u.link 1).rxMask == 15) &&
       gives (.retrainEnd 1 15 7) s fun u => (u.link 1).retrainFailed && !(u.link 1).inService) = true ∧
    (let s := ready.modLink 1 fun k => { k with txMask := 0xFFF0, rxMask := 0xFFF0 }
     s.inUse 1 0xFFFF == 0xFFFF && gives (.restore 1 3 3 1) s fun u => (u.link 1).txMask == 0xFFF1 && (u.link 1).rxMask == 0xFFF3 && (u.link 1).probe == 3) = true ∧
    (let s := ready.modPart 0 fun p => { p with linkHeld := [(1, 5)] }
     gives (.linksvcWait 0 1) s (fun u => (u.part 0).linkHeld == [] && (u.part 0).linkWaits == [1]) && s.running 0 &&
       gives (.linksvcLinklost 0 1) s fun u => (u.part 0).causes.map CauseRec.cause == [.linklost]) = true := by
  decide +kernel

/-- A command that is rejected leaves its unit and memory. -/
def commandRejected (n target : Nat) : Bool :=
  gives (.powerCommand n target) ready fun u => u.err && u.errAddr == BitVec.ofNat 32 (0x250000 + 8 * n) && u.units == ready.units && u.mem == ready.mem

/-- PowerAndBootEvents: commands, allowed, under protection and not allowed; protection and its release; the spindle commands; boot. -/
theorem witness_power_events :
    ([(0, 1), (0, 4), (23, 4), (24, 2), (25, 4), (36, 3), (67, 0)].all fun x : Nat × Nat => gives (.powerCommand x.1 x.2) ready fun u =>
      (u.unit x.1).state == x.2 && (u.unit x.1).cmd == x.2) = true ∧
    (let s := ready.modUnit 0 fun _ => ⟨1, 0, true⟩
     [(0, 1), (2, 2)].all fun x : Nat × Nat => gives (.powerCommand 0 x.1) s fun u => (u.unit 0).state == x.2 && (u.unit 0).cmd == x.1) = true ∧
    ([(24, 3), (24, 4), (0, 5), (67, 7)].all fun x : Nat × Nat => commandRejected x.1 x.2) = true ∧
    gives (.powerCommand 68 0) ready (fun u => u == ready) = true ∧
    ([(0, false, 1), (30, true, 2), (40, true, 2)].all fun x : Nat × Bool × Nat => protectState x.1 x.2.1 == some x.2.2 &&
      gives (.protectionEnter x.1 x.2.1) ready fun u => (u.unit x.1).prot && (u.unit x.1).state == x.2.2) = true ∧
    gives (.protectionRelease 0) (ready.modUnit 0 fun _ => ⟨1, 0, true⟩) (fun u => (u.unit 0).state == 0 && !(u.unit 0).prot) = true ∧
    gives (.spopReset 23) ready (fun u => (u.spindle 23).fenced && (u.spindle 23).resetting) = true ∧
    gives (.spopFence 23) ready (fun u => (u.spindle 23).fenced) = true ∧
    (let s := ready.modSpindle 23 fun d => { d with part := 0, fenced := true }
     !(s.spindle 23).resetting && (s.part 0).pstate == 1 && gives (.spopReturn 23) s fun u => !(u.spindle 23).fenced && (u.spindle 23).part == 0) = true ∧
    gives (.resetComplete 23) (ready.modSpindle 23 fun d => { d with resetting := true }) (fun u => !(u.spindle 23).resetting) = true ∧
    ([(true, 1), (false, 2)].all fun x : Bool × Byte => gives (.boot x.1) State.reset fun u => u.bootstat == x.2) = true := by
  decide +kernel

/-- A CHALLENGE of 8 bytes in the mailbox. -/
def asked (code : Byte) : State :=
  { ready with spdm := ⟨[0x12, code, 0, 0, 1, 2, 3, 4], true, true, true⟩ }

/-- The requests that the port die of queue pair 3 has given to its router. -/
def hostAsked (s : State) (qp : Nat) : List MeshMsg := (s.router (sockRouter (12 + qpDie qp))).out.flatMap (·.2)

/-- HostEvents, RDMA: a register written and read, an access to the management block that is none, a line of memory by a request and with no
home, data that is withheld, a queue pair that is not there, a port that is not up. -/
theorem witness_rdma_events :
    ([0, 23].all fun p => gives (.rdmaWrite 3 (Config.mbase + (0x100030 + 4096 * p)) (toLe 8 5)) ready fun u =>
      u.hostOut == [.ack 3] && (u.part p).hbase == 5 && u.mem == ready.mem && !u.err) = true ∧
    ([4, 9].all fun n => inMgmt Config.mbase n && !isRegister Config.mbase n && gives (.rdmaWrite 131 Config.mbase (List.replicate n 7)) ready fun u =>
      u.hostOut == [.ack 131] && u.err && u.errAddr == 0 && u.parts == ready.parts) = true ∧
    ([(3, Dom.tso), (127, .tso), (128, .sc)].all fun q : Nat × Dom => ready.homeOf 0x101 == some 0 && gives (.rdmaWrite q.1 0x101FF [7]) ready fun u =>
      u.hostOut == [] && (u.hostQp q.1).ops == [.write 0x101FF [7], .ack] && match hostAsked u q.1 with
        | [m] => m.dest == .slice 0 && (match m.msg with
            | .request r => r.line == 0x101 && r.key == 0 && r.dom == q.2 && r.asker == .host q.1 &&
                r.kind == .write (1#256 <<< 255) (BitVec.ofNat 2048 7 <<< 2040)
            | _ => false)
        | _ => false) = true ∧
    ((ready.homeOf (0x40000000 / 256)).isNone && (paPlace 0x4000003F).isSome && ready.sockUp (memSocket 0x40000000) && Memory.wf ready.mem &&
      !inMgmt 0x40000000 64 && gives (.rdmaWrite 3 0x4000003F [7]) ready fun u => u.hostOut == [.ack 3] &&
        Memory.readN u.mem (storageAddr 0x40000000 + 63) 1 == [7]) = true ∧
    gives (.rdmaRead 3 (Config.mbase + 0x20) 8) { ready with err := true } (fun u => u.hostOut == [.data 3 [1, 0, 0, 0, 0, 0, 0, 0]]) = true ∧
    (let s : State := { ready with withheld := [0x40000000 / 64] }
     s.withheldAt 0x40000000 256 && gives (.rdmaRead 3 0x40000000 256) s fun u => u.hostOut == [.remoteError 3]) = true ∧
    ([Instr.rdmaWrite 132 0 [7], .rdmaRead 132 0 1, .remoteOperationError 132].all fun ev => gives ev ready fun u => u.hostOut == [.remoteError 132]) = true ∧
    ([Instr.rdmaWrite 3 0 [7], .rdmaRead 3 0 1].all fun ev => gives ev State.reset fun u => u == State.reset) = true := by
  decide +kernel

/-- HostEvents: registers, aligned and not; keys; counters; the mailbox and each of its requests. -/
theorem witness_host_events :
    gives (.registerWrite 0x117030 5) ready (fun u => (u.part 23).hbase == 5 && u.regRead 0x117030 == 5 && !u.err) = true ∧
    gives (.registerWrite 0x117031 5) ready (fun u => u.err && u.errAddr == 0x117031) = true ∧
    ([1, 1023].all fun i => gives (.keycmdLoad i) { ready with keyData := 5 } fun u => u.keys.get? i == some 5 && u.keyData == 0) = true ∧
    gives (.keycmdUnload 1) { ready with keys := [(1, 5)] } (fun u => u.keys == []) = true ∧
    gives (.counterClear 863) (ready.modCore 863 fun c => { c with swaps := 9 }) (fun u => (u.core 863).swaps == 0) = true ∧
    gives (.registerWrite 0x400000 5) ready (fun u => u.spdm.asked && u.regRead 0x400000 == 5) = true ∧
    ([(0x84, Instr.getVersion), (0xE1, .getCapabilities), (0xE3, .negotiateAlgorithms), (0x81, .getDigests), (0x82, .getCertificate), (0x83, .challenge),
      (0xE0, .getMeasurements)].all fun x : Nat × (List Byte → Instr) =>
        let s := asked (BitVec.ofNat 8 x.1)
        leAt s.spdm.box 1 1 == x.1 && gives (x.2 (s.spdm.box.take 8)) s fun u => !u.spdm.asked) = true := by
  decide +kernel

/-- HostEvents: a translation invalidation that begins, waits for an access, flushes, waits for what it flushed, and completes. -/
theorem witness_translation_invalidation :
    gives (.translationInvalidation 0 0x10000 0x1FFFF) ready (fun u => (u.core 0).tlb == [] &&
      u.transInvals == [⟨0, 0x10000, 0x1FFFF, ready.nextOp, ready.nextUid, false⟩]) = true ∧
    (let v : TransInval := ⟨0, 0x10000, 0x1FFFF, 9, 9, false⟩
     let s : State := { ready with transInvals := [v] }
     s.accessesOver v && gives (.translationInvalidation 0 0x10000 0x1FFFF) s fun u => (u.core 0).tlb == [] &&
       u.transInvals.map TransInval.flushed == [true]) = true ∧
    (let v : TransInval := ⟨0, 0x10000, 0x1FFFF, 9, 9, false⟩
     let s : State := ({ ready with transInvals := [v] } : State).modSlice 0 fun sl => { sl with inq := [{ aWrite (.op 1 0 1) with id := 1 }] }
     !s.accessesOver v && gives (.translationInvalidation 0 0x10000 0x1FFFF) s fun u => u.transInvals == [v]) = true ∧
    ([false, true].all fun waits =>
      let v : TransInval := ⟨0, 0x10000, 0x1FFFF, 9, 9, true⟩
      let s : State := ({ ready with transInvals := [v] } : State).modSlice 0 fun sl =>
        { sl with inq := if waits then [{ aWrite (.evict 0 none) with id := 1 }] else [] }
      s.flushing 9 == waits && gives (.translationInvalidation 0 0x10000 0x1FFFF) s fun u => u.transInvals == if waits then [v] else []) = true := by
  decide +kernel

/-- A descriptor of context 4095 at 0x10140. -/
def described : State := { ready with mem := [(0x10140, 7), (0x10160, 0xFF), (0x10161, 0x0F)] }

/-- ManagementEvents: contexts, queues, owners, partitions, services. -/
theorem witness_management_events :
    ((described.readDesc (bits (0x10141 : W64) 6 42 * 64) 4095).isSome && gives (.ctxdescCreate 4095 0x10141) described fun u =>
      (u.ctx 4095).desc == 0x10141 && (u.ctx 4095).now.root == 7) = true ∧
    (let s := described.modCtx 4095 fun c => { c with desc := 0x10141 }
     gives (.reload 4095) s (fun u => (u.ctx 4095).ver == 1 && (u.ctx 4095).now.root == 7) && gives (.kill 4095) s (fun u => (u.ctx 4095).desc == 0) &&
       gives (.preq 4095 false) s (fun u => !(u.ctx 4095).preq) && gives (.dbgbrk 4095 true) s (fun u => (u.ctx 4095).dbgbrk) &&
       gives (.scbchk 4095 true) s fun u => (u.ctx 4095).scbchk) = true ∧
    gives (.preq 0 true) (ready.modCtx 0 fun c => { c with desc := 1 }) (fun u => (u.ctx 0).preq) = true ∧
    (ready.queueFree 1023 && gives (.qcbWrite 1023 0x10100) ready (fun u => (u.queue 1023).cbpa == 0x101) &&
      gives (.qctxWrite 1023 0x8000000000000FFF) ready (fun u => (u.queue 1023).ctxValid && (u.queue 1023).ctx == 0xFFF) &&
      gives (.queueOwnerWrite 1023 3) ready (fun u => u.queueOwner.getD 1023 0xFF == 3) &&
      gives (.granuleOwnerWrite 4095 0) ready fun u => u.granuleOwner.getD 4095 0xFF == 0) = true ∧
    (let s := ready.modPart 1 fun p => { p with spindlesReg := 2, slicesReg := 2 }
     gives (.pcmdCreate 1) s fun u => (u.part 1).pstate == 1 && (u.part 1).slices == 2 && (u.spindle 1).part == 1) = true ∧
    gives (.pcmdClear 0) { ready with launches := [], teams := [] } (fun u => (u.part 0).pstate == 0 && u.granuleOwner == []) = true ∧
    (let s := ready.modLaunch 1 fun l => { l with st := .digestWait }
     (s.launches.find? fun l => l.2.part == 0 && l.2.ident == 0 && l.2.st == .digestWait).isSome &&
       gives (.digsvcReexecute 0 0) s (fun u => (u.launches.get? 1).elim false fun l => l.serial && l.st == .placing) &&
       gives (.digsvcFault 0 0) s fun u => (u.part 0).causes.map CauseRec.cause == [.digest]) = true ∧
    (let s : State := { ready with queueOwner := [(1023, 0)] }
     s.queuePart 1023 == 0 && gives (.qgrant 0 1023) s fun u => (u.queue 1023).grants == 1) = true ∧
    gives (.dbghalt 0 0xFFFFFF) ready (fun u => (u.part 0).dbghalt == 0xFFFFFF) = true := by
  decide +kernel

/-! ## Results that the manual works out -/

/-- What a register of the wave holds in a lane after an instruction. -/
def leaves (i : Instr) (s : State) (n l : Nat) : Option Lane :=
  match exec i s with
  | .next u => (u.wave? 1 0).map fun w => (w.vregs.getD n []).getD l Lane.zero
  | _ => none

/-- A vector of one tag whose first lanes hold the listed values. -/
def firstLanes (t : BitVec 4) (xs : List W32) : Vec := Vec.of fun l => ⟨xs.getD l 0, t⟩

/-- IADD wraps (R172): -1 + 2 = 1; BALLOT of the first half of the lanes (the example of chapter 7). -/
theorem test_iadd_ballot :
    leaves (.iadd iaddForm) (readyWith fun w => put (put w 4 0xFFFFFFFF 0) 5 2 0) 9 31 = some ⟨1, 0⟩ ∧
    leaves (.ballot ⟨1, none, 0, .v 9, .k 1, .none, .none, none⟩) (readyWith fun w => { w with preds := w.preds.set 1 0xFFFF }) 9 20 =
      some ⟨0xFFFF, 0⟩ := by
  decide +kernel

/-- The example of R199: -3.7 converts to s8 as 0xFC with NX, 300.0 as 0x7F with NV. -/
theorem test_convert_to_s8 : qcvtElem 3 0 0xC06CCCCD 0x3F800000 = (0xFC, fNX) ∧ qcvtElem 3 0 0x43960000 0x3F800000 = (0x7F, fNV) := by
  decide +kernel

/-- The summation tree of chapter 11: D[0][0] is 1.0 with NX; an element of B that is NaN beside a zero of A changes nothing;
beside 1.0 it makes D[1][0] the canonical NaN, without a flag. -/
theorem test_mma_tree :
    let a := [firstLanes 3 [0x3F804580], firstLanes 3 [0xC5803F80], firstLanes 3 [0, 0x3F800000]]
    let b := [firstLanes 3 [0x3F804580, 0x45803F80]]
    let c := [firstLanes 3 [0x3F804580, 0x45803F80, 0x7FC00000]]
    mmaFloat 0 0xFFFFFFFF a b 0 0 0 = (0x3F800000, fNX) ∧ mmaFloat 0 0xFFFFFFFF a c 0 0 0 = (0x3F800000, fNX) ∧
      mmaFloat 0 0xFFFFFFFF a c 0 1 0 = (0x7FC00000, 0) := by
  decide +kernel

/-- The QN4 tile of chapter 11: row 0 of A all 0x7 under code 255 and SA 1.0, column 0 of B all 0x1 under code 255 and SB 2.0:
D[0][0] = 13.0. -/
theorem test_mmaq_tile :
    mmaQn4 { (Wave.placed 0 .gen 256 0 0 0) with
        window := 0xFF#2048 ||| (0xFF#2048 <<< 256) ||| (0x3F800000#2048 <<< 320) ||| (0x40000000#2048 <<< 352) }
      0x2C28200000 0xFFFFFFFF (List.replicate 8 (firstLanes 9 [0x77777777])) [firstLanes 9 (List.replicate 8 0x11111111)] 0 0 0 =
      (0x41500000, 0) := by
  decide +kernel

/-- The first 8 lanes of the atomic of chapter 14's example, on a word that holds 10: lane l receives 10 + l, and the word ends at 18. -/
theorem test_atomic_lanes :
    let r : Req := { aWrite .none with line := 0x101, kind := .atom ((List.range 8).map fun l => ⟨l, 0x40, 1, 1, 0⟩) false }
    let u := ({ ready with mem := [(0x10140, 10)] } : State).applyReq 0 r
    (match u.2 with | .atomReply _ olds => decide (olds = (List.range 8).map fun l => (l, BitVec.ofNat 64 (10 + l))) | _ => false) = true ∧
      u.1.readPaKey 0x10140 4 0 = [18, 0, 0, 0] := by
  decide +kernel

/-- Words that chapters 14 and 17 give, and their variants that take ILLEGAL: a store with ORDER 1, a compare and swap from an
odd register, RED with MOD 18, a BRIDGE and a BWAIT with ORDER 1, BINIT from register 9, BARRIVE with a source B. -/
theorem test_example_words :
    ([0x39400300800C20F1, 0x90420600409C40F1, 0x00480000000C64F1, 0x20400000000C64F1, 0x0810000080BF04F1, 0x00100580800F0CF1,
      0x00100400800F00F1] : List W64).all (fun w => match decode w 0 with | .ok _ => true | .error _ => false) = true ∧
    ([0x38C00300800C20F1, 0x90420680409C40F1, 0x90420600400C44F1, 0x00C80000000C64F1, 0x00900580800F0CF1, 0x00100480800F00F1,
      0x0810008080BF04F1] : List W64).all (fun w => match decode w 0 with | .ok _ => false | .error _ => true) = true := by
  decide +kernel


end Sys2Proof.Tests
end

section
/-! SUPPORT. Bytes as numbers, byte masks, merged sectors, and bytes of memory after a write. -/

namespace Sys2Proof.Machine

/-! ## Little-endian numbers (R11) -/

@[simp] theorem toLe_length (n x : Nat) : (toLe n x).length = n := by
  induction n generalizing x with
  | zero => rfl
  | succ n ih => simp [toLe, ih]

theorem leNat_toLe (n x : Nat) : leNat (toLe n x) = x % 256 ^ n := by
  induction n generalizing x with
  | zero => simp [toLe, leNat, Nat.mod_one]
  | succ n ih =>
    rw [toLe, leNat, ih, Nat.pow_succ', Nat.mod_mul, BitVec.toNat_ofNat]

theorem leAt_append_toLe (n x : Nat) (tail : List Byte) : leAt (toLe n x ++ tail) 0 n = x % 256 ^ n := by
  have h : ((toLe n x ++ tail).drop 0).take n = toLe n x := by
    rw [List.drop_zero, List.take_left' (toLe_length n x)]
  rw [leAt, h, leNat_toLe]

/-- The bits of the number that bytes hold. -/
theorem leNat_testBit (bs : List Byte) (k : Nat) : (leNat bs).testBit k = (bs.getD (k / 8) 0).getLsbD (k % 8) := by
  induction bs generalizing k with
  | nil => simp [leNat]
  | cons b bs ih =>
    have hb : b.toNat < 2 ^ 8 := b.isLt
    have hn : leNat (b :: bs) = 2 ^ 8 * leNat bs + b.toNat := by simp only [leNat]; omega
    rw [hn, Nat.testBit_two_pow_mul_add _ hb]
    split
    · next hk => rw [Nat.div_eq_of_lt hk, Nat.mod_eq_of_lt hk]; rfl
    · next hk =>
      obtain ⟨j, rfl⟩ : ∃ j, k = j + 8 := ⟨k - 8, by omega⟩
      rw [Nat.add_sub_cancel, ih, Nat.add_div_right j (by decide), Nat.add_mod_right, List.getD_cons_succ]

/-- Byte `i` of a word that holds bytes from byte `o` on. -/
theorem extract_bytes_at (w o i : Nat) (bs : List Byte) (ho : o ≤ i) (hw : 8 * i + 8 ≤ w) :
    (BitVec.ofNat w (leNat bs <<< (8 * o))).extractLsb' (8 * i) 8 = bs.getD (i - o) 0 := by
  apply BitVec.eq_of_getLsbD_eq
  intro j hj
  have hge : 8 * i + j ≥ 8 * o := by omega
  have hdiv : (8 * i + j - 8 * o) / 8 = i - o := by omega
  have hmod : (8 * i + j - 8 * o) % 8 = j := by omega
  have hlt : 8 * i + j < w := by omega
  simp only [BitVec.getLsbD_extractLsb', BitVec.getLsbD_ofNat, Nat.testBit_shiftLeft, leNat_testBit, hj, hge, hdiv, hmod, hlt,
    decide_true, Bool.true_and]

/-- The bits of a mask of `n` bytes at offset `o`. -/
theorem maskAt_getLsbD (w o n i : Nat) (hi : i < w) : (maskAt w o n).getLsbD i = decide (o ≤ i ∧ i < o + n) := by
  rw [maskAt, BitVec.getLsbD_ofNat, Nat.testBit_shiftLeft, Nat.one_shiftLeft, Nat.testBit_two_pow_sub_one, decide_eq_true hi,
    Bool.true_and, ← Bool.decide_and]
  exact decide_eq_decide.mpr (by omega)

/-! ## Sectors (R267) -/

theorem byteMask_fold (m : BitVec 64) (j : Nat) (hj : j < 512) (is : List Nat) (hs : ∀ x ∈ is, x < 64) (acc : Sector) :
    (is.foldl (fun acc i => if m.getLsbD i then acc ||| (0xFF#512 <<< (8 * i)) else acc) acc).getLsbD j =
      (acc.getLsbD j || (decide (j / 8 ∈ is) && m.getLsbD (j / 8))) := by
  induction is generalizing acc with
  | nil => simp
  | cons a is ih =>
    rw [List.foldl_cons, ih fun x hx => hs x (List.mem_cons_of_mem _ hx)]
    have ones : (0xFF#512 <<< (8 * a)).getLsbD j = decide (j / 8 = a) := by
      have h255 : (0xFF#512) = BitVec.ofNat 512 (2 ^ 8 - 1) := rfl
      rw [BitVec.getLsbD_shiftLeft, h255, BitVec.getLsbD_ofNat, Nat.testBit_two_pow_sub_one]
      by_cases h1 : j < 8 * a
      · simp only [h1, decide_true, Bool.not_true, Bool.and_false, Bool.false_and, Bool.false_eq, decide_eq_false_iff_not]
        omega
      · simp only [h1, hj, decide_true, decide_false, Bool.not_false, Bool.true_and, Bool.and_true]
        rw [decide_eq_true (by omega : j - 8 * a < 512), Bool.true_and]
        exact decide_eq_decide.mpr (by omega)
    by_cases hja : j / 8 = a
    · subst hja
      cases m.getLsbD (j / 8) <;> simp [BitVec.getLsbD_or, ones]
    · cases m.getLsbD a <;> simp [BitVec.getLsbD_or, ones, hja]

theorem byteMask_getLsbD (m : BitVec 64) (j : Nat) (hj : j < 512) : (byteMask m).getLsbD j = m.getLsbD (j / 8) := by
  have hmem : j / 8 < 64 := by omega
  rw [byteMask, byteMask_fold m j hj _ (by simp)]
  simp [hmem]

/-- A merged sector has, where the mask is set, the new byte. -/
theorem Sector.byte_merge_new (old new : Sector) (m : BitVec 64) (i : Nat) (hi : i < 64) (hm : m.getLsbD i = true) :
    (Sector.merge old new m).extractLsb' (8 * i) 8 = new.extractLsb' (8 * i) 8 := by
  apply BitVec.eq_of_getLsbD_eq
  intro j hj
  have hlt : 8 * i + j < 512 := by omega
  have hdiv : (8 * i + j) / 8 = i := by omega
  have hmask : (byteMask m).getLsbD (8 * i + j) = true := by rw [byteMask_getLsbD m _ hlt, hdiv, hm]
  simp only [Sector.merge, BitVec.getLsbD_extractLsb', BitVec.getLsbD_or, BitVec.getLsbD_and, BitVec.getLsbD_not, hj, hlt, hmask,
    decide_true, Bool.true_and, Bool.not_true, Bool.and_false, Bool.false_or, Bool.and_true]

@[simp] theorem Sector.bytes_length (x : Sector) : (Sector.bytes x).length = 64 := by simp [Sector.bytes]

theorem Sector.bytes_getD (x : Sector) (i : Nat) (hi : i < 64) : (Sector.bytes x).getD i 0 = x.extractLsb' (8 * i) 8 := by
  simp [Sector.bytes, List.getD, hi]

/-! ## Memory bytes -/

/-- A byte within a range that is written is the one written. -/
theorem Memory.read_writeN_inside {m : List Host.Cell} (k i : Nat) (bs : List Byte) (hw : Memory.wf m = true) (hi : i < bs.length) :
    Memory.read (Memory.writeN m k bs) (k + i) = bs.getD i 0 := by
  induction bs generalizing m k i with
  | nil => simp at hi
  | cons b bs ih =>
    cases i with
    | zero =>
      rw [Memory.writeN, Memory.read_writeN_outside _ _ _ (by omega)]
      simpa using Memory.read_write_same k b hw
    | succ i =>
      rw [Memory.writeN, ← Nat.succ_add_eq_add_succ k i, List.getD_cons_succ]
      exact ih (k + 1) i (Memory.write_wf k b hw) (by simpa using hi)

/-- Bytes read from a place within a range that is written. -/
theorem Memory.readN_writeN {m : List Host.Cell} (k o n : Nat) (bs : List Byte) (hw : Memory.wf m = true) (h : o + n ≤ bs.length) :
    Memory.readN (Memory.writeN m k bs) (k + o) n = (List.range n).map fun i => bs.getD (o + i) 0 := by
  refine List.map_congr_left fun i hi => ?_
  rw [List.mem_range] at hi
  rw [Nat.add_assoc, Memory.read_writeN_inside k (o + i) bs hw (by omega)]

end Sys2Proof.Machine
end

section
/-! SUPPORT. What the memory hierarchy leaves of what a host's access depends on: storage written, lines spilled, pages of threads' own memory
undefined (R66, R70, R268). -/

namespace Sys2Proof.Machine

/-! ## What a host's access depends on -/

/-- A state in which a host's accesses stand as they did: its queue pairs and what it has received, who owns memory and its keys, which
units have power; a canonical memory is still canonical, and every message in the mesh is still there. -/
structure State.LeavesHost (s t : State) : Prop where
  hostOut : t.hostOut = s.hostOut
  hostQps : t.hostQps = s.hostQps
  parts : t.parts = s.parts
  granuleOwner : t.granuleOwner = s.granuleOwner
  units : t.units = s.units
  keys : t.keys = s.keys
  wf : Memory.wf s.mem = true → Memory.wf t.mem = true
  sent : ∀ r o x, x ∈ (s.router r).out.getD o [] → x ∈ (t.router r).out.getD o []

theorem State.LeavesHost.refl (s : State) : s.LeavesHost s := ⟨rfl, rfl, rfl, rfl, rfl, rfl, id, fun _ _ _ => id⟩

theorem State.LeavesHost.trans {s t u : State} (h : s.LeavesHost t) (k : t.LeavesHost u) : s.LeavesHost u where
  hostOut := k.hostOut.trans h.hostOut
  hostQps := k.hostQps.trans h.hostQps
  parts := k.parts.trans h.parts
  granuleOwner := k.granuleOwner.trans h.granuleOwner
  units := k.units.trans h.units
  keys := k.keys.trans h.keys
  wf := fun w => k.wf (h.wf w)
  sent := fun r o x m => k.sent r o x (h.sent r o x m)

theorem State.LeavesHost.foldl {α : Type} (f : State → α → State) (hf : ∀ (s : State) (a : α), s.LeavesHost (f s a)) (l : List α)
    (s : State) : s.LeavesHost (l.foldl f s) := by
  induction l generalizing s with
  | nil => exact .refl s
  | cons a l ih => exact (hf s a).trans (ih _)

/-- Changes of teams, slices, queues, sockets and of the counters of names and free values are of that kind. -/
theorem State.LeavesHost.of_tables {s t : State}
    (h : t = { s with teams := t.teams, slices := t.slices, queues := t.queues, socks := t.socks, nextUid := t.nextUid, free := t.free }) :
    s.LeavesHost t := by
  rw [h]
  exact ⟨rfl, rfl, rfl, rfl, rfl, rfl, id, fun _ _ _ => id⟩

theorem State.LeavesHost.modSlice (s : State) (k : Nat) (f : Slice → Slice) : s.LeavesHost (s.modSlice k f) := .of_tables rfl

theorem State.LeavesHost.modTeam (s : State) (t : Nat) (f : Team → Team) : s.LeavesHost (s.modTeam t f) := by
  unfold State.modTeam
  split
  · exact .of_tables rfl
  · exact .refl s

theorem State.LeavesHost.homeOf {s t : State} (h : s.LeavesHost t) (line : Nat) : t.homeOf line = s.homeOf line := by
  have hp : t.part = s.part := funext (State.part_congr s t h.parts)
  have ho : t.ownerOf = s.ownerOf := funext fun pa => by rw [State.ownerOf, h.granuleOwner, State.ownerOf]
  rw [State.homeOf, hp, ho, State.homeOf]

theorem State.LeavesHost.sockUp {s t : State} (h : s.LeavesHost t) (m : Nat) : t.sockUp m = s.sockUp m := by
  simp only [State.sockUp, State.unit_congr s t h.units]

theorem State.LeavesHost.hostQp {s t : State} (h : s.LeavesHost t) (qp : Nat) : t.hostQp qp = s.hostQp qp := by
  simp only [State.hostQp, h.hostQps]

/-! ## Messages of the mesh (R346) -/

/-- A message that enters the mesh removes no other. -/
theorem State.LeavesHost.sendMesh (s : State) (r : Nat) (dest : MeshDest) (net source : Nat) (tm : Terms) (msg : Msg) :
    s.LeavesHost (s.sendMesh r dest net source tm msg) := by
  refine ⟨rfl, rfl, rfl, rfl, rfl, rfl, id, fun j o x hx => ?_⟩
  unfold State.sendMesh State.post
  by_cases hj : j = r
  · subst hj
    rw [State.router_modRouter_same]
    have put_keeps (p : Nat) (m : MeshMsg) : x ∈ ((s.router j).out.set p ((s.router j).out.getD p [] ++ [m])).getD o [] := by
      by_cases hp : o = p
      · subst hp
        rw [AMap.getD_set_same]
        exact List.mem_append_left _ hx
      · rwa [AMap.getD_set_other _ _ _ _ _ hp]
    split <;> exact put_keeps _ _
  · rw [State.router_modRouter_other _ _ _ _ hj]
    exact hx

/-- A message of a network other than BLK's joins the output that its route takes. -/
theorem State.sendMesh_mem (s : State) (r : Nat) (dest : MeshDest) (net source : Nat) (tm : Terms) (msg : Msg) (hn : net ≠ 4) :
    ⟨dest, net, source, tm, s.nextUid, true, msg⟩ ∈ ((s.sendMesh r dest net source tm msg).router r).out.getD (routeOut r dest) [] := by
  unfold State.sendMesh State.post
  rw [State.router_modRouter_same]
  simp [hn]

/-! ## Storage -/

theorem State.storeSector_writes (s : State) (pa key : Nat) (x : Sector) (m : BitVec 64) :
    ∃ a bs, s.storeSector pa key x m = { s with mem := Memory.writeN s.mem a bs } := ⟨_, _, rfl⟩

/-- Storage written under a key changes memory alone, which stays canonical. -/
theorem State.LeavesHost.storeSector (s : State) (pa key : Nat) (x : Sector) (m : BitVec 64) : s.LeavesHost (s.storeSector pa key x m) := by
  obtain ⟨a, bs, e⟩ := s.storeSector_writes pa key x m
  rw [e]
  exact ⟨rfl, rfl, rfl, rfl, rfl, rfl, fun w => Memory.writeN_wf a bs w, fun _ _ _ => id⟩

theorem State.LeavesHost.noteQcmd (s : State) (pa : Nat) (m : BitVec 64) : s.LeavesHost (s.noteQcmd pa m) := by
  unfold State.noteQcmd
  split
  · exact .of_tables rfl
  · exact .refl s

theorem State.LeavesHost.spillLine (s : State) (k line net : Nat) (tm : Terms) : s.LeavesHost (s.spillLine k line net tm) := by
  unfold State.spillLine
  split
  · exact .refl s
  · dsimp only
    refine .trans ?_ (.modSlice _ _ _)
    split
    · exact .refl s
    · refine .trans (t := { s with nextUid := s.nextUid + 1 }) (.of_tables rfl) ?_
      exact (State.LeavesHost.modSlice _ _ _).trans (.sendMesh _ _ _ _ _ _ _)

theorem State.LeavesHost.sliceRoom (s : State) (k line net : Nat) (tm : Terms) : s.LeavesHost (s.sliceRoom k line net tm) := by
  unfold State.sliceRoom
  dsimp only
  split
  · exact .refl s
  · split
    · exact .spillLine _ _ _ _ _
    · exact .refl s

theorem State.LeavesHost.mergeSector (s : State) (pa key : Nat) (x : Sector) (m : BitVec 64) (net : Nat) (tm : Terms) :
    s.LeavesHost (s.mergeSector pa key x m net tm) := by
  unfold State.mergeSector
  refine (State.LeavesHost.noteQcmd s pa m).trans ?_
  dsimp only
  split
  · exact .storeSector _ _ _ _ _
  · exact (State.LeavesHost.sliceRoom _ _ _ _ _).trans (.modSlice _ _ _)

theorem State.LeavesHost.mergeBytes (s : State) (pa key : Nat) (bs : List Byte) (net : Nat) (tm : Terms) :
    s.LeavesHost (s.mergeBytes pa key bs net tm) :=
  .foldl _ (fun _ _ => .mergeSector _ _ _ _ _ _ _) _ _

/-! ## Lines written back to memory -/

theorem State.LeavesHost.unspill (s : State) (k id : Nat) : s.LeavesHost (s.unspill k id) := by
  unfold State.unspill
  split
  · refine .trans (.foldl _ (fun s i => ?_) _ _) (.modSlice _ _ _)
    dsimp only
    split
    · exact .refl s
    · exact .storeSector _ _ _ _ _
  · exact .refl s

theorem State.LeavesHost.storeLine (s : State) (k line : Nat) : s.LeavesHost (s.storeLine k line) := by
  have spilled := State.LeavesHost.foldl (fun s (x : Spill) => s.unspill k x.id) (fun s x => .unspill s k x.id)
    ((s.slice k).spills.filter (·.line == line)) s
  unfold State.storeLine
  refine spilled.trans ?_
  dsimp only
  split
  · exact .refl _
  · exact .trans (.foldl _ (fun _ _ => .storeSector _ _ _ _ _) _ _) (.modSlice _ _ _)

/-! ## Pages whose contents become undefined (R70) -/

theorem State.LeavesHost.freeBytes (s : State) (n : Nat) : s.LeavesHost (s.freeBytes n).1 := by
  induction n generalizing s with
  | zero => exact .refl s
  | succ n ih => exact .trans (t := s.fresh.2) (.of_tables rfl) (ih _)

theorem State.LeavesHost.undefinePage (s : State) (t va : Nat) : s.LeavesHost (s.undefinePage t va) := by
  unfold State.undefinePage
  split
  · exact .refl s
  · split
    · exact .refl s
    · split
      · dsimp only
        split
        · exact (State.LeavesHost.freeBytes s _).trans ((State.LeavesHost.mergeBytes _ _ _ _ _ _).trans (.modTeam _ _ _))
        · exact .refl s
      · exact .refl s

theorem State.LeavesHost.undefinePages (s : State) : s.LeavesHost s.undefinePages :=
  .foldl _ (fun s _ => .foldl _ (fun _ _ => .undefinePage _ _ _) _ s) _ _

/-! ## Bytes that no slice is home of, written at their memory socket -/

theorem sectorSpans_one {pa n : Nat} (h0 : 0 < n) (h : pa % 64 + n ≤ 64) : sectorSpans pa n = [(0, pa, n)] := by
  have hc : (pa % 64 + n + 63) / 64 = 1 := by omega
  have hn : Nat.min (pa + n) (pa - pa % 64 + 64) - pa = n := by
    show min _ _ - pa = n
    omega
  simp [sectorSpans, hc, hn]

theorem lineSpans_one {pa n : Nat} (h0 : 0 < n) (h : pa % 256 + n ≤ 256) : lineSpans pa n = [(0, pa, n)] := by
  have hc : (pa % 256 + n + 255) / 256 = 1 := by omega
  have hn : Nat.min (pa + n) (pa - pa % 256 + 256) - pa = n := by
    show min _ _ - pa = n
    omega
  simp [lineSpans, hc, hn]

/-- Bytes of one sector without a home slice, whose socket has power, are written to storage. -/
theorem State.writePa_homeless {s : State} {pa key : Nat} {bs : List Byte} (hb : bs ≠ []) (h : pa % 64 + bs.length ≤ 64)
    (hh : s.homeOf (pa / 256) = none) (hu : s.sockUp (memSocket pa) = true) :
    s.writePa pa key bs = (s.noteQcmd pa (maskAt 64 (pa % 64) bs.length)).storeSector pa key
      (BitVec.ofNat 512 (leNat bs <<< (8 * (pa % 64)))) (maskAt 64 (pa % 64) bs.length) := by
  have hn := (State.LeavesHost.noteQcmd s pa (maskAt 64 (pa % 64) bs.length)).homeOf (pa / 256)
  rw [State.writePa, State.writePaFor, sectorSpans_one (List.length_pos_iff.mpr hb) h]
  simp only [List.foldl_cons, List.foldl_nil, List.drop_zero, List.take_length, State.writeSector, hh, hu, if_true, State.mergeSector, hn]

/-- Storage under key 0 holds the bytes that have been written. -/
theorem State.storeSector_readN {s : State} {pa : Nat} {bs : List Byte} (h : pa % 64 + bs.length ≤ 64) (hw : Memory.wf s.mem = true) :
    Memory.readN (s.storeSector pa 0 (BitVec.ofNat 512 (leNat bs <<< (8 * (pa % 64)))) (maskAt 64 (pa % 64) bs.length)).mem
      (storageAddr (pa / 64 * 64) + pa % 64) bs.length = bs := by
  simp only [State.storeSector, State.seal, State.unseal, if_true]
  rw [Memory.readN_writeN _ _ _ _ hw (by rwa [Sector.bytes_length])]
  refine List.ext_getElem (by simp) fun i _ hi => ?_
  have hm : (maskAt 64 (pa % 64) bs.length).getLsbD (pa % 64 + i) = true := by
    rw [maskAt_getLsbD _ _ _ _ (by omega)]
    exact decide_eq_true ⟨by omega, by omega⟩
  rw [List.getElem_map, List.getElem_range, Sector.bytes_getD _ _ (by omega), Sector.byte_merge_new _ _ _ _ (by omega) hm,
    extract_bytes_at _ _ _ _ (by omega) (by omega), Nat.add_sub_cancel_left]
  simp [hi]

end Sys2Proof.Machine
end

section
/-! SUPPORT. Translation invalidations (R266): what dropping translations leaves, and that sending home what is masked caches no
translation. -/

namespace Sys2Proof.Machine

/-! ## Tables of which every entry changes -/

theorem AMap.get?_mapVals {α : Type} (m : AMap α) (f : α → α) (k : Nat) : (m.mapVals f).get? k = (m.get? k).map f := by
  induction m with
  | nil => rfl
  | cons x m ih =>
    have hc : AMap.mapVals (x :: m) f = (x.1, f x.2) :: AMap.mapVals m f := rfl
    rw [hc, AMap.get?, AMap.get?, ih]
    split <;> rfl

/-! ## Translations held by cores -/

theorem Core.release_tlb (c : Core) (i : Nat) : (c.release i).tlb = c.tlb := by
  unfold Core.release
  split <;> rfl

theorem Core.dropReuse_tlb (c : Core) (p : ReuseEntry → Bool) : (c.dropReuse p).tlb = c.tlb := by
  have releases (is : List Nat) (c : Core) : (is.foldl Core.release c).tlb = c.tlb := by
    induction is generalizing c with
    | nil => rfl
    | cons i is ih => exact (ih _).trans (c.release_tlb i)
  have entries (es : List ReuseEntry) (c : Core) : (es.foldl (fun c e => e.names.foldl Core.release c) c).tlb = c.tlb := by
    induction es generalizing c with
    | nil => rfl
    | cons e es ih => exact (ih _).trans (releases _ c)
  exact entries _ _

/-- Whether a cached translation is of a page that an invalidation names. -/
def TransInval.covers (v : TransInval) (e : TlbEntry) : Prop :=
  e.ctx % 4096 = v.ctx ∧ v.lo / 65536 ≤ e.vpage ∧ e.vpage ≤ v.hi / 65536

/-- No core holds a translation that an invalidation names. -/
def State.CleanOf (s : State) (v : TransInval) : Prop := ∀ c, ∀ e ∈ (s.core c).tlb, ¬ v.covers e

theorem State.dropTranslations_clean (s : State) (v : TransInval) : (s.dropTranslations v).CleanOf v := by
  intro c e he hv
  unfold State.core State.dropTranslations AMap.getD at he
  rw [AMap.get?_mapVals] at he
  cases hc : s.cores.get? c with
  | none => simp [hc, Core.reset] at he
  | some x =>
    obtain ⟨h1, h2, h3⟩ := hv
    simp [hc, h1, h2, h3] at he

/-- A state whose cores hold the same translations. -/
def State.SameTlbs (s t : State) : Prop := ∀ c, (t.core c).tlb = (s.core c).tlb

theorem State.SameTlbs.refl (s : State) : s.SameTlbs s := fun _ => rfl

theorem State.SameTlbs.trans {s t u : State} (h : s.SameTlbs t) (k : t.SameTlbs u) : s.SameTlbs u := fun c => (k c).trans (h c)

theorem State.SameTlbs.ite {s t u : State} {p : Prop} [Decidable p] (h : s.SameTlbs t) (k : s.SameTlbs u) : s.SameTlbs (if p then t else u) := by
  split
  · exact h
  · exact k

theorem State.SameTlbs.foldl {α : Type} (f : State → α → State) (hf : ∀ (s : State) (a : α), s.SameTlbs (f s a)) (l : List α) (s : State) :
    s.SameTlbs (l.foldl f s) := by
  induction l generalizing s with
  | nil => exact .refl s
  | cons a l ih => exact (hf s a).trans (ih _)

theorem State.SameTlbs.of_cores {s t : State} (h : t.cores = s.cores) : s.SameTlbs t := fun c => by rw [State.core_congr s t h]

theorem State.SameTlbs.modCore (s : State) (k : Nat) (f : Core → Core) (hf : ∀ c, (f c).tlb = c.tlb) : s.SameTlbs (s.modCore k f) := by
  intro c
  by_cases hc : c = k
  · subst hc
    rw [State.core_modCore_same, hf]
  · rw [State.core_modCore_other _ _ _ _ hc]

theorem State.CleanOf.of_sameTlbs {s t : State} {v : TransInval} (h : s.CleanOf v) (k : s.SameTlbs t) : t.CleanOf v := by
  intro c
  rw [k c]
  exact h c

/-! ## Masked bytes sent home (R270, R295) -/

theorem State.SameTlbs.sendReq (s : State) (core : Nat) (asker : Asker) (dom : Dom) (line key : Nat) (kind : ReqKind) (tm : Terms)
    (h : Bool) : s.SameTlbs (s.sendReq core asker dom line key kind tm h).1 := by
  unfold State.sendReq
  split <;> exact .of_cores rfl

theorem State.SameTlbs.commitOf (s : State) (ts : List Nat) : s.SameTlbs (s.commitOf ts) :=
  .foldl _ (fun _ _ => .of_cores (State.modTeam_cores _ _ _)) _ _

theorem State.SameTlbs.writeBack (s : State) (core sec : Nat) (doms : List Dom) (tm : Terms) :
    s.SameTlbs (s.writeBack core sec doms tm) := by
  unfold State.writeBack
  split
  · exact .refl s
  · split
    · exact .refl s
    · refine .ite (.refl s) (.trans (.trans (.foldl _ (fun s d => ?_) _ s) (.commitOf _ _)) (.modCore _ _ _ fun _ => rfl))
      exact .ite (.refl s) (.trans (.sendReq _ _ _ _ _ _ _ _ _) (.modCore _ _ _ fun _ => rfl))

theorem State.SameTlbs.writeBackAll (s : State) (core : Nat) (d : Dom) (tm : Terms) : s.SameTlbs (s.writeBackAll core d tm) :=
  .foldl _ (fun _ _ => .foldl _ (fun _ _ => .writeBack _ _ _ _ _) _ _) _ _

theorem State.SameTlbs.failWriteBack (s : State) (t : Nat) (tm : Team) (ln : Launch) (va : Nat) (a : Acc) :
    s.SameTlbs (s.failWriteBack t tm ln va a) := by
  unfold State.failWriteBack
  split
  · exact .refl s
  · exact .ite (.refl s) (.of_cores rfl)
  · exact .of_cores rfl

theorem State.SameTlbs.cleanStash (s : State) (t osec : Nat) (drop : Bool) (terms : Terms) :
    s.SameTlbs (s.cleanStash t osec drop terms) := by
  unfold State.cleanStash
  split
  · exact .refl s
  · split
    · have kept (u : State) (core sec : Nat) (f : Team → Team) :
          u.SameTlbs ((if drop then u.modCore core fun c => c.dropSectorReuse sec else u).modTeam t f) := by
        exact .trans (.ite (.modCore _ _ _ fun c => c.dropReuse_tlb _) (.refl u)) (.of_cores (State.modTeam_cores _ _ _))
      refine .ite (kept _ _ _ _) (.ite (.refl s) ?_)
      split
      · refine .trans (.trans (.trans (.foldl _ (fun s d => ?_) _ s) (.commitOf _ _)) (kept _ _ _ _)) (.modCore _ _ _ fun _ => rfl)
        exact .ite (.refl s) (.trans (.sendReq _ _ _ _ _ _ _ _ _) (.modCore _ _ _ fun _ => rfl))
      · exact .failWriteBack _ _ _ _ _ _
    · exact .refl s

theorem State.SameTlbs.cleanTeamStash (s : State) (t : Nat) (terms : Terms) : s.SameTlbs (s.cleanTeamStash t terms) := by
  unfold State.cleanTeamStash
  split
  · exact .foldl _ (fun _ _ => .cleanStash _ _ _ _ _) _ _
  · exact .refl s

theorem State.SameTlbs.flushFor (s : State) (ctx : Nat) : s.SameTlbs (s.flushFor ctx) :=
  .trans (.foldl _ (fun _ _ => .trans (.writeBackAll _ _ _ _) (.writeBackAll _ _ _ _)) _ s)
    (.foldl _ (fun _ _ => .cleanTeamStash _ _ _) _ _)

end Sys2Proof.Machine
end

section
/-! SUPPORT. A queue pair's work (R66, R423): what an RDMA operation asks for, and what the pair's first operation does. -/

namespace Sys2Proof.Machine

/-! ## The queue pair -/

/-- A queue pair with nothing under way. -/
def State.QpIdle (s : State) (qp : Nat) : Prop := s.hostQp qp = ⟨[], false, []⟩ ∧ qp < 132

theorem State.hostQp_setHostQp (s : State) (qp : Nat) (o : HostOp) (os : List HostOp) (b : Bool) (g : List Byte) :
    (s.setHostQp qp ⟨o :: os, b, g⟩).hostQp qp = ⟨o :: os, b, g⟩ := by
  simp [State.hostQp, State.setHostQp]

/-- What an RDMA operation gives an idle pair is done at once as far as it can be: its access, then the reply. -/
theorem State.rdma_of_idle {s : State} {qp pa n : Nat} {data : Option (List Byte)} {a b : HostOp} (hq : s.QpIdle qp) (hb : s.bootstat ≠ 0)
    (ho : s.hostOps pa n data = [a, b]) : s.rdma qp pa n data = ((s.setHostQp qp ⟨[a, b], false, []⟩).hostGo qp).hostGo qp := by
  obtain ⟨hidle, hlt⟩ := hq
  rw [State.rdma, if_neg hb, if_neg (Nat.not_le.mpr hlt), hidle, ho]
  rfl

/-- The reply that ends the work of a queue pair. -/
def State.answered (s : State) (qp : Nat) (r : HostReply) : State := { s.setHostQp qp ⟨[], false, []⟩ with hostOut := s.hostOut ++ [r] }

section
variable (s : State) (qp : Nat) (r : HostReply)

@[simp] theorem State.answered_hostOut : (s.answered qp r).hostOut = s.hostOut ++ [r] := rfl
@[simp] theorem State.answered_mem : (s.answered qp r).mem = s.mem := rfl
@[simp] theorem State.answered_err : (s.answered qp r).err = s.err := rfl
@[simp] theorem State.answered_errAddr : (s.answered qp r).errAddr = s.errAddr := rfl
@[simp] theorem State.answered_parts : (s.answered qp r).parts = s.parts := rfl
@[simp] theorem State.answered_part (p : Nat) : (s.answered qp r).part p = s.part p := rfl
end

section
variable (s : State) (qp : Nat) (q : HostQp)

@[simp] theorem State.setHostQp_hostOut : (s.setHostQp qp q).hostOut = s.hostOut := rfl
@[simp] theorem State.setHostQp_mem : (s.setHostQp qp q).mem = s.mem := rfl
@[simp] theorem State.setHostQp_err : (s.setHostQp qp q).err = s.err := rfl
@[simp] theorem State.setHostQp_parts : (s.setHostQp qp q).parts = s.parts := rfl
@[simp] theorem State.setHostQp_bootstat : (s.setHostQp qp q).bootstat = s.bootstat := rfl

/-- A queue pair's work shows in no register. -/
theorem State.regRead_setHostQp (o : Nat) : (s.setHostQp qp q).regRead o = s.regRead o := by
  generalize ht : s.setHostQp qp q = t
  have blocks : t.readIdentity = s.readIdentity ∧ t.readPlacement = s.readPlacement ∧ t.readCounter = s.readCounter ∧
      t.readPart = s.readPart ∧ t.readEvq = s.readEvq ∧ t.readPort = s.readPort ∧ t.readFq = s.readFq := by
    rw [← ht]
    exact ⟨rfl, rfl, rfl, rfl, rfl, rfl, rfl⟩
  have tables : t.bootstat = s.bootstat ∧ t.fwImage = s.fwImage ∧ t.ctx = s.ctx ∧ t.queue = s.queue ∧ t.unit = s.unit ∧
      t.queueOwner = s.queueOwner ∧ t.granuleOwner = s.granuleOwner ∧ t.keyData = s.keyData ∧ t.spdm = s.spdm := by
    rw [← ht]
    exact ⟨rfl, rfl, rfl, rfl, rfl, rfl, rfl, rfl, rfl⟩
  simp only [State.regRead, blocks, tables]
end

/-! ## What an operation asks for -/

theorem State.hostOps_register (s : State) {pa n : Nat} (data : Option (List Byte)) (hm : inMgmt pa n = true) (hr : isRegister pa n = true) :
    s.hostOps pa n data = [data.elim (.regRead (pa - Config.mbase)) fun bs => .regWrite (pa - Config.mbase) (BitVec.ofNat 64 (leNat bs)),
      if data.isSome then .ack else .reply] := by
  rw [State.hostOps, if_pos hm, if_pos hr]

theorem State.hostOps_malformed (s : State) {pa n : Nat} (data : Option (List Byte)) (hm : inMgmt pa n = true)
    (hr : isRegister pa n = false) : s.hostOps pa n data = [.reject (pa - Config.mbase) n, if data.isSome then .ack else .reply] := by
  rw [State.hostOps, if_pos hm, hr]
  rfl

/-- Bytes within one line of memory are written in one piece, and read in one piece. -/
theorem State.hostOps_line {s : State} {pa n : Nat} (hm : inMgmt pa n = false) (hb : s.bootstat = 1) (h1 : (paPlace pa).isSome = true)
    (h2 : (paPlace (pa + n - 1)).isSome = true) (h0 : 0 < n) (hl : pa % 256 + n ≤ 256) :
    (∀ bs, bs.length = n → s.hostOps pa n (some bs) = [.write pa bs, .ack]) ∧ s.hostOps pa n none = [.read pa n, .reply] := by
  refine ⟨fun bs hbs => ?_, ?_⟩
  · simp [State.hostOps, hm, hb, h1, h2, lineSpans_one h0 hl, List.take_of_length_le (Nat.le_of_eq hbs)]
  · simp [State.hostOps, hm, hb, h1, h2, lineSpans_one h0 hl]

/-! ## The first operation of a pair -/

section
variable {s : State} {qp : Nat} {rest : List HostOp} {b : Bool} {g : List Byte}

theorem State.hostGo_ack (h : s.hostQp qp = ⟨[.ack], b, g⟩) : s.hostGo qp = s.answered qp (.ack qp) := by
  simp only [State.hostGo, h, List.tail_cons, State.answered]

theorem State.hostGo_reply (h : s.hostQp qp = ⟨[.reply], b, g⟩) : s.hostGo qp = s.answered qp (.data qp g) := by
  simp only [State.hostGo, h, List.tail_cons, State.answered]

theorem State.hostGo_error (h : s.hostQp qp = ⟨[.error, .reply], b, g⟩) : s.hostGo qp = s.answered qp (.remoteError qp) := by
  simp only [State.hostGo, h, State.answered]

theorem State.hostGo_regWrite {off : Nat} {v : W64} (h : s.hostQp qp = ⟨.regWrite off v :: rest, b, g⟩) :
    s.hostGo qp = (s.setHostQp qp ⟨rest, false, g⟩).regWrite off v := by
  simp only [State.hostGo, h, List.tail_cons, List.append_nil]

theorem State.hostGo_regRead {off : Nat} (h : s.hostQp qp = ⟨.regRead off :: rest, b, g⟩) :
    s.hostGo qp = s.setHostQp qp ⟨rest, false, g ++ toLe 8 (s.regRead off)⟩ := by
  simp only [State.hostGo, h, List.tail_cons]

theorem State.hostGo_reject {off n : Nat} (h : s.hostQp qp = ⟨.reject off n :: rest, b, g⟩) :
    s.hostGo qp = (s.setHostQp qp ⟨rest, false, g ++ zeros n⟩).reject off := by
  simp only [State.hostGo, h, List.tail_cons]

/-- Bytes of a line with a home slice become a request to it. -/
theorem State.hostGo_write_asks {pa k : Nat} {bs : List Byte} (h : s.hostQp qp = ⟨.write pa bs :: rest, false, g⟩)
    (hh : s.homeOf (pa / 256) = some k) :
    s.hostGo qp = s.undefinePages.hostAsk qp pa
      (.write (maskAt 256 (pa % 256) bs.length) (BitVec.ofNat 2048 (leNat bs <<< (8 * (pa % 256))))) k := by
  have hl := State.LeavesHost.undefinePages s
  have hh' := (hl.homeOf (pa / 256)).trans hh
  simp only [State.hostGo, h, State.hostLine, hh', hl.hostQp, Bool.false_eq_true, if_false, Option.getD_some]

/-- While its request is under way a queue pair waits. -/
theorem State.hostGo_write_waits {pa k : Nat} {bs : List Byte} (h : s.hostQp qp = ⟨.write pa bs :: rest, true, g⟩)
    (hh : s.homeOf (pa / 256) = some k) : s.hostGo qp = s.undefinePages := by
  have hl := State.LeavesHost.undefinePages s
  have hh' := (hl.homeOf (pa / 256)).trans hh
  simp only [State.hostGo, h, State.hostLine, hh', hl.hostQp, if_true, Option.getD_none]

/-- Bytes without a home slice are written to storage. -/
theorem State.hostGo_write_homeless {pa : Nat} {bs : List Byte} (h : s.hostQp qp = ⟨.write pa bs :: rest, b, g⟩)
    (hh : s.homeOf (pa / 256) = none) (hu : s.sockUp (memSocket pa) = true) :
    s.hostGo qp = (s.undefinePages.writePa pa 0 bs).setHostQp qp ⟨rest, false, g⟩ := by
  have hl := State.LeavesHost.undefinePages s
  have hh' := (hl.homeOf (pa / 256)).trans hh
  have hu' := (hl.sockUp (memSocket pa)).trans hu
  simp only [State.hostGo, h, State.hostLine, hh', hu', if_true, Option.getD_some, List.tail_cons, List.append_nil]

/-- Withheld data are not read: the pair goes on with an error and the reply. -/
theorem State.hostGo_read_withheld {pa n : Nat} (h : s.hostQp qp = ⟨[.read pa n, .reply], b, g⟩) (hh : s.homeOf (pa / 256) = none)
    (hu : s.sockUp (memSocket pa) = true) (hw : s.withheldAt pa n = true) :
    s.hostGo qp = s.setHostQp qp ⟨[.error, .reply], false, []⟩ := by
  have hl := State.LeavesHost.undefinePages s
  have hh' := (hl.homeOf (pa / 256)).trans hh
  have hu' := (hl.sockUp (memSocket pa)).trans hu
  simp only [State.hostGo, h, State.hostLine, hh', hu', hw, if_true, Option.getD_some, List.tail_cons]
  rfl

/-- An RDMA write whose access is over at once is acknowledged. -/
theorem State.rdma_acked {t : State} {pa n : Nat} {data : Option (List Byte)} {a : HostOp} (hq : s.QpIdle qp) (hb : s.bootstat ≠ 0)
    (ho : s.hostOps pa n data = [a, .ack]) (hf : (s.setHostQp qp ⟨[a, .ack], false, []⟩).hostGo qp = t)
    (ht : t.hostQp qp = ⟨[.ack], b, g⟩) :
    s.rdma qp pa n data = t.answered qp (.ack qp) := by
  rw [State.rdma_of_idle hq hb ho, hf, State.hostGo_ack ht]

/-- An RDMA read whose access is over at once is answered with what it has read. -/
theorem State.rdma_replied {t : State} {pa n : Nat} {data : Option (List Byte)} {a : HostOp} (hq : s.QpIdle qp) (hb : s.bootstat ≠ 0)
    (ho : s.hostOps pa n data = [a, .reply]) (hf : (s.setHostQp qp ⟨[a, .reply], false, []⟩).hostGo qp = t)
    (ht : t.hostQp qp = ⟨[.reply], b, g⟩) :
    s.rdma qp pa n data = t.answered qp (.data qp g) := by
  rw [State.rdma_of_idle hq hb ho, hf, State.hostGo_reply ht]

end

/-! ## The request of a pair -/

/-- The request that a queue pair sends. -/
def State.hostReq (s : State) (qp pa : Nat) (kind : ReqKind) : Req :=
  ⟨s.nextUid, 0, qpSource qp, .host qp, qpDom qp, pa / 256, 0, kind, (Terms.nobody 0xFF).deadline, (Terms.nobody 0xFF).prio,
    (Terms.nobody 0xFF).queue, (Terms.nobody 0xFF).part, true, false, (Terms.nobody 0xFF).own⟩

/-- A queue pair whose request is under way, before the request has joined the mesh. -/
def State.hostAsking (s : State) (qp : Nat) : State :=
  { s with nextUid := s.nextUid + 1, hostQps := s.hostQps.set qp { s.hostQp qp with sent := true } }

theorem State.hostAsk_eq (s : State) (qp pa : Nat) (kind : ReqKind) (k : Nat) :
    s.hostAsk qp pa kind k = (s.hostAsking qp).sendMesh (sockRouter (12 + qpDie qp)) (.slice k) (netOf (qpDom qp)) (qpSource qp)
      (Terms.nobody 0xFF) (.request (s.hostReq qp pa kind)) := rfl

theorem State.hostAsk_leaves (s : State) (qp pa : Nat) (kind : ReqKind) (k : Nat) :
    (s.hostAsking qp).LeavesHost (s.hostAsk qp pa kind k) := by
  rw [State.hostAsk_eq]
  exact .sendMesh _ _ _ _ _ _ _

theorem State.hostAsk_qp (s : State) (qp pa : Nat) (kind : ReqKind) (k : Nat) :
    (s.hostAsk qp pa kind k).hostQp qp = { s.hostQp qp with sent := true } := by
  rw [(s.hostAsk_leaves qp pa kind k).hostQp]
  simp [State.hostQp, State.hostAsking]

/-- The request stands at the router of the pair's port die. -/
theorem State.hostAsk_sent (s : State) (qp pa : Nat) (kind : ReqKind) (k : Nat) :
    ∃ o x, x ∈ ((s.hostAsk qp pa kind k).router (sockRouter (12 + qpDie qp))).out.getD o [] ∧ x.dest = .slice k ∧
      x.msg = .request (s.hostReq qp pa kind) := by
  have hn : netOf (qpDom qp) ≠ 4 := by
    unfold qpDom
    split <;> decide
  rw [State.hostAsk_eq]
  exact ⟨_, _, State.sendMesh_mem _ _ _ _ _ _ _ hn, rfl, rfl⟩

end Sys2Proof.Machine
end

section
/-! SUPPORT. Registers of the management block by their offsets (R423, R424, R427, R438), and keys (R431). -/

namespace Sys2Proof.Machine

/-- HBASE of a partition in the management block (R427). -/
def hbaseOffset (p : Nat) : Nat := 0x100030 + 4096 * p

/-- It lies at 0x30 of the partition's block. -/
theorem hbaseOffset_block {p : Nat} (hp : p < 24) :
    0x100000 ≤ hbaseOffset p ∧ hbaseOffset p < 0x118000 ∧ (hbaseOffset p - 0x100000) / 4096 = p ∧ hbaseOffset p % 4096 = 0x30 := by
  unfold hbaseOffset
  omega

theorem State.regWrite_hbase {s : State} {p : Nat} (v : W64) (hp : p < 24) (hb : s.bootstat = 1) :
    s.regWrite (hbaseOffset p) v = s.modPart p fun x => { x with hbase := v } := by
  obtain ⟨hlo, hhi, hpart, hreg⟩ := hbaseOffset_block hp
  rw [State.regWrite, if_neg (by omega), if_neg (by omega), if_neg (by omega), if_neg (by omega), if_neg (by omega), if_neg (by omega),
    if_neg (by rw [hb]; decide), if_neg (by omega), if_neg (by omega), if_pos ⟨hlo, hhi⟩, hpart, hreg]
  rfl

theorem State.regRead_hbase {s : State} {p : Nat} (hp : p < 24) (hb : s.bootstat = 1) :
    s.regRead (hbaseOffset p) = (s.part p).hbase.toNat := by
  obtain ⟨hlo, hhi, hpart, hreg⟩ := hbaseOffset_block hp
  rw [State.regRead, if_neg (by omega), if_neg (by rw [hb]; decide), if_neg (by omega), if_neg (by omega), if_pos ⟨hlo, hhi⟩, hpart, hreg]
  rfl

theorem State.regWrite_mailbox {s : State} (v : W64) (hb : s.bootstat = 1) : s.regWrite 0x400000 v = s.writeMailbox 0 v := by
  simp [State.regWrite, hb]

theorem State.regRead_mailbox {s : State} (hb : s.bootstat = 1) : s.regRead 0x400000 = leAt s.spdm.box 0 8 := by
  simp [State.regRead, hb]

/-- A command of a host register while the ports are up (R436). -/
theorem State.command_up {s : State} (f : State → State) (hb : s.bootstat = 1) : s.command f = .next (f s) := by
  rw [State.command, if_pos hb]

theorem State.keyUnload_keys {s : State} {i : Nat} {key : BitVec 512} (h : s.keys.get? i = some key) :
    (s.keyUnload i).keys = s.keys.erase i := by
  have hl := State.LeavesHost.foldl
    (fun s (sl : Nat × Slice) => (sl.2.linesUnder (· == i)).foldl (fun s l => s.storeLine sl.1 l) s)
    (fun s sl => .foldl _ (fun _ _ => .storeLine _ _ _) _ s) s.slices s
  rw [State.keyUnload, h]
  exact congrArg (·.erase i) hl.keys

/-- The SPDM responder answers the request that has been handed over (R438); what it remembers of it keeps the mailbox. -/
theorem State.spdmAnswer_answers {s : State} {code : Nat} {r : List Byte} (after : Spdm → Spdm)
    (keeps : ∀ x, (after x).asked = x.asked ∧ (after x).box = x.box) (ha : s.spdm.asked = true) (hr : 4 ≤ r.length)
    (hc : leAt s.spdm.box 1 1 = code) (ht : r = s.spdm.box.take r.length) :
    (s.spdmAnswer code r after).spdm.asked = false ∧ (s.spdmAnswer code r after).mem = s.mem ∧
      (s.spdmAnswer code r after).spdm.box =
        (Config.spdmResponse code r s.spdm.version s.spdm.negotiated s.bootHash s.measurements).take 4096 := by
  have hcond : (s.spdm.asked && decide (4 ≤ r.length) && leAt s.spdm.box 1 1 == code && r == s.spdm.box.take r.length) = true := by
    rw [← ht]
    simp [ha, hr, hc]
  rw [State.spdmAnswer, if_pos hcond]
  exact ⟨(keeps _).1, rfl, (keeps _).2⟩

end Sys2Proof.Machine
end

section
/-! PROOFS. Host accesses, registers, keys, SPDM and translation invalidations (R15, R66, R152, R266, R423-R425, R431, R436, R438). -/

namespace Sys2Proof.Machine

/-! ## RDMA to the management block (R423, R424) -/

section
variable {s : State} {qp : Nat}

theorem rdmaWrite_hbase {p : Nat} (v : Nat) (hq : s.QpIdle qp) (hb : s.bootstat = 1) (hp : p < 24) :
    ∃ u, exec (.rdmaWrite qp (Config.mbase + hbaseOffset p) (toLe 8 v)) s = .next u ∧ u.hostOut = s.hostOut ++ [.ack qp] ∧
      (u.part p).hbase = BitVec.ofNat 64 v ∧ u.mem = s.mem ∧ u.err = s.err := by
  have hlen : (toLe 8 v).length = 8 := toLe_length 8 v
  have hm : inMgmt (Config.mbase + hbaseOffset p) (toLe 8 v).length = true :=
    decide_eq_true (by unfold hbaseOffset Config.mbase; omega)
  have hr : isRegister (Config.mbase + hbaseOffset p) (toLe 8 v).length = true :=
    decide_eq_true (by unfold hbaseOffset Config.mbase; omega)
  have hv : BitVec.ofNat 64 (leNat (toLe 8 v)) = BitVec.ofNat 64 v := by
    rw [leNat_toLe]
    exact BitVec.eq_of_toNat_eq (by simp)
  have hops := s.hostOps_register (some (toLe 8 v)) hm hr
  rw [Nat.add_sub_cancel_left, Option.elim_some, hv] at hops
  have first := State.hostGo_regWrite (s.hostQp_setHostQp qp (.regWrite (hbaseOffset p) (BitVec.ofNat 64 v)) [.ack] false [])
  rw [State.regWrite_hbase _ hp (by simpa using hb)] at first
  refine ⟨_, rfl, ?_⟩
  rw [State.rdma_acked hq (by rw [hb]; decide) hops first (State.hostQp_setHostQp _ _ _ _ _ _)]
  exact ⟨by simp, by rw [State.answered_part, State.part_modPart_same], by simp, by simp⟩

theorem rdmaWrite_malformed {pa : Nat} {data : List Byte} (hq : s.QpIdle qp) (hb : s.bootstat ≠ 0)
    (hm : inMgmt pa data.length = true) (hr : isRegister pa data.length = false) :
    ∃ u, exec (.rdmaWrite qp pa data) s = .next u ∧ u.hostOut = s.hostOut ++ [.ack qp] ∧ u.err = true ∧
      u.errAddr = BitVec.ofNat 32 (pa - Config.mbase) ∧ u.mem = s.mem ∧ u.parts = s.parts := by
  have first := State.hostGo_reject (s.hostQp_setHostQp qp (.reject (pa - Config.mbase) data.length) [.ack] false [])
  refine ⟨_, rfl, ?_⟩
  rw [State.rdma_acked hq hb (s.hostOps_malformed (some data) hm hr) first (State.hostQp_setHostQp _ _ _ _ _ _)]
  simp [State.reject]

theorem rdmaRead_register {pa len : Nat} (hq : s.QpIdle qp) (hb : s.bootstat ≠ 0) (hm : inMgmt pa len = true)
    (hr : isRegister pa len = true) :
    ∃ u, exec (.rdmaRead qp pa len) s = .next u ∧
      u.hostOut = s.hostOut ++ [.data qp (toLe 8 (s.regRead (pa - Config.mbase)))] ∧ u.mem = s.mem := by
  have first := State.hostGo_regRead (s.hostQp_setHostQp qp (.regRead (pa - Config.mbase)) [.reply] false [])
  rw [State.regRead_setHostQp, List.nil_append] at first
  refine ⟨_, rfl, ?_⟩
  rw [State.rdma_replied hq hb (s.hostOps_register none hm hr) first (State.hostQp_setHostQp _ _ _ _ _ _)]
  simp

/-! ## RDMA to memory (R66, R278, R359) -/

theorem rdmaWrite_line {pa k : Nat} {data : List Byte} (hq : s.QpIdle qp) (hd : data ≠ []) (hl : pa % 256 + data.length ≤ 256)
    (hm : inMgmt pa data.length = false) (hb : s.bootstat = 1) (h1 : (paPlace pa).isSome = true)
    (h2 : (paPlace (pa + data.length - 1)).isSome = true) (hh : s.homeOf (pa / 256) = some k) :
    ∃ u r o x, exec (.rdmaWrite qp pa data) s = .next u ∧ u.hostOut = s.hostOut ∧ (u.hostQp qp).ops = [.write pa data, .ack] ∧
      x ∈ (u.router (sockRouter (12 + qpDie qp))).out.getD o [] ∧ x.dest = .slice k ∧ x.msg = .request r ∧
      r.asker = .host qp ∧ r.line = pa / 256 ∧ r.key = 0 ∧ (r.dom = if qp < 128 then .tso else .sc) ∧
      ∃ m d, r.kind = .write m d ∧ ∀ i, i < 256 →
        m.getLsbD i = decide (pa % 256 ≤ i ∧ i < pa % 256 + data.length) ∧
        (pa % 256 ≤ i → i < pa % 256 + data.length → d.extractLsb' (8 * i) 8 = data.getD (i - pa % 256) 0) := by
  have hops := (State.hostOps_line hm hb h1 h2 (List.length_pos_iff.mpr hd) hl).1 data rfl
  let s0 := s.setHostQp qp ⟨[.write pa data, .ack], false, []⟩
  let kind : ReqKind := .write (maskAt 256 (pa % 256) data.length) (BitVec.ofNat 2048 (leNat data <<< (8 * (pa % 256))))
  let asked := s0.undefinePages.hostAsk qp pa kind k
  have pages := State.LeavesHost.undefinePages s0
  have later := State.LeavesHost.undefinePages asked
  have waiting : asked.hostQp qp = ⟨[.write pa data, .ack], true, []⟩ := by
    rw [State.hostAsk_qp, pages.hostQp, State.hostQp_setHostQp]
  have first : s0.hostGo qp = asked := State.hostGo_write_asks (State.hostQp_setHostQp _ _ _ _ _ _) hh
  have second : asked.hostGo qp = asked.undefinePages := State.hostGo_write_waits waiting ((pages.homeOf _).trans hh)
  obtain ⟨o, x, hx, hdest, hmsg⟩ := State.hostAsk_sent s0.undefinePages qp pa kind k
  refine ⟨_, s0.undefinePages.hostReq qp pa kind, o, x, rfl, ?_⟩
  rw [State.rdma_of_idle hq (by rw [hb]; decide) hops, first, second]
  refine ⟨later.hostOut.trans pages.hostOut, ?_, later.sent _ _ _ hx, hdest, hmsg, rfl, rfl, rfl, rfl, _, _, rfl, fun i hi => ?_⟩
  · rw [later.hostQp, waiting]
  · exact ⟨maskAt_getLsbD 256 _ _ _ hi, fun ho _ => extract_bytes_at _ _ _ _ ho (by omega)⟩

theorem rdmaWrite_homeless {pa : Nat} {data : List Byte} (hq : s.QpIdle qp) (hd : data ≠ []) (hl : pa % 64 + data.length ≤ 64)
    (hm : inMgmt pa data.length = false) (hb : s.bootstat = 1) (h1 : (paPlace pa).isSome = true)
    (h2 : (paPlace (pa + data.length - 1)).isSome = true) (hh : s.homeOf (pa / 256) = none) (hu : s.sockUp (memSocket pa) = true)
    (hw : Memory.wf s.mem = true) :
    ∃ u, exec (.rdmaWrite qp pa data) s = .next u ∧ u.hostOut = s.hostOut ++ [.ack qp] ∧
      Memory.readN u.mem (storageAddr (pa / 64 * 64) + pa % 64) data.length = data := by
  have hops := (State.hostOps_line hm hb h1 h2 (List.length_pos_iff.mpr hd) (by omega)).1 data rfl
  let s0 := s.setHostQp qp ⟨[.write pa data, .ack], false, []⟩
  have pages := State.LeavesHost.undefinePages s0
  have first := State.hostGo_write_homeless (s := s0) (State.hostQp_setHostQp _ _ _ _ _ _) hh hu
  rw [State.writePa_homeless hd hl ((pages.homeOf _).trans hh) ((pages.sockUp _).trans hu)] at first
  have noted := pages.trans (State.LeavesHost.noteQcmd _ pa (maskAt 64 (pa % 64) data.length))
  refine ⟨_, rfl, ?_⟩
  rw [State.rdma_acked hq (by rw [hb]; decide) hops first (State.hostQp_setHostQp _ _ _ _ _ _), State.answered_hostOut,
    State.setHostQp_hostOut, State.answered_mem, State.setHostQp_mem, State.storeSector_readN hl (noted.wf hw),
    (noted.trans (.storeSector _ _ _ _ _)).hostOut]
  exact ⟨rfl, rfl⟩

theorem rdmaRead_withheld {pa len : Nat} (hq : s.QpIdle qp) (h0 : 0 < len) (hl : pa % 256 + len ≤ 256)
    (hm : inMgmt pa len = false) (hb : s.bootstat = 1) (h1 : (paPlace pa).isSome = true)
    (h2 : (paPlace (pa + len - 1)).isSome = true) (hh : s.homeOf (pa / 256) = none) (hu : s.sockUp (memSocket pa) = true)
    (hw : s.withheldAt pa len = true) :
    ∃ u, exec (.rdmaRead qp pa len) s = .next u ∧ u.hostOut = s.hostOut ++ [.remoteError qp] ∧ u.mem = s.mem := by
  have hops := (State.hostOps_line hm hb h1 h2 h0 hl).2
  let s0 := s.setHostQp qp ⟨[.read pa len, .reply], false, []⟩
  have first := State.hostGo_read_withheld (s := s0) (State.hostQp_setHostQp _ _ _ _ _ _) hh hu hw
  refine ⟨_, rfl, ?_⟩
  rw [State.rdma_of_idle hq (by rw [hb]; decide) hops, first, State.hostGo_error (State.hostQp_setHostQp _ _ _ _ _ _)]
  simp [s0]

/-- A number that is no queue pair supports nothing. -/
theorem rdma_no_pair (pa n : Nat) (data : Option (List Byte)) (hb : s.bootstat ≠ 0) (hq : 132 ≤ qp) :
    s.rdma qp pa n data = { s with hostOut := s.hostOut ++ [.remoteError qp] } := by
  rw [State.rdma, if_neg hb, if_pos hq]

/-- Before boot has brought the host ports up nothing arrives. -/
theorem rdma_before_boot (pa n : Nat) (data : Option (List Byte)) (hb : s.bootstat = 0) : s.rdma qp pa n data = s := by
  rw [State.rdma, if_pos hb]

theorem remoteOperationError_reported (hb : s.bootstat ≠ 0) :
    ∃ u, exec (.remoteOperationError qp) s = .next u ∧ u.hostOut = s.hostOut ++ [.remoteError qp] ∧ u.mem = s.mem := by
  refine ⟨_, rfl, ?_⟩
  rw [if_neg hb]
  exact ⟨rfl, rfl⟩

end

/-! ## Registers and keys (R15, R152, R424, R425, R431) -/

theorem registerWrite_up {s : State} {off : Nat} (v : W64) (hb : s.bootstat = 1) (ho : off % 8 = 0) :
    exec (.registerWrite off v) s = .next (s.regWrite off v) := by
  show Host.Outcome.next _ = _
  rw [if_neg (by rw [hb]; decide), if_neg (by omega)]

theorem registerWrite_misaligned {s : State} {off : Nat} (v : W64) (hb : s.bootstat ≠ 0) (ho : off % 8 ≠ 0) :
    exec (.registerWrite off v) s = .next { s with err := true, errAddr := BitVec.ofNat 32 off } := by
  show Host.Outcome.next _ = _
  rw [if_neg hb, if_pos ho]
  rfl

theorem registerWrite_hbase {s : State} {p : Nat} (v : W64) (hp : p < 24) (hb : s.bootstat = 1) :
    ∃ u, exec (.registerWrite (hbaseOffset p) v) s = .next u ∧ (u.part p).hbase = v ∧ u.regRead (hbaseOffset p) = v.toNat ∧
      u.err = s.err := by
  have hpart := congrArg Part.hbase (State.part_modPart_same s p fun x => { x with hbase := v })
  refine ⟨_, registerWrite_up v hb (by unfold hbaseOffset; omega), ?_⟩
  rw [State.regWrite_hbase v hp hb, State.regRead_hbase hp (by exact hb)]
  exact ⟨hpart, congrArg BitVec.toNat hpart, rfl⟩

theorem registerWrite_mailbox {s : State} (v : W64) (hb : s.bootstat = 1) :
    ∃ u, exec (.registerWrite 0x400000 v) s = .next u ∧ u.spdm.asked = true ∧ u.regRead 0x400000 = v.toNat := by
  refine ⟨_, registerWrite_up v hb rfl, ?_⟩
  rw [State.regWrite_mailbox v hb, State.regRead_mailbox (by exact hb)]
  refine ⟨Bool.or_true _, ?_⟩
  exact (leAt_append_toLe 8 v.toNat _).trans (Nat.mod_eq_of_lt v.isLt)

theorem counterClear_zeroes {s : State} {core : Nat} (hb : s.bootstat = 1) (hc : core < 864) :
    ∃ u, exec (.counterClear core) s = .next u ∧ (u.core core).reuseLook = 0 ∧ (u.core core).reuseHit = 0 ∧
      (u.core core).collide = 0 ∧ (u.core core).overflow = 0 ∧ (u.core core).swaps = 0 ∧ (u.core core).l1 = (s.core core).l1 := by
  refine ⟨s.clearCounters core, State.command_up (·.clearCounters core) hb, ?_⟩
  rw [State.clearCounters, if_pos hc, State.core_modCore_same]
  exact ⟨rfl, rfl, rfl, rfl, rfl, rfl⟩

theorem keycmdLoad_loads {s : State} {i : Nat} (hb : s.bootstat = 1) (h0 : 0 < i) (h1 : i < 1024) (hk : s.keys.get? i = none) :
    ∃ u, exec (.keycmdLoad i) s = .next u ∧ u.keys.get? i = some s.keyData ∧ u.keyData = 0 ∧ u.err = s.err := by
  have hfree : ¬ (i = 0 ∨ 1024 ≤ i ∨ (s.keys.get? i).isSome = true) := by
    rintro (h | h | h)
    · omega
    · omega
    · simp [hk] at h
  refine ⟨s.keyLoad i, State.command_up (·.keyLoad i) hb, ?_⟩
  rw [State.keyLoad, if_neg hfree]
  exact ⟨AMap.get?_set_same _ _ _, rfl, rfl⟩

/-! ## Translation invalidations (R266; log entry 129) -/

section
variable {s : State} {ctx lo hi : Nat}

/-- The invalidation under way for a range of a context. -/
def State.invalUnder (s : State) (ctx lo hi : Nat) : Option TransInval :=
  s.transInvals.find? fun v => v.ctx == ctx && v.lo == lo && v.hi == hi

theorem invalUnder_range {v : TransInval} (h : s.invalUnder ctx lo hi = some v) : v ∈ s.transInvals ∧ v.ctx = ctx ∧ v.lo = lo ∧ v.hi = hi := by
  have hp := List.find?_some h
  simp only [Bool.and_eq_true, beq_iff_eq] at hp
  exact ⟨List.mem_of_find?_eq_some h, hp.1.1, hp.1.2, hp.2⟩

/-- It begins by dropping the translations. -/
theorem translationInvalidation_begins (h : s.invalUnder ctx lo hi = none) :
    exec (.translationInvalidation ctx lo hi) s = .next { s.dropTranslations ⟨ctx, lo, hi, s.nextOp, s.nextUid, false⟩ with
      transInvals := s.transInvals ++ [⟨ctx, lo, hi, s.nextOp, s.nextUid, false⟩] } := by
  show execTranslationInvalidation ctx lo hi s = _
  rw [execTranslationInvalidation, show s.transInvals.find? _ = none from h]

/-- It waits for the accesses that used one. -/
theorem translationInvalidation_waits_accesses {v : TransInval} (h : s.invalUnder ctx lo hi = some v) (hf : v.flushed = false)
    (ha : s.accessesOver v = false) : exec (.translationInvalidation ctx lo hi) s = .next s := by
  show execTranslationInvalidation ctx lo hi s = _
  rw [execTranslationInvalidation, show s.transInvals.find? _ = some v from h]
  simp [hf, ha]

/-- Then what is masked is sent home. -/
theorem translationInvalidation_flushes {v : TransInval} (h : s.invalUnder ctx lo hi = some v) (hf : v.flushed = false)
    (ha : s.accessesOver v = true) :
    exec (.translationInvalidation ctx lo hi) s = .next { (s.dropTranslations v).flushFor ctx with
      transInvals := s.transInvals.map fun x =>
        if x = v then { v with flushed := true, uid := ((s.dropTranslations v).flushFor ctx).nextUid } else x } := by
  show execTranslationInvalidation ctx lo hi s = _
  rw [execTranslationInvalidation, show s.transInvals.find? _ = some v from h]
  simp [hf, ha]

/-- It waits until that has arrived, -/
theorem translationInvalidation_waits_arrival {v : TransInval} (h : s.invalUnder ctx lo hi = some v) (hf : v.flushed = true)
    (hw : s.flushing v.uid = true) : exec (.translationInvalidation ctx lo hi) s = .next s := by
  show execTranslationInvalidation ctx lo hi s = _
  rw [execTranslationInvalidation, show s.transInvals.find? _ = some v from h]
  simp [hf, hw]

/-- and completes by dropping the translations again. -/
theorem translationInvalidation_completes {v : TransInval} (h : s.invalUnder ctx lo hi = some v) (hf : v.flushed = true)
    (hw : s.flushing v.uid = false) :
    exec (.translationInvalidation ctx lo hi) s = .next { s.dropTranslations v with transInvals := s.transInvals.erase v } := by
  show execTranslationInvalidation ctx lo hi s = _
  rw [execTranslationInvalidation, show s.transInvals.find? _ = some v from h]
  simp [hf, hw]

end

/-- Settles O59: it holds. A queue pair with nothing under way does its access and then its reply; what stands between, pages of threads' own memory
that become undefined, leaves queue pairs, homes and messages (`State.LeavesHost`). What an invalidation sends home caches no translation
(`State.SameTlbs`). -/
theorem hostEvents : Obligations.HostEvents := by
  unfold Obligations.HostEvents
  intro s qp base idle plain
  refine ⟨?_, ?_, ?_, ?_, ?_, ?_, ?_, ?_, ?_, ?_, ?_, ?_, ?_, ?_, ?_, ?_, ?_, ?_, ?_⟩
  · exact fun p v hq hb hp => rdmaWrite_hbase v hq hb hp
  · exact fun pa data hq hb hm hr => rdmaWrite_malformed hq hb hm hr
  · exact fun pa data k hq hd hl ⟨hm, hb, h1, h2⟩ hh => rdmaWrite_line hq hd hl hm hb h1 h2 hh
  · exact fun pa data hq hd hl ⟨hm, hb, h1, h2⟩ hh hu hw => rdmaWrite_homeless hq hd hl hm hb h1 h2 hh hu hw
  · exact fun pa len hq hb hm hr => rdmaRead_register hq hb hm hr
  · exact fun pa len hq h0 hl ⟨hm, hb, h1, h2⟩ hh hu hw => rdmaRead_withheld hq h0 hl hm hb h1 h2 hh hu hw
  · exact fun pa data len hb hq => ⟨congrArg _ (rdma_no_pair _ _ _ hb hq), congrArg _ (rdma_no_pair _ _ _ hb hq)⟩
  · exact fun pa data len hb => ⟨congrArg _ (rdma_before_boot _ _ _ hb), congrArg _ (rdma_before_boot _ _ _ hb)⟩
  · exact remoteOperationError_reported
  · exact fun p v hp hb => registerWrite_hbase v hp hb
  · exact fun off v hb ho => registerWrite_misaligned v hb ho
  · rfl
  · exact fun _ => rfl
  · exact fun core hb hc => counterClear_zeroes hb hc
  · exact fun i hb h0 h1 hk => keycmdLoad_loads hb h0 h1 hk
  · exact fun i key hb hk => ⟨s.keyUnload i, State.command_up (·.keyUnload i) hb, State.keyUnload_keys hk⟩
  · exact fun v hb => registerWrite_mailbox v hb
  · refine ⟨?_, ?_, ?_, ?_, ?_, ?_, ?_⟩ <;>
      exact fun r ha hr hc ht => ⟨_, rfl, State.spdmAnswer_answers _ (fun _ => ⟨rfl, rfl⟩) ha hr hc ht⟩
  · intro ctx lo hi clean under
    refine ⟨fun hn => ?_, fun v hv => ?_⟩
    · exact ⟨_, translationInvalidation_begins hn, State.dropTranslations_clean s ⟨ctx, lo, hi, s.nextOp, s.nextUid, false⟩, rfl⟩
    · obtain ⟨hmem, rfl, rfl, rfl⟩ := invalUnder_range hv
      have dropped := s.dropTranslations_clean v
      refine ⟨translationInvalidation_waits_accesses hv, fun hf ha => ?_, translationInvalidation_waits_arrival hv, fun hf hw => ?_⟩
      · exact ⟨_, translationInvalidation_flushes hv hf ha, dropped.of_sameTlbs (.flushFor _ _), _,
          List.mem_map.mpr ⟨v, hmem, if_pos rfl⟩, rfl, rfl, rfl, rfl⟩
      · exact ⟨_, translationInvalidation_completes hv hf hw, dropped, rfl⟩

end Sys2Proof.Machine
end

section
/-! SUPPORT. The decoder (R94-R102, R115): the opcode map, and what a pair of words that it accepts or refuses holds. -/

namespace Sys2Proof.Machine

/-! ## The opcode map (R117) -/

/-- An instruction made from an opcode and fields has that opcode and those fields. -/
theorem opcodeOf_mkInstr {opc : Nat} {f : Form} {i : Instr} (h : mkInstr opc f = some i) : opcodeOf i = some (opc, f) := by
  unfold mkInstr at h
  repeat' split at h
  all_goals cases h <;> rfl

/-- An instruction with an opcode is well-formed when its fields keep check 1 of R115 and make it. -/
theorem wellFormed_of_opcode {i : Instr} {opc : Nat} {f : Form} (h : opcodeOf i = some (opc, f)) :
    i.wellFormed = (formOk opc f && decide (mkInstr opc f = some i)) := by
  rw [Instr.wellFormed, h]

theorem wordForms_of_longOk {opc mod : Nat} {long : Bool} (h : longOk opc mod long = true) : ∃ x, wordForms opc = some x := by
  unfold longOk at h
  split at h
  · cases h
  next x y hx => exact ⟨_, hx⟩

@[simp] theorem isOrd_register_fields :
    Fld.none.isOrd = false ∧ Fld.reg.isOrd = false ∧ Fld.vec.isOrd = false ∧ Fld.pair.isOrd = false ∧ Fld.b4.isOrd = false ∧
    Fld.b8.isOrd = false ∧ Fld.pred.isOrd = false ∧ Fld.rejoin.isOrd = false ∧ Fld.chan.isOrd = false := by
  simp [Fld.isOrd]

@[simp] theorem isOrd_vp (t : Nat) : (vp t).isOrd = false := by unfold vp; split <;> rfl

@[simp] theorem isOrd_kindFld (k : Nat) : (kindFld k).isOrd = false := by
  unfold kindFld; split
  · rfl
  · split <;> rfl

@[simp] theorem isOrd_atomD (m : Nat) : (atomD m).isOrd = false := by unfold atomD; split <;> rfl

/-- No instruction holds ordering subfields in its destination field (R108). -/
theorem fields_dst_not_ord {opc mod : Nat} {long bar : Bool} {sh : Shape} (h : fields opc mod long bar = some sh) :
    sh.dst.isOrd = false := by
  unfold fields at h
  dsimp only at h
  split at h
  all_goals
    repeat' split at h
    all_goals cases h
    all_goals simp

/-! ## The fields of a word (R97) -/

/-- The opcode of a first word. -/
def opcodeIn (w : W64) : Nat := (w.extractLsb' 10 10).toNat

/-- The guard of a first word (R106). -/
def guardIn (w : W64) : Option (BitVec 4 × Bool) :=
  if (w.extractLsb' 4 4).toNat = 15 then none else some (w.extractLsb' 4 4, w.getLsbD 8)

/-- The guard of a first word is one that R97 and R100 reserve. -/
def ReservedGuard (w : W64) : Prop :=
  ((w.extractLsb' 4 4).toNat = 15 ∧ w.getLsbD 8 = true) ∨ (12 ≤ (w.extractLsb' 4 4).toNat ∧ (w.extractLsb' 4 4).toNat ≤ 14)

/-- The destination field of a first word, as a source field would hold it: with the peek bit 0. -/
def dstIn (w : W64) : BitVec 10 := w.extractLsb' 28 1 ++ 0#1 ++ w.extractLsb' 20 8

/-- Two words hold the fields `f` in the shape `sh` of their opcode, and check 1 of R115 has nothing against them. -/
structure Reads (w e : W64) (f : Form) (sh : Shape) : Prop where
  stall : w.extractLsb' 0 4 = f.stall
  guard : guardIn w = f.guard
  mod : w.extractLsb' 59 5 = f.mod
  ext : (if w.getLsbD 9 then some e else none) = f.ext
  words : longOk (opcodeIn w) f.mod.toNat (w.getLsbD 9) = true
  guarded : ¬ ReservedGuard w
  shape : fields (opcodeIn w) f.mod.toNat (w.getLsbD 9) (barBit (opcodeIn w) f.ext) = some sh
  dst : decOpnd sh.dst (dstIn w) = .ok f.dst
  a : decOpnd sh.a (w.extractLsb' 29 10) = .ok f.a
  b : decOpnd sh.b (w.extractLsb' 39 10) = .ok f.b
  c : decOpnd sh.c (w.extractLsb' 49 10) = .ok f.c
  extOk : (w.getLsbD 9 && !extOk sh.ext e) = false

/-- The second word counts exactly when the fields have an extension word (R94). -/
theorem Reads.long {w e : W64} {f : Form} {sh : Shape} (h : Reads w e f sh) : w.getLsbD 9 = f.ext.isSome := by
  rw [← h.ext]
  cases w.getLsbD 9 <;> rfl

/-- Words that hold the fields of an instruction decode to it. -/
theorem decode_of_reads {w e : W64} {f : Form} {sh : Shape} {i : Instr} (h : Reads w e f sh)
    (hi : mkInstr (opcodeIn w) f = some i) : decode w e = .ok i := by
  obtain ⟨x, hx⟩ := wordForms_of_longOk h.words
  obtain ⟨hstall, hguard, hmod, hext, hwords, hguarded, hshape, hd, ha, hb, hc, hok⟩ := h
  unfold opcodeIn at *
  unfold ReservedGuard at hguarded
  unfold dstIn at hd
  unfold guardIn at hguard
  unfold decode
  simp only [hx, hmod, hext, hwords, hguarded, hshape, hd, ha, hb, hc, hok, hstall, hguard, hi, firstBad, Bool.not_true,
    Bool.false_eq_true, if_false]

/-- Words that decode hold the fields of the instruction that they decode to: each test of `decode` that refuses is one that they pass, in
the order of log entry 15. -/
theorem reads_of_decode {w e : W64} {i : Instr} (h : decode w e = .ok i) :
    ∃ f sh, Reads w e f sh ∧ mkInstr (opcodeIn w) f = some i := by
  unfold decode at h
  dsimp only at h
  split at h
  · cases h
  split at h
  · cases h
  next hwords =>
  split at h
  · cases h
  next hguard =>
  split at h
  · cases h
  next sh hshape =>
  split at h
  · cases h
  split at h
  · cases h
  next hext =>
  split at h
  next d a b c hd ha hb hc =>
    split at h
    next j hj =>
      cases h
      refine ⟨⟨w.extractLsb' 0 4, guardIn w, w.extractLsb' 59 5, d, a, b, c, if w.getLsbD 9 then some e else none⟩, sh,
        ⟨rfl, rfl, rfl, rfl, ?_, hguard, hshape, hd, ha, hb, hc, ?_⟩, hj⟩
      · rw [Bool.not_eq_true', Bool.not_eq_false] at hwords; exact hwords
      · exact eq_false_of_ne_true hext
    · cases h
  · cases h

/-! ## Words that check 1 refuses (R115; order: log entry 15) -/

theorem decode_unassigned {w e : W64} (h : wordForms (opcodeIn w) = none) : decode w e = .error ⟨1, 0⟩ := by
  unfold opcodeIn at h
  simp only [decode, h]

theorem decode_word_count {w e : W64} (h : wordForms (opcodeIn w) ≠ none)
    (hl : longOk (opcodeIn w) (w.extractLsb' 59 5).toNat (w.getLsbD 9) = false) : decode w e = .error ⟨2, 0⟩ := by
  obtain ⟨x, hx⟩ := Option.ne_none_iff_exists'.mp h
  unfold opcodeIn at hx hl
  simp only [decode, hx, hl, Bool.not_false, if_true]

theorem decode_reserved_guard {w e : W64} (hl : longOk (opcodeIn w) (w.extractLsb' 59 5).toNat (w.getLsbD 9) = true)
    (hg : ReservedGuard w) : decode w e = .error ⟨3, 0⟩ := by
  obtain ⟨x, hx⟩ := wordForms_of_longOk hl
  unfold opcodeIn at hx hl
  unfold ReservedGuard at hg
  simp only [decode, hx, hl, hg, Bool.not_true, Bool.false_eq_true, if_false, if_true]

end Sys2Proof.Machine
end

section
/-! SUPPORT. Decoding and encoding undo each other: the fields that the decoder reads keep check 1 of R115, and the words and bytes of fields
that keep it hold those fields (R97-R108). -/

namespace Sys2Proof.Machine

/-! ## What the decoder accepts is well-formed -/

/-- The codes of what the ordering subfields decode to are the values that they hold (R108). -/
theorem domOf_code {n : Nat} {d : Dom} (h : domOf n = some d) : d.ctorIdx = n := by
  unfold domOf at h
  split at h <;> cases h <;> rfl

theorem scopeOf_code {n : Nat} {x : Scope} (h : scopeOf n = some x) : x.ctorIdx = n := by
  unfold scopeOf at h
  split at h <;> cases h <;> rfl

theorem orderOf_code {n : Nat} (h : n < 4) : (orderOf n).ctorIdx = n := by
  match n, h with
  | 0, _ | 1, _ | 2, _ | 3, _ => rfl

/-- Ordering subfields that decode hold allowed values. -/
theorem opndOk_of_decOrd {ds ss os hs : List Nat} {raw : BitVec 10} {o : Opnd} (dst : Bool) (h : decOrd ds ss os hs raw = .ok o) :
    opndOk (.ord ds ss os hs) dst o = true := by
  unfold decOrd at h
  dsimp only at h
  split at h
  next dom sc hdom hsc =>
    split at h
    next hin =>
      cases h
      simp only [opndOk, domOf_code hdom, scopeOf_code hsc, orderOf_code (raw.extractLsb' 6 2).isLt]
      exact hin
    · cases h
  · cases h

/-- An operand that decodes stands in the form that its field requires; a destination field has no peek bit (R97). -/
theorem opndOk_of_decOpnd {k : Fld} {raw : BitVec 10} {o : Opnd} {dst : Bool} (hp : (dst && raw.getLsbD 8) = false)
    (h : decOpnd k raw = .ok o) : opndOk k dst o = true := by
  rw [Bool.and_eq_false_iff] at hp
  cases k
  case ord ds ss os hs => exact opndOk_of_decOrd dst h
  all_goals
    simp only [decOpnd] at h
    repeat' split at h
    all_goals cases h
  -- what is left: the test of the field's branch, and the peek bit that a destination does not have
  all_goals rcases hp with hp | hp <;> simp_all [opndOk]

theorem dstIn_peek (w : W64) : (dstIn w).getLsbD 8 = false := by
  simp only [dstIn, BitVec.getLsbD_append]
  rfl

/-- A guard that is not reserved names a predicate (R106). -/
theorem guardOk_guardIn {w : W64} (h : ¬ ReservedGuard w) : guardOk (guardIn w) = true := by
  have hlt := (w.extractLsb' 4 4).isLt
  unfold ReservedGuard at h
  unfold guardIn
  split
  · rfl
  · simp only [guardOk, decide_eq_true_eq]; omega

/-- The fields of words that decode keep check 1 of R115. -/
theorem Reads.formOk {w e : W64} {f : Form} {sh : Shape} (h : Reads w e f sh) : formOk (opcodeIn w) f = true := by
  simp only [Machine.formOk, ← h.long, h.words, h.shape, ← h.guard, guardOk_guardIn h.guarded,
    opndOk_of_decOpnd (dst := true) (dstIn_peek w) h.dst, opndOk_of_decOpnd (dst := false) rfl h.a,
    opndOk_of_decOpnd (dst := false) rfl h.b, opndOk_of_decOpnd (dst := false) rfl h.c, Bool.true_and]
  have hok := h.extOk
  rw [← h.ext]
  cases hl : w.getLsbD 9
  · rfl
  · simpa [hl] using hok

/-! ## Encoded words -/

theorem encodeForm_opcode {opc : Nat} (f : Form) (h : opc < 1024) : opcodeIn (encodeForm opc f) = opc := by
  rw [opcodeIn, encodeForm, word_opcode, BitVec.toNat_ofNat, Nat.mod_eq_of_lt h]

theorem encodeForm_long (opc : Nat) (f : Form) : (encodeForm opc f).getLsbD 9 = f.ext.isSome := by
  rw [bit_as_extract, encodeForm, word_long]
  cases f.ext <;> simp

theorem encodeForm_guard (opc : Nat) (f : Form) : (encodeForm opc f).extractLsb' 4 4 = (encGuard f.guard).extractLsb' 0 4 := by
  rw [encodeForm, word_guard]

theorem encodeForm_sense (opc : Nat) (f : Form) : (encodeForm opc f).getLsbD 8 = (encGuard f.guard).getLsbD 4 := by
  rw [bit_as_extract, encodeForm, word_sense, ← bit_as_extract]

theorem encGuard_number (k : BitVec 4) (sense : Bool) : (encGuard (some (k, sense))).extractLsb' 0 4 = k := by
  rw [encGuard, extract_append_low _ _ _ _ (by decide), extract_whole]

theorem encGuard_sense (k : BitVec 4) (sense : Bool) : (encGuard (some (k, sense))).getLsbD 4 = sense := by
  simp only [encGuard, BitVec.getLsbD_append]
  simp

/-- The guard that a word was encoded with is the one that it holds (R106). -/
theorem encodeForm_guardIn {opc : Nat} {f : Form} (h : guardOk f.guard = true) :
    guardIn (encodeForm opc f) = f.guard ∧ ¬ ReservedGuard (encodeForm opc f) := by
  simp only [guardIn, ReservedGuard, encodeForm_guard, encodeForm_sense]
  rcases hg : f.guard with _ | ⟨k, sense⟩
  · decide
  · have hk : k.toNat < 12 := by simpa [guardOk, hg] using h
    rw [encGuard_number, encGuard_sense, if_neg (by omega)]
    exact ⟨rfl, by omega⟩

theorem encodeForm_dst (opc : Nat) (f : Form) :
    dstIn (encodeForm opc f) = (encDst f.dst).extractLsb' 8 1 ++ 0#1 ++ (encDst f.dst).extractLsb' 0 8 := by
  rw [dstIn, encodeForm, word_dst_class, word_dst_number]

/-- The words of fields that keep check 1 hold those fields. -/
theorem reads_encodeForm {opc : Nat} {f : Form} {e : W64} (h : formOk opc f = true) (he : ∀ x, f.ext = some x → e = x) :
    opcodeIn (encodeForm opc f) = opc ∧ ∃ sh, Reads (encodeForm opc f) e f sh := by
  unfold formOk at h
  simp only [Bool.and_eq_true] at h
  obtain ⟨⟨hwords, hguard⟩, hshape⟩ := h
  obtain ⟨x, hx⟩ := wordForms_of_longOk hwords
  have hopc := encodeForm_opcode f (wordForms_lt hx)
  split at hshape
  · cases hshape
  next sh hsh =>
  simp only [Bool.and_eq_true] at hshape
  obtain ⟨⟨⟨⟨hd, ha⟩, hb⟩, hc⟩, hext⟩ := hshape
  obtain ⟨hg, hfree⟩ := encodeForm_guardIn (opc := opc) hguard
  have hlong := encodeForm_long opc f
  refine ⟨hopc, sh, ⟨word_stall .., hg, word_mod .., ?_, ?_, hfree, ?_, ?_, ?_, ?_, ?_, ?_⟩⟩
  · rw [hlong]
    rcases hf : f.ext with _ | x
    · rfl
    · simp [he x hf]
  · rw [hopc, hlong]; exact hwords
  · rw [hopc, hlong]; exact hsh
  · rw [encodeForm_dst]; exact decode_destination _ _ (fields_dst_not_ord hsh) hd
  · rw [encodeForm, word_srcA]; exact decode_source _ _ ha
  · rw [encodeForm, word_srcB]; exact decode_source _ _ hb
  · rw [encodeForm, word_srcC]; exact decode_source _ _ hc
  · rw [hlong]
    rcases hf : f.ext with _ | x
    · rfl
    · rw [hf] at hext
      simp [he x hf, hext]

/-- A well-formed instruction is what its words decode to; without an extension word, whatever word follows (R94). -/
theorem decode_encodeForm {i : Instr} {opc : Nat} {f : Form} {e : W64} (hw : i.wellFormed = true) (hopc : opcodeOf i = some (opc, f))
    (he : ∀ x, f.ext = some x → e = x) : decode (encodeForm opc f) e = .ok i := by
  rw [wellFormed_of_opcode hopc] at hw
  simp only [Bool.and_eq_true, decide_eq_true_eq] at hw
  obtain ⟨hform, hi⟩ := hw
  obtain ⟨hopc, sh, hr⟩ := reads_encodeForm hform he
  exact decode_of_reads hr (by rw [hopc, hi])

/-- An instruction that has words has an opcode, and its words are those of its fields. -/
theorem encode_some {i : Instr} {w e : W64} (h : encode i = some (w, e)) :
    ∃ opc f, opcodeOf i = some (opc, f) ∧ w = encodeForm opc f ∧ e = f.ext.getD 0 := by
  unfold encode at h
  split at h
  next opc f hopc => cases h; exact ⟨opc, f, hopc, rfl, rfl⟩
  · cases h

/-! ## Encoded bytes -/

theorem leAt_append_right (n : Nat) (xs ys : List Byte) : leAt (xs ++ ys) xs.length n = leAt ys 0 n := by
  simp [leAt]

/-- A word stands where its bytes were put (R94). -/
theorem leAt_word (w : W64) (rest : List Byte) : BitVec.ofNat 64 (leAt (toLe 8 w.toNat ++ rest) 0 8) = w := by
  rw [leAt_append_toLe, Nat.mod_eq_of_lt (Nat.lt_of_lt_of_eq w.isLt (by decide)), BitVec.ofNat_toNat, BitVec.setWidth_eq]

theorem leAt_second_word (w e : W64) (rest : List Byte) :
    BitVec.ofNat 64 (leAt (toLe 8 w.toNat ++ (toLe 8 e.toNat ++ rest)) 8 8) = e := by
  have h := leAt_append_right 8 (toLe 8 w.toNat) (toLe 8 e.toNat ++ rest)
  rw [toLe_length] at h
  rw [h, leAt_word]

/-- The bytes of a well-formed instruction decode to it and leave what follows (R94). -/
theorem decodeBytes_encodeBytes {i : Instr} {opc : Nat} {f : Form} (rest : List Byte) (hw : i.wellFormed = true)
    (hopc : opcodeOf i = some (opc, f)) : decodeBytes (encodeBytes i ++ rest) = .ok (i, rest) := by
  simp only [encodeBytes, hopc, List.append_assoc]
  rw [decodeBytes, leAt_word, decode_encodeForm hw hopc]
  · rcases hf : f.ext with _ | x
    · simp [hopc, hf]
    · simp [hopc, hf, List.drop_append]
  · intro x hf
    rw [hf]
    exact leAt_second_word ..

end Sys2Proof.Machine
end

section
/-! PROOFS. The encoding (R94-R108, R115, R117). -/

namespace Sys2Proof.Machine

/-- Settles O1: each field of the encoded words is the instruction's own, so that the decoder reads the instruction back. -/
theorem encodeThenDecode : Obligations.EncodeThenDecode := by
  refine ⟨fun i w e hw he => ?_, fun i w e rest hw he => ?_⟩
  · obtain ⟨opc, f, hopc, rfl, rfl⟩ := encode_some he
    exact decode_encodeForm hw hopc fun x hx => by rw [hx]; rfl
  · obtain ⟨opc, f, hopc, -⟩ := encode_some he
    exact decodeBytes_encodeBytes rest hw hopc

/-- Settles O2: the fields that the decoder has read keep check 1, and make the instruction. -/
theorem decodedInstructionsAreWellFormed : Obligations.DecodedInstructionsAreWellFormed := by
  intro w e i h
  obtain ⟨f, sh, hr, hi⟩ := reads_of_decode h
  have hopc := opcodeOf_mkInstr hi
  refine ⟨?_, f, hopc⟩
  rw [wellFormed_of_opcode hopc]
  simp only [hr.formOk, hi, decide_true, Bool.and_self]

/-- Settles O4: the opcode is looked at before the word count, and the word count before the guard. -/
theorem reservedWordsAreRefused : Obligations.ReservedWordsAreRefused := by
  intro w e opc mod guard
  exact ⟨decode_unassigned, decode_word_count, fun hl hg => decode_reserved_guard hl hg.symm⟩

end Sys2Proof.Machine
end

section
/-! SUPPORT. Steps of the subset at the head of the issue group: what its fetch leads to, and the trap of a refused encoding (R94, R96, R116). -/

namespace Sys2Proof.Machine

/-! ## The subset at the head of the issue group (R94, R96, R116) -/

section
variable {s s' : State} {c : Cur} {rest : List Cur} {tm : Team} {ln : Launch} {w e : W64}
variable (hg : s.group = c :: rest) (ht : s.teams.get? c.team = some tm) (hl : s.launches.get? tm.launch = some ln)
include hg ht hl

/-- Words that decode are executed, the subset at issue with both of them. -/
theorem step_decoded {i : Instr} (hf : State.fetch { s with group := rest } c.team c.wave tm ln c.pc = .words w e s')
    (hd : decode w e = .ok i) : step s = exec i { s' with cur := some { c with enc0 := w, enc1 := if w.getLsbD 9 then e else 0 } } := by
  simp only [step, hg, runSubset, ht, hl, hf, hd]

theorem step_refused {x : Illegal} (hf : State.fetch { s with group := rest } c.team c.wave tm ln c.pc = .words w e s')
    (hd : decode w e = .error x) : step s = .next (s'.illegal c w e x) := by
  simp only [step, hg, runSubset, ht, hl, hf, hd]

theorem step_code_waits (hf : State.fetch { s with group := rest } c.team c.wave tm ln c.pc = .wait s') : step s = .next s' := by
  simp only [step, hg, runSubset, ht, hl, hf]
end

theorem step_event {s : State} {dt : Nat} {ev : Instr} {rest : List (Nat × Instr)} (hg : s.group = [])
    (ha : s.agenda = (dt, ev) :: rest) (hev : opcodeOf ev = none) : step s = exec ev (State.advance { s with agenda := rest } dt) := by
  simp only [step, hg, ha, runEvent, hev]

/-- A refused encoding is a trap of the subset's READY lanes, with the fields of check 1 and both words (R116, R386). -/
theorem State.illegal_takeTrap {s : State} {c : Cur} {tm : Team} {ln : Launch} {wv : Wave} (w e : W64) (x : Illegal)
    (ht : s.teams.get? c.team = some tm) (hl : s.launches.get? tm.launch = some ln) (hw : tm.waves.get? c.wave = some wv)
    (hne : c.lanes &&& wv.readyAt c.pc ≠ 0) :
    ∃ i : Iss, i.tid = c.team ∧ i.wid = c.wave ∧ i.team = tm ∧ i.wave = wv ∧ i.lanes = c.lanes &&& wv.readyAt c.pc ∧ i.pc = c.pc ∧
      i.enc0 = w ∧ i.enc1 = (if w.getLsbD 9 then e else 0) ∧
      s.illegal c w e x = s.takeTrap i ⟨.illegal, x.field, 1, x.reason, i.lanes, 0, 0⟩ := by
  simp only [State.illegal, ht, hw, hl, if_neg hne]
  exact ⟨_, rfl, rfl, rfl, rfl, rfl, rfl, rfl, rfl, rfl⟩

/-- The wave after a trap that it takes while it is not trapped (R384). -/
theorem State.takeTrap_wave {s : State} {i : Iss} (t : Trap) (ht : s.teams.get? i.tid = some i.team)
    (hw : i.team.waves.get? i.wid = some i.wave) (hn : i.wave.trapped = false) :
    ∃ tm, (s.takeTrap i t).teams.get? i.tid = some tm ∧ tm.waves.get? i.wid =
      some (i.wave.trapEntry i (s.part i.launch.part).hbase s.tsc s.time (s.cycleOf i.team.core) t) := by
  rw [State.takeTrap_entry t ht hw hn]
  exact ⟨_, AMap.get?_set_same .., AMap.get?_set_same ..⟩

end Sys2Proof.Machine
end

section
/-! SUPPORT. What ends an instruction before its own meaning: interlocks, checks 2 to 6 of R115, and the guard (R103, R106, R112). -/

namespace Sys2Proof.Machine

/-! ## What ends an instruction before its own meaning (R115) -/

section
variable {ins : Instr} {opc : Nat} {f : Form} {s : State} {i : Iss}

/-- What the checks before the instruction's own find is what the instruction does, whatever it is. -/
theorem exec_of_front {e : Eff} (ho : opcodeOf ins = some (opc, f)) (hi : s.issuing opc f = some i) (he : i.front s = some e) :
    exec ins s = .next (s.conclude i e) := by
  obtain ⟨body, hbody⟩ := exec_is_issue ins opc f ho
  obtain ⟨c, hc, -⟩ := State.issuing_spec hi
  simp only [hbody, issue, hc, hi, he]

theorem Iss.front_held (h : i.held s = true) : i.front s = some .stall := by
  simp only [Iss.front, h, if_true]

/-- Checks 2 to 5 of R115, in their order: the first one that fails. -/
def Iss.FirstFails (i : Iss) (s : State) (t : Trap) : Prop :=
  i.checkRegs = some t ∨
  (i.checkRegs = none ∧ i.checkRole = some t) ∨
  (i.checkRegs = none ∧ i.checkRole = none ∧ i.checkStall (s.ctx i.launch.ctx).scbchk = some t) ∨
  (i.checkRegs = none ∧ i.checkRole = none ∧ i.checkStall (s.ctx i.launch.ctx).scbchk = none ∧ i.checkChan = some t)

theorem Iss.front_fails {t : Trap} (hh : i.held s = false) (h : i.FirstFails s t) : i.front s = some (.trap t) := by
  rcases h with h | ⟨h₁, h⟩ | ⟨h₁, h₂, h⟩ | ⟨h₁, h₂, h₃, h⟩
  · simp only [Iss.front, hh, h, Bool.false_eq_true, if_false]
  · simp only [Iss.front, hh, h₁, h, Bool.false_eq_true, if_false]
  · simp only [Iss.front, hh, h₁, h₂, h, Bool.false_eq_true, if_false]
  · simp only [Iss.front, hh, h₁, h₂, h₃, h, Bool.false_eq_true, if_false]

/-- A subset that nothing holds and whose checks 2 to 5 succeed: without an active lane it goes on, else it waits for its channels. -/
theorem Iss.front_passes (hh : i.held s = false) (h₁ : i.checkRegs = none) (h₂ : i.checkRole = none)
    (h₃ : i.checkStall (s.ctx i.launch.ctx).scbchk = none) (h₄ : i.checkChan = none) :
    i.front s = if i.act = 0 then some (.done (s.issuedNext i [])) else (i.channelWait s).map .block := by
  simp only [Iss.front, hh, h₁, h₂, h₃, h₄, Bool.false_eq_true, if_false]

/-! ## The traps of checks 2 to 5 -/

theorem Iss.checkRegs_cls {t : Trap} (h : i.checkRegs = some t) : t.cls = .illegal := by
  unfold Iss.checkRegs at h
  split at h <;> cases h; rfl

theorem Iss.checkRole_cls {t : Trap} (h : i.checkRole = some t) : t.cls = .role := by
  unfold Iss.checkRole at h
  split at h <;> cases h; rfl

theorem Iss.checkStall_cls {scb : Bool} {t : Trap} (h : i.checkStall scb = some t) : t.cls = .stall := by
  unfold Iss.checkStall at h
  split at h
  · cases h
  · split at h <;> cases h; rfl

theorem Iss.checkChan_cls {t : Trap} (h : i.checkChan = some t) : t.cls = .channel := by
  unfold Iss.checkChan at h
  dsimp only at h
  repeat' split at h
  all_goals cases h
  all_goals rfl

/-- None of them is the trap of TRAP and BRK, which retire (R170). -/
theorem Iss.FirstFails.not_soft {t : Trap} (h : i.FirstFails s t) : t.cls ≠ .soft := by
  rcases h with h | ⟨-, h⟩ | ⟨-, -, h⟩ | ⟨-, -, -, h⟩
  · rw [Iss.checkRegs_cls h]; decide
  · rw [Iss.checkRole_cls h]; decide
  · rw [Iss.checkStall_cls h]; decide
  · rw [Iss.checkChan_cls h]; decide

theorem State.conclude_trap {t : Trap} (h : t.cls ≠ .soft) : s.conclude i (.trap t) = i.traps s t := by
  simp only [State.conclude, if_neg h, Iss.traps]

theorem Iss.checkRegs_of_a {n : BitVec 8} (ha : i.f.a = .v n) (hd : i.f.dst = .none) (hn : i.launch.header.regs ≤ n.toNat) :
    i.checkRegs = some ⟨.illegal, 2, 2, 5, i.lanes, 0, 0⟩ := by
  simp [Iss.checkRegs, ha, hd, opndRegs, hn]

theorem Iss.checkRegs_of_dst {n : BitVec 8} (hd : i.f.dst = .v n) (hn : i.launch.header.regs ≤ n.toNat) :
    i.checkRegs = some ⟨.illegal, 1, 2, 5, i.lanes, 0, 0⟩ := by
  simp [Iss.checkRegs, hd, opndRegs, hn]

theorem Iss.checkRole_of_refused (h : roleAllows i.wave.role i.opc = false) :
    i.checkRole = some ⟨.role, 0, 3, 0, i.lanes, 0, BitVec.ofNat 64 i.wave.role.ctorIdx⟩ := by
  simp [Iss.checkRole, h]

theorem Iss.checkRole_of_allowed (h : roleAllows i.wave.role i.opc = true) : i.checkRole = none := by
  simp [Iss.checkRole, h]

/-- Matrix instructions are for GEN and MTX waves, copy commands for GEN and CPY waves (R26). -/
theorem roleAllows_matrix {r : Role} (h₁ : 0x280 ≤ opc) (h₂ : opc ≤ 0x2FF) : roleAllows r opc = (r == .gen || r == .mtx) := by
  rw [roleAllows, if_pos ⟨h₁, h₂⟩]

theorem roleAllows_copy {r : Role} (h₁ : 0x380 ≤ opc) (h₂ : opc ≤ 0x385) : roleAllows r opc = (r == .gen || r == .cpy) := by
  rw [roleAllows, if_neg (by omega), if_pos ⟨h₁, h₂⟩]

theorem roleAllows_other {r : Role} (h : opc < 0x280) : roleAllows r opc = true := by
  rw [roleAllows, if_neg (by omega), if_neg (by omega)]

theorem Iss.checkChan_of_a {n : BitVec 8} {p : Bool} (ha : i.f.a = .ch n p) (hb : i.bind? n.toNat = none) :
    i.checkChan = some ⟨.channel, 2, 5, 0, i.lanes, 0, BitVec.ofNat 64 (n.toNat + 256 * 0xFF)⟩ := by
  simp [Iss.checkChan, Iss.chans, ha, hb]

end

/-! ## Channel operands that wait (R103, R360) -/

section
variable (s : State) (t w core : Nat)

@[simp] theorem State.dropProbes_teams : (s.dropProbes t w core).teams = s.teams := by
  unfold State.dropProbes; split <;> rfl

@[simp] theorem State.dropProbes_mem : (s.dropProbes t w core).mem = s.mem := by
  unfold State.dropProbes; split <;> rfl
end

/-- The wave of a subset that blocks at its PC: its lanes BLOCKED, the wait at the end of those of the wave, its stall count running (R131). -/
def Iss.blockedWave (i : Iss) (wk : Wake) (cycle : Nat) : Wave := (i.wave.blockOn i.lanes i.pc wk).stalled i cycle

theorem Iss.blockedWave_threads (i : Iss) (wk : Wake) (cycle l : Nat) (hl : l < 32) (hm : i.lanes.getLsbD l = true) :
    (i.blockedWave wk cycle).threads.getD l .exited = .blocked := by
  have h := mergeLanes_getD i.lanes i.wave.threads .ready .exited (fun _ => Thread.blocked) l hl
  rwa [if_pos hm] at h

/-- A subset that blocks changes its own wave, and uses up the answers to its probes (R277). -/
theorem State.conclude_block {s : State} {i : Iss} (wk : Wake) (ht : s.teams.get? i.tid = some i.team)
    (hw : i.team.waves.get? i.wid = some i.wave) :
    let u := s.dropProbes i.tid i.wid i.team.core
    s.conclude i (.block wk) = { u with
      teams := s.teams.set i.tid
        { i.team with waves := i.team.waves.set i.wid (i.blockedWave wk (u.cycleOf i.team.core)) }
      cur := none } := by
  have ht' : (s.dropProbes i.tid i.wid i.team.core).teams.get? i.tid = some i.team := by rw [State.dropProbes_teams, ht]
  simp only [State.conclude, State.modWave_some ht' hw, State.dropProbes_teams]
  rfl

end Sys2Proof.Machine
end

section
/-! PROOFS. Steps, and the checks before an instruction (R25, R26, R35, R94, R96, R103, R106, R112, R115, R116, R126). -/

namespace Sys2Proof.Machine

/-- Settles O10: the front of `issue` finds the interlock, the first failing check, or that no lane is active, before the instruction's meaning
is looked at. -/
theorem checksBeforeTheInstruction : Obligations.ChecksBeforeTheInstruction := by
  refine ⟨?_, ?_, fun i => ⟨?_, ?_, ?_, ?_, ?_, ?_⟩, ?_⟩
  · intro ins opc f s i ho hi hh
    exact exec_of_front ho hi (Iss.front_held hh)
  · intro ins opc f s i t ho hi hh (ht : i.FirstFails s t)
    rw [exec_of_front ho hi (Iss.front_fails hh ht), State.conclude_trap ht.not_soft]
  · exact fun n => Iss.checkRegs_of_a
  · exact fun n => Iss.checkRegs_of_dst
  · intro h₁ h₂ hr
    refine Iss.checkRole_of_refused ?_
    rcases hr with hr | hr <;> rw [roleAllows_matrix h₁ h₂, hr] <;> rfl
  · intro h₁ h₂ hr
    refine Iss.checkRole_of_refused ?_
    rcases hr with hr | hr <;> rw [roleAllows_copy h₁ h₂, hr] <;> rfl
  · exact fun h => Iss.checkRole_of_allowed (roleAllows_other h)
  · exact fun n p => Iss.checkChan_of_a
  · intro ins opc f s i ho hi hh h₁ h₂ h₃ h₄ ha
    rw [exec_of_front ho hi (by rw [Iss.front_passes hh h₁ h₂ h₃ h₄, if_pos ha]), State.conclude_done]

/-- Settles O11: a channel that lacks an entry or room is what the front finds, and the block changes threads, waits and stall counts of one wave. -/
theorem channelOperandBlocks : Obligations.ChannelOperandBlocks := by
  intro ins opc f s i wk ho hi hh h₁ h₂ h₃ h₄ ha hwk
  obtain ⟨c, -, ht, hw, -, htid, hwid, -⟩ := State.issuing_spec hi
  rw [← htid] at ht
  rw [← hwid] at hw
  have hfront : i.front s = some (.block wk) := by rw [Iss.front_passes hh h₁ h₂ h₃ h₄, if_neg ha, hwk]; rfl
  have hexec := (exec_of_front ho hi hfront).trans (congrArg _ (State.conclude_block wk ht hw))
  exact ⟨_, _, _, hexec, AMap.get?_set_same .., AMap.get?_set_same .., fun l => Iss.blockedWave_threads i wk _ l,
    rfl, rfl, rfl, rfl, rfl, State.dropProbes_mem .., rfl⟩

/-- Settles O5: the three things that a step may find at the head of the issue group. -/
theorem stepRunsTheDecodedInstruction : Obligations.StepRunsTheDecodedInstruction :=
  ⟨fun _ _ _ _ _ _ _ _ _ hg ht hl hf hd => step_decoded hg ht hl hf hd,
    fun _ _ _ _ _ _ hg ht hl hf => step_code_waits hg ht hl hf,
    fun _ _ _ _ hg ha hev => step_event hg ha hev⟩

/-- Settles O6: the refusal is a trap of a wave that is not trapped, and its entry writes the side-buffer record. -/
theorem stepTrapsOnRefusedWords : Obligations.StepTrapsOnRefusedWords := by
  intro s s' c rest tm ln wv w e x hg ht hl hf hd ht' hl' hw hne hn
  obtain ⟨i, htid, hwid, rfl, rfl, hlanes, hpc, henc0, henc1, htrap⟩ := State.illegal_takeTrap w e x ht' hl' hw hne
  rw [← htid] at ht'
  rw [← hwid] at hw
  obtain ⟨tm', htm, hwv⟩ := State.takeTrap_wave ⟨.illegal, x.field, 1, x.reason, i.lanes, 0, 0⟩ ht' hw hn
  rw [← htrap, htid] at htm
  rw [hwid] at hwv
  exact ⟨_, tm', _, step_refused hg ht hl hf hd, htm, hwv, rfl, hlanes, rfl, rfl, rfl, rfl, henc0, henc1, hpc, rfl⟩

end Sys2Proof.Machine
end

section
/-! SUPPORT. The retirement of a fixed-latency instruction: its registers, its predicates, flags and mode, its next PCs (R112, R113, R137,
R148, R149). -/

namespace Sys2Proof.Machine

/-! ## Registers that an operand names (R97) -/

theorem opndRegs_nodup (o : Opnd) : (opndRegs o).Nodup := by
  have block (n k : Nat) : ((List.range k).map (n + ·)).Nodup := 
    List.pairwise_map.mpr (List.nodup_range.imp fun hne h => hne (Nat.add_left_cancel h))
  cases o with
  | b4 n => exact block n.toNat 4
  | b8 n => exact block n.toNat 8
  | _ => simp [opndRegs]

theorem zip_map_fst_sublist {α β : Type} (xs : List α) (ys : List β) : ((List.zip xs ys).map (·.1)).Sublist xs := by
  induction xs generalizing ys with
  | nil => exact .slnil
  | cons x xs ih =>
    cases ys with
    | nil => exact List.nil_sublist _
    | cons y ys => exact (ih ys).cons_cons x

/-! ## A list of registers written -/

theorem Wave.setRegs_getD_of_notMem (w : Wave) (rs : List (Nat × Vec)) {n : Nat} (h : n ∉ rs.map (·.1)) :
    (w.setRegs rs).getD n Vec.zero = w.vregs.getD n Vec.zero := by
  unfold Wave.setRegs
  generalize w.vregs = vs
  induction rs generalizing vs with
  | nil => rfl
  | cons r rs ih =>
    rw [List.map_cons, List.mem_cons, not_or] at h
    rw [List.foldl_cons, ih h.2, List.getD_eq_getElem?_getD, List.getElem?_set_ne (Ne.symm h.1), List.getD_eq_getElem?_getD]

theorem Wave.setRegs_getD_of_mem (w : Wave) {rs : List (Nat × Vec)} {n : Nat} {v : Vec} (hd : (rs.map (·.1)).Nodup) (h : (n, v) ∈ rs)
    (hn : n < w.vregs.length) : (w.setRegs rs).getD n Vec.zero = v := by
  unfold Wave.setRegs
  revert hn
  generalize w.vregs = vs
  intro hn
  induction rs generalizing vs with
  | nil => cases h
  | cons r rs ih =>
    rw [List.map_cons, List.nodup_cons] at hd
    rcases List.mem_cons.mp h with rfl | h
    · have hkeep := Wave.setRegs_getD_of_notMem { w with vregs := vs.set n v } rs hd.1
      exact hkeep.trans (by simp [List.getD_eq_getElem?_getD, hn])
    · exact ih hd.2 h _ (by rwa [List.length_set])

/-! ## The destination of a retirement (R113, R137) -/

/-- What a retirement writes to the registers of its destination: the results in the active lanes, but where an older value stays. -/
def State.dstWrites (s : State) (i : Iss) (wv : Wave) (vs : List Vec) : List (Nat × Vec) :=
  (List.zip (opndRegs i.f.dst) vs).map fun (n, v) =>
    (n, Vec.of fun l => if i.act.getLsbD l && !s.keepsOld wv i.act (.reg n) l then v.legal.lane l else (wv.vregs.getD n Vec.zero).lane l)

theorem State.dstWrites_regs (s : State) (i : Iss) (wv : Wave) (vs : List Vec) :
    (s.dstWrites i wv vs).map (·.1) = (List.zip (opndRegs i.f.dst) vs).map (·.1) := by
  simp [State.dstWrites]

theorem State.dstWrites_nodup (s : State) (i : Iss) (wv : Wave) (vs : List Vec) : ((s.dstWrites i wv vs).map (·.1)).Nodup := by
  rw [State.dstWrites_regs]
  exact (opndRegs_nodup _).sublist (zip_map_fst_sublist _ _)

/-- A destination that is no channel is written to the wave's registers; a channel names no register, and takes pushes. -/
theorem State.writeDst_wave {s : State} {i : Iss} {wv : Wave} (vs : List Vec) (given : List Nat) (h : s.wave? i.tid i.wid = some wv) :
    s.SameRest (s.writeDst i vs given) ∧
      ∃ w', (s.writeDst i vs given).wave? i.tid i.wid = some w' ∧ wv.RegsOnly w' (wv.setRegs (s.dstWrites i wv vs)) := by
  unfold State.writeDst
  split
  next c p hd =>
    have hs : s.SameWaves (match i.bind? c.toNat with
        | some (_, b) => vs.foldl (fun s v => s.chanPush i.tid i.wid i.team i.launch.part b (maskedEntry i.act v)) s
        | none => s) := by
      split
      · exact .foldl _ _ (fun _ _ => State.chanPush_sameWaves _ _ _ _ _ _ _) _
      · exact .refl s
    refine ⟨hs.rest, wv, (hs.waves _ _).trans h, ?_⟩
    simp only [State.dstWrites, hd, opndRegs, List.zip_nil_left]
    rfl
  · rw [h]
    exact State.writeRegs_spec s i.tid i.wid _ given wv h

theorem State.dstWrites_getD_other (s : State) (i : Iss) (wv : Wave) (vs : List Vec) {n : Nat} (h : n ∉ opndRegs i.f.dst) :
    (wv.setRegs (s.dstWrites i wv vs)).getD n Vec.zero = wv.vregs.getD n Vec.zero := by
  refine wv.setRegs_getD_of_notMem _ fun hm => h ?_
  rw [State.dstWrites_regs] at hm
  exact (zip_map_fst_sublist _ _).mem hm

/-- A register that no open hazard holds takes the results in the active lanes. -/
theorem State.dstWrites_lane (s : State) (i : Iss) (wv : Wave) {vs : List Vec} {k n l : Nat} (hk : (opndRegs i.f.dst)[k]? = some n)
    (hv : k < vs.length) (hn : n < wv.vregs.length) (hl : l < 32) (hz : wv.hazardsOf i.act (.reg n) = []) :
    ((wv.setRegs (s.dstWrites i wv vs)).getD n Vec.zero).lane l =
      if i.act.getLsbD l then (vs.getD k Vec.zero).legal.lane l else (wv.vregs.getD n Vec.zero).lane l := by
  have hmem : (n, vs[k]) ∈ List.zip (opndRegs i.f.dst) vs := by
    refine List.mem_of_getElem? (i := k) ?_
    rw [List.getElem?_zip_eq_some]
    exact ⟨hk, List.getElem?_eq_getElem hv⟩
  rw [wv.setRegs_getD_of_mem (s.dstWrites_nodup i wv vs) (List.mem_map_of_mem hmem) hn]
  simp [Vec.lane, Vec.of, lanes32, List.getD_eq_getElem?_getD, hl, hv, State.keepsOld, hz]

/-! ## What a retirement writes beside registers (R112, R113, R149, R213) -/

theorem modAt_getD {α : Type} (l : List α) (m n : Nat) (f : α → α) (d : α) (h : n < l.length) :
    (modAt l m f).getD n d = if n = m then f (l.getD n d) else l.getD n d := by
  simp only [modAt, List.getD_eq_getElem?_getD, List.getElem?_modify, List.getElem?_eq_getElem h, eq_comm (a := n)]
  split <;> rfl

theorem mergeMask_getLsbD (act old new : Mask) {l : Nat} (h : l < 32) :
    (mergeMask act old new).getLsbD l = if act.getLsbD l then new.getLsbD l else old.getLsbD l := by
  rw [mergeMask, BitVec.getLsbD_or, BitVec.getLsbD_and, BitVec.getLsbD_and, BitVec.getLsbD_not, decide_eq_true h]
  cases act.getLsbD l <;> simp

section
variable (s : State) (i : Iss) (o : Out) (w : Wave)

theorem State.wins_of_free {w : Wave} {m : Mask} {r : Res} (h : w.hazardsOf m r = []) : s.wins w m r = m := by
  simp only [State.wins, h]

/-- Nothing is written outside the lanes of a mask. -/
theorem State.wins_subset (m : Mask) (r : Res) {l : Nat} (h : (s.wins w m r).getLsbD l = true) : m.getLsbD l = true := by
  unfold State.wins at h
  split at h
  · exact h
  · rw [BitVec.getLsbD_and, Bool.and_eq_true] at h
    exact h.1

theorem State.writeBits_pred {n : Nat} (h : n < w.preds.length) : (s.writeBits i o w).preds.getD n 0 =
    o.pred.elim (w.preds.getD n 0) fun p =>
      if n = p.1 then mergeMask (s.wins w i.act (.pred n)) (w.preds.getD n 0) p.2 else w.preds.getD n 0 := by
  unfold State.writeBits
  rcases o.pred with _ | ⟨m, v⟩
  · rfl
  · dsimp only [Option.elim]
    rw [modAt_getD _ _ _ _ _ h]
    by_cases hm : n = m
    · rw [hm]
    · rw [if_neg hm, if_neg hm]

theorem State.writeBits_rejoin {n : Nat} (h : n < w.rejoin.length) : (s.writeBits i o w).rejoin.getD n 0 =
    o.rejoin.elim (w.rejoin.getD n 0) fun p =>
      if n = p.1 then mergeMask (s.wins w i.act (.rejoin n)) (w.rejoin.getD n 0) p.2 else w.rejoin.getD n 0 := by
  unfold State.writeBits
  rcases o.rejoin with _ | ⟨m, v⟩
  · rfl
  · dsimp only [Option.elim]
    rw [modAt_getD _ _ _ _ _ h]
    by_cases hm : n = m
    · rw [hm]
    · rw [if_neg hm, if_neg hm]

/-- A predicate holds its old bits, or new ones in active lanes, whatever hazards are open (R113). -/
theorem State.writeBits_pred_bit {n l : Nat} (h : n < w.preds.length) (hl : l < 32) :
    ((s.writeBits i o w).preds.getD n 0).getLsbD l = (w.preds.getD n 0).getLsbD l ∨
      ∃ v, o.pred = some (n, v) ∧ i.act.getLsbD l = true ∧ ((s.writeBits i o w).preds.getD n 0).getLsbD l = v.getLsbD l := by
  rw [s.writeBits_pred i o w h]
  rcases o.pred with _ | ⟨m, v⟩
  · exact .inl rfl
  · dsimp only [Option.elim]
    split
    next hm =>
      subst hm
      rw [mergeMask_getLsbD _ _ _ hl]
      split
      next hw => exact .inr ⟨v, rfl, s.wins_subset w _ _ hw, rfl⟩
      · exact .inl rfl
    · exact .inl rfl

theorem State.writeBits_flags {l : Nat} (h : o.clear = [] ∨ w.hazardsOf i.act .flags = []) (hl : l < 32) :
    (s.writeBits i o w).flags.getD l 0 =
      if i.act.getLsbD l then (w.flags.getD l 0 ||| o.flags.getD l 0) &&& ~~~(o.clear.getD l 0) else w.flags.getD l 0 := by
  unfold State.writeBits
  dsimp only
  rw [mergeLanes_getD _ _ _ _ _ _ hl]
  split
  next ha =>
    rcases h with h | h
    · rw [h]; rfl
    · rw [s.wins_of_free h, if_pos ha]
      cases o.clear <;> rfl
  · rfl

theorem State.writeBits_mode (ha : i.act ≠ 0) (h : o.mode = none ∨ w.hazardsOf i.act .mode = []) :
    ((s.writeBits i o w).rm, (s.writeBits i o w).ftz) = o.mode.getD (w.rm, w.ftz) := by
  unfold State.writeBits
  rcases hm : o.mode with _ | ⟨r, z⟩
  · rfl
  · have hz : w.hazardsOf i.act .mode = [] := h.resolve_left (by rw [hm]; exact Option.some_ne_none _)
    have hw : ¬ (s.wins w i.act .mode &&& i.act = 0) := by rwa [s.wins_of_free hz, BitVec.and_self]
    simp only [if_neg hw, Option.getD_some]
end

/-! ## The next PCs (R94, R148) -/

/-- The PCs that a retirement leaves: the next instruction in every lane of the subset, but where the instruction sends an active lane. -/
def Iss.nextPcs (i : Iss) (o : Out) : List W64 :=
  let next := mergeLanes i.lanes i.wave.pcs 0 fun _ => i.pc + i.len
  match o.pcs with
  | some ps => mergeLanes i.act next 0 fun l => ps.getD l 0
  | none => next

section
variable (i : Iss) {o : Out} {l : Nat}

theorem Iss.nextPcs_inactive (hl : l < 32) (ha : i.act.getLsbD l = false) :
    (i.nextPcs o).getD l 0 = if i.lanes.getLsbD l then i.pc + i.len else i.wave.pcs.getD l 0 := by
  unfold Iss.nextPcs
  split
  · rw [mergeLanes_getD _ _ _ _ _ _ hl, ha, if_neg Bool.false_ne_true, mergeLanes_getD _ _ _ _ _ _ hl]
  · rw [mergeLanes_getD _ _ _ _ _ _ hl]

theorem Iss.nextPcs_sent {ps : List W64} (hl : l < 32) (hp : o.pcs = some ps) (ha : i.act.getLsbD l = true) :
    (i.nextPcs o).getD l 0 = ps.getD l 0 := by
  simp only [Iss.nextPcs, hp]
  rw [mergeLanes_getD _ _ _ _ _ _ hl, if_pos ha]

theorem Iss.nextPcs_next (hl : l < 32) (hp : o.pcs = none) (hm : i.lanes.getLsbD l = true) : (i.nextPcs o).getD l 0 = i.pc + i.len := by
  simp only [Iss.nextPcs, hp]
  rw [mergeLanes_getD _ _ _ _ _ _ hl, if_pos hm]
end

/-! ## The wave after a retirement (R148) -/

/-- What a retirement leaves of its wave: the registers given, what it writes in a state beside them, its next PCs; else only names, hazards
and what says who waits, and since when, have changed. -/
def Iss.RetiresTo (i : Iss) (t : State) (o : Out) (vs : List Vec) (w : Wave) : Prop :=
  w = { t.writeBits i o i.wave with
    vregs := vs, pcs := i.nextPcs o, names := w.names, threads := w.threads, waits := w.waits, waitSince := w.waitSince,
    notBefore := w.notBefore, hazards := w.hazards, cache := w.cache }

theorem State.reuseLookup_sameWaves (s : State) (i : Iss) (op : Nat) : s.SameWaves (s.reuseLookup i op).1 := by
  unfold State.reuseLookup
  split
  · exact .refl s
  · dsimp only
    exact .modCore _ _ _

theorem State.reuseFinish_sameWaves (s : State) (i : Iss) (op : Nat) (fl : List (BitVec 5)) : s.SameWaves (s.reuseFinish i op fl) := by
  unfold State.reuseFinish
  split
  · exact .refl s
  · exact .modCore _ _ _

/-- The retirement of a subset changes registers, what it writes beside them, and PCs of its own wave. -/
theorem State.retire_wave {s : State} {i : Iss} (o : Out) (h : s.wave? i.tid i.wid = some i.wave) :
    s.SameRest (s.retire i o) ∧ ∃ u t w, (s.retire i o).wave? i.tid i.wid = some w ∧
      i.RetiresTo t o (i.wave.setRegs (State.dstWrites u i i.wave o.vecs)) w := by
  have looked : s.SameWaves (if o.vecs.isEmpty then (s, none) else s.reuseLookup i 0).1 := by
    split
    · exact .refl s
    · exact s.reuseLookup_sameWaves i 0
  unfold State.retire
  dsimp only
  generalize (if o.vecs.isEmpty then (s, none) else s.reuseLookup i 0) = r at looked ⊢
  have popped := looked.trans (r.1.popSources_sameWaves i)
  generalize r.1.popSources i = a at popped ⊢
  have ha := (popped.waves i.tid i.wid).trans h
  obtain ⟨hrest, w₁, hw₁, hregs⟩ :
      a.SameRest (if o.vecs.isEmpty then a else (a.writeDst i o.vecs (i.given r.2)).reuseFinish i 0 o.flags) ∧
      ∃ w', State.wave? (if o.vecs.isEmpty then a else (a.writeDst i o.vecs (i.given r.2)).reuseFinish i 0 o.flags) i.tid i.wid = some w' ∧
        i.wave.RegsOnly w' (i.wave.setRegs (a.dstWrites i i.wave o.vecs)) := by
    split
    next he =>
      refine ⟨.refl a, i.wave, ha, ?_⟩
      rw [List.isEmpty_iff.mp he, State.dstWrites, List.zip_nil_right]
      rfl
    next he =>
      obtain ⟨hr, w', hw, hg⟩ := State.writeDst_wave o.vecs (i.given r.2) ha
      have hf := State.reuseFinish_sameWaves (a.writeDst i o.vecs (i.given r.2)) i 0 o.flags
      exact ⟨hr.trans hf.rest, w', (hf.waves _ _).trans hw, hg⟩
  generalize (if o.vecs.isEmpty then a else (a.writeDst i o.vecs (i.given r.2)).reuseFinish i 0 o.flags) = b at hrest hw₁ ⊢
  have hbits : (b.modWave i.tid i.wid fun w => b.writeBits i o w).wave? i.tid i.wid = some (b.writeBits i o w₁) := by
    rw [State.wave?_modWave_same, hw₁]
    rfl
  have hnext := State.issuedNext_wave i.newHazards hbits
  have rest := ((popped.rest.trans hrest).trans (.modWave b i.tid i.wid fun w => b.writeBits i o w)).trans
    (State.issuedNext_sameRest _ i i.newHazards)
  unfold Wave.RegsOnly at hregs
  rcases hp : o.pcs with _ | ps
  · refine ⟨rest, a, b, _, hnext, ?_⟩
    unfold Iss.RetiresTo Iss.nextPcs
    rw [hregs, hp]
    rfl
  · refine ⟨rest.trans (.modWave _ _ _ _), a, b, _, (State.wave?_modWave_same ..).trans (congrArg _ hnext), ?_⟩
    unfold Iss.RetiresTo Iss.nextPcs
    rw [hregs, hp]
    rfl

theorem Iss.retires_wave {s : State} {i : Iss} (o : Out) (h : s.wave? i.tid i.wid = some i.wave) :
    s.SameRest (i.retires s o) ∧ ∃ u t w, (i.retires s o).wave? i.tid i.wid = some w ∧
      i.RetiresTo t o (i.wave.setRegs (State.dstWrites u i i.wave o.vecs)) w := by
  obtain ⟨hrest, u, t, w, hw, hr⟩ := State.retire_wave o h
  obtain ⟨w', hw', hs⟩ := i.ends_wave hw
  refine ⟨hrest.trans (i.ends_sameRest _), u, t, w', hw', ?_⟩
  unfold Iss.RetiresTo at hr ⊢
  rw [hs, hr]

end Sys2Proof.Machine
end

section
/-! PROOFS. The retirement of fixed-latency instructions (R113, R137, R148, R149, R173, R204). -/

namespace Sys2Proof.Machine

/-- Settles O14: the wave after the retirement, and each of its fields. -/
theorem retirementWritesOnlyItsResults : Obligations.RetirementWritesOnlyItsResults := by
  intro opc f s i o h
  have hf : i.f.dst = f.dst := congrArg Form.dst h.form
  obtain ⟨hrest, u, t, w, hw, hr⟩ := i.retires_wave o h.wave
  unfold Iss.RetiresTo at hr
  have hvregs : w.vregs = i.wave.setRegs (u.dstWrites i i.wave o.vecs) := by rw [hr]
  have hpreds : w.preds = (t.writeBits i o i.wave).preds := by rw [hr]
  have hrejoin : w.rejoin = (t.writeBits i o i.wave).rejoin := by rw [hr]
  have hflags : w.flags = (t.writeBits i o i.wave).flags := by rw [hr]
  have hmode : (w.rm, w.ftz) = ((t.writeBits i o i.wave).rm, (t.writeBits i o i.wave).ftz) := by rw [hr]
  have hpcs : w.pcs = i.nextPcs o := by rw [hr]
  refine ⟨w, hw, fun n hn => ?_, fun ho => ?_, fun k n l hk hv hn hl hz => ?_, fun n hn hz => ?_, fun n hn hz => ?_, fun hc l hl => ?_,
    fun hm => ?_, fun n l hn hl => ?_, fun l hl hm ha => ?_, fun l hl ha hm => ?_, fun l hl ha hm => ?_, ?_⟩
  · rw [hvregs, State.dstWrites_getD_other _ _ _ _ (hf ▸ hn)]
  · rw [hvregs, ho, State.dstWrites, List.zip_nil_right]
    rfl
  · rw [hvregs, State.dstWrites_lane _ _ _ (hf ▸ hk) hv hn hl hz]
  · rw [hpreds, t.writeBits_pred i o i.wave hn, t.wins_of_free hz]
    cases o.pred <;> rfl
  · rw [hrejoin, t.writeBits_rejoin i o i.wave hn, t.wins_of_free hz]
    cases o.rejoin <;> rfl
  · rw [hflags, t.writeBits_flags i o i.wave hc hl]
  · rw [hmode, t.writeBits_mode i o i.wave h.active hm]
  · rw [hpreds]
    exact t.writeBits_pred_bit i o i.wave hn hl
  · rw [hpcs]
    rcases hp : o.pcs with _ | ps
    · exact i.nextPcs_next hl hp hm
    · exact i.nextPcs_sent hl hp (ha.resolve_right (by rw [hp]; exact Option.some_ne_none _))
  · rw [hpcs, i.nextPcs_inactive hl ha, if_pos hm]
  · rw [hpcs, i.nextPcs_inactive hl ha, if_neg (by rw [hm]; exact Bool.false_ne_true)]
  · obtain ⟨hmem, hslices, hlaunches, hctxs, hparts, hkeys⟩ := hrest
    rw [hr]
    exact ⟨rfl, rfl, rfl, rfl, rfl, rfl, rfl, rfl, rfl, rfl, rfl, rfl, hmem, hslices, hlaunches, hctxs, hparts, hkeys⟩

end Sys2Proof.Machine
end

section
/-! SUPPORT. The issue builder, sleeping threads and the active set (R126-R135, R158): the seed wave, the waves that join it, and what their
bookkeeping leaves. -/

namespace Sys2Proof.Machine

/-! ## Sorted lists -/

theorem insertBy_perm {α : Type} (le : α → α → Bool) (a : α) (l : List α) : (insertBy le a l).Perm (a :: l) := by
  induction l with
  | nil => exact .refl _
  | cons b l ih =>
    unfold insertBy
    split
    · exact .refl _
    · exact (ih.cons b).trans (.swap a b l)

theorem sortBy_perm {α : Type} (le : α → α → Bool) (l : List α) : (sortBy le l).Perm l := by
  induction l with
  | nil => exact .refl _
  | cons a l ih => exact (insertBy_perm le a _).trans (ih.cons a)

/-! ## The seed wave (R129) -/

theorem either_of_orElse_some {α : Type} {o o' : Option α} {a : α} (h : (o <|> o') = some a) : o = some a ∨ o' = some a := by
  cases o with
  | none => exact .inr h
  | some b => exact .inl h

theorem second_of_orElse_none {α : Type} {o o' : Option α} (h : (o <|> o') = none) : o' = none := by
  cases o with
  | none => exact h
  | some b => cases h

theorem seedWave_issues {cycle : Nat} {act : List Act} {a : Act} (h : seedWave cycle act = some a) : a.seed.isSome = true := by
  unfold seedWave at h
  rcases either_of_orElse_some h with h | h
  · have hm := List.mem_filter.mp ((sortBy_perm _ _).mem_iff.mp (List.mem_of_head? h))
    exact (List.mem_filter.mp hm.1).2
  · exact (List.mem_filter.mp (List.mem_of_head? h)).2

theorem seedWave_ne_none {cycle : Nat} {act : List Act} {a : Act} (ha : a ∈ act) (hs : a.seed.isSome = true) : seedWave cycle act ≠ none := by
  intro h
  unfold seedWave at h
  exact List.not_mem_nil (List.head?_eq_none_iff.mp (second_of_orElse_none h) ▸ List.mem_filter.mpr ⟨ha, hs⟩)

/-! ## The waves that join it (R130) -/

/-- The next wave joins with lanes that are not taken yet, as a wave of the seed's grid, or is passed over. -/
theorem joinWaves_cons (launchOf : Nat → Nat) (pc : W64) (seed : Nat) (taken : Mask) (a : Act) (l : List Act) :
    joinWaves launchOf pc seed taken (a :: l) = joinWaves launchOf pc seed taken l ∨
      ∃ m : Mask, launchOf a.team = launchOf seed ∧ taken &&& m = 0 ∧
        joinWaves launchOf pc seed taken (a :: l) = (a.team, a.wid, m) :: joinWaves launchOf pc seed (taken ||| m) l := by
  rw [joinWaves]
  split
  next x hx =>
    by_cases hj : launchOf a.team = launchOf seed ∧ x.lanes &&& taken = 0
    · exact (Decidable.em _).elim (fun h => .inr ⟨x.lanes, hj.1, by rw [BitVec.and_comm, hj.2], if_pos h⟩) fun h => .inl (if_neg h)
    · refine .inl (if_neg fun h => hj ?_)
      rw [Bool.and_eq_true, Bool.and_eq_true] at h
      exact ⟨of_decide_eq_true h.1.1, eq_of_beq h.1.2⟩
  · exact .inl rfl

/-- The waves that join are of the seed's grid, and their lanes are neither taken before nor each other's. -/
theorem joinWaves_spec (launchOf : Nat → Nat) (pc : W64) (seed : Nat) (taken : Mask) (l : List Act) :
    (∀ g ∈ joinWaves launchOf pc seed taken l, launchOf g.1 = launchOf seed ∧ taken &&& g.2.2 = 0) ∧
      (joinWaves launchOf pc seed taken l).Pairwise fun g h => g.2.2 &&& h.2.2 = 0 := by
  induction l generalizing taken with
  | nil => exact ⟨fun _ h => (List.not_mem_nil h).elim, .nil⟩
  | cons a l ih =>
    rcases joinWaves_cons launchOf pc seed taken a l with e | ⟨m, hlaunch, hfree, e⟩
    · rw [e]
      exact ih taken
    · obtain ⟨hrest, hpair⟩ := ih (taken ||| m)
      have apart (g) (hg : g ∈ joinWaves launchOf pc seed (taken ||| m) l) : taken &&& g.2.2 = 0 ∧ m &&& g.2.2 = 0 := by
        have h := (hrest g hg).2
        rw [BitVec.and_or_distrib_right] at h
        exact BitVec.or_eq_zero_iff.mp h
      rw [e]
      refine ⟨fun g hg => ?_, List.pairwise_cons.mpr ⟨fun g hg => (apart g hg).2, hpair⟩⟩
      rcases List.mem_cons.mp hg with rfl | hg
      · exact ⟨hlaunch, hfree⟩
      · exact ⟨(hrest g hg).1, (apart g hg).1⟩

/-- The issue group of a seed and the waves that join it. -/
def issueGroup (a : Act) (x : Cand) (js : List (Nat × Nat × Mask)) : List Cur :=
  ((a.team, a.wid, x.lanes) :: js).map fun g => ⟨g.1, g.2.1, x.pc, g.2.2, 0, 0⟩

section
variable (launchOf : Nat → Nat) (a : Act) (x : Cand) (l : List Act)

theorem issueGroup_one_grid : ∀ c ∈ issueGroup a x (joinWaves launchOf x.pc a.team x.lanes l),
    c.pc = x.pc ∧ launchOf c.team = launchOf a.team := by
  intro c hc
  obtain ⟨g, hg, rfl⟩ := List.mem_map.mp hc
  rcases List.mem_cons.mp hg with rfl | hg
  · exact ⟨rfl, rfl⟩
  · exact ⟨rfl, ((joinWaves_spec launchOf x.pc a.team x.lanes l).1 g hg).1⟩

theorem issueGroup_disjoint :
    ((issueGroup a x (joinWaves launchOf x.pc a.team x.lanes l)).map (·.lanes)).Pairwise fun m n => m &&& n = 0 := by
  obtain ⟨hfree, hpair⟩ := joinWaves_spec launchOf x.pc a.team x.lanes l
  rw [List.pairwise_map, issueGroup, List.pairwise_map, List.pairwise_cons]
  exact ⟨fun g hg => (hfree g hg).2, hpair⟩
end

/-! ## Bookkeeping -/

/-- What no step of a fold changes, the fold leaves. -/
theorem foldl_keeps {σ α β : Type} (g : σ → β) {f : σ → α → σ} (hf : ∀ s a, g (f s a) = g s) (l : List α) (s : σ) :
    g (l.foldl f s) = g s := by
  induction l generalizing s with
  | nil => rfl
  | cons a l ih => exact (ih _).trans (hf s a)

theorem State.noteGroup_keeps {β : Type} (g : State → β) (hw : ∀ s t w f, g (State.modWave s t w f) = g s)
    (hc : ∀ s k f, g (State.modCore s k f) = g s) (s : State) (core cycle : Nat) (act : List Act) (grp : List (Nat × Nat × Mask)) (pc : W64) :
    g (s.noteGroup core cycle act grp pc) = g s := by
  refine foldl_keeps g (fun s x => ?_) _ _
  dsimp only
  split
  · exact (hc _ _ _).trans (hw _ _ _ _)
  · exact hw _ _ _ _

theorem State.noteEligible_keeps {β : Type} (g : State → β) (hw : ∀ s t w f, g (State.modWave s t w f) = g s) (s : State) (core : Nat) :
    g (s.noteEligible core) = g s := by
  refine foldl_keeps g (fun s x => ?_) _ _
  split
  · rfl
  · exact hw _ _ _ _

theorem State.modWave_core (s : State) (t w : Nat) (f : Wave → Wave) (k : Nat) : (s.modWave t w f).core k = s.core k :=
  s.core_congr _ (s.modWave_cores t w f) k

theorem State.modWave_cycleOf (s : State) (t w : Nat) (f : Wave → Wave) (k : Nat) : (s.modWave t w f).cycleOf k = s.cycleOf k := by
  rw [State.cycleOf, State.cycle, s.spindle_congr _ (s.modWave_spindles t w f), State.cycleOf, State.cycle]

@[simp] theorem State.noteEligible_core (s : State) (core k : Nat) : (s.noteEligible core).core k = s.core k :=
  State.noteEligible_keeps (·.core k) (fun s t w f => s.modWave_core t w f k) s core

@[simp] theorem State.noteEligible_cycleOf (s : State) (core k : Nat) : (s.noteEligible core).cycleOf k = s.cycleOf k :=
  State.noteEligible_keeps (·.cycleOf k) (fun s t w f => s.modWave_cycleOf t w f k) s core

@[simp] theorem State.noteEligible_mem (s : State) (core : Nat) : (s.noteEligible core).mem = s.mem :=
  State.noteEligible_keeps (·.mem) State.modWave_mem s core

/-! ## The builder (R126, R129, R130) -/

/-- Nothing keeps an issue slot of a core from issuing in this core cycle. -/
structure State.SlotFree (s : State) (core slot : Nat) : Prop where
  stopped : (s.core core).stopped = false
  runs : s.spindleRuns (core / 36) = true
  enabled : (s.spindle (core / 36)).fused.getLsbD (core % 36) = false
  slot : slot < 2
  units : ∀ n, (s.core core).unitBusy.getD n 0 ≤ s.cycleOf core

/-- The builder issues a seed with the waves that join it, or nothing: then the slot is not free, or no active wave has a seed. -/
theorem issueGroupBuild_cases {s : State} (core slot : Nat) (hg : s.group = []) :
    ∃ u, exec (.issueGroupBuild core slot) s = .next u ∧ u.mem = s.mem ∧
      ((u.group = [] ∧ ¬ (s.SlotFree core slot ∧ ∃ x ∈ s.activeWaves core, x.seed ≠ none)) ∨
        ∃ a x l, u.group = issueGroup a x (joinWaves (fun t => (s.teams.get? t).elim 0 Team.launch) x.pc a.team x.lanes l)) := by
  have hexec : exec (.issueGroupBuild core slot) s = execIssueGroupBuild core slot s := rfl
  have noted (cycle act grp pc) : (s.noteGroup core cycle act grp pc).mem = s.mem ∧ (s.noteGroup core cycle act grp pc).group = s.group :=
    ⟨State.noteGroup_keeps (·.mem) State.modWave_mem State.modCore_mem s core cycle act grp pc,
      State.noteGroup_keeps (·.group) State.modWave_group State.modCore_group s core cycle act grp pc⟩
  rw [hexec]
  unfold execIssueGroupBuild
  dsimp only
  split
  next hkept =>
    refine ⟨s, rfl, rfl, .inl ⟨hg, fun ⟨hfree, _⟩ => ?_⟩⟩
    obtain ⟨hst, hru, hen, hsl, hun⟩ := hfree
    have hbusy : ¬ s.cycle (core / 36) < (s.core core).unitBusy.getD (issueKey slot) 0 := Nat.not_lt.mpr (hun _)
    simp [hg, hst, hru, hen, hbusy, Nat.not_le.mpr hsl] at hkept
  · split
    next hseed =>
      obtain ⟨hmem, hgroup⟩ := noted (s.cycle (core / 36)) _ [] 0
      refine ⟨_, rfl, hmem, .inl ⟨hgroup.trans hg, fun ⟨hfree, y, hy, hys⟩ => ?_⟩⟩
      refine seedWave_ne_none ((sortBy_perm _ _).mem_iff.mpr (List.mem_filter.mpr ⟨hy, ?_⟩)) (Option.isSome_iff_ne_none.mpr hys) hseed
      exact decide_eq_true (hfree.units _)
    next a hseed =>
      split
      next hnone => exact absurd (seedWave_issues hseed) (by rw [hnone]; decide)
      next x hx =>
        split
        next hunit =>
          obtain ⟨hmem, hgroup⟩ := noted (s.cycle (core / 36)) _ [] 0
          refine ⟨_, rfl, hmem, .inl ⟨hgroup.trans hg, fun ⟨hfree, _⟩ => ?_⟩⟩
          cases hop : (s.peek a.team a.wid x.pc x.lanes).map (·.1) with
          | none => rw [hop] at hunit; exact absurd hunit (Nat.not_lt_zero _)
          | some opc => rw [hop] at hunit; exact absurd hunit (Nat.not_lt.mpr (hfree.units _))
        · exact ⟨_, rfl, (noted _ _ _ _).1, .inr ⟨a, x, _, rfl⟩⟩

/-! ## Sleeping threads (R158) -/

/-- The times of all READY threads at a lane's PC have come. -/
def Wave.LastOver (w : Wave) (tsc l : Nat) : Prop :=
  ∀ k, k < 32 → w.pcs.getD k 0 = w.pcs.getD l 0 → w.threads.getD k .exited = .ready → w.sleepUntil.getD k 0 ≤ tsc

theorem Wave.wakeable_iff (w : Wave) (tsc : Nat) {l : Nat} (hl : l < 32) :
    (w.wakeable tsc).getLsbD l = true ↔ w.sleepUntil.getD l 0 ≠ 0 ∧ w.LastOver tsc l := by
  rw [Wave.wakeable, laneMask_getLsbD _ hl, Bool.and_eq_true, bne_iff_ne, List.all_eq_true]
  refine and_congr_right fun _ => forall_congr' fun k => ?_
  rw [lanes32, List.mem_range]
  simp only [Bool.or_eq_true, bne_iff_ne, decide_eq_true_eq]
  refine imp_congr_right fun _ => ?_
  rw [or_assoc, Classical.or_iff_not_imp_left, Classical.not_not, Classical.or_iff_not_imp_left, Classical.not_not]

/-- The wave after an expiry: the lanes whose time is over sleep no more. -/
def Wave.expired (w : Wave) (tsc now : Nat) : Wave :=
  { w with
    sleepUntil := mergeLanes (w.wakeable tsc) w.sleepUntil 0 fun _ => 0
    waitSince := mergeLanes (w.wakeable tsc) w.waitSince 0 fun _ => now }

theorem Wave.expired_sleepUntil (w : Wave) (tsc now : Nat) {l : Nat} (hl : l < 32) :
    (w.expired tsc now).sleepUntil.getD l 0 = if (w.wakeable tsc).getLsbD l then 0 else w.sleepUntil.getD l 0 := by
  unfold Wave.expired
  dsimp only
  rw [mergeLanes_getD _ _ _ _ _ _ hl]

theorem Wave.expired_over {w : Wave} {tsc now l : Nat} (hl : l < 32) (h : w.LastOver tsc l) : (w.expired tsc now).sleepUntil.getD l 0 = 0 := by
  rw [w.expired_sleepUntil tsc now hl]
  split
  · rfl
  next hm =>
    exact Classical.byContradiction fun hs => hm ((w.wakeable_iff tsc hl).mpr ⟨hs, h⟩)

theorem Wave.expired_asleep {w : Wave} {tsc now l : Nat} (hl : l < 32) (h : ¬ w.LastOver tsc l) :
    (w.expired tsc now).sleepUntil.getD l 0 = w.sleepUntil.getD l 0 := by
  rw [w.expired_sleepUntil tsc now hl, if_neg fun hm => h ((w.wakeable_iff tsc hl).mp hm).2]

/-! ## Swaps (R132-R135) -/

/-- A pending wave that has waited 1,024 core cycles asks for a swap. -/
theorem swapTrigger_wants {s : State} {core since : Nat} {x : Nat × Nat × Wave} (hx : x ∈ (s.noteEligible core).coreWaves core)
    (hp : x.2.2.active = false) (he : x.2.2.eligibleSince = some since)
    (hw : 1024 ≤ s.cycleOf core - Nat.max since ((s.core core).lastSwap.getD 0)) :
    exec (.swapTrigger core) s = .next ((s.noteEligible core).modCore core fun c => { c with swapWanted := true }) := by
  have hexec : exec (.swapTrigger core) s = execSwapTrigger core s := rfl
  rw [hexec]
  unfold execSwapTrigger
  dsimp only
  rw [State.noteEligible_core, State.noteEligible_cycleOf, if_pos]
  rw [Bool.or_eq_true, List.any_eq_true]
  exact .inl ⟨x, hx, by rw [hp, he]; exact decide_eq_true hw⟩

theorem State.swapDue_of {s : State} {core : Nat} (h : ∀ t, (s.core core).lastSwap = some t → t + 64 ≤ s.cycleOf core) :
    s.swapDue core = true := by
  unfold State.swapDue
  split
  next t ht => exact decide_eq_true (h t ht)
  · rfl

/-- A swap that is wanted and due changes waves, and is counted and timed at its core. -/
theorem swap_counted {s : State} {core : Nat} (hw : (s.core core).swapWanted = true) (hd : s.swapDue core = true)
    (hs : (s.core core).stopped = false) (hr : s.spindleRuns (core / 36) = true) :
    ∃ t : State, t.mem = s.mem ∧ t.core core = s.core core ∧ exec (.swap core) s = .next (t.modCore core fun c =>
      { c with swaps := c.swaps + 1, lastSwap := some (s.cycleOf core), swapWanted := false }) := by
  have hexec : exec (.swap core) s = execSwap core s := rfl
  have waves {β : Type} (g : State → β) (hg : ∀ s t w f, g (State.modWave s t w f) = g s) (l : List (Nat × Nat × Wave)) (f : Wave → Wave)
      (s : State) : g (l.foldl (fun s x => s.modWave x.1 x.2.1 f) s) = g s := foldl_keeps g (fun _ _ => hg _ _ _ _) l s
  rw [hexec]
  unfold execSwap
  simp only [hw, hd, hs, hr, Bool.not_true, Bool.or_self, Bool.false_eq_true, if_false]
  refine ⟨_, ?_, ?_, rfl⟩
  · rw [waves (·.mem) State.modWave_mem, waves (·.mem) State.modWave_mem, waves (·.mem) State.modWave_mem, State.noteEligible_mem]
  · have kept : ∀ s t w f, (State.modWave s t w f).core core = State.core s core := fun s t w f => s.modWave_core t w f core
    rw [waves (·.core core) kept, waves (·.core core) kept, waves (·.core core) kept, State.noteEligible_core]

end Sys2Proof.Machine
end

section
/-! PROOFS. The issue builder, sleep expiry and swaps (R126, R128, R130, R133-R135, R158). -/

namespace Sys2Proof.Machine

/-- Settles O46: each event by what it does. -/
theorem issueAndSwapEvents : Obligations.IssueAndSwapEvents := by
  intro s core slot
  refine ⟨fun hg => ?_, fun t w wv hw => ?_, ?_, fun hw hd hs hr => ?_⟩
  · obtain ⟨u, hu, hmem, hcases⟩ := issueGroupBuild_cases core slot hg
    refine ⟨u, hu, hmem, ?_⟩
    rcases hcases with ⟨hnil, hnot⟩ | ⟨a, x, l, hgrp⟩
    · refine ⟨fun _ h => ?_, ?_, fun h1 h2 h3 h4 h5 h6 => absurd ⟨⟨h1, h2, h3, h4, h5⟩, h6⟩ hnot⟩
      · rw [hnil] at h
        exact (List.not_mem_nil h).elim
      · rw [hnil]
        exact .nil
    · rw [hgrp]
      have one := issueGroup_one_grid (fun t => (s.teams.get? t).elim 0 Team.launch) a x l
      refine ⟨fun c hc d hd => ⟨(one c hc).1.trans (one d hd).1.symm, (one c hc).2.trans (one d hd).2.symm⟩, issueGroup_disjoint _ a x l,
        fun _ _ _ _ _ _ => List.cons_ne_nil _ _⟩
  · refine ⟨_, wv.expired s.tsc.toNat s.time, rfl, ?_, rfl, rfl, fun l hl => ⟨Wave.expired_over hl, Wave.expired_asleep hl⟩⟩
    rw [State.wave?_modWave_same, hw]
    rfl
  · rintro ⟨x, hx, hp, since, he, hwait⟩
    refine ⟨_, swapTrigger_wants hx hp he hwait, ?_⟩
    rw [State.core_modCore_same]
  · obtain ⟨t, hmem, hcore, ht⟩ := swap_counted hw (State.swapDue_of hd) hs hr
    refine ⟨_, ht, ?_⟩
    rw [State.core_modCore_same, hcore]
    exact ⟨rfl, rfl, rfl, hmem⟩

end Sys2Proof.Machine
end

section
/-! PROOFS. Answers and completions of operations in flight (R141, R148, R307). -/

namespace Sys2Proof.Machine

/-! ## An arrival without room in a staging buffer (R141) -/

/-- An arrival is put back when taking it in would fill the staging buffers of the team's core beyond 64 vectors, and further than they are. -/
theorem replyEvent_put_back {p : Op → Bool} {s : State} {t w op core : Nat} {o : Op} {tm : Team} (ho : s.op? t w op = some o)
    (ht : s.teams.get? t = some tm) (hcore : tm.core = core) (hmany : 64 < (s.takeAnswer t w o).staging core)
    (hmore : s.staging core < (s.takeAnswer t w o).staging core) : replyEvent p t w op s = s := by
  simp only [replyEvent, ho, ht, hcore]
  split
  · rfl
  · rw [if_pos]
    rw [Bool.and_eq_true]
    exact ⟨decide_eq_true hmany, decide_eq_true hmore⟩

/-! ## A table of waves whose indices do not rise -/

/-- A load of no lane and no register, with every answer. -/
def answeredLoad : Op :=
  { id := 7, kind := .load 0, lanes := 0, pc := 0, dst := .none, dom := .rc, scope := .team, order := .plain, pieces := [], need := 0,
    got := [], regs := [], vals := [], flags := [], counted := none, isRemote := false, hint := 0, ready := false, fwd := [], older := [],
    pops := [], digest := [], enc0 := 0, enc1 := 0 }

/-- A result whose 40 vectors wait in the staging buffers. -/
def waitingResult : Op := { answeredLoad with id := 8, kind := .result, regs := List.replicate 40 0 }

/-- A wave that is placed, with operations in flight. -/
def waveWith (ops : List Op) : Wave := { Wave.placed 0 .gen 1 0 0 0 with ops := ops }

/-- A team whose table lists wave 1 before wave 0, where the tables that `AMap.set` makes rise: a write of wave 0 goes before both, and leaves
its old entry. -/
def fallingWaves : State :=
  { State.reset with
    launches := [(1, probeLaunch)]
    teams := [(1, { probeTeam with waves := [(1, waveWith []), (0, waveWith [answeredLoad, waitingResult])] })] }

/-- The waiting result counts twice once the load has left. -/
theorem fallingWaves_staging :
    fallingWaves.staging 0 = 40 ∧ (fallingWaves.takeAnswer 1 0 answeredLoad).staging 0 = 80 := by
  decide +kernel

theorem fallingWaves_put_back : exec (.loadDataArrival 1 0 7) fallingWaves = .next fallingWaves := by
  obtain ⟨hbefore, hafter⟩ := fallingWaves_staging
  exact congrArg Host.Outcome.next (replyEvent_put_back (core := 0) (o := answeredLoad) rfl rfl rfl
    (by rw [hafter]; decide) (by rw [hbefore, hafter]; decide))

/-- Refutes O45, whose premises do not ask that the tables of teams and waves rise: where the table of waves falls, the write of the wave
that retires leaves its old entry, the count of waiting vectors (R141) takes both, and the arrival of the load's last answer is put back. -/
theorem not_operationsRetire : ¬ Obligations.OperationsRetire := by
  intro h
  obtain ⟨-, hload, -⟩ := h fallingWaves 1 0 answeredLoad _ _ rfl rfl rfl rfl rfl rfl rfl (fun hi hk => nomatch hk)
  obtain ⟨u, hu, w, hw, hready, -⟩ := hload rfl (by decide) rfl
  cases fallingWaves_put_back.symm.trans hu
  cases hw
  exact absurd (hready answeredLoad (.head _) rfl) (by decide)

end Sys2Proof.Machine
end

section
/-! SUPPORT. What control instructions compute and leave: targets (R154, R155), the end of threads (R43, R156), predicates and comparisons
(R162, R163, R165, R185), and the SOFT trap (R170). -/

namespace Sys2Proof.Machine

/-! ## Meanings that trap -/

section
variable {opc : Nat} {f : Form} {s : State} {i : Iss} {t : Trap}

theorem issue_trap {body : Iss → Eff} (h : Executes opc f s i) (hb : body i = .trap t) :
    issue opc f s body = .next (s.conclude i (.trap t)) := by
  rw [issue_of_executes h, hb]

theorem issueFixed_traps {body : Iss → Except Trap Out} (h : Executes opc f s i) (hb : body i = .error t) (hc : t.cls ≠ .soft) :
    issueFixed opc f s body = .next (i.traps s t) := by
  rw [issueFixed_error h hb, State.conclude_trap hc]
end

/-! ## Targets in registers (R154, R155) -/

section
variable {s : State} {i : Iss} (link : List Vec)

theorem indirect_aligned (h : ∀ l, l < 32 → i.act.getLsbD l = true → (lane64 (i.srcA s) l).extractLsb' 0 3 = 0) :
    indirect i s link = .ok { vecs := link, pcs := some (lanes32.map (lane64 (i.srcA s))) } := by
  refine if_pos ((laneMask_eq_zero _).mpr fun l hl => ?_)
  cases ha : i.act.getLsbD l with
  | false => rfl
  | true => rw [h l hl ha]; rfl

theorem indirect_misaligned {bad : Mask}
    (hbad : bad = laneMask fun l => i.act.getLsbD l && (lane64 (i.srcA s) l).extractLsb' 0 3 != 0) (h : bad ≠ 0) :
    indirect i s link = .error ⟨.align, 2, 8, 0, bad, lane64 (i.srcA s) (lowest bad), 0⟩ := by
  subst hbad
  exact if_neg h
end

/-! ## The end of threads (R43, R156, R275) -/

theorem State.dropPrivate_sameWaves (s : State) (tm : Team) (ln : Launch) (t w : Nat) (m : Mask) :
    s.SameWaves (s.dropPrivate tm ln t w m) := by
  unfold State.dropPrivate
  dsimp only
  split
  · exact .refl s
  · split
    · exact .modCore _ _ _
    · refine (State.SameWaves.modCore _ _ _).trans (.foldl _ _ (fun s l => .foldl _ _ (fun s k => ?_) _) _)
      split
      · exact .modCore _ _ _
      · exact .refl s

/-- Freeing the register names of a wave changes nothing else of it. -/
theorem State.freeNames_wave {s : State} {t w : Nat} {wv : Wave} (h : s.wave? t w = some wv) :
    ∃ ns, (s.freeNames t w).wave? t w = some { wv with names := ns } := by
  obtain ⟨tm, ht, hw⟩ := State.team_of_wave h
  simp only [State.freeNames, ht, hw]
  split
  · refine ⟨[], ?_⟩
    rw [State.wave?_modWave_same, (State.SameWaves.modCore _ _ _).waves, h]
    rfl
  · exact ⟨wv.names, h⟩

/-- Without channel operands, the end of an instruction other than RINGINIT wakes nobody. -/
theorem Iss.ends_of_no_chans {i : Iss} (t : State) (hc : i.chans = []) (ho : i.opc ≠ 0x39A) : i.ends t = { t with cur := none } := by
  have hw : i.wakes t = t := if_pos (by rw [hc, bne_iff_ne.mpr ho]; rfl)
  rw [Iss.ends, hw]

/-- The wave of an EXIT without channel operands: its active lanes exit, and its names may go. -/
theorem exit_wave {f : Form} {s : State} {i : Iss} (h : Executes 0x006 f s i) (hc : i.chans = []) :
    ∃ t ns now cycle, exec (.exit f) s = .next t ∧ t.wave? i.tid i.wid =
      some { (((i.wave.advancePcs i).issued i now cycle []).exitLanes i.act) with names := ns } := by
  have issued := State.issuedNext_wave [] h.wave
  have dropped := ((s.issuedNext i []).dropPrivate_sameWaves i.team i.launch i.tid i.wid i.act).waves i.tid i.wid
  have exited := State.wave?_modWave_same ((s.issuedNext i []).dropPrivate i.team i.launch i.tid i.wid i.act) i.tid i.wid
    (·.exitLanes i.act)
  rw [dropped, issued] at exited
  obtain ⟨ns, hw⟩ := State.freeNames_wave exited
  refine ⟨_, ns, s.time, s.cycleOf i.team.core, issue_done h rfl, ?_⟩
  rw [Iss.ends_of_no_chans _ hc (by rw [h.opcode]; decide)]
  exact hw

theorem Wave.exitLanes_issued_threads (w : Wave) (i : Iss) (now cycle : Nat) {l : Nat} (hl : l < 32) :
    (((w.advancePcs i).issued i now cycle []).exitLanes i.act).threads.getD l .exited =
      if i.act.getLsbD l then .exited else w.threads.getD l .ready :=
  mergeLanes_getD i.act w.threads .ready .exited (fun _ => .exited) l hl

/-! ## JWAIT (R160) -/

theorem Wave.joined_iff (w : Wave) (pc : W64) (m : Mask) : w.joined pc m = true ↔ m &&& ~~~(w.exited ||| w.readyAt pc) = 0 :=
  decide_eq_true_iff

/-! ## Predicates (R163, R165) -/

theorem plogMask_eq (m : BitVec 5) (a b : Mask) : plogMask m.toNat a b =
    if m = 0 then a &&& b else if m = 1 then a ||| b else if m = 2 then a ^^^ b
    else if m = 3 then a &&& ~~~b else if m = 4 then a ||| ~~~b else if m = 5 then ~~~(a ^^^ b)
    else if m = 6 then ~~~(a &&& b) else ~~~(a ||| b) := by
  simp only [← BitVec.toNat_inj]
  generalize m.toNat = n
  match n with
  | 0 | 1 | 2 | 3 | 4 | 5 | 6 | _ + 7 => rfl

theorem and_eq_right_iff_lanes (act k : Mask) :
    k &&& act = act ↔ ∀ l, l < 32 → act.getLsbD l = true → k.getLsbD l = true := by
  rw [BitVec.eq_of_getLsbD_eq_iff]
  simp only [BitVec.getLsbD_and, Bool.and_eq_right_iff_imp]

theorem and_eq_zero_iff_lanes (act k : Mask) :
    k &&& act = 0 ↔ ¬ ∃ l, l < 32 ∧ act.getLsbD l = true ∧ k.getLsbD l = true := by
  rw [BitVec.eq_of_getLsbD_eq_iff]
  simp only [BitVec.getLsbD_and, BitVec.ofNat_eq_ofNat, BitVec.getLsbD_zero, Bool.and_eq_false_iff]
  grind

/-- A vote over the active lanes (R165): `.all`, `.any`, and `.uni` for every other MOD. -/
theorem voteHolds_iff (m : BitVec 5) (act k : Mask) : voteHolds m.toNat act k = true ↔
    (m = 0 ∧ k &&& act = act) ∨ (m = 1 ∧ k &&& act ≠ 0) ∨ (m ≠ 0 ∧ m ≠ 1 ∧ (k &&& act = act ∨ k &&& act = 0)) := by
  have at0 : m = 0 ↔ m.toNat = 0 := BitVec.toNat_inj.symm
  have at1 : m = 1 ↔ m.toNat = 1 := BitVec.toNat_inj.symm
  rw [ne_eq m, ne_eq m, at0, at1]
  generalize m.toNat = n
  match n with
  | 0 => simp [voteHolds]
  | 1 => simp [voteHolds]
  | _ + 2 => simp [voteHolds]

/-! ## Comparisons (R162, R185) -/

theorem intCond_eq (c : Nat) (a b : Int) : intCond c a b =
    if c = 0 then decide (a = b) else if c = 1 then decide (a ≠ b) else if c = 2 then decide (a < b)
    else if c = 3 then decide (a ≤ b) else if c = 4 then decide (a > b) else decide (a ≥ b) := by
  match c with
  | 0 | 2 | 3 | 4 | _ + 5 => rfl
  | 1 => exact (decide_not).symm

/-- Bit 1 of a type selects 64 bits (R171), as PCMP reads it. -/
theorem typeWidth_eq (m : Nat) : typeWidth m = if 2 ≤ m % 4 then 64 else 32 := by
  have bit : m / 2 % 2 = 1 ↔ 2 ≤ m % 4 := by omega
  simp only [typeWidth, bit]

theorem cmpLanes_eq_pcmpLanes (i : Iss) (s : State) : cmpLanes i s = pcmpLanes i s := by
  simp only [cmpLanes, typeWidth_eq]
  rfl

theorem Vec.of_congr {g h : Nat → Lane} (e : ∀ l, l < 32 → g l = h l) : Vec.of g = Vec.of h :=
  List.map_congr_left fun l hl => e l (List.mem_range.mp hl)

/-! ## The SOFT trap and the debug stop (R170) -/

theorem State.dropProbes_sameWaves (s : State) (t w core : Nat) : s.SameWaves (s.dropProbes t w core) := by
  unfold State.dropProbes
  split
  · exact .refl s
  · exact .modCore _ _ _

/-- The wave after a SOFT trap that it takes while it is not trapped: the instruction counts as retired, and the trap is entered. -/
theorem State.conclude_soft_wave {s : State} {i : Iss} {t : Trap} (hc : t.cls = .soft) (hw : s.wave? i.tid i.wid = some i.wave)
    (hn : i.wave.trapped = false) : ∃ hz tsc now cycle w, (s.conclude i (.trap t)).wave? i.tid i.wid = some w ∧
      (({ i.wave with hazards := hz } : Wave).trapEntry i (s.part i.launch.part).hbase tsc now cycle t).SameButWaits w := by
  have same := (s.dropProbes_sameWaves i.tid i.wid i.team.core).trans (State.popSources_sameWaves _ i)
  have hends : s.conclude i (.trap t) = i.ends (((((s.dropProbes i.tid i.wid i.team.core).popSources i).modWave i.tid i.wid fun w =>
      { w with hazards := agedHazards w.hazards i.lanes (Nat.max 1 i.f.stall.toNat) }).takeTrap i t)) := by
    simp only [State.conclude, if_pos hc, Iss.ends]
  generalize (s.dropProbes i.tid i.wid i.team.core).popSources i = u at same hends
  have hpart : (u.modWave i.tid i.wid fun w =>
      { w with hazards := agedHazards w.hazards i.lanes (Nat.max 1 i.f.stall.toNat) }).part i.launch.part = s.part i.launch.part :=
    State.part_congr _ _ ((State.modWave_parts ..).trans same.rest.parts) _
  rw [hends, State.takeTrap, if_neg (by rw [hn]; exact Bool.false_ne_true), hpart]
  obtain ⟨w, hw', hs⟩ := i.ends_wave (State.wave?_modWave_same .. |>.trans
    (congrArg _ ((State.wave?_modWave_same ..).trans (congrArg _ ((same.waves _ _).trans hw)))))
  exact ⟨_, _, _, _, w, hw', hs⟩

/-- A halt sets the partition's halt bits (R410), and leaves the waves. -/
theorem State.setHalt_dbghalt (s : State) (p : Nat) (v : BitVec 24) : ((s.setHalt p v).part p).dbghalt = v := by
  simp only [State.setHalt, State.modPart, State.part, AMap.getD_set_same]

theorem State.setHalt_wave? (s : State) (p : Nat) (v : BitVec 24) (t w : Nat) : (s.setHalt p v).wave? t w = s.wave? t w := rfl

/-- What a SOFT trap leaves of the subset's wave (R170, R384, R386, R387). -/
def Iss.TookSoft (i : Iss) (hbase detail : W64) (w : Wave) : Prop :=
  w.trapped = true ∧ w.tmask = i.lanes ∧ w.side.cls = 5 ∧ w.side.active = i.act ∧ w.side.pc = i.pc ∧ w.side.detail = detail ∧
    w.vregs = i.wave.vregs ∧ ∀ l, l < 32 → i.lanes.getLsbD l = true →
      w.rpc.getD l 0 = i.pc + i.len ∧ w.pcs.getD l 0 = hbase + 0x500

theorem softTrap_taken {s : State} {i : Iss} (brk : Bool) (hw : s.wave? i.tid i.wid = some i.wave) (hn : i.wave.trapped = false) :
    ∃ w, (s.conclude i (.trap (softTrap i s brk))).wave? i.tid i.wid = some w ∧
      i.TookSoft (s.part i.launch.part).hbase (softTrap i s brk).detail w := by
  obtain ⟨hz, tsc, now, cycle, w, hw', hs⟩ := State.conclude_soft_wave (t := softTrap i s brk) rfl hw hn
  refine ⟨w, hw', ?_⟩
  unfold Wave.SameButWaits at hs
  rw [hs]
  have entered (old : List W64) (x : W64) {l : Nat} (hl : l < 32) (hm : i.lanes.getLsbD l = true) :
      (mergeLanes i.lanes old 0 fun _ => x).getD l 0 = x := (mergeLanes_getD _ _ _ _ _ _ hl).trans (if_pos hm)
  exact ⟨rfl, rfl, rfl, rfl, rfl, rfl, rfl, fun l hl hm => ⟨entered _ _ hl hm, entered _ _ hl hm⟩⟩

end Sys2Proof.Machine
end

section
/-! PROOFS. Control instructions, predicates and comparisons (R154-R160, R162-R165, R170, R185, R410). -/

namespace Sys2Proof.Machine

/-- Settles O15: aligned targets are an outcome of `indirect`, misaligned ones its trap. -/
theorem branchesSetTheNextPc : Obligations.BranchesSetTheNextPc := by
  refine ⟨fun f s i => ⟨fun h => ?_, fun h ha => ?_, fun h => ?_, fun h ha => ?_, fun h ha => ?_⟩,
    fun f s i hb => ⟨fun h => ?_, fun h => ?_, fun h => ?_⟩⟩
  · obtain rfl := h.form
    show execBra i.f s = _
    exact issueFixed_ok h rfl
  · exact issueFixed_ok h (indirect_aligned [] ha)
  · obtain rfl := h.form
    show execCall i.f s = _
    exact issueFixed_ok h rfl
  · exact issueFixed_ok h (indirect_aligned _ ha)
  · exact issueFixed_ok h (indirect_aligned [] ha)
  · exact issueFixed_traps h (indirect_misaligned [] rfl hb) nofun
  · exact issueFixed_traps h (indirect_misaligned _ rfl hb) nofun
  · exact issueFixed_traps h (indirect_misaligned [] rfl hb) nofun

/-- Settles O16: each meaning, on the branch that the clause names. -/
theorem threadsEndAndWait : Obligations.ThreadsEndAndWait := by
  refine ⟨fun f s i => ⟨fun h => ?_, fun h hc => ?_, fun n h hd => ?_, fun n h hj hm => ?_, fun h hp => ?_, fun h hp => ?_, fun h => ?_⟩,
    fun f s i n h hj hm => ?_⟩
  · show execNop f s = _
    exact issueFixed_ok h rfl
  · obtain ⟨t, ns, now, cycle, ht, hw⟩ := exit_wave h hc
    exact ⟨t, _, ht, hw, fun l hl => i.wave.exitLanes_issued_threads i now cycle hl⟩
  · obtain rfl := h.form
    show execJenrol i.f s = _
    exact issueFixed_ok h (by rw [hd]; rfl)
  · obtain rfl := h.form
    exact issue_done h (if_pos ((Wave.joined_iff ..).mpr (by rw [hj]; exact hm)))
  · exact issue_done h (if_neg (by rw [hp]; exact Bool.false_ne_true))
  · exact issue_done h (if_pos hp)
  · exact issue_done h rfl
  · obtain rfl := h.form
    refine (issue_of_executes h _).trans ?_
    rw [if_neg fun hjoin => hm (by rw [hj] at hjoin; exact (Wave.joined_iff ..).mp hjoin)]
    rfl

/-- Settles O17: the case lists of the model by MOD, and votes lane by lane. -/
theorem predicateAndComparisonResults : Obligations.PredicateAndComparisonResults := by
  refine ⟨fun f s i d x y h hd ha hb => ?_, fun f s i h => ?_, fun f s i => ⟨fun d x v h hd ha => ?_, fun x h ha => ?_⟩,
    fun f s i => ⟨fun d h hd => ?_, fun h => ?_⟩⟩
  · obtain rfl := h.form
    show execPlog i.f s = _
    exact issueFixed_ok h (by rw [plogMask_eq, hd, ha, hb]; rfl)
  · obtain rfl := h.form
    refine ⟨fun d a hm hd ha => (issueFixed_ok h ?_ : execPmov i.f s = _), fun a hm ha => (issueFixed_ok h ?_ : execPmov i.f s = _),
      fun d hm hd => (issueFixed_ok h ?_ : execPmov i.f s = _), fun d hm hd => (issueFixed_ok h ?_ : execPmov i.f s = _),
      fun d hm hd => (issueFixed_ok h ?_ : execPmov i.f s = _)⟩
    · rw [hm, hd, ha]; rfl
    · rw [hm, ha]; rfl
    · rw [hm, hd]; rfl
    · rw [hm, hd]; rfl
    · rw [hm, hd]; rfl
  · obtain rfl := h.form
    intro k all any hv
    have vote : voteHolds i.f.mod.toNat i.act k = v := by
      rw [Bool.eq_iff_iff, hv, voteHolds_iff, ne_eq (k &&& i.act), and_eq_right_iff_lanes, and_eq_zero_iff_lanes, Classical.not_not]
    show execPvote i.f s = _
    exact issueFixed_ok h (by rw [hd, ha, ← vote]; rfl)
  · obtain rfl := h.form
    show execBallot i.f s = _
    exact issueFixed_ok h (by rw [ha]; rfl)
  · obtain rfl := h.form
    show execPcmp i.f s = _
    refine issueFixed_ok h ?_
    simp only [hd, pcmpLanes, intCond_eq]
    rfl
  · obtain rfl := h.form
    show execIcmp i.f s = _
    refine issueFixed_ok h (congrArg (fun v : Vec => (.ok { vecs := [v] } : Except Trap Out)) (Vec.of_congr fun l hl => ?_))
    rw [cmpLanes_eq_pcmpLanes, pcmpLanes, laneMask_getLsbD _ hl, intCond_eq]
    rfl

/-- Settles O18: the trap is `softTrap`; under debug break the meaning changes the halt bits and one wave. -/
theorem softTrapsAndBreakpoints : Obligations.SoftTrapsAndBreakpoints := by
  refine ⟨fun f s i hn => ⟨fun h => ?_, fun h hd => ?_⟩, fun f s i h hd => ?_⟩
  · exact ⟨_, issue_trap h rfl, softTrap_taken false h.wave hn⟩
  · exact ⟨_, issue_trap h (if_neg (by rw [hd]; exact Bool.false_ne_true)), softTrap_taken true h.wave hn⟩
  · have popped := ((s.popSources_sameWaves i).waves i.tid i.wid).trans h.wave
    obtain ⟨w, hw, hs⟩ := i.ends_wave ((State.wave?_modWave_same ..).trans
      (congrArg _ ((State.setHalt_wave? (s.popSources i) i.launch.part _ i.tid i.wid).trans popped)))
    refine ⟨_, w, issue_done h (if_pos hd), hw, congrArg (·.brkStop) hs, congrArg (·.side.cls) hs, congrArg (·.side.detail) hs,
      congrArg (·.pcs) hs, ?_⟩
    rw [State.part_congr _ _ ((i.ends_sameRest _).parts.trans (State.modWave_parts ..)), State.setHalt_dbghalt]

end Sys2Proof.Machine
end

section
/-! SUPPORT. Results of integer instructions as vectors (R171-R173), and what arithmetic, division, sums, moves, lane exchange and special
registers give in a lane (R175-R178, R186-R190). -/

namespace Sys2Proof.Machine

/-! ## Retirement with result vectors -/

section
variable {opc : Nat} {f : Form} {s : State} {i : Iss}

theorem issueFixed_vecs {body : Iss → Except Trap Out} {us vs : List Vec} (h : Executes opc f s i)
    (hb : body i = .ok { vecs := us }) (e : us = vs) : issueFixed opc f s body = .next (i.retires s { vecs := vs }) :=
  issueFixed_ok h (hb.trans (by rw [e]))

/-- A result of one vector tagged B32, known lane by lane. -/
theorem issueFixed_lanes {body : Iss → Except Trap Out} {x y : Nat → W32} (h : Executes opc f s i)
    (hb : body i = .ok { vecs := [Vec.of fun l => ⟨x l, 0⟩] }) (e : ∀ l, l < 32 → x l = y l) :
    issueFixed opc f s body = .next (i.retires s { vecs := [Vec.of fun l => ⟨y l, 0⟩] }) :=
  issueFixed_vecs h hb (by rw [Vec.of_congr fun l hl => by rw [e l hl]])
end

theorem typeWidth_cases (m : Nat) : typeWidth m = 32 ∨ typeWidth m = 64 := by
  unfold typeWidth
  split
  · exact .inr rfl
  · exact .inl rfl

theorem laneMask_congr {p q : Nat → Bool} (e : ∀ l, l < 32 → p l = q l) : laneMask p = laneMask q :=
  BitVec.eq_of_getLsbD_eq fun l hl => by rw [laneMask_getLsbD p hl, laneMask_getLsbD q hl, e l hl]

@[simp] theorem laneNat_32 (vs : List Vec) (l : Nat) : laneNat 32 vs l = (lane32 vs l).toNat := rfl

@[simp] theorem laneNat_64 (vs : List Vec) (l : Nat) : laneNat 64 vs l = (lane64 vs l).toNat := rfl

theorem b32Vecs_32 (g : Nat → Int) : b32Vecs 32 g = [Vec.of fun l => ⟨BitVec.ofInt 32 (g l), 0⟩] := rfl

theorem b32Vecs_64 (g : Nat → Int) : b32Vecs 64 g =
    [Vec.of fun l => ⟨(BitVec.ofInt 64 (g l)).setWidth 32, 0⟩, Vec.of fun l => ⟨(BitVec.ofInt 64 (g l)).extractLsb' 32 32, 0⟩] := rfl

theorem b32Vecs_pair (d : Nat → W64) : b32Vecs 64 (fun l => ((d l).toNat : Int)) =
    [Vec.of fun l => ⟨(d l).setWidth 32, 0⟩, Vec.of fun l => ⟨(d l).extractLsb' 32 32, 0⟩] := by
  simp only [b32Vecs_64, BitVec.ofInt_natCast, BitVec.ofNat_toNat, BitVec.setWidth_eq]

/-- Only the low w bits of each lane count. -/
theorem b32Vecs_congr {w : Nat} {g h : Nat → Int} (hw : w = 32 ∨ w = 64)
    (e : ∀ l, l < 32 → BitVec.ofInt w (g l) = BitVec.ofInt w (h l)) : b32Vecs w g = b32Vecs w h := by
  rcases hw with rfl | rfl
  · rw [b32Vecs_32, b32Vecs_32, Vec.of_congr fun l hl => by rw [e l hl]]
  · rw [b32Vecs_64, b32Vecs_64, Vec.of_congr fun l hl => by rw [e l hl],
      Vec.of_congr (g := fun l => ⟨(BitVec.ofInt 64 (g l)).extractLsb' 32 32, 0⟩) fun l hl => by rw [e l hl]]

/-- A pair of numbers given by bits; of 32-bit numbers the low half is written. -/
theorem b32Vecs_of_bits {w : Nat} {x : Nat → Nat} {d : Nat → W64} (hw : w = 32 ∨ w = 64)
    (e : ∀ l k, l < 32 → k < w → (d l).getLsbD k = (x l).testBit k) :
    b32Vecs w (fun l => (x l : Int)) =
      if w = 64 then [Vec.of fun l => ⟨(d l).setWidth 32, 0⟩, Vec.of fun l => ⟨(d l).extractLsb' 32 32, 0⟩]
      else [Vec.of fun l => ⟨(d l).setWidth 32, 0⟩] := by
  rcases hw with rfl | rfl
  · rw [if_neg (by decide), b32Vecs_32, Vec.of_congr fun l hl => congrArg (Lane.mk · 0) (BitVec.eq_of_getLsbD_eq fun k hk => ?_)]
    rw [BitVec.ofInt_natCast, BitVec.getLsbD_ofNat, BitVec.getLsbD_setWidth, e l k hl hk]
  · rw [if_pos rfl, ← b32Vecs_pair]
    refine b32Vecs_congr (.inr rfl) fun l hl => BitVec.eq_of_getLsbD_eq fun k hk => ?_
    rw [BitVec.ofInt_natCast, BitVec.getLsbD_ofNat, BitVec.ofInt_natCast, BitVec.ofNat_toNat, BitVec.setWidth_eq, e l k hl hk,
      decide_eq_true hk, Bool.true_and]

theorem laneNat_testBit (w : Nat) (vs : List Vec) (l k : Nat) :
    (laneNat w vs l).testBit k = if w = 64 then (lane64 vs l).getLsbD k else (lane32 vs l).getLsbD k := by
  unfold laneNat
  split <;> rw [BitVec.testBit_toNat]

theorem laneNat_lt {w : Nat} (hw : w = 32 ∨ w = 64) (vs : List Vec) (l : Nat) : laneNat w vs l < 2 ^ w := by
  rcases hw with rfl | rfl
  · exact BitVec.isLt _
  · exact BitVec.isLt _

/-! ## Arithmetic and carries (R175, R176) -/

section
variable {opc : Nat} {f : Form} {s : State} {i : Iss}

/-- The instructions of R175 differ in the exact result alone. -/
theorem arith_retires (h : Executes opc f s i) :
    let w : Nat := if 2 ≤ f.mod.toNat % 4 then 64 else 32
    let signed : Bool := decide (f.mod.toNat % 2 = 0)
    issueFixed opc f s (fun i => .ok (arithOut i s)) = .next (i.retires s
      { vecs := b32Vecs w fun l =>
          let x := arith175 opc w (laneInt w signed (i.srcA s) l) (laneInt w signed (i.srcB s) l) (laneInt w signed (i.srcC s) l)
          if 4 ≤ f.mod.toNat then satInt w signed x else x }) := by
  obtain rfl := h.form
  refine issueFixed_ok h ?_
  simp only [arithOut, typeWidth_eq, h.opcode]
  rfl
end

theorem addcLane_eq (sub : Bool) (a b : W32) (carry : Bool) :
    addcLane sub a b carry = a.toNat + (if sub then ~~~b else b).toNat + if carry then 1 else 0 := by
  cases carry <;> rfl

/-- The carry of a sum is 0 or 1. -/
theorem addcLane_div (sub : Bool) (a b : W32) (carry : Bool) :
    2 ^ 32 ≤ addcLane sub a b carry ↔ addcLane sub a b carry / 2 ^ 32 = 1 := by
  have ha := a.isLt
  have hb := (if sub then ~~~b else b).isLt
  have hc := carry.toNat_lt
  unfold addcLane
  omega

theorem iaddc_retires {f : Form} {s : State} {i : Iss} {k : BitVec 8} (h : Executes 0x082 f s i) (hk : f.c = .k k) :
    let sum (l : Nat) : Nat := (lane32 (i.srcA s) l).toNat +
      (if f.mod = 5 then ~~~(lane32 (i.srcB s) l) else lane32 (i.srcB s) l).toNat +
      (if (i.readPred s k.toNat).getLsbD l then 1 else 0)
    exec (.iaddc f) s = .next (i.retires s
      { vecs := [Vec.of fun l => ⟨BitVec.ofNat 32 (sum l % 2 ^ 32), 0⟩]
        pred := some (k.toNat, laneMask fun l => decide (sum l / 2 ^ 32 = 1)) }) := by
  obtain rfl := h.form
  intro sum
  have at5 : i.f.mod.toNat = 5 ↔ i.f.mod = 5 := BitVec.toNat_inj (y := 5)
  have lane (l : Nat) : addcLane (decide (i.f.mod.toNat = 5)) (lane32 (i.srcA s) l) (lane32 (i.srcB s) l)
      ((i.readPred s k.toNat).getLsbD l) = sum l := by
    simp only [addcLane_eq, decide_eq_true_eq, at5]
    rfl
  have carry (l : Nat) : 2 ^ 32 ≤ sum l ↔ sum l / 2 ^ 32 = 1 := by
    rw [← lane, addcLane_div]
  have low (l : Nat) : BitVec.ofNat 32 (sum l) = BitVec.ofNat 32 (sum l % 2 ^ 32) := BitVec.eq_of_toNat_eq (Nat.mod_mod ..).symm
  show execIaddc i.f s = _
  refine issueFixed_ok h (congrArg _ ?_)
  simp only [hk, predIx, lane, carry, low]

/-! ## Division (R177) -/

section
variable {w : Nat} (signed : Bool) (a b : Int)

/-- The quotient that overflows has the low bits of the dividend. -/
theorem idivLane_quotient (hw : w = 32 ∨ w = 64) :
    BitVec.ofInt w (idivLane w signed a b).1 = BitVec.ofInt w (if b = 0 then -1 else a.tdiv b) := by
  unfold idivLane
  split
  · rfl
  · split
    next hs =>
      simp only [Bool.and_eq_true, beq_iff_eq] at hs
      obtain ⟨⟨-, rfl⟩, rfl⟩ := hs
      rcases hw with rfl | rfl <;> decide
    · rfl

theorem idivLane_remainder : (idivLane w signed a b).2 = if b = 0 then a else a - a.tdiv b * b := by
  unfold idivLane
  split
  · rfl
  · split
    next hs =>
      simp only [Bool.and_eq_true, beq_iff_eq] at hs
      rw [hs.2, Int.tdiv_neg, Int.tdiv_one]
      omega
    · rw [Int.tmod_def, Int.mul_comm]
end

section
variable (i : Iss) (s : State)

theorem idivVecs_eq :
    let w : Nat := if i.f.mod.toNat / 2 % 2 = 1 then 64 else 32
    let signed : Bool := decide (i.f.mod.toNat % 2 = 0)
    let a (l : Nat) : Int := laneInt w signed (i.srcA s) l
    let b (l : Nat) : Int := laneInt w signed (i.srcB s) l
    let q (l : Nat) : Int := if b l = 0 then -1 else (a l).tdiv (b l)
    let r (l : Nat) : Int := if b l = 0 then a l else a l - (a l).tdiv (b l) * b l
    let rem : Bool := decide (i.f.mod.toNat / 4 % 2 = 1)
    idivVecs i s = b32Vecs w fun l => if rem then r l else q l := by
  refine b32Vecs_congr (typeWidth_cases i.f.mod.toNat) fun l _ => ?_
  dsimp only
  simp only [decide_eq_true_eq]
  split
  · rw [idivLane_remainder]; rfl
  · rw [idivLane_quotient _ _ _ (typeWidth_cases _)]; rfl

theorem idivZero_eq_zero : idivZero i s = 0 ↔
    ∀ l, l < 32 → i.act.getLsbD l = true → laneNat (if i.f.mod.toNat / 2 % 2 = 1 then 64 else 32) (i.srcB s) l ≠ 0 := by
  refine (laneMask_eq_zero _).trans (forall₂_congr fun l _ => ?_)
  rw [Bool.and_eq_false_imp, beq_eq_false_iff_ne]
  rfl
end

/-- A vector whose tags are none of the reserved ones is written as it is (R204). -/
theorem Vec.of_legal {g : Nat → Lane} (h : ∀ l, l < 32 → (g l).tag.toNat < 13) : (Vec.of g).legal = Vec.of g := by
  refine if_pos (List.all_eq_true.mpr fun l hl => ?_)
  have hl := List.mem_range.mp hl
  have lane : (Vec.of g).tagAt l = (g l).tag := by simp [Vec.tagAt, Vec.of, lanes32, List.getD_eq_getElem?_getD, hl]
  rw [lane]
  exact decide_eq_true (h l hl)

theorem b32Vecs_legal (w : Nat) (g : Nat → Int) : ∀ v ∈ b32Vecs w g, v.legal = v := by
  intro v hv
  unfold b32Vecs at hv
  split at hv
  · simp only [List.mem_cons, List.not_mem_nil, or_false] at hv
    rcases hv with rfl | rfl <;> exact Vec.of_legal fun _ _ => (by decide : (0 : BitVec 4).toNat < 13)
  · rw [List.mem_singleton.mp hv]
    exact Vec.of_legal fun _ _ => (by decide : (0 : BitVec 4).toNat < 13)

theorem getD_mem_of_lt {α : Type} {l : List α} {k : Nat} {d : α} (h : k < l.length) : l.getD k d ∈ l := by
  rw [List.getD_eq_getElem?_getD, List.getElem?_eq_getElem h, Option.getD_some]
  exact List.getElem_mem h

section
variable {s : State} {i : Iss} {wv : Wave}

/-- The wave after an operation of class V has begun. -/
theorem State.startOp_wave (o : Op) (h : s.wave? i.tid i.wid = some wv) :
    ∃ w, (s.startOp i o).wave? i.tid i.wid = some w ∧ w.ops = wv.ops ++ [o] := by
  have joined := (State.wave?_modWave_same { s with nextOp := s.nextOp + 1 } i.tid i.wid fun w => { w with ops := w.ops ++ [o] }).trans
    (congrArg _ h)
  exact ⟨_, State.issuedNext_wave [] joined, rfl⟩

/-- The wave after a class V instruction has written its destination at once (R144). -/
theorem State.writeDst_issuedNext_wave (vs : List Vec) (given : List Nat) (h : s.wave? i.tid i.wid = some wv) :
    ∃ w, ((s.writeDst i vs given).issuedNext i []).wave? i.tid i.wid = some w ∧ w.ops = wv.ops ∧
      w.vregs = wv.setRegs (s.dstWrites i wv vs) ∧ ∀ l, l < 32 → i.lanes.getLsbD l = true → w.pcs.getD l 0 = i.pc + i.len := by
  obtain ⟨-, w, hw, hregs⟩ := State.writeDst_wave vs given h
  unfold Wave.RegsOnly at hregs
  refine ⟨_, State.issuedNext_wave [] hw, ?_, ?_, fun l hl hm => ?_⟩
  · rw [hregs]; rfl
  · rw [hregs]; rfl
  · have next := mergeLanes_getD i.lanes w.pcs 0 0 (fun _ => i.pc + i.len) l hl
    rwa [if_pos hm] at next
end

section
variable {f : Form} {s : State} {i : Iss}

/-- IDIV without a held result: its operation starts (R112). -/
theorem idiv_starts (h : Executes 0x0B2 f s i) (goes : ¬ (i.f.mod.toNat < 8 ∧ idivZero i s ≠ 0))
    (miss : (s.reuseLookup i s.nextOp).2 = none) :
    exec (.idiv f) s = .next (i.ends ((s.reuseLookup i s.nextOp).1.startOp i (i.resultOp s (idivVecs i s)))) :=
  issue_done h ((if_neg goes).trans (by dsimp only; rw [miss]))

/-- IDIV with a held result: it is written at once (R144). -/
theorem idiv_writes {e : ReuseEntry} (h : Executes 0x0B2 f s i) (goes : ¬ (i.f.mod.toNat < 8 ∧ idivZero i s ≠ 0))
    (hit : (s.reuseLookup i s.nextOp).2 = some e) :
    exec (.idiv f) s = .next (i.ends (((s.reuseLookup i s.nextOp).1.writeDst i (idivVecs i s) (i.given (some e))).issuedNext i [])) :=
  issue_done h ((if_neg goes).trans (by dsimp only; rw [hit]))
end

/-! ## Sums over bytes and halves (R178) -/

theorem nbits_toNat (x : W32) (lo n : Nat) : nbits x.toNat lo n = (x.extractLsb' lo n).toNat := (BitVec.extractLsb'_toNat ..).symm

theorem sInt_nbits (x : W32) (lo n : Nat) : sInt n (nbits x.toNat lo n) = (x.extractLsb' lo n).toInt := by
  rw [nbits_toNat, sInt, BitVec.ofNat_toNat, BitVec.setWidth_eq]

theorem dot4Lane_eq (mod : Nat) (a b c : W32) :
    let kind := mod % 4
    let x (k : Nat) : Int := if kind = 1 then ((a.extractLsb' (8 * k) 8).toNat : Int) else (a.extractLsb' (8 * k) 8).toInt
    let y (k : Nat) : Int := if kind = 0 then (b.extractLsb' (8 * k) 8).toInt else ((b.extractLsb' (8 * k) 8).toNat : Int)
    let z : Int := if kind = 1 then (c.toNat : Int) else c.toInt
    let dot : Int := z + x 0 * y 0 + x 1 * y 1 + x 2 * y 2 + x 3 * y 3
    let lo : Int := if kind = 1 then 0 else -2147483648
    let hi : Int := if kind = 1 then 4294967295 else 2147483647
    dot4Lane mod a b c = if 4 ≤ mod then max lo (min hi dot) else dot := by
  intro kind x y z dot lo hi
  have sum : (List.range 4).foldl (fun (acc : Int) k => acc +
      (if kind != 1 then sInt 8 (nbits a.toNat (8 * k) 8) else (nbits a.toNat (8 * k) 8 : Int)) *
      (if kind == 0 then sInt 8 (nbits b.toNat (8 * k) 8) else (nbits b.toNat (8 * k) 8 : Int))) z = dot := by
    simp only [sInt_nbits]
    simp only [nbits_toNat, bne_iff_ne, beq_iff_eq, ite_not, ne_eq]
    rfl
  have clamp (t : Int) : satInt 32 (kind != 1) t = max lo (min hi t) := by
    by_cases hk : kind = 1
    · simp only [satInt, typeLo, typeHi, lo, hi, hk, bne_self_eq_false, if_true, Bool.false_eq_true, if_false]
      rfl
    · simp only [satInt, typeLo, typeHi, lo, hi, hk, bne_iff_ne, ne_eq, not_false_eq_true, if_true, if_false]
      rfl
  show (if mod ≥ 4 then satInt 32 (kind != 1) _ else _) = _
  rw [clamp]
  exact congrArg (fun t => if 4 ≤ mod then max lo (min hi t) else t) sum

theorem sadLane_eq (m : BitVec 5) (a b c : W32) :
    let db (k : Nat) : Nat := (((a.extractLsb' (8 * k) 8).toNat : Int) - ((b.extractLsb' (8 * k) 8).toNat : Int)).natAbs
    let dh (k : Nat) : Nat := (((a.extractLsb' (16 * k) 16).toNat : Int) - ((b.extractLsb' (16 * k) 16).toNat : Int)).natAbs
    sadLane m.toNat a b c = if m = 0 then c.toNat + db 0 + db 1 + db 2 + db 3 else c.toNat + dh 0 + dh 1 := by
  intro db dh
  have at0 : m.toNat = 0 ↔ m = 0 := BitVec.toNat_inj (y := 0)
  simp only [sadLane, at0]
  split <;> simp only [nbits_toNat] <;> rfl

/-! ## Moves and addresses (R186-R188) -/

theorem moviVecs_eq (m : BitVec 5) (e : W64) : moviVecs m.toNat e =
    if m = 10 then [Vec.splat ⟨e.setWidth 32, 10⟩, Vec.splat ⟨e.extractLsb' 32 32, 11⟩]
    else if m = 16 then [Vec.splat ⟨e.setWidth 32, 0⟩, Vec.splat ⟨e.extractLsb' 32 32, 0⟩]
    else [Vec.splat ⟨e.setWidth 32, m.setWidth 4⟩] := by
  have at10 : m.toNat = 10 ↔ m = 10 := BitVec.toNat_inj (y := 10)
  have at16 : m.toNat = 16 ↔ m = 16 := BitVec.toNat_inj (y := 16)
  simp only [moviVecs, at10, at16, BitVec.ofNat_toNat]

theorem leaLane_eq (mod : Nat) (a : W64) (b : W32) :
    leaLane mod a b = a + (if mod % 4 = 0 then b.signExtend 64 else b.setWidth 64) * BitVec.ofNat 64 (2 ^ (mod / 4)) := by
  rw [leaLane, BitVec.shiftLeft_eq_mul_twoPow]
  congr 2
  exact BitVec.eq_of_toNat_eq (by rw [BitVec.toNat_twoPow, BitVec.toNat_ofNat])

/-! ## Lane exchange and special registers (R189, R190) -/

section
variable {f : Form} {s : State} {i : Iss}

theorem exchangeOut_eq {k : BitVec 8} {g src : Nat → Nat} (hk : 4 ≤ i.f.mod.toNat → i.f.c = .k k) (e : ∀ l, l < 32 → g l = src l) :
    let a := vec1 (i.srcA s) 0
    exchangeOut i s g =
      { vecs := [Vec.of fun l => if i.act.getLsbD (src l) then a.lane (src l) else a.lane l]
        pred := if 4 ≤ i.f.mod.toNat then some (k.toNat, laneMask fun l => i.act.getLsbD (src l)) else none } := by
  intro a
  have lanes : Vec.of (fun l => if i.act.getLsbD (g l) then a.lane (g l) else a.lane l) =
      Vec.of fun l => if i.act.getLsbD (src l) then a.lane (src l) else a.lane l := Vec.of_congr fun l hl => by rw [e l hl]
  unfold exchangeOut
  dsimp only
  rw [lanes, laneMask_congr fun l hl => by rw [e l hl]]
  by_cases h4 : 4 ≤ i.f.mod.toNat
  · simp only [ge_iff_le, if_pos h4, hk h4]; rfl
  · simp only [ge_iff_le, if_neg h4]

theorem lxchSrc_eq {mode l n : Nat} (hm : mode < 4) : lxchSrc mode l n =
    if mode = 0 then n % 32 else if mode = 1 then (l + (32 - n % 32)) % 32 else if mode = 2 then (l + n) % 32 else l ^^^ (n % 32) := by
  match mode, hm with
  | 0, _ | 2, _ | 3, _ => rfl
  | 1, _ =>
    show (l + 32 - n % 32) % 32 = (l + (32 - n % 32)) % 32
    rw [Nat.add_sub_assoc (Nat.le_of_lt (Nat.mod_lt n (by decide)))]

/-- A special register of 32 bits. -/
theorem rds_one {m : BitVec 5} (h : Executes 0x0D0 f s i) (hn : 0 < m.toNat ∧ m.toNat < 19 := by decide) (hm : f.mod = m) :
    exec (.rds f) s = .next (i.retires s { vecs := [Vec.of fun _ => ⟨BitVec.ofNat 32 (rdsValue i s m.toNat), 0⟩] }) := by
  obtain rfl := h.form
  subst hm
  show execRds i.f s = _
  refine issueFixed_ok h (congrArg _ ?_)
  simp only [rdsOut, if_neg (Nat.ne_of_gt hn.1), ge_iff_le, if_neg (Nat.not_le.mpr hn.2), b32Vecs_32, BitVec.ofInt_natCast]

/-- A special register of 64 bits. -/
theorem rds_two {m : BitVec 5} {x : W64} (h : Executes 0x0D0 f s i) (hx : BitVec.ofNat 64 (rdsValue i s m.toNat) = x)
    (hn : 19 ≤ m.toNat := by decide) (hm : f.mod = m) :
    exec (.rds f) s = .next (i.retires s
      { vecs := [Vec.of fun _ => ⟨x.setWidth 32, 0⟩, Vec.of fun _ => ⟨x.extractLsb' 32 32, 0⟩] }) := by
  obtain rfl := h.form
  subst hm hx
  show execRds i.f s = _
  refine issueFixed_ok h (congrArg _ ?_)
  simp only [rdsOut, if_neg (show i.f.mod.toNat ≠ 0 by omega), ge_iff_le, if_pos hn, b32Vecs_64, BitVec.ofInt_natCast]

theorem rds_lane (h : Executes 0x0D0 f s i) (hm : f.mod = 0) :
    exec (.rds f) s = .next (i.retires s { vecs := [Vec.of fun l => ⟨BitVec.ofNat 32 l, 0⟩] }) := by
  obtain rfl := h.form
  show execRds i.f s = _
  refine issueFixed_ok h (congrArg _ ?_)
  simp only [rdsOut, hm, b32Vecs_32, BitVec.ofInt_natCast]
  rfl
end

end Sys2Proof.Machine
end

section
/-! SUPPORT. Results of bit instructions, bit by bit: shifts (R180), counts and reversal (R182), BLUT (R179), bit fields (R183), SHD (R181)
and BSHUF (R184). -/

namespace Sys2Proof.Machine

/-! ## Shifts and rotations (R180) -/

section
variable {w : Nat} (a : BitVec w) (n : Nat)

theorem shiftLane_shl : BitVec.ofInt w (shiftLane 0x090 w a.toNat n) = a <<< n := by
  show BitVec.ofInt w (if n < w then ((a.toNat * 2 ^ n % 2 ^ w : Nat) : Int) else 0) = _
  split
  next h =>
    rw [BitVec.ofInt_natCast]
    exact BitVec.eq_of_toNat_eq (by rw [BitVec.toNat_ofNat, Nat.mod_mod, BitVec.toNat_shiftLeft, Nat.shiftLeft_eq])
  next h => rw [BitVec.shiftLeft_eq_zero (by omega)]; rfl

theorem shiftLane_shr : BitVec.ofInt w (shiftLane 0x091 w a.toNat n) = a >>> n := by
  show BitVec.ofInt w (if n < w then ((a.toNat / 2 ^ n : Nat) : Int) else 0) = _
  split
  next h =>
    rw [BitVec.ofInt_natCast]
    refine BitVec.eq_of_toNat_eq ?_
    rw [BitVec.toNat_ushiftRight, Nat.shiftRight_eq_div_pow, BitVec.toNat_ofNat]
    exact Nat.mod_eq_of_lt (Nat.lt_of_le_of_lt (Nat.div_le_self _ _) a.isLt)
  next h => rw [BitVec.ushiftRight_eq_zero (by omega)]; rfl

/-- A number of w bits divided by 2^w or more, rounded down, is its sign. -/
theorem toInt_ediv_two_pow_of_le (h : w ≤ n) : a.toInt / 2 ^ n = if a.toInt < 0 then -1 else 0 := by
  have hi := a.toInt_lt
  have lo := a.le_toInt
  have hp : (2 : Int) ^ (w - 1) ≤ 2 ^ n := by
    exact_mod_cast Nat.pow_le_pow_right (n := 2) (by decide) (show w - 1 ≤ n by omega)
  split
  next hn => exact Int.ediv_eq_neg_one_of_neg_of_le hn (by omega)
  next hn => exact Int.ediv_eq_zero_of_lt (by omega) (by omega)

theorem shiftLane_shra : BitVec.ofInt w (shiftLane 0x092 w a.toNat n) = a.sshiftRight n := by
  have signed : sInt w a.toNat = a.toInt := by rw [sInt, BitVec.ofNat_toNat, BitVec.setWidth_eq]
  show BitVec.ofInt w (if n < w then sInt w a.toNat / 2 ^ n else if sInt w a.toNat < 0 then -1 else 0) = _
  rw [BitVec.sshiftRight_eq, Int.shiftRight_eq_div_pow, signed]
  push_cast
  split
  · rfl
  next h => rw [toInt_ediv_two_pow_of_le a n (by omega)]

/-- The bits that a left rotation pushes out at the top come back below. -/
theorem shiftLane_rot (hw : 0 < w) : BitVec.ofInt w (shiftLane 0x093 w a.toNat n) = a.rotateLeft n := by
  show BitVec.ofInt w (((a.toNat * 2 ^ (n % w) + a.toNat / 2 ^ (w - n % w)) % 2 ^ w : Nat) : Int) = _
  refine BitVec.eq_of_toNat_eq ?_
  rw [BitVec.ofInt_natCast, BitVec.toNat_ofNat, Nat.mod_mod, BitVec.toNat_rotateLeft, Nat.shiftLeft_eq, Nat.shiftRight_eq_div_pow]
  have hk : n % w ≤ w := Nat.le_of_lt (Nat.mod_lt n hw)
  generalize n % w = k at hk ⊢
  have split : 2 ^ w = 2 ^ k * 2 ^ (w - k) := by rw [← Nat.pow_add, Nat.add_sub_cancel' hk]
  have low : a.toNat / 2 ^ (w - k) < 2 ^ k := Nat.div_lt_of_lt_mul (by rw [Nat.mul_comm, ← split]; exact a.isLt)
  have high (x : Nat) (h : x < 2 ^ k) : (2 ^ k * a.toNat + x) % 2 ^ w = 2 ^ k * (a.toNat % 2 ^ (w - k)) + x := by
    rw [split, Nat.mod_mul, Nat.mul_add_mod, Nat.mod_eq_of_lt h, Nat.mul_add_div (Nat.two_pow_pos k), Nat.div_eq_of_lt h,
      Nat.add_zero, Nat.add_comm]
  rw [Nat.mul_comm a.toNat, high _ low, Nat.two_pow_add_eq_or_of_lt low, ← Nat.add_zero (2 ^ k * a.toNat),
    high 0 (Nat.two_pow_pos k), Nat.add_zero]
end

theorem shift_retires {opc : Nat} {f : Form} {s : State} {i : Iss} {g : Nat → W32} {h : Nat → W64} (he : Executes opc f s i)
    (narrow : ∀ l, BitVec.ofInt 32 (shiftLane opc 32 (lane32 (i.srcA s) l).toNat (lane32 (i.srcB s) l).toNat) = g l)
    (wide : ∀ l, BitVec.ofInt 64 (shiftLane opc 64 (lane64 (i.srcA s) l).toNat (lane32 (i.srcB s) l).toNat) = h l) :
    issueFixed opc f s (fun i => .ok (shiftOut i s)) = .next (i.retires s
      { vecs := if f.mod.toNat / 2 % 2 = 1 then
          [Vec.of fun l => ⟨(h l).setWidth 32, 0⟩, Vec.of fun l => ⟨(h l).extractLsb' 32 32, 0⟩]
        else [Vec.of fun l => ⟨g l, 0⟩] }) := by
  obtain rfl := he.form
  refine issueFixed_vecs he rfl ?_
  rw [he.opcode, typeWidth]
  split
  · simp only [b32Vecs_64, laneNat_64, wide]
  · simp only [b32Vecs_32, laneNat_32, narrow]

/-! ## Counts and reversals (R182) -/

theorem nbits_one_eq_one (x k : Nat) : nbits x k 1 = 1 ↔ x.testBit k = true := by
  rw [nbits, Nat.shiftRight_eq_div_pow, Nat.pow_one, Nat.testBit_eq_decide_div_mod_eq, decide_eq_true_iff]

theorem nbits_one (x k : Nat) : nbits x k 1 = (x.testBit k).toNat := by
  rw [nbits, Nat.shiftRight_eq_div_pow, Nat.pow_one, Nat.toNat_testBit]

theorem popcNat_eq {w a : Nat} {p : Nat → Bool} (h : ∀ k, k < w → a.testBit k = p k) : popcNat w a = ((List.range w).filter p).length := by
  unfold popcNat
  rw [List.filter_congr fun k hk => ?_]
  rw [← h k (List.mem_range.mp hk), Bool.eq_iff_iff, decide_eq_true_iff, nbits_one_eq_one]

theorem clzNat_eq {w a n : Nat} (ha : a < 2 ^ w) (hn : n ≤ w) (zeros : ∀ k, w - n ≤ k → k < w → a.testBit k = false)
    (next : n < w → a.testBit (w - 1 - n) = true) : clzNat w a = n := by
  unfold clzNat
  split
  next h0 =>
    subst h0
    rcases Nat.lt_or_eq_of_le hn with hlt | heq
    · have one := next hlt
      rw [Nat.zero_testBit] at one
      cases one
    · exact heq.symm
  next h0 =>
    have top := Nat.testBit_log2 h0
    have below : a.log2 < w := (Nat.log2_lt h0).mpr ha
    have above : a.log2 < w - n := by
      rcases Nat.lt_or_ge a.log2 (w - n) with hlt | hge
      · exact hlt
      · rw [zeros _ hge below] at top
        cases top
    have := (Nat.le_log2 h0).mpr (Nat.ge_two_pow_of_testBit (next (by omega)))
    omega

theorem brevNat_testBit (w a k : Nat) : (brevNat w a).testBit k = (decide (k < w) && a.testBit (w - 1 - k)) := by
  unfold brevNat
  induction w generalizing k with
  | zero => simp
  | succ w ih =>
    rw [List.range_succ, List.foldl_append, List.foldl_cons, List.foldl_nil, nbits_one]
    generalize (List.range w).foldl (fun acc k => 2 * acc + nbits a k 1) 0 = r at ih ⊢
    have bit := Nat.testBit_two_pow_mul_add (i := 1) r (Bool.toNat_lt (a.testBit w)) k
    rw [Nat.pow_one] at bit
    rw [bit]
    cases k with
    | zero =>
      show (a.testBit w).toNat.testBit 0 = (decide (0 < w + 1) && a.testBit w)
      rw [decide_eq_true (Nat.succ_pos w), Bool.true_and]
      cases a.testBit w <;> rfl
    | succ k =>
      rw [if_neg (by omega), Nat.add_sub_cancel, ih]
      congr 2
      · simp
      · omega

/-! ## BLUT (R179) -/

theorem blutLane_getLsbD (e : W64) (a b c : W32) {k : Nat} (hk : k < 32) :
    (blutLane (bits e 0 8) a b c).getLsbD k =
      e.getLsbD ((a.getLsbD k).toNat + 2 * (b.getLsbD k).toNat + 4 * (c.getLsbD k).toNat) := by
  have asMask : blutLane (bits e 0 8) a b c = laneMask fun k =>
      decide (nbits (bits e 0 8) ((a.getLsbD k).toNat + 2 * (b.getLsbD k).toNat + 4 * (c.getLsbD k).toNat) 1 = 1) := by
    simp only [blutLane, laneMask, decide_eq_true_eq]
  have ha := (a.getLsbD k).toNat_lt
  have hb := (b.getLsbD k).toNat_lt
  have hc := (c.getLsbD k).toNat_lt
  rw [asMask, laneMask_getLsbD _ hk, Bool.eq_iff_iff, decide_eq_true_iff, nbits_one_eq_one, bits, Nat.shiftRight_zero,
    Nat.testBit_mod_two_pow, BitVec.testBit_toNat, decide_eq_true (by omega), Bool.true_and]

/-! ## Bit fields (R183) -/

theorem two_pow_sub_two_pow {m n : Nat} (h : m ≤ n) : 2 ^ n - 2 ^ m = 2 ^ m * (2 ^ (n - m) - 1) := by
  rw [Nat.mul_sub, ← Nat.pow_add, Nat.add_sub_cancel' h, Nat.mul_one]

/-- A 32-bit value, continued above with the fill that BFE puts before it: zeros, or copies of its sign bit. -/
theorem signFill_testBit (signed : Bool) (a : W32) {j : Nat} (hj : j < 288) :
    (a.toNat + if signed && a.getLsbD 31 then 2 ^ 288 - 2 ^ 32 else 0).testBit j =
      if j < 32 then a.getLsbD j else signed && a.getLsbD 31 := by
  have fill : (if signed && a.getLsbD 31 then 2 ^ 288 - 2 ^ 32 else 0) =
      2 ^ 32 * if signed && a.getLsbD 31 then 2 ^ (288 - 32) - 1 else 0 := by
    split
    · rw [two_pow_sub_two_pow (m := 32) (n := 288) (by decide)]
    · rfl
  rw [fill, Nat.add_comm, Nat.testBit_two_pow_mul_add _ a.isLt, BitVec.testBit_toNat]
  split
  · rfl
  · split
    next hs => rw [Nat.testBit_two_pow_sub_one, hs, decide_eq_true (by omega)]
    next hs => rw [Nat.zero_testBit, Bool.eq_false_iff.mpr hs]

/-- A field of `len` bits continued with ones up to bit 32. -/
theorem extendOnes_testBit {x len k : Nat} (hx : x < 2 ^ len) (hlen : len ≤ 32) (hk : k < 32) :
    (x + (2 ^ 32 - 2 ^ len)).testBit k = if k < len then x.testBit k else true := by
  rw [two_pow_sub_two_pow hlen, Nat.add_comm, Nat.testBit_two_pow_mul_add _ hx, Nat.testBit_two_pow_sub_one]
  split
  · rfl
  · exact decide_eq_true (by omega)

/-- The bits of BFE, by the position that each comes from. -/
theorem bfeLane_testBit (signed : Bool) (a b : W32) {k : Nat} (hk : k < 32) :
    let pos := b.toNat % 256
    let len := Nat.min (b.toNat / 256 % 256) 32
    let src (j : Nat) : Bool := if j < 32 then a.getLsbD j else signed && a.getLsbD 31
    (bfeLane signed a b).testBit k = if len = 0 then false else if k < len then src (pos + k) else signed && src (pos + len - 1) := by
  intro pos len src
  have hpos : pos < 256 := Nat.mod_lt _ (by decide)
  have hlen : len ≤ 32 := Nat.min_le_right _ _
  obtain ⟨x, hx⟩ : ∃ x, x = (a.toNat + if signed && a.getLsbD 31 then 2 ^ 288 - 2 ^ 32 else 0) / 2 ^ pos % 2 ^ len := ⟨_, rfl⟩
  have lane : bfeLane signed a b = if len = 0 then 0
      else if signed && decide (nbits x (len - 1) 1 = 1) then x + (2 ^ 32 - 2 ^ len) else x := by rw [hx]; rfl
  have field (j : Nat) (hj : j < len) : x.testBit j = src (pos + j) := by
    rw [hx, Nat.testBit_mod_two_pow, Nat.testBit_div_two_pow, decide_eq_true hj, Bool.true_and, Nat.add_comm j,
      signFill_testBit signed a (by omega)]
  have bound : x < 2 ^ len := hx ▸ Nat.mod_lt _ (Nat.two_pow_pos len)
  rw [lane]
  clear_value pos len src
  split
  · exact Nat.zero_testBit k
  next h0 =>
    have top : decide (nbits x (len - 1) 1 = 1) = src (pos + len - 1) := by
      rw [Nat.add_sub_assoc (by omega), ← field (len - 1) (by omega), Bool.eq_iff_iff, decide_eq_true_iff, nbits_one_eq_one]
    rw [top]
    split
    next hs =>
      rw [extendOnes_testBit bound hlen hk, hs]
      split
      next hl => exact field k hl
      · rfl
    next hs =>
      split
      next hl => exact field k hl
      next hl => rw [Bool.eq_false_iff.mpr hs, Nat.testBit_lt_two_pow (Nat.lt_of_lt_of_le bound (Nat.pow_le_pow_right (by decide) (by omega)))]

/-- The bits of a mask cleared, and others put there. -/
theorem sub_and_add {w : Nat} {a m r : BitVec w} (h : r &&& ~~~m = 0) : a - (a &&& m) + r = (a &&& ~~~m) ||| r := by
  have parts : a = (a &&& ~~~m) + (a &&& m) := by
    rw [BitVec.add_eq_or_of_and_eq_zero]
    · ext k hk
      simp only [BitVec.getElem_or, BitVec.getElem_and, BitVec.getElem_not]
      cases a[k] <;> cases m[k] <;> rfl
    · ext k hk
      simp only [BitVec.getElem_and, BitVec.getElem_not, BitVec.getElem_zero]
      cases a[k] <;> cases m[k] <;> rfl
  have rest : a - (a &&& m) = a &&& ~~~m := (congrArg (· - (a &&& m)) parts).trans (BitVec.add_sub_cancel ..)
  rw [rest, BitVec.add_eq_or_of_and_eq_zero]
  rw [BitVec.and_assoc, BitVec.and_comm _ r, h]
  exact BitVec.and_zero

theorem getLsbD_ofNat_mul_two_pow (x pos : Nat) {k : Nat} (hk : k < 32) :
    (BitVec.ofNat 32 (x * 2 ^ pos)).getLsbD k = (decide (pos ≤ k) && x.testBit (k - pos)) := by
  rw [BitVec.getLsbD_ofNat, decide_eq_true hk, Bool.true_and, Nat.testBit_mul_two_pow]

/-- The bits of BFI: of source C inside the field, of source A outside it. -/
theorem bfiLane_getLsbD (a b c : W32) {k : Nat} (hk : k < 32) :
    let pos := b.toNat % 256
    let len := Nat.min (b.toNat / 256 % 256) 32
    (BitVec.ofNat 32 (bfiLane a b c)).getLsbD k = if pos ≤ k ∧ k < pos + len then c.getLsbD (k - pos) else a.getLsbD k := by
  intro pos len
  by_cases hp : pos < 32
  · let m : W32 := BitVec.ofNat 32 ((2 ^ len - 1) * 2 ^ pos)
    let r : W32 := BitVec.ofNat 32 (c.toNat % 2 ^ len * 2 ^ pos)
    have and_le : a &&& m ≤ a := BitVec.le_def.mpr (by rw [BitVec.toNat_and]; exact Nat.and_le_left)
    have lane : bfiLane a b c = (a - (a &&& m)).toNat + r.toNat := by
      rw [BitVec.toNat_sub_of_le and_le]
      exact if_neg (Nat.not_le.mpr hp)
    have mBit {j : Nat} (hj : j < 32) : m.getLsbD j = (decide (pos ≤ j) && decide (j - pos < len)) := by
      rw [getLsbD_ofNat_mul_two_pow _ _ hj, Nat.testBit_two_pow_sub_one]
    have rBit {j : Nat} (hj : j < 32) : r.getLsbD j = (m.getLsbD j && c.getLsbD (j - pos)) := by
      rw [getLsbD_ofNat_mul_two_pow _ _ hj, Nat.testBit_mod_two_pow, BitVec.testBit_toNat, mBit hj, Bool.and_assoc]
    have outside : r &&& ~~~m = 0 := BitVec.eq_of_getLsbD_eq fun j hj => by
      rw [BitVec.getLsbD_and, BitVec.getLsbD_not, rBit hj]
      cases m.getLsbD j <;> simp
    rw [lane, BitVec.ofNat_add, BitVec.ofNat_toNat, BitVec.ofNat_toNat, BitVec.setWidth_eq, BitVec.setWidth_eq, sub_and_add outside,
      BitVec.getLsbD_or, BitVec.getLsbD_and, BitVec.getLsbD_not, rBit hk, decide_eq_true hk, Bool.true_and, mBit hk]
    have inside : (decide (pos ≤ k) && decide (k - pos < len)) = decide (pos ≤ k ∧ k < pos + len) := by
      rw [← Bool.decide_and]
      exact decide_eq_decide.mpr (by omega)
    rw [inside]
    split
    next h => rw [decide_eq_true h, Bool.not_true, Bool.and_false, Bool.false_or, Bool.true_and]
    next h => rw [decide_eq_false h, Bool.not_false, Bool.and_true, Bool.false_and, Bool.or_false]
  · have lane : bfiLane a b c = a.toNat := if_pos (Nat.not_lt.mp hp)
    rw [lane, if_neg (by omega), BitVec.ofNat_toNat, BitVec.setWidth_eq]

/-! ## SHD (R181) -/

theorem append_toNat (hi lo : W32) : (hi ++ lo).toNat = hi.toNat * 2 ^ 32 + lo.toNat := by
  rw [BitVec.toNat_append, ← Nat.shiftLeft_add_eq_or_of_lt lo.isLt, Nat.shiftLeft_eq]

theorem shdLane_eq (mod : Nat) (a b c : W32) :
    let x : W64 := a ++ c
    let n : Nat := if 4 ≤ mod then Nat.min b.toNat 64 else b.toNat % 64
    BitVec.ofNat 32 (shdLane mod a b c) = if mod % 2 = 1 then (x >>> n).setWidth 32 else (x <<< n).extractLsb' 32 32 := by
  intro x n
  have hx : a.toNat * 2 ^ 32 + c.toNat = x.toNat := (append_toNat a c).symm
  have lane : shdLane mod a b c = if mod % 2 = 1 then x.toNat / 2 ^ n % 2 ^ 32 else x.toNat * 2 ^ n % 2 ^ 64 / 2 ^ 32 := by
    rw [← hx]; rfl
  rw [lane]
  split
  · exact BitVec.eq_of_toNat_eq (by rw [BitVec.toNat_ofNat, Nat.mod_mod, BitVec.toNat_setWidth, BitVec.toNat_ushiftRight, Nat.shiftRight_eq_div_pow])
  · exact BitVec.eq_of_toNat_eq (by
      rw [BitVec.toNat_ofNat, BitVec.extractLsb'_toNat, BitVec.toNat_shiftLeft, Nat.shiftRight_eq_div_pow, Nat.shiftLeft_eq])

/-! ## BSHUF (R184) -/

/-- The number whose bytes, least significant first, are f 0 to f (n − 1): the sum by which BSHUF joins its bytes. -/
def byteSum (f : Nat → Nat) (n : Nat) : Nat := (List.range n).foldl (fun acc k => acc + f k * 256 ^ k) 0

section
variable {f : Nat → Nat}

theorem byteSum_succ (n : Nat) : byteSum f (n + 1) = byteSum f n + f n * 256 ^ n := by
  rw [byteSum, List.range_succ, List.foldl_append]
  rfl

theorem byteSum_lt (hf : ∀ k, f k < 256) (n : Nat) : byteSum f n < 256 ^ n := by
  induction n with
  | zero => exact Nat.one_pos
  | succ n ih =>
    have := Nat.mul_le_mul_right (256 ^ n) (Nat.le_of_lt_succ (hf n))
    rw [byteSum_succ, Nat.pow_succ]
    omega

theorem byteSum_byte (hf : ∀ k, f k < 256) {k n : Nat} (hk : k < n) : byteSum f n / 256 ^ k % 256 = f k := by
  induction n with
  | zero => exact absurd hk (Nat.not_lt_zero k)
  | succ n ih =>
    rw [byteSum_succ]
    rcases Nat.lt_succ_iff_lt_or_eq.mp hk with hlt | rfl
    · have pow : 256 ^ n = 256 ^ k * (256 * 256 ^ (n - k - 1)) := by
        rw [← Nat.pow_succ', ← Nat.pow_add, show k + (n - k - 1 + 1) = n by omega]
      rw [pow, Nat.mul_left_comm (f n), Nat.mul_left_comm (f n) 256, Nat.add_mul_div_left _ _ (Nat.pow_pos (by decide)),
        Nat.add_mul_mod_self_left, ih hlt]
    · rw [Nat.add_mul_div_right _ _ (Nat.pow_pos (by decide)), Nat.div_eq_of_lt (byteSum_lt hf k), Nat.zero_add,
        Nat.mod_eq_of_lt (hf k)]

theorem extract_byteSum (hf : ∀ k, f k < 256) {k : Nat} (hk : k < 4) :
    (BitVec.ofNat 32 (byteSum f 4)).extractLsb' (8 * k) 8 = BitVec.ofNat 8 (f k) := by
  have bound : byteSum f 4 < 2 ^ 32 := byteSum_lt hf 4
  refine BitVec.eq_of_toNat_eq ?_
  rw [BitVec.extractLsb'_toNat, BitVec.toNat_ofNat, BitVec.toNat_ofNat, Nat.shiftRight_eq_div_pow,
    Nat.mod_eq_of_lt bound, Nat.pow_mul]
  exact (byteSum_byte hf hk).trans (Nat.mod_eq_of_lt (hf k)).symm
end

theorem eq_of_bytes {x y : W32} (h : ∀ k, k < 4 → x.extractLsb' (8 * k) 8 = y.extractLsb' (8 * k) 8) : x = y := by
  refine BitVec.eq_of_getLsbD_eq fun j hj => ?_
  have bit := congrArg (·.getLsbD (j % 8)) (h (j / 8) (by omega))
  simpa only [BitVec.getLsbD_extractLsb', Nat.div_add_mod, decide_eq_true (Nat.mod_lt j (by decide : 0 < 8)), Bool.true_and] using bit

theorem bshufByte_lt (a c : W32) (ctl : Nat) : bshufByte a c ctl < 256 := by
  unfold bshufByte
  dsimp only
  split
  · decide
  · split
    · split <;> decide
    · exact Nat.mod_lt _ (by decide)

theorem ofNat_bshufByte (a c : W32) (b k : Nat) :
    let p : W64 := c ++ a
    let ctl : Nat := b / 256 ^ k
    let byte : BitVec 8 := p.extractLsb' (8 * (ctl % 8)) 8
    BitVec.ofNat 8 (bshufByte a c (nbits b (8 * k) 8)) =
      if ctl / 16 % 2 = 1 then 0 else if ctl / 32 % 2 = 1 then (if byte.getLsbD 7 then 0xFF else 0) else byte := by
  intro p ctl byte
  have hp : a.toNat + c.toNat * 2 ^ 32 = p.toNat := by
    rw [append_toNat, Nat.add_comm]
  have hctl : nbits b (8 * k) 8 = ctl % 256 := by
    simp only [nbits, Nat.shiftRight_eq_div_pow, Nat.pow_mul, Nat.reducePow, ctl]
  have index : ctl % 256 % 8 = ctl % 8 := by omega
  have zero : nbits (ctl % 256) 4 1 = ctl / 16 % 2 := by rw [nbits, Nat.shiftRight_eq_div_pow]; omega
  have sign : nbits (ctl % 256) 5 1 = ctl / 32 % 2 := by rw [nbits, Nat.shiftRight_eq_div_pow]; omega
  have hbyte : nbits p.toNat (8 * (ctl % 8)) 8 = byte.toNat := (BitVec.extractLsb'_toNat ..).symm
  have high : byte.toNat ≥ 128 ↔ byte.getLsbD 7 = true := by
    rw [← BitVec.testBit_toNat, Nat.testBit_eq_decide_div_mod_eq, decide_eq_true_iff]
    have := byte.isLt
    omega
  unfold bshufByte
  simp only [hp, hctl, index, zero, sign, hbyte, high]
  split
  · rfl
  · split
    · split <;> rfl
    · exact BitVec.ofNat_toNat ..

theorem bshuf_lane {a b c d : W32} (h : ∀ k, k < 4 →
      let p : W64 := c ++ a
      let ctl : Nat := b.toNat / 256 ^ k
      let byte : BitVec 8 := p.extractLsb' (8 * (ctl % 8)) 8
      d.extractLsb' (8 * k) 8 = if ctl / 16 % 2 = 1 then 0 else if ctl / 32 % 2 = 1 then (if byte.getLsbD 7 then 0xFF else 0) else byte) :
    BitVec.ofNat 32 (byteSum (fun k => bshufByte a c (nbits b.toNat (8 * k) 8)) 4) = d :=
  eq_of_bytes fun k hk => by
    rw [extract_byteSum (fun k => bshufByte_lt a c _) hk, ofNat_bshufByte, h k hk]

end Sys2Proof.Machine
end

section
/-! PROOFS. Integer, address and lane instructions (R171-R190). -/

namespace Sys2Proof.Machine

/-- Settles O19: the eight instructions of R175 share one meaning; the carry of IADDC is 0 or 1. -/
theorem integerArithmeticResults : Obligations.IntegerArithmeticResults :=
  ⟨fun _ _ _ => ⟨arith_retires, arith_retires, arith_retires, arith_retires, arith_retires, arith_retires, arith_retires, arith_retires⟩,
    fun _ _ _ _ => iaddc_retires⟩

/-- Settles O20: shifts by their numbers, and every other result bit by bit. -/
theorem shiftAndBitResults : Obligations.ShiftAndBitResults := by
  refine ⟨fun f s i => ⟨fun h => ?_, fun h => ?_, fun h => ?_, fun h => ?_⟩,
    fun f s i n d => ⟨fun h hn => ?_, fun h hn => ?_, fun h hd => ?_⟩,
    fun f s i d => ⟨fun h hd => ?_, fun h hd => ?_, fun h hd => ?_, fun h hd => ?_⟩, fun f s i d h hd => ?_⟩
  · exact shift_retires h (fun l => shiftLane_shl _ _) fun l => shiftLane_shl _ _
  · exact shift_retires h (fun l => shiftLane_shr _ _) fun l => shiftLane_shr _ _
  · exact shift_retires h (fun l => shiftLane_shra _ _) fun l => shiftLane_shra _ _
  · exact shift_retires h (fun l => shiftLane_rot _ _ (by decide)) fun l => shiftLane_rot _ _ (by decide)
  · obtain rfl := h.form
    show execPopc i.f s = _
    refine issueFixed_lanes h rfl fun l hl => ?_
    rw [BitVec.ofInt_natCast, hn l hl, popcNat_eq fun k _ => laneNat_testBit _ _ l k]
    rfl
  · obtain rfl := h.form
    show execClz i.f s = _
    refine issueFixed_lanes h rfl fun l hl => ?_
    obtain ⟨le, zeros, next⟩ := hn l hl
    rw [BitVec.ofInt_natCast, clzNat_eq (laneNat_lt (typeWidth_cases _) _ l) le (fun k hk hw => (laneNat_testBit ..).trans (zeros k hk hw))
      fun hw => (laneNat_testBit ..).trans (next hw)]
  · obtain rfl := h.form
    show execBrev i.f s = _
    refine issueFixed_vecs h rfl (b32Vecs_of_bits (typeWidth_cases _) fun l k hl hk => ?_)
    rw [brevNat_testBit, decide_eq_true hk, Bool.true_and, laneNat_testBit]
    exact hd l k hl hk
  · obtain rfl := h.form
    show execBlut i.f s = _
    refine issueFixed_lanes h rfl fun l hl => BitVec.eq_of_getLsbD_eq fun k hk => ?_
    rw [blutLane_getLsbD _ _ _ _ hk, hd l k hl hk]
    simp only [Bool.toNat, Bool.cond_eq_ite]
  · obtain rfl := h.form
    have at0 : i.f.mod.toNat = 0 ↔ i.f.mod = 0 := BitVec.toNat_inj (y := 0)
    show execBfe i.f s = _
    refine issueFixed_lanes h rfl fun l hl => BitVec.eq_of_getLsbD_eq fun k hk => ?_
    rw [BitVec.getLsbD_ofNat, decide_eq_true hk, Bool.true_and, bfeLane_testBit _ _ _ hk, hd l k hl hk]
    simp only [at0]
  · obtain rfl := h.form
    show execBfi i.f s = _
    refine issueFixed_lanes h rfl fun l hl => BitVec.eq_of_getLsbD_eq fun k hk => ?_
    rw [bfiLane_getLsbD _ _ _ hk, hd l k hl hk]
  · obtain rfl := h.form
    show execShd i.f s = _
    exact issueFixed_lanes h rfl fun l hl => (shdLane_eq ..).trans (hd l hl).symm
  · obtain rfl := h.form
    show execBshuf i.f s = _
    exact issueFixed_lanes h rfl fun l hl => bshuf_lane fun k hk => hd l k hl hk

/-- Settles O21: values and tags as the model forms them; sums over bytes and halves written out. -/
theorem selectMoveAddressAndSumResults : Obligations.SelectMoveAddressAndSumResults := by
  refine ⟨fun f s i => ⟨fun k h hk => ?_, fun h => ?_, fun e h he => ?_, fun h => ?_, fun h => ?_⟩,
    fun f s i => ⟨fun h => ?_, fun h => ?_⟩⟩
  · obtain rfl := h.form
    show execIsel i.f s = _
    have at2 : i.f.mod.toNat = 2 ↔ i.f.mod = 2 := BitVec.toNat_inj (y := 2)
    refine issueFixed_vecs h rfl ?_
    simp only [hk, at2]
    split <;> rfl
  · obtain rfl := h.form
    show execMov i.f s = _
    have at2 : i.f.mod.toNat = 2 ↔ i.f.mod = 2 := BitVec.toNat_inj (y := 2)
    exact issueFixed_vecs h rfl (by simp only [at2])
  · obtain rfl := h.form
    show execMovi i.f s = _
    exact issueFixed_vecs h rfl (by rw [he, moviVecs_eq]; rfl)
  · obtain rfl := h.form
    show execLea i.f s = _
    exact issueFixed_vecs h rfl (by simp only [leaLane_eq, b32Vecs_pair])
  · obtain rfl := h.form
    show execIota i.f s = _
    exact issueFixed_lanes h rfl fun l _ => BitVec.eq_of_toNat_eq (by
      rw [BitVec.toNat_add, BitVec.toNat_ofNat, BitVec.toNat_ofNat, Nat.add_mod_mod, Nat.mod_mod])
  · obtain rfl := h.form
    show execDot4 i.f s = _
    exact issueFixed_lanes h rfl fun l _ => congrArg (BitVec.ofInt 32) (dot4Lane_eq ..)
  · obtain rfl := h.form
    show execSad i.f s = _
    exact issueFixed_lanes h rfl fun l _ => congrArg (BitVec.ofNat 32) (sadLane_eq ..)

/-- Settles O22: the zero divisors decide between the trap and the result, and the lookup when the result is written. -/
theorem integerDivision : Obligations.IntegerDivision := by
  refine ⟨fun f s i h => ?_, fun f s i h hm => ?_⟩
  · obtain rfl := h.form
    intro w signed a b q r rem vals nonzero
    have hvals : idivVecs i s = vals := idivVecs_eq i s
    have goes : ¬ (i.f.mod.toNat < 8 ∧ idivZero i s ≠ 0) := fun ⟨hm, hz⟩ =>
      hz ((idivZero_eq_zero i s).mpr (nonzero.resolve_left (Nat.not_le.mpr hm)))
    have looked := ((s.reuseLookup_sameWaves i s.nextOp).waves i.tid i.wid).trans h.wave
    refine ⟨fun miss => ?_, fun hit => ?_⟩
    · obtain ⟨w₁, hw₁, hops⟩ := State.startOp_wave (i.resultOp s (idivVecs i s)) looked
      obtain ⟨w₂, hw₂, hs⟩ := i.ends_wave hw₁
      unfold Wave.SameButWaits at hs
      refine ⟨_, w₂, i.resultOp s (idivVecs i s), idiv_starts h goes miss, hw₂, ?_, rfl, rfl, rfl, rfl, hvals⟩
      rw [hs, hops]
      exact List.mem_append_right _ List.mem_cons_self
    · obtain ⟨e, he⟩ := Option.ne_none_iff_exists'.mp hit
      obtain ⟨w₁, hw₁, hops, hregs, hpcs⟩ := State.writeDst_issuedNext_wave (idivVecs i s) (i.given (some e)) looked
      obtain ⟨w₂, hw₂, hs⟩ := i.ends_wave hw₁
      unfold Wave.SameButWaits at hs
      refine ⟨_, w₂, idiv_writes h goes he, hw₂, ?_, ?_, fun k n l hk hv hn hl hz => ?_⟩
      · rw [hs, hops]
      · rw [hs]
        exact hpcs
      · have legal := b32Vecs_legal _ _ (vals.getD k Vec.zero) (getD_mem_of_lt hv)
        rw [hs, hregs, hvals, State.dstWrites_lane _ _ _ hk hv hn hl hz, legal]
  · obtain rfl := h.form
    intro w zeros hz
    exact (issue_trap h (if_pos ⟨hm, hz⟩)).trans (congrArg Host.Outcome.next (State.conclude_trap nofun))

/-- Settles O23: the exchange by its source lanes, and each special register by its number. -/
theorem laneAndSpecialRegisterReads : Obligations.LaneAndSpecialRegisterReads := by
  refine ⟨fun f s i k src hk => ⟨fun h hs => ?_, fun h hs => ?_⟩, fun f s i h => ⟨rds_lane h, rds_one h, rds_one h, rds_one h, rds_one h,
    rds_one h, rds_one h, rds_one h, rds_one h, rds_one h, rds_one h, rds_one h, rds_one h, rds_one h, rds_one h, rds_one h, rds_one h,
    rds_one h, rds_one h, rds_two h ?_, rds_two h rfl⟩⟩
  · obtain rfl := h.form
    show execLxch i.f s = _
    exact issueFixed_ok h (congrArg _ (exchangeOut_eq hk fun l hl => (lxchSrc_eq (Nat.mod_lt _ (by decide))).trans (hs l hl).symm))
  · obtain rfl := h.form
    show execLanebc i.f s = _
    exact issueFixed_ok h (congrArg _ (exchangeOut_eq hk fun l hl => (hs l hl).symm))
  · exact BitVec.ofNat_toNat ..

end Sys2Proof.Machine
end

section
/-! SUPPORT. NaN results of the four IEEE formats (R193, R194): rounding and flushing make no NaN. -/

namespace Sys2Proof.Machine

section
variable {f : Fmt}

/-- Bits that are the canonical NaN of a format if they are a NaN at all (R194). -/
def Fmt.NanCanonical (f : Fmt) (x : Nat) : Prop := f.decode x = .nan → x = f.nanBits

/-- A NaN of a format with infinities has every exponent bit 1 and a fraction that is not 0 (R193). -/
theorem Fmt.fields_of_nan {x : Nat} (hf : f.isE4m3 = false) (h : f.decode x = .nan) :
    x / 2 ^ f.fb % 2 ^ f.eb = 2 ^ f.eb - 1 ∧ x % 2 ^ f.fb ≠ 0 := by
  simp only [Fmt.decode, hf, Bool.not_false, and_true, Bool.false_eq_true, false_and, if_false] at h
  split at h
  · cases h
  · split at h
    next he =>
      split at h
      · cases h
      next hm => exact ⟨he, hm⟩
    · cases h

/-- A magnitude up to that of infinity is no NaN, whatever its sign. -/
theorem Fmt.decode_ne_nan {b : Nat} (hf : f.isE4m3 = false) (neg : Bool) (h : b ≤ f.infBits) : f.decode (f.signBit neg + b) ≠ .nan := by
  intro hn
  obtain ⟨he, hm⟩ := Fmt.fields_of_nan hf hn
  have hfb : 0 < 2 ^ f.fb := Nat.two_pow_pos _
  have heb : 0 < 2 ^ f.eb := Nat.two_pow_pos _
  have hb : b < 2 ^ f.fb * 2 ^ f.eb := by
    calc b ≤ (2 ^ f.eb - 1) * 2 ^ f.fb := h
      _ < 2 ^ f.eb * 2 ^ f.fb := Nat.mul_lt_mul_of_pos_right (Nat.sub_lt heb Nat.one_pos) hfb
      _ = 2 ^ f.fb * 2 ^ f.eb := Nat.mul_comm ..
  have hmod : (f.signBit neg + b) % (2 ^ f.fb * 2 ^ f.eb) = b := by
    cases neg
    · rw [Fmt.signBit, if_neg Bool.false_ne_true, Nat.zero_add, Nat.mod_eq_of_lt hb]
    · rw [Fmt.signBit, if_pos rfl, Nat.add_comm f.eb, Nat.pow_add, Nat.add_mod_left, Nat.mod_eq_of_lt hb]
  rw [← Nat.mod_mul_right_div_self, hmod] at he
  rw [← Nat.mod_mul_right_mod, hmod] at hm
  refine hm (Nat.eq_zero_of_not_pos fun hpos => Nat.not_lt.mpr h ?_)
  calc f.infBits = 2 ^ f.fb * (b / 2 ^ f.fb) := by rw [he, Fmt.infBits, Nat.mul_comm]
    _ < 2 ^ f.fb * (b / 2 ^ f.fb) + b % 2 ^ f.fb := Nat.lt_add_of_pos_right hpos
    _ = b := Nat.div_add_mod ..

theorem Fmt.maxBits_le_infBits (hf : f.isE4m3 = false) : f.maxBits ≤ f.infBits := by
  rw [Fmt.maxBits, hf, if_neg Bool.false_ne_true]
  exact Nat.sub_le ..

/-- What overflow gives is the largest finite magnitude or infinity (R198). -/
theorem Fmt.overflow_ne_nan (hf : f.isE4m3 = false) (rm : BitVec 2) (sat neg : Bool) : f.decode (f.overflow rm sat neg) ≠ .nan := by
  refine Fmt.decode_ne_nan hf neg ?_
  have hmax := Fmt.maxBits_le_infBits hf
  rw [hf]
  cases sat
  · simp only [Bool.false_eq_true, if_false]
    split
    · exact Nat.le_refl _
    · exact hmax
    · split
      · exact Nat.le_refl _
      · exact hmax
    · split
      · exact hmax
      · exact Nat.le_refl _
  · exact hmax

/-- A rounded value is what overflow gives, or has at most the largest finite magnitude. -/
theorem Fmt.round_cases (hf : f.isE4m3 = false) (rm : BitVec 2) (sat neg : Bool) (m : Nat) (e : Int) (sticky : Bool) :
    (f.round rm sat neg m e sticky).1 = f.overflow rm sat neg ∨
      ∃ b, b ≤ f.maxBits ∧ (f.round rm sat neg m e sticky).1 = f.signBit neg + b := by
  unfold Fmt.round
  split
  · exact .inr ⟨0, Nat.zero_le _, rfl⟩
  · dsimp only
    generalize f.pack false _ _ = b
    by_cases hb : b > f.maxBits
    · exact .inl (by rw [if_pos hb, hf]; rfl)
    · exact .inr ⟨b, Nat.not_lt.mp hb, by rw [if_neg hb]⟩

theorem Fmt.round_ne_nan (hf : f.isE4m3 = false) (rm : BitVec 2) (sat neg : Bool) (m : Nat) (e : Int) (sticky : Bool) :
    f.decode (f.round rm sat neg m e sticky).1 ≠ .nan := by
  obtain h | ⟨b, hb, h⟩ := Fmt.round_cases hf rm sat neg m e sticky
  · exact h ▸ Fmt.overflow_ne_nan hf rm sat neg
  · exact h ▸ Fmt.decode_ne_nan hf neg (Nat.le_trans hb (Fmt.maxBits_le_infBits hf))

theorem Fmt.ofVal_nanCanonical (hf : f.isE4m3 = false) (rm : BitVec 2) (sat : Bool) (v : FVal) : f.NanCanonical (f.ofVal rm sat v).1 := by
  cases v with
  | nan => exact fun _ => rfl
  | inf neg =>
    intro h
    refine absurd h ?_
    simp only [Fmt.ofVal, hf, Bool.false_eq_true, if_false, ite_self]
    exact Fmt.decode_ne_nan hf neg (Nat.le_refl _)
  | fin neg m e => exact fun h => absurd h (Fmt.round_ne_nan hf rm sat neg m e false)

/-- A flushed result is a zero. -/
theorem Fmt.flushOut_nanCanonical (hf : f.isE4m3 = false) (ftz : Bool) {r : Nat × Flg} (h : f.NanCanonical r.1) :
    f.NanCanonical (f.flushOut ftz r).1 := by
  unfold Fmt.flushOut
  split
  · intro hn
    refine absurd ?_ (Fmt.fields_of_nan hf hn).2
    rw [Nat.pow_add, ← Nat.mul_assoc, Nat.mul_mod_left]
  · exact h

theorem Fmt.finish_nanCanonical (hf : f.isE4m3 = false) (rm : BitVec 2) (ftz : Bool) (v : FVal × Flg) :
    f.NanCanonical (f.finish rm ftz v).1 :=
  Fmt.flushOut_nanCanonical hf ftz (Fmt.ofVal_nanCanonical hf rm false v.1)

/-! ## FMIN and FMAX (R217) -/

/-- The bits that FMIN and FMAX give for an operand they choose: its own, but for a zero or what counts as one. -/
def Fmt.chosen (f : Fmt) (ftz : Bool) (raw : Nat) : Nat :=
  match f.decodeIn ftz raw with
  | .fin n 0 _ => f.signBit n
  | _ => raw

theorem Fmt.decodeIn_of_nan {raw : Nat} (ftz : Bool) (h : f.decode raw = .nan) : f.decodeIn ftz raw = .nan := by
  rw [Fmt.decodeIn, h]

theorem Fmt.chosen_ne_nan (hf : f.isE4m3 = false) {ftz : Bool} {raw : Nat} (h : f.decodeIn ftz raw ≠ .nan) :
    f.decode (f.chosen ftz raw) ≠ .nan := by
  unfold Fmt.chosen
  split
  next n _ _ => exact Fmt.decode_ne_nan (b := 0) hf n (Nat.zero_le _)
  · exact fun hn => h (Fmt.decodeIn_of_nan ftz hn)

theorem cmpVal_of_some {x y : FVal} {o : Ordering} (h : cmpVal x y = some o) : x ≠ .nan ∧ y ≠ .nan := by
  refine ⟨?_, ?_⟩
  · rintro rfl
    cases h
  · rintro rfl
    cases x <;> cases h

theorem ite_eq_either {α : Type} (c : Prop) [Decidable c] (a b : α) : (if c then a else b) = a ∨ (if c then a else b) = b := by
  split
  · exact .inl rfl
  · exact .inr rfl

/-- FMIN and FMAX give the canonical NaN, or what stands for an operand that is no NaN. -/
theorem Fmt.minMax_cases (ftz isMax : Bool) (a b : Nat) :
    f.minMax ftz isMax a b = f.nanBits ∨ ∃ raw, f.decodeIn ftz raw ≠ .nan ∧ f.minMax ftz isMax a b = f.chosen ftz raw := by
  cases ho : cmpVal (f.decodeIn ftz a) (f.decodeIn ftz b) with
  | none => exact .inl (by simp only [Fmt.minMax, ho])
  | some o =>
    obtain ⟨ha, hb⟩ := cmpVal_of_some ho
    have hab : f.minMax ftz isMax a b = f.chosen ftz a ∨ f.minMax ftz isMax a b = f.chosen ftz b := by
      simp only [Fmt.minMax, ho]
      cases o
      · exact (ite_eq_either ..).symm
      · exact (ite_eq_either ..).symm
      · exact ite_eq_either ..
    exact .inr (hab.elim (fun h => ⟨a, ha, h⟩) fun h => ⟨b, hb, h⟩)

theorem Fmt.minMax_nanCanonical (hf : f.isE4m3 = false) (ftz isMax : Bool) (a b : Nat) : f.NanCanonical (f.minMax ftz isMax a b) := by
  obtain h | ⟨raw, hv, h⟩ := Fmt.minMax_cases (f := f) ftz isMax a b
  · exact fun _ => h
  · rw [h]
    exact fun hn => absurd hn (Fmt.chosen_ne_nan hf hv)
end

end Sys2Proof.Machine
end

section
/-! SUPPORT. Check 7 (R206): what a failing source's trap says, and which source of a list is the first to fail. -/

namespace Sys2Proof.Machine

/-! ## The lowest lane of a mask -/

theorem laneMask_getLsbD_iff (p : Nat → Bool) (l : Nat) : (laneMask p).getLsbD l = true ↔ l < 32 ∧ p l = true := by
  by_cases hl : l < 32
  · rw [laneMask_getLsbD p hl]
    exact (and_iff_right hl).symm
  · rw [BitVec.getLsbD_of_ge _ _ (Nat.not_lt.mp hl)]
    exact iff_of_false Bool.false_ne_true fun h => hl h.1

theorem lowest_spec {m : Mask} (h : m ≠ 0) : m.getLsbD (lowest m) = true ∧ ∀ j, j < lowest m → m.getLsbD j = false := by
  cases hf : lanes32.find? fun l => m.getLsbD l with
  | none =>
    refine absurd (BitVec.eq_of_getLsbD_eq fun l hl => ?_) h
    exact (Bool.eq_false_iff.mpr (List.find?_eq_none.mp hf l (List.mem_range.mpr hl))).trans BitVec.getLsbD_zero.symm
  | some k =>
    have hk : lowest m = k := by
      rw [lowest, maskLanes, List.headD_eq_head?_getD, List.head?_filter, hf, Option.getD_some]
    obtain ⟨hm, -, below⟩ := List.find?_range_eq_some.mp hf
    rw [hk]
    exact ⟨hm, fun j hj => Bool.not_eq_eq_eq_not.mp (below j hj)⟩

/-- The lowest lane that satisfies a test. -/
theorem lowest_laneMask {p : Nat → Bool} {P : Nat → Prop} (hp : ∀ l, (laneMask p).getLsbD l = true ↔ P l) (h : ∃ l, P l) :
    laneMask p ≠ 0 ∧ P (lowest (laneMask p)) ∧ ∀ j, j < lowest (laneMask p) → ¬ P j := by
  obtain ⟨l, hl⟩ := h
  have hne : laneMask p ≠ 0 := by
    intro h0
    have set := (hp l).mpr hl
    rw [h0] at set
    exact Bool.false_ne_true (BitVec.getLsbD_zero.symm.trans set)
  obtain ⟨hlow, below⟩ := lowest_spec hne
  exact ⟨hne, (hp _).mp hlow, fun j hj hj' => Bool.false_ne_true ((below j hj).symm.trans ((hp j).mpr hj'))⟩

/-! ## One source -/

/-- A source that check 7 looks at: its field, the lanes looked at, its vectors, and the tag required of each of them. -/
abbrev TagCheck := Nat × Mask × List Vec × List Nat

/-- A lane that lacks a required tag. -/
def TagCheck.Bad (x : TagCheck) (l : Nat) : Prop :=
  l < 32 ∧ x.2.1.getLsbD l = true ∧ ∃ k, k < x.2.2.2.length ∧ (vec1 x.2.2.1 k).tagAt l ≠ BitVec.ofNat 4 (x.2.2.2.getD k 0)

/-- The trap of a failing source: exactly its failing lanes, and the tag found and required of the lowest of them (R206, R387). -/
def TagCheck.TrapsAs (x : TagCheck) (t : Trap) : Prop :=
  t.cls = .tag ∧ t.field = x.1 ∧ t.check = 7 ∧ (∀ l, t.lanes.getLsbD l = true ↔ x.Bad l) ∧
    ∃ l k, x.Bad l ∧ (∀ j, j < l → ¬ x.Bad j) ∧ (vec1 x.2.2.1 k).tagAt l ≠ BitVec.ofNat 4 (x.2.2.2.getD k 0) ∧
      t.detail = BitVec.ofNat 64 (((vec1 x.2.2.1 k).tagAt l).toNat + 16 * x.2.2.2.getD k 0)

/-- Check 7 of the model on one source. -/
def Iss.tagFails (i : Iss) (x : TagCheck) : Option Trap := i.checkTag x.1 x.2.1 x.2.2.1 x.2.2.2

theorem exists_vector_iff (vs : List Vec) (req : List Nat) (l : Nat) :
    ((List.range req.length).any fun k => (vec1 vs k).tagAt l != BitVec.ofNat 4 (req.getD k 0)) = true ↔
      ∃ k, k < req.length ∧ (vec1 vs k).tagAt l ≠ BitVec.ofNat 4 (req.getD k 0) := by
  simp only [List.any_eq_true, List.mem_range, bne_iff_ne]

/-- The vector that the model names for a failing lane lacks its tag. -/
theorem first_vector_lacks {vs : List Vec} {req : List Nat} {l : Nat}
    (h : ∃ k, k < req.length ∧ (vec1 vs k).tagAt l ≠ BitVec.ofNat 4 (req.getD k 0)) :
    let k := ((List.range req.length).find? fun k => (vec1 vs k).tagAt l != BitVec.ofNat 4 (req.getD k 0)).getD 0
    (vec1 vs k).tagAt l ≠ BitVec.ofNat 4 (req.getD k 0) := by
  intro k
  obtain ⟨n, hn⟩ := Option.isSome_iff_exists.mp (List.find?_isSome.mpr (List.any_eq_true.mp ((exists_vector_iff vs req l).mpr h)))
  have hk : k = n := congrArg (Option.getD · 0) hn
  rw [hk]
  exact bne_iff_ne.mp (List.find?_some (p := fun k => (vec1 vs k).tagAt l != BitVec.ofNat 4 (req.getD k 0)) hn)

variable {i : Iss} {x : TagCheck}

/-- The mask that the model builds for a source holds its failing lanes. -/
theorem TagCheck.bad_lanes (x : TagCheck) (l : Nat) :
    (laneMask fun l => x.2.1.getLsbD l && (List.range x.2.2.2.length).any fun k =>
      (vec1 x.2.2.1 k).tagAt l != BitVec.ofNat 4 (x.2.2.2.getD k 0)).getLsbD l = true ↔ x.Bad l := by
  rw [laneMask_getLsbD_iff, Bool.and_eq_true, exists_vector_iff, TagCheck.Bad]

theorem Iss.tagFails_none (h : ∀ l, ¬ x.Bad l) : i.tagFails x = none := by
  refine if_pos (BitVec.eq_of_getLsbD_eq fun l _ => ?_)
  exact (Bool.eq_false_iff.mpr fun hl => h l ((x.bad_lanes l).mp hl)).trans BitVec.getLsbD_zero.symm

theorem Iss.tagFails_some (h : ∃ l, x.Bad l) : ∃ t, i.tagFails x = some t ∧ x.TrapsAs t := by
  obtain ⟨hne, hbad, below⟩ := lowest_laneMask x.bad_lanes h
  exact ⟨_, if_neg hne, rfl, rfl, rfl, x.bad_lanes, _, _, hbad, below, first_vector_lacks hbad.2.2, rfl⟩

/-! ## Sources in field order -/

/-- The trap of the first source of a list that fails. -/
def Iss.firstTagFails (i : Iss) (xs : List TagCheck) : Option Trap := xs.findSome? i.tagFails

theorem Iss.firstTagFails_nil : i.firstTagFails [] = none := rfl

theorem Iss.firstTagFails_cons (xs : List TagCheck) :
    i.firstTagFails (x :: xs) = (i.checkTag x.1 x.2.1 x.2.2.1 x.2.2.2 <|> i.firstTagFails xs) := by
  rw [Iss.firstTagFails, List.findSome?_cons]
  unfold Iss.tagFails
  cases i.checkTag x.1 x.2.1 x.2.2.1 x.2.2.2 <;> rfl

theorem Iss.firstTagFails_append (xs ys : List TagCheck) :
    i.firstTagFails (xs ++ ys) = (i.firstTagFails xs <|> i.firstTagFails ys) := by
  rw [Iss.firstTagFails, List.findSome?_append]
  unfold Iss.firstTagFails
  cases xs.findSome? i.tagFails <;> rfl

theorem Iss.firstTagFails_one : i.firstTagFails [x] = i.checkTag x.1 x.2.1 x.2.2.1 x.2.2.2 := by
  rw [Iss.firstTagFails_cons, Iss.firstTagFails_nil]
  cases i.checkTag x.1 x.2.1 x.2.2.1 x.2.2.2 <;> rfl

theorem Iss.firstTagFails_of_passed {before after : List TagCheck} (hb : ∀ y ∈ before, ∀ l, ¬ y.Bad l) (hx : ∃ l, x.Bad l) :
    ∃ t, i.firstTagFails (before ++ x :: after) = some t ∧ x.TrapsAs t := by
  obtain ⟨t, ht, hw⟩ := Iss.tagFails_some (i := i) hx
  refine ⟨t, ?_, hw⟩
  rw [Iss.firstTagFails, List.findSome?_append, List.findSome?_eq_none_iff.mpr fun y hy => Iss.tagFails_none (hb y hy),
    List.findSome?_cons, ht]
  rfl

/-- The check of source A in the active lanes. -/
def Iss.tagA (i : Iss) (s : State) (req : List Nat) : List TagCheck := [(2, i.act, i.srcA s, req)]

/-- The check of source B; an immediate passes (R99). -/
def Iss.tagB (i : Iss) (s : State) (req : List Nat) : List TagCheck := if i.immB then [] else [(3, i.act, i.srcB s, req)]

/-- The check of source C. -/
def Iss.tagC (i : Iss) (s : State) (req : List Nat) : List TagCheck := [(4, i.act, i.srcC s, req)]

/-- The sources that `checkTags` looks at. -/
def Iss.activeChecks (i : Iss) (l : List (Nat × List Vec × List Nat)) : List TagCheck :=
  l.flatMap fun (fld, vs, req) => if fld == 3 && i.immB then [] else [(fld, i.act, vs, req)]

theorem Iss.checkTags_eq (i : Iss) (l : List (Nat × List Vec × List Nat)) : i.checkTags l = i.firstTagFails (i.activeChecks l) := by
  induction l with
  | nil => rfl
  | cons y l ih =>
    obtain ⟨fld, vs, req⟩ := y
    rw [Iss.activeChecks, List.flatMap_cons, Iss.firstTagFails_append, ← Iss.activeChecks, ← ih, Iss.checkTags, List.findSome?_cons]
    cases h : fld == 3 && i.immB with
    | true =>
      simp only [h, if_true]
      rfl
    | false =>
      simp only [h, Bool.false_eq_true, if_false, Iss.firstTagFails_one]
      cases i.checkTag fld i.act vs req <;> rfl

section
variable {s : State} {req : List Nat} {l l' : List (Nat × List Vec × List Nat)}

theorem Iss.activeChecks_nil : i.activeChecks [] = [] := rfl

theorem Iss.activeChecks_append : i.activeChecks (l ++ l') = i.activeChecks l ++ i.activeChecks l' := List.flatMap_append

theorem Iss.activeChecks_a : i.activeChecks ((2, i.srcA s, req) :: l) = i.tagA s req ++ i.activeChecks l := rfl

theorem Iss.activeChecks_b : i.activeChecks ((3, i.srcB s, req) :: l) = i.tagB s req ++ i.activeChecks l := by
  show (if i.immB = true then [] else [(3, i.act, i.srcB s, req)]) ++ i.activeChecks l = _
  rw [Iss.tagB]

theorem Iss.activeChecks_c : i.activeChecks ((4, i.srcC s, req) :: l) = i.tagC s req ++ i.activeChecks l := rfl

/-- Two sources, and a third where the instruction reads it. -/
theorem Iss.activeChecks_last (p : Prop) [Decidable p] :
    i.activeChecks ([(2, i.srcA s, req), (3, i.srcB s, req)] ++ if p then [(4, i.srcC s, req)] else []) =
      i.tagA s req ++ i.tagB s req ++ (if p then i.tagC s req else []) := by
  rw [Iss.activeChecks_append, Iss.activeChecks_a, Iss.activeChecks_b, Iss.activeChecks_nil, List.append_nil, apply_ite i.activeChecks,
    Iss.activeChecks_c, Iss.activeChecks_nil, List.append_nil]

theorem Iss.activeChecks_option {fld : Nat} {vs : List Vec} {g : List Nat → List TagCheck}
    (hg : ∀ req, i.activeChecks [(fld, vs, req)] = g req) (o : Option (List Nat)) :
    i.activeChecks ((o.map fun t => (fld, vs, t)).toList) = o.elim [] g := by
  cases o with
  | none => rfl
  | some t => exact hg t

/-- Sources of which only some forms require a tag. -/
theorem Iss.activeChecks_optional (a b c : Option (List Nat)) :
    i.activeChecks ((a.map fun t => (2, i.srcA s, t)).toList ++ (b.map fun t => (3, i.srcB s, t)).toList ++
      (c.map fun t => (4, i.srcC s, t)).toList) = a.elim [] (i.tagA s) ++ b.elim [] (i.tagB s) ++ c.elim [] (i.tagC s) := by
  rw [Iss.activeChecks_append, Iss.activeChecks_append, Iss.activeChecks_option (g := i.tagA s) fun _ => rfl,
    Iss.activeChecks_option (g := i.tagB s) fun _ => Iss.activeChecks_b.trans (List.append_nil _), Iss.activeChecks_option (g := i.tagC s) fun _ => rfl]
end

end Sys2Proof.Machine
end

section
/-! SUPPORT. Instructions that check tags before all else (R206): each takes the trap of its first source that fails. -/

namespace Sys2Proof.Machine

/-- An instruction of the subset takes the trap of the first of these sources that fails, and does nothing else. -/
def Iss.TrapsFirst (i : Iss) (s : State) (checks : List TagCheck) (ins : Instr) : Prop :=
  ∀ before x after, checks = before ++ x :: after → (∀ y ∈ before, ∀ l, ¬ y.Bad l) → (∃ l, x.Bad l) →
    ∃ t, x.TrapsAs t ∧ exec ins s = .next (i.traps s t)

section
variable {opc : Nat} {f : Form} {s : State} {i : Iss} {checks : List TagCheck} {ins : Instr}

theorem trapsFirst_issue {body : Iss → Eff} (h : Executes opc f s i) (he : exec ins s = issue opc f s body)
    (hb : ∀ t, i.firstTagFails checks = some t → body i = .trap t) : i.TrapsFirst s checks ins := by
  rintro before x after rfl passed bad
  obtain ⟨t, ht, hw⟩ := Iss.firstTagFails_of_passed passed bad
  refine ⟨t, hw, he.trans ((issue_trap h (hb t ht)).trans (congrArg Host.Outcome.next (State.conclude_trap ?_)))⟩
  rw [hw.1]
  nofun

theorem trapsFirst_fixed {body : Iss → Except Trap Out} (h : Executes opc f s i) (he : exec ins s = issueFixed opc f s body)
    (hb : ∀ t, i.firstTagFails checks = some t → body i = .error t) : i.TrapsFirst s checks ins :=
  trapsFirst_issue h he fun t ht => by rw [hb t ht]

/-- A result that `tagged` guards. -/
theorem trapsFirst_tagged {body : Iss → Except Trap Out} {l : List (Nat × List Vec × List Nat)} {o : Out} (h : Executes opc f s i)
    (he : exec ins s = issueFixed opc f s body) (hb : body i = i.tagged l o) (hc : i.activeChecks l = checks) : i.TrapsFirst s checks ins :=
  trapsFirst_fixed h he fun t ht => by rw [hb, Iss.tagged, Iss.checkTags_eq, hc, ht]

/-! ## FP32, packed and FP64 arithmetic (R216-R224)

Of the instructions that share a meaning one reads a source C; the others give `hc` by `List.append_nil`. -/

theorem f32_trapsFirst (h : Executes opc f s i) (he : exec ins s = issueFixed opc f s fun i => f32Out i s)
    (hc : i.tagA s [1] ++ i.tagB s [1] ++ (if opc = 0x183 then i.tagC s [1] else []) = checks) : i.TrapsFirst s checks ins :=
  trapsFirst_tagged h he rfl (by rw [Iss.activeChecks_last, h.opcode, hc])

theorem special_trapsFirst (h : Executes opc f s i) (he : exec ins s = issueFixed opc f s fun i => specialOut i s) :
    i.TrapsFirst s (i.tagA s [1]) ins :=
  trapsFirst_tagged h he rfl rfl

/-- The tag of packed BF16 or FP16 (R222). -/
def halfTags (mod : Nat) : List Nat := if mod % 16 = 11 then [3] else [2]

theorem halfTags_eq (mod : Nat) : [if mod % 16 == 11 then 3 else 2] = halfTags mod := by
  by_cases hm : mod % 16 = 11
  · rw [halfTags, if_pos hm, if_pos (beq_iff_eq.mpr hm)]
  · rw [halfTags, if_neg hm, if_neg fun h => hm (beq_iff_eq.mp h)]

theorem packed_trapsFirst (h : Executes opc f s i) (he : exec ins s = issueFixed opc f s fun i => packedOut i s)
    (hc : i.tagA s (halfTags f.mod.toNat) ++ i.tagB s (halfTags f.mod.toNat) ++
      (if opc = 0x1A2 then i.tagC s (halfTags f.mod.toNat) else []) = checks) : i.TrapsFirst s checks ins := by
  obtain rfl := h.form
  exact trapsFirst_tagged h he rfl (by rw [Iss.activeChecks_last, halfTags_eq, h.opcode, hc])

theorem f64_trapsFirst (h : Executes opc f s i) (he : exec ins s = issueFixed opc f s fun i => f64Out i s)
    (hc : i.tagA s [10, 11] ++ i.tagB s [10, 11] ++ (if opc = 0x1B2 then i.tagC s [10, 11] else []) = checks) :
    i.TrapsFirst s checks ins :=
  trapsFirst_tagged h he rfl (by rw [Iss.activeChecks_last, h.opcode, hc])

theorem bfma2_trapsFirst (h : Executes 0x1A3 f s i) : i.TrapsFirst s (i.tagA s [3] ++ i.tagB s [3] ++ i.tagC s [1]) (.bfma2 f) :=
  trapsFirst_tagged h rfl rfl (by rw [Iss.activeChecks_a, Iss.activeChecks_b, List.append_assoc]; rfl)

/-! ## Comparisons and classes (R218, R219) -/

theorem fcmp_trapsFirst {req : List Nat} (h : Executes 0x186 f s i) (hr : (if f.mod.toNat ≥ 8 then [10, 11] else [1]) = req) :
    i.TrapsFirst s (i.tagA s req ++ i.tagB s req) (.fcmp f) := by
  obtain rfl := h.form
  obtain rfl := hr
  exact trapsFirst_tagged h rfl rfl (by rw [Iss.activeChecks_a, Iss.activeChecks_b, Iss.activeChecks_nil, List.append_nil])

theorem fclass_trapsFirst {req : List Nat} (h : Executes 0x187 f s i) (hr : (if f.mod.toNat = 12 then [10, 11] else [1]) = req) :
    i.TrapsFirst s (i.tagA s req) (.fclass f) := by
  obtain rfl := h.form
  obtain rfl := hr
  by_cases hm : i.f.mod.toNat = 12
  · exact trapsFirst_tagged h rfl (if_pos hm) (by rw [if_pos hm]; rfl)
  · exact trapsFirst_tagged h rfl (if_neg hm) (by rw [if_neg hm]; rfl)

/-! ## CVT (R226) -/

theorem cvt_trapsFirst (h : Executes 0x1C0 f s i) (hm : f.mod.toNat < 27) :
    i.TrapsFirst s ((cvtTags f.mod.toNat).1.elim [] (i.tagA s) ++ (cvtTags f.mod.toNat).2.1.elim [] (i.tagB s) ++
      (cvtTags f.mod.toNat).2.2.elim [] (i.tagC s)) (.cvt f) := by
  obtain rfl := h.form
  have other : ¬ 28 ≤ i.f.mod.toNat := by omega
  by_cases h14 : i.f.mod.toNat = 14
  · exact trapsFirst_tagged h rfl ((if_neg (Nat.ne_of_lt hm)).trans ((if_neg other).trans (if_pos h14))) (Iss.activeChecks_optional ..)
  · exact trapsFirst_tagged h rfl ((if_neg (Nat.ne_of_lt hm)).trans ((if_neg other).trans (if_neg h14))) (Iss.activeChecks_optional ..)

/-- A lane in which CVT.as refuses the tag of its source B: ACC or a reserved one (R204, R226). -/
def Iss.Refused (i : Iss) (vb : List Vec) (l : Nat) : Prop := l < 32 ∧ i.act.getLsbD l = true ∧ 12 ≤ ((vec1 vb 0).tagAt l).toNat

theorem refused_lanes (i : Iss) (vb : List Vec) (l : Nat) :
    (laneMask fun l => i.act.getLsbD l && decide (12 ≤ ((vec1 vb 0).tagAt l).toNat)).getLsbD l = true ↔ i.Refused vb l := by
  rw [laneMask_getLsbD_iff, Bool.and_eq_true, decide_eq_true_eq, Iss.Refused]

/-- The low bits of DETAIL are the tag, and bit 8 says whether it is ACC (R387). -/
theorem cvtAs_detail (tag : BitVec 4) :
    let d : W64 := BitVec.ofNat 64 ((if tag = 12 then 0x1C0 else 0xC0) + tag.toNat)
    d.extractLsb' 0 4 = tag ∧ d.getLsbD 8 = (tag == 12) := by
  revert tag
  decide

/-- The trap of CVT.as: exactly the lanes that it refuses, with the tag found in the lowest of them (R387). -/
def Iss.RefusedAs (i : Iss) (vb : List Vec) (t : Trap) : Prop :=
  t.cls = .tag ∧ t.field = 3 ∧ t.check = 7 ∧ (∀ l, t.lanes.getLsbD l = true ↔ i.Refused vb l) ∧
    ∃ l, i.Refused vb l ∧ (∀ j, j < l → ¬ i.Refused vb j) ∧ t.detail.extractLsb' 0 4 = (vec1 vb 0).tagAt l ∧
      t.detail.getLsbD 8 = ((vec1 vb 0).tagAt l == 12)

theorem cvtAsTag_some {vb : List Vec} (h : ∃ l, i.Refused vb l) : ∃ t, cvtAsTag i vb = some t ∧ i.RefusedAs vb t := by
  obtain ⟨hne, hbad, below⟩ := lowest_laneMask (refused_lanes i vb) h
  exact ⟨_, if_neg hne, rfl, rfl, rfl, refused_lanes i vb, _, hbad, below, cvtAs_detail _⟩

theorem cvtAs_traps (h : Executes 0x1C0 f s i) (hm : f.mod.toNat = 27) (hr : ∃ l, i.Refused (i.srcB s) l) :
    ∃ t, i.RefusedAs (i.srcB s) t ∧ exec (.cvt f) s = .next (i.traps s t) := by
  obtain rfl := h.form
  obtain ⟨t, ht, hw⟩ := cvtAsTag_some hr
  refine ⟨t, hw, issueFixed_traps h ((if_pos hm).trans ?_) (by rw [hw.1]; nofun)⟩
  rw [ht]

/-! ## QCVT and DQCVT (R229) -/

/-- The check of the scale, in the lowest active lane. -/
def Iss.tagScale (i : Iss) (s : State) : List TagCheck := [(4, 1#32 <<< lowest i.act, i.srcC s, [1])]

/-- Three sources, the second of which only some forms check. -/
theorem Iss.firstTagFails_three (x y z : TagCheck) (p : Prop) [Decidable p] :
    i.firstTagFails ([x] ++ (if p then [y] else []) ++ [z]) = (i.checkTag x.1 x.2.1 x.2.2.1 x.2.2.2 <|>
      (if p then i.checkTag y.1 y.2.1 y.2.2.1 y.2.2.2 else none) <|> i.checkTag z.1 z.2.1 z.2.2.1 z.2.2.2) := by
  rw [List.singleton_append, List.cons_append, Iss.firstTagFails_cons, Iss.firstTagFails_append, apply_ite i.firstTagFails,
    Iss.firstTagFails_one, Iss.firstTagFails_one, Iss.firstTagFails_nil]

theorem qcvt_trapsFirst (h : Executes 0x1C1 f s i) :
    i.TrapsFirst s (i.tagA s [1] ++ (if f.mod.toNat = 0 then [(3, i.act, i.srcB s, [1])] else []) ++ i.tagScale s) (.qcvt f) := by
  obtain rfl := h.form
  refine trapsFirst_fixed h rfl fun t ht => ?_
  have first := (Iss.firstTagFails_three ..).symm.trans ht
  simp only [first]

theorem dqcvt_trapsFirst (h : Executes 0x1C2 f s i) :
    i.TrapsFirst s ([(2, i.act &&& laneMask fun k => (maskLanes i.act).any fun l => dqcvtLane f.mod.toNat l == k, i.srcA s,
        [dqcvtTag f.mod.toNat])] ++ (if f.mod.toNat < 2 then [(3, i.act &&& (1#32 <<< 8), i.srcB s, [0])] else []) ++ i.tagScale s)
      (.dqcvt f) := by
  obtain rfl := h.form
  refine trapsFirst_fixed h rfl fun t ht => ?_
  have first := (Iss.firstTagFails_three ..).symm.trans ht
  simp only [first]

/-! ## Matrix operations (R241, R248, R253) -/

/-- The blocks of MMA and MMAQ: C only where it is read. -/
def Iss.tagBlocks (i : Iss) (s : State) (mod ta tb : Nat) : List TagCheck :=
  i.tagA s (List.replicate 8 ta) ++ [(3, i.act, i.srcB s, [tb, tb])] ++ (if 16 ≤ mod then [] else i.tagC s (List.replicate 8 12))

theorem mmaCheck_eq (i : Iss) (s : State) (ta tb : Nat) : mmaCheck i s ta tb = i.firstTagFails (i.tagBlocks s i.f.mod.toNat ta tb) := by
  rw [mmaCheck, Iss.tagBlocks, Iss.tagA, Iss.tagC, List.singleton_append, List.cons_append, List.singleton_append, Iss.firstTagFails_cons,
    Iss.firstTagFails_cons, apply_ite i.firstTagFails, Iss.firstTagFails_one, Iss.firstTagFails_nil]

theorem mma_trapsFirst (h : Executes 0x280 f s i) :
    i.TrapsFirst s (i.tagBlocks s f.mod.toNat (mmaTags (f.mod.toNat % 16)).1 (mmaTags (f.mod.toNat % 16)).2) (.mma f) := by
  obtain rfl := h.form
  exact trapsFirst_issue h rfl fun t ht => by simp only [mmaCheck_eq, ht]

theorem mmaq_trapsFirst (h : Executes 0x281 f s i) : i.TrapsFirst s (i.tagBlocks s f.mod.toNat 9 9) (.mmaq f) := by
  obtain rfl := h.form
  exact trapsFirst_issue h rfl fun t ht => by simp only [mmaCheck_eq, ht]

theorem acccvt_trapsFirst (h : Executes 0x291 f s i) :
    i.TrapsFirst s (i.tagA s (acccvtTags f.mod.toNat).1 ++ (acccvtTags f.mod.toNat).2.1.elim [] (i.tagB s) ++
      (acccvtTags f.mod.toNat).2.2.elim [] (i.tagC s)) (.acccvt f) := by
  obtain rfl := h.form
  exact trapsFirst_tagged h rfl rfl (Iss.activeChecks_optional (some _) _ _)

/-! ## FP atomics (R311) and the amax ring (R230) -/

theorem atomic_trapsFirst {ts : List Nat} (isRed : Bool) (h : Executes opc f s i)
    (he : exec ins s = issue opc f s fun i => i.atomic s isRed) (hts : atomSrcTags f.mod.toNat = some ts) :
    i.TrapsFirst s [(3, i.act, i.srcB s, ts)] ins := by
  obtain rfl := h.form
  refine trapsFirst_issue h he fun t ht => ?_
  rw [Iss.firstTagFails_one] at ht
  simp only [Iss.atomic, hts, Option.bind_some, ht]

theorem amaxr_trapsFirst (h : Executes 0x1D0 f s i) : i.TrapsFirst s [(3, i.act, i.srcB s, [f.mod.toNat - 9 + 1])] (.amaxr f) := by
  obtain rfl := h.form
  refine trapsFirst_issue h rfl fun t ht => ?_
  rw [Iss.firstTagFails_one] at ht
  simp only [ht]
end

end Sys2Proof.Machine
end

section
/-! PROOFS. Tags and NaNs of number formats (R194, R204, R206). -/

namespace Sys2Proof.Machine

/-- Settles O26: per family of instructions, the first failing source of the list that its meaning checks. -/
theorem wrongTagTraps : Obligations.WrongTagTraps := by
  intro f s i
  exact ⟨
    fun h => f32_trapsFirst h rfl (List.append_nil _), fun h => f32_trapsFirst h rfl (List.append_nil _),
    fun h => f32_trapsFirst h rfl (List.append_nil _), fun h => f32_trapsFirst h rfl rfl,
    fun h => f32_trapsFirst h rfl (List.append_nil _), fun h => f32_trapsFirst h rfl (List.append_nil _),
    fun h hm => fcmp_trapsFirst h (if_neg (Nat.not_le.mpr hm)), fun h hm => fcmp_trapsFirst h (if_pos hm),
    fun h hm => fclass_trapsFirst h (if_neg hm), fun h hm => fclass_trapsFirst h (if_pos hm),
    fun h => special_trapsFirst h rfl, fun h => special_trapsFirst h rfl, fun h => special_trapsFirst h rfl,
    fun h => special_trapsFirst h rfl, fun h => special_trapsFirst h rfl, fun h => special_trapsFirst h rfl,
    fun h => special_trapsFirst h rfl, fun h => special_trapsFirst h rfl,
    ⟨fun h => packed_trapsFirst h rfl (List.append_nil _), fun h => packed_trapsFirst h rfl (List.append_nil _),
      fun h => packed_trapsFirst h rfl rfl⟩,
    bfma2_trapsFirst,
    fun h => f64_trapsFirst h rfl (List.append_nil _), fun h => f64_trapsFirst h rfl (List.append_nil _), fun h => f64_trapsFirst h rfl rfl,
    cvt_trapsFirst,
    fun h hm hr =>
      have ⟨t, ⟨hcls, hfld, hchk, hlanes, hlow⟩, he⟩ := cvtAs_traps h hm hr
      ⟨t, hcls, hfld, hchk, hlanes, hlow, he⟩,
    qcvt_trapsFirst, dqcvt_trapsFirst,
    ⟨mma_trapsFirst, mmaq_trapsFirst⟩, acccvt_trapsFirst,
    fun h _ => atomic_trapsFirst false h rfl, fun h _ => atomic_trapsFirst true h rfl, amaxr_trapsFirst⟩

/-- Settles O27: sums, products and fused products are rounded values, and each of the four formats has infinities. -/
theorem nanResultsAreCanonical : Obligations.NanResultsAreCanonical := by
  intro fm hfm rm ftz neg isMax a b c
  have hf : fm.isE4m3 = false := by
    simp only [List.mem_cons, List.not_mem_nil, or_false] at hfm
    rcases hfm with rfl | rfl | rfl | rfl <;> rfl
  exact ⟨Fmt.finish_nanCanonical hf rm ftz _, Fmt.finish_nanCanonical hf rm ftz _, Fmt.finish_nanCanonical hf rm ftz _,
    Fmt.minMax_nanCanonical hf ftz isMax a b⟩

end Sys2Proof.Machine
end

section
/-! SUPPORT. Results of floating-point instructions (R148, R213), and what an instruction retires with when its sources have their tags (R206). -/

namespace Sys2Proof.Machine

/-! ## Results by lane -/

theorem fpOut_eq (tag : Nat) (g : Nat → Nat × Flg) : fpOut tag g =
    { vecs := [lanes32.map fun l => ⟨BitVec.ofNat 32 (g l).1, BitVec.ofNat 4 tag⟩], flags := lanes32.map fun l => (g l).2 } := by
  simp only [fpOut, List.map_map, Function.comp_def]

theorem fpOut64_eq (g : Nat → Nat × Flg) : fpOut64 g =
    { vecs := [lanes32.map fun l => ⟨BitVec.ofNat 32 (g l).1, 10⟩, lanes32.map fun l => ⟨BitVec.ofNat 32 ((g l).1 / 2 ^ 32), 11⟩]
      flags := lanes32.map fun l => (g l).2 } := by
  simp only [fpOut64, List.map_map, Function.comp_def]

/-- An element of a packed lane (R195). -/
theorem half_eq (x : W32) (k : Nat) : half x k = (x.extractLsb' (16 * k) 16).toNat := nbits_toNat ..

section
variable {opc : Nat} {f : Form} {s : State} {i : Iss} {body : Iss → Except Trap Out} {l : List (Nat × List Vec × List Nat)}

theorem tagged_retires {o : Out} (h : Executes opc f s i) (hb : body i = i.tagged l o) (ht : i.checkTags l = none) :
    issueFixed opc f s body = .next (i.retires s o) :=
  issueFixed_ok h (by rw [hb, Iss.tagged, ht])

/-- One vector of results, known lane by lane. -/
theorem fp_retires {tag : Nat} {g : Nat → Nat × Flg} (h : Executes opc f s i) (hb : body i = i.tagged l (fpOut tag g))
    (ht : i.checkTags l = none) : issueFixed opc f s body = .next (i.retires s
      { vecs := [lanes32.map fun l => ⟨BitVec.ofNat 32 (g l).1, BitVec.ofNat 4 tag⟩], flags := lanes32.map fun l => (g l).2 }) := by
  rw [← fpOut_eq]
  exact tagged_retires h hb ht

theorem fp64_retires {g : Nat → Nat × Flg} (h : Executes opc f s i) (hb : body i = i.tagged l (fpOut64 g))
    (ht : i.checkTags l = none) : issueFixed opc f s body = .next (i.retires s
      { vecs := [lanes32.map fun l => ⟨BitVec.ofNat 32 (g l).1, 10⟩, lanes32.map fun l => ⟨BitVec.ofNat 32 ((g l).1 / 2 ^ 32), 11⟩]
        flags := lanes32.map fun l => (g l).2 }) := by
  rw [← fpOut64_eq]
  exact tagged_retires h hb ht
end

/-! ## FP32, packed and FP64 arithmetic (R216, R217, R222-R224)

The instructions of one width share a meaning, which the opcode tells apart; one of each reads a source C. -/

section
variable {opc : Nat} {f : Form} {s : State} {i : Iss}

theorem f32_retires (h : Executes opc f s i)
    (ht : i.checkTags ([(2, i.srcA s, [1]), (3, i.srcB s, [1])] ++ if opc = 0x183 then [(4, i.srcC s, [1])] else []) = none) :
    let g (l : Nat) : Nat × Flg := f32Lane opc (i.readMode s).1 (i.readMode s).2 (f.mod.getLsbD 4) (lane32 (i.srcA s) l).toNat
      (lane32 (i.srcB s) l).toNat (lane32 (i.srcC s) l).toNat
    issueFixed opc f s (fun i => f32Out i s) = .next (i.retires s
      { vecs := [lanes32.map fun l => ⟨BitVec.ofNat 32 (g l).1, 1⟩], flags := lanes32.map fun l => (g l).2 }) := by
  obtain rfl := h.form
  obtain rfl := h.opcode
  exact fp_retires h rfl ht

/-- The element operation of the packed instructions (R222): on two elements of A, B and C. -/
def packedElem (opc : Nat) (fm : Fmt) (rm : BitVec 2) (ftz neg : Bool) (a b c : Nat) : Nat × Flg :=
  match opc with
  | 0x1A0 => fm.add rm ftz false a b
  | 0x1A1 => fm.mul rm ftz a b
  | _ => fm.fma rm ftz neg a b c

theorem packed_retires (h : Executes opc f s i) :
    let fm : Fmt := if f.mod.toNat % 16 = 11 then fmtBf16 else fmtF16
    let tag : Nat := if f.mod.toNat % 16 = 11 then 3 else 2
    let e (v : List Vec) (l k : Nat) : Nat := ((lane32 v l).extractLsb' (16 * k) 16).toNat
    let g (l k : Nat) : Nat × Flg := packedElem opc fm (i.readMode s).1 (i.readMode s).2 (f.mod.getLsbD 4) (e (i.srcA s) l k)
      (e (i.srcB s) l k) (e (i.srcC s) l k)
    i.checkTags ([(2, i.srcA s, [tag]), (3, i.srcB s, [tag])] ++ if opc = 0x1A2 then [(4, i.srcC s, [tag])] else []) = none →
    issueFixed opc f s (fun i => packedOut i s) = .next (i.retires s
      { vecs := [lanes32.map fun l => ⟨BitVec.ofNat 32 ((g l 0).1 + (g l 1).1 * 65536), BitVec.ofNat 4 tag⟩]
        flags := lanes32.map fun l => (g l 0).2 ||| (g l 1).2 }) := by
  obtain rfl := h.form
  obtain rfl := h.opcode
  intro fm tag e g ht
  refine fp_retires (g := fun l => packed2 (g l)) h ?_ ht
  simp only [packedOut, half_eq, beq_iff_eq]
  rfl

/-- The element operation of the FP64 instructions (R224), to which FTZ does not apply. -/
def doubleElem (opc : Nat) (rm : BitVec 2) (neg : Bool) (a b c : Nat) : Nat × Flg :=
  match opc with
  | 0x1B0 => fmtF64.add rm false neg a b
  | 0x1B1 => fmtF64.mul rm false a b
  | _ => fmtF64.fma rm false neg a b c

theorem f64_retires (h : Executes opc f s i)
    (ht : i.checkTags ([(2, i.srcA s, [10, 11]), (3, i.srcB s, [10, 11])] ++ if opc = 0x1B2 then [(4, i.srcC s, [10, 11])] else []) = none) :
    let g (l : Nat) : Nat × Flg := doubleElem opc (i.readMode s).1 (f.mod.getLsbD 4) (lane64 (i.srcA s) l).toNat
      (lane64 (i.srcB s) l).toNat (lane64 (i.srcC s) l).toNat
    issueFixed opc f s (fun i => f64Out i s) = .next (i.retires s
      { vecs := [lanes32.map fun l => ⟨BitVec.ofNat 32 (g l).1, 10⟩, lanes32.map fun l => ⟨BitVec.ofNat 32 ((g l).1 / 2 ^ 32), 11⟩]
        flags := lanes32.map fun l => (g l).2 }) := by
  obtain rfl := h.form
  obtain rfl := h.opcode
  exact fp64_retires h rfl ht

theorem special_retires (h : Executes opc f s i) (ht : i.checkTags [(2, i.srcA s, [1])] = none) :
    let g (l : Nat) : Nat × Flg := specialLane opc (i.readMode s).1 (i.readMode s).2 (lane32 (i.srcA s) l).toNat
    issueFixed opc f s (fun i => specialOut i s) = .next (i.retires s
      { vecs := [lanes32.map fun l => ⟨BitVec.ofNat 32 (g l).1, 1⟩], flags := lanes32.map fun l => (g l).2 }) := by
  obtain rfl := h.opcode
  exact fp_retires h rfl ht
end

/-! ## Comparisons and classes (R218, R219) -/

section
variable {f : Form} {s : State} {i : Iss}

theorem fcmp_retires (h : Executes 0x186 f s i) {req : List Nat} (hr : (if f.mod.toNat ≥ 8 then [10, 11] else [1]) = req)
    (ht : i.checkTags [(2, i.srcA s, req), (3, i.srcB s, req)] = none) :
    let c (l : Nat) : Bool × Flg :=
      if f.mod.toNat ≥ 8 then fcmpHolds (f.mod.toNat % 8) (fmtF64.decode (lane64 (i.srcA s) l).toNat) (fmtF64.decode (lane64 (i.srcB s) l).toNat)
      else fcmpHolds (f.mod.toNat % 8) (fmtF32.decodeIn (i.readMode s).2 (lane32 (i.srcA s) l).toNat)
        (fmtF32.decodeIn (i.readMode s).2 (lane32 (i.srcB s) l).toNat)
    exec (.fcmp f) s = .next (i.retires s
      { vecs := [lanes32.map fun l => ⟨BitVec.ofNat 32 (if (c l).1 then 0xFFFFFFFF else 0), 0⟩], flags := lanes32.map fun l => (c l).2 }) := by
  obtain rfl := h.form
  subst hr
  intro c
  show execFcmp i.f s = _
  exact fp_retires (g := fun l => (if (c l).1 then 0xFFFFFFFF else 0, (c l).2)) h rfl ht

theorem fclass_retires_f32 (h : Executes 0x187 f s i) (hm : f.mod ≠ 12) (ht : i.checkTags [(2, i.srcA s, [1])] = none) :
    exec (.fclass f) s = .next (i.retires s
      { vecs := [lanes32.map fun l => ⟨BitVec.ofNat 32 (fmtF32.classify (lane32 (i.srcA s) l).toNat), 0⟩], flags := lanes32.map fun _ => 0 }) := by
  obtain rfl := h.form
  show execFclass i.f s = _
  exact fp_retires (g := fun l => (fmtF32.classify (lane32 (i.srcA s) l).toNat, 0)) h (if_neg fun e => hm (BitVec.eq_of_toNat_eq e)) ht

theorem fclass_retires_f64 (h : Executes 0x187 f s i) (hm : f.mod = 12) (ht : i.checkTags [(2, i.srcA s, [10, 11])] = none) :
    exec (.fclass f) s = .next (i.retires s
      { vecs := [lanes32.map fun l => ⟨BitVec.ofNat 32 (fmtF64.classify (lane64 (i.srcA s) l).toNat), 0⟩], flags := lanes32.map fun _ => 0 }) := by
  obtain rfl := h.form
  show execFclass i.f s = _
  exact fp_retires (g := fun l => (fmtF64.classify (lane64 (i.srcA s) l).toNat, 0)) h (if_pos (congrArg BitVec.toNat hm)) ht
end

/-! ## Special cases of the special functions (R221) -/

/-- A case that the model lists, with FTZ off: its value rounded, and its flags. -/
theorem specialLane_listed {opc a : Nat} {fl : Flg} (v : FVal) (rm : BitVec 2) (ho : opc ≠ 0x192)
    (hc : specialCase opc (fmtF32.decodeIn false a) = some (v, fl)) : specialLane opc rm false a = ((fmtF32.ofVal 0 false v).1, fl) := by
  have unflushed (r : Nat × Flg) : fmtF32.flushOut false r = r := rfl
  simp only [specialLane, if_neg ho, hc, unflushed]
  exact congrArg (Prod.mk _) BitVec.zero_or

/-- FSQRT is rounded in every case (R220). -/
theorem specialLane_sqrt (rm : BitVec 2) (a : Nat) : specialLane 0x192 rm false a = fmtF32.sqrtVal rm (fmtF32.decodeIn false a) := rfl

theorem specialCase_nan (opc : Nat) : specialCase opc .nan = some (.nan, 0) := by
  unfold specialCase
  rfl

/-- Every special function of a NaN is the canonical NaN, and raises nothing. -/
theorem specialLane_nan (opc : Nat) (rm : BitVec 2) {a : Nat} (ha : fmtF32.decodeIn false a = .nan) :
    specialLane opc rm false a = (0x7FC00000, 0) := by
  by_cases ho : opc = 0x192
  · rw [ho, specialLane_sqrt, ha]
    rfl
  · exact specialLane_listed .nan rm ho (by rw [ha, specialCase_nan])

end Sys2Proof.Machine
end

section
/-! SUPPORT. What conversions retire with when their sources have their tags (R225-R229). -/

namespace Sys2Proof.Machine

/-! ## CVT (R226) -/

section
variable {f : Form} {s : State} {i : Iss}

/-- The sources of CVT that check 7 looks at: those whose tag the form requires. -/
def Iss.cvtChecks (i : Iss) (s : State) (mod : Nat) : List (Nat × List Vec × List Nat) :=
  ((cvtTags mod).1.map fun t => (2, i.srcA s, t)).toList ++ ((cvtTags mod).2.1.map fun t => (3, i.srcB s, t)).toList ++
    ((cvtTags mod).2.2.map fun t => (4, i.srcC s, t)).toList

theorem cvt_retires_value (h : Executes 0x1C0 f s i) (h14 : f.mod.toNat ≠ 14) (hm : f.mod.toNat < 27)
    (ht : i.checkTags (i.cvtChecks s f.mod.toNat) = none) :
    let rm := (i.readMode s).1
    let r (l : Nat) : Nat × Flg :=
      (cvtLane f.mod.toNat rm (lane32 (i.srcA s) l) (lane32 (i.srcB s) l) (lane32 (i.srcC s) l) (lane64 (i.srcA s) l).toNat).2
    exec (.cvt f) s = .next (i.retires s
      { vecs := [lanes32.map fun l => ⟨BitVec.ofNat 32 (r l).1, BitVec.ofNat 4 (cvtLane f.mod.toNat rm 0 0 0 0).1⟩]
        flags := lanes32.map fun l => (r l).2 }) := by
  obtain rfl := h.form
  intro rm r
  have other : ¬ 28 ≤ i.f.mod.toNat := by omega
  show execCvt i.f s = _
  exact fp_retires (g := r) h ((if_neg (Nat.ne_of_lt hm)).trans ((if_neg other).trans (if_neg h14))) ht

theorem cvt_retires_f64 (h : Executes 0x1C0 f s i) (h14 : f.mod.toNat = 14) (ht : i.checkTags (i.cvtChecks s f.mod.toNat) = none) :
    exec (.cvt f) s = .next (i.retires s (fpOut64 fun l => (widen fmtF32 fmtF64 (lane32 (i.srcA s) l).toNat, 0))) := by
  obtain rfl := h.form
  have as : ¬ i.f.mod.toNat = 27 := by omega
  have other : ¬ 28 ≤ i.f.mod.toNat := by omega
  show execCvt i.f s = _
  exact tagged_retires h ((if_neg as).trans ((if_neg other).trans (if_pos h14))) ht

theorem cvtAsTag_none {vb : List Vec} (h : ∀ l, ¬ i.Refused vb l) : cvtAsTag i vb = none :=
  if_pos ((laneMask_eq_zero _).mpr fun l hl => Bool.and_eq_false_imp.mpr fun act => decide_eq_false fun refused => h l ⟨hl, act, refused⟩)

theorem cvt_retires_as (h : Executes 0x1C0 f s i) (hm : f.mod.toNat = 27) (ok : ∀ l, ¬ i.Refused (i.srcB s) l) :
    exec (.cvt f) s = .next (i.retires s { vecs := [Vec.of fun l => ⟨lane32 (i.srcA s) l, (vec1 (i.srcB s) 0).tagAt l⟩] }) := by
  obtain rfl := h.form
  show execCvt i.f s = _
  exact issueFixed_ok h ((if_pos hm).trans (by rw [cvtAsTag_none ok]))

theorem cvt_retires_pair (h : Executes 0x1C0 f s i) (hm : 28 ≤ f.mod.toNat) :
    exec (.cvt f) s = .next (i.retires s { vecs :=
      [Vec.of fun l => ⟨(vec1 (i.srcA s) 0).val l, if f.mod.toNat = 28 then 10 else 0⟩,
       Vec.of fun l => ⟨(vec1 (i.srcA s) 1).val l, if f.mod.toNat = 28 then 11 else 0⟩] }) := by
  obtain rfl := h.form
  have as : ¬ i.f.mod.toNat = 27 := by omega
  show execCvt i.f s = _
  exact issueFixed_ok h ((if_neg as).trans (if_pos hm))
end

/-! ## QCVT and DQCVT (R227-R229) -/

section
variable {f : Form} {s : State} {i : Iss}

theorem qcvt_retires (h : Executes 0x1C1 f s i) (ha : i.checkTag 2 i.act (i.srcA s) [1] = none)
    (hb : f.mod.toNat = 0 → i.checkTag 3 i.act (i.srcB s) [1] = none) (hc : i.checkTag 4 (1#32 <<< lowest i.act) (i.srcC s) [1] = none) :
    exec (.qcvt f) s = .next (i.retires s (if f.mod.toNat = 0 then qcvtQn4 i (i.srcA s) (i.srcB s) (i.srcC s)
      else qcvtOut i f.mod.toNat (i.readMode s).1 (i.srcA s) (i.srcC s))) := by
  obtain rfl := h.form
  show execQcvt i.f s = _
  refine issueFixed_ok h ?_
  have b : (if i.f.mod.toNat = 0 then i.checkTag 3 i.act (i.srcB s) [1] else none) = none := ite_eq_right_iff.mpr hb
  simp only [ha, b, hc]
  rfl

theorem dqcvt_retires (h : Executes 0x1C2 f s i)
    (ha : i.checkTag 2 (i.act &&& laneMask fun k => (maskLanes i.act).any fun l => dqcvtLane f.mod.toNat l == k) (i.srcA s)
      [dqcvtTag f.mod.toNat] = none)
    (hb : f.mod.toNat < 2 → i.checkTag 3 (i.act &&& (1#32 <<< 8)) (i.srcB s) [0] = none)
    (hc : i.checkTag 4 (1#32 <<< lowest i.act) (i.srcC s) [1] = none) :
    let mod := f.mod.toNat
    let scale := (lane32 (i.srcC s) (lowest i.act)).toNat
    let x (l : Nat) : W32 := zeroLane i.act (i.srcA s) (dqcvtLane mod l)
    let r (l : Nat) : Nat × Flg :=
      if mod < 2 then decodeQn4 (elem 4 (x l) (l % 8)) ((zeroLane i.act (i.srcB s) 8).toNat % 256) scale
      else fmtF32.divVal (i.readMode s).1 false (dqcvtVal mod l (x l)) (f32 scale)
    exec (.dqcvt f) s = .next (i.retires s
      { vecs := [lanes32.map fun l => ⟨BitVec.ofNat 32 (r l).1, 1⟩], flags := lanes32.map fun l => (r l).2 }) := by
  obtain rfl := h.form
  intro mod scale x r
  have b : (if i.f.mod.toNat < 2 then i.checkTag 3 (i.act &&& (1#32 <<< 8)) (i.srcB s) [0] else none) = none := ite_eq_right_iff.mpr hb
  show execDqcvt i.f s = _
  refine issueFixed_ok h ((?_ : _ = Except.ok (fpOut 1 r)).trans (congrArg Except.ok (fpOut_eq 1 r)))
  simp only [ha, b, hc]
  rfl
end

end Sys2Proof.Machine
end

section
/-! PROOFS. Floating-point instructions (R216-R234). -/

namespace Sys2Proof.Machine

/-- Settles O24: the instructions of one width share a meaning, which the opcode tells apart. -/
theorem floatArithmeticResults : Obligations.FloatArithmeticResults := by
  refine ⟨fun f s i => ⟨f32_retires, f32_retires, f32_retires, f32_retires, f32_retires, f32_retires⟩,
    fun f s i => ⟨fun h hm ht => ?_, fun h hm ht => ?_, fclass_retires_f32, fclass_retires_f64⟩,
    fun f s i => ⟨packed_retires, packed_retires, packed_retires, fun h ht => ?_, f64_retires, f64_retires, f64_retires⟩,
    fun f s i => ⟨fun h => ?_, fun h => ?_⟩⟩
  · have at32 : ¬ f.mod.toNat ≥ 8 := Nat.not_le.mpr hm
    rw [fcmp_retires h (if_neg at32) ht]
    simp only [if_neg at32]
  · rw [fcmp_retires h (if_pos hm) ht]
    simp only [ge_iff_le, if_pos hm]
  · show execBfma2 f s = _
    exact fp_retires h rfl ht
  · show execFsetmode f s = _
    exact issueFixed_ok h rfl
  · show execFflags f s = _
    exact issueFixed_ok h rfl

/-- Settles O25: what the eight functions share, and each listed case by the value that it gives. -/
theorem specialFunctionResults : Obligations.SpecialFunctionResults :=
  ⟨fun f s i ht => ⟨fun h => special_retires h ht, fun h => special_retires h ht, fun h => special_retires h ht,
    fun h => special_retires h ht, fun h => special_retires h ht, fun h => special_retires h ht, fun h => special_retires h ht,
    fun h => special_retires h ht⟩, fun rm =>
    ⟨specialLane_listed (.inf false) rm (by decide) rfl, specialLane_listed (.inf true) rm (by decide) rfl,
    specialLane_listed (.fin false 0 0) rm (by decide) rfl, specialLane_listed (.fin true 0 0) rm (by decide) rfl,
    specialLane_listed (.inf true) rm (by decide) rfl, specialLane_listed .nan rm (by decide) rfl, rfl, rfl,
    specialLane_listed (.inf false) rm (by decide) rfl, specialLane_listed (.fin false 0 0) rm (by decide) rfl,
    specialLane_listed (.inf true) rm (by decide) rfl, specialLane_listed .nan rm (by decide) rfl,
    specialLane_listed .nan rm (by decide) rfl, specialLane_listed (.fin false 1 0) rm (by decide) rfl,
    specialLane_listed (.fin false 1 0) rm (by decide) rfl, fun opc _ _ => specialLane_nan opc rm rfl⟩⟩

/-- Settles O28: each form of CVT, and QCVT and DQCVT with the sources that they check. -/
theorem conversionResults : Obligations.ConversionResults := by
  intro f s i
  refine ⟨cvt_retires_value, cvt_retires_f64, fun h hm ok => cvt_retires_as h hm fun l ⟨hl, act, refused⟩ => ?_, cvt_retires_pair,
    fun h hm ha hb hc => ?_, fun h hm ha hc => ?_, dqcvt_retires⟩
  · exact Nat.not_lt.mpr refused (ok l hl act)
  · exact (qcvt_retires h ha (fun _ => hb) hc).trans (by rw [if_pos hm])
  · exact (qcvt_retires h ha (fun e => absurd e hm) hc).trans (by rw [if_neg hm])

end Sys2Proof.Machine
end

section
/-! SUPPORT. Bytes written to a stash and read back (R230), and bytes put into a byte string. -/

namespace Sys2Proof.Machine

/-! ## Bytes of a sector -/

/-- A byte of a sector after one byte has been put there. -/
theorem Sector.byte_put (x : Sector) {o i : Nat} (ho : o < 64) (hi : i < 64) (b : Byte) :
    Sector.byte (Sector.put x o [b]) i = if i = o then b else Sector.byte x i := by
  have kept (j : Nat) (hj : j < 512) :
      (BitVec.ofNat 512 (((1 <<< (8 * [b].length)) - 1) <<< (8 * o))).getLsbD j = decide (8 * o ≤ j ∧ j < 8 * o + 8) :=
    maskAt_getLsbD 512 (8 * o) 8 j hj
  have new (j : Nat) : (leNat [b]).testBit j = b.getLsbD j := by
    simp [leNat, BitVec.testBit_toNat]
  apply BitVec.eq_of_getLsbD_eq
  intro k hk
  have hj : 8 * i + k < 512 := by omega
  simp only [Sector.byte, Sector.put, BitVec.getLsbD_extractLsb', hk, decide_true, Bool.true_and, BitVec.getLsbD_or, BitVec.getLsbD_and,
    BitVec.getLsbD_not, kept _ hj, BitVec.getLsbD_ofNat, hj, Nat.testBit_shiftLeft, new]
  split
  · next e =>
    subst e
    simp [hk]
  · next ne =>
    have outside : ¬ (8 * o ≤ 8 * i + k ∧ 8 * i + k < 8 * o + 8) := by omega
    rw [decide_eq_false outside]
    by_cases above : 8 * o ≤ 8 * i + k
    · have high : b.getLsbD (8 * i + k - 8 * o) = false := BitVec.getLsbD_of_ge _ _ (by omega)
      simp [above, high, hk]
    · simp [above, hk]

/-! ## Bytes of a stash -/

/-- The byte at an offset of a team's stash. -/
def Team.stashAt (tm : Team) (o : Nat) : Byte := Sector.byte (tm.stash.getD (o / 64) 0) (o % 64)

theorem Team.stashRead_eq (tm : Team) (o n : Nat) : tm.stashRead o n = (List.range n).map fun k => tm.stashAt (o + k) := rfl

theorem Team.stashRead_congr {t u : Team} (h : t.stash = u.stash) (o n : Nat) : t.stashRead o n = u.stashRead o n := by
  rw [Team.stashRead, h, Team.stashRead]

theorem Team.stashWrite_congr {t u : Team} (h : t.stash = u.stash) (o : Nat) (bs : List Byte) :
    (t.stashWrite o bs).stash = (u.stashWrite o bs).stash := by
  induction bs generalizing t u o with
  | nil => exact h
  | cons b bs ih => exact ih (by rw [Team.stashByte, Team.stashByte, h]) (o + 1)

theorem Team.stashByte_at (tm : Team) (o a : Nat) (b : Byte) : (tm.stashByte o b).stashAt a = if a = o then b else tm.stashAt a := by
  unfold Team.stashByte Team.stashAt
  by_cases sector : a / 64 = o / 64
  · rw [sector, AMap.getD_set_same, Sector.byte_put _ (Nat.mod_lt _ (by decide)) (Nat.mod_lt _ (by decide))]
    have same : a % 64 = o % 64 ↔ a = o := by omega
    simp only [same]
  · rw [AMap.getD_set_other _ _ _ _ _ sector, if_neg fun e => sector (by rw [e])]

section
variable (tm : Team) (o : Nat) (bs : List Byte)

theorem Team.stashWrite_at_outside {a : Nat} (h : a < o ∨ o + bs.length ≤ a) : (tm.stashWrite o bs).stashAt a = tm.stashAt a := by
  induction bs generalizing tm o with
  | nil => rfl
  | cons b bs ih =>
    rw [List.length_cons] at h
    rw [Team.stashWrite, ih _ _ (by omega), Team.stashByte_at, if_neg (by omega)]

theorem Team.stashWrite_at_inside {k : Nat} (h : k < bs.length) : (tm.stashWrite o bs).stashAt (o + k) = bs[k] := by
  induction bs generalizing tm o k with
  | nil => exact absurd h (Nat.not_lt_zero k)
  | cons b bs ih =>
    rw [Team.stashWrite]
    cases k with
    | zero => rw [Team.stashWrite_at_outside _ _ _ (.inl (by omega)), Team.stashByte_at, if_pos (Nat.add_zero o)]; rfl
    | succ k => rw [← Nat.add_assoc, Nat.add_right_comm, ih _ _ (Nat.lt_of_succ_lt_succ h)]; rfl

/-- Bytes written are read back. -/
theorem Team.stashRead_stashWrite : (tm.stashWrite o bs).stashRead o bs.length = bs := by
  refine List.ext_getElem (by simp [Team.stashRead]) fun k _ hk => ?_
  simp only [Team.stashRead_eq, List.getElem_map, List.getElem_range]
  exact Team.stashWrite_at_inside tm o bs hk

/-- Bytes beside those written are as they were. -/
theorem Team.stashRead_stashWrite_outside {a n : Nat} (h : a + n ≤ o ∨ o + bs.length ≤ a) :
    (tm.stashWrite o bs).stashRead a n = tm.stashRead a n := by
  refine List.map_congr_left fun k hk => ?_
  rw [List.mem_range] at hk
  exact Team.stashWrite_at_outside tm o bs (by omega)
end

/-! ## Bytes put into a byte string -/

section
variable {bs x : List Byte} {o : Nat}

theorem putBytes_length (h : o + x.length ≤ bs.length) : (putBytes bs o x).length = bs.length := by
  simp only [putBytes, List.length_append, List.length_take, List.length_drop]
  omega

theorem putBytes_getElem?_outside {k : Nat} (h : o + x.length ≤ bs.length) (hk : k < o ∨ o + x.length ≤ k) :
    (putBytes bs o x)[k]? = bs[k]? := by
  have front : (bs.take o ++ x).length = o + x.length := by
    rw [List.length_append, List.length_take, Nat.min_eq_left (by omega)]
  unfold putBytes
  rcases hk with hk | hk
  · rw [List.append_assoc, List.getElem?_append_left (by rw [List.length_take]; omega), List.getElem?_take_of_lt hk]
  · rw [List.getElem?_append_right (by omega), front, List.getElem?_drop, Nat.add_sub_cancel' hk]

/-- The number that a field holds after its bytes have been put there. -/
theorem leAt_putBytes (h : o ≤ bs.length) : leAt (putBytes bs o x) o x.length = leNat x := by
  have before : (bs.take o).length = o := List.length_take_of_le h
  rw [leAt, putBytes, List.append_assoc, List.drop_left' before, List.take_left]

theorem leNat_lt (bs : List Byte) : leNat bs < 256 ^ bs.length := by
  induction bs with
  | nil => exact Nat.one_pos
  | cons b bs ih =>
    have hb : b.toNat < 256 := b.isLt
    rw [leNat, List.length_cons, Nat.pow_succ]
    omega

theorem leAt_lt (bs : List Byte) (o n : Nat) : leAt bs o n < 256 ^ n :=
  Nat.lt_of_lt_of_le (leNat_lt _) (Nat.pow_le_pow_right (by decide) (List.length_take_le ..))
end

/-! ## The amax ring (R208, R209) -/

/-- QSCALE changes the ring under `.adv` alone: HEAD moves on and its slot is cleared (R209). -/
theorem qscaleRing_ring (r : List Byte) (mod : Nat) :
    (qscaleRing r mod).2.2 =
      let h := (leAt r 64 4 + 1) % 16
      if mod / 8 % 2 = 1 then putBytes (putBytes r 64 (toLe 4 h)) (4 * h) [0, 0, 0, 0] else r := by
  unfold qscaleRing
  dsimp only

section
variable {r : List Byte} (hr : r.length = 128) (m : Nat)
include hr

theorem head_fits : 4 * (leAt r 64 4 % 16) + (toLe 4 (Nat.max (leAt r (4 * (leAt r 64 4 % 16)) 4) m)).length ≤ r.length := by
  rw [toLe_length, hr]
  omega

theorem amaxFold_length : (amaxFold r m).length = 128 := (putBytes_length (head_fits hr m)).trans hr

/-- The slot at HEAD holds the larger of its value and the new one. -/
theorem amaxFold_slot (hm : m < 2 ^ 32) :
    leAt (amaxFold r m) (4 * (leAt r 64 4 % 16)) 4 = Nat.max (leAt r (4 * (leAt r 64 4 % 16)) 4) m := by
  have put := leAt_putBytes (x := toLe 4 (Nat.max (leAt r (4 * (leAt r 64 4 % 16)) 4) m)) (Nat.le_of_add_right_le (head_fits hr m))
  rw [leNat_toLe, toLe_length] at put
  exact put.trans (Nat.mod_eq_of_lt (Nat.max_lt.mpr ⟨leAt_lt r _ 4, hm⟩))

/-- Every other byte of the ring is as it was. -/
theorem amaxFold_outside {k : Nat} (hk : k < 4 * (leAt r 64 4 % 16) ∨ 4 * (leAt r 64 4 % 16) + 4 ≤ k) : (amaxFold r m)[k]? = r[k]? :=
  putBytes_getElem?_outside (head_fits hr m) (by rwa [toLe_length])

theorem qscaleRing_length (mod : Nat) : (qscaleRing r mod).2.2.length = 128 := by
  have head : (putBytes r 64 (toLe 4 ((leAt r 64 4 + 1) % 16))).length = 128 :=
    (putBytes_length (by rw [toLe_length, hr]; decide)).trans hr
  rw [qscaleRing_ring]
  dsimp only
  split
  · refine (putBytes_length ?_).trans head
    rw [head, List.length_cons, List.length_cons, List.length_cons, List.length_singleton]
    omega
  · exact hr
end

theorem qscaleRing_unchanged (r : List Byte) {mod : Nat} (h : mod / 8 % 2 = 0) : (qscaleRing r mod).2.2 = r := by
  rw [qscaleRing_ring]
  exact if_neg (by omega)

end Sys2Proof.Machine
end

section
/-! SUPPORT. What the memory hierarchy leaves of teams: their waves and the bytes of their stashes, whatever it does to mappings, lines,
requests and pages (R70, R266, R270, R402). -/

namespace Sys2Proof.Machine

/-- A state in which every team has the waves and the stash bytes that it had. -/
structure State.KeepsTeams (s t : State) : Prop where
  teams : ∀ u, (t.teams.get? u).map (fun tm => (tm.waves, tm.stash)) = (s.teams.get? u).map fun tm => (tm.waves, tm.stash)

/-- A state in which every team has the stash bytes that it had. -/
structure State.KeepsStash (s t : State) : Prop where
  stash : ∀ u, (t.teams.get? u).map Team.stash = (s.teams.get? u).map Team.stash

section
variable {s t u : State}

theorem State.KeepsTeams.refl (s : State) : s.KeepsTeams s := ⟨fun _ => rfl⟩

theorem State.KeepsTeams.trans (h : s.KeepsTeams t) (k : t.KeepsTeams u) : s.KeepsTeams u := ⟨fun x => (k.teams x).trans (h.teams x)⟩

theorem State.KeepsTeams.ite {p : Prop} [Decidable p] (h : s.KeepsTeams t) (k : s.KeepsTeams u) : s.KeepsTeams (if p then t else u) := by
  split
  · exact h
  · exact k

theorem State.KeepsTeams.foldl {α : Type} (f : State → α → State) (hf : ∀ (s : State) (a : α), s.KeepsTeams (f s a)) (l : List α)
    (s : State) : s.KeepsTeams (l.foldl f s) := by
  induction l generalizing s with
  | nil => exact .refl s
  | cons a l ih => exact (hf s a).trans (ih _)

theorem State.KeepsTeams.of_teams (h : t.teams = s.teams) : s.KeepsTeams t := ⟨fun _ => by rw [h]⟩

theorem State.KeepsTeams.wave? (h : s.KeepsTeams t) (x w : Nat) : t.wave? x w = s.wave? x w := by
  have e := h.teams x
  unfold State.wave?
  cases hs : s.teams.get? x with
  | none => rw [hs] at e; rw [Option.map_eq_none_iff.mp e]
  | some tm =>
    rw [hs] at e
    obtain ⟨tm', ht, same⟩ := Option.map_eq_some_iff.mp e
    rw [ht]
    exact congrArg (fun p => p.1.get? w) same

theorem State.KeepsTeams.stash (h : s.KeepsTeams t) : s.KeepsStash t where
  stash x := by
    have e := congrArg (Option.map Prod.snd) (h.teams x)
    rwa [Option.map_map, Option.map_map] at e

theorem State.KeepsStash.refl (s : State) : s.KeepsStash s := ⟨fun _ => rfl⟩

theorem State.KeepsStash.trans (h : s.KeepsStash t) (k : t.KeepsStash u) : s.KeepsStash u := ⟨fun x => (k.stash x).trans (h.stash x)⟩

theorem State.KeepsStash.of_teams (h : t.teams = s.teams) : s.KeepsStash t := (State.KeepsTeams.of_teams h).stash

theorem State.KeepsStash.foldl {α : Type} (f : State → α → State) (hf : ∀ (s : State) (a : α), s.KeepsStash (f s a)) (l : List α)
    (s : State) : s.KeepsStash (l.foldl f s) := by
  induction l generalizing s with
  | nil => exact .refl s
  | cons a l ih => exact (hf s a).trans (ih _)

/-- A team that is there is still there, with its stash. -/
theorem State.KeepsStash.team (h : s.KeepsStash t) {x : Nat} {tm : Team} (ht : s.teams.get? x = some tm) :
    ∃ tm', t.teams.get? x = some tm' ∧ tm'.stash = tm.stash := by
  have e := h.stash x
  rw [ht] at e
  exact Option.map_eq_some_iff.mp e
end

section
variable (s : State)

theorem State.KeepsTeams.modTeam (x : Nat) (f : Team → Team) (hw : ∀ tm, (f tm).waves = tm.waves) (hs : ∀ tm, (f tm).stash = tm.stash) :
    s.KeepsTeams (s.modTeam x f) := by
  constructor
  intro y
  by_cases e : y = x
  · subst e
    rw [State.modTeam_get?_same]
    cases s.teams.get? y with
    | none => rfl
    | some tm => simp only [Option.map_some, hw, hs]
  · rw [State.modTeam_get?_other _ _ _ _ e]

theorem State.KeepsStash.modTeam (x : Nat) (f : Team → Team) (hs : ∀ tm, (f tm).stash = tm.stash) : s.KeepsStash (s.modTeam x f) := by
  constructor
  intro y
  by_cases e : y = x
  · subst e
    rw [State.modTeam_get?_same]
    cases s.teams.get? y with
    | none => rfl
    | some tm => simp only [Option.map_some, hs]
  · rw [State.modTeam_get?_other _ _ _ _ e]

theorem Team.modWave_stash (tm : Team) (w : Nat) (f : Wave → Wave) : (tm.modWave w f).stash = tm.stash := by
  unfold Team.modWave
  split <;> rfl

theorem State.KeepsStash.modWave (x w : Nat) (f : Wave → Wave) : s.KeepsStash (s.modWave x w f) :=
  .modTeam s x _ fun tm => tm.modWave_stash w f

theorem State.KeepsTeams.modCore (k : Nat) (f : Core → Core) : s.KeepsTeams (s.modCore k f) := .of_teams rfl

theorem State.KeepsTeams.modSlice (k : Nat) (f : Slice → Slice) : s.KeepsTeams (s.modSlice k f) := .of_teams rfl

/-! ## Messages and requests -/

theorem State.KeepsTeams.sendReq (core : Nat) (asker : Asker) (dom : Dom) (line key : Nat) (kind : ReqKind) (tm : Terms) (h : Bool) :
    s.KeepsTeams (s.sendReq core asker dom line key kind tm h).1 := by
  unfold State.sendReq
  split <;> exact .of_teams rfl

theorem State.KeepsTeams.sendAtoms (core n : Nat) : s.KeepsTeams (s.sendAtoms core n) := by
  induction n generalizing s with
  | zero => exact .refl s
  | succ n ih =>
    unfold State.sendAtoms
    split
    · exact .refl s
    · refine .ite (.refl s) (.trans (.trans ?_ (.modCore _ _ _)) (ih _))
      split
      · exact .sendReq ..
      · exact .of_teams rfl
      · exact .refl s

/-! ## Lines of home slices (R268) -/

theorem State.KeepsTeams.noteQcmd (pa : Nat) (m : BitVec 64) : s.KeepsTeams (s.noteQcmd pa m) := by
  unfold State.noteQcmd
  exact .ite (.of_teams rfl) (.refl s)

theorem State.KeepsTeams.spillLine (k line net : Nat) (tm : Terms) : s.KeepsTeams (s.spillLine k line net tm) := by
  unfold State.spillLine
  split
  · exact .refl s
  · dsimp only
    refine .trans ?_ (.modSlice ..)
    exact .ite (.refl s) (.of_teams rfl)

theorem State.KeepsTeams.sliceRoom (k line net : Nat) (tm : Terms) : s.KeepsTeams (s.sliceRoom k line net tm) := by
  unfold State.sliceRoom
  refine .ite (.refl s) ?_
  split
  · exact .spillLine ..
  · exact .refl s

theorem State.KeepsTeams.storeSector (pa key : Nat) (x : Sector) (m : BitVec 64) : s.KeepsTeams (s.storeSector pa key x m) := by
  obtain ⟨a, bs, e⟩ := s.storeSector_writes pa key x m
  rw [e]
  exact .of_teams rfl

theorem State.KeepsTeams.mergeSector (pa key : Nat) (x : Sector) (m : BitVec 64) (net : Nat) (tm : Terms) :
    s.KeepsTeams (s.mergeSector pa key x m net tm) := by
  unfold State.mergeSector
  refine (State.KeepsTeams.noteQcmd s pa m).trans ?_
  dsimp only
  split
  · exact .storeSector ..
  · refine .trans ?_ (.modSlice ..)
    exact .sliceRoom ..

theorem State.KeepsTeams.mergeBytes (pa key : Nat) (bs : List Byte) (net : Nat) (tm : Terms) :
    s.KeepsTeams (s.mergeBytes pa key bs net tm) := .foldl _ (fun s _ => .mergeSector s ..) _ s

/-! ## Pages and translations (R70, R266) -/

theorem State.KeepsTeams.freeBytes (n : Nat) : s.KeepsTeams (s.freeBytes n).1 := by
  induction n generalizing s with
  | zero => exact .refl s
  | succ n ih => exact .trans (t := s.fresh.2) (.of_teams rfl) (ih _)

theorem State.KeepsTeams.undefinePage (x va : Nat) : s.KeepsTeams (s.undefinePage x va) := by
  unfold State.undefinePage
  split
  · exact .refl s
  · split
    · exact .refl s
    · split
      · exact .ite (.trans (.trans (.freeBytes s _) (.mergeBytes ..)) (.modTeam _ _ _ (fun _ => rfl) fun _ => rfl)) (.refl s)
      · exact .refl s

theorem State.KeepsTeams.fillTlb (ctx core va : Nat) : s.KeepsTeams (s.fillTlb ctx core va) := by
  unfold State.fillTlb
  split
  · exact .ite (.refl s) (.modCore ..)
  · exact .refl s

theorem State.KeepsTeams.fillTlbs (i : Iss) (as : List LaneAcc) : s.KeepsTeams (s.fillTlbs i as) :=
  .trans (.foldl _ (fun s _ => .foldl _ (fun s _ => .undefinePage s ..) _ s) _ s)
    (.foldl _ (fun s _ => .foldl _ (fun s _ => .fillTlb s ..) _ s) _ _)

/-! ## Mapped stash ranges (R270-R272) -/

theorem State.KeepsTeams.commitOf (ts : List Nat) : s.KeepsTeams (s.commitOf ts) :=
  .foldl (fun s x => s.modTeam x fun tm => { tm with fvc := true }) (fun s _ => .modTeam s _ _ (fun _ => rfl) fun _ => rfl) ts s

theorem State.KeepsTeams.failWriteBack (x : Nat) (tm : Team) (ln : Launch) (va : Nat) (a : Acc) :
    s.KeepsTeams (s.failWriteBack x tm ln va a) := by
  unfold State.failWriteBack
  split
  · exact .refl s
  · exact .ite (.refl s) (.of_teams rfl)
  · exact .of_teams rfl

theorem State.KeepsTeams.cleanStash (x osec : Nat) (drop : Bool) (terms : Terms) : s.KeepsTeams (s.cleanStash x osec drop terms) := by
  unfold State.cleanStash
  split
  · exact .refl s
  · split
    · have kept (u : State) (core sec : Nat) (f : Option MapSec → Option MapSec) :
          u.KeepsTeams ((if drop then u.modCore core fun c => c.dropSectorReuse sec else u).modTeam x fun tm => tm.setMapSec osec f) :=
        .trans (.ite (.modCore ..) (.refl u)) (.modTeam _ _ _ (fun _ => rfl) fun _ => rfl)
      refine .ite (kept ..) (.ite (.refl s) ?_)
      split
      · refine .trans (.trans (.trans (.foldl _ (fun s d => ?_) _ s) (.commitOf ..)) (kept ..)) (.modCore ..)
        exact .ite (.refl s) (.trans (.sendReq s ..) (.modCore ..))
      · exact .failWriteBack ..
    · exact .refl s

theorem State.KeepsTeams.releaseStash (i : Iss) : s.KeepsTeams (s.releaseStash i) := by
  unfold State.releaseStash State.cleanTeamStash
  refine .ite ?_ (.refl s)
  split
  · exact .foldl _ (fun s _ => .cleanStash s ..) _ s
  · exact .refl s

theorem State.KeepsTeams.endReuse (core : Nat) (ps : List Place) : s.KeepsTeams (s.endReuse core ps) := by
  refine .foldl _ (fun s p => ?_) _ s
  split
  · exact .modCore ..
  · exact .refl s

theorem State.KeepsTeams.stashTouched (x o n : Nat) : s.KeepsTeams (s.stashTouched x o n) := by
  unfold State.stashTouched
  split
  · exact .refl s
  · exact .ite (.refl s) (.modCore ..)

/-! ## The start of an operation -/

theorem State.KeepsTeams.dropProbes (x w core : Nat) : s.KeepsTeams (s.dropProbes x w core) := .of_teams (s.dropProbes_teams x w core)

/-- What an atomic or ring operation does before it is performed (R271, R145, R89). -/
theorem State.KeepsTeams.beforeAtomic (i : Iss) (ps : List Piece) : s.KeepsTeams (s.beforeAtomic i ps) := by
  have unfilled : s.KeepsTeams (ps.foldl (fun s p => match p.place with
      | .mapped o _ _ => s.cleanStash i.tid (o / 64) true i.terms
      | _ => s) (s.releaseStash i)) := by
    refine .trans (.releaseStash s i) (.foldl _ (fun s p => ?_) _ _)
    split
    · exact .cleanStash ..
    · exact .refl s
  unfold State.beforeAtomic
  exact .trans (.trans unfilled (.endReuse ..)) (.ite (.modTeam _ _ _ (fun _ => rfl) fun _ => rfl) (.refl _))

theorem State.KeepsStash.channelWake : s.KeepsStash s.channelWake := by
  refine .foldl _ (fun s t => ?_) _ s
  split
  · exact .refl s
  · refine .foldl _ (fun s w => ?_) _ s
    split
    · exact .modWave ..
    · exact .refl s

theorem State.KeepsStash.ends (i : Iss) : s.KeepsStash (i.ends s) := by
  have woken : s.KeepsStash (i.wakes s) := by
    unfold Iss.wakes
    split
    · exact .refl s
    · exact .channelWake s
  exact woken.trans (.of_teams rfl)

theorem State.KeepsStash.issuedNext (i : Iss) (hz : List Hazard) : s.KeepsStash (s.issuedNext i hz) :=
  .trans (.modTeam s i.tid (fun tm =>
    { tm.modWave i.wid fun w => (w.advancePcs i).issued i s.time (s.cycleOf i.team.core) hz with started := true })
    fun tm => tm.modWave_stash ..) (.of_teams rfl)

theorem State.KeepsStash.beginOp (i : Iss) (o : Op) : s.KeepsStash (s.beginOp i o) := by
  unfold State.beginOp
  exact .trans (t := { s with nextOp := s.nextOp + 1 }) (.of_teams rfl) (.trans (.modWave ..) (.issuedNext ..))

theorem State.KeepsStash.beginMem (i : Iss) (o : Op) : s.KeepsStash (s.beginMem i o) := by
  have begun := (State.KeepsTeams.dropProbes s i.tid i.wid i.team.core).stash.trans (.beginOp _ i o)
  unfold State.beginMem
  dsimp only
  split
  · exact begun.trans (.modWave ..)
  · exact begun
end

end Sys2Proof.Machine
end

section
/-! SUPPORT. AMAXR and QSCALE (R230, R231): the operation that they start, and what happens at once to a ring in the stash. -/

namespace Sys2Proof.Machine

/-- A memory operation has begun on a state in which the subset's wave is that at issue, whatever then leaves the core. -/
theorem Iss.Begins.of_beginMem {t u : State} {i : Iss} {o : Op} (wave : t.wave? i.tid i.wid = some i.wave)
    (left : (t.beginMem i o).KeepsTeams u) : i.Begins (i.ends u) o := by
  refine .of_wave (((State.KeepsTeams.dropProbes t i.tid i.wid i.team.core).wave? i.tid i.wid).trans wave) fun w hw => ?_
  have begun : ∃ w', (t.beginMem i o).wave? i.tid i.wid = some w' ∧ w.SameButWaits w' := by
    unfold State.beginMem
    dsimp only
    split
    · rw [State.wave?_modWave_same, hw]
      exact ⟨_, rfl, rfl⟩
    · exact ⟨w, hw, rfl⟩
  obtain ⟨w₁, hw₁, same₁⟩ := begun
  obtain ⟨w₂, hw₂, same₂⟩ := i.ends_wave ((left.wave? i.tid i.wid).trans hw₁)
  exact ⟨w₂, hw₂, same₁.trans same₂⟩

/-- Matrix, memory and other late instructions pop their sources when they retire (R104). -/
theorem State.popSources_late (s : State) {i : Iss} (hl : i.late = true) : s.popSources i = s := if_pos hl

/-- What a ring operation does at once: to a ring at an unmapped stash offset, its effect, with the value and NV that it answers. -/
def Iss.ringAtOnce (i : Iss) (s : State) (pl : Place) (r : List Byte → Nat × Bool × List Byte) : State × List (Nat × Nat × List Byte) :=
  match pl with
  | .stash o =>
    let x := r ((s.teams.get? i.tid).elim [] fun t => t.stashRead o 128)
    ((s.modTeam i.tid fun t => t.stashWrite o x.2.2).stashTouched i.tid o 128, [(0, 0, toLe 4 x.1 ++ [if x.2.1 then 1 else 0])])
  | _ => (s, [])

theorem Iss.ringAtOnce_sameWaves (i : Iss) (s : State) (pl : Place) (r : List Byte → Nat × Bool × List Byte) :
    s.SameWaves (i.ringAtOnce s pl r).1 := by
  unfold Iss.ringAtOnce
  split
  · exact .trans (.modTeam _ _ _ fun tm => tm.stashWrite_waves ..) (.stashTouched ..)
  · exact .refl s

/-- A ring in the stash is what its effect makes of its bytes. -/
theorem Iss.ringAtOnce_stash {i : Iss} {s : State} {tm : Team} (ht : s.teams.get? i.tid = some tm) (off : Nat)
    (r : List Byte → Nat × Bool × List Byte) :
    let y := r (tm.stashRead off 128)
    (i.ringAtOnce s (.stash off) r).2 = [(0, 0, toLe 4 y.1 ++ [if y.2.1 then 1 else 0])] ∧
      ∃ tm', (i.ringAtOnce s (.stash off) r).1.teams.get? i.tid = some tm' ∧ tm'.stash = (tm.stashWrite off y.2.2).stash := by
  simp only [Iss.ringAtOnce, ht, Option.elim_some]
  refine ⟨trivial, (State.KeepsTeams.stashTouched _ i.tid off 128).stash.team ?_⟩
  rw [State.modTeam_get?_same, ht]
  rfl

section
variable {opc : Nat} {f : Form} {s : State} {i : Iss} {as : List LaneAcc} {ps : List Piece}

/-- The state in which a ring operation is performed, after all that comes before it. -/
def Iss.ringState (i : Iss) (s : State) (as : List LaneAcc) (ps : List Piece) : State := (s.fillTlbs i as).beforeAtomic i ps

theorem Iss.ringState_keeps : s.KeepsTeams (i.ringState s as ps) := .trans (.fillTlbs s i as) (.beforeAtomic _ i ps)

/-- The place of the ring. -/
def ringPlace (ps : List Piece) : Place := ps.head?.elim (.stash 0) Piece.place

/-- The pieces of a ring operation: those of the ring, for every active lane. -/
def Iss.ringPieces (i : Iss) (ps : List Piece) : List Piece := (maskLanes i.act).flatMap fun l => ps.map fun p => { p with lane := l }

/-- The operation of AMAXR and QSCALE, for every active lane (R230, R231). -/
def Iss.ringBegun (i : Iss) (x : State × List (Nat × Nat × List Byte)) (ps : List Piece) (need : Nat) (digest : List (List Byte)) : Op :=
  { i.memOp x.1 (.ring (i.opc == 0x1D1)) (i.ringPieces ps) with need := need, got := x.2, regs := i.dstRegs, digest := digest }

/-- What a ring operation contributes to the digest (R413). -/
def Iss.ringDigest (i : Iss) (ea : Nat) (dig : Option (Nat × W64)) : List (List Byte) :=
  match dig, i.digestAddr ea with
  | some (op, v), some d => [digestMsg d 1 4 op v]
  | _, _ => []

/-- A ring operation that its checks let pass and nothing holds begins, and its request waits at the core. -/
theorem ringOp_eq (ha : i.ringAccess s = .ok (as, ps)) (hw : i.atomicWait (s.fillTlbs i as) as (i.ringPieces ps) = none)
    (hl : i.late = true) (home : Nat → ReqKind) (link : Nat → Nat → Nat → Nat → LinkBody) (r : List Byte → Nat × Bool × List Byte)
    (dig : Option (Nat × W64)) :
    let x := i.ringAtOnce (i.ringState s as ps) (ringPlace ps) r
    let ea := i.ea (s.fillTlbs i as) (lowest i.act)
    let reqs := i.ringRequest x.1.nextOp ea (ringPlace ps) home link
    i.ringOp s home link r dig = .done (((x.1.beginMem i (i.ringBegun x ps reqs.length (i.ringDigest ea dig))).modCore i.team.core
      fun c => { c with atomsUnsent := c.atomsUnsent ++ reqs }).sendAtoms i.team.core 64) := by
  unfold Iss.ringPieces at hw
  simp only [Iss.ringOp, ha, hw, State.popSources_late _ hl]
  rfl

/-- What a team's stash holds after a ring has been written back to it. -/
theorem Team.stash_after_ring {tm tm' : Team} {off : Nat} {ring : List Byte} (h : tm'.stash = (tm.stashWrite off ring).stash)
    (hr : ring.length = 128) : tm'.stashRead off 128 = ring ∧
      ∀ a n, a + n ≤ off ∨ off + 128 ≤ a → tm'.stashRead a n = tm.stashRead a n := by
  refine ⟨?_, fun a n out => ?_⟩
  · rw [Team.stashRead_congr h, ← hr, Team.stashRead_stashWrite]
  · rw [Team.stashRead_congr h, Team.stashRead_stashWrite_outside _ _ _ (by rwa [hr])]

/-- A ring operation starts, counted in MEM and for every active lane; a ring at an unmapped stash offset has changed as `r` says, which
also gives the answer (R208, R209). -/
def Iss.RingStarts (i : Iss) (s : State) (f : Form) (ps : List Piece) (ins : Instr) (q : Bool) (r : List Byte → Nat × Bool × List Byte) :
    Prop :=
  ∃ u o, exec ins s = .next u ∧ i.Begins u o ∧ o.kind = .ring q ∧ o.counted = some 0 ∧ o.lanes = i.act ∧ o.dst = f.dst ∧
    ∀ off va, ps = [⟨lowest i.act, 0, 128, .stash off, va⟩] →
      ∃ tm, u.teams.get? i.tid = some tm ∧
        let x := r (i.team.stashRead off 128)
        o.need = 0 ∧ o.got = [(0, 0, toLe 4 x.1 ++ [if x.2.1 then 1 else 0])] ∧
        (x.2.2.length = 128 → tm.stashRead off 128 = x.2.2 ∧
          ∀ a n, a + n ≤ off ∨ off + 128 ≤ a → tm.stashRead a n = i.team.stashRead a n)

theorem ringOp_starts {ins : Instr} {body : Iss → Eff} {home : Nat → ReqKind} {link : Nat → Nat → Nat → Nat → LinkBody}
    {r : List Byte → Nat × Bool × List Byte} {dig : Option (Nat × W64)} (h : Executes opc f s i) (he : exec ins s = issue opc f s body)
    (hb : body i = i.ringOp s home link r dig) (hl : classOf opc = .v) (ha : i.ringAccess s = .ok (as, ps))
    (hw : i.atomicWait (s.fillTlbs i as) as (i.ringPieces ps) = none) : i.RingStarts s f ps ins (opc == 0x1D1) r := by
  obtain rfl := h.form
  obtain rfl := h.opcode
  have done := ringOp_eq ha hw (beq_iff_eq.mpr hl) home link r dig
  have wave := (((i.ringAtOnce_sameWaves (i.ringState s as ps) (ringPlace ps) r).waves i.tid i.wid).trans
    (Iss.ringState_keeps.wave? i.tid i.wid)).trans h.wave
  have left (t : State) (g : Core → Core) : t.KeepsTeams ((t.modCore i.team.core g).sendAtoms i.team.core 64) :=
    .trans (.modCore ..) (.sendAtoms ..)
  refine ⟨_, _, he.trans (issue_done h (hb.trans done)), .of_beginMem wave (left _ _), rfl, rfl, rfl, rfl, ?_⟩
  rintro off va rfl
  obtain ⟨tm₁, ht₁, same₁⟩ := (Iss.ringState_keeps (as := as) (ps := [⟨lowest i.act, 0, 128, .stash off, va⟩])).stash.team h.team
  obtain ⟨got, tm₂, ht₂, same₂⟩ := Iss.ringAtOnce_stash ht₁ off r
  obtain ⟨tm₃, ht₃, same₃⟩ := (((State.KeepsStash.beginMem _ i _).trans (left _ _).stash).trans (.ends _ i)).team ht₂
  rw [Team.stashRead_congr same₁] at got same₂
  have after := (same₃.trans same₂).trans (Team.stashWrite_congr same₁ ..)
  exact ⟨tm₃, ht₃, rfl, got, Team.stash_after_ring after⟩

theorem amaxr_starts (h : Executes 0x1D0 f s i) (ht : i.checkTag 3 i.act (i.srcB s) [f.mod.toNat - 9 + 1] = none)
    (ha : i.ringAccess s = .ok (as, ps)) (hw : i.atomicWait (s.fillTlbs i as) as (i.ringPieces ps) = none) :
    let m := (maskLanes i.act).foldl (fun acc l => Nat.max acc (amaxLane (f.mod.toNat - 9) (lane32 (i.srcB s) l))) 0
    i.RingStarts s f ps (.amaxr f) false fun r => (m, false, amaxFold r m) := by
  obtain rfl := h.form
  intro m
  have he : exec (.amaxr i.f) s = execAmaxr i.f s := rfl
  exact ringOp_starts h he (by dsimp only; rw [ht]) rfl ha hw

theorem qscale_starts (h : Executes 0x1D1 f s i) (ha : i.ringAccess s = .ok (as, ps))
    (hw : i.atomicWait (s.fillTlbs i as) as (i.ringPieces ps) = none) :
    i.RingStarts s f ps (.qscale f) true fun r => qscaleRing r f.mod.toNat := by
  obtain rfl := h.form
  have he : exec (.qscale i.f) s = execQscale i.f s := rfl
  exact ringOp_starts h he rfl rfl ha hw
end

end Sys2Proof.Machine
end

section
/-! PROOFS. The amax ring (R230, R231). -/

namespace Sys2Proof.Machine

/-- Settles O34: both instructions start through one ring operation, which changes a ring in the stash at once. -/
theorem ringOperationsStart : Obligations.RingOperationsStart := by
  intro f s i as ps all goes m starts
  have started {ins : Instr} {q : Bool} {r : List Byte → Nat × Bool × List Byte} (h : i.RingStarts s f ps ins q r) : starts ins q r := by
    obtain ⟨u, o, next, begins, kind, counted, lanes, dst, atStash⟩ := h
    exact ⟨u, o, next, begins, kind, counted, lanes, dst, fun off va hp _ _ => atStash off va hp⟩
  refine ⟨fun h ht go => started (amaxr_starts h ht go.1 go.2), fun h go => ?_,
    fun r hr => ⟨amaxFold_length hr m, amaxFold_slot hr m, fun k _ => amaxFold_outside hr m, qscaleRing_length hr _, qscaleRing_unchanged r⟩⟩
  have start := qscale_starts h go.1 go.2
  -- The ring's effect under a name of its own, which the elaborator does not evaluate.
  generalize (fun r => qscaleRing r f.mod.toNat) = effect at start ⊢
  exact started start

end Sys2Proof.Machine
end

section
/-! SUPPORT. Matrix operations (R241-R254): the vectors of D element by element, the operation that MMA, MMAQ and SCRD start, and what FRAGX
and ACCCVT retire with. -/

namespace Sys2Proof.Machine

/-! ## Elements of D (R243, R244) -/

/-- The rows that an MMA or MMAQ computes: the active lanes, under its row predicate (R243). -/
def Iss.mmaRows (i : Iss) (s : State) : Mask :=
  let rowp := bits (i.f.ext.getD 0) 0 4
  if rowp = 0 then i.act else i.act &&& i.readPred s (rowp - 1)

/-- The element of C that an accumulation begins with: 0 under `.z`. -/
def Iss.mmaC (i : Iss) (s : State) (m n : Nat) : Nat :=
  if decide (16 ≤ i.f.mod.toNat) then 0 else ((vec1 (i.srcC s) n).val m).toNat

theorem mmaResult_length (i : Iss) (s : State) (el : Nat → Nat → Nat → Nat × Flg) : (mmaResult i s el).1.length = 8 := by
  simp [mmaResult]

/-- A row that is not selected passes C through. -/
theorem mmaResult_lane (i : Iss) (s : State) (el : Nat → Nat → Nat → Nat × Flg) {m n : Nat} (hm : m < 32) (hn : n < 8) :
    ((mmaResult i s el).1.getD n Vec.zero).lane m =
      ⟨BitVec.ofNat 32 (if (i.mmaRows s).getLsbD m then (el (i.mmaC s m n) m n).1 else i.mmaC s m n), 12⟩ := by
  simp [mmaResult, Iss.mmaRows, Iss.mmaC, Vec.lane, lanes32, hm, hn, apply_ite Prod.fst]

/-- An integer element is the sum of its products modulo 2^32 (R244). -/
theorem mmaInt_eq (t : Nat) (act : Mask) (a b : List Vec) (cv m n : Nat) :
    let w := mmaWidth t
    let signed (b : Bool) (x : Nat) : Int := if b then sInt w x else (x : Int)
    mmaInt t act a b cv m n = (((List.range (256 / w)).foldl (fun (acc : Int) k =>
      acc + signed (t % 3 != 1) (elemA w a m k) * signed (t % 3 == 0) (elemB w act b k n)) (cv : Int)) % 2 ^ 32).toNat :=
  BitVec.toNat_ofInt ..

/-! ## MMA, MMAQ and SCRD (R243, R248, R251, R254) -/

section
variable {opc : Nat} {f : Form} {s : State} {i : Iss}

/-- Check 7 passes on blocks with the tags that the type requires. -/
theorem mmaCheck_none {ta tb : Nat} (ha : i.checkTag 2 i.act (i.srcA s) (List.replicate 8 ta) = none)
    (hb : i.checkTag 3 i.act (i.srcB s) [tb, tb] = none)
    (hc : decide (16 ≤ i.f.mod.toNat) = false → i.checkTag 4 i.act (i.srcC s) (List.replicate 8 12) = none) : mmaCheck i s ta tb = none := by
  have c : (if 16 ≤ i.f.mod.toNat then none else i.checkTag 4 i.act (i.srcC s) (List.replicate 8 12)) = none :=
    ite_eq_left_iff.mpr fun z => hc (decide_eq_false z)
  simp only [mmaCheck, ha, hb, c]
  rfl

/-- An instruction starts a counted operation whose result is these elements in the selected rows, and C in the others. -/
def Iss.MatrixStarts (i : Iss) (s : State) (ins : Instr) (element : Nat → Nat → Nat) : Prop :=
  ∃ u o, exec ins s = .next u ∧ i.Begins u o ∧ o.kind = .matrix ∧ o.counted = some 2 ∧ o.lanes = i.act ∧ o.dst = i.f.dst ∧
    o.vals.length = 8 ∧ ∀ m n, m < 32 → n < 8 → (o.vals.getD n Vec.zero).lane m =
      ⟨BitVec.ofNat 32 (if (i.mmaRows s).getLsbD m then element m n else i.mmaC s m n), 12⟩

theorem matrixOp_starts {ins : Instr} {body : Iss → Eff} {el : Nat → Nat → Nat → Nat × Flg} (h : Executes opc f s i)
    (he : exec ins s = issue opc f s body) (hl : classOf opc = .v)
    (hb : body i = .done ((s.popSources i).beginOp i (mmaOp i s (mmaResult i s el)))) :
    i.MatrixStarts s ins fun m n => (el (i.mmaC s m n) m n).1 := by
  obtain rfl := h.opcode
  rw [State.popSources_late s (beq_iff_eq.mpr hl)] at hb
  exact ⟨_, _, he.trans (issue_done h hb), State.beginOp_begins _ h.wave, rfl, rfl, rfl, rfl, mmaResult_length i s el,
    fun _ _ => mmaResult_lane i s el⟩

theorem mma_starts (h : Executes 0x280 f s i)
    (ht : mmaCheck i s (mmaTags (i.f.mod.toNat % 16)).1 (mmaTags (i.f.mod.toNat % 16)).2 = none) :
    let t := i.f.mod.toNat % 16
    i.MatrixStarts s (.mma f) fun m n => (if t < 6 then mmaFloat t i.act (i.srcA s) (i.srcB s) (i.mmaC s m n) m n
      else (mmaInt t i.act (i.srcA s) (i.srcB s) (i.mmaC s m n) m n, 0)).1 := by
  intro t
  have he : exec (.mma f) s = execMma f s := rfl
  exact matrixOp_starts (el := fun cv m n => if t < 6 then mmaFloat t i.act (i.srcA s) (i.srcB s) cv m n
    else (mmaInt t i.act (i.srcA s) (i.srcB s) cv m n, 0)) h he rfl (by simp only [ht, t])

theorem mmaq_starts (h : Executes 0x281 f s i) (ht : mmaCheck i s 9 9 = none) :
    i.MatrixStarts s (.mmaq f) fun m n => (mmaQn4 i.wave (i.f.ext.getD 0) i.act (i.srcA s) (i.srcB s) (i.mmaC s m n) m n).1 := by
  have he : exec (.mmaq f) s = execMmaq f s := rfl
  exact matrixOp_starts (el := mmaQn4 i.wave (i.f.ext.getD 0) i.act (i.srcA s) (i.srcB s)) h he rfl (by simp only [ht])

theorem scrd_starts (h : Executes 0x289 f s i) :
    ∃ u o, exec (.scrd f) s = .next u ∧ i.Begins u o ∧ o.kind = .result ∧ o.counted = none ∧ o.lanes = i.act ∧ o.dst = f.dst ∧
      o.vals = [Vec.of fun l => ⟨i.wave.window.extractLsb' (8 * (128 * f.mod.toNat + 4 * l)) 32, 0⟩] := by
  obtain rfl := h.form
  have he : exec (.scrd i.f) s = execScrd i.f s := rfl
  exact ⟨_, _, he.trans (issue_done h rfl), State.beginOp_begins _ h.wave, rfl, rfl, rfl, rfl, rfl⟩
end

/-! ## FRAGX and ACCCVT (R252, R253) -/

section
variable {f : Form} {s : State} {i : Iss}

/-- The register that a selector names: its low three bits. -/
theorem fragx_register (x : W32) : x.toNat % 8 = (x.extractLsb' 0 3).toNat := nbits_toNat x 0 3

/-- The source lane that a selector names: bits 8 to 12. -/
theorem fragx_lane (x : W32) : x.toNat / 256 % 32 = (x.extractLsb' 8 5).toNat := by
  rw [← nbits_toNat, nbits, Nat.shiftRight_eq_div_pow]
  rfl

theorem fragx_retires (h : Executes 0x290 f s i) :
    let r (l : Nat) : Nat := ((lane32 (i.srcB s) l).extractLsb' 0 3).toNat
    let src (l : Nat) : Nat := ((lane32 (i.srcB s) l).extractLsb' 8 5).toNat
    exec (.fragx f) s = .next (i.retires s { vecs := [Vec.of fun l =>
      if i.act.getLsbD (src l) then (vec1 (i.srcA s) (r l)).lane (src l) else (vec1 (i.srcA s) (r l)).lane l] }) := by
  have he : exec (.fragx f) s = execFragx f s := rfl
  refine he.trans (issueFixed_vecs h rfl ?_)
  simp only [fragx_register, fragx_lane]

theorem acccvt_retires (h : Executes 0x291 f s i) :
    let mod := f.mod.toNat
    let tags := acccvtTags mod
    let g (l : Nat) : Nat × Flg := (acccvtLane mod (lane32 (i.srcA s) l) (lane32 (i.srcB s) l) (lane32 (i.srcC s) l)).2
    i.checkTags ([(2, i.srcA s, tags.1)] ++ (tags.2.1.map fun t => (3, i.srcB s, t)).toList ++
      (tags.2.2.map fun t => (4, i.srcC s, t)).toList) = none →
    exec (.acccvt f) s = .next (i.retires s
      { vecs := [lanes32.map fun l => ⟨BitVec.ofNat 32 (g l).1, BitVec.ofNat 4 (acccvtLane mod 0 0 0).1⟩]
        flags := lanes32.map fun l => (g l).2 }) := by
  obtain rfl := h.form
  intro mod tags g ht
  have he : exec (.acccvt i.f) s = execAcccvt i.f s := rfl
  exact he.trans (fp_retires (g := g) h rfl ht)
end

end Sys2Proof.Machine
end

section
/-! PROOFS. Matrix instructions (R241-R254). -/

namespace Sys2Proof.Machine

/-- Settles O29: MMA and MMAQ start through one matrix operation, which differs in its elements alone. -/
theorem matrixOperationsStart : Obligations.MatrixOperationsStart := by
  refine ⟨fun f s i => ⟨fun h ⟨ha, hb, hc⟩ float => ?_, fun h ⟨ha, hb, hc⟩ int => ?_, fun h ⟨ha, hb, hc⟩ => ?_, scrd_starts⟩,
    fun f s i => ⟨fragx_retires, acccvt_retires⟩⟩
  · obtain rfl := h.form
    have starts := mma_starts h (mmaCheck_none ha hb hc)
    simp only [if_pos float] at starts
    exact starts
  · obtain rfl := h.form
    have starts := mma_starts h (mmaCheck_none ha hb hc)
    simp only [if_neg (Nat.not_lt.mpr int), mmaInt_eq] at starts
    exact starts
  · obtain rfl := h.form
    exact mmaq_starts h (mmaCheck_none ha hb hc)

end Sys2Proof.Machine
end

section
/-! SUPPORT. What performing a request leaves of the requests that wait at the home slices (R268, R296). -/

namespace Sys2Proof.Machine

/-! ## What slices keep -/

/-- A state in which every slice has what it had, as far as `g` sees. -/
structure State.SlicesKeep {β : Type} (g : Slice → β) (s t : State) : Prop where
  slices : ∀ k, g (t.slice k) = g (s.slice k)

/-- The admitted requests of a slice and its writes that have still to propagate. -/
def Slice.waiting (x : Slice) : List Req × List PendWrite := (x.admitted, x.pend)

section
variable {β : Type} {g : Slice → β} {s t u : State}

theorem State.SlicesKeep.refl (s : State) : s.SlicesKeep g s := ⟨fun _ => rfl⟩

theorem State.SlicesKeep.trans (h : s.SlicesKeep g t) (k : t.SlicesKeep g u) : s.SlicesKeep g u :=
  ⟨fun j => (k.slices j).trans (h.slices j)⟩

theorem State.SlicesKeep.ite {p : Prop} [Decidable p] (h : s.SlicesKeep g t) (k : s.SlicesKeep g u) :
    s.SlicesKeep g (if p then t else u) := by
  split
  · exact h
  · exact k

theorem State.SlicesKeep.foldl {α : Type} (f : State → α → State) (hf : ∀ (s : State) (a : α), s.SlicesKeep g (f s a)) (l : List α)
    (s : State) : s.SlicesKeep g (l.foldl f s) := by
  induction l generalizing s with
  | nil => exact .refl s
  | cons a l ih => exact (hf s a).trans (ih _)

theorem State.SlicesKeep.of_slices (h : t.slices = s.slices) : s.SlicesKeep g t := ⟨fun k => congrArg g (State.slice_congr s t h k)⟩

theorem State.SlicesKeep.modSlice (s : State) (k : Nat) (f : Slice → Slice) (hf : ∀ x, g (f x) = g x) : s.SlicesKeep g (s.modSlice k f) := by
  constructor
  intro j
  by_cases h : j = k
  · subst h
    rw [State.slice_modSlice_same, hf]
  · rw [State.slice_modSlice_other _ _ _ _ h]

theorem State.SlicesKeep.sendMesh (s : State) (r : Nat) (dest : MeshDest) (net source : Nat) (tm : Terms) (msg : Msg) :
    s.SlicesKeep g (s.sendMesh r dest net source tm msg) := .of_slices rfl

theorem State.SlicesKeep.answer (s : State) (k : Nat) (r : Req) (msg : Msg) : s.SlicesKeep g (s.answer k r msg) := by
  unfold State.answer
  split
  · exact .sendMesh ..
  · exact .sendMesh ..
  · exact .refl s
  · exact .sendMesh ..

theorem State.SlicesKeep.noteQcmd (s : State) (pa : Nat) (m : BitVec 64) : s.SlicesKeep g (s.noteQcmd pa m) := by
  unfold State.noteQcmd
  exact .ite (.of_slices rfl) (.refl s)

theorem State.SlicesKeep.admitted (h : s.SlicesKeep Slice.waiting t) (k : Nat) : (t.slice k).admitted = (s.slice k).admitted :=
  congrArg Prod.fst (h.slices k)

theorem State.SlicesKeep.pend (h : s.SlicesKeep Slice.waiting t) (k : Nat) : (t.slice k).pend = (s.slice k).pend :=
  congrArg Prod.snd (h.slices k)
end

/-! ## Requests that wait -/

/-- A state in which the same requests wait at every slice, and the same writes have still to propagate. -/
abbrev State.KeepsWaiting (s t : State) : Prop := s.SlicesKeep Slice.waiting t

section
variable (s : State)

theorem State.KeepsWaiting.spillLine (k line net : Nat) (tm : Terms) : s.KeepsWaiting (s.spillLine k line net tm) := by
  unfold State.spillLine
  split
  · exact .refl s
  · dsimp only
    refine .trans (.ite (.refl s) ?_) (.modSlice _ _ _ fun _ => rfl)
    refine .trans (t := { s with nextUid := s.nextUid + 1 }) (.of_slices rfl) ?_
    refine .trans ?_ (.sendMesh ..)
    exact .modSlice _ _ _ fun _ => rfl

theorem State.KeepsWaiting.sliceRoom (k line net : Nat) (tm : Terms) : s.KeepsWaiting (s.sliceRoom k line net tm) := by
  unfold State.sliceRoom
  refine .ite (.refl s) ?_
  split
  · exact spillLine ..
  · exact .refl s

theorem State.KeepsWaiting.mergeSector (pa key : Nat) (x : Sector) (m : BitVec 64) (net : Nat) (tm : Terms) :
    s.KeepsWaiting (s.mergeSector pa key x m net tm) := by
  unfold State.mergeSector
  refine (State.SlicesKeep.noteQcmd s pa m).trans ?_
  dsimp only
  split
  · obtain ⟨a, bs, e⟩ := (s.noteQcmd pa m).storeSector_writes pa key x m
    rw [e]
    exact .of_slices rfl
  · refine .trans ?_ (.modSlice _ _ _ fun _ => rfl)
    exact sliceRoom ..

theorem State.KeepsWaiting.mergeBytes (pa key : Nat) (bs : List Byte) (net : Nat) (tm : Terms) :
    s.KeepsWaiting (s.mergeBytes pa key bs net tm) := .foldl _ (fun s _ => mergeSector s ..) _ s

theorem State.KeepsWaiting.wakeRegistered (k line off : Nat) (tm : Terms) : s.KeepsWaiting (s.wakeRegistered k line off tm) := by
  unfold State.wakeRegistered
  dsimp only
  refine .trans ?_ (.foldl _ (fun s r => ?_) _ _)
  · exact .modSlice _ _ _ fun _ => rfl
  split
  · exact .sendMesh ..
  · exact .refl s

/-- The effect of a request on its line admits no request, and begins no write. -/
theorem State.KeepsWaiting.applyReq (k : Nat) (r : Req) : s.KeepsWaiting (s.applyReq k r).1 := by
  unfold State.applyReq
  cases r.kind with
  | read m h => exact .refl s
  | write m d => exact .foldl _ (fun s i => .ite (.refl s) (mergeSector s ..)) _ s
  | atom ls isRed =>
    have lanes (acc : State × List (Nat × W64)) : acc.1.KeepsWaiting (ls.foldl (fun (acc : State × List (Nat × W64)) a =>
        let x := acc.1.atomAt (r.line * 256 + a.off) r.key a (netOf r.dom) r.terms
        (x.1, acc.2 ++ [(a.lane, x.2)])) acc).1 := by
      induction ls generalizing acc with
      | nil => exact .refl _
      | cons a ls ih => exact State.SlicesKeep.trans (mergeBytes acc.1 ..) (ih (_, _))
    exact lanes (s, [])
  | amax off m => exact mergeBytes s ..
  | qscale off mod =>
    dsimp only
    refine .ite (.refl s) ?_
    exact mergeBytes s ..
  | bar off op =>
    dsimp only
    refine .trans (.trans (.ite (.refl s) ?_) (.ite ?_ (.refl _))) (.ite (.refl _) (.modSlice _ _ _ fun _ => rfl))
    · exact mergeBytes s ..
    · exact wakeRegistered ..
end

/-- A request taken from those that its slice has admitted. -/
def State.takeReq (s : State) (k : Nat) (r : Req) : State :=
  s.modSlice k fun sl => { sl with admitted := sl.admitted.filter (·.id != r.id) }

@[simp] theorem State.slice_takeReq (s : State) (k : Nat) (r : Req) :
    (s.takeReq k r).slice k = { s.slice k with admitted := (s.slice k).admitted.filter (·.id != r.id) } := State.slice_modSlice_same ..

/-- A performed request has left the slice, and the others wait as before. -/
theorem State.performReq_admitted (s : State) (k : Nat) (r : Req) :
    ((s.performReq k r).slice k).admitted = (s.slice k).admitted.filter (·.id != r.id) := by
  have taken : ((s.takeReq k r).slice k).admitted = (s.slice k).admitted.filter (·.id != r.id) := by rw [State.slice_takeReq]
  rw [← taken]
  unfold State.performReq
  dsimp only
  rw [← State.takeReq]
  generalize s.takeReq k r = t
  have keeps : t.SlicesKeep Slice.admitted (t.applyReq k r).1 := ⟨(State.KeepsWaiting.applyReq t k r).admitted⟩
  refine State.SlicesKeep.slices (g := Slice.admitted) ?_ k
  refine .ite (.trans ?_ (.answer ..)) ?_
  · split
    · exact .trans keeps (.modSlice _ _ _ fun _ => rfl)
    · exact keeps
  · generalize t.copyHolders k r.line r.asker = cores
    generalize t.snoopPorts r.line = links
    have room : t.KeepsWaiting (t.sliceRoom k r.line (netOf r.dom) r.terms) := .sliceRoom ..
    generalize t.sliceRoom k r.line (netOf r.dom) r.terms = v at room
    refine .trans (t := v) ⟨room.admitted⟩ ?_
    have keeps : v.SlicesKeep Slice.admitted (v.applyReq k r).1 := ⟨(State.KeepsWaiting.applyReq v k r).admitted⟩
    refine .ite (.trans keeps (.answer ..)) ?_
    have effect : v.SlicesKeep Slice.admitted (if r.dom == .sc || r.dom == .tso then (v, Msg.ack r) else v.applyReq k r).1 := by
      split
      · exact .refl v
      · exact keeps
    generalize (if r.dom == .sc || r.dom == .tso then (v, Msg.ack r) else v.applyReq k r) = res at effect
    refine .trans (.trans ?_ (.foldl _ (fun s c => .sendMesh s ..) _ _)) (.foldl _ (fun s c => .sendMesh s ..) _ _)
    refine .trans (t := { res.1 with nextUid := v.nextUid + 1 }) (effect.trans (.of_slices rfl)) ?_
    exact .modSlice _ _ _ fun _ => rfl

end Sys2Proof.Machine
end

section
/-! SUPPORT. What the sectors of a line read after a write that its home slice performs (R267, R268). -/

namespace Sys2Proof.Machine

/-! ## Bytes of a sector under a mask -/

theorem Sector.getLsbD_merge (old new : Sector) (m : BitVec 64) {b : Nat} (hb : b < 512) :
    (Sector.merge old new m).getLsbD b = if m.getLsbD (b / 8) then new.getLsbD b else old.getLsbD b := by
  rw [Sector.merge, BitVec.getLsbD_or, BitVec.getLsbD_and, BitVec.getLsbD_and, BitVec.getLsbD_not, byteMask_getLsbD m b hb]
  cases m.getLsbD (b / 8) <;> simp [hb]

@[simp] theorem Sector.merge_zero (old new : Sector) : Sector.merge old new 0 = old := by
  refine BitVec.eq_of_getLsbD_eq fun b hb => ?_
  rw [Sector.getLsbD_merge _ _ _ hb]
  simp

/-- What a sector without bytes gives is what lies under it. -/
@[simp] theorem SliceSector.over_empty (under : Sector) : SliceSector.over ⟨false, 0, 0⟩ under = under := Sector.merge_zero under 0

/-- A write merges into what the sector gives, also when it makes the sector whole. -/
theorem SliceSector.over_write (x : SliceSector) (d : Sector) (m : BitVec 64) (under : Sector) :
    (x.write d m).over under = Sector.merge (x.over under) d m := by
  unfold SliceSector.over SliceSector.write
  cases x.filled with
  | true => rfl
  | false =>
    refine BitVec.eq_of_getLsbD_eq fun b hb => ?_
    have hbyte : b / 8 < 64 := by omega
    cases whole : (x.mask ||| m) == BitVec.allOnes 64 with
    | true =>
      have covered : (x.mask.getLsbD (b / 8) || m.getLsbD (b / 8)) = true := by
        rw [← BitVec.getLsbD_or, beq_iff_eq.mp whole, BitVec.getLsbD_allOnes, decide_eq_true hbyte]
      simp only [Bool.or_true, if_true, Bool.false_eq_true, if_false, Sector.getLsbD_merge _ _ _ hb]
      cases hm : m.getLsbD (b / 8) with
      | true => rfl
      | false => rw [hm, Bool.or_false] at covered; rw [covered]; rfl
    | false =>
      simp only [Bool.or_false, Bool.false_eq_true, if_false, Sector.getLsbD_merge _ _ _ hb, BitVec.getLsbD_or]
      cases m.getLsbD (b / 8) <;> cases x.mask.getLsbD (b / 8) <;> rfl

/-! ## A sector written in a slice -/

/-- Bytes written in a sector that a slice holds, or holds from now on. -/
def Slice.writeSector (sl : Slice) (line sec key : Nat) (x : Sector) (m : BitVec 64) : Slice :=
  let ln := sl.lines.getD line { key := key, sec := [] }
  { sl with lines := sl.lines.set line { ln with sec := ln.sec.set sec ((ln.sec.getD sec ⟨false, 0, 0⟩).write x m) } }

section
variable (sl : Slice) (line sec key : Nat) (x : Sector) (m : BitVec 64)

theorem Slice.cached_writeSector_same :
    (sl.writeSector line sec key x m).cached line sec = some (((sl.cached line sec).getD ⟨false, 0, 0⟩).write x m) := by
  unfold Slice.cached Slice.writeSector
  simp only [AMap.get?_set_same, Option.some.injEq]
  cases h : sl.lines.get? line <;> simp [AMap.getD, AMap.get?, h]

theorem Slice.cached_writeSector_other {i : Nat} (h : i ≠ sec) : (sl.writeSector line sec key x m).cached line i = sl.cached line i := by
  unfold Slice.cached Slice.writeSector
  simp only [AMap.get?_set_same, AMap.get?_set_other _ _ _ _ h]
  cases h : sl.lines.get? line <;> simp [AMap.getD, AMap.get?, h]

theorem AMap.mem_keys_set {α : Type} (t : AMap α) (k : Nat) (a : α) : k ∈ (t.set k a).map Prod.fst := by
  induction t with
  | nil => exact .head _
  | cons e t ih =>
    unfold AMap.set
    split
    · exact .head _
    · split
      · exact .head _
      · exact .tail _ ih

theorem Slice.taken_writeSector : (sl.writeSector line sec key x m).taken.contains line = true := by
  rw [List.contains_iff_mem]
  exact List.mem_append_left _ (AMap.mem_keys_set ..)
end

/-! ## What a sector reads -/

/-- A state that differs, as far as what sectors read, in what slices hold of one line. -/
structure State.SameButLine (line : Nat) (s t : State) : Prop where
  mem : t.mem = s.mem
  keys : t.keys = s.keys
  granuleOwner : t.granuleOwner = s.granuleOwner
  parts : t.parts = s.parts
  spills : s.SlicesKeep Slice.spills t
  lines : ∀ l, l ≠ line → s.SlicesKeep (fun x => x.lines.get? l) t

/-- The sector at a PA of a slice's line without what the slice holds of the line. -/
def State.underLine (s : State) (k pa key : Nat) : Sector :=
  ((s.slice k).spills.filter fun x => x.line == pa / 256).foldl
    (fun b x => Sector.merge b (x.data.extractLsb' (512 * (pa / 64 % 4)) 512) (x.mask.extractLsb' (64 * (pa / 64 % 4)) 64))
    (s.loadSector pa key)

theorem State.sectorAt_of_home {s : State} {k pa key : Nat} (h : s.homeOf (pa / 256) = some k) :
    s.sectorAt pa key = (((s.slice k).cached (pa / 256) (pa / 64 % 4)).getD ⟨false, 0, 0⟩).over (s.underLine k pa key) := by
  simp only [State.sectorAt, h]
  cases (s.slice k).cached (pa / 256) (pa / 64 % 4) with
  | none => exact (SliceSector.over_empty _).symm
  | some x => rfl

theorem paPlace_near {pa : Nat} (h : paPlace pa = some 0) : pa < 0x60_0000_0000 := by
  unfold paPlace at h
  split at h
  · assumption
  · split at h
    · cases h
    · split at h <;> cases h

theorem paPlace_interleaved {pa : Nat} (h : paPlace pa = some 2) : 0x80_0000_0000 ≤ pa ∧ pa < 0xE0_0000_0000 := by
  unfold paPlace at h
  split at h
  · cases h
  · split at h
    · assumption
    · split at h <;> cases h

theorem storageAddr_interleaved {pa : Nat} (h : 0x80_0000_0000 ≤ pa ∧ pa < 0xE0_0000_0000) : storageAddr pa < 0x60_0000_0000 := by
  have line : (pa - 0x80_0000_0000) / 256 < 0x6000_0000 := by omega
  rw [storageAddr, if_pos h]
  generalize (pa - 0x80_0000_0000) / 256 = n at line
  show n % 12 * 2 ^ 35 + n / 12 * 256 + pa % 256 < 0x60_0000_0000
  omega

/-- The two views of near memory lie in different lines: one below 0x60_0000_0000, the other from 0x80_0000_0000 on (R258). -/
theorem otherView_line {pa p : Nat} (h : otherView pa = some p) : p / 256 ≠ pa / 256 := by
  unfold otherView at h
  split at h
  · next near =>
    have below := paPlace_near near
    rw [Option.some.injEq] at h
    omega
  · next interleaved =>
    have above := paPlace_interleaved interleaved
    have below := storageAddr_interleaved above
    rw [Option.some.injEq] at h
    omega
  · cases h

section
variable {line : Nat} {s t u : State}

theorem State.SameButLine.refl (s : State) : s.SameButLine line s := ⟨rfl, rfl, rfl, rfl, .refl s, fun _ _ => .refl s⟩

theorem State.SameButLine.trans (h : s.SameButLine line t) (k : t.SameButLine line u) : s.SameButLine line u where
  mem := k.mem.trans h.mem
  keys := k.keys.trans h.keys
  granuleOwner := k.granuleOwner.trans h.granuleOwner
  parts := k.parts.trans h.parts
  spills := h.spills.trans k.spills
  lines l hl := (h.lines l hl).trans (k.lines l hl)

theorem State.SameButLine.homeOf (h : s.SameButLine line t) (l : Nat) : t.homeOf l = s.homeOf l := by
  have hp : t.part = s.part := funext (State.part_congr s t h.parts)
  have ho : t.ownerOf = s.ownerOf := funext fun pa => by rw [State.ownerOf, h.granuleOwner, State.ownerOf]
  rw [State.homeOf, hp, ho, State.homeOf]

theorem State.SameButLine.unsaved (h : s.SameButLine line t) {pa : Nat} (hl : pa / 256 ≠ line) : t.unsaved pa = s.unsaved pa := by
  unfold State.unsaved
  rw [h.homeOf]
  cases s.homeOf (pa / 256) with
  | none => rfl
  | some k =>
    have spills : (t.slice k).spills = (s.slice k).spills := h.spills.slices k
    have lines : (t.slice k).lines.get? (pa / 256) = (s.slice k).lines.get? (pa / 256) := (h.lines _ hl).slices k
    simp only [spills, lines]

theorem State.SameButLine.loadSector (h : s.SameButLine line t) {pa : Nat} (hl : pa / 256 = line) (key : Nat) :
    t.loadSector pa key = s.loadSector pa key := by
  have sealed : t.seal = s.seal := by funext key a x; rw [State.seal, h.keys, State.seal]
  have plain : t.unseal = s.unseal := by funext key a x; rw [State.unseal, h.keys, State.unseal]
  have other : (otherView (pa / 64 * 64)).elim [] t.unsaved = (otherView (pa / 64 * 64)).elim [] s.unsaved := by
    cases ho : otherView (pa / 64 * 64) with
    | none => rfl
    | some p =>
      have hp := otherView_line ho
      exact h.unsaved (by omega)
  simp only [State.loadSector, State.rawSector, sealed, plain, other, h.mem]

theorem State.SameButLine.underLine (h : s.SameButLine line t) {pa : Nat} (hl : pa / 256 = line) (k key : Nat) :
    t.underLine k pa key = s.underLine k pa key := by
  have spills : (t.slice k).spills = (s.slice k).spills := h.spills.slices k
  rw [State.underLine, spills, h.loadSector hl, State.underLine]

/-- What a sector of the line reads is decided by what its home slice holds of the sector. -/
theorem State.SameButLine.sectorAt (h : s.SameButLine line t) {k i : Nat} (home : s.homeOf line = some k) (hi : i < 4) (key : Nat) :
    t.sectorAt (line * 256 + 64 * i) key =
      (((t.slice k).cached line i).getD ⟨false, 0, 0⟩).over (s.underLine k (line * 256 + 64 * i) key) := by
  have hl : (line * 256 + 64 * i) / 256 = line := by omega
  have hs : (line * 256 + 64 * i) / 64 % 4 = i := by omega
  rw [State.sectorAt_of_home (k := k) (by rw [hl, h.homeOf, home]), h.underLine hl, hl, hs]

theorem State.SameButLine.sectorAt_eq (h : s.SameButLine line t) {k i : Nat} (home : s.homeOf line = some k) (hi : i < 4)
    (cached : (t.slice k).cached line i = (s.slice k).cached line i) (key : Nat) :
    t.sectorAt (line * 256 + 64 * i) key = s.sectorAt (line * 256 + 64 * i) key := by
  rw [h.sectorAt home hi, cached, ← (SameButLine.refl s).sectorAt home hi]

theorem State.SameButLine.of_tables
    (h : t = { s with teams := t.teams, cores := t.cores, queues := t.queues, routers := t.routers, nextUid := t.nextUid }) :
    s.SameButLine line t := by
  rw [h]
  exact ⟨rfl, rfl, rfl, rfl, .of_slices rfl, fun _ _ => .of_slices rfl⟩

theorem State.SameButLine.modSlice (s : State) (k : Nat) (f : Slice → Slice) (hs : ∀ x, (f x).spills = x.spills)
    (hl : ∀ x l, l ≠ line → (f x).lines.get? l = x.lines.get? l) : s.SameButLine line (s.modSlice k f) :=
  ⟨rfl, rfl, rfl, rfl, .modSlice _ _ _ hs, fun l h => .modSlice _ _ _ fun x => hl x l h⟩

theorem State.SameButLine.noteQcmd (s : State) (pa : Nat) (m : BitVec 64) : s.SameButLine line (s.noteQcmd pa m) := by
  unfold State.noteQcmd
  split
  · exact .of_tables rfl
  · exact .of_tables rfl

theorem State.sectorAt_answer (s : State) (k : Nat) (r : Req) (msg : Msg) (pa key : Nat) :
    (s.answer k r msg).sectorAt pa key = s.sectorAt pa key := by
  unfold State.answer
  split <;> rfl
end

/-! ## A write at the home slice -/

/-- The home slice of a line has room for it, or holds it (R268). -/
structure State.RoomAtHome (s : State) (k line : Nat) : Prop where
  home : s.homeOf line = some k
  room : (s.slice k).taken.contains line = true ∨ (s.slice k).taken.length < 32768

section
variable {s t : State} {k line : Nat}

theorem State.RoomAtHome.of_taken (h : s.RoomAtHome k line) (same : s.SameButLine line t)
    (ht : (t.slice k).taken.contains line = true ∨ (t.slice k).taken = (s.slice k).taken) : t.RoomAtHome k line := by
  refine ⟨(same.homeOf line).trans h.home, ?_⟩
  obtain ht | ht := ht
  · exact .inl ht
  · rw [ht]
    exact h.room

theorem State.RoomAtHome.sliceRoom (h : s.RoomAtHome k line) (net : Nat) (tm : Terms) : s.sliceRoom k line net tm = s :=
  if_pos (by simpa using h.room)

theorem State.noteQcmd_slice (s : State) (pa : Nat) (m : BitVec 64) (k : Nat) : (s.noteQcmd pa m).slice k = s.slice k :=
  (State.SlicesKeep.noteQcmd (g := id) s pa m).slices k

section
variable (h : s.RoomAtHome k line) {i : Nat} (hi : i < 4) (key : Nat) (x : Sector) (m : BitVec 64) (net : Nat) (tm : Terms)
include h hi

theorem State.RoomAtHome.mergeSector_eq : s.mergeSector (line * 256 + 64 * i) key x m net tm =
    (s.noteQcmd (line * 256 + 64 * i) m).modSlice k (·.writeSector line i key x m) := by
  have hl : (line * 256 + 64 * i) / 256 = line := by omega
  have hs : (line * 256 + 64 * i) / 64 % 4 = i := by omega
  have noted : (s.noteQcmd (line * 256 + 64 * i) m).RoomAtHome k line :=
    h.of_taken (.noteQcmd ..) (.inr (by rw [State.noteQcmd_slice]))
  unfold State.mergeSector
  simp only [hl, hs, noted.home, noted.sliceRoom]
  rfl

theorem State.RoomAtHome.mergeSector_slice :
    (s.mergeSector (line * 256 + 64 * i) key x m net tm).slice k = (s.slice k).writeSector line i key x m := by
  rw [h.mergeSector_eq hi, State.slice_modSlice_same, State.noteQcmd_slice]

theorem State.RoomAtHome.mergeSector_same : s.SameButLine line (s.mergeSector (line * 256 + 64 * i) key x m net tm) := by
  rw [h.mergeSector_eq hi]
  exact (State.SameButLine.noteQcmd s _ m).trans (.modSlice _ _ _ (fun _ => rfl) fun _ _ hl => AMap.get?_set_other _ _ _ _ hl)

/-- A line that was written is held. -/
theorem State.RoomAtHome.mergeSector : (s.mergeSector (line * 256 + 64 * i) key x m net tm).RoomAtHome k line := by
  refine h.of_taken (h.mergeSector_same hi ..) (.inl ?_)
  rw [h.mergeSector_slice hi]
  exact (s.slice k).taken_writeSector ..

/-- A sector written at its home reads the bytes written over what it read. -/
theorem State.RoomAtHome.mergeSector_reads {j : Nat} (hj : j < 4) (key' : Nat) :
    (s.mergeSector (line * 256 + 64 * i) key x m net tm).sectorAt (line * 256 + 64 * j) key' =
      if j = i then Sector.merge (s.sectorAt (line * 256 + 64 * j) key') x m else s.sectorAt (line * 256 + 64 * j) key' := by
  have same := h.mergeSector_same hi key x m net tm
  split
  · next e =>
    subst e
    rw [same.sectorAt h.home hj, h.mergeSector_slice hi, Slice.cached_writeSector_same, Option.getD_some, SliceSector.over_write,
      ← (State.SameButLine.refl s).sectorAt h.home hj]
  · next e =>
    refine same.sectorAt_eq h.home hj ?_ key'
    rw [h.mergeSector_slice hi, Slice.cached_writeSector_other _ _ _ _ _ _ e]
end

/-! ## A write request -/

/-- A write's bytes of one sector merged at the home slice. -/
def State.mergePart (r : Req) (m : BitVec 256) (d : BitVec 2048) (s : State) (i : Nat) : State :=
  if m.extractLsb' (64 * i) 64 = 0 then s
  else s.mergeSector (r.line * 256 + 64 * i) r.key (d.extractLsb' (512 * i) 512) (m.extractLsb' (64 * i) 64) (netOf r.dom) r.terms

variable {r : Req} {m : BitVec 256} {d : BitVec 2048}

theorem State.applyReq_write (hk : r.kind = .write m d) : s.applyReq k r = ((List.range 4).foldl (State.mergePart r m d) s, .ack r) := by
  unfold State.applyReq
  simp only [hk]
  rfl

theorem State.RoomAtHome.mergePart (h : s.RoomAtHome k r.line) {i : Nat} (hi : i < 4) : (s.mergePart r m d i).RoomAtHome k r.line := by
  unfold State.mergePart
  split
  · exact h
  · exact h.mergeSector hi ..

theorem State.RoomAtHome.mergePart_reads (h : s.RoomAtHome k r.line) {i j : Nat} (hi : i < 4) (hj : j < 4) (key : Nat) :
    (State.mergePart r m d s i).sectorAt (r.line * 256 + 64 * j) key =
      if j = i then Sector.merge (s.sectorAt (r.line * 256 + 64 * j) key) (d.extractLsb' (512 * j) 512) (m.extractLsb' (64 * j) 64)
      else s.sectorAt (r.line * 256 + 64 * j) key := by
  unfold State.mergePart
  split
  · next none =>
    split
    · next e => rw [e, none, Sector.merge_zero]
    · rfl
  · rw [h.mergeSector_reads hi _ _ _ _ _ hj]
    split
    · next e => rw [e]
    · rfl

/-- Each sector of the line reads, after the parts of some sectors, its own part over what it read. -/
theorem State.RoomAtHome.mergeParts_reads (h : s.RoomAtHome k r.line) {j : Nat} (hj : j < 4) (key : Nat) {is : List Nat}
    (hi : ∀ i ∈ is, i < 4) (nodup : is.Nodup) : (is.foldl (State.mergePart r m d) s).sectorAt (r.line * 256 + 64 * j) key =
      if j ∈ is then Sector.merge (s.sectorAt (r.line * 256 + 64 * j) key) (d.extractLsb' (512 * j) 512) (m.extractLsb' (64 * j) 64)
      else s.sectorAt (r.line * 256 + 64 * j) key := by
  induction is generalizing s with
  | nil => rfl
  | cons i is ih =>
    obtain ⟨fresh, nodup⟩ := List.nodup_cons.mp nodup
    have first : i < 4 := hi i (.head _)
    rw [List.foldl_cons, ih (h.mergePart first) (fun x hx => hi x (.tail _ hx)) nodup, h.mergePart_reads first hj]
    by_cases e : j = i
    · subst e
      simp [fresh]
    · simp [e]

/-- Every sector of a line reads, after a write, the bytes written over what it read. -/
theorem State.RoomAtHome.applyReq_reads (h : s.RoomAtHome k r.line) (hk : r.kind = .write m d) {j : Nat} (hj : j < 4) (key : Nat) :
    (s.applyReq k r).1.sectorAt (r.line * 256 + 64 * j) key =
      Sector.merge (s.sectorAt (r.line * 256 + 64 * j) key) (d.extractLsb' (512 * j) 512) (m.extractLsb' (64 * j) 64) := by
  rw [State.applyReq_write hk, h.mergeParts_reads hj key (fun i hi => List.mem_range.mp hi) List.nodup_range,
    if_pos (List.mem_range.mpr hj)]
end

/-! ## A write performed -/

section
variable {s : State} {k : Nat} {r : Req} {m : BitVec 256} {d : BitVec 2048}

theorem State.takeReq_same (s : State) (k : Nat) (r : Req) (line : Nat) : s.SameButLine line (s.takeReq k r) :=
  .modSlice _ _ _ (fun _ => rfl) fun _ _ _ => rfl

theorem State.RoomAtHome.takeReq (h : s.RoomAtHome k r.line) : (s.takeReq k r).RoomAtHome k r.line :=
  h.of_taken (s.takeReq_same ..) (.inr (by rw [State.slice_takeReq]; rfl))

variable (h : s.RoomAtHome k r.line) (hk : r.kind = .write m d) (copies : s.copyHolders k r.line r.asker = [])
  (ext : ((s.slice k).dir.getD r.line ⟨0, false⟩).ext = false)
include h hk copies ext

/-- A write that no copy holds changes its line at once (R296). -/
theorem State.performReq_write :
    s.performReq k r = ((s.takeReq k r).applyReq k r).1.answer k r ((s.takeReq k r).applyReq k r).2 := by
  have noCore : (s.takeReq k r).copyHolders k r.line r.asker = [] := by
    rw [← copies]
    unfold State.copyHolders
    rw [State.slice_takeReq]
    rfl
  have noPort : (s.takeReq k r).snoopPorts r.line = [] := by
    simp only [State.snoopPorts, h.takeReq.home, State.slice_takeReq, ext]
    rfl
  unfold State.performReq
  dsimp only
  rw [← State.takeReq, hk, noCore, noPort, h.takeReq.sliceRoom]
  rfl

theorem State.performReq_write_reads {j : Nat} (hj : j < 4) (key : Nat) :
    (s.performReq k r).sectorAt (r.line * 256 + 64 * j) key =
      Sector.merge (s.sectorAt (r.line * 256 + 64 * j) key) (d.extractLsb' (512 * j) 512) (m.extractLsb' (64 * j) 64) := by
  rw [State.performReq_write h hk copies ext, State.sectorAt_answer, h.takeReq.applyReq_reads hk hj,
    (s.takeReq_same k r r.line).sectorAt_eq h.home hj (by rw [State.slice_takeReq]; rfl)]
end

end Sys2Proof.Machine
end

section
/-! SUPPORT. Copies in the cores: what dropping sectors and lines from an L1 leaves, and that write-backs, recalls and invalidations take
no message from a core (R145, R268, R296). -/

namespace Sys2Proof.Machine

/-! ## Reuse entries dropped (R145) -/

/-- Dropping reuse entries changes the reuse table and the CNF alone. -/
theorem Core.dropReuse_tables (c : Core) (p : ReuseEntry → Bool) :
    ∃ cnf reuse pend, c.dropReuse p = { c with cnf := cnf, reuse := reuse, reusePend := pend } := by
  have released (c : Core) (i : Nat) : ∃ cnf, c.release i = { c with cnf := cnf } := by
    unfold Core.release
    split
    · exact ⟨c.cnf, rfl⟩
    · exact ⟨_, rfl⟩
  have releases (is : List Nat) (c : Core) : ∃ cnf, is.foldl Core.release c = { c with cnf := cnf } := by
    induction is generalizing c with
    | nil => exact ⟨c.cnf, rfl⟩
    | cons i is ih =>
      obtain ⟨x, hx⟩ := released c i
      obtain ⟨y, hy⟩ := ih (c.release i)
      exact ⟨y, by rw [List.foldl_cons, hy, hx]⟩
  have entries (es : List ReuseEntry) (c : Core) :
      ∃ cnf, es.foldl (fun c e => e.names.foldl Core.release c) c = { c with cnf := cnf } := by
    induction es generalizing c with
    | nil => exact ⟨c.cnf, rfl⟩
    | cons e es ih =>
      obtain ⟨x, hx⟩ := releases e.names c
      obtain ⟨y, hy⟩ := ih (e.names.foldl Core.release c)
      exact ⟨y, by rw [List.foldl_cons, hy, hx]⟩
  obtain ⟨cnf, h⟩ := entries (c.reuseAll.filter p) _
  exact ⟨cnf, _, _, h⟩

section
variable (c : Core) (sec : Nat)

@[simp] theorem Core.dropSectorReuse_inbox : (c.dropSectorReuse sec).inbox = c.inbox := by
  obtain ⟨_, _, _, h⟩ := c.dropReuse_tables fun e => e.isLoad && e.sectors.contains sec
  rw [Core.dropSectorReuse, h]

@[simp] theorem Core.dropSectorReuse_l1 : (c.dropSectorReuse sec).l1 = c.l1 := by
  obtain ⟨_, _, _, h⟩ := c.dropReuse_tables fun e => e.isLoad && e.sectors.contains sec
  rw [Core.dropSectorReuse, h]

@[simp] theorem Core.dropSectorReuse_held : (c.dropSectorReuse sec).held = c.held := by
  obtain ⟨_, _, _, h⟩ := c.dropReuse_tables fun e => e.isLoad && e.sectors.contains sec
  rw [Core.dropSectorReuse, h]
end

/-! ## Sectors dropped from an L1 (R268) -/

section
variable (c : Core)

theorem Core.dropL1_inbox (sec : Nat) : (c.dropL1 sec).inbox = c.inbox := by
  unfold Core.dropL1
  dsimp only
  split <;> exact c.dropSectorReuse_inbox sec

theorem Core.dropLine_inbox (line : Nat) : (c.dropLine line).inbox = c.inbox :=
  foldl_keeps Core.inbox (fun c _ => c.dropL1_inbox _) _ c

theorem Core.overtake_inbox (line : Nat) : (c.overtake line).inbox = c.inbox := rfl

theorem Core.overtake_l1Sector (line sec : Nat) : (c.overtake line).l1Sector sec = c.l1Sector sec := rfl

theorem Core.l1Sector_eq (sec : Nat) : c.l1Sector sec = (c.l1.get? (sec / 4)).bind fun ln => ln.sec.get? (sec % 4) := by
  unfold Core.l1Sector
  cases c.l1.get? (sec / 4) <;> rfl

/-- The L1 without a sector of a line that it holds: the line leaves with its last sector. -/
theorem Core.dropL1_l1 {sec : Nat} {ln : L1Line} (h : c.l1.get? (sec / 4) = some ln) :
    (c.dropL1 sec).l1 = if (ln.sec.erase (sec % 4)).isEmpty then c.l1.erase (sec / 4)
      else c.l1.set (sec / 4) { ln with sec := ln.sec.erase (sec % 4) } := by
  unfold Core.dropL1
  dsimp only
  rw [Core.dropSectorReuse_l1, h]

/-- A sector that is dropped is not there, and every other is as it was. -/
theorem Core.dropL1_l1Sector (sec i : Nat) : (c.dropL1 sec).l1Sector i = if i = sec then none else c.l1Sector i := by
  simp only [Core.l1Sector_eq]
  cases hl : c.l1.get? (sec / 4) with
  | none =>
    have same : (c.dropL1 sec).l1 = c.l1 := by
      unfold Core.dropL1
      dsimp only
      rw [Core.dropSectorReuse_l1, hl]
      exact c.dropSectorReuse_l1 sec
    rw [same]
    split
    · next e => rw [e, hl]; rfl
    · rfl
  | some ln =>
    rw [c.dropL1_l1 hl]
    by_cases line : i / 4 = sec / 4
    · have rest : (ln.sec.erase (sec % 4)).get? (i % 4) = if i = sec then none else ln.sec.get? (i % 4) := by
        split
        · next e => rw [e, AMap.get?_erase_same]
        · next e => exact AMap.get?_erase_other _ _ _ (by omega)
      rw [line, hl, Option.bind_some, ← rest]
      split
      · next empty =>
        rw [AMap.get?_erase_same, List.isEmpty_iff.mp empty]
        rfl
      · rw [AMap.get?_set_same, Option.bind_some]
    · rw [if_neg (show i ≠ sec from fun e => line (by rw [e]))]
      split
      · rw [AMap.get?_erase_other _ _ _ line]
      · rw [AMap.get?_set_other _ _ _ _ line]

theorem Core.dropLine_l1Sector (line : Nat) {n : Nat} (hn : n < 4) : (c.dropLine line).l1Sector (4 * line + n) = none := by
  have gone (is : List Nat) (c : Core) (h : n ∈ is ∨ c.l1Sector (4 * line + n) = none) :
      (is.foldl (fun c i => c.dropL1 (4 * line + i)) c).l1Sector (4 * line + n) = none := by
    induction is generalizing c with
    | nil => simpa using h
    | cons i is ih =>
      refine ih _ ?_
      rw [Core.dropL1_l1Sector]
      grind
  exact gone _ c (.inl (List.mem_range.mpr hn))
end

/-! ## Messages at the cores -/

/-- A state in which every core has the messages that it had. -/
structure State.KeepsInboxes (s t : State) : Prop where
  inbox : ∀ c, (t.core c).inbox = (s.core c).inbox

section
variable {s t u : State}

theorem State.KeepsInboxes.refl (s : State) : s.KeepsInboxes s := ⟨fun _ => rfl⟩

theorem State.KeepsInboxes.trans (h : s.KeepsInboxes t) (k : t.KeepsInboxes u) : s.KeepsInboxes u :=
  ⟨fun c => (k.inbox c).trans (h.inbox c)⟩

theorem State.KeepsInboxes.ite {p : Prop} [Decidable p] (h : s.KeepsInboxes t) (k : s.KeepsInboxes u) :
    s.KeepsInboxes (if p then t else u) := by
  split
  · exact h
  · exact k

theorem State.KeepsInboxes.foldl {α : Type} (f : State → α → State) (hf : ∀ (s : State) (a : α), s.KeepsInboxes (f s a)) (l : List α)
    (s : State) : s.KeepsInboxes (l.foldl f s) := by
  induction l generalizing s with
  | nil => exact .refl s
  | cons a l ih => exact (hf s a).trans (ih _)

theorem State.KeepsInboxes.of_cores (h : t.cores = s.cores) : s.KeepsInboxes t := ⟨fun c => by rw [State.core_congr s t h]⟩
end

section
variable (s : State)

theorem State.KeepsInboxes.modCore (k : Nat) (f : Core → Core) (hf : ∀ c, (f c).inbox = c.inbox) : s.KeepsInboxes (s.modCore k f) := by
  constructor
  intro c
  by_cases hc : c = k
  · subst hc
    rw [State.core_modCore_same, hf]
  · rw [State.core_modCore_other _ _ _ _ hc]

theorem State.KeepsInboxes.sendReq (core : Nat) (asker : Asker) (dom : Dom) (line key : Nat) (kind : ReqKind) (tm : Terms) (h : Bool) :
    s.KeepsInboxes (s.sendReq core asker dom line key kind tm h).1 := by
  unfold State.sendReq
  split <;> exact .of_cores rfl

theorem State.KeepsInboxes.commitOf (ts : List Nat) : s.KeepsInboxes (s.commitOf ts) :=
  .foldl _ (fun _ _ => .of_cores (State.modTeam_cores _ _ _)) _ _

theorem State.KeepsInboxes.writeBackLine (core line : Nat) (doms : List Dom) (tm : Terms) :
    s.KeepsInboxes (s.writeBackLine core line doms tm) := by
  refine .foldl _ (fun s i => ?_) _ s
  unfold State.writeBack
  split
  · exact .refl s
  · split
    · exact .refl s
    · refine .ite (.refl s) (.trans (.trans (.foldl _ (fun s d => ?_) _ s) (.commitOf _ _)) (.modCore _ _ _ fun _ => rfl))
      exact .ite (.refl s) (.trans (.sendReq s ..) (.modCore _ _ _ fun _ => rfl))

theorem State.KeepsInboxes.failWriteBack (t : Nat) (tm : Team) (ln : Launch) (va : Nat) (a : Acc) :
    s.KeepsInboxes (s.failWriteBack t tm ln va a) := by
  unfold State.failWriteBack
  split
  · exact .refl s
  · exact .ite (.refl s) (.of_cores rfl)
  · exact .of_cores rfl

theorem State.KeepsInboxes.cleanStash (t osec : Nat) (drop : Bool) (terms : Terms) : s.KeepsInboxes (s.cleanStash t osec drop terms) := by
  unfold State.cleanStash
  split
  · exact .refl s
  · split
    · have kept (u : State) (core sec : Nat) (f : Team → Team) :
          u.KeepsInboxes ((if drop then u.modCore core fun c => c.dropSectorReuse sec else u).modTeam t f) :=
        .trans (.ite (.modCore _ _ _ fun c => c.dropSectorReuse_inbox _) (.refl u)) (.of_cores (State.modTeam_cores _ _ _))
      refine .ite (kept _ _ _ _) (.ite (.refl s) ?_)
      split
      · refine .trans (.trans (.trans (.foldl _ (fun s d => ?_) _ s) (.commitOf _ _)) (kept _ _ _ _)) (.modCore _ _ _ fun _ => rfl)
        exact .ite (.refl s) (.trans (.sendReq s ..) (.modCore _ _ _ fun _ => rfl))
      · exact .failWriteBack ..
    · exact .refl s

/-! ## Invalidations (R296) -/

/-- An invalidation is applied by dropping the line, in a state in which what was written of it is on its way. -/
theorem State.applyInval_drops (core line : Nat) (tm : Terms) :
    ∃ t, s.KeepsInboxes t ∧ s.applyInval core line tm = t.modCore core fun c => (c.dropLine line).overtake line := by
  have written : s.KeepsInboxes (s.writeBackLine core line [.rc, .blk] tm) := .writeBackLine s ..
  unfold State.applyInval
  generalize s.writeBackLine core line [.rc, .blk] tm = t at written
  exact ⟨_, written.trans (.foldl _ (fun s h => .cleanStash s ..) _ t), rfl⟩

theorem State.KeepsInboxes.applyInval (core line : Nat) (tm : Terms) : s.KeepsInboxes (s.applyInval core line tm) := by
  obtain ⟨t, keeps, e⟩ := s.applyInval_drops core line tm
  rw [e]
  exact keeps.trans (.modCore _ _ _ fun c => (Core.overtake_inbox _ line).trans (c.dropLine_inbox line))

/-- An invalidation that is applied leaves no sector of the line in the L1. -/
theorem State.applyInval_l1Sector (core line : Nat) (tm : Terms) {n : Nat} (hn : n < 4) :
    ((s.applyInval core line tm).core core).l1Sector (4 * line + n) = none := by
  obtain ⟨t, -, e⟩ := s.applyInval_drops core line tm
  rw [e, State.core_modCore_same, Core.overtake_l1Sector]
  exact (t.core core).dropLine_l1Sector line hn

theorem State.KeepsInboxes.hold (core net k wid line : Nat) (tm : Terms) : s.KeepsInboxes (s.hold core net k wid line tm) := by
  unfold State.hold
  dsimp only
  split
  · exact .ite (.trans (.applyInval s ..) (.modCore _ _ _ fun _ => rfl)) (.modCore _ _ _ fun _ => rfl)
  · exact .modCore _ _ _ fun _ => rfl

/-- A filter with room holds an invalidation behind those that it held. -/
theorem State.hold_held (core net k wid line : Nat) (tm : Terms) (h : ((s.core core).held.getD net []).length < 256) :
    ((s.hold core net k wid line tm).core core).held.getD net [] = (s.core core).held.getD net [] ++ [(k, wid, line, tm)] := by
  unfold State.hold
  dsimp only
  split
  · next old more e =>
    rw [if_neg (by omega), State.core_modCore_same, AMap.getD_set_same]
  · next e => rw [State.core_modCore_same, AMap.getD_set_same, e, List.nil_append]
end

end Sys2Proof.Machine
end

section
/-! SUPPORT. Mapped stash sectors sent home (R270, R271): what a write-back of a sector's bytes asks for, and how the stash keeps the sector. -/

namespace Sys2Proof.Machine

/-! ## Requests that wait at a station -/

/-- A state in which teams and homes are as they were, and no request has left a crossbar station. -/
structure State.KeepsSent (s t : State) : Prop where
  homeOf : ∀ line, t.homeOf line = s.homeOf line
  teams : t.teams = s.teams
  sent : ∀ k x, x ∈ (s.station k).queue → x ∈ (t.station k).queue

/-- The request by which a core sends the written bytes of a stash sector, of one domain, to the sector's home slice. -/
def IsStashWrite (core t : Nat) (d : Dom) (mask : BitVec 64) (x : Sector) (pa : Nat) (r : Req) : Prop :=
  r.asker = .evict core (some t) ∧ r.dom = d ∧ r.line = pa / 256 ∧
    r.kind = .write (mask.setWidth 256 <<< (64 * (pa / 64 % 4))) (x.setWidth 2048 <<< (512 * (pa / 64 % 4)))

/-- The written bytes of one domain leave for the home slice. -/
def State.sendStash (core t : Nat) (x : Sector) (pa key : Nat) (terms : Terms) (s : State) (dm : Dom × BitVec 64) : State :=
  if dm.2 = 0 then s
  else
    let r := s.sendReq core (.evict core (some t)) dm.1 (pa / 256) key
      (.write (dm.2.setWidth 256 <<< (64 * (pa / 64 % 4))) (x.setWidth 2048 <<< (512 * (pa / 64 % 4)))) terms false
    r.1.modCore core fun c => { c with wbOut := c.wbOut ++ [⟨r.2, dm.1, pa / 256, true⟩] }

section
variable {s t u : State}

theorem State.KeepsSent.refl (s : State) : s.KeepsSent s := ⟨fun _ => rfl, rfl, fun _ _ => id⟩

theorem State.KeepsSent.trans (h : s.KeepsSent t) (k : t.KeepsSent u) : s.KeepsSent u :=
  ⟨fun l => (k.homeOf l).trans (h.homeOf l), k.teams.trans h.teams, fun j x hx => k.sent j x (h.sent j x hx)⟩

theorem State.KeepsSent.modCore (s : State) (k : Nat) (f : Core → Core) : s.KeepsSent (s.modCore k f) := ⟨fun _ => rfl, rfl, fun _ _ => id⟩
end

section
variable (s : State) (core : Nat) (asker : Asker) (d : Dom) (line key : Nat) (kind : ReqKind) (tm : Terms) (b : Bool)

theorem State.KeepsSent.sendReq : s.KeepsSent (s.sendReq core asker d line key kind tm b).1 := by
  unfold State.sendReq
  split
  · exact .refl s
  · refine ⟨fun _ => rfl, rfl, fun k x hx => ?_⟩
    dsimp only
    by_cases h : k = stationOf core
    · subst h
      rw [State.station_modStation_same]
      exact List.mem_append_left _ hx
    · rw [State.station_modStation_other _ _ _ _ h]
      exact hx

/-- A request for a line with a home joins the station of its cluster. -/
theorem State.sendReq_joins {j : Nat} (h : s.homeOf line = some j) :
    ∃ r : Req, (j, r) ∈ ((s.sendReq core asker d line key kind tm b).1.station (stationOf core)).queue ∧
      r.asker = asker ∧ r.dom = d ∧ r.line = line ∧ r.kind = kind := by
  unfold State.sendReq
  simp only [h, State.station_modStation_same]
  exact ⟨_, List.mem_append_right _ (.head _), rfl, rfl, rfl, rfl⟩
end

section
variable (core t : Nat) (x : Sector) (pa key : Nat) (terms : Terms) (s : State) (dm : Dom × BitVec 64)

theorem State.KeepsSent.sendStash : s.KeepsSent (State.sendStash core t x pa key terms s dm) := by
  unfold State.sendStash
  split
  · exact .refl s
  · exact .trans (.sendReq s ..) (.modCore ..)

theorem State.sendStash_joins {j : Nat} (home : s.homeOf (pa / 256) = some j) (h : dm.2 ≠ 0) :
    ∃ r, (j, r) ∈ ((State.sendStash core t x pa key terms s dm).station (stationOf core)).queue ∧ IsStashWrite core t dm.1 dm.2 x pa r := by
  unfold State.sendStash
  rw [if_neg h]
  exact s.sendReq_joins core _ _ _ key _ terms false home
end

section
variable (core t : Nat) (x : Sector) (pa key : Nat) (terms : Terms)

theorem State.KeepsSent.sendStashes (dms : List (Dom × BitVec 64)) (s : State) :
    s.KeepsSent (dms.foldl (State.sendStash core t x pa key terms) s) := by
  induction dms generalizing s with
  | nil => exact .refl s
  | cons dm dms ih => exact .trans (.sendStash ..) (ih _)

/-- The written bytes of each domain are on their way. -/
theorem State.sendStashes_join {j : Nat} (dms : List (Dom × BitVec 64)) {s : State} (home : s.homeOf (pa / 256) = some j) :
    ∀ dm ∈ dms, dm.2 ≠ 0 → ∃ r, (j, r) ∈ ((dms.foldl (State.sendStash core t x pa key terms) s).station (stationOf core)).queue ∧
      IsStashWrite core t dm.1 dm.2 x pa r := by
  induction dms generalizing s with
  | nil => exact fun _ h => nomatch h
  | cons a dms ih =>
    intro dm hdm written
    rw [List.foldl_cons]
    obtain rfl | later := List.mem_cons.mp hdm
    · obtain ⟨r, joined, isWrite⟩ := State.sendStash_joins core t x pa key terms s dm home written
      exact ⟨r, (State.KeepsSent.sendStashes core t x pa key terms dms _).sent _ _ joined, isWrite⟩
    · exact ih (((State.KeepsSent.sendStash core t x pa key terms s a).homeOf _).trans home) dm later written
end

/-! ## A mapped sector after its write-back -/

/-- A stash sector is clean, or with `drop` unfilled (R271). -/
def State.keepClean (s : State) (t : Nat) (drop : Bool) (core osec sec : Nat) : State :=
  (if drop then s.modCore core fun c => c.dropSectorReuse sec else s).modTeam t fun tm =>
    tm.setMapSec osec fun x => if drop then none else x.map fun x => { x with rcMask := 0, blkMask := 0 }

section
variable {s : State} {t osec : Nat} {tm : Team} {ln : Launch} {m : SMap} {e : MapSec} {drop : Bool}

/-- The agent as which a core checks the write-back of a mapped sector (R270). -/
def Team.engineWho (tm : Team) (ln : Launch) : Who :=
  ⟨ln.part, tm.vctx ln.ctx, tm.core, ln.header.floor, ln.header.priv, ln.header.stash, tm.privBase, tm.maps, 0, 0, true⟩

variable (ht : s.teams.get? t = some tm) (hl : s.launches.get? tm.launch = some ln) (hm : tm.mapAt osec = some (m, e)) (drop : Bool)
  (terms : Terms)
include ht hl hm

theorem State.cleanStash_clean (h : e.mask = 0) : s.cleanStash t osec drop terms = s.keepClean t drop tm.core osec (e.pa / 64) := by
  unfold State.cleanStash
  simp only [ht, hm, hl, h]
  rfl

theorem State.cleanStash_written (h : e.mask ≠ 0) (good : (s.core tm.core).badPa.contains (e.pa / 64) = false) {a b pa key : Nat}
    (phys : s.physPiece (tm.engineWho ln) (m.g + (osec * 64 - m.o)) ⟨false, true, false⟩ (if e.blkMask = 0 then 1 else 0) 0 =
      .ok [(a, b, .phys pa key)]) :
    s.cleanStash t osec drop terms = ((([(Dom.rc, e.rcMask), (Dom.blk, e.blkMask)].foldl
      (State.sendStash tm.core t (tm.stash.getD osec 0) pa key terms) s).commitOf [t]).keepClean t drop tm.core osec (e.pa / 64)).modCore tm.core
        fun c => c.overtake (pa / 256) := by
  unfold Team.engineWho at phys
  unfold State.cleanStash
  simp only [ht, hm, hl, if_neg h, good, phys]
  rfl
end

theorem State.keepClean_stations (s : State) (t : Nat) (drop : Bool) (core osec sec : Nat) :
    (s.keepClean t drop core osec sec).stations = s.stations := by
  unfold State.keepClean
  rw [State.modTeam_stations]
  split <;> rfl

theorem State.keepClean_team (s : State) (t : Nat) (drop : Bool) (core osec sec : Nat) :
    (s.keepClean t drop core osec sec).teams.get? t = (s.teams.get? t).map fun tm =>
      tm.setMapSec osec fun x => if drop then none else x.map fun x => { x with rcMask := 0, blkMask := 0 } := by
  unfold State.keepClean
  rw [State.modTeam_get?_same]
  split <;> rfl

/-- The mapping with one sector cleaned, or unfilled. -/
theorem Team.setMapSec_clean {tm : Team} {m : SMap} {f : Nat} {x : MapSec} (hm : tm.maps = [m]) (hs : m.sec = [(f, x)])
    (mapped : tm.mapAt f = some (m, x)) (drop : Bool) :
    ∃ m', (tm.setMapSec f fun x => if drop then none else x.map fun x => { x with rcMask := 0, blkMask := 0 }).maps = [m'] ∧
      (∀ y, m'.sec.get? f = some y → y.mask = 0) ∧ (drop = true → m'.sec.get? f = none) := by
  have covers : m.o ≤ f * 64 ∧ f * 64 < m.o + m.len := by
    by_contra h
    simp [Team.mapAt, hm, h] at mapped
  simp only [Team.setMapSec, hm, List.map_cons, List.map_nil, if_pos covers]
  refine ⟨_, rfl, ?_⟩
  cases drop with
  | true => simp
  | false => simp [hs, AMap.get?, MapSec.mask]

/-! ## A recall (R271) -/

/-- A recall of the one touched sector of a line writes the sector back, or finds it clean. -/
theorem execStashRecall_one {s : State} {t line : Nat} {write : Bool} {tm : Team} {m : SMap} {f : Nat} {x : MapSec}
    (ht : s.teams.get? t = some tm) (hm : tm.maps = [m]) (hs : m.sec = [(f, x)]) (hl : x.pa / 256 = line) :
    ∃ terms, exec (.stashRecall t line write) s = .next (s.cleanStash t f write terms) := by
  have one : tm.mappedOf line = [(f, x)] := by simp [Team.mappedOf, hm, hs, hl]
  have he : exec (.stashRecall t line write) s = execStashRecall t line write s := rfl
  rw [he, execStashRecall, ht, Option.elim_some, one]
  exact ⟨_, rfl⟩

section
variable {s : State} {t : Nat} {tm : Team} {ln : Launch} {m : SMap} {f : Nat} {x : MapSec}

/-- After a recall the stash has its bytes, and its one mapping holds no byte of the sector written; for a write it does not hold the sector. -/
def State.Recalled (u : State) (t : Nat) (tm : Team) (f : Nat) (write : Bool) : Prop :=
  ∃ tm' m', u.teams.get? t = some tm' ∧ tm'.maps = [m'] ∧ tm'.stash = tm.stash ∧ (∀ y, m'.sec.get? f = some y → y.mask = 0) ∧
    (write = true → m'.sec.get? f = none)

theorem State.keepClean_recalled {tm₁ : Team} (ht : s.teams.get? t = some tm₁) (maps : tm₁.maps = tm.maps) (stash : tm₁.stash = tm.stash)
    (hm : tm.maps = [m]) (hs : m.sec = [(f, x)]) (mapped : tm.mapAt f = some (m, x)) (write : Bool) (core sec : Nat) :
    (s.keepClean t write core f sec).Recalled t tm f write := by
  have mapped₁ : tm₁.mapAt f = some (m, x) := by rw [Team.mapAt, maps, ← Team.mapAt, mapped]
  obtain ⟨m', hm', clean, gone⟩ := Team.setMapSec_clean (maps.trans hm) hs mapped₁ write
  refine ⟨_, m', ?_, hm', stash, clean, gone⟩
  rw [State.keepClean_team, ht]
  rfl

variable (ht : s.teams.get? t = some tm) (hl : s.launches.get? tm.launch = some ln) (hm : tm.maps = [m]) (hs : m.sec = [(f, x)])
  (mapped : tm.mapAt f = some (m, x)) (write : Bool) (terms : Terms)
include ht hl hm hs mapped

theorem State.cleanStash_recalled_clean (h : x.mask = 0) : (s.cleanStash t f write terms).Recalled t tm f write := by
  rw [State.cleanStash_clean ht hl mapped write terms h]
  exact State.keepClean_recalled ht rfl rfl hm hs mapped ..

theorem State.cleanStash_recalled_written (h : x.mask ≠ 0) (good : (s.core tm.core).badPa.contains (x.pa / 64) = false) {a b pa key j : Nat}
    (home : s.homeOf (pa / 256) = some j)
    (phys : s.physPiece (tm.engineWho ln) (m.g + (f * 64 - m.o)) ⟨false, true, false⟩ (if x.blkMask = 0 then 1 else 0) 0 =
      .ok [(a, b, .phys pa key)]) :
    (s.cleanStash t f write terms).Recalled t tm f write ∧
      ∀ dm ∈ [(Dom.rc, x.rcMask), (Dom.blk, x.blkMask)], dm.2 ≠ 0 →
        ∃ r, (j, r) ∈ ((s.cleanStash t f write terms).station (stationOf tm.core)).queue ∧
          IsStashWrite tm.core t dm.1 dm.2 (tm.stash.getD f 0) pa r := by
  have sent := State.KeepsSent.sendStashes tm.core t (tm.stash.getD f 0) pa key terms [(.rc, x.rcMask), (.blk, x.blkMask)] s
  have join := State.sendStashes_join tm.core t (tm.stash.getD f 0) pa key terms [(.rc, x.rcMask), (.blk, x.blkMask)] home
  rw [State.cleanStash_written ht hl mapped write terms h good phys]
  generalize [(Dom.rc, x.rcMask), (Dom.blk, x.blkMask)].foldl (State.sendStash tm.core t (tm.stash.getD f 0) pa key terms) s = v at sent join
  constructor
  · have committed : (v.commitOf [t]).teams.get? t = some { tm with fvc := true } := by
      have e : v.commitOf [t] = v.modTeam t fun tm => { tm with fvc := true } := rfl
      rw [e, State.modTeam_get?_same, sent.teams, ht]
      rfl
    exact State.keepClean_recalled committed rfl rfl hm hs mapped ..
  · have stations (core sec pa : Nat) :
        (((v.commitOf [t]).keepClean t write core f sec).modCore core fun c => c.overtake pa).stations = v.stations :=
      (State.keepClean_stations ..).trans (State.modTeam_stations ..)
    rw [State.station_congr _ _ (stations ..)]
    exact join
end

end Sys2Proof.Machine
end

section
/-! PROOFS. Events of the home slices and the copies (R267, R268, R270, R271, R296, R298). -/

namespace Sys2Proof.Machine

/-! ## Home slices -/

section
variable {s : State} {k : Nat} {r : Req}

/-- The request that SLICE_PERFORM finds is refused where its data are withheld (R359), and performed otherwise. -/
theorem execSlicePerform_found (h : (((s.absorb k).slice k).admitted.find? fun r => !(s.absorb k).heldBack k r && ((s.absorb k).barred r ||
      (r.kind.needs.filter fun i => !((((s.absorb k).slice k).cached r.line i).elim false SliceSector.filled)).isEmpty)) = some r) :
    exec (.slicePerform k) s = .next (if (s.absorb k).barred r then ((s.absorb k).takeReq k r).answer k r (.denied r)
      else (s.absorb k).performReq k r) := by
  have he : exec (.slicePerform k) s = execSlicePerform k s := rfl
  rw [he, execSlicePerform]
  simp only [h]
  split <;> rfl

theorem State.refused_admitted (s : State) (k : Nat) (r : Req) (msg : Msg) :
    (((s.takeReq k r).answer k r msg).slice k).admitted = (s.slice k).admitted.filter (·.id != r.id) := by
  rw [(State.SlicesKeep.answer (g := Slice.waiting) (s.takeReq k r) k r msg).admitted, State.slice_takeReq]

theorem id_ne_of_mem_filter {l : List Req} {id : Nat} : ∀ x ∈ l.filter (·.id != id), x.id ≠ id :=
  fun _ h => bne_iff_ne.mp (List.mem_filter.mp h).2

/-- A write needs no sector, so that it is never refused for withheld data. -/
theorem State.barred_write (s : State) {m : BitVec 256} {d : BitVec 2048} (hk : r.kind = .write m d) : s.barred r = false := by
  rw [State.barred, hk]
  rfl

theorem writePropagated_ends {wid : Nat} {p : PendWrite}
    (h : (((s.absorb k).slice k).pend.find? fun p => p.id == wid && p.cores.isEmpty && p.links.isEmpty) = some p) :
    ∃ u, exec (.writePropagated k wid) s = .next u ∧ (u.slice k).pend = ((s.absorb k).slice k).pend.filter (·.id != wid) := by
  have he : exec (.writePropagated k wid) s = execWritePropagated k wid s := rfl
  rw [he, execWritePropagated]
  simp only [h]
  refine ⟨_, rfl, ?_⟩
  have left : (((s.absorb k).modSlice k fun sl => { sl with pend := sl.pend.filter (·.id != wid) }).slice k).pend =
      ((s.absorb k).slice k).pend.filter (·.id != wid) := by rw [State.slice_modSlice_same]
  rw [← left]
  generalize (s.absorb k).modSlice k _ = t
  refine State.SlicesKeep.pend (.trans ?_ (.answer ..)) k
  have applied : t.KeepsWaiting (match p.reply with
      | some m => (t, m)
      | none => t.applyReq k p.req).1 := by
    split
    · exact .refl t
    · exact .applyReq ..
  exact .ite applied (.trans applied (.of_slices rfl))
end

/-! ## Invalidations (R296) -/

/-- A core whose first invalidation has been taken in: the rest of its messages, and no load reuse of the line (R145). -/
def State.takeInval (s : State) (core line : Nat) (rest : List Msg) : State :=
  (s.modCore core fun c => { c with inbox := rest }).modCore core fun c =>
    (List.range 4).foldl (fun c i => c.dropSectorReuse (4 * line + i)) c

/-- What the core's filters do with an invalidation. -/
def State.filterInval (s : State) (core k wid line : Nat) (dom : Dom) (tm : Terms) : State :=
  match dom with
  | .rc => s.hold core 3 k wid line tm
  | .blk => s.hold core 4 k wid line tm
  | _ => s.applyInval core line tm

section
variable (s : State) (core line : Nat)

theorem State.takeInval_inbox (rest : List Msg) : ((s.takeInval core line rest).core core).inbox = rest := by
  rw [State.takeInval, State.core_modCore_same, foldl_keeps Core.inbox fun c _ => c.dropSectorReuse_inbox _, State.core_modCore_same]

theorem State.takeInval_held (rest : List Msg) : ((s.takeInval core line rest).core core).held = (s.core core).held := by
  rw [State.takeInval, State.core_modCore_same, foldl_keeps Core.held fun c _ => c.dropSectorReuse_held _, State.core_modCore_same]

variable (k wid : Nat) (tm : Terms)

theorem State.KeepsInboxes.filterInval (dom : Dom) : s.KeepsInboxes (s.filterInval core k wid line dom tm) := by
  unfold State.filterInval
  split
  · exact .hold ..
  · exact .hold ..
  · exact .applyInval ..

theorem State.filterInval_l1Sector {dom : Dom} (hr : dom ≠ .rc) (hb : dom ≠ .blk) {n : Nat} (hn : n < 4) :
    ((s.filterInval core k wid line dom tm).core core).l1Sector (4 * line + n) = none := by
  unfold State.filterInval
  split
  · exact absurd rfl hr
  · exact absurd rfl hb
  · exact s.applyInval_l1Sector core line tm hn

theorem State.filterInval_held {dom : Dom} (h : dom = .rc ∨ dom = .blk) (room : ((s.core core).held.getD (netOf dom) []).length < 256) :
    ((s.filterInval core k wid line dom tm).core core).held.getD (netOf dom) [] =
      (s.core core).held.getD (netOf dom) [] ++ [(k, wid, line, tm)] := by
  obtain rfl | rfl := h <;> exact s.hold_held core _ k wid line tm room
end

theorem invalidationArrival_eq {s : State} {core line j wid : Nat} {rest : List Msg} {dom : Dom} {tm : Terms}
    (h : takeFirst Msg.isInval (s.core core).inbox = some (.inval j wid line dom tm, rest)) :
    exec (.invalidationArrival core) s = .next (((s.takeInval core line rest).filterInval core j wid line dom tm).sendMesh (core / 36)
      (if j < 96 then .slice j else .link (j - 96)) (netOf dom) (coreSource core) tm (.invalAck j wid core)) := by
  have he : exec (.invalidationArrival core) s = execInvalidationArrival core s := rfl
  rw [he, execInvalidationArrival, h]
  cases dom <;> rfl

/-! ## Snoops (R298) -/

/-- A message enters the mesh at its router, at an output that its network and its destination decide. -/
theorem State.sendMesh_enters (s : State) (r : Nat) (dest : MeshDest) (net source : Nat) (tm : Terms) (msg : Msg) :
    ∃ o m, m ∈ ((s.sendMesh r dest net source tm msg).router r).out.getD o [] ∧ m.dest = dest ∧ m.msg = msg := by
  have put (out : AMap (List MeshMsg)) (o : Nat) (m : MeshMsg) : m ∈ (out.set o (out.getD o [] ++ [m])).getD o [] := by
    rw [AMap.getD_set_same]
    exact List.mem_append_right _ (.head _)
  unfold State.sendMesh State.post
  rw [State.router_modRouter_same]
  dsimp only
  split
  · exact ⟨_, _, put .., rfl, rfl⟩
  · exact ⟨_, _, put .., rfl, rfl⟩

section
variable (s : State) (k line net : Nat) (tm : Terms) (asker : Asker)

/-- A snoop of the port joins what the link has to send. -/
theorem State.sendSnoop_link : ∃ m : LinkOut, ((s.sendSnoop k net line tm asker).link k).sendQ = (s.link k).sendQ ++ [m] ∧
    m.msg.body = .snoop line ∧ m.msg.net = net ∧ m.deadline = tm.deadline ∧
    ((s.sendSnoop k net line tm asker).link k).inbox = (s.link k).inbox := by
  unfold State.sendSnoop State.portRequest
  rw [State.link_modLink_same]
  exact ⟨_, rfl, rfl, rfl, rfl, rfl⟩
end

/-- Whether a message is the snoop of a write. -/
def Msg.isSnoop : Msg → Bool
  | .snoop _ _ _ _ _ _ => true
  | _ => false

/-- A link whose port has taken a message in. -/
def State.leaveInbox (s : State) (k : Nat) (rest : List Msg) : State := s.modLink k fun x => { x with inbox := rest }

theorem State.link_leaveInbox (s : State) (k : Nat) (rest : List Msg) : (s.leaveInbox k rest).link k = { s.link k with inbox := rest } :=
  State.link_modLink_same ..

section
variable {s : State} {k line net j wid l : Nat} {tm : Terms} {rest : List Msg}

theorem extSnoop_eq (h : takeFirst Msg.isSnoop (s.link k).inbox = some (.snoop j wid line net l tm, rest)) :
    exec (.extSnoop k) s = .next (if (s.link k).snoop.contains line then (s.leaveInbox k rest).sendSnoop k net line tm (.snoop j wid line)
      else (s.leaveInbox k rest).sendMesh (linkRouter k) (.slice j) net (linkSource k) tm (.snoopAck j wid k)) := by
  have he : exec (.extSnoop k) s = execExtSnoop k s := rfl
  rw [he, execExtSnoop]
  split
  · next e =>
    cases h.symm.trans e
    have same : ((s.leaveInbox k rest).link k).snoop = (s.link k).snoop := by rw [State.link_leaveInbox]
    rw [← same]
    rfl
  · next none => exact (none _ _ _ _ _ _ _ h).elim

theorem snoopFilterEvict_eq (h : (s.link k).snoop.contains line = true)
    (once : ((s.link k).outstanding.any fun o => o.asker == .filter line) = false) :
    ∃ net tm, exec (.snoopFilterEvict k line) s = .next (s.sendSnoop k net line tm (.filter line)) := by
  have he : exec (.snoopFilterEvict k line) s = execSnoopFilterEvict k line s := rfl
  simp only [he, execSnoopFilterEvict, h, once, Bool.not_false, Bool.and_true, if_true]
  split
  · exact ⟨_, _, rfl⟩
  · exact ⟨_, _, rfl⟩

theorem l1Eviction_drops {core sec : Nat} (hs : sec < 4) (good : (s.core core).badPa.contains (4 * line + sec) = false) :
    ∃ t : State, exec (.l1Eviction core line sec) s = .next (t.modCore core fun c => c.dropL1 (4 * line + sec)) := by
  have he : exec (.l1Eviction core line sec) s = execL1Eviction core line sec s := rfl
  have may : sec < 4 ∧ (!(s.core core).badPa.contains (4 * line + sec)) = true := ⟨hs, by rw [good]; rfl⟩
  rw [he, execL1Eviction, if_pos may]
  exact ⟨_, rfl⟩
end

/-! ## The obligation -/

/-- Settles O48: what each event leaves, by the lemmas about it. -/
theorem coherenceEvents : Obligations.CoherenceEvents := by
  intro s k line
  refine ⟨fun r found => ⟨⟨_, execSlicePerform_found found, ?_⟩, fun m d j hk home _ copies ext hj room => ?_⟩, fun wid p found => ?_,
    fun core rest j wid dom tm first => ?_, fun rest j wid net l tm first => ⟨fun holds => ?_, fun clear => ?_⟩, fun holds once => ?_,
    fun core sec hs good => ?_, ?_⟩
  · split
    · rw [State.refused_admitted]
      exact id_ne_of_mem_filter
    · rw [State.performReq_admitted]
      exact id_ne_of_mem_filter
  · refine ⟨_, execSlicePerform_found found, ?_⟩
    rw [if_neg (by rw [State.barred_write _ hk]; decide)]
    exact State.performReq_write_reads ⟨home, room⟩ hk copies ext hj r.key
  · obtain ⟨u, next, pend⟩ := writePropagated_ends found
    refine ⟨u, next, ?_⟩
    rw [pend]
    exact fun x hx => bne_iff_ne.mp (List.mem_filter.mp hx).2
  · refine ⟨_, invalidationArrival_eq first, ?_, fun hr hb n hn => ?_, fun queued room => ?_⟩
    · exact ((State.KeepsInboxes.filterInval ..).inbox core).trans (s.takeInval_inbox core line rest)
    · exact State.filterInval_l1Sector _ core line j wid tm hr hb hn
    · rw [← s.takeInval_held core line rest] at room ⊢
      exact State.filterInval_held _ core line j wid tm queued room
  · obtain ⟨m, queue, body, net', deadline, inbox⟩ := (s.leaveInbox k rest).sendSnoop_link k line net tm (.snoop j wid line)
    rw [State.link_leaveInbox] at queue inbox
    refine ⟨_, m, extSnoop_eq first, ?_⟩
    rw [if_pos holds]
    exact ⟨inbox, queue, body, net', deadline⟩
  · obtain ⟨o, m, enters, dest, msg⟩ :=
      (s.leaveInbox k rest).sendMesh_enters (linkRouter k) (.slice j) net (linkSource k) tm (.snoopAck j wid k)
    refine ⟨_, o, m, extSnoop_eq first, ?_⟩
    rw [if_neg (by rw [clear]; decide)]
    exact ⟨congrArg Link.inbox (s.link_leaveInbox k rest), enters, dest, msg⟩
  · obtain ⟨net, tm, next⟩ := snoopFilterEvict_eq holds once
    obtain ⟨m, queue, body, -⟩ := s.sendSnoop_link k line net tm (.filter line)
    exact ⟨_, m, next, queue, body⟩
  · obtain ⟨t, next⟩ := l1Eviction_drops hs good
    refine ⟨_, next, ?_⟩
    rw [State.core_modCore_same, Core.dropL1_l1Sector, if_pos rfl]
  · intro t tm ln m f x write ht hl hm hsec hline mapped good w recalled
    obtain ⟨terms, next⟩ := execStashRecall_one (write := write) ht hm hsec hline
    have recalls {p : State → Prop} (h : (s.cleanStash t f write terms).Recalled t tm f write) (hp : p (s.cleanStash t f write terms)) :
        recalled p := by
      obtain ⟨tm', m', team, maps, stash, clean, gone⟩ := h
      exact ⟨_, tm', m', next, team, maps, stash, clean, gone, hp⟩
    refine ⟨fun clean => recalls (State.cleanStash_recalled_clean ht hl hm hsec mapped write terms clean) trivial,
      fun a b pa key j written home phys => ?_⟩
    obtain ⟨kept, joins⟩ := State.cleanStash_recalled_written ht hl hm hsec mapped write terms written good home phys
    refine recalls kept fun d mask hd hmask => ?_
    obtain ⟨r, joined, isWrite⟩ := joins (d, mask) hd hmask
    exact ⟨r, joined, isWrite⟩

end Sys2Proof.Machine
end

section
/-! SUPPORT. Fields of byte strings, and barrier objects (R362-R365, R372, R377). -/

namespace Sys2Proof.Machine

/-! ## Fields of byte strings (R11) -/

/-- A field behind the first bytes of a byte string. -/
theorem leAt_append_skip {xs ys : List Byte} {o n : Nat} (h : xs.length ≤ o) : leAt (xs ++ ys) o n = leAt ys (o - xs.length) n := by
  rw [leAt, List.drop_append, List.drop_of_length_le h, List.nil_append, leAt]

/-- A number at the end of a byte string. -/
theorem leAt_toLe (n x : Nat) : leAt (toLe n x) 0 n = x % 256 ^ n := by
  simpa using leAt_append_toLe n x []

/-- A field that bytes put elsewhere leave. -/
theorem leAt_putBytes_apart {bs x : List Byte} {o p n : Nat} (h : o + x.length ≤ bs.length) (apart : p + n ≤ o ∨ o + x.length ≤ p) :
    leAt (putBytes bs o x) p n = leAt bs p n := by
  unfold leAt
  congr 1
  refine List.ext_getElem? fun k => ?_
  simp only [List.getElem?_take, List.getElem?_drop]
  split
  · exact putBytes_getElem?_outside h (by omega)
  · rfl

theorem leAt_putBytes_toLe {bs : List Byte} {o n x : Nat} (h : o ≤ bs.length) : leAt (putBytes bs o (toLe n x)) o n = x % 256 ^ n := by
  have := leAt_putBytes (x := toLe n x) h
  rwa [toLe_length, leNat_toLe] at this

theorem leAt_one_mod_two (bs : List Byte) (o : Nat) : leAt bs o 4 % 2 = leAt bs o 1 % 2 := by
  unfold leAt
  cases bs.drop o with
  | nil => rfl
  | cons b l => simp [leNat]; omega

/-! ## Barrier objects (R362-R365, R372, R377) -/

/-- VALID is the lowest bit of FLAGS. -/
theorem barValid_iff (o : List Byte) : barValid o = true ↔ leAt o 12 4 % 2 = 1 := by
  rw [barValid, decide_eq_true_iff, leAt_one_mod_two]

theorem barInit_fields (tarr tbytes : W32) (pmask owner : W64) (sl : Bool) :
    let o := barInit tarr tbytes pmask owner sl
    o.length = 64 ∧ barPhase o = 0 ∧ barValid o = true ∧ leAt o 4 4 = tarr.toNat ∧ leAt o 8 4 = 0 ∧ leAt o 16 4 = tbytes.toNat ∧
      leAt o 20 4 = 0 ∧ leAt o 24 8 = 0 ∧ barWdl o = 2 ^ 64 - 1 ∧ leAt o 40 8 = pmask.toNat ∧ leAt o 48 8 = 0 ∧
      leAt o 56 8 = owner.toNat ∧ leAt o 12 4 = if sl then 3 else 1 := by
  have h1 := tarr.isLt
  have h2 := tbytes.isLt
  have h3 := pmask.isLt
  have h4 := owner.isLt
  cases sl <;>
    simp [barInit, barPhase, barValid_iff, barWdl, barMax, List.append_assoc, leAt_append_toLe, leAt_toLe, leAt_append_skip] <;> omega

section
variable {o : List Byte} (len : o.length = 64)
include len

/-- BINVAL clears VALID and WDL's loan, and leaves the phase (R377). -/
theorem barInval_fields : barValid (barInval o) = false ∧ barWdl (barInval o) = 2 ^ 64 - 1 ∧ barPhase (barInval o) = barPhase o := by
  have len' : (putBytes o 12 (toLe 4 (leAt o 12 4 / 2 * 2))).length = 64 := (putBytes_length (by simp [len])).trans len
  refine ⟨?_, ?_, ?_⟩
  · rw [Bool.eq_false_iff, Ne, barValid_iff, barInval, leAt_putBytes_apart (by simp [len']) (by simp), leAt_putBytes_toLe (by omega)]
    omega
  · rw [barWdl, barInval, leAt_putBytes_toLe (by omega)]
    rfl
  · rw [barPhase, barInval, leAt_putBytes_apart (by simp [len']) (by simp), leAt_putBytes_apart (by simp [len]) (by simp), barPhase]

end

/-- The arrival mask after an arrival by the thread that bit `q` stands for. -/
def barAmask (o : List Byte) (a : Nat) : Option Nat → Nat
  | some k => if a > 0 then leAt o 48 8 ||| 2 ^ k else leAt o 48 8
  | none => leAt o 48 8

section
variable {o : List Byte} {a n x : Nat} {q : Option Nat} (len : o.length = 64) (valid : barValid o = true)
  (ha : leAt o 8 4 + a < 2 ^ 32) (hn : leAt o 24 8 + n < 2 ^ 64) (hx : leAt o 20 4 + x < 2 ^ 32)
include valid ha hn hx

/-- An arrival below the targets: the counts are written, and no phase completes. -/
theorem barArrive_below (below : ¬ (leAt o 4 4 ≤ leAt o 8 4 + a ∧ leAt o 16 4 + (leAt o 20 4 + x) ≤ leAt o 24 8 + n)) :
    barArrive o a n x q =
      (putBytes (putBytes (putBytes (putBytes o 8 (toLe 4 (leAt o 8 4 + a))) 20 (toLe 4 (leAt o 20 4 + x))) 24
        (toLe 8 (leAt o 24 8 + n))) 48 (toLe 8 (barAmask o a q)), some (barPhase o), false) := by
  have e1 : Nat.min (leAt o 8 4 + a) (2 ^ 32 - 1) = leAt o 8 4 + a := Nat.min_eq_left (by omega)
  have e2 : Nat.min (leAt o 20 4 + x) (2 ^ 32 - 1) = leAt o 20 4 + x := Nat.min_eq_left (by omega)
  have e3 : (leAt o 24 8 + n) % 2 ^ 64 = leAt o 24 8 + n := Nat.mod_eq_of_lt hn
  unfold barArrive
  simp only [valid, Bool.not_true, Bool.false_eq_true, if_false, e1, e2, e3, if_neg below]
  cases q <;> rfl

/-- An arrival that reaches the targets exactly: one phase completes, and nothing is left over. -/
theorem barArrive_exact (pos : 0 < leAt o 4 4) (arr : leAt o 8 4 + a = leAt o 4 4) (byt : leAt o 24 8 + n = leAt o 16 4 + (leAt o 20 4 + x)) :
    barArrive o a n x q =
      (toLe 4 (barPhase o + 1) ++ toLe 4 (leAt o 4 4) ++ toLe 4 0 ++ toLe 4 (leAt o 12 4) ++ toLe 4 (leAt o 16 4) ++ toLe 4 0 ++
        toLe 8 0 ++ toLe 8 barMax ++ (o.drop 40).take 8 ++ toLe 8 0 ++ (o.drop 56).take 8, some (barPhase o), true) := by
  have e1 : Nat.min (leAt o 8 4 + a) (2 ^ 32 - 1) = leAt o 4 4 := (Nat.min_eq_left (by omega)).trans arr
  have e2 : Nat.min (leAt o 20 4 + x) (2 ^ 32 - 1) = leAt o 20 4 + x := Nat.min_eq_left (by omega)
  have e3 : (leAt o 24 8 + n) % 2 ^ 64 = leAt o 16 4 + (leAt o 20 4 + x) := (Nat.mod_eq_of_lt hn).trans byt
  unfold barArrive
  simp only [valid, Bool.not_true, Bool.false_eq_true, if_false, e1, e2, e3]
  simp [Nat.ne_of_gt pos]

end

/-- How long a byte string is after bytes are put into it, wherever they are put. -/
theorem length_putBytes (bs : List Byte) (o : Nat) (x : List Byte) :
    (putBytes bs o x).length = min o bs.length + x.length + (bs.length - (o + x.length)) := by
  simp [putBytes, Nat.add_assoc]

/-- An object with the four fields written that an arrival below the targets changes. -/
def barPuts (o : List Byte) (narr xbytes nbytes amask : Nat) : List Byte :=
  putBytes (putBytes (putBytes (putBytes o 8 (toLe 4 narr)) 20 (toLe 4 xbytes)) 24 (toLe 8 nbytes)) 48 (toLe 8 amask)

section
variable {o : List Byte} (len : o.length = 64) (narr xbytes nbytes amask : Nat)
include len

theorem barPuts_length : (barPuts o narr xbytes nbytes amask).length = 64 := by
  simp [barPuts, length_putBytes, len]

/-- The four fields written, and those left. -/
theorem barPuts_fields :
    let r := barPuts o narr xbytes nbytes amask
    leAt r 8 4 = narr % 256 ^ 4 ∧ leAt r 20 4 = xbytes % 256 ^ 4 ∧ leAt r 24 8 = nbytes % 256 ^ 8 ∧ leAt r 48 8 = amask % 256 ^ 8 ∧
      barPhase r = barPhase o ∧ barWdl r = barWdl o := by
  simp [barPuts, barPhase, barWdl, leAt_putBytes_apart, leAt_putBytes_toLe, length_putBytes, len]

end

/-- An object keeps its length, and a valid one says toward which phase it counted. -/
theorem barArrive_shape {o : List Byte} (a n x : Nat) (q : Option Nat) (len : o.length = 64) (valid : barValid o = true) :
    (barArrive o a n x q).1.length = 64 ∧ (barArrive o a n x q).2.1 = some (barPhase o) := by
  unfold barArrive
  simp only [valid, Bool.not_true, Bool.false_eq_true, if_false]
  split
  · exact ⟨by simp [len], rfl⟩
  · exact ⟨barPuts_length len .., rfl⟩

/-- The bit of an arriving thread is set in the arrival mask. -/
theorem barAmask_bit (o : List Byte) {a k : Nat} (ha : 0 < a) (hk : k < 64) :
    nbits (barAmask o a (some k) % 256 ^ 8) k 1 = 1 := by
  have bit : (barAmask o a (some k) % 2 ^ 64).testBit k = true := by
    rw [Nat.testBit_mod_two_pow, barAmask, if_pos ha, Nat.testBit_or, Nat.testBit_two_pow_self]
    simp [hk]
  rw [nbits, Nat.pow_one]
  simpa [Nat.testBit, Nat.and_comm 1, Nat.and_one_is_mod] using bit

end Sys2Proof.Machine
end

section
/-! PROOFS. Worked encodings, reset, phases and barrier objects (R80, R97, R362-R365, R372, R377, R425, R427). -/

namespace Sys2Proof.Machine

/-- Settles O3: each word is decoded. -/
theorem sampleWordsDecode : Obligations.SampleWordsDecode := by
  unfold Obligations.SampleWordsDecode
  decide

/-- Settles O9: every table is empty at reset, so each accessor gives the reset value. -/
theorem resetHasTheInvariant : Obligations.ResetHasTheInvariant :=
  ⟨⟨rfl, rfl⟩, rfl, rfl, rfl, rfl, rfl, fun _ => ⟨rfl, rfl, rfl, rfl, rfl, rfl, rfl, rfl, rfl, rfl, rfl, rfl, rfl, rfl⟩,
    fun _ => ⟨rfl, rfl, rfl⟩⟩

/-- Settles O39: the rule in words of 32 bits, and its boundary distances. -/
theorem phasePassing : Obligations.PhasePassing := by
  refine ⟨fun phase p => ?_, fun p => ?_, fun phase d hd => ?_, fun phase d lo hi => ?_⟩
  · unfold phasePassed
    congr 2
    bv_omega
  · unfold phasePassed
    rw [decide_eq_true_iff]
    bv_omega
  · unfold phasePassed
    rw [decide_eq_false_iff_not]
    bv_omega
  · unfold phasePassed
    rw [decide_eq_false_iff_not]
    bv_omega

/-- Settles O40: the objects that BINIT, an arrival and BINVAL leave, field by field. -/
theorem barrierObjectOperations : Obligations.BarrierObjectOperations := by
  refine ⟨barInit_fields, fun o a n x q len valid hq ha hn hx => ?_, fun o len => barInval_fields len⟩
  obtain ⟨length, phase⟩ := barArrive_shape a n x q len valid
  refine ⟨length, phase, fun below => ?_, fun pos arr byt => ?_⟩
  · rw [barArrive_below valid ha hn hx below]
    obtain ⟨narr, xbytes, nbytes, amask, same, wdl⟩ := barPuts_fields len (leAt o 8 4 + a) (leAt o 20 4 + x) (leAt o 24 8 + n) (barAmask o a q)
    refine ⟨same, narr.trans (Nat.mod_eq_of_lt ha), nbytes.trans (Nat.mod_eq_of_lt hn), xbytes.trans (Nat.mod_eq_of_lt hx), wdl, rfl,
      fun k hk ha => ?_⟩
    subst hk
    exact (congrArg (nbits · k 1) amask).trans (barAmask_bit o ha (hq k rfl))
  · have h1 := leAt_lt o 4 4
    have h2 := leAt_lt o 16 4
    rw [barArrive_exact valid ha hn hx pos arr byt]
    simp [barPhase, barWdl, barMax, List.append_assoc, leAt_append_toLe, leAt_append_skip, len]
    omega

end Sys2Proof.Machine
end

section
/-! SUPPORT. Canonical memory and the subset at issue, kept by the functions of the model: the predicates over states, effects and outcomes,
and how they pass through options, pairs, folds and conditionals. -/

namespace Sys2Proof.Machine
open Host

/-- Between steps memory is canonical; `cur` says which subset is at issue. -/
def State.Canon (cur : Option Cur) (s : State) : Prop := Memory.wf s.mem = true ∧ s.cur = cur

/-- A state that may be there is canonical. -/
def OptCanon (cur : Option Cur) : Option State → Prop
  | some t => t.Canon cur
  | none => True

/-- The state that an instruction leaves by its own effect is canonical. -/
def EffCanon (cur : Option Cur) : Eff → Prop
  | .done t => t.Canon cur
  | _ => True

/-- The next state is canonical. -/
inductive OutCanon (cur : Option Cur) : Outcome State Fault Refusal → Prop
  | next {t : State} (h : t.Canon cur) : OutCanon cur (.next t)
  | fault (r : Fault) : OutCanon cur (.fault r)
  | refused (r : Refusal) : OutCanon cur (.refused r)

section
variable {s t : State} {cur : Option Cur}

theorem OptCanon.some (h : t.Canon cur) : OptCanon cur (some t) := h

theorem OptCanon.get {o : Option State} (h : OptCanon cur o) (e : o = Option.some t) : t.Canon cur := by
  subst e
  exact h

theorem EffCanon.done (h : t.Canon cur) : EffCanon cur (.done t) := h

theorem State.Canon.of (h : s.Canon cur) (hm : t.mem = s.mem) (hc : t.cur = s.cur) : t.Canon cur := ⟨hm ▸ h.1, hc.trans h.2⟩

/-- Neither the memory nor the subset at issue is among the fields that are set. -/
theorem State.Canon.setFields {time tsc tscRem freeze bootstat bootHash err errAddr keys keyData queueOwner granuleOwner units evq
    spdm hostQps hostOut withheld lasersOut fwImage transInvals mgrEvents spindles cores teams launches queues ctxs parts slices socks
      stations channels
    routers links ports group agenda free nextUid nextOp} (h : s.Canon cur) :
    State.Canon cur ⟨time, tsc, tscRem, freeze, bootstat, bootHash, err, errAddr, s.mem, keys, keyData, queueOwner, granuleOwner, units,
      evq, spdm, hostQps, hostOut, withheld, lasersOut, fwImage, transInvals, mgrEvents, spindles, cores, teams, launches, queues, ctxs,
        parts,
      slices, socks, stations, channels, routers, links, ports, group, s.cur, agenda, free, nextUid, nextOp⟩ := h

theorem State.Canon.setMem {mem : List Cell} (h : s.Canon cur) (hm : Memory.wf mem = true) : State.Canon cur { s with mem := mem } :=
  ⟨hm, h.2⟩

theorem State.Canon.foldl {α : Type} {f : State → α → State} {l : List α} (h : s.Canon cur)
    (hf : ∀ s a, s.Canon cur → (f s a).Canon cur) : (l.foldl f s).Canon cur := by
  induction l generalizing s with
  | nil => exact h
  | cons a l ih => exact ih (hf s a h)

theorem State.Canon.foldlFst {α β : Type} {f : State × β → α → State × β} {l : List α} {x : State × β} (h : x.1.Canon cur)
    (hf : ∀ x a, x.1.Canon cur → (f x a).1.Canon cur) : (l.foldl f x).1.Canon cur := by
  induction l generalizing x with
  | nil => exact h
  | cons a l ih => exact ih (hf x a h)

theorem State.Canon.ite {p : Prop} [Decidable p] (hs : s.Canon cur) (ht : t.Canon cur) : State.Canon cur (if p then s else t) := by
  split
  · exact hs
  · exact ht

theorem State.Canon.iteFst {β : Type} {p : Prop} [Decidable p] {x y : State × β} (hx : x.1.Canon cur) (hy : y.1.Canon cur) :
    (if p then x else y).1.Canon cur := by
  split
  · exact hx
  · exact hy

theorem OutCanon.ite {p : Prop} [Decidable p] {x y : Outcome State Fault Refusal} (hx : OutCanon cur x) (hy : OutCanon cur y) :
    OutCanon cur (if p then x else y) := by
  split
  · exact hx
  · exact hy

theorem OutCanon.canon (h : OutCanon cur (.next s)) : s.Canon cur := by
  cases h
  assumption

theorem State.Canon.eq_fst {β : Type} {x : State × β} {b : β} (h : x.1.Canon cur) (e : x = (t, b)) : t.Canon cur := by
  subst e
  exact h

end
end Sys2Proof.Machine
end

section
/-! SUPPORT. Canonical memory is kept (log entry 3). Of the functions of: named operations over the state. -/

namespace Sys2Proof.Machine
open Host

section
variable {s t : State} {cur : Option Cur}

theorem State.Canon.modCore (h : s.Canon cur) (c : Nat) (f : Core → Core) : (s.modCore c f).Canon cur := by
  unfold State.modCore
  exact h.setFields

theorem State.Canon.modSpindle (h : s.Canon cur) (k : Nat) (f : Spindle → Spindle) : (s.modSpindle k f).Canon cur := by
  unfold State.modSpindle
  exact h.setFields

theorem State.Canon.modQueue (h : s.Canon cur) (q : Nat) (f : Queue → Queue) : (s.modQueue q f).Canon cur := by
  unfold State.modQueue
  exact h.setFields

theorem State.Canon.modCtx (h : s.Canon cur) (c : Nat) (f : Ctx → Ctx) : (s.modCtx c f).Canon cur := by
  unfold State.modCtx
  exact h.setFields

theorem State.Canon.modPart (h : s.Canon cur) (p : Nat) (f : Part → Part) : (s.modPart p f).Canon cur := by
  unfold State.modPart
  exact h.setFields

theorem State.Canon.modSlice (h : s.Canon cur) (k : Nat) (f : Slice → Slice) : (s.modSlice k f).Canon cur := by
  unfold State.modSlice
  exact h.setFields

theorem State.Canon.modSock (h : s.Canon cur) (k : Nat) (f : Sock → Sock) : (s.modSock k f).Canon cur := by
  unfold State.modSock
  exact h.setFields

theorem State.Canon.modStation (h : s.Canon cur) (k : Nat) (f : Station → Station) : (s.modStation k f).Canon cur := by
  unfold State.modStation
  exact h.setFields

theorem State.Canon.modChannel (h : s.Canon cur) (k : Nat) (f : Channel → Channel) : (s.modChannel k f).Canon cur := by
  unfold State.modChannel
  exact h.setFields

theorem State.Canon.modRouter (h : s.Canon cur) (k : Nat) (f : Router → Router) : (s.modRouter k f).Canon cur := by
  unfold State.modRouter
  exact h.setFields

theorem State.Canon.modLink (h : s.Canon cur) (k : Nat) (f : Link → Link) : (s.modLink k f).Canon cur := by
  unfold State.modLink
  exact h.setFields

theorem State.Canon.modPort (h : s.Canon cur) (k : Nat) (f : EthPort → EthPort) : (s.modPort k f).Canon cur := by
  unfold State.modPort
  exact h.setFields

theorem State.Canon.modUnit (h : s.Canon cur) (k : Nat) (f : PowerUnit → PowerUnit) : (s.modUnit k f).Canon cur := by
  unfold State.modUnit
  exact h.setFields

theorem State.Canon.modLaunch (h : s.Canon cur) (k : Nat) (f : Launch → Launch) : (s.modLaunch k f).Canon cur := by
  unfold State.modLaunch
  split
  · exact h.setFields
  · exact h

theorem State.Canon.modTeam (h : s.Canon cur) (t : Nat) (f : Team → Team) : (s.modTeam t f).Canon cur := by
  unfold State.modTeam
  split
  · exact h.setFields
  · exact h

theorem State.Canon.modWave (h : s.Canon cur) (t w : Nat) (f : Wave → Wave) : (s.modWave t w f).Canon cur := by
  unfold State.modWave
  exact h.modTeam ..

theorem State.Canon.fresh (h : s.Canon cur) : s.fresh.2.Canon cur := by
  unfold State.fresh
  dsimp only
  exact h.setFields

theorem State.Canon.freeBytes (h : s.Canon cur) (n : Nat) : (s.freeBytes n).1.Canon cur := by
  induction n generalizing s with
  | zero => exact h
  | succ n ih => exact ih h.fresh

theorem State.Canon.advance (h : s.Canon cur) (dt : Nat) : (s.advance dt).Canon cur := by
  unfold State.advance
  exact h.setFields

theorem State.Canon.setHalt (h : s.Canon cur) (p : Nat) (v : BitVec 24) : (s.setHalt p v).Canon cur := by
  unfold State.setHalt
  extract_lets _ _ _ s1
  exact (h.modPart ..).setFields

theorem State.Canon.writeRegs (h : s.Canon cur) (t w : Nat) (rs : List (Nat × Vec)) (given : List Nat) :
    (s.writeRegs t w rs given).Canon cur := by
  unfold State.writeRegs
  split
  · exact h
  · split
    · exact h
    · split
      · exact h.modWave ..
      · extract_lets
        exact (h.modCore ..).modWave ..

theorem State.Canon.raise (h : s.Canon cur) (part : Nat) (c : Cause) (source : Nat) (addr : W64) (pc : W64) (ctx ident : Nat) :
    (s.raise part c source addr pc ctx ident).Canon cur := by
  unfold State.raise
  exact h.modPart ..

theorem State.Canon.park (h : s.Canon cur) (part : Nat) (ps : List Parked) : (s.park part ps).Canon cur := by
  unfold State.park
  exact h.modPart ..

theorem State.Canon.takeTrap (h : s.Canon cur) (i : Iss) (t : Trap) : (s.takeTrap i t).Canon cur := by
  unfold State.takeTrap
  split
  · split
    · exact h
    · exact (h.raise ..).modWave ..
  · exact h.modWave ..

end
end Sys2Proof.Machine
end

section
/-! SUPPORT. Canonical memory is kept (log entry 3). Of the functions of: what messages carry for arbitration, source numbers, and the
router mesh that carries them. -/

namespace Sys2Proof.Machine
open Host

section
variable {s t : State} {cur : Option Cur}

theorem State.Canon.post (h : s.Canon cur) (r : Nat) (m : MeshMsg) : (s.post r m).Canon cur := by
  unfold State.post
  exact h.modRouter ..

theorem State.Canon.sendMesh (h : s.Canon cur) (r : Nat) (dest : MeshDest) (net source : Nat) (tm : Terms) (msg : Msg) :
    (s.sendMesh r dest net source tm msg).Canon cur := by
  unfold State.sendMesh
  exact (h.setFields).post ..

end
end Sys2Proof.Machine
end

section
/-! SUPPORT. Canonical memory is kept (log entry 3). Of the functions of: memory as the machine holds it. -/

namespace Sys2Proof.Machine
open Host

section
variable {s t : State} {cur : Option Cur}

theorem State.Canon.storeSector (h : s.Canon cur) (pa key : Nat) (x : Sector) (m : BitVec 64) : (s.storeSector pa key x m).Canon cur := by
  unfold State.storeSector
  exact h.setMem (Memory.writeN_wf _ _ h.1)

theorem State.Canon.spillLine (h : s.Canon cur) (k : Nat) (line net : Nat) (tm : Terms) : (s.spillLine k line net tm).Canon cur := by
  unfold State.spillLine
  split
  · exact h
  · extract_lets _ _ s1
    have h1 : s1.Canon cur := by
      unfold s1
      split
      · exact h
      · exact ((h.setFields).modSlice ..).sendMesh ..
    exact h1.modSlice ..

theorem State.Canon.sliceRoom (h : s.Canon cur) (k : Nat) (line net : Nat) (tm : Terms) : (s.sliceRoom k line net tm).Canon cur := by
  unfold State.sliceRoom
  extract_lets
  split
  · exact h
  · split
    · exact h.spillLine ..
    · exact h

theorem State.Canon.noteQcmd (h : s.Canon cur) (pa : Nat) (m : BitVec 64) : (s.noteQcmd pa m).Canon cur := by
  unfold State.noteQcmd
  split
  · exact h.setFields
  · exact h

theorem State.Canon.mergeSector (h : s.Canon cur) (pa key : Nat) (x : Sector) (m : BitVec 64) (net : Nat) (tm : Terms) :
    (s.mergeSector pa key x m net tm).Canon cur := by
  unfold State.mergeSector
  extract_lets s1
  split
  · exact (h.noteQcmd ..).storeSector ..
  · exact ((h.noteQcmd ..).sliceRoom ..).modSlice ..

theorem State.Canon.commitOf (h : s.Canon cur) (teams : List Nat) : (s.commitOf teams).Canon cur := by
  unfold State.commitOf
  exact h.foldl fun _ _ h1 => h1.modTeam ..

theorem State.Canon.fillTlb (h : s.Canon cur) (ctx : Nat) (core va : Nat) : (s.fillTlb ctx core va).Canon cur := by
  unfold State.fillTlb
  split
  · split
    · exact h
    · exact h.modCore ..
  · exact h

theorem State.Canon.stashTouched (h : s.Canon cur) (t : Nat) (o n : Nat) : (s.stashTouched t o n).Canon cur := by
  unfold State.stashTouched
  split
  · exact h
  · extract_lets
    split
    · exact h
    · exact h.modCore ..

theorem State.Canon.writeSector (h : s.Canon cur) (tm : Terms) (pa key : Nat) (bs : List Byte) :
    (s.writeSector tm pa key bs).Canon cur := by
  unfold State.writeSector
  extract_lets
  split
  · split
    · exact h.mergeSector ..
    · exact ((h.setFields).noteQcmd ..).modSock ..
  · split
    · exact h.mergeSector ..
    · exact (h.setFields).modSlice ..

theorem State.Canon.writePaFor (h : s.Canon cur) (tm : Terms) (pa key : Nat) (bs : List Byte) : (s.writePaFor tm pa key bs).Canon cur := by
  unfold State.writePaFor
  exact h.foldl fun _ _ h1 => h1.writeSector ..

theorem State.Canon.writePa (h : s.Canon cur) (pa key : Nat) (bs : List Byte) : (s.writePa pa key bs).Canon cur := by
  unfold State.writePa
  exact h.writePaFor ..

theorem State.Canon.mergeBytes (h : s.Canon cur) (pa key : Nat) (bs : List Byte) (net : Nat) (tm : Terms) :
    (s.mergeBytes pa key bs net tm).Canon cur := by
  unfold State.mergeBytes
  exact h.foldl fun _ _ h1 => h1.mergeSector ..

end
end Sys2Proof.Machine
end

section
/-! SUPPORT. Canonical memory is kept (log entry 3). Of the functions of: the issue of one wave subset. -/

namespace Sys2Proof.Machine
open Host

section
variable {s t : State} {cur : Option Cur}

theorem State.Canon.chanPop (h : s.Canon cur) (t : Nat) (tm : Team) (part : Nat) (b : Machine.Bind) (k : Nat) :
    (s.chanPop t tm part b k).Canon cur := by
  unfold State.chanPop
  split
  · exact h.modCore ..
  · exact (h.modTeam ..).stashTouched ..
  · exact h.modPort ..
  · exact h

theorem State.Canon.chanPush (h : s.Canon cur) (t w : Nat) (tm : Team) (part : Nat) (b : Machine.Bind) (v : Vec) :
    (s.chanPush t w tm part b v).Canon cur := by
  unfold State.chanPush
  split
  · extract_lets
    exact (h.modCore ..).modTeam ..
  · exact (h.modTeam ..).stashTouched ..
  · exact (h.modQueue ..).modTeam ..
  · exact (h.modPort ..).modTeam ..
  · exact h

theorem State.Canon.channelWake (h : s.Canon cur) : s.channelWake.Canon cur := by
  unfold State.channelWake
  dsimp only
  refine h.foldl fun _ _ h1 => ?_
  split
  · exact h1
  · refine h1.foldl fun _ _ h2 => ?_
    split
    · exact h2.modWave ..
    · exact h2

theorem State.Canon.popAll (h : s.Canon cur) (t : Nat) (tm : Team) (part : Nat) (ps : List (Machine.Bind × Nat)) :
    (s.popAll t tm part ps).Canon cur := by
  unfold State.popAll
  exact h.foldl fun _ _ h1 => h1.chanPop ..

theorem State.Canon.popSources (h : s.Canon cur) (i : Iss) : (s.popSources i).Canon cur := by
  unfold State.popSources
  split
  · exact h
  · exact h.popAll ..

theorem State.Canon.writeDst (h : s.Canon cur) (i : Iss) (vs : List Vec) (given : List Nat) : (s.writeDst i vs given).Canon cur := by
  unfold State.writeDst
  split
  · split
    · exact h.foldl fun _ _ h1 => h1.chanPush ..
    · exact h
  · split
    · exact h
    · extract_lets
      exact h.writeRegs ..

theorem State.Canon.issuedNext (h : s.Canon cur) (i : Iss) (hz : List Hazard) : (s.issuedNext i hz).Canon cur := by
  unfold State.issuedNext
  extract_lets s1
  exact (h.modTeam ..).setFields

theorem State.Canon.reuseLookup (h : s.Canon cur) (i : Iss) (op : Nat) : (s.reuseLookup i op).1.Canon cur := by
  unfold State.reuseLookup
  dsimp only
  split
  · exact h
  · exact h.modCore ..

theorem State.Canon.reuseFinish (h : s.Canon cur) (i : Iss) (op : Nat) (flags : List (BitVec 5)) :
    (s.reuseFinish i op flags).Canon cur := by
  unfold State.reuseFinish
  split
  · exact h
  · extract_lets
    exact h.modCore ..

theorem State.Canon.retire (h : s.Canon cur) (i : Iss) (o : Out) : (s.retire i o).Canon cur := by
  unfold State.retire
  extract_lets r s1 s2 s3 s4
  have hr : r.1.Canon cur := by
    unfold r
    split
    · exact h
    · exact h.reuseLookup ..
  have h1 : s1.Canon cur := hr.popSources ..
  have h2 : s2.Canon cur := by
    unfold s2
    split
    · exact h1
    · exact (h1.writeDst ..).reuseFinish ..
  split
  · exact ((h2.modWave ..).issuedNext ..).modWave ..
  · exact (h2.modWave ..).issuedNext ..

theorem State.Canon.issWakes (h : s.Canon cur) (i : Iss) : (i.wakes s).Canon cur := by
  unfold Iss.wakes
  split
  · exact h
  · exact h.channelWake ..

theorem State.Canon.dropProbes (h : s.Canon cur) (t : Nat) (w core : Nat) : (s.dropProbes t w core).Canon cur := by
  unfold State.dropProbes
  split
  · exact h
  · exact h.modCore ..

theorem Iss.front_canon (h : s.Canon cur) (i : Iss) {e : Eff} (he : i.front s = some e) : EffCanon cur e := by
  unfold Iss.front at he
  split at he
  · exact Option.some.inj he ▸ trivial
  · split at he
    · exact Option.some.inj he ▸ trivial
    · exact Option.some.inj he ▸ trivial
    · exact Option.some.inj he ▸ trivial
    · exact Option.some.inj he ▸ trivial
    · split at he
      · exact Option.some.inj he ▸ EffCanon.done (h.issuedNext ..)
      · obtain ⟨w, -, rfl⟩ := Option.map_eq_some_iff.mp he
        trivial

theorem State.Canon.conclude (h : s.Canon cur) (i : Iss) {e : Eff} (he : EffCanon cur e) : (s.conclude i e).Canon none := by
  unfold State.conclude
  extract_lets s1 s2
  have h1 : s1.Canon cur := by
    unfold s1
    split
    · exact h
    · exact h
    · exact h.dropProbes ..
  suffices s2.Canon cur from ⟨this.1, rfl⟩
  cases e with
  | trap t =>
    unfold s2
    dsimp only
    split
    · exact (((h1.popSources ..).modWave ..).takeTrap ..).issWakes ..
    · exact h1.takeTrap ..
  | stall => exact h1
  | block w => exact h1.modWave ..
  | fault ps => exact (h1.park ..).modWave ..
  | halt c addr => exact (h1.raise ..).modWave ..
  | done t => exact State.Canon.issWakes he ..

end
end Sys2Proof.Machine
end

section
/-! SUPPORT. Canonical memory is kept (log entry 3). Of the functions of: integer and address instructions. -/

namespace Sys2Proof.Machine
open Host

section
variable {s t : State} {cur : Option Cur}

theorem State.Canon.issue (h : s.Canon cur) {opc : Nat} {f : Form} {body : Iss → Eff} (hb : ∀ i, EffCanon cur (body i)) :
    OutCanon none (Machine.issue opc f s body) := by
  unfold Machine.issue
  split
  · exact .fault _
  · split
    · exact .next ⟨h.1, rfl⟩
    next i _ =>
      split
      next e he => exact .next (h.conclude i (Iss.front_canon h i he))
      · exact .next (h.conclude i (hb i))

theorem State.Canon.issueFixed (h : s.Canon cur) {opc : Nat} {f : Form} {body : Iss → Except Trap Out} :
    OutCanon none (Machine.issueFixed opc f s body) := by
  refine h.issue fun i => ?_
  split
  · trivial
  · exact .done (h.retire ..)

theorem State.Canon.startOp (h : s.Canon cur) (i : Iss) (o : Op) : (s.startOp i o).Canon cur := by
  unfold State.startOp
  exact ((h.setFields).modWave ..).issuedNext ..

theorem State.Canon.idivEvent (h : s.Canon cur) (f : Form) : OutCanon none (execIdiv f s) := by
  unfold execIdiv
  refine h.issue fun i => ?_
  split
  · exact trivial
  · extract_lets
    split
    · exact .done (((h.reuseLookup ..).writeDst ..).issuedNext ..)
    · exact .done ((h.reuseLookup ..).startOp ..)

end
end Sys2Proof.Machine
end

section
/-! SUPPORT. Canonical memory is kept (log entry 3). Of the functions of: branches, thread end, waits that do not block, rejoin masks and
predicates, software traps and breakpoints. -/

namespace Sys2Proof.Machine
open Host

section
variable {s t : State} {cur : Option Cur}

theorem State.Canon.dropPrivate (h : s.Canon cur) (tm : Team) (ln : Launch) (t w : Nat) (m : Mask) :
    (s.dropPrivate tm ln t w m).Canon cur := by
  unfold State.dropPrivate
  extract_lets _ _ s1
  split
  · exact h
  · split
    · exact h.modCore ..
    · dsimp only
      refine (h.modCore ..).foldl fun _ _ h2 => ?_
      refine h2.foldl fun _ _ h3 => ?_
      split
      · exact h3.modCore ..
      · exact h3

theorem State.Canon.freeNames (h : s.Canon cur) (t w : Nat) : (s.freeNames t w).Canon cur := by
  unfold State.freeNames
  split
  · exact h
  · split
    · exact h
    · split
      · exact (h.modCore ..).modWave ..
      · exact h

theorem State.Canon.exitEvent (h : s.Canon cur) (f : Form) : OutCanon none (execExit f s) := by
  unfold execExit
  refine h.issue fun i => ?_
  exact .done ((((h.issuedNext ..).dropPrivate ..).modWave ..).freeNames ..)

theorem State.Canon.jwaitEvent (h : s.Canon cur) (f : Form) : OutCanon none (execJwait f s) := by
  unfold execJwait
  refine h.issue fun i => ?_
  split
  · exact .done (h.issuedNext ..)
  · exact trivial

theorem State.Canon.yieldEvent (h : s.Canon cur) (f : Form) : OutCanon none (execYield f s) := by
  unfold execYield
  refine h.issue fun i => ?_
  split
  · exact .done ((h.issuedNext ..).modWave ..)
  · exact .done (h.issuedNext ..)

theorem State.Canon.sleepEvent (h : s.Canon cur) (f : Form) : OutCanon none (execSleep f s) := by
  unfold execSleep
  refine h.issue fun i => ?_
  extract_lets
  exact .done (((h.popSources ..).issuedNext ..).modWave ..)

theorem State.Canon.trapEvent (h : s.Canon cur) (f : Form) : OutCanon none (execTrap f s) := by
  unfold execTrap
  refine h.issue fun i => ?_
  exact trivial

theorem State.Canon.brkEvent (h : s.Canon cur) (f : Form) : OutCanon none (execBrk f s) := by
  unfold execBrk
  refine h.issue fun i => ?_
  split
  · exact .done (((h.popSources ..).setHalt ..).modWave ..)
  · exact trivial

end
end Sys2Proof.Machine
end

section
/-! SUPPORT. Canonical memory is kept (log entry 3). Of the functions of: the image of a saved team, and what of it is written again while
the team is saved. -/

namespace Sys2Proof.Machine
open Host

section
variable {s t : State} {cur : Option Cur}

theorem State.Canon.writeChanged (h : s.Canon cur) (tm : Terms) (pa : Nat) (old new : List Byte) :
    (s.writeChanged tm pa old new).Canon cur := by
  induction old generalizing s pa new with
  | nil => exact h
  | cons x old ih =>
    cases new with
    | nil => exact h
    | cons y new =>
      refine ih ?_ (pa + 1) new
      split
      · exact h
      · exact h.writePaFor ..

theorem State.Canon.resave (h : s.Canon cur) (before : Machine.State) (t : Nat) : (s.resave before t).Canon cur := by
  unfold State.resave
  split
  · split
    · exact h.writeChanged ..
    · exact h
  · exact h

end
end Sys2Proof.Machine
end

section
/-! SUPPORT. Canonical memory is kept (log entry 3). Of the functions of: the end of operations in flight. -/

namespace Sys2Proof.Machine
open Host

section
variable {s t : State} {cur : Option Cur}

theorem State.Canon.modOp (h : s.Canon cur) (t : Nat) (w id : Nat) (f : Op → Op) : (s.modOp t w id f).Canon cur := by
  unfold State.modOp
  exact h.modWave ..

theorem State.Canon.beginOp (h : s.Canon cur) (i : Iss) (o : Op) : (s.beginOp i o).Canon cur := by
  unfold State.beginOp
  exact ((h.setFields).modWave ..).issuedNext ..

theorem State.Canon.contribute (h : s.Canon cur) (t : Nat) (ms : List (List Byte)) : (s.contribute t ms).Canon cur := by
  unfold State.contribute
  split
  · exact h
  · split
    · exact h
    · split
      · exact h
      · exact h.modTeam ..

theorem State.Canon.finishOp (h : s.Canon cur) (t w : Nat) (o : Op) : (s.finishOp t w o).Canon cur := by
  unfold State.finishOp
  split
  · exact h
  · extract_lets s1 s2 s3 s4 s5 s6
    have h2 : s2.Canon cur := by
      unfold s2
      split
      · exact h.popAll ..
      · exact (h.popAll ..).writeDst ..
    have h5 : s5.Canon cur := by
      unfold s5
      split
      · exact ((h2.reuseFinish ..).modOp ..).channelWake ..
      · exact ((h2.reuseFinish ..).modOp ..).channelWake ..
      · exact (h2.reuseFinish ..).modOp ..
    exact (h5.contribute ..).modWave ..

theorem State.Canon.finishIfRoom (h : s.Canon cur) (t w : Nat) (o : Op) : (s.finishIfRoom t w o).Canon cur := by
  unfold State.finishIfRoom
  split
  · split
    · exact h.finishOp ..
    · exact h
  · exact h

theorem State.Canon.subsetRetirementEvent (h : s.Canon cur) (team : Nat) (wave op : Nat) : OutCanon cur
    (execSubsetRetirement team wave op s) := by
  unfold execSubsetRetirement
  split
  · split
    · exact .next (h.finishIfRoom ..)
    · exact .next h
  · exact .next h

end
end Sys2Proof.Machine
end

section
/-! SUPPORT. Canonical memory is kept (log entry 3). Of the functions of: requests of cores, the L1 with its masked bytes and filters, and
the draining that releases, fences and bridges ask for. -/

namespace Sys2Proof.Machine
open Host

section
variable {s t : State} {cur : Option Cur}

theorem State.Canon.answer (h : s.Canon cur) (k : Nat) (r : Req) (msg : Msg) : (s.answer k r msg).Canon cur := by
  unfold State.answer
  split
  · exact h.sendMesh ..
  · exact h.sendMesh ..
  · exact h
  · exact h.sendMesh ..

theorem State.Canon.sendReq (h : s.Canon cur) (core : Nat) (asker : Asker) (dom : Dom) (line key : Nat) (kind : ReqKind) (tm : Terms)
    (hnol1 : Bool) : (s.sendReq core asker dom line key kind tm hnol1).1.Canon cur := by
  unfold State.sendReq
  dsimp only
  split
  · exact h
  · exact (h.setFields).modStation ..

theorem State.Canon.writeBack (h : s.Canon cur) (core sec : Nat) (doms : List Dom) (tm : Terms) :
    (s.writeBack core sec doms tm).Canon cur := by
  unfold State.writeBack
  split
  · exact h
  · split
    · exact h
    · extract_lets _ f1 _ s2
      have hf1 {s a1} (h1 : State.Canon cur s) : State.Canon cur (f1 s a1) := by
        unfold f1
        split
        · exact h1
        · split
          next _ _ _ e2 =>
            exact ((h1.sendReq ..).eq_fst e2).modCore ..
      have h2 : s2.Canon cur := (h.foldl fun _ _ => hf1).commitOf ..
      split
      · exact h
      · exact h2.modCore ..

theorem State.Canon.writeBackLine (h : s.Canon cur) (core line : Nat) (doms : List Dom) (tm : Terms) :
    (s.writeBackLine core line doms tm).Canon cur := by
  unfold State.writeBackLine
  exact h.foldl fun _ _ h1 => h1.writeBack ..

theorem State.Canon.writeBackAll (h : s.Canon cur) (core : Nat) (d : Dom) (tm : Terms) : (s.writeBackAll core d tm).Canon cur := by
  unfold State.writeBackAll
  exact h.foldl fun _ _ h1 => h1.writeBackLine ..

theorem State.Canon.failWriteBack (h : s.Canon cur) (t : Nat) (tm : Team) (ln : Launch) (va : Nat) (a : Machine.Acc) :
    (s.failWriteBack t tm ln va a).Canon cur := by
  unfold State.failWriteBack
  split
  · exact h
  · extract_lets
    split
    · exact h
    · exact h.park ..
  · exact h.raise ..

theorem State.Canon.cleanStash (h : s.Canon cur) (t osec : Nat) (drop : Bool) (terms : Terms) :
    (s.cleanStash t osec drop terms).Canon cur := by
  unfold State.cleanStash
  split
  · exact h
  · split
    · extract_lets _ _ f1
      have hf1 {s} (h1 : State.Canon cur s) : State.Canon cur (f1 s) := by
        unfold f1
        split
        · exact (h1.modCore ..).modTeam ..
        · exact h1.modTeam ..
      split
      · exact hf1 (h)
      · split
        · exact h
        · split
          · extract_lets f2
            have hf2 {s a1} (h2 : State.Canon cur s) : State.Canon cur (f2 s a1) := by
              unfold f2
              split
              · exact h2
              · extract_lets
                exact (h2.sendReq ..).modCore ..
            exact (hf1 ((h.foldl fun _ _ => hf2).commitOf ..)).modCore ..
          · exact h.failWriteBack ..
    · exact h

theorem State.Canon.cleanLine (h : s.Canon cur) (core : Nat) (t line : Nat) (drop : Bool) (tm : Terms) :
    (s.cleanLine core t line drop tm).Canon cur := by
  unfold State.cleanLine
  exact (h.writeBackLine ..).foldl fun _ _ h1 => h1.cleanStash ..

theorem State.Canon.applyInval (h : s.Canon cur) (core line : Nat) (tm : Terms) : (s.applyInval core line tm).Canon cur := by
  unfold State.applyInval
  extract_lets s1 _ s2
  have h2 : s2.Canon cur := (h.writeBackLine ..).foldl fun _ _ h2 => h2.cleanStash ..
  exact h2.modCore ..

theorem State.Canon.applyHeld (h : s.Canon cur) (core : Nat) (d : Dom) : (s.applyHeld core d).Canon cur := by
  unfold State.applyHeld
  extract_lets _ s1
  have h1 : s1.Canon cur := h.foldl fun _ _ h1 => h1.applyInval ..
  exact h1.modCore ..

theorem State.Canon.acquire (h : s.Canon cur) (core : Nat) (doms : List Dom) (scope : Scope) (bwait : Bool) :
    (s.acquire core doms scope bwait).Canon cur := by
  unfold State.acquire
  extract_lets s1
  have h1 : s1.Canon cur := by
    unfold s1
    split
    · exact h.foldl fun _ _ h1 => h1.applyHeld ..
    · exact h
  exact h1.modCore ..

theorem State.Canon.cleanTeamStash (h : s.Canon cur) (t : Nat) (terms : Terms) : (s.cleanTeamStash t terms).Canon cur := by
  unfold State.cleanTeamStash
  split
  · exact h.foldl fun _ _ h1 => h1.cleanStash ..
  · exact h

theorem State.Canon.release (h : s.Canon cur) (i : Iss) (before : Nat) (doms : List Dom) (scope : Scope) : OptCanon cur
    (s.release i before doms scope) := by
  unfold State.release
  extract_lets
  split
  · trivial
  · split
    · refine .some ((h.cleanTeamStash ..).foldl fun _ _ h1 => ?_)
      split
      · exact h1.writeBackAll ..
      · exact h1.writeBackAll ..
      · exact h1
    · exact .some h

end
end Sys2Proof.Machine
end

section
/-! SUPPORT. Canonical memory is kept (log entry 3). Of the functions of: the photonic crossbar, the router mesh, admission at slices and
memory sockets, and what a home slice does with a request. -/

namespace Sys2Proof.Machine
open Host

section
variable {s t : State} {cur : Option Cur}

theorem State.Canon.countLate (h : s.Canon cur) (deadline : W64) (queue part : Nat) : (s.countLate deadline queue part).Canon cur := by
  unfold State.countLate
  split
  · extract_lets _ s1
    exact (h.modQueue ..).writePa ..
  · exact h

theorem State.Canon.slotSendEvent (h : s.Canon cur) (slice : Nat) : OutCanon cur (execSlotSend slice s) := by
  unfold execSlotSend
  extract_lets _ s1
  split
  · exact .next (h.modChannel ..)
  · extract_lets
    split
    · extract_lets
      exact .next (((h.modChannel ..).modStation ..).modChannel ..)
    · split
      · exact .next (h.modChannel ..)
      · extract_lets
        exact .next (((h.modChannel ..).modStation ..).modChannel ..)

theorem State.Canon.arriveAtSlice (h : s.Canon cur) (k : Nat) (r : Req) : (s.arriveAtSlice k r).Canon cur := by
  unfold State.arriveAtSlice
  extract_lets
  split
  · exact h.answer ..
  · exact h.modSlice ..

theorem State.Canon.releaseHeld (h : s.Canon cur) (slice st : Nat) : (s.releaseHeld slice st).Canon cur := by
  unfold State.releaseHeld
  extract_lets
  exact (h.modChannel ..).foldl fun _ _ h1 => h1.arriveAtSlice ..

theorem State.Canon.slotReceiveEvent (h : s.Canon cur) (slice : Nat) (good : Bool) : OutCanon cur (execSlotReceive slice good s) := by
  unfold execSlotReceive
  split
  · exact .next h
  · extract_lets s1 s2 _ _ _ s3 s4 s5 s6
    have h4 : s4.Canon cur := ((h.modChannel ..).modChannel ..).foldl fun _ _ h4 => h4.answer ..
    have h6 : s6.Canon cur := ((h.modChannel ..).modStation ..).modChannel ..
    split
    · exact .next (((h.modChannel ..).modChannel ..).releaseHeld ..)
    · split
      · exact .next ((h4.raise ..).releaseHeld ..)
      · exact .next (h6.sendMesh ..)

theorem State.Canon.slotResendEvent (h : s.Canon cur) (slice station : Nat) : OutCanon cur (execSlotResend slice station s) := by
  unfold execSlotResend
  split
  · exact .next h
  · exact .next (h.modStation ..)

theorem State.Canon.sliceAdmissionEvent (h : s.Canon cur) (slice : Nat) : OutCanon cur (execSliceAdmission slice s) := by
  unfold execSliceAdmission
  extract_lets _ _ _ s1 pick
  have h1 : s1.Canon cur := h.modSlice ..
  cases pick with
  | none => exact .next h1
  | some r =>
    refine .next ?_
    split
    · exact h1.modSlice ..
    · exact (h1.modSlice ..).countLate ..

theorem State.Canon.unspill (h : s.Canon cur) (k id : Nat) : (s.unspill k id).Canon cur := by
  unfold State.unspill
  split
  · dsimp only
    refine State.Canon.modSlice ?_ ..
    refine h.foldl fun _ _ h1 => ?_
    split
    · exact h1
    · exact h1.storeSector ..
  · exact h

theorem State.Canon.socketAdmissionEvent (h : s.Canon cur) (socket : Nat) : OutCanon cur (execSocketAdmission socket s) := by
  unfold execSocketAdmission
  split
  · exact .next h
  · extract_lets _ _ _ s1
    split
    · exact .next (h.modSock ..)
    · extract_lets s2
      split
      · extract_lets
        split
        · exact .next (((h.modSock ..).modSock ..).sendMesh ..)
        · exact .next ((((h.modSock ..).modSock ..).countLate ..).sendMesh ..)
      · split
        · exact .next (((h.modSock ..).modSock ..).unspill ..)
        · exact .next ((((h.modSock ..).modSock ..).countLate ..).unspill ..)
      · exact .next (((h.modSock ..).modSock ..).storeSector ..)
      · exact .next ((h.modSock ..).modSock ..)

theorem State.Canon.deliver (h : s.Canon cur) (m : MeshMsg) : (s.deliver m).Canon cur := by
  unfold State.deliver
  split
  · extract_lets
    split
    · exact h
    · split
      · split
        · exact h.modCore ..
        · exact h
      · split
        · exact h.modCore ..
        · exact h.modCore ..
  · split
    · exact h.arriveAtSlice ..
    · exact h.modSlice ..
  · exact h.modSock ..
  · split
    · exact h.setFields
    · exact h
  · exact h.modLink ..
  · split
    · exact h.modStation ..
    · exact h

theorem State.Canon.atHead (h : s.Canon cur) (m : MeshMsg) : (s.atHead m).1.Canon cur := by
  unfold State.atHead
  split
  · exact h.countLate ..
  · exact h

theorem State.Canon.routerForwardEvent (h : s.Canon cur) (router out : Nat) : OutCanon cur (execRouterForward router out s) := by
  unfold execRouterForward
  extract_lets
  split
  · exact .next h
  · extract_lets s1
    split
    next _ _ _ e2 =>
      split
      · exact .next ((((h.modRouter ..).atHead ..).eq_fst e2).post ..)
      · exact .next ((((h.modRouter ..).atHead ..).eq_fst e2).deliver ..)

theorem State.Canon.atomAt (h : s.Canon cur) (pa key : Nat) (a : AtomLane) (net : Nat) (tm : Terms) :
    (s.atomAt pa key a net tm).1.Canon cur := by
  unfold State.atomAt
  dsimp only
  exact h.mergeBytes ..

theorem State.Canon.dropRegs (h : s.Canon cur) (p : Reg → Bool) : (s.dropRegs p).Canon cur := by
  unfold State.dropRegs
  dsimp only
  refine h.foldl fun _ _ h1 => ?_
  split
  · exact h1
  · exact h1.modSlice ..

theorem State.Canon.wakeRegistered (h : s.Canon cur) (k : Nat) (line off : Nat) (tm : Terms) :
    (s.wakeRegistered k line off tm).Canon cur := by
  unfold State.wakeRegistered
  extract_lets
  refine (h.modSlice ..).foldl fun _ _ h1 => ?_
  split
  · exact h1.sendMesh ..
  · exact h1

theorem State.Canon.applyReq (h : s.Canon cur) (k : Nat) (r : Req) : (s.applyReq k r).1.Canon cur := by
  unfold State.applyReq
  dsimp only
  split
  · exact h
  · dsimp only
    refine h.foldl fun _ _ h1 => ?_
    split
    · exact h1
    · exact h1.mergeSector ..
  · dsimp only
    refine State.Canon.foldlFst h fun _ _ h1 => ?_
    exact h1.atomAt ..
  · exact h.mergeBytes ..
  · dsimp only
    split
    · exact h
    · exact h.mergeBytes ..
  · dsimp only
    split
    · split
      · exact h.wakeRegistered ..
      · exact h
    · split
      · exact ((h.mergeBytes ..).wakeRegistered ..).modSlice ..
      · exact (h.mergeBytes ..).modSlice ..

theorem State.Canon.absorb (h : s.Canon cur) (k : Nat) : (s.absorb k).Canon cur := by
  unfold State.absorb
  extract_lets
  refine (h.modSlice ..).foldl fun _ _ h1 => ?_
  split
  · exact h1.modSlice ..
  · exact h1.modSlice ..
  · exact h1.modSlice ..
  · exact h1

theorem State.Canon.askMemory (h : s.Canon cur) (k : Nat) (r : Req) (secs : List Nat) : (s.askMemory k r secs).Canon cur := by
  unfold State.askMemory
  extract_lets
  split
  · exact h
  · exact ((h.sliceRoom ..).modSlice ..).sendMesh ..

theorem State.Canon.performReq (h : s.Canon cur) (k : Nat) (r : Req) : (s.performReq k r).Canon cur := by
  unfold State.performReq
  extract_lets s1 _ _ _ _ _ s2 _ _ s3 _ _ _ res _ src s5 s6
  have h1 : s1.Canon cur := h.modSlice ..
  have h2 : s2.Canon cur := by
    unfold s2
    split
    · exact (h1.applyReq ..).modSlice ..
    · exact h1.applyReq ..
  have h3 : s3.Canon cur := h1.sliceRoom ..
  have h4 : res.1.Canon cur := by
    unfold res
    split
    · exact h3
    · exact h3.applyReq ..
  have h5 : s5.Canon cur := State.Canon.modSlice (State.Canon.setFields (s := src) h4) ..
  have h6 : s6.Canon cur := h5.foldl fun _ _ h6 => h6.sendMesh ..
  split
  · exact h2.answer ..
  · split
    · exact (h3.applyReq ..).answer ..
    · exact h6.foldl fun _ _ h7 => h7.sendMesh ..

theorem State.Canon.slicePerformEvent (h : s.Canon cur) (slice : Nat) : OutCanon cur (execSlicePerform slice s) := by
  unfold execSlicePerform
  extract_lets s1
  split
  · split
    · exact .next (((h.absorb ..).modSlice ..).answer ..)
    · exact .next ((h.absorb ..).performReq ..)
  · split
    · exact .next ((h.absorb ..).askMemory ..)
    · exact .next (h.absorb ..)

theorem State.Canon.writePropagatedEvent (h : s.Canon cur) (slice wid : Nat) : OutCanon cur (execWritePropagated slice wid s) := by
  unfold execWritePropagated
  extract_lets s1 s2
  split
  · exact .next (h.absorb ..)
  · dsimp only
    split
    · dsimp only
      split
      · exact .next (((h.absorb ..).modSlice ..).answer ..)
      · exact .next ((((h.absorb ..).modSlice ..).setFields).answer ..)
    · split
      · exact .next ((((h.absorb ..).modSlice ..).applyReq ..).answer ..)
      · exact .next (((((h.absorb ..).modSlice ..).applyReq ..).setFields).answer ..)

theorem State.Canon.hold (h : s.Canon cur) (core net k wid line : Nat) (tm : Terms) : (s.hold core net k wid line tm).Canon cur := by
  unfold State.hold
  extract_lets l
  cases l with
  | nil => exact h.modCore ..
  | cons old more =>
    dsimp only
    split
    · exact (h.applyInval ..).modCore ..
    · exact h.modCore ..

theorem State.Canon.invalidationArrivalEvent (h : s.Canon cur) (core : Nat) : OutCanon cur (execInvalidationArrival core s) := by
  unfold execInvalidationArrival
  split
  · extract_lets s1 s2 s3
    have h3 : s3.Canon cur := by
      unfold s3
      split
      · exact ((h.modCore ..).modCore ..).hold ..
      · exact ((h.modCore ..).modCore ..).hold ..
      · exact ((h.modCore ..).modCore ..).applyInval ..
    exact .next (h3.sendMesh ..)
  · exact .next h

theorem State.Canon.l1EvictionEvent (h : s.Canon cur) (core : Nat) (line sector : Nat) : OutCanon cur
    (execL1Eviction core line sector s) := by
  unfold execL1Eviction
  split
  · extract_lets
    exact .next ((h.writeBack ..).modCore ..)
  · exact .next h

theorem State.Canon.stashRecallEvent (h : s.Canon cur) (team line : Nat) (write : Bool) : OutCanon cur
    (execStashRecall team line write s) := by
  unfold execStashRecall
  extract_lets
  exact .next (h.foldl fun _ _ h1 => h1.cleanStash ..)

end
end Sys2Proof.Machine
end

section
/-! SUPPORT. Canonical memory is kept (log entry 3). Of the functions of: what the memory instructions share. -/

namespace Sys2Proof.Machine
open Host

section
variable {s t : State} {cur : Option Cur}

theorem State.Canon.undefinePage (h : s.Canon cur) (t va : Nat) : (s.undefinePage t va).Canon cur := by
  unfold State.undefinePage
  split
  · exact h
  · split
    · exact h
    · split
      · split
        · extract_lets
          exact ((h.freeBytes ..).mergeBytes ..).modTeam ..
        · exact h
      · exact h

theorem State.Canon.undefinePages (h : s.Canon cur) : s.undefinePages.Canon cur := by
  unfold State.undefinePages
  exact h.foldl fun _ _ h1 => h1.foldl fun _ _ h2 => h2.undefinePage ..

theorem State.Canon.fillTlbs (h : s.Canon cur) (i : Iss) (as : List LaneAcc) : (s.fillTlbs i as).Canon cur := by
  unfold State.fillTlbs
  exact (h.undefinePages ..).foldl fun _ _ h1 => h1.foldl fun _ _ h2 => h2.fillTlb ..

theorem State.Canon.toPackage (h : s.Canon cur) (core pkg : Nat) (dom : Dom) (tm : Terms) (asker : Asker) (body : LinkBody) :
    (s.toPackage core pkg dom tm asker body).Canon cur := by
  unfold State.toPackage
  extract_lets
  exact h.sendMesh ..

theorem State.Canon.askProbes (h : s.Canon cur) (i : Iss) (need : Need) (xs : List (Nat × Nat × Nat × Nat × Nat × Nat)) :
    (s.askProbes i need xs).Canon cur := by
  unfold State.askProbes
  dsimp only
  refine h.foldl fun _ _ h1 => ?_
  split
  · exact h1
  · exact ((h1.setFields).modCore ..).toPackage ..

theorem State.Canon.issReleaseWait (h : s.Canon cur) (i : Iss) : OptCanon cur (i.releaseWait s) := by
  unfold Iss.releaseWait
  split
  · exact trivial
  · split
    · exact h.release ..
    · exact trivial

theorem State.Canon.releaseStash (h : s.Canon cur) (i : Iss) : (s.releaseStash i).Canon cur := by
  unfold State.releaseStash
  split
  · exact h.cleanTeamStash ..
  · exact h

theorem State.Canon.touchMapped (h : s.Canon cur) (t : Nat) (o : Nat) (pa key : Nat) : (s.touchMapped t o pa key).Canon cur := by
  unfold State.touchMapped
  exact h.modTeam ..

theorem State.Canon.fillMapped (h : s.Canon cur) (t line : Nat) (secs : AMap Sector) : (s.fillMapped t line secs).Canon cur := by
  unfold State.fillMapped
  exact h.modTeam ..

theorem State.Canon.notePending (h : s.Canon cur) (t : Nat) (w line : Nat) : (s.notePending t w line).Canon cur := by
  unfold State.notePending
  split
  · exact h.modWave ..
  · exact h

theorem State.Canon.writeMapped (h : s.Canon cur) (t : Nat) (o : Nat) (pa key : Nat) (blk : Bool) (bs : List Byte) :
    (s.writeMapped t o pa key blk bs).Canon cur := by
  unfold State.writeMapped
  split
  · exact h
  · extract_lets
    exact (h.modCore ..).modTeam ..

theorem State.Canon.sendRead (h : s.Canon cur) (core : Nat) (asker : Asker) (dom : Dom) (line key : Nat) (secs : BitVec 4) (tm : Terms)
    (hnol1 : Bool) : (s.sendRead core asker dom line key secs tm hnol1).Canon cur := by
  unfold State.sendRead
  split
  next _ _ _ e1 =>
    exact ((h.sendReq ..).eq_fst e1).modCore ..

theorem State.Canon.sendAtoms (h : s.Canon cur) (core n : Nat) : (s.sendAtoms core n).Canon cur := by
  induction n generalizing s with
  | zero => exact h
  | succ n ih =>
    unfold State.sendAtoms
    split
    · exact h
    · split
      · exact h
      · refine ih (State.Canon.modCore ?_ ..)
        split
        · exact h.sendReq ..
        · exact (h.toPackage ..).setFields
        · exact h

theorem State.Canon.atomAnswered (h : s.Canon cur) (core : Nat) (p : AtomReq → Bool) : (s.atomAnswered core p).Canon cur := by
  unfold State.atomAnswered
  exact (h.modCore ..).sendAtoms ..

theorem State.Canon.beginMem (h : s.Canon cur) (i : Iss) (o : Op) : (s.beginMem i o).Canon cur := by
  unfold State.beginMem
  extract_lets s1
  split
  · exact ((h.dropProbes ..).beginOp ..).modWave ..
  · exact (h.dropProbes ..).beginOp ..

end
end Sys2Proof.Machine
end

section
/-! SUPPORT. Canonical memory is kept (log entry 3). Of the functions of: loads, stores, atomics, rings, fences and bridges at issue, and
the release of a store from its queue. -/

namespace Sys2Proof.Machine
open Host

section
variable {s t : State} {cur : Option Cur}

theorem State.Canon.askRemote (h : s.Canon cur) (i : Iss) (op : Nat) (dom : Dom) (ps : List Piece) :
    (s.askRemote i op dom ps).1.Canon cur := by
  unfold State.askRemote
  dsimp only
  split
  · dsimp only
    refine State.Canon.foldlFst h fun _ _ h1 => ?_
    split
    · exact h1.toPackage ..
    · exact h1
  · refine State.Canon.foldlFst h fun _ _ h1 => ?_
    split
    · dsimp only
      split
      · exact (h1.modCore ..).toPackage ..
      · exact h1.toPackage ..
    · exact h1

theorem State.Canon.askLines (h : s.Canon cur) (i : Iss) (op : Nat) (miss : List Piece) : (s.askLines i op miss).1.Canon cur := by
  unfold State.askLines
  dsimp only
  exact h.foldl fun _ _ h1 => h1.sendRead ..

theorem State.Canon.loadHit (h : s.Canon cur) (i : Iss) (kind : OpKind) (e : ReuseEntry) : (s.loadHit i kind e).Canon cur := by
  unfold State.loadHit
  extract_lets
  exact ((h.writeDst ..).beginOp ..).modWave ..

theorem State.Canon.issLoadWait (h : s.Canon cur) (i : Iss) (as : List LaneAcc) (ps : List Piece) : OptCanon cur (i.loadWait s as ps) := by
  unfold Iss.loadWait
  extract_lets
  split
  · exact .some h
  · split
    · exact .some h
    · split
      · exact .some (h.foldl fun _ _ h1 => h1.cleanLine ..)
      · split
        · exact .some h
        · split
          · exact .some h
          · exact trivial

/-- A check that fails ends the instruction in no state of its own. -/
theorem Iss.checked_canon {i : Iss} {tsc : W64} {as : List LaneAcc} {need : Need} {e : Eff} (he : i.checked tsc as need = .error e) :
    EffCanon cur e := by
  unfold Iss.checked at he
  dsimp only at he
  split at he
  · exact Except.error.inj he ▸ trivial
  · exact Except.error.inj he ▸ trivial
  · exact Except.error.inj he ▸ trivial
  · split at he
    · exact Except.error.inj he ▸ trivial
    · exact Except.error.inj he ▸ trivial
  · cases he
  · exact Except.error.inj he ▸ trivial

theorem State.Canon.verdictError (h : s.Canon cur) {i : Iss} {as : List LaneAcc} {need : Need} {e : Eff} (he :
    i.verdict s as need = .error e) :
    EffCanon cur e := by
  unfold Iss.verdict at he
  dsimp only at he
  split at he
  · exact Iss.checked_canon he
  · split at he
    · exact Iss.checked_canon he
    · split at he
      · exact Iss.checked_canon he
      · exact Except.error.inj he ▸ EffCanon.done (h.askProbes ..)

theorem State.Canon.loadPiece {acc : State × List (Nat × Nat × List Byte) × List Piece} (h : acc.1.Canon cur) (t w core : Nat)
    (direct sc : Bool)
    (p : Piece) : (State.loadPiece t w core direct sc acc p).1.Canon cur := by
  unfold State.loadPiece
  dsimp only
  split
  · exact h
  · split
    · exact h
    · split
      · exact h.notePending ..
      · dsimp only
        split
        · exact h
        · exact h.touchMapped ..
  · split
    · exact h
    · exact h
  · split
    · exact h
    · split
      · exact h.notePending ..
      · exact h

theorem State.Canon.issLoad (h : s.Canon cur) (i : Iss) (kind : OpKind) (width : Nat) (reusable : Bool) (hint : BitVec 2) :
    EffCanon cur (i.load s kind width reusable hint) := by
  unfold Iss.load
  extract_lets _ _ s1 _ _ _ _ _ s2
  split
  next e he => exact h.verdictError he
  · have h1 : s1.Canon cur := h.fillTlbs ..
    have h2 : s2.Canon cur := h1.modCore ..
    split
    next e3 =>
      exact .done ((h1.issLoadWait ..).get e3)
    · split
      · exact .done (h2.loadHit ..)
      · extract_lets s3
        have h3 : s3.Canon cur := by
          unfold s3
          split
          · exact h2.modCore ..
          · exact h2
        refine .done (State.Canon.beginMem (State.Canon.askLines (State.Canon.askRemote ?_ ..) ..) ..)
        exact State.Canon.foldlFst h3 fun _ _ h4 => h4.loadPiece ..

theorem State.Canon.ldEvent (h : s.Canon cur) (f : Form) : OutCanon none (execLd f s) := by
  unfold execLd
  refine h.issue fun i => ?_
  exact h.issLoad ..

theorem State.Canon.ldkEvent (h : s.Canon cur) (f : Form) : OutCanon none (execLdk f s) := by
  unfold execLdk
  refine h.issue fun i => ?_
  exact h.issLoad ..

theorem State.Canon.scldEvent (h : s.Canon cur) (f : Form) : OutCanon none (execScld f s) := by
  unfold execScld
  refine h.issue fun i => ?_
  exact h.issLoad ..

theorem State.Canon.endReuse (h : s.Canon cur) (core : Nat) (ps : List Place) : (s.endReuse core ps).Canon cur := by
  unfold State.endReuse
  refine h.foldl fun _ _ h1 => ?_
  split
  · exact h1.modCore ..
  · exact h1

theorem State.Canon.stEvent (h : s.Canon cur) (f : Form) : OutCanon none (execSt f s) := by
  unfold execSt
  refine h.issue fun i => ?_
  extract_lets _ _ _ s1
  split
  next e he => exact h.verdictError he
  · split
    · exact .done (h.fillTlbs ..)
    · split
      next e3 => exact .done (((h.fillTlbs ..).issReleaseWait ..).get e3)
      · exact .done (((((((h.fillTlbs ..).releaseStash ..).endReuse ..).modCore ..).popSources ..).contribute ..).beginMem ..)

theorem State.Canon.modStore (h : s.Canon cur) (core : Nat) (e : QStore) (f : QStore → QStore) : (s.modStore core e f).Canon cur := by
  unfold State.modStore
  exact h.modCore ..

theorem State.Canon.storeDone (h : s.Canon cur) (core : Nat) (e : QStore) : (s.storeDone core e).Canon cur := by
  unfold State.storeDone
  split
  · exact (h.modCore ..).modWave ..
  · exact h.modStore ..

theorem State.Canon.storeHere (h : s.Canon cur) (core : Nat) (e : QStore) (p : Nat × Place × List Byte) : OptCanon cur
    (s.storeHere core e p) := by
  unfold State.storeHere
  split
  · exact .some (h.modTeam ..)
  · exact .some (h.writeMapped ..)
  · split
    · exact .some h
    · cases (s.core core).l1Room (_ / 256) with
      | none => trivial
      | some c => exact .some (h.modCore ..)

theorem State.Canon.makeL1Room (h : s.Canon cur) (core : Nat) (tm : Terms) : (s.makeL1Room core tm).Canon cur := by
  unfold State.makeL1Room
  split
  · exact h.writeBackLine ..
  · exact h

theorem State.Canon.sendStore (h : s.Canon cur) (core : Nat) (e : QStore) (out : List (Nat × Place × List Byte)) (tm : Terms) :
    (s.sendStore core e out tm).1.Canon cur := by
  unfold State.sendStore
  dsimp only
  split
  · exact (((h.foldl fun _ _ h1 => h1.applyInval ..).foldl fun _ _ h1 => h1.sendReq ..).foldl fun _ _ h1 => h1.toPackage ..).modTeam ..
  · exact ((h.foldl fun _ _ h1 => h1.applyInval ..).foldl fun _ _ h1 => h1.sendReq ..).foldl fun _ _ h1 => h1.toPackage ..

theorem OptCanon.foldl {α : Type} {g : State → α → Option State} (hg : ∀ s a, s.Canon cur → OptCanon cur (g s a)) (l : List α) {o :
    Option State}
    (h : OptCanon cur o) : OptCanon cur (l.foldl (fun o a => o.bind fun s => g s a) o) := by
  induction l generalizing o with
  | nil => exact h
  | cons a l ih =>
    refine ih ?_
    cases o with
    | none => trivial
    | some s => exact hg s a h

theorem State.Canon.releaseStore (h : s.Canon cur) (core : Nat) (e : QStore) : (s.releaseStore core e).Canon cur := by
  unfold State.releaseStore
  extract_lets
  split
  · exact h.foldl fun _ _ h1 => h1.cleanLine ..
  · split
    · exact h
    · split
      · exact h
      · split
        · exact h.makeL1Room ..
        next e0 =>
          have h0 := OptCanon.foldl (fun _ _ hs => hs.storeHere ..) _ (OptCanon.some h) |>.get e0
          extract_lets s1
          have h1 : s1.Canon cur := by
            unfold s1
            split
            · exact h0.foldl fun _ _ h1 => h1.writeBackLine ..
            · exact h0
          split
          next e2 =>
            split
            · exact ((h1.sendStore ..).eq_fst e2).storeDone ..
            · exact (((h1.sendStore ..).eq_fst e2).modStore ..).modOp ..

theorem State.Canon.storeQueueReleaseEvent (h : s.Canon cur) (core : Nat) (dom : Dom) : OutCanon cur
    (execStoreQueueRelease core dom s) := by
  unfold execStoreQueueRelease
  extract_lets
  split
  · exact .next (h.releaseStore ..)
  · exact .next h

theorem State.Canon.issAtomicWait (h : s.Canon cur) (i : Iss) (as : List LaneAcc) (ps : List Piece) : OptCanon cur
    (i.atomicWait s as ps) := by
  unfold Iss.atomicWait
  extract_lets
  split
  · exact .some h
  · split
    · exact .some (h.foldl fun _ _ h1 => h1.cleanLine ..)
    · split
      · exact .some h
      · exact h.issReleaseWait ..

theorem State.Canon.beforeAtomic (h : s.Canon cur) (i : Iss) (ps : List Piece) : (s.beforeAtomic i ps).Canon cur := by
  unfold State.beforeAtomic
  extract_lets s1 s2
  have h1 : s1.Canon cur := by
    unfold s1
    refine (h.releaseStash ..).foldl fun _ _ h1 => ?_
    split
    · exact h1.cleanStash ..
    · exact h1
  split
  · exact (h1.endReuse ..).modTeam ..
  · exact h1.endReuse ..

theorem State.Canon.stashAtomics (h : s.Canon cur) (i : Iss) (vs : List Vec) (ps : List Piece) : (s.stashAtomics i vs ps).1.Canon cur := by
  unfold State.stashAtomics
  dsimp only
  refine State.Canon.foldlFst h fun _ _ h1 => ?_
  split
  · exact h1.modTeam ..
  · exact h1

theorem State.Canon.issAtomic (h : s.Canon cur) (i : Iss) (isRed : Bool) : EffCanon cur (i.atomic s isRed) := by
  unfold Iss.atomic
  extract_lets _ _ _ _ s1
  split
  · trivial
  · split
    next e he => exact h.verdictError he
    · split
      next e2 => exact .done (((h.fillTlbs ..).issAtomicWait ..).get e2)
      · extract_lets s2
        split
        next e3 =>
          extract_lets _ _ _ s4 s5 s6
          have h4 : s4.Canon cur := ((((h.fillTlbs ..).beforeAtomic ..).stashAtomics ..).eq_fst e3).popSources ..
          have h5 : s5.Canon cur := by
            unfold s5
            split
            · exact h4.contribute ..
            · exact h4
          exact .done (((h5.beginMem ..).modCore ..).sendAtoms ..)

theorem State.Canon.atomEvent (h : s.Canon cur) (f : Form) : OutCanon none (execAtom f s) := by
  unfold execAtom
  refine h.issue fun i => ?_
  exact h.issAtomic ..

theorem State.Canon.redEvent (h : s.Canon cur) (f : Form) : OutCanon none (execRed f s) := by
  unfold execRed
  refine h.issue fun i => ?_
  exact h.issAtomic ..

theorem State.Canon.ringAccessError (h : s.Canon cur) {i : Iss} {e : Eff} (he : i.ringAccess s = .error e) : EffCanon cur e := by
  unfold Iss.ringAccess at he
  dsimp only at he
  split at he
  · exact Except.error.inj he ▸ trivial
  · split at he
    · exact Except.error.inj he ▸ trivial
    · split at he
      next e' he' => exact Except.error.inj he ▸ h.verdictError he'
      · cases he

theorem State.Canon.issRingOp (h : s.Canon cur) (i : Iss) (home : Nat → ReqKind) (link : Nat → Nat → Nat → Nat → LinkBody)
    (atStash : List Byte → Nat × Bool × List Byte) (dig : Option (Nat × W64)) : EffCanon cur (i.ringOp s home link atStash dig) := by
  unfold Iss.ringOp
  split
  next e he => exact h.ringAccessError he
  · extract_lets s1 _ _ s2 pl
    have h1 : s1.Canon cur := h.fillTlbs ..
    split
    next e3 => exact .done ((h1.issAtomicWait ..).get e3)
    · refine .done (State.Canon.sendAtoms (State.Canon.modCore (State.Canon.beginMem (State.Canon.popSources ?_ ..) ..) ..) ..)
      cases pl with
      | stash o => exact ((h1.beforeAtomic ..).modTeam ..).stashTouched ..
      | _ => exact h1.beforeAtomic ..

theorem State.Canon.amaxrEvent (h : s.Canon cur) (f : Form) : OutCanon none (execAmaxr f s) := by
  unfold execAmaxr
  refine h.issue fun i => ?_
  extract_lets
  split
  · exact trivial
  · exact h.issRingOp ..

theorem State.Canon.qscaleEvent (h : s.Canon cur) (f : Form) : OutCanon none (execQscale f s) := by
  unfold execQscale
  refine h.issue fun i => ?_
  exact h.issRingOp ..

theorem OptCanon.getD {o : Option State} (h : OptCanon cur o) (hs : s.Canon cur) : (o.getD s).Canon cur := by
  cases o with
  | none => exact hs
  | some t => exact h

theorem State.Canon.issFence (h : s.Canon cur) (i : Iss) (target : Option Dom) : EffCanon cur (i.fence s target) := by
  unfold Iss.fence
  exact .done (((h.release ..).getD h).beginOp ..)

theorem State.Canon.fenceEvent (h : s.Canon cur) (f : Form) : OutCanon none (execFence f s) := by
  unfold execFence
  refine h.issue fun i => ?_
  exact h.issFence ..

theorem State.Canon.bridgeEvent (h : s.Canon cur) (f : Form) : OutCanon none (execBridge f s) := by
  unfold execBridge
  refine h.issue fun i => ?_
  extract_lets
  exact h.issFence ..

theorem State.Canon.fenceCompleteEvent (h : s.Canon cur) (team : Nat) (wave op : Nat) : OutCanon cur
    (execFenceComplete team wave op s) := by
  unfold execFenceComplete
  split
  · split
    · split
      next _ _ e1 =>
        exact .next ((h.release ..).get e1)
      · extract_lets s1 s2
        have h1 : s1.Canon cur := by
          unfold s1
          split
          · exact h.writeBackAll ..
          · exact h
        have h2 : s2.Canon cur := h1.foldl fun _ _ h2 => h2.applyHeld ..
        exact .next ((h2.modCore ..).finishOp ..)
    · exact .next h
  · exact .next h

end
end Sys2Proof.Machine
end

section
/-! SUPPORT. Canonical memory is kept (log entry 3). Of the functions of: the launch packet, and how a leader hands a child grid to the
queue engine. -/

namespace Sys2Proof.Machine
open Host

section
variable {s t : State} {cur : Option Cur}

theorem State.Canon.handOver (h : s.Canon cur) (t : Nat) (bs : List Byte) : (s.handOver t bs).1.Canon cur := by
  unfold State.handOver
  dsimp only
  split
  · exact h
  · split
    · exact h
    · exact (h.setFields).modTeam ..

end
end Sys2Proof.Machine
end

section
/-! SUPPORT. Canonical memory is kept (log entry 3). Of the functions of: answers that reach a core, and the completion of memory
operations. -/

namespace Sys2Proof.Machine
open Host

section
variable {s t : State} {cur : Option Cur}

theorem State.Canon.farAnswered (h : s.Canon cur) (t w core : Nat) (o : Op) (n : Nat) (b : LinkBody) :
    (s.farAnswered t w core o n b).Canon cur := by
  unfold State.farAnswered
  extract_lets waited s1
  have h1 : s1.Canon cur := h.modCore ..
  have inval : ((o.pieces.flatMap fun p => p.place.farLines).eraseDups.foldl (fun s l => s.applyInval core l (s.termsOf t w)) s1).Canon
    cur :=
    h1.foldl fun _ _ h2 => h2.applyInval ..
  cases b with
  | data bs secs =>
    cases waited with
    | none => exact inval
    | some x =>
      dsimp only
      split
      · exact h1
      · exact h1.modCore ..
  | _ => exact inval

theorem State.Canon.refuse (h : s.Canon cur) (t w : Nat) (o : Op) (p : Piece → Bool) : (s.refuse t w o p).Canon cur := by
  unfold State.refuse
  split
  · exact h
  · exact (h.raise ..).modWave ..

theorem State.Canon.takeIn (h : s.Canon cur) (t w core : Nat) (o : Op) (m : Msg) : (s.takeIn t w core o m).Canon cur := by
  unfold State.takeIn
  extract_lets
  split
  · extract_lets _ s1 _ s2 s3 s4
    have h1 : s1.Canon cur := h.modCore ..
    have h2 : s2.Canon cur := by
      unfold s2
      split
      · exact h1.fillMapped ..
      · exact h1
    have h3 : s3.Canon cur := by
      unfold s3
      split
      · exact h1.applyInval ..
      · split
        · exact h1
        · split
          · exact h2.modCore ..
          · exact h2
    have h4 : s4.Canon cur := by
      unfold s4
      split
      · exact h3.notePending ..
      · exact h3
    exact h4.modOp ..
  · exact ((h.applyInval ..).atomAnswered ..).modOp ..
  · exact ((h.applyInval ..).atomAnswered ..).modOp ..
  · exact (h.applyInval ..).modOp ..
  · extract_lets s1
    have h1 : s1.Canon cur := by
      unfold s1
      split
      · exact h.applyInval ..
      · exact h
    exact (h1.atomAnswered ..).modOp ..
  · exact (h.atomAnswered ..).refuse ..
  next a b =>
    extract_lets _ s1 s2
    have h2 : s2.Canon cur := (h.atomAnswered ..).farAnswered ..
    generalize b.body = body
    cases body with
    | denied => exact h2.refuse ..
    | _ => exact h2.modOp ..
  · exact h

theorem State.Canon.endMem (h : s.Canon cur) (t w : Nat) (i : Iss) (o : Op) : (s.endMem t w i o).Canon cur := by
  unfold State.endMem
  extract_lets _ s1 s2 s3 _ r s4 s5 s6
  have h2 : s2.Canon cur := by
    unfold s2
    split
    · exact h
    · exact h.modCore ..
  have h3 : s3.Canon cur := by
    unfold s3
    split
    · exact h2.modWave ..
    · exact h2
  have hr : r.1.Canon cur := by
    unfold r
    split
    · exact h3.handOver ..
    · exact h3
  have h4 : s4.Canon cur := hr.finishOp ..
  have h5 : s5.Canon cur := by
    unfold s5
    split
    · exact h4.acquire ..
    · split
      · exact h4.acquire ..
      · exact h4
  have h6 : s6.Canon cur := by
    unfold s6
    split
    · exact h5.modWave ..
    · exact h5
  split
  · exact h6.resave ..
  · exact h5

theorem State.Canon.completeMem (h : s.Canon cur) (t w : Nat) (o : Op) : (s.completeMem t w o).Canon cur := by
  unfold State.completeMem
  extract_lets
  split
  · exact h
  · extract_lets
    split
    · split
      · exact h
      · exact h.endMem ..
    · split
      · exact h
      · exact h.endMem ..

theorem State.Canon.takeReply (h : s.Canon cur) {t' w op core : Nat} {m : Msg} {u : State} (e : s.takeReply t' w op = some (m, core, u)) :
    u.Canon cur := by
  obtain ⟨c, -, e⟩ := List.exists_of_findSome?_eq_some e
  split at e
  · cases e
    exact h.modCore ..
  · cases e

theorem State.Canon.takeAnswer (h : s.Canon cur) (t w : Nat) (o : Op) : (s.takeAnswer t w o).Canon cur := by
  unfold State.takeAnswer
  extract_lets s1
  have h1 : s1.Canon cur := by
    unfold s1
    split
    next e => exact (h.takeReply e).takeIn ..
    · exact h
  split
  · exact h1
  · split
    · exact h1
    · split
      · split
        · split
          · exact h1.storeDone ..
          · exact h1
        · exact h1
      · exact h1.completeMem ..

theorem State.Canon.replyEventOutcome (h : s.Canon cur) (p : Op → Bool) (t : Nat) (w op : Nat) : (replyEvent p t w op s).Canon cur := by
  unfold replyEvent
  split
  · exact h
  · split
    · exact h
    · extract_lets s1
      split
      · split
        · exact h
        · exact h.takeAnswer ..
      · exact h.takeAnswer ..

theorem State.Canon.loadDataArrivalEvent (h : s.Canon cur) (team : Nat) (wave op : Nat) : OutCanon cur
    (execLoadDataArrival team wave op s) := by
  unfold execLoadDataArrival
  exact .next (h.replyEventOutcome ..)

theorem State.Canon.remoteReplyArrivalEvent (h : s.Canon cur) (team : Nat) (wave op : Nat) : OutCanon cur
    (execRemoteReplyArrival team wave op s) := by
  unfold execRemoteReplyArrival
  exact .next (h.replyEventOutcome ..)

theorem State.Canon.storeAckEvent (h : s.Canon cur) (team : Nat) (wave op : Nat) : OutCanon cur (execStoreAck team wave op s) := by
  unfold execStoreAck
  split
  · split
    · split
      · exact .next (h.finishOp ..)
      · exact .next h
    · exact .next (h.replyEventOutcome ..)
  · exact .next h

theorem State.Canon.atomicReplyEvent (h : s.Canon cur) (team : Nat) (wave op : Nat) : OutCanon cur (execAtomicReply team wave op s) := by
  unfold execAtomicReply
  exact .next (h.replyEventOutcome ..)

theorem State.Canon.ringAckEvent (h : s.Canon cur) (team : Nat) (wave op : Nat) : OutCanon cur (execRingAck team wave op s) := by
  unfold execRingAck
  exact .next (h.replyEventOutcome ..)

theorem State.Canon.barrierReplyEvent (h : s.Canon cur) (team : Nat) (wave op : Nat) : OutCanon cur (execBarrierReply team wave op s) := by
  unfold execBarrierReply
  exact .next (h.replyEventOutcome ..)

end
end Sys2Proof.Machine
end

section
/-! SUPPORT. Canonical memory is kept (log entry 3). Of the functions of: cache control, stash mappings and the write-back and discard of
their bytes. -/

namespace Sys2Proof.Machine
open Host

section
variable {s t : State} {cur : Option Cur}

theorem State.Canon.cctlIviEvent (h : s.Canon cur) (f : Form) : OutCanon none (execCctlIvi f s) := by
  unfold execCctlIvi
  refine h.issue fun i => ?_
  extract_lets _ s1
  exact .done ((h.foldl fun _ _ h1 => h1.modCore ..).issuedNext ..)

theorem State.Canon.issCctlBack (h : s.Canon cur) (i : Iss) (drop : Bool) : EffCanon cur (i.cctlBack s drop) := by
  unfold Iss.cctlBack
  split
  · exact trivial
  · extract_lets _ s1
    have h1 : s1.Canon cur := by
      unfold s1
      dsimp only
      split
      · exact h.foldl fun _ _ h1 => (h1.writeBackLine ..).modCore ..
      · exact h.foldl fun _ _ h1 => h1.writeBackLine ..
    exact .done (h1.beginOp ..)

theorem State.Canon.cctlWbEvent (h : s.Canon cur) (f : Form) : OutCanon none (execCctlWb f s) := by
  unfold execCctlWb
  refine h.issue fun i => ?_
  exact h.issCctlBack ..

theorem State.Canon.cctlInvEvent (h : s.Canon cur) (f : Form) : OutCanon none (execCctlInv f s) := by
  unfold execCctlInv
  refine h.issue fun i => ?_
  exact h.issCctlBack ..

theorem State.Canon.cctlPfEvent (h : s.Canon cur) (f : Form) : OutCanon none (execCctlPf f s) := by
  unfold execCctlPf
  refine h.issue fun i => ?_
  extract_lets s1
  have h1 : s1.Canon cur := by
    unfold s1
    refine h.foldl fun _ _ h1 => ?_
    split
    · exact h1
    · exact h1.sendRead ..
  exact .done (h1.issuedNext ..)

theorem State.Canon.cctlPfsEvent (h : s.Canon cur) (f : Form) : OutCanon none (execCctlPfs f s) := by
  unfold execCctlPfs
  refine h.issue fun i => ?_
  extract_lets s1
  exact .done ((h.foldl fun _ _ h1 => h1.sendReq ..).issuedNext ..)

theorem State.Canon.smapMapEvent (h : s.Canon cur) (f : Form) : OutCanon none (execSmapMap f s) := by
  unfold execSmapMap
  refine h.issue fun i => ?_
  extract_lets
  split
  · exact trivial
  · split
    · exact trivial
    · split
      · exact trivial
      · exact .done ((h.modTeam ..).issuedNext ..)

theorem State.Canon.smapUnmapEvent (h : s.Canon cur) (f : Form) : OutCanon none (execSmapUnmap f s) := by
  unfold execSmapUnmap
  refine h.issue fun i => ?_
  split
  · exact trivial
  · extract_lets
    split
    · exact .done (h.beginOp ..)
    · extract_lets s1
      have h1 : s1.Canon cur := h.foldl fun _ _ h1 => h1.cleanStash ..
      split
      · exact .done (h1)
      · exact .done ((h1.modTeam ..).beginOp ..)

theorem State.Canon.swbEvent (h : s.Canon cur) (f : Form) : OutCanon none (execSwb f s) := by
  unfold execSwb
  refine h.issue fun i => ?_
  split
  · exact trivial
  · extract_lets _ _ s1
    have h1 : s1.Canon cur := h.foldl fun _ _ h1 => h1.cleanStash ..
    split
    · exact .done (h1)
    · exact .done (h1.beginOp ..)

theorem State.Canon.sdropEvent (h : s.Canon cur) (f : Form) : OutCanon none (execSdrop f s) := by
  unfold execSdrop
  refine h.issue fun i => ?_
  split
  · exact trivial
  · extract_lets _ s1
    exact .done (((h.modCore ..).modTeam ..).issuedNext ..)

end
end Sys2Proof.Machine
end

section
/-! SUPPORT. Canonical memory is kept (log entry 3). Of the functions of: barrier instructions. -/

namespace Sys2Proof.Machine
open Host

section
variable {s t : State} {cur : Option Cur}

theorem State.Canon.sliceObject (h : s.Canon cur) (pa key : Nat) (tm : Terms) : (s.sliceObject pa key tm).1.Canon cur := by
  unfold State.sliceObject
  exact h.countLate ..

theorem State.Canon.sliceLend (h : s.Canon cur) (k : Nat) (pa key : Nat) (d : W64) (tm : Terms) :
    (s.sliceLend k pa key d tm).Canon cur := by
  unfold State.sliceLend
  extract_lets
  exact (h.setFields).performReq ..

theorem State.Canon.stashPut (h : s.Canon cur) (t off : Nat) (bs : List Byte) : (s.stashPut t off bs).Canon cur := by
  unfold State.stashPut
  exact (h.modTeam ..).stashTouched ..

theorem State.Canon.inheritAnew (h : s.Canon cur) (t : Nat) : (s.inheritAnew t).Canon cur := by
  unfold State.inheritAnew
  split
  · exact h
  · exact h.foldl fun _ _ h1 => h1.modWave ..

theorem State.Canon.wakeLocal (h : s.Canon cur) (t off : Nat) : (s.wakeLocal t off).Canon cur := by
  unfold State.wakeLocal
  split
  · exact h
  · extract_lets _ s1 s2
    have h2 : s2.Canon cur := (h.foldl fun _ _ h1 => h1.modWave ..).inheritAnew ..
    cases s2.teams.get? t with
    | none => exact h2
    | some tm =>
      refine h2.foldl fun _ _ h3 => ?_
      split
      · exact (h3.stashPut ..).modWave ..
      · exact h3

theorem State.Canon.stashBarrier (h : s.Canon cur) (t off : Nat) (op : BarOp) : (s.stashBarrier t off op).1.Canon cur := by
  unfold State.stashBarrier
  dsimp only
  split
  · exact h
  · dsimp only
    split
    · exact ((h.stashPut ..).wakeLocal ..).inheritAnew ..
    · exact (h.stashPut ..).inheritAnew ..

theorem State.Canon.register (h : s.Canon cur) (t w : Nat) (lanes : Mask) (pa key : Nat) : (s.register t w lanes pa key).1.Canon cur := by
  unfold State.register
  dsimp only
  split
  · exact h
  · split
    · exact h
    · dsimp only
      split
      · exact ((h.modSlice ..).sliceLend ..).modSlice ..
      · exact (h.modSlice ..).modSlice ..

theorem State.Canon.reevaluate (h : s.Canon cur) (t w : Nat) (p : Wait → Bool) : (s.reevaluate t w p).Canon cur := by
  unfold State.reevaluate
  split
  · split
    · exact h
    · dsimp only
      refine h.foldl fun _ _ h1 => ?_
      split
      · split
        · exact h1.modWave ..
        · split
          · exact (h1.sliceObject ..).modWave ..
          · exact ((h1.sliceObject ..).register ..).modWave ..
      · exact h1
  · exact h

theorem State.Canon.barObjectError {i : Iss} {wr : Bool} {e : Eff} (he : i.barObject s wr = .error e) : EffCanon cur e := by
  unfold Iss.barObject at he
  dsimp only at he
  split at he
  · exact Except.error.inj he ▸ trivial
  · split at he
    · exact Except.error.inj he ▸ trivial
    · split at he
      next e' he' => exact Except.error.inj he ▸ Iss.checked_canon he'
      · cases he
      · exact Except.error.inj he ▸ trivial

theorem State.Canon.bwaitEvent (h : s.Canon cur) (f : Form) : OutCanon none (execBwait f s) := by
  unfold execBwait
  refine h.issue fun i => ?_
  split
  next e he => exact State.Canon.barObjectError he
  · extract_lets s1 _ _ _ _ f2 f3
    have h1 : s1.Canon cur := h.fillTlbs ..
    have hf2 {s a1 a2} (h2 : State.Canon cur s) : State.Canon cur (f2 s a1 a2) := h2.modWave ..
    have hf3 {s} (h3 : State.Canon cur s) : EffCanon cur (f3 s) := .done (((h3.popSources ..).acquire ..).issuedNext ..)
    split
    · exact .done h1
    · split
      · exact .done h1
      · split
        · split
          · exact hf3 h1
          · exact .done ((hf2 (h1.stashPut ..)).inheritAnew ..)
        · split
          · trivial
          · split
            · exact .done (h1.cleanLine ..)
            · split
              · exact .done h1
              · split
                next e4 =>
                  split
                  · exact hf3 ((h1.sliceObject ..).eq_fst e4)
                  · split
                    next e5 => exact .done (hf2 ((((h1.sliceObject ..).eq_fst e4).register ..).eq_fst e5))

theorem State.Canon.issBarrier (h : s.Canon cur) (i : Iss) (wr rel reply : Bool) (pre : Option Trap) (op : Bool → BarOp) :
    EffCanon cur (i.barrier s wr rel reply pre op) := by
  unfold Iss.barrier
  split
  next e he => exact State.Canon.barObjectError he
  · split
    · trivial
    · extract_lets s1
      have h1 : s1.Canon cur := h.fillTlbs ..
      split
      · exact .done h1
      · split
        · exact .done (h1.foldl fun _ _ h2 => h2.cleanLine ..)
        · split
          · exact .done h1
          · split
            next e1 =>
              split at e1
              · exact .done ((h1.release ..).get e1)
              · cases e1
            · split
              · split
                next e2 => exact .done ((((h1.stashBarrier ..).eq_fst e2).popSources ..).beginMem ..)
              · split
                · trivial
                · extract_lets s2 s3 s4 s5
                  have h2 : s2.Canon cur := by
                    unfold s2
                    split
                    · exact h1.cleanStash ..
                    · exact h1
                  have h4 : s4.Canon cur := by
                    unfold s4
                    split
                    · exact (h2.endReuse ..).modTeam ..
                    · exact h2.endReuse ..
                  exact .done (((h4.sendReq ..).popSources ..).beginMem ..)

theorem State.Canon.binitEvent (h : s.Canon cur) (f : Form) : OutCanon none (execBinit f s) := by
  unfold execBinit
  refine h.issue fun i => ?_
  extract_lets
  exact h.issBarrier ..

theorem State.Canon.barriveEvent (h : s.Canon cur) (f : Form) : OutCanon none (execBarrive f s) := by
  unfold execBarrive
  refine h.issue fun i => ?_
  extract_lets
  exact h.issBarrier ..

theorem State.Canon.barrivebEvent (h : s.Canon cur) (f : Form) : OutCanon none (execBarriveb f s) := by
  unfold execBarriveb
  refine h.issue fun i => ?_
  extract_lets
  exact h.issBarrier ..

theorem State.Canon.btestEvent (h : s.Canon cur) (f : Form) : OutCanon none (execBtest f s) := by
  unfold execBtest
  refine h.issue fun i => ?_
  exact h.issBarrier ..

theorem State.Canon.binvalEvent (h : s.Canon cur) (f : Form) : OutCanon none (execBinval f s) := by
  unfold execBinval
  refine h.issue fun i => ?_
  exact h.issBarrier ..

theorem State.Canon.wakeArrivalEvent (h : s.Canon cur) (core : Nat) : OutCanon cur (execWakeArrival core s) := by
  unfold execWakeArrival
  split
  · exact .next ((h.modCore ..).reevaluate ..)
  · exact .next h

theorem State.Canon.registrationRetryEvent (h : s.Canon cur) (team wave : Nat) : OutCanon cur (execRegistrationRetry team wave s) := by
  unfold execRegistrationRetry
  exact .next (h.reevaluate ..)

theorem State.Canon.deadlineBoostEvent (h : s.Canon cur) (slice : Nat) : OutCanon cur (execDeadlineBoost slice s) := by
  unfold execDeadlineBoost
  extract_lets _ s1
  exact .next ((h.modSlice ..).foldl fun _ _ h2 => h2.inheritAnew ..)

end
end Sys2Proof.Machine
end

section
/-! SUPPORT. Canonical memory is kept (log entry 3). Of the functions of: copy commands and their engines, WAITC, stage rings, channels' own
instructions, and the members behind channels. -/

namespace Sys2Proof.Machine
open Host

section
variable {s t : State} {cur : Option Cur}

theorem State.Canon.launchCmd (h : s.Canon cur) (i : Iss) (c : Cmd) (cnt : Fin 4) (scored : Bool) (dst : Nat × Nat) (src : Nat × Nat) :
    (s.launchCmd i c cnt scored dst src).Canon cur := by
  unfold State.launchCmd
  extract_lets _ _ s1
  exact ((h.popSources ..).beginOp ..).modCore ..

theorem State.Canon.tcopyEvent (h : s.Canon cur) (f : Form) : OutCanon none (execTcopy f s) := by
  unfold execTcopy
  refine h.issue fun i => ?_
  extract_lets
  split
  · exact trivial
  · split
    · exact trivial
    · exact .done (h.launchCmd ..)

theorem State.Canon.tdescEvent (h : s.Canon cur) (f : Form) : OutCanon none (execTdesc f s) := by
  unfold execTdesc
  refine h.issue fun i => ?_
  extract_lets
  split
  · exact trivial
  · split
    · exact trivial
    · exact .done (h.launchCmd ..)

theorem State.Canon.gatherEvent (h : s.Canon cur) (f : Form) : OutCanon none (execGather f s) := by
  unfold execGather
  refine h.issue fun i => ?_
  extract_lets
  split
  · exact trivial
  · split
    · exact trivial
    · exact .done (h.launchCmd ..)

theorem State.Canon.scatterEvent (h : s.Canon cur) (f : Form) : OutCanon none (execScatter f s) := by
  unfold execScatter
  refine h.issue fun i => ?_
  extract_lets
  split
  · exact trivial
  · split
    · exact trivial
    · exact .done (h.launchCmd ..)

theorem State.Canon.issLenCopy (h : s.Canon cur) (i : Iss) (kind : CmdKind) : EffCanon cur (i.lenCopy s kind) := by
  unfold Iss.lenCopy
  extract_lets
  split
  · exact trivial
  · split
    · exact trivial
    · split
      · exact trivial
      · split
        · exact trivial
        · split
          · exact trivial
          · split
            · exact trivial
            · exact .done (h.launchCmd ..)

theorem State.Canon.rcopyEvent (h : s.Canon cur) (f : Form) : OutCanon none (execRcopy f s) := by
  unfold execRcopy
  refine h.issue fun i => ?_
  exact h.issLenCopy ..

theorem State.Canon.collEvent (h : s.Canon cur) (f : Form) : OutCanon none (execColl f s) := by
  unfold execColl
  refine h.issue fun i => ?_
  exact h.issLenCopy ..

theorem State.Canon.waitcEvent (h : s.Canon cur) (f : Form) : OutCanon none (execWaitc f s) := by
  unfold execWaitc
  refine h.issue fun i => ?_
  exact .done ((h.popSources ..).issuedNext ..)

theorem State.Canon.popEvent (h : s.Canon cur) (f : Form) : OutCanon none (execPop f s) := by
  unfold execPop
  refine h.issue fun i => ?_
  exact .done ((h.popSources ..).startOp ..)

theorem State.Canon.ringinitEvent (h : s.Canon cur) (f : Form) : OutCanon none (execRinginit f s) := by
  unfold execRinginit
  refine h.issue fun i => ?_
  extract_lets
  split
  · exact trivial
  · split
    · exact trivial
    · exact .done ((h.modTeam ..).issuedNext ..)

theorem State.Canon.modCmd (h : s.Canon cur) (core id : Nat) (f : Cmd → Cmd) : (s.modCmd core id f).Canon cur := by
  unfold State.modCmd
  exact h.modCore ..

theorem State.Canon.engineError (h : s.Canon cur) (core : Nat) (c : Cmd) (addr : W64) : (s.engineError core c addr).Canon cur := by
  unfold State.engineError
  split
  · exact h
  · split
    · exact h
    · exact (h.raise ..).modCmd ..

theorem State.Canon.engineClean (h : s.Canon cur) (core : Nat) (c : Cmd) (ps : List Place) : OptCanon cur (s.engineClean core c ps) := by
  unfold State.engineClean
  extract_lets
  split
  · exact .some (h.foldl fun _ _ h1 => h1.cleanLine ..)
  · split
    · exact .some h
    · exact trivial

theorem State.Canon.engineAsk (h : s.Canon cur) (core : Nat) (c : Cmd) (va : W64) (p : Nat × Nat × Place) :
    (s.engineAsk core c va p).Canon cur := by
  unfold State.engineAsk
  extract_lets _ f1 f2
  have hf1 {s a1} (h1 : State.Canon cur s) : State.Canon cur (f1 s a1) := by
    unfold f1
    exact h1.modCmd ..
  have hf2 {s a1 a2 a3} (h2 : State.Canon cur s) : State.Canon cur (f2 s a1 a2 a3) := by
    unfold f2
    exact h2.modCmd ..
  split
  · exact hf1 (h)
  · exact hf2 ((h.setFields).toPackage ..)
  · split
    · split
      · exact (hf1 (h)).notePending ..
      · exact h
    · split
      · exact h
      · extract_lets _ s3
        have h3 : s3.Canon cur := by
          unfold s3
          split
          · split
            · exact h.touchMapped ..
            · exact h
          · exact h
        exact hf2 (h3.sendRead ..)

theorem State.Canon.dropFar (h : s.Canon cur) (core : Nat) : (s.dropFar core).Canon cur := by
  unfold State.dropFar
  exact h.modCore ..

theorem State.Canon.enginePut (h : s.Canon cur) (core : Nat) (c : Cmd) (bs : List Byte) (va : W64) (p : Nat × Nat × Place) :
    (s.enginePut core c bs va p).Canon cur := by
  unfold State.enginePut
  extract_lets _ _ f1 _ _ s2
  have hf1 {s a1} (h1 : State.Canon cur s) : State.Canon cur (f1 s a1) := by
    unfold f1
    exact (h1.modCmd ..).modTeam ..
  split
  · split
    · exact h.writeMapped ..
    · exact h.modTeam ..
    · exact h
  · split
    · extract_lets
      exact hf1 (((h.dropFar ..).setFields).toPackage ..)
    · split
      · exact h
      · extract_lets _ _ s3 s4
        have h4 : s4.Canon cur := by
          unfold s4
          split
          · exact (h.applyInval ..).modTeam ..
          · exact h.applyInval ..
        exact hf1 (h4.sendReq ..)

theorem State.Canon.engineAccess (h : s.Canon cur) {core : Nat} {c : Cmd} {lane : Nat} {addr : W64} {len : Nat} {need : Need} {dom : Dom}
    {u : State} (e : s.engineAccess core c lane addr len need dom = .error u) : u.Canon cur := by
  unfold State.engineAccess at e
  split at e
  · exact Except.error.inj e ▸ h
  · split at e
    · exact Except.error.inj e ▸ h
    · dsimp only at e
      split at e
      · split at e
        · exact Except.error.inj e ▸ h.engineError ..
        · cases e
      · exact Except.error.inj e ▸ (h.park ..).modCmd ..
      · exact Except.error.inj e ▸ h
      · exact Except.error.inj e ▸ h.engineError ..

theorem State.Canon.engineDeliver (h : s.Canon cur) (core : Nat) (c : Cmd) (bs : List Byte) : (s.engineDeliver core c bs).Canon cur := by
  unfold State.engineDeliver
  split
  · extract_lets onward landed s1
    have honward {s : State} (h : s.Canon cur) : (onward s).Canon cur := h.modCmd ..
    have hlanded {s : State} (h : s.Canon cur) : (landed s).Canon cur := (honward h).modCmd ..
    have h1 : s1.Canon cur := h.undefinePages ..
    split
    · exact hlanded h
    · exact hlanded h
    · split
      next e => exact h1.engineAccess e
      · split
        · exact h1
        · split
          next e4 => exact (h1.engineClean ..).get e4
          · exact (honward (h1.foldl fun _ _ h4 => h4.enginePut ..)).modCmd ..

theorem State.Canon.engineBegin (h : s.Canon cur) (core : Nat) (c : Cmd) : (s.engineBegin core c).Canon cur := by
  unfold State.engineBegin
  split
  · exact h.engineError ..
  · split
    · exact h.modCmd ..
    · extract_lets s1
      have h1 : s1.Canon cur := h.undefinePages ..
      split
      next e => exact h1.engineAccess e
      · extract_lets
        split
        · exact h1
        · split
          next e2 => exact (h1.engineClean ..).get e2
          · exact (h1.modCmd ..).foldl fun _ _ h2 => h2.engineAsk ..

theorem State.Canon.engineAnswer (h : s.Canon cur) (core : Nat) (c : Cmd) (part : Nat) (m : Msg) :
    (s.engineAnswer core c part m).Canon cur := by
  unfold State.engineAnswer
  extract_lets read ended refused
  have hread (bs : CmdPart → List Byte) : (read bs).Canon cur := h.modCmd ..
  split
  · extract_lets _ s3 s4
    have h3 : s3.Canon cur := (hread _).modCore ..
    have h4 : s4.Canon cur := by
      unfold s4
      split
      · exact h3.fillMapped ..
      · exact h3
    split
    · exact h4.notePending ..
    · exact h4
  · split
    · exact hread _
    · exact h.engineError ..
    · exact (h.modCmd ..).dropFar ..
  · exact h.engineError ..
  · exact h.modCmd ..

theorem State.Canon.engineAccessEvent (h : s.Canon cur) (core cmd : Nat) : OutCanon cur (execEngineAccess core cmd s) := by
  unfold execEngineAccess
  extract_lets
  split
  · exact .next h
  · split
    · exact .next ((h.modCore ..).engineAnswer ..)
    · split
      · exact .next h
      · split
        · exact .next (h.engineDeliver ..)
        · split
          · split
            · exact .next h
            · exact .next (h.engineBegin ..)
          · exact .next h

theorem State.Canon.retireCmd (h : s.Canon cur) (core : Nat) (c : Cmd) : (s.retireCmd core c).Canon cur := by
  unfold State.retireCmd
  extract_lets s1
  exact (((h.modCore ..).contribute ..).modWave ..).resave ..

theorem State.Canon.tdescCompleteEvent (h : s.Canon cur) (core cmd : Nat) : OutCanon cur (execTdescComplete core cmd s) := by
  unfold execTdescComplete
  split
  · exact .next h
  · split
    · split
      · exact .next h
      · extract_lets
        split
        · exact .next ((h.retireCmd ..).modWave ..)
        · exact .next (h.engineError ..)
    · exact .next h

theorem State.Canon.engineArrive (h : s.Canon cur) (core : Nat) (c : Cmd) (b : W64) : (s.engineArrive core c b).Canon cur := by
  unfold State.engineArrive
  split
  next e => exact h.engineAccess e
  · split
    · split
      next e1 => exact (h.engineClean ..).get e1
      · extract_lets _ sent _ s2
        have hsent {s : State} {id : Nat} (h : s.Canon cur) : (sent s id).Canon cur := (h.modTeam ..).modCmd ..
        split
        · exact (h.stashBarrier ..).modCmd ..
        · exact hsent ((h.dropFar ..).setFields.toPackage ..)
        · split
          · exact h
          · exact hsent ((h.applyInval ..).sendReq ..)
    · exact h.engineError ..

theorem OptCanon.bind {α : Type} {o : Option α} {f : α → Option State} (hf : ∀ a, OptCanon cur (f a)) : OptCanon cur (o.bind f) := by
  cases o with
  | none => trivial
  | some a => exact hf a

theorem State.Canon.copyCompleteEvent (h : s.Canon cur) (core cmd : Nat) : OutCanon cur (execCopyComplete core cmd s) := by
  unfold execCopyComplete
  split
  · exact .next h
  · split
    · exact .next h
    · split
      · exact .next h
      · extract_lets s1
        have h1 : s1.Canon cur := by
          unfold s1
          split
          · exact h.cleanTeamStash ..
          · exact h
        split
        · exact .next h1
        · split
          · exact .next (h1.retireCmd ..)
          · split
            · exact .next (h1.retireCmd ..)
            · split
              next e => exact .next ((OptCanon.bind fun i => h1.release i ..).get e)
              · exact .next (h1.engineArrive ..)

theorem State.Canon.ringReserveEvent (h : s.Canon cur) (core cmd : Nat) : OutCanon cur (execRingReserve core cmd s) := by
  unfold execRingReserve
  split
  · exact .next h
  · split
    · split
      · exact .next ((h.modTeam ..).modCmd ..)
      · exact .next h
    · exact .next h

theorem State.Canon.ringFillEvent (h : s.Canon cur) (core cmd : Nat) : OutCanon cur (execRingFill core cmd s) := by
  unfold execRingFill
  split
  · exact .next h
  · split
    · split
      · extract_lets
        exact .next ((((h.modTeam ..).stashTouched ..).modCmd ..).channelWake ..)
      · exact .next h
    · exact .next h

theorem State.Canon.neighbourEntryArrivalEvent (h : s.Canon cur) (core dir : Nat) : OutCanon cur
    (execNeighbourEntryArrival core dir s) := by
  unfold execNeighbourEntryArrival
  split
  · exact .next h
  · split
    · exact .next h
    · extract_lets _ s1
      split
      · exact .next ((h.modCore ..).modStation ..)
      · exact .next ((((h.modCore ..).modStation ..).modCore ..).channelWake ..)

theorem State.Canon.postRelease (h : s.Canon cur) (x : Post) : OptCanon cur (s.postRelease x) := by
  unfold State.postRelease
  split
  · exact OptCanon.bind fun _ => h.release ..
  · trivial

theorem State.Canon.queuePostEvent (h : s.Canon cur) (queue : Nat) : OutCanon cur (execQueuePost queue s) := by
  unfold execQueuePost
  split
  · exact .next h
  · extract_lets posted _ deny
    have hposted {s : State} (h : s.Canon cur) : (posted s).Canon cur := h.modQueue ..
    have hdeny (pa : Nat) : (deny pa).Canon cur := hposted (h.raise ..)
    split
    next e2 => exact .next ((h.postRelease ..).get e2)
    · split
      · exact .next (hdeny _)
      · split
        · exact .next h
        · split
          · exact .next h
          · split
            · exact .next (hdeny _)
            · split
              · split
                · exact .next h
                · exact .next (h.writePaFor ..)
              · exact .next ((hposted (h.writePaFor ..)).channelWake ..)

theorem State.Canon.frameSendEvent (h : s.Canon cur) (port : Nat) : OutCanon cur (execFrameSend port s) := by
  unfold execFrameSend
  extract_lets
  split
  · exact .next h
  · split
    · exact .next ((h.modPort ..).channelWake ..)
    · exact .next h

theorem State.Canon.frameReceiveEvent (h : s.Canon cur) (port : Nat) (frame : Frame) : OutCanon cur (execFrameReceive port frame s) := by
  unfold execFrameReceive
  extract_lets
  split
  · exact .next h
  · split
    · exact .next ((h.modPort ..).channelWake ..)
    · exact .next (h.modPort ..)

end
end Sys2Proof.Machine
end

section
/-! SUPPORT. Canonical memory is kept (log entry 3). Of the functions of: the event queue of the host, the queue engine's accesses at
virtual addresses, and the logical numbering of a partition. -/

namespace Sys2Proof.Machine
open Host

section
variable {s t : State} {cur : Option Cur}

theorem State.Canon.putEvent (h : s.Canon cur) (bs : List Byte) : (s.putEvent bs).Canon cur := by
  unfold State.putEvent
  extract_lets _ _ s1
  split
  · exact h.setFields
  · exact (h.writePa ..).setFields

theorem State.Canon.partEvent (h : s.Canon cur) (source : Nat) (code : Nat) (part x : Nat) :
    (s.partEvent source code part x).Canon cur := by
  unfold State.partEvent
  exact h.putEvent ..

theorem State.Canon.engineLate (h : s.Canon cur) (tm : Terms) (va n : Nat) : (s.engineLate tm va n).Canon cur := by
  unfold State.engineLate
  exact h.foldl fun _ _ h1 => h1.countLate ..

theorem State.Canon.readVa (h : s.Canon cur) (ctx : Nat) (tm : Terms) (va n : Nat) : (s.readVa ctx tm va n).1.Canon cur := by
  unfold State.readVa
  dsimp only
  split
  · exact h
  · exact (h.engineLate ..).undefinePages ..

theorem State.Canon.writeVa (h : s.Canon cur) (ctx : Nat) (tm : Terms) (va : Nat) (bs : List Byte) :
    (s.writeVa ctx tm va bs).Canon cur := by
  unfold State.writeVa
  split
  · exact h
  · refine State.Canon.foldlFst ((h.engineLate ..).undefinePages ..) fun _ _ h1 => ?_
    exact h1.writePaFor ..

theorem State.Canon.renumber (h : s.Canon cur) (part : Nat) : (s.renumber part).Canon cur := by
  unfold State.renumber
  extract_lets
  exact h.setFields

theorem State.Canon.clearPreq (h : s.Canon cur) (ctx : Nat) : (s.clearPreq ctx).Canon cur := by
  unfold State.clearPreq
  split
  · exact h
  · exact h.modCtx ..

theorem State.Canon.unpark (h : s.Canon cur) (t : Nat) : (s.unpark t).Canon cur := by
  unfold State.unpark
  split
  · exact h
  · exact h.modPart ..

theorem State.Canon.removeTeam (h : s.Canon cur) (t : Nat) : (s.removeTeam t).Canon cur := by
  unfold State.removeTeam
  split
  · exact h
  next tm _ =>
    extract_lets s1 s2 s3 s4 s5 s6
    have h1 : s1.Canon cur := h.unpark ..
    have h2 : s2.Canon cur := by
      unfold s2
      cases s1.launches.get? tm.launch with
      | none => exact h1
      | some l => exact h1.foldl fun _ _ h2 => h2.dropPrivate ..
    have h4 : s4.Canon cur := (h2.modCore ..).setFields
    have h5 : s5.Canon cur := by
      unfold s5
      split
      · exact h4
      · exact h4.sendAtoms ..
    have h6 : s6.Canon cur := h5.setFields.dropRegs ..
    split
    · exact h6.clearPreq ..
    · exact h6

theorem State.Canon.wakeJoin (h : s.Canon cur) (t slot : Nat) : (s.wakeJoin t slot).Canon cur := by
  unfold State.wakeJoin
  split
  · split
    · exact h.foldl fun _ _ h1 => h1.modWave ..
    · exact h
  · exact h

theorem State.Canon.childDone (h : s.Canon cur) (lid : Nat) (l : Launch) (t slot : Nat) (code : Byte) :
    (s.childDone lid l t slot code).Canon cur := by
  unfold State.childDone
  extract_lets s1 _ s2
  exact ((h.setFields).modTeam ..).wakeJoin ..

theorem State.Canon.drainFor (h : s.Canon cur) (lid : Nat) (l : Launch) : OptCanon cur (s.drainFor lid l) := by
  unfold State.drainFor
  extract_lets _ s1 s2
  have h1 : s1.Canon cur := by
    unfold s1
    refine h.foldl fun _ _ h1 => ?_
    split
    · exact h1.cleanTeamStash ..
    · exact h1
  have h2 : s2.Canon cur := h1.foldl fun _ _ h2 => (h2.writeBackAll ..).writeBackAll ..
  split
  · split
    · exact .some h
    · exact trivial
  · split
    · exact trivial
    · exact .some (h2.modLaunch ..)

theorem State.Canon.keepChain (h : s.Canon cur) (l : Launch) : (s.keepChain l).Canon cur := by
  unfold State.keepChain
  extract_lets _ _ s1
  split
  · exact h.setFields
  · exact (h.setFields).modQueue ..

theorem State.Canon.reapCtx (h : s.Canon cur) (c : Nat) : (s.reapCtx c).Canon cur := by
  unfold State.reapCtx
  split
  · exact h
  · extract_lets
    exact h.setFields

theorem State.Canon.finishLaunch (h : s.Canon cur) (lid : Nat) (code : Byte) (detail : Byte) :
    (s.finishLaunch lid code detail).Canon cur := by
  unfold State.finishLaunch
  split
  · exact h
  · split
    · exact h.childDone ..
    · extract_lets _ _ _ _ s1 s2 s3 _ s4 s5
      have h1 : s1.Canon cur := by
        unfold s1
        split
        · exact h
        · exact (h.writeVa ..).writeVa ..
      have h4 : s4.Canon cur := by
        unfold s4
        split
        · exact ((h1.keepChain ..).modQueue ..).writePa ..
        · exact (h1.keepChain ..).modQueue ..
      have h5 : s5.Canon cur := by
        unfold s5
        split
        · exact h4
        · exact h4.writePa ..
      exact (h5.setFields).reapCtx ..

theorem State.Canon.completeLaunch (h : s.Canon cur) (lid : Nat) (code : Byte) (detail : Byte) :
    (s.completeLaunch lid code detail).Canon cur := by
  unfold State.completeLaunch
  split
  · exact h
  · split
    · exact h.finishLaunch ..
    · split
      · exact h
      · split
        · exact h.finishLaunch ..
        next _ _ e1 =>
          exact ((h.drainFor ..).get e1).modLaunch ..

theorem State.Canon.endTree (h : s.Canon cur) (root : Nat) (code : Byte) : (s.endTree root code).Canon cur := by
  unfold State.endTree
  extract_lets _ s1 s2
  have h1 : s1.Canon cur := h.foldl fun _ _ h1 => h1.removeTeam ..
  exact (h1.setFields).completeLaunch ..

end
end Sys2Proof.Machine
end

section
/-! SUPPORT. Canonical memory is kept (log entry 3). Of the functions of: queues. -/

namespace Sys2Proof.Machine
open Host

section
variable {s t : State} {cur : Option Cur}

theorem State.Canon.rereadBlock (h : s.Canon cur) (k : Nat) : (s.rereadBlock k).Canon cur := by
  unfold State.rereadBlock
  extract_lets
  exact h.modQueue ..

theorem State.Canon.setQState (h : s.Canon cur) (k : Nat) (st : Byte) (err : Byte) : (s.setQState k st err).Canon cur := by
  unfold State.setQState
  exact (h.modQueue ..).writePa ..

theorem State.Canon.clearCmd (h : s.Canon cur) (k : Nat) : (s.clearCmd k).Canon cur := by
  unfold State.clearCmd
  exact (h.modQueue ..).writePa ..

theorem State.Canon.controlBlockRereadEvent (h : s.Canon cur) (queue : Nat) : OutCanon cur (execControlBlockReread queue s) := by
  unfold execControlBlockReread
  split
  · exact .next h
  · extract_lets s1
    split
    · split
      · exact .next ((h.rereadBlock ..).setQState ..)
      · exact .next (h.rereadBlock ..)
    · exact .next (h.rereadBlock ..)

theorem State.Canon.qcmdEnableEvent (h : s.Canon cur) (queue : Nat) : OutCanon cur (execQcmdEnable queue s) := by
  unfold execQcmdEnable
  extract_lets _ _ _ _ s1
  split
  · exact .next h
  · split
    · exact .next ((h.setQState ..).clearCmd ..)
    · exact .next ((((h.modQueue ..).writePa ..).setQState ..).clearCmd ..)

theorem State.Canon.qcmdDisableEvent (h : s.Canon cur) (queue : Nat) : OutCanon cur (execQcmdDisable queue s) := by
  unfold execQcmdDisable
  extract_lets
  split
  · exact .next h
  · exact .next ((h.setQState ..).clearCmd ..)

theorem State.Canon.readVaUnless (h : s.Canon cur) (p : Prop) [Decidable p] (x : Option (List Byte)) (ctx : Nat) (tm : Terms) (va n : Nat) :
    (if p then (s, x) else s.readVa ctx tm va n).1.Canon cur := by
  split
  · exact h
  · exact h.readVa ..

theorem State.Canon.readVaIf (h : s.Canon cur) (p : Prop) [Decidable p] (x : Option (List Byte)) (ctx : Nat) (tm : Terms) (va n : Nat) :
    (if p then s.readVa ctx tm va n else (s, x)).1.Canon cur := by
  split
  · exact h.readVa ..
  · exact h

theorem State.Canon.examine (h : s.Canon cur) (l : Launch) : (s.examine l).1.Canon cur := by
  unfold State.examine
  extract_lets
  split
  next e1 => exact (h.readVa ..).eq_fst e1
  next u _ e1 =>
    have h1 : u.Canon cur := (h.readVa ..).eq_fst e1
    extract_lets
    split
    next u2 _ e2 =>
      have h2 : u2.Canon cur := (h1.readVa ..).eq_fst e2
      split
      next u3 _ e3 =>
        have h3 : u3.Canon cur := (h2.readVaUnless ..).eq_fst e3
        split
        · extract_lets
          split
          · exact h3
          · split
            · exact h3
            · split
              · exact h3
              · split
                · exact h3
                · split
                  next u4 _ e4 =>
                    have h4 : u4.Canon cur := (h3.readVaIf ..).eq_fst e4
                    extract_lets
                    split
                    next u5 _ e5 =>
                      have h5 : u5.Canon cur := (h4.readVaIf ..).eq_fst e5
                      extract_lets
                      split
                      · exact h5
                      · split
                        · exact h5
                        · split
                          next u6 _ e6 => exact (h5.readVaIf ..).eq_fst e6
        · exact h3

theorem State.Canon.packetConsumeEvent (h : s.Canon cur) (queue : Nat) : OutCanon cur (execPacketConsume queue s) := by
  unfold execPacketConsume
  extract_lets _ _ _ _ _ _ _ _ _ s1 f2
  have h1 : s1.Canon cur := ((h.setFields).modQueue ..).writePa ..
  have hf2 {s a1} (h2 : State.Canon cur s) : State.Canon cur (f2 s a1) := by
    unfold f2
    exact (h2.setFields).completeLaunch ..
  split
  · exact .next h
  · split
    · exact .next (hf2 (h1))
    · split
      · split
        · exact .next h1.setFields
        · exact .next (hf2 (h1))
      · split
        next _ _ _ e3 =>
          exact .next (hf2 ((h1.examine ..).eq_fst e3))
        next _ _ _ e3 =>
          exact .next (((h1.examine ..).eq_fst e3).setFields)

theorem State.Canon.dependenceSatisfiedEvent (h : s.Canon cur) (launch : Nat) : OutCanon cur (execDependenceSatisfied launch s) := by
  unfold execDependenceSatisfied
  split
  · exact .next h
  · split
    · exact .next h
    · extract_lets
      split
      · exact .next (h.completeLaunch ..)
      · exact .next (h.completeLaunch ..)
      · split
        · exact .next (h.completeLaunch ..)
        · exact .next (h.modLaunch ..)
      · exact .next h

theorem State.Canon.childLaunchEvent (h : s.Canon cur) (launch : Nat) : OutCanon cur (execChildLaunch launch s) := by
  unfold execChildLaunch
  split
  · exact .next h
  · split
    · exact .next h
    · split
      · exact .next (h.completeLaunch ..)
      · split
        next _ _ _ e1 =>
          exact .next (((h.examine ..).eq_fst e1).completeLaunch ..)
        next _ _ _ e1 =>
          extract_lets
          exact .next (((h.examine ..).eq_fst e1).setFields)

end
end Sys2Proof.Machine
end

section
/-! SUPPORT. Canonical memory is kept (log entry 3). Of the functions of: placement of teams and their binding tables, retirement of teams
and grids, and serialised execution. -/

namespace Sys2Proof.Machine
open Host

section
variable {s t : State} {cur : Option Cur}

theorem State.Canon.checkPeers (h : s.Canon cur) (l : Launch) : (s.checkPeers l).Canon cur := by
  unfold State.checkPeers
  extract_lets
  split
  · exact h.raise ..
  · exact h

theorem State.Canon.seat (h : s.Canon cur) (t : Nat) : (s.seat t).Canon cur := by
  unfold State.seat
  split
  · exact h
  · extract_lets
    exact (h.modCore ..).modTeam ..

theorem State.Canon.undefinePrivate (h : s.Canon cur) (l : Launch) (t : Nat) : (s.undefinePrivate l t).Canon cur := by
  unfold State.undefinePrivate
  extract_lets
  split
  · exact h
  · extract_lets
    exact (h.modTeam ..).foldl fun _ _ h1 => h1.undefinePage ..

theorem State.Canon.placeTeam (h : s.Canon cur) (lid : Nat) (l : Launch) (i core home : Nat) :
    (s.placeTeam lid l i core home).Canon cur := by
  unfold State.placeTeam
  extract_lets _ _ s1
  have h1 : s1.Canon cur := (((h.setFields.undefinePrivate ..).seat ..).inheritAnew ..).checkPeers ..
  exact h1.modLaunch ..

theorem State.Canon.placeAll (h : s.Canon cur) (lid n : Nat) : OptCanon cur (State.placeAll lid n s) := by
  induction n generalizing s with
  | zero => exact .some h
  | succ n ih =>
    unfold State.placeAll
    split
    · trivial
    · split
      · exact .some h
      · split
        · trivial
        · exact ih (h.placeTeam ..)

theorem State.Canon.admitAll (h : s.Canon cur) (lid : Nat) (l : Launch) : OptCanon cur (s.admitAll lid l) := by
  unfold State.admitAll
  extract_lets
  split
  · exact trivial
  · exact h.placeAll ..

theorem State.Canon.placeNext (h : s.Canon cur) (lid : Nat) (serial : Bool) : (s.placeNext lid serial).Canon cur := by
  unfold State.placeNext
  split
  · exact h
  · split
    · exact h
    · split
      · split
        · exact h.modLaunch ..
        · exact h
      · split
        · exact h
        · exact h.placeTeam ..

theorem State.Canon.teamPlaceEvent (h : s.Canon cur) (launch : Nat) : OutCanon cur (execTeamPlace launch s) := by
  unfold execTeamPlace
  exact .next (h.placeNext ..)

theorem State.Canon.serialisedExecutionEvent (h : s.Canon cur) (launch : Nat) : OutCanon cur (execSerialisedExecution launch s) := by
  unfold execSerialisedExecution
  exact .next (h.placeNext ..)

theorem State.Canon.coResidentAdmitEvent (h : s.Canon cur) (launch : Nat) : OutCanon cur (execCoResidentAdmit launch s) := by
  unfold execCoResidentAdmit
  split
  · exact .next h
  · split
    · exact .next h
    · exact .next ((h.admitAll ..).getD h)

theorem State.Canon.deliverDigest (h : s.Canon cur) (lid : Nat) (l : Launch) (tm : Team) : (s.deliverDigest lid l tm).Canon cur := by
  unfold State.deliverDigest
  split
  · exact h
  · extract_lets s1
    have h1 : s1.Canon cur := by
      unfold s1
      split
      · exact h
      · exact h.writeVa ..
    exact h1.modLaunch ..

theorem State.Canon.drainTeam (h : s.Canon cur) (t : Nat) : (s.drainTeam t).Canon cur := by
  unfold State.drainTeam
  split
  · exact h
  · exact (h.modCore ..).modTeam ..

theorem State.Canon.teamRetireEvent (h : s.Canon cur) (team : Nat) : OutCanon cur (execTeamRetire team s) := by
  unfold execTeamRetire
  split
  · exact .next h
  · split
    · exact .next h
    · extract_lets _ s1
      split
      · exact .next h
      · split
        · split
          · exact .next (h.drainTeam ..)
          · exact .next h
        · split
          · exact .next h
          · split
            · exact .next (h.cleanTeamStash ..)
            · exact .next ((((h.cleanTeamStash ..).deliverDigest ..).removeTeam ..).modLaunch ..)

theorem State.Canon.digestRecord (h : s.Canon cur) (l : Launch) (obs : W64) (outcome : Nat) : (s.digestRecord l obs outcome).Canon cur := by
  unfold State.digestRecord
  extract_lets _ s1
  have h1 : s1.Canon cur := by
    unfold s1
    split
    · exact h.writeVa ..
    · exact h
  split
  · exact h
  · exact (h1.writeVa ..).writeVa ..

theorem State.Canon.gridRetireEvent (h : s.Canon cur) (launch : Nat) : OutCanon cur (execGridRetire launch s) := by
  unfold execGridRetire
  split
  · exact .next h
  · extract_lets _ done
    have hdone {s : State} (h : s.Canon cur) : (done s).Canon cur := h.completeLaunch ..
    refine .ite (.next h) (.ite (.next (h.completeLaunch ..)) ?_)
    split
    next e => exact .next ((h.drainFor ..).get e)
    · refine .ite (.next (h.finishLaunch ..)) ?_
      refine .ite (.next (hdone (h.digestRecord ..))) ?_
      refine .ite (.next (hdone h)) ?_
      refine .ite (.next (hdone (h.digestRecord ..))) ?_
      refine .ite (.next (hdone (h.digestRecord ..))) ?_
      exact .ite (.ite (.next ((h.partEvent ..).modLaunch ..)) (.next (h.modLaunch ..).setFields)) (.next (h.raise ..))

end
end Sys2Proof.Machine
end

section
/-! SUPPORT. Canonical memory is kept (log entry 3). Of the functions of: GLAUNCH and GJOIN. -/

namespace Sys2Proof.Machine
open Host

section
variable {s t : State} {cur : Option Cur}

theorem State.Canon.glaunchEvent (h : s.Canon cur) (f : Form) : OutCanon none (execGlaunch f s) := by
  unfold execGlaunch
  refine h.issue fun i => ?_
  extract_lets _ _ _ s1
  have h1 : s1.Canon cur := h.fillTlbs ..
  split
  · trivial
  · split
    · trivial
    · split
      · trivial
      · split
        · exact .done ((h.popSources ..).startOp ..)
        · split
          next e => exact .done ((h.release ..).get e)
          · split
            next e => exact h.verdictError e
            · split
              next e => exact .done ((h1.issLoadWait ..).get e)
              · have h2 {ps : List Piece} : (ps.foldl (State.loadPiece i.tid i.wid i.team.core true true) (s1, [], [])).1.Canon cur :=
                  State.Canon.foldlFst h1 fun _ _ h2 => h2.loadPiece ..
                split
                next e3 =>
                  have h3 := h2.eq_fst e3
                  extract_lets _ o s4
                  have h4 : s4.Canon cur := h3.popSources ..
                  split
                  · exact .done ((h4.handOver ..).startOp ..)
                  · split
                    next e5 =>
                      split
                      next e6 => exact .done (State.Canon.beginMem (((h4.askRemote ..).eq_fst e5).askLines .. |>.eq_fst e6) ..)

theorem State.Canon.gjoinEvent (h : s.Canon cur) (f : Form) : OutCanon none (execGjoin f s) := by
  unfold execGjoin
  refine h.issue fun i => ?_
  split
  · exact trivial
  · split
    · extract_lets f1 s2
      have hf1 {s a1} (h1 : State.Canon cur s) : EffCanon cur (f1 s a1) := by
        unfold f1
        exact .done ((h1.popSources ..).startOp ..)
      split
      · exact hf1 (h)
      · exact hf1 (h)
      · split
        · exact trivial
        · exact hf1 (h)
      · exact hf1 ((h.acquire ..).modTeam ..)

end
end Sys2Proof.Machine
end

section
/-! SUPPORT. Canonical memory is kept (log entry 3). Of the functions of: system instructions and DGREAD. -/

namespace Sys2Proof.Machine
open Host

section
variable {s t : State} {cur : Option Cur}

theorem State.Canon.rettEvent (h : s.Canon cur) (f : Form) : OutCanon none (execRett f s) := by
  unfold execRett
  refine h.issue fun i => ?_
  split
  · exact trivial
  · exact .done ((h.issuedNext ..).modWave ..)

theorem State.Canon.rdsideEvent (h : s.Canon cur) (f : Form) : OutCanon none (execRdside f s) := by
  unfold execRdside
  refine h.issue fun i => ?_
  exact .done (h.startOp ..)

theorem State.Canon.wrctxEvent (h : s.Canon cur) (f : Form) : OutCanon none (execWrctx f s) := by
  unfold execWrctx
  refine h.issue fun i => ?_
  split
  · exact trivial
  · extract_lets
    split
    · exact trivial
    · exact .done ((h.issuedNext ..).modWave ..)

theorem State.Canon.haltselfEvent (h : s.Canon cur) (f : Form) : OutCanon none (execHaltself f s) := by
  unfold execHaltself
  refine h.issue fun i => ?_
  exact trivial

theorem State.Canon.dgreadEvent (h : s.Canon cur) (f : Form) : OutCanon none (execDgread f s) := by
  unfold execDgread
  refine h.issue fun i => ?_
  split
  · exact trivial
  · exact .done (h.startOp ..)

end
end Sys2Proof.Machine
end

section
/-! SUPPORT. Canonical memory is kept (log entry 3). Of the functions of: pre-emption. -/

namespace Sys2Proof.Machine
open Host

section
variable {s t : State} {cur : Option Cur}

theorem State.Canon.sendHome (h : s.Canon cur) (t : Nat) (tm : Team) (l : Launch) : OptCanon cur (s.sendHome t tm l) := by
  unfold State.sendHome
  extract_lets
  split
  · exact trivial
  · exact .some ((h.cleanTeamStash ..).foldl fun _ _ h1 => h1.writeBackLine ..)

theorem State.Canon.wakeYields (h : s.Canon cur) (t : Nat) : (s.wakeYields t).Canon cur := by
  unfold State.wakeYields
  split
  · exact h.foldl fun _ _ h1 => h1.modWave ..
  · exact h

theorem State.Canon.idleRegs (h : s.Canon cur) (t : Nat) : (s.idleRegs t).Canon cur := by
  unfold State.idleRegs
  exact h.setFields

theorem State.Canon.saveTeam (h : s.Canon cur) (t : Nat) (l : Launch) (at_ k : Nat) : (s.saveTeam t l at_ k).Canon cur := by
  unfold State.saveTeam
  extract_lets s1 s2
  have h2 : s2.Canon cur := ((h.modTeam ..).idleRegs ..).undefinePages ..
  split
  · exact h2
  · extract_lets s3 s4
    exact (((h2.writePaFor ..).modCore ..).modTeam ..).clearPreq ..

theorem State.Canon.preemptSaveEvent (h : s.Canon cur) (team : Nat) : OutCanon cur (execPreemptSave team s) := by
  unfold execPreemptSave
  split
  · exact .next h
  · split
    · exact .next h
    · extract_lets
      split
      · exact .next h
      · split
        · exact .next (h.wakeYields ..)
        · split
          · exact .next (h.wakeYields ..)
          · split
            · exact .next h
            · split
              next _ _ e1 =>
                exact .next ((h.sendHome ..).get e1)
              · split
                · exact .next (h.saveTeam ..)
                · exact .next h

theorem State.Canon.wakeEvaluateEvent (h : s.Canon cur) (team : Nat) : OutCanon cur (execWakeEvaluate team s) := by
  unfold execWakeEvaluate
  split
  · exact .next h
  · split
    · split
      · exact .next (h.modTeam ..)
      · exact .next h
    · exact .next h

theorem State.Canon.teamRestoreEvent (h : s.Canon cur) (team core : Nat) : OutCanon cur (execTeamRestore team core s) := by
  unfold execTeamRestore
  split
  · exact .next h
  · split
    · split
      · exact .next h
      · extract_lets _ s1 s2 s3 s4
        have h2 : s2.Canon cur := ((h.modTeam ..).checkPeers ..).modTeam ..
        have h4 : s4.Canon cur := ((h2.seat ..).acquire ..).foldl fun _ _ h4 => h4.reevaluate ..
        exact .next ((h4.dropRegs ..).inheritAnew ..)
    · exact .next h

theorem State.Canon.debugSave (h : s.Canon cur) (part : Nat) : (s.debugSave part).Canon cur := by
  unfold State.debugSave
  dsimp only
  refine h.foldl fun _ _ h1 => ?_
  split
  · exact ((h1.undefinePages ..).writePaFor ..).modTeam ..
  · exact h1

theorem State.Canon.waveFromImage (h : s.Canon cur) (t w : Nat) (now : List Byte) (old : List Byte) (regs : Nat) (bad : Bool) :
    (s.waveFromImage t w now old regs bad).Canon cur := by
  unfold State.waveFromImage
  extract_lets
  split
  · exact h
  · extract_lets
    exact (h.writeRegs ..).modWave ..

theorem State.Canon.debugResume (h : s.Canon cur) (part : Nat) : (s.debugResume part).Canon cur := by
  unfold State.debugResume
  dsimp only
  refine h.foldl fun _ _ h1 => ?_
  split
  · exact h1
  · exact (h1.foldl fun _ _ h2 => h2.waveFromImage ..).modTeam ..

end
end Sys2Proof.Machine
end

section
/-! SUPPORT. Canonical memory is kept (log entry 3). Of the functions of: the fault queue, the halt of a partition, uncorrectable data, and
the loss of a spindle. -/

namespace Sys2Proof.Machine
open Host

section
variable {s t : State} {cur : Option Cur}

theorem State.Canon.reject (h : s.Canon cur) (off : Nat) : (s.reject off).Canon cur := by
  unfold State.reject
  exact h.setFields

theorem State.Canon.command (h : s.Canon cur) {f : State → State} (hf : (f s).Canon cur) : OutCanon cur (s.command f) := by
  unfold State.command
  split
  · exact .next hf
  · exact .next h

theorem State.Canon.outcomeOf (h : s.Canon cur) {o : Outcome State Fault Refusal} (ho : OutCanon cur o) : (s.outcomeOf o).Canon cur := by
  cases o with
  | next t => exact ho.canon
  | _ => exact h

theorem State.Canon.mapPages (h : s.Canon cur) (part ctx : Nat) (f : List (W64 × Option W32) → List (W64 × Option W32)) :
    (s.mapPages part ctx f).Canon cur := by
  unfold State.mapPages
  extract_lets
  exact h.setFields

theorem State.Canon.tellSeq (h : s.Canon cur) (part ctx : Nat) (page : W64) (seq : W32) : (s.tellSeq part ctx page seq).Canon cur := by
  unfold State.tellSeq
  exact h.mapPages ..

theorem State.Canon.faultParkEvent (h : s.Canon cur) (part : Nat) : OutCanon cur (execFaultPark part s) := by
  unfold execFaultPark
  extract_lets
  split
  · exact .next h
  · split
    · exact .next h
    · extract_lets
      split
      · extract_lets
        exact .next ((h.modPart ..).tellSeq ..)
      · split
        · exact .next h
        · extract_lets _ s1
          split
          · exact .next (((h.modPart ..).tellSeq ..).partEvent ..)
          · exact .next ((h.modPart ..).tellSeq ..)

theorem State.Canon.fqtakeEvent (h : s.Canon cur) (part : Nat) (seq : W32) : OutCanon cur (execFqtake part seq s) := by
  unfold execFqtake
  refine h.command ?_
  split
  · exact h.modPart ..
  · exact h.reject ..

theorem State.Canon.replay (h : s.Canon cur) (part : Nat) (e : FqEntry) : (s.replay part e).Canon cur := by
  unfold State.replay
  extract_lets s1
  exact (h.mapPages ..).setFields

theorem State.Canon.fqresolveEvent (h : s.Canon cur) (part : Nat) (seq : W32) : OutCanon cur (execFqresolve part seq s) := by
  unfold execFqresolve
  refine h.command ?_
  split
  · exact h.reject ..
  · exact (h.modPart ..).replay ..

theorem State.Canon.fqresolveFailEvent (h : s.Canon cur) (part : Nat) (seq : W32) : OutCanon cur (execFqresolveFail part seq s) := by
  unfold execFqresolveFail
  refine h.command ?_
  split
  · exact h.reject ..
  · exact h.raise ..

theorem State.Canon.watchdogEvent (h : s.Canon cur) (part : Nat) (seq : W32) : OutCanon cur (execWatchdog part seq s) := by
  unfold execWatchdog
  extract_lets
  split
  · exact .next h
  · split
    · exact .next (h.raise ..)
    · exact .next h

theorem State.Canon.discardRequests (h : s.Canon cur) (p : Req → Bool) : (s.discardRequests p).Canon cur := by
  unfold State.discardRequests
  extract_lets
  exact h.setFields

theorem State.Canon.dropMessages (h : s.Canon cur) (p : MeshMsg → Bool) : (s.dropMessages p).Canon cur := by
  unfold State.dropMessages
  exact h.setFields

theorem State.Canon.forgetCores (h : s.Canon cur) (p : Nat → Bool) : (s.forgetCores p).Canon cur := by
  unfold State.forgetCores
  exact h.setFields

theorem State.Canon.stopRecords (h : s.Canon cur) (part : Nat) (c : CauseRec) (n : Nat) : (s.stopRecords part c n).Canon cur := by
  unfold State.stopRecords
  extract_lets
  split
  · exact h
  · exact h.foldl fun _ _ h1 => h1.writePa ..

theorem State.Canon.haltPart (h : s.Canon cur) (part : Nat) : (s.haltPart part).Canon cur := by
  unfold State.haltPart
  extract_lets
  split
  · exact h
  · split
    · exact h
    · extract_lets _ s1 _ _ s2 s3 s4 s5 s6 s7 s8 s9 s10 s11 s12
      have h3 : s3.Canon cur := ((h.stopRecords ..).discardRequests ..).foldl fun _ _ h3 => h3.modSlice ..
      have h4 : s4.Canon cur := h3.foldl fun _ _ h4 => h4.arriveAtSlice ..
      have h7 : s7.Canon cur := ((h4.dropMessages ..).setFields).forgetCores ..
      have h8 : s8.Canon cur := h7.foldl fun _ _ h8 => h8.modCore ..
      have h9 : s9.Canon cur := h8.foldl fun _ _ h9 => h9.endTree ..
      have h10 : s10.Canon cur := h9.foldl fun _ _ h10 => h10.setQState ..
      exact ((h10.modPart ..).setFields).partEvent ..

theorem State.Canon.haltEvent (h : s.Canon cur) (part : Nat) : OutCanon cur (execHalt part s) := by
  unfold execHalt
  exact .next (h.haltPart ..)

theorem State.Canon.uncorrectableEvent (h : s.Canon cur) (part source : Nat) (addr : W64) : OutCanon cur
    (execUncorrectable part source addr s) := by
  unfold execUncorrectable
  extract_lets _ _ _ _ _ _ s1
  have h1 : s1.Canon cur := by
    unfold s1
    split
    · exact h.modCore ..
    · exact h.setFields
  split
  · exact .next h
  · exact .next (h1.raise ..)

theorem State.Canon.endLaunch (h : s.Canon cur) (lid : Nat) (code : Byte) : (s.endLaunch lid code).Canon cur := by
  unfold State.endLaunch
  extract_lets _ s1 s2
  have h1 : s1.Canon cur := h.foldl fun _ _ h1 => h1.removeTeam ..
  exact (h1.setFields).completeLaunch ..

theorem State.Canon.emptyCores (h : s.Canon cur) (k : Nat) (f : Core → Core) : (s.emptyCores k f).Canon cur := by
  unfold State.emptyCores
  extract_lets
  exact h.foldl fun _ _ h1 => h1.modCore ..

theorem State.Canon.discardHeld (h : s.Canon cur) (k : Nat) : (s.discardHeld k).Canon cur := by
  unfold State.discardHeld
  extract_lets s1
  exact (h.emptyCores ..).setFields

theorem State.Canon.loseTeam {acc : State × List Nat} (h : acc.1.Canon cur) (t : Nat) : (State.loseTeam acc t).1.Canon cur := by
  unfold State.loseTeam
  extract_lets s0
  have h0 : s0.Canon cur := h
  split
  · exact h
  · split
    · exact h
    · extract_lets s1 may spot
      have h1 : s1.Canon cur := (h0.removeTeam ..).modLaunch ..
      clear_value spot
      refine .iteFst (h0.endLaunch ..) (.iteFst h1 ?_)
      rcases spot with _ | ⟨l, c, k⟩
      · exact .iteFst (h0.endLaunch ..) h1
      · exact h1.placeTeam ..

theorem State.Canon.fence (h : s.Canon cur) (k : Nat) : (s.fence k).1.Canon cur := by
  unfold State.fence
  extract_lets _ _ s1 _ s2 s3 s4 s5 s6 _ r
  have h2 : s2.Canon cur := (h.modSpindle ..).discardRequests ..
  have h5 : s5.Canon cur := (h2.dropMessages ..).setFields.setFields
  have h6 : s6.Canon cur := ((h5.forgetCores ..).discardHeld ..).renumber ..
  have hr : r.1.Canon cur := State.Canon.foldlFst h6 fun _ _ h => h.loseTeam ..
  exact hr.discardHeld ..

theorem State.Canon.dieFails (h : s.Canon cur) (k : Nat) : (s.dieFails k).Canon cur := by
  unfold State.dieFails
  split
  · exact h
  · extract_lets
    split
    · exact h.fence ..
    · split
      · exact (h.fence ..).raise ..
      · exact h.fence ..

theorem State.Canon.fenceLower (h : s.Canon cur) (k : Nat) : (s.fenceLower k).Canon cur := by
  unfold State.fenceLower
  refine h.foldl fun _ _ h1 => ?_
  split
  · exact h1
  · split
    · exact h1.dieFails ..
    · exact h1.fence ..

theorem State.Canon.dieFailureEvent (h : s.Canon cur) (socket : Nat) : OutCanon cur (execDieFailure socket s) := by
  unfold execDieFailure
  exact .next ((h.fenceLower ..).dieFails ..)

theorem State.Canon.crossDieTimeoutEvent (h : s.Canon cur) (core target : Nat) : OutCanon cur (execCrossDieTimeout core target s) := by
  unfold execCrossDieTimeout
  split
  · exact .next ((h.fenceLower ..).dieFails ..)
  · exact .next h

end
end Sys2Proof.Machine
end

section
/-! SUPPORT. Canonical memory is kept (log entry 3). Of the functions of: scale-up links. -/

namespace Sys2Proof.Machine
open Host

section
variable {s t : State} {cur : Option Cur}

theorem State.Canon.linkEvent (h : s.Canon cur) (l : Nat) (r : LinkRecord) : (s.linkEvent l r).Canon cur := by
  unfold State.linkEvent
  exact h.putEvent ..

theorem State.Canon.newMasks (h : s.Canon cur) (l code : Nat) (light : Bool) (rx : BitVec 16) (tx : BitVec 16) :
    (s.newMasks l code light rx tx).Canon cur := by
  unfold State.newMasks
  extract_lets
  exact h.modLink ..

theorem State.Canon.flushRecords (h : s.Canon cur) (l : Nat) : (s.flushRecords l).Canon cur := by
  unfold State.flushRecords
  exact (h.modLink ..).foldl fun _ _ h1 => h1.linkEvent ..

theorem State.Canon.linkLost (h : s.Canon cur) (part l : Nat) : (s.linkLost part l).Canon cur := by
  unfold State.linkLost
  split
  · extract_lets
    exact h.raise ..
  · exact h

theorem State.Canon.askHost (h : s.Canon cur) (part l : Nat) : (s.askHost part l).Canon cur := by
  unfold State.askHost
  split
  · exact (h.modPart ..).partEvent ..
  · exact h

theorem State.Canon.unhold (h : s.Canon cur) (part l : Nat) : (s.unhold part l).Canon cur := by
  unfold State.unhold
  extract_lets
  exact (h.modPart ..).modLink ..

theorem State.Canon.holdUnsent (h : s.Canon cur) (l : Nat) (since : Option W64) : (s.holdUnsent l since).Canon cur := by
  unfold State.holdUnsent
  exact h.modLink ..

theorem State.Canon.loseLink (h : s.Canon cur) (l : Nat) : (s.loseLink l).Canon cur := by
  unfold State.loseLink
  extract_lets _ _ s1 s2
  have h2 : s2.Canon cur := ((h.linkEvent ..).linkEvent ..).modLink ..
  split
  · exact h
  · exact (h2.holdUnsent ..).foldl fun _ _ h3 => h3.askHost ..

theorem State.Canon.dropLink (h : s.Canon cur) (l : Nat) : (s.dropLink l).Canon cur := by
  unfold State.dropLink
  extract_lets s1
  have h1 : s1.Canon cur := (h.foldl fun _ _ h1 => h1.linkLost ..).flushRecords ..
  exact (h1.modLink ..).holdUnsent ..

theorem State.Canon.linkLostEvent (h : s.Canon cur) (link : Nat) : OutCanon cur (execLinkLost link s) := by
  unfold execLinkLost
  extract_lets
  split
  · exact .next (h.loseLink ..)
  · exact .next h

theorem State.Canon.retrainEndEvent (h : s.Canon cur) (link : Nat) (rx tx : BitVec 16) : OutCanon cur (execRetrainEnd link rx tx s) := by
  unfold execRetrainEnd
  extract_lets _ s1 s2
  split
  · exact .next h
  · split
    · exact .next (((h.setFields.modLink ..).newMasks ..).holdUnsent ..)
    · refine .next (((h.modLink ..).flushRecords ..).foldl fun _ _ h1 => ?_)
      split
      · exact h1
      · exact h1.linkLost ..

theorem State.Canon.linksvcWaitEvent (h : s.Canon cur) (part link : Nat) : OutCanon cur (execLinksvcWait part link s) := by
  unfold execLinksvcWait
  dsimp only
  refine h.command ?_
  split
  · split
    · exact ((h.unhold ..).modPart ..).linkLost ..
    · exact (h.unhold ..).modPart ..
  · exact h

theorem State.Canon.linksvcLinklostEvent (h : s.Canon cur) (part link : Nat) : OutCanon cur (execLinksvcLinklost part link s) := by
  unfold execLinksvcLinklost
  refine h.command ?_
  split
  · exact (h.unhold ..).linkLost ..
  · exact h

theorem State.Canon.crossLinkTimeoutEvent (h : s.Canon cur) (part link : Nat) : OutCanon cur (execCrossLinkTimeout part link s) := by
  unfold execCrossLinkTimeout
  extract_lets
  split
  · exact .next h
  · split
    · exact .next ((h.loseLink ..).modLink ..)
    · exact .next (h.linkLost ..)

theorem State.Canon.portRequest (h : s.Canon cur) (l net : Nat) (tm : Terms) (asker : Asker) (part : Nat) (late : Bool) (checked : Bool)
    (body : LinkBody) : (s.portRequest l net tm asker part late checked body).Canon cur := by
  unfold State.portRequest
  exact h.modLink ..

theorem State.Canon.sendSnoop (h : s.Canon cur) (l : Nat) (net line : Nat) (tm : Terms) (asker : Asker) :
    (s.sendSnoop l net line tm asker).Canon cur := by
  unfold State.sendSnoop
  exact h.portRequest ..

theorem State.Canon.extSnoopEvent (h : s.Canon cur) (link : Nat) : OutCanon cur (execExtSnoop link s) := by
  unfold execExtSnoop
  split
  · extract_lets s1
    split
    · exact .next ((h.modLink ..).sendSnoop ..)
    · exact .next ((h.modLink ..).sendMesh ..)
  · exact .next h

theorem State.Canon.snoopFilterEvictEvent (h : s.Canon cur) (link line : Nat) : OutCanon cur (execSnoopFilterEvict link line s) := by
  unfold execSnoopFilterEvict
  extract_lets
  split
  · split
    · exact .next (h.sendSnoop ..)
    · exact .next (h.sendSnoop ..)
  · exact .next h

theorem State.Canon.linkReplies (h : s.Canon cur) (l : Nat) (tag : Nat) (net prio : Nat) (late : Bool) (deadline : W64) (body :
    LinkBody) : (s.linkReplies l tag net prio late deadline body).Canon cur := by
  unfold State.linkReplies
  exact h.modLink ..

theorem State.Canon.peerAnswered (h : s.Canon cur) (l : Nat) (r : Req) (m : Msg) : (s.peerAnswered l r m).Canon cur := by
  unfold State.peerAnswered
  split
  · exact h
  · extract_lets
    split
    · exact h.modLink ..
    · exact (h.modLink ..).linkReplies ..

theorem State.Canon.absorbLink (h : s.Canon cur) (l : Nat) (m : Msg) : (s.absorbLink l m).Canon cur := by
  unfold State.absorbLink
  split
  · exact h.portRequest ..
  · split
    · exact h.modLink ..
    · exact (h.modLink ..).peerAnswered ..
  · exact h.modLink ..
  · exact h.modLink ..
  · split
    · exact h.peerAnswered ..
    · exact h

theorem State.Canon.absorbPort (h : s.Canon cur) (l : Nat) : (s.absorbPort l).Canon cur := by
  unfold State.absorbPort
  exact (h.modLink ..).foldl fun _ _ h1 => h1.absorbLink ..

theorem State.Canon.snoopsDone (h : s.Canon cur) (l : Nat) : (s.snoopsDone l).Canon cur := by
  unfold State.snoopsDone
  extract_lets
  exact (h.modLink ..).foldl fun _ _ h1 => h1.linkReplies ..

theorem State.Canon.emit (h : s.Canon cur) (l : Nat) (f : Flit) : (s.emit l f).Canon cur := by
  unfold State.emit
  exact h.modLink ..

theorem State.Canon.newFlit (h : s.Canon cur) (l : Nat) : (s.newFlit l).Canon cur := by
  unfold State.newFlit
  extract_lets
  split
  · exact h
  · split
    · exact h
    · extract_lets
      exact (h.emit ..).modLink ..

theorem State.Canon.flitSendEvent (h : s.Canon cur) (link : Nat) : OutCanon cur (execFlitSend link s) := by
  unfold execFlitSend
  extract_lets s1 k s2
  have h1 : s1.Canon cur := (h.absorbPort ..).snoopsDone ..
  have h2 : s2.Canon cur := by
    unfold s2
    cases k.replay[k.replay.length - k.resendAt]? with
    | none => exact h1
    | some f => exact h1.emit ..
  split
  · exact .next h1
  · split
    · exact .next (h2.modLink ..)
    · exact .next (h1.newFlit ..)

theorem State.Canon.ackTimeoutEvent (h : s.Canon cur) (link : Nat) : OutCanon cur (execAckTimeout link s) := by
  unfold execAckTimeout
  extract_lets
  split
  · exact .next (h.modLink ..)
  · exact .next h

theorem State.Canon.linkRequest (h : s.Canon cur) (l : Nat) (m : LinkMsg) : (s.linkRequest l m).Canon cur := by
  unfold State.linkRequest
  extract_lets _ _ no
  have hno : no.Canon cur := h.linkReplies ..
  split
  · exact hno
  · split
    · exact h.linkReplies ..
    · split
      · exact hno
      · exact h.linkReplies ..
      · extract_lets res
        have hres : res.1.Canon cur := by
          refine State.Canon.foldlFst h fun _ _ h1 => ?_
          split
          · exact h1
          · exact (h1.undefinePages ..).setFields.sendMesh ..
        split
        · exact hno
        · exact hres.modLink ..

theorem State.Canon.linkAnswer (h : s.Canon cur) (l : Nat) (m : LinkMsg) : (s.linkAnswer l m).Canon cur := by
  unfold State.linkAnswer
  split
  · exact h
  · extract_lets s1 _ _ s2 send
    have h1 : s1.Canon cur := h.modLink ..
    have h2 : s2.Canon cur := by
      unfold s2
      split
      · exact h1.countLate ..
      · exact h1
    have hsend (dest : MeshDest) (msg : Msg) : (send dest msg).Canon cur := h2.sendMesh ..
    split
    · exact hsend ..
    · exact hsend ..
    · exact hsend ..
    · exact hsend ..
    · exact h2.modLink ..
    · exact h2

theorem State.Canon.linkSnoop (h : s.Canon cur) (l : Nat) (m : LinkMsg) (line : Nat) : (s.linkSnoop l m line).Canon cur := by
  unfold State.linkSnoop
  extract_lets _ _ _ r
  have hr : r.1.Canon cur := State.Canon.foldlFst h fun _ _ h1 => h1.setFields.sendMesh ..
  exact (hr.modLink ..).snoopsDone ..

theorem State.Canon.linkDeliver (h : s.Canon cur) (l : Nat) (m : LinkMsg) : (s.linkDeliver l m).Canon cur := by
  unfold State.linkDeliver
  split
  · exact h.linkSnoop ..
  · split
    · exact h.linkRequest ..
    · exact h.linkAnswer ..

theorem State.Canon.flitReceiveEvent (h : s.Canon cur) (link : Nat) (flit : Flit) : OutCanon cur (execFlitReceive link flit s) := by
  unfold execFlitReceive
  extract_lets _ _ s1
  split
  · exact .next h
  · split
    · exact .next (((h.modLink ..).modLink ..).foldl fun _ _ h2 => h2.linkDeliver ..)
    · exact .next ((h.modLink ..).modLink ..)

theorem State.Canon.nakRepeatEvent (h : s.Canon cur) (link : Nat) : OutCanon cur (execNakRepeat link s) := by
  unfold execNakRepeat
  extract_lets
  split
  · exact .next (h.modLink ..)
  · exact .next h

theorem State.Canon.controlFlitSendEvent (h : s.Canon cur) (link : Nat) : OutCanon cur (execControlFlitSend link s) := by
  unfold execControlFlitSend
  extract_lets
  split
  · exact .next (h.modLink ..)
  · exact .next h

theorem State.Canon.lossOfLightEvent (h : s.Canon cur) (link : Nat) (lost : BitVec 16) (laser : Option Nat) : OutCanon cur
    (execLossOfLight link lost laser s) := by
  unfold execLossOfLight
  split
  · exact .next h.setFields
  · split
    · exact .next (h.modLink ..)
    · exact .next h

theorem State.Canon.restripeEvent (h : s.Canon cur) (link : Nat) (rx : BitVec 16) (tx : BitVec 16) : OutCanon cur
    (execRestripe link rx tx s) := by
  unfold execRestripe
  extract_lets
  split
  · exact .next (h.newMasks ..)
  · exact .next h

theorem State.Canon.linkEventRecordEvent (h : s.Canon cur) (link : Nat) : OutCanon cur (execLinkEventRecord link s) := by
  unfold execLinkEventRecord
  extract_lets
  split
  · exact .next h
  · exact .next ((h.modLink ..).linkEvent ..)

theorem State.Canon.wavesBack (h : s.Canon cur) (l : Nat) (rx : BitVec 16) (tx : BitVec 16) : (s.wavesBack l rx tx).Canon cur := by
  unfold State.wavesBack
  extract_lets
  exact ((h.setFields).modLink ..).newMasks ..

theorem State.Canon.probed (h : s.Canon cur) (waves : BitVec 16) : (s.probed waves).2.Canon cur := by
  unfold State.probed
  dsimp only
  exact h.fresh ..

theorem State.Canon.askedBack (h : s.Canon cur) (l : Nat) (lit : BitVec 16) : (s.askedBack l lit).Canon cur := by
  unfold State.askedBack
  extract_lets
  split
  · exact h
  · exact (h.modLink ..).wavesBack ..

theorem State.Canon.controlFlitReceiveEvent (h : s.Canon cur) (link : Nat) (flit : CtlFlit) : OutCanon cur
    (execControlFlitReceive link flit s) := by
  unfold execControlFlitReceive
  extract_lets _ _ _ s1 s2 s3 s4
  have h2 : s2.Canon cur := by
    unfold s2
    split
    · exact (h.modLink ..).modLink ..
    · exact h.modLink ..
  split
  · exact .next h
  · split
    · exact .next ((h2.modLink ..).askedBack ..)
    · exact .next ((((h2.modLink ..).askedBack ..).probed ..).wavesBack ..)

theorem State.Canon.restoreLink (h : s.Canon cur) (link : Nat) (waves : BitVec 16) (rx : BitVec 16) (tx : BitVec 16) (asked :
    BitVec 16) : (s.restoreLink link waves rx tx asked).Canon cur := by
  unfold State.restoreLink
  split
  · exact h
  · extract_lets
    split
    · exact h.reject ..
    · split
      · exact (h.modLink ..).wavesBack ..
      · split
        · exact h.modLink ..
        · exact h

theorem State.Canon.restoreEvent (h : s.Canon cur) (link : Nat) (waves : BitVec 16) (rx : BitVec 16) (tx : BitVec 16) : OutCanon cur
    (execRestore link waves rx tx s) := by
  unfold execRestore
  refine h.command ?_
  exact h.restoreLink ..

end
end Sys2Proof.Machine
end

section
/-! SUPPORT. Canonical memory is kept (log entry 3). Of the functions of: power units, the spindle commands, and boot. -/

namespace Sys2Proof.Machine
open Host

section
variable {s t : State} {cur : Option Cur}

theorem State.Canon.forgetStack (h : s.Canon cur) (m : Nat) : (s.forgetStack m).Canon cur := by
  unfold State.forgetStack
  exact h.setMem (Memory.filter_wf _ h.1)

theorem State.Canon.linkPower (h : s.Canon cur) (l : Nat) (old new : Nat) : (s.linkPower l old new).Canon cur := by
  unfold State.linkPower
  extract_lets
  split
  · split
    · exact h
    · exact h.dropLink ..
  · split
    · split
      · exact h.modLink ..
      · exact h
    · split
      · exact h
      · split
        · exact h.newMasks ..
        · split
          · exact h.newMasks ..
          · exact h

theorem State.Canon.setPower (h : s.Canon cur) (u state : Nat) : (s.setPower u state).Canon cur := by
  unfold State.setPower
  extract_lets _ s1 s2
  have h2 : s2.Canon cur := by
    unfold s2
    split
    · exact ((h.modUnit ..).fenceLower ..).fence ..
    · exact h.modUnit ..
  split
  · exact h2.renumber ..
  · split
    · split
      · exact (h.modUnit ..).forgetStack ..
      · exact h.modUnit ..
    · exact (h.modUnit ..).linkPower ..

theorem State.Canon.powerCommand (h : s.Canon cur) (u target : Nat) : (s.powerCommand u target).Canon cur := by
  unfold State.powerCommand
  split
  · exact h
  · split
    · exact h.reject ..
    · extract_lets _ s1
      split
      · exact h.modUnit ..
      · split
        · exact h.modUnit ..
        · exact (h.modUnit ..).setPower ..

theorem State.Canon.powerCommandEvent (h : s.Canon cur) (unit target : Nat) : OutCanon cur (execPowerCommand unit target s) := by
  unfold execPowerCommand
  refine h.command ?_
  exact h.powerCommand ..

theorem State.Canon.protectionEvent (h : s.Canon cur) (code : Nat) : (s.protectionEvent code).Canon cur := by
  unfold State.protectionEvent
  extract_lets
  exact ((((h.fresh ..).fresh ..).fresh ..).fresh ..).putEvent ..

theorem State.Canon.protectionEnterEvent (h : s.Canon cur) (unit : Nat) (overcurrent : Bool) : OutCanon cur
    (execProtectionEnter unit overcurrent s) := by
  unfold execProtectionEnter
  split
  · exact .next h
  · split
    · exact .next h
    · extract_lets s1
      have h1 : s1.Canon cur := by
        unfold s1
        split
        · exact h.setPower ..
        · exact h
      exact .next ((h1.modUnit ..).protectionEvent ..)

theorem State.Canon.protectionReleaseEvent (h : s.Canon cur) (unit : Nat) : OutCanon cur (execProtectionRelease unit s) := by
  unfold execProtectionRelease
  extract_lets _ s1
  split
  · exact .next h
  · split
    · exact .next ((h.modUnit ..).protectionEvent ..)
    · exact .next (((h.modUnit ..).setPower ..).protectionEvent ..)

theorem State.Canon.resetCores (h : s.Canon cur) (k : Nat) : (s.resetCores k).Canon cur := by
  unfold State.resetCores
  exact (h.emptyCores ..).modSpindle ..

theorem State.Canon.spopReset (h : s.Canon cur) (u : Nat) : (s.spopReset u).Canon cur := by
  unfold State.spopReset
  split
  · exact h
  · split
    · exact h.reject ..
    · extract_lets s1
      have h1 : s1.Canon cur := ((h.fenceLower ..).fence ..).resetCores ..
      exact h1.modSpindle ..

theorem State.Canon.spopFence (h : s.Canon cur) (u : Nat) : (s.spopFence u).Canon cur := by
  unfold State.spopFence
  split
  · exact h
  · split
    · exact h.reject ..
    · exact (h.fenceLower ..).fence ..

theorem State.Canon.spopReturn (h : s.Canon cur) (u : Nat) : (s.spopReturn u).Canon cur := by
  unfold State.spopReturn
  extract_lets _ s1
  have h1 : s1.Canon cur := by
    unfold s1
    split
    · exact h
    · exact h.resetCores ..
  split
  · exact h
  · split
    · exact h.reject ..
    · exact (h1.modSpindle ..).renumber ..

theorem State.Canon.spopResetEvent (h : s.Canon cur) (unit : Nat) : OutCanon cur (execSpopReset unit s) := by
  unfold execSpopReset
  refine h.command ?_
  exact h.spopReset ..

theorem State.Canon.spopFenceEvent (h : s.Canon cur) (unit : Nat) : OutCanon cur (execSpopFence unit s) := by
  unfold execSpopFence
  refine h.command ?_
  exact h.spopFence ..

theorem State.Canon.spopReturnEvent (h : s.Canon cur) (unit : Nat) : OutCanon cur (execSpopReturn unit s) := by
  unfold execSpopReturn
  refine h.command ?_
  exact h.spopReturn ..

theorem State.Canon.resetCompleteEvent (h : s.Canon cur) (socket : Nat) : OutCanon cur (execResetComplete socket s) := by
  unfold execResetComplete
  split
  · exact .next (h.modSpindle ..)
  · exact .next h

theorem State.Canon.bootEvent (h : s.Canon cur) (verified : Bool) : OutCanon cur (execBoot verified s) := by
  unfold execBoot
  split
  · exact .next h
  · extract_lets
    split
    · exact .next h.setFields
    · exact .next h.setFields

end
end Sys2Proof.Machine
end

section
/-! SUPPORT. Canonical memory is kept (log entry 3). Of the functions of: the host. -/

namespace Sys2Proof.Machine
open Host

section
variable {s t : State} {cur : Option Cur}

theorem State.Canon.ctxCreate (h : s.Canon cur) (c : Nat) (v : W64) : (s.ctxCreate c v).Canon cur := by
  unfold State.ctxCreate
  extract_lets
  split
  · exact h.reject ..
  · split
    · exact h.reject ..
    · extract_lets s1
      split
      · exact h.modCtx ..
      · exact (h.modCtx ..).reject ..

theorem State.Canon.ctxReload (h : s.Canon cur) (c : Nat) : (s.ctxReload c).Canon cur := by
  unfold State.ctxReload
  extract_lets
  split
  · exact h
  · split
    · exact h.reject ..
    · exact h.modCtx ..

theorem State.Canon.ctxKill (h : s.Canon cur) (c : Nat) : (s.ctxKill c).Canon cur := by
  unfold State.ctxKill
  split
  · exact h
  · extract_lets s1
    exact ((h.modCtx ..).foldl fun _ _ h2 => h2.endTree ..).reapCtx ..

theorem State.Canon.ctxPreq (h : s.Canon cur) (c : Nat) (on : Bool) : (s.ctxPreq c on).Canon cur := by
  unfold State.ctxPreq
  split
  · exact h
  · exact (h.modCtx ..).clearPreq ..

theorem State.Canon.ctxDbgbrk (h : s.Canon cur) (c : Nat) (on : Bool) : (s.ctxDbgbrk c on).Canon cur := by
  unfold State.ctxDbgbrk
  split
  · exact h
  · exact h.modCtx ..

theorem State.Canon.ctxScbchk (h : s.Canon cur) (c : Nat) (on : Bool) : (s.ctxScbchk c on).Canon cur := by
  unfold State.ctxScbchk
  split
  · exact h
  · exact h.modCtx ..

theorem State.Canon.ctxdescCreateEvent (h : s.Canon cur) (ctx : Nat) (val : W64) : OutCanon cur (execCtxdescCreate ctx val s) := by
  unfold execCtxdescCreate
  refine h.command ?_
  exact h.ctxCreate ..

theorem State.Canon.reloadEvent (h : s.Canon cur) (ctx : Nat) : OutCanon cur (execReload ctx s) := by
  unfold execReload
  refine h.command ?_
  exact h.ctxReload ..

theorem State.Canon.killEvent (h : s.Canon cur) (ctx : Nat) : OutCanon cur (execKill ctx s) := by
  unfold execKill
  refine h.command ?_
  exact h.ctxKill ..

theorem State.Canon.preqEvent (h : s.Canon cur) (ctx : Nat) (on : Bool) : OutCanon cur (execPreq ctx on s) := by
  unfold execPreq
  refine h.command ?_
  exact h.ctxPreq ..

theorem State.Canon.dbgbrkEvent (h : s.Canon cur) (ctx : Nat) (on : Bool) : OutCanon cur (execDbgbrk ctx on s) := by
  unfold execDbgbrk
  refine h.command ?_
  exact h.ctxDbgbrk ..

theorem State.Canon.scbchkEvent (h : s.Canon cur) (ctx : Nat) (on : Bool) : OutCanon cur (execScbchk ctx on s) := by
  unfold execScbchk
  refine h.command ?_
  exact h.ctxScbchk ..

theorem State.Canon.qcbWrite (h : s.Canon cur) (q : Nat) (v : W64) : (s.qcbWrite q v).Canon cur := by
  unfold State.qcbWrite
  extract_lets _ _ _ s1 s2
  have h2 : s2.Canon cur := by
    unfold s2
    split
    · exact h.modQueue ..
    · exact (h.modQueue ..).rereadBlock ..
  split
  · exact h.reject ..
  · split
    · exact h2
    · exact h2.reject ..

theorem State.Canon.qctxWrite (h : s.Canon cur) (q : Nat) (v : W64) : (s.qctxWrite q v).Canon cur := by
  unfold State.qctxWrite
  extract_lets _ s1
  split
  · exact h.reject ..
  · split
    · exact h.modQueue ..
    · exact (h.modQueue ..).reject ..

theorem State.Canon.queueOwnerWrite (h : s.Canon cur) (q : Nat) (v : Byte) : (s.queueOwnerWrite q v).Canon cur := by
  unfold State.queueOwnerWrite
  split
  · exact h.reject ..
  · exact h.setFields

theorem State.Canon.granuleOwnerWrite (h : s.Canon cur) (g : Nat) (v : Byte) : (s.granuleOwnerWrite g v).Canon cur := by
  unfold State.granuleOwnerWrite
  extract_lets
  split
  · exact h.reject ..
  · exact h.setFields

theorem State.Canon.qcbWriteEvent (h : s.Canon cur) (queue : Nat) (val : W64) : OutCanon cur (execQcbWrite queue val s) := by
  unfold execQcbWrite
  refine h.command ?_
  exact h.qcbWrite ..

theorem State.Canon.qctxWriteEvent (h : s.Canon cur) (queue : Nat) (val : W64) : OutCanon cur (execQctxWrite queue val s) := by
  unfold execQctxWrite
  refine h.command ?_
  exact h.qctxWrite ..

theorem State.Canon.queueOwnerWriteEvent (h : s.Canon cur) (queue : Nat) (val : Byte) : OutCanon cur (execQueueOwnerWrite queue val s) := by
  unfold execQueueOwnerWrite
  refine h.command ?_
  exact h.queueOwnerWrite ..

theorem State.Canon.granuleOwnerWriteEvent (h : s.Canon cur) (granule : Nat) (val : Byte) : OutCanon cur
    (execGranuleOwnerWrite granule val s) := by
  unfold execGranuleOwnerWrite
  refine h.command ?_
  exact h.granuleOwnerWrite ..

theorem State.Canon.partCreate (h : s.Canon cur) (p : Nat) : (s.partCreate p).Canon cur := by
  unfold State.partCreate
  extract_lets _ _ _ _ s1 s2
  have h2 : s2.Canon cur := by
    unfold s2
    dsimp only
    refine (h.modPart ..).foldl fun _ _ h2 => ?_
    split
    · exact (h2.resetCores ..).modSpindle ..
    · exact h2.modSpindle ..
  split
  · exact h.reject ..
  · exact (h2.foldl fun _ _ h3 => h3.modSlice ..).renumber ..

theorem State.Canon.storeLine (h : s.Canon cur) (k line : Nat) : (s.storeLine k line).Canon cur := by
  unfold State.storeLine
  extract_lets s1
  split
  · exact h.foldl fun _ _ h1 => h1.unspill ..
  · exact ((h.foldl fun _ _ h1 => h1.unspill ..).foldl fun _ _ h2 => h2.storeSector ..).modSlice ..

theorem State.Canon.freePart (h : s.Canon cur) (p : Nat) : (s.freePart p).Canon cur := by
  unfold State.freePart
  extract_lets _ _ s1 s2
  have h1 : s1.Canon cur := h.foldl fun _ _ h1 => (h1.foldl fun _ _ h2 => h2.storeLine ..).modSlice ..
  have h2 : s2.Canon cur := h1.foldl fun _ _ h2 => h2.modCore ..
  exact (h2.setFields).modPart ..

theorem State.Canon.partClear (h : s.Canon cur) (p : Nat) : (s.partClear p).Canon cur := by
  unfold State.partClear
  extract_lets s1 s2
  have h2 : s2.Canon cur := (h.haltPart ..).foldl fun _ _ h2 => h2.ctxKill ..
  split
  · exact h2.modPart ..
  · exact h2.freePart ..

theorem State.Canon.pcmdCreateEvent (h : s.Canon cur) (part : Nat) : OutCanon cur (execPcmdCreate part s) := by
  unfold execPcmdCreate
  refine h.command ?_
  exact h.partCreate ..

theorem State.Canon.pcmdClearEvent (h : s.Canon cur) (part : Nat) : OutCanon cur (execPcmdClear part s) := by
  unfold execPcmdClear
  refine h.command ?_
  exact h.partClear ..

theorem State.Canon.digestAgain (h : s.Canon cur) (part ident : Nat) : (s.digestAgain part ident).Canon cur := by
  unfold State.digestAgain
  split
  · exact h.modLaunch ..
  · exact h

theorem State.Canon.digestFault (h : s.Canon cur) (part ident : Nat) : (s.digestFault part ident).Canon cur := by
  unfold State.digestFault
  split
  · split
    · exact h.raise ..
    · exact h
  · exact h

theorem State.Canon.qgrant (h : s.Canon cur) (part q : Nat) : (s.qgrant part q).Canon cur := by
  unfold State.qgrant
  split
  · exact h.modQueue ..
  · exact h

theorem State.Canon.setDbghalt (h : s.Canon cur) (p : Nat) (v : BitVec 24) : (s.setDbghalt p v).Canon cur := by
  unfold State.setDbghalt
  extract_lets _ s1
  exact (h.setHalt ..).setFields

theorem State.Canon.debugSaveEvent (h : s.Canon cur) (part : Nat) : OutCanon cur (execDebugSave part s) := by
  unfold execDebugSave
  refine h.command ?_
  exact h.debugSave ..

theorem State.Canon.debugResumeEvent (h : s.Canon cur) (part : Nat) : OutCanon cur (execDebugResume part s) := by
  unfold execDebugResume
  refine h.command ?_
  exact h.debugResume ..

theorem State.Canon.digsvcReexecuteEvent (h : s.Canon cur) (part ident : Nat) : OutCanon cur (execDigsvcReexecute part ident s) := by
  unfold execDigsvcReexecute
  refine h.command ?_
  exact h.digestAgain ..

theorem State.Canon.digsvcFaultEvent (h : s.Canon cur) (part ident : Nat) : OutCanon cur (execDigsvcFault part ident s) := by
  unfold execDigsvcFault
  refine h.command ?_
  exact h.digestFault ..

theorem State.Canon.qgrantEvent (h : s.Canon cur) (part queue : Nat) : OutCanon cur (execQgrant part queue s) := by
  unfold execQgrant
  refine h.command ?_
  exact h.qgrant ..

theorem State.Canon.dbghaltEvent (h : s.Canon cur) (part : Nat) (sockets : BitVec 24) : OutCanon cur (execDbghalt part sockets s) := by
  unfold execDbghalt
  refine h.command ?_
  exact h.setDbghalt ..

theorem State.Canon.keyLoad (h : s.Canon cur) (i : Nat) : (s.keyLoad i).Canon cur := by
  unfold State.keyLoad
  split
  · exact h.reject ..
  · exact h.setFields

theorem State.Canon.keyUnload (h : s.Canon cur) (i : Nat) : (s.keyUnload i).Canon cur := by
  unfold State.keyUnload
  split
  · exact h.reject ..
  · extract_lets s1
    have h1 : s1.Canon cur := h.foldl fun _ _ h1 => h1.foldl fun _ _ h2 => h2.storeLine ..
    exact h1.setFields

theorem State.Canon.keycmdLoadEvent (h : s.Canon cur) (index : Nat) : OutCanon cur (execKeycmdLoad index s) := by
  unfold execKeycmdLoad
  refine h.command ?_
  exact h.keyLoad ..

theorem State.Canon.keycmdUnloadEvent (h : s.Canon cur) (index : Nat) : OutCanon cur (execKeycmdUnload index s) := by
  unfold execKeycmdUnload
  refine h.command ?_
  exact h.keyUnload ..

theorem State.Canon.clearErr (h : s.Canon cur) : s.clearErr.Canon cur := by
  unfold State.clearErr
  exact h.setFields

theorem State.Canon.clearCounters (h : s.Canon cur) (core : Nat) : (s.clearCounters core).Canon cur := by
  unfold State.clearCounters
  split
  · exact h.modCore ..
  · exact h

theorem State.Canon.errClearEvent (h : s.Canon cur) : OutCanon cur (execErrClear s) := by
  unfold execErrClear
  exact .next (h.clearErr ..)

theorem State.Canon.freezeEvent (h : s.Canon cur) (on : Bool) : OutCanon cur (execFreeze on s) := by
  unfold execFreeze
  exact .next h.setFields

theorem State.Canon.counterClearEvent (h : s.Canon cur) (core : Nat) : OutCanon cur (execCounterClear core s) := by
  unfold execCounterClear
  refine h.command ?_
  exact h.clearCounters ..

theorem State.Canon.checkReserved (h : s.Canon cur) (o : Nat) (v : W64) (mask : W64) : (s.checkReserved o v mask).Canon cur := by
  unfold State.checkReserved
  split
  · exact h
  · exact h.reject ..

theorem State.Canon.writePart (h : s.Canon cur) (o : Nat) (p r : Nat) (v : W64) : (s.writePart o p r v).Canon cur := by
  unfold State.writePart
  split
  · split
    · exact (h.partCreate ..).checkReserved ..
    · exact (h.partClear ..).checkReserved ..
    · exact h.checkReserved ..
  · exact (h.modPart ..).checkReserved ..
  · exact h.modPart ..
  · exact (h.modPart ..).checkReserved ..
  · exact h.modPart ..
  · exact h.modPart ..
  · exact h.modPart ..
  · exact h.modPart ..
  · exact (h.modPart ..).checkReserved ..
  · exact h.modPart ..
  · exact h.modPart ..
  · exact h.modPart ..
  · exact h.modPart ..
  · exact h.modPart ..
  · exact h.checkReserved ..
  · extract_lets
    split
    · exact (h.outcomeOf (h.fqtakeEvent ..)).checkReserved ..
    · exact (h.reject ..).checkReserved ..
  · extract_lets
    split
    · exact (h.reject ..).checkReserved ..
    · exact (h.outcomeOf (.ite (h.fqresolveFailEvent ..) (h.fqresolveEvent ..))).checkReserved ..
  · extract_lets s1
    have h1 : s1.Canon cur := by
      unfold s1
      split
      · exact h.digestAgain ..
      · exact h.digestFault ..
      · exact h
    exact h1.checkReserved ..
  · exact (h.qgrant ..).checkReserved ..
  · exact (h.setDbghalt ..).checkReserved ..
  · split
    · exact (h.debugSave ..).checkReserved ..
    · exact (h.debugResume ..).checkReserved ..
    · exact h.checkReserved ..
  · extract_lets _ s1
    have h1 : s1.Canon cur := by
      unfold s1
      split
      · exact h
      · split
        · exact h.outcomeOf (h.linksvcWaitEvent ..)
        · exact h.outcomeOf (h.linksvcLinklostEvent ..)
        · exact h
    exact h1.checkReserved ..
  · exact h

theorem State.Canon.writeCtxctl (h : s.Canon cur) (o c : Nat) (v : W64) : (s.writeCtxctl o c v).Canon cur := by
  unfold State.writeCtxctl
  split
  · exact h
  · extract_lets s1 s2
    have h1 : s1.Canon cur := ((h.ctxScbchk ..).ctxDbgbrk ..).ctxPreq ..
    have h2 : s2.Canon cur := by
      unfold s2
      split
      · exact h1.ctxReload ..
      · exact h1
    split
    · exact (h2.ctxKill ..).checkReserved ..
    · exact h2.checkReserved ..

theorem State.Canon.writeUnit (h : s.Canon cur) (o u : Nat) (v : W64) : (s.writeUnit o u v).Canon cur := by
  unfold State.writeUnit
  extract_lets _ _ s1 s2 s3
  have h1 : s1.Canon cur := by
    unfold s1
    split
    · exact (h.probed ..).restoreLink ..
    · exact h
  have h2 : s2.Canon cur := by
    unfold s2
    split
    · exact h1
    · exact h1.spopReset ..
    · exact h1.spopFence ..
    · exact h1.spopReturn ..
  have h3 : s3.Canon cur := by
    unfold s3
    split
    · exact h2
    · exact h2.powerCommand ..
  exact h3.checkReserved ..

theorem State.Canon.writePort (h : s.Canon cur) (o : Nat) (u r : Nat) (v : W64) : (s.writePort o u r v).Canon cur := by
  unfold State.writePort
  split
  · exact (h.modPort ..).checkReserved ..
  · exact (h.modPort ..).checkReserved ..
  · exact (h.modPort ..).checkReserved ..
  · exact h

theorem State.Canon.writeEvq (h : s.Canon cur) (o r : Nat) (v : W64) : (s.writeEvq o r v).Canon cur := by
  unfold State.writeEvq
  split
  · exact (h.setFields).checkReserved ..
  · split
    · exact h.reject ..
    · exact h.setFields
  · exact h.setFields
  · exact h

theorem State.Canon.putOwners (h : s.Canon cur) {put : State → Nat → Byte → State} (hp : ∀ s k v, s.Canon cur → (put s k v).Canon cur)
    (r : Nat) (v : W64) : (Machine.putOwners put s r v).Canon cur :=
  h.foldl fun _ _ h => hp _ _ _ h

theorem State.Canon.writePlacement (h : s.Canon cur) (o r : Nat) (v : W64) : (s.writePlacement o r v).Canon cur := by
  unfold State.writePlacement
  split
  · exact h.checkReserved ..
  · split
    · exact h.checkReserved ..
    · split
      · exact h.checkReserved ..
      · exact h

theorem State.Canon.writeCounter (h : s.Canon cur) (o : Nat) (core r : Nat) (v : W64) : (s.writeCounter o core r v).Canon cur := by
  unfold State.writeCounter
  split
  · split
    · exact (h.clearCounters ..).checkReserved ..
    · exact h.checkReserved ..
  · split
    · exact h.checkReserved ..
    · exact h

theorem State.Canon.writeMailbox (h : s.Canon cur) (r : Nat) (v : W64) : (s.writeMailbox r v).Canon cur := by
  unfold State.writeMailbox
  extract_lets
  exact h.setFields

theorem State.Canon.keyCommand (h : s.Canon cur) (v : W64) :
    State.Canon cur (match bits v 62 2 with
      | 1 => s.keyLoad (bits v 0 10)
      | 2 => s.keyUnload (bits v 0 10)
      | _ => s) := by
  split
  · exact h.keyLoad ..
  · exact h.keyUnload ..
  · exact h

theorem State.Canon.regWrite (h : s.Canon cur) (o : Nat) (v : W64) : (s.regWrite o v).Canon cur := by
  unfold State.regWrite
  refine .ite ((State.Canon.ite (h.clearErr ..) h).checkReserved ..) ?_
  refine .ite (h.setFields.checkReserved ..) ?_
  refine .ite (h.checkReserved ..) ?_
  refine .ite (h.checkReserved ..) ?_
  refine .ite (h.checkReserved ..) ?_
  refine .ite h ?_
  refine .ite (.ite h.setFields h) ?_
  refine .ite (h.writePlacement ..) ?_
  refine .ite (h.writeCounter ..) ?_
  refine .ite (h.writePart ..) ?_
  refine .ite (.ite (h.ctxCreate ..) (h.writeCtxctl ..)) ?_
  refine .ite (h.putOwners (fun _ _ _ h => h.queueOwnerWrite ..) ..) ?_
  refine .ite (.ite (h.qctxWrite ..) (h.qcbWrite ..)) ?_
  refine .ite (h.putOwners (fun _ _ _ h => h.granuleOwnerWrite ..) ..) ?_
  refine .ite h.setFields ?_
  refine .ite ((h.keyCommand v).checkReserved ..) ?_
  refine .ite (h.writeUnit ..) ?_
  refine .ite (h.writeEvq ..) ?_
  refine .ite (h.writePort ..) ?_
  exact .ite (h.writeMailbox ..) h

theorem State.Canon.registerWriteEvent (h : s.Canon cur) (off : Nat) (val : W64) : OutCanon cur (execRegisterWrite off val s) := by
  unfold execRegisterWrite
  split
  · exact .next h
  · split
    · exact .next (h.reject ..)
    · exact .next (h.regWrite ..)

theorem State.Canon.setHostQp (h : s.Canon cur) (qp : Nat) (q : HostQp) : (s.setHostQp qp q).Canon cur := by
  unfold State.setHostQp
  exact h.setFields

theorem State.Canon.hostAsk (h : s.Canon cur) (qp pa : Nat) (kind : ReqKind) (k : Nat) : (s.hostAsk qp pa kind k).Canon cur := by
  unfold State.hostAsk
  extract_lets
  exact (h.setFields).sendMesh ..

theorem State.Canon.hostLine (h : s.Canon cur) (qp pa : Nat) (kind : ReqKind) {done : State → State} {fail : State} (hd :
    (done s).Canon cur)
    (hf : fail.Canon cur) : OptCanon cur (s.hostLine qp pa kind done fail) := by
  unfold State.hostLine
  split
  · split
    · trivial
    · exact .some (h.hostAsk ..)
  · extract_lets
    split
    · exact .some hd
    · split
      · trivial
      · exact .some hf

theorem State.Canon.hostGo (h : s.Canon cur) (qp : Nat) : (s.hostGo qp).Canon cur := by
  unfold State.hostGo
  extract_lets q rest went s0 replied failed s1
  have hwent {s : State} {got : List Byte} (h : s.Canon cur) : (went s got).Canon cur := h.setHostQp ..
  have hreplied (r : HostReply) : (replied r).Canon cur := (h.setHostQp ..).setFields
  have hfailed : failed.Canon cur := h.setHostQp ..
  have h1 : s1.Canon cur := h.undefinePages ..
  generalize q.ops = ops
  split
  · exact h
  · exact hreplied _
  · exact hreplied _
  · exact (h.setHostQp ..).setFields
  · exact (h.setHostQp ..).setFields
  · exact hreplied _
  · exact (hwent h).regWrite ..
  · exact hwent h
  · exact (hwent h).reject ..
  · exact hwent (h.freeBytes ..)
  · refine (h1.hostLine _ _ _ ?_ hfailed).getD h1
    exact hwent (h1.writePa ..)
  · refine (h1.hostLine _ _ _ ?_ hfailed).getD h
    exact .ite hfailed (hwent h1)

theorem State.Canon.hostRun (h : s.Canon cur) (qp n : Nat) : (State.hostRun qp n s).Canon cur := by
  induction n generalizing s with
  | zero => exact h
  | succ n ih => exact ih (h.hostGo ..)

theorem State.Canon.rdma (h : s.Canon cur) (qp : Nat) (pa n : Nat) (data : Option (List Byte)) : (s.rdma qp pa n data).Canon cur := by
  unfold State.rdma
  split
  · exact h
  · split
    · exact h.setFields
    · extract_lets
      exact (h.setHostQp ..).hostRun ..

theorem State.Canon.rdmaWriteEvent (h : s.Canon cur) (qp pa : Nat) (data : List Byte) : OutCanon cur (execRdmaWrite qp pa data s) := by
  unfold execRdmaWrite
  exact .next (h.rdma ..)

theorem State.Canon.rdmaReadEvent (h : s.Canon cur) (qp : Nat) (pa len : Nat) : OutCanon cur (execRdmaRead qp pa len s) := by
  unfold execRdmaRead
  exact .next (h.rdma ..)

theorem State.Canon.remoteOperationErrorEvent (h : s.Canon cur) (qp : Nat) : OutCanon cur (execRemoteOperationError qp s) := by
  unfold execRemoteOperationError
  split
  · exact .next h
  · exact .next h.setFields

theorem State.Canon.spdmAnswer (h : s.Canon cur) (code : Nat) (request : List Byte) (after : Spdm → Spdm) :
    (s.spdmAnswer code request after).Canon cur := by
  unfold State.spdmAnswer
  extract_lets
  split
  · exact h.setFields
  · exact h

theorem State.Canon.getVersionEvent (h : s.Canon cur) (request : List Byte) : OutCanon cur (execGetVersion request s) := by
  unfold execGetVersion
  exact .next (h.spdmAnswer ..)

theorem State.Canon.getCapabilitiesEvent (h : s.Canon cur) (request : List Byte) : OutCanon cur (execGetCapabilities request s) := by
  unfold execGetCapabilities
  exact .next (h.spdmAnswer ..)

theorem State.Canon.negotiateAlgorithmsEvent (h : s.Canon cur) (request : List Byte) : OutCanon cur
    (execNegotiateAlgorithms request s) := by
  unfold execNegotiateAlgorithms
  exact .next (h.spdmAnswer ..)

theorem State.Canon.getDigestsEvent (h : s.Canon cur) (request : List Byte) : OutCanon cur (execGetDigests request s) := by
  unfold execGetDigests
  exact .next (h.spdmAnswer ..)

theorem State.Canon.getCertificateEvent (h : s.Canon cur) (request : List Byte) : OutCanon cur (execGetCertificate request s) := by
  unfold execGetCertificate
  exact .next (h.spdmAnswer ..)

theorem State.Canon.challengeEvent (h : s.Canon cur) (request : List Byte) : OutCanon cur (execChallenge request s) := by
  unfold execChallenge
  exact .next (h.spdmAnswer ..)

theorem State.Canon.getMeasurementsEvent (h : s.Canon cur) (request : List Byte) : OutCanon cur (execGetMeasurements request s) := by
  unfold execGetMeasurements
  exact .next (h.spdmAnswer ..)

theorem State.Canon.dropTranslations (h : s.Canon cur) (v : TransInval) : (s.dropTranslations v).Canon cur := by
  unfold State.dropTranslations
  extract_lets
  exact h.setFields

theorem State.Canon.flushFor (h : s.Canon cur) (ctx : Nat) : (s.flushFor ctx).Canon cur := by
  unfold State.flushFor
  extract_lets _ _ s1
  have h1 : s1.Canon cur := h.foldl fun _ _ h1 => (h1.writeBackAll ..).writeBackAll ..
  exact h1.foldl fun _ _ h2 => h2.cleanTeamStash ..

theorem State.Canon.translationInvalidationEvent (h : s.Canon cur) (ctx : Nat) (lo hi : Nat) : OutCanon cur
    (execTranslationInvalidation ctx lo hi s) := by
  unfold execTranslationInvalidation
  split
  · extract_lets _ s1
    exact .next ((h.dropTranslations ..).setFields)
  · extract_lets _ s1 s2
    split
    · split
      · exact .next h
      · exact .next ((h.dropTranslations ..).setFields)
    · split
      · exact .next (((h.dropTranslations ..).flushFor ..).setFields)
      · exact .next h

end
end Sys2Proof.Machine
end

section
/-! SUPPORT. Canonical memory is kept (log entry 3). Of the functions of: instruction fetch for the wave subset at the head of the issue
group, and the trap of an encoding that check 1 refuses. -/

namespace Sys2Proof.Machine
open Host

section
variable {s t : State} {cur : Option Cur}

theorem State.Canon.illegal (h : s.Canon cur) (c : Cur) (w : W64) (e : W64) (x : Illegal) : (s.illegal c w e x).Canon cur := by
  unfold State.illegal
  split
  · exact h
  · split
    · extract_lets
      split
      · exact h
      · exact h.takeTrap ..
    · exact h

theorem State.Canon.fetchFailed (h : s.Canon cur) (c : Cur) {f : Fetched} (hf : ∀ u, f = .wait u → u.Canon cur) :
    (s.fetchFailed c f).Canon cur := by
  unfold State.fetchFailed
  split
  · exact h
  · split
    · extract_lets
      split
      · exact (h.park ..).modWave ..
      · exact (h.raise ..).modWave ..
      · exact h
      · exact hf _ rfl
    · exact h

end
end Sys2Proof.Machine
end

section
/-! SUPPORT. Canonical memory is kept (log entry 3). Of the functions of: the issue builder, sleeping threads, and the active set with its
swaps. -/

namespace Sys2Proof.Machine
open Host

section
variable {s t : State} {cur : Option Cur}

theorem State.Canon.noteGroup (h : s.Canon cur) (core cycle : Nat) (act : List Act) (grp : List (Nat × Nat × Mask)) (pc : W64) :
    (s.noteGroup core cycle act grp pc).Canon cur := by
  unfold State.noteGroup
  dsimp only
  refine h.foldl fun _ _ h1 => ?_
  split
  · exact (h1.modWave ..).modCore ..
  · exact h1.modWave ..

theorem State.Canon.issueGroupBuildEvent (h : s.Canon cur) (core slot : Nat) : OutCanon cur (execIssueGroupBuild core slot s) := by
  unfold execIssueGroupBuild
  extract_lets
  split
  · exact .next h
  · split
    · exact .next (h.noteGroup ..)
    · split
      · exact .next h
      · extract_lets _ _ s1
        split
        · exact .next (h.noteGroup ..)
        · exact .next (((h.noteGroup ..).modCore ..).setFields)

theorem State.Canon.sleepExpiryEvent (h : s.Canon cur) (team wave : Nat) : OutCanon cur (execSleepExpiry team wave s) := by
  unfold execSleepExpiry
  exact .next (h.modWave ..)

theorem State.Canon.noteEligible (h : s.Canon cur) (core : Nat) : (s.noteEligible core).Canon cur := by
  unfold State.noteEligible
  refine h.foldl fun _ _ h1 => ?_
  split
  · exact h1
  · exact h1.modWave ..

theorem State.Canon.swapTriggerEvent (h : s.Canon cur) (core : Nat) : OutCanon cur (execSwapTrigger core s) := by
  unfold execSwapTrigger
  extract_lets s1
  split
  · exact .next ((h.noteEligible ..).modCore ..)
  · exact .next (h.noteEligible ..)

theorem State.Canon.swapEvent (h : s.Canon cur) (core : Nat) : OutCanon cur (execSwap core s) := by
  unfold execSwap
  extract_lets _ _ s1 _ _ _ _ _ _ _ _ s2 s3 s4
  have h2 : s2.Canon cur := (h.noteEligible ..).foldl fun _ _ h2 => h2.modWave ..
  have h3 : s3.Canon cur := h2.foldl fun _ _ h3 => h3.modWave ..
  have h4 : s4.Canon cur := h3.foldl fun _ _ h4 => h4.modWave ..
  split
  · exact .next h
  · exact .next (h4.modCore ..)

end
end Sys2Proof.Machine
end

section
/-! SUPPORT. Canonical memory is kept (log entry 3). Of the functions of: matrix instructions and the scale store, but for SCLD, which is a
load. -/

namespace Sys2Proof.Machine
open Host

section
variable {s t : State} {cur : Option Cur}

theorem State.Canon.mmaEvent (h : s.Canon cur) (f : Form) : OutCanon none (execMma f s) := by
  unfold execMma
  refine h.issue fun i => ?_
  extract_lets
  split
  · exact trivial
  · exact .done ((h.popSources ..).beginOp ..)

theorem State.Canon.mmaqEvent (h : s.Canon cur) (f : Form) : OutCanon none (execMmaq f s) := by
  unfold execMmaq
  refine h.issue fun i => ?_
  split
  · exact trivial
  · extract_lets
    exact .done ((h.popSources ..).beginOp ..)

theorem State.Canon.mmaCompleteEvent (h : s.Canon cur) (team : Nat) (wave op : Nat) : OutCanon cur (execMmaComplete team wave op s) := by
  unfold execMmaComplete
  split
  · exact .next h
  · split
    · split
      · exact .next (h.finishIfRoom ..)
      · exact .next h
    · exact .next h

theorem State.Canon.scrdEvent (h : s.Canon cur) (f : Form) : OutCanon none (execScrd f s) := by
  unfold execScrd
  refine h.issue fun i => ?_
  extract_lets
  exact .done (h.beginOp ..)

end
end Sys2Proof.Machine
end

section
/-! SUPPORT. Canonical memory is kept by fetch, by each instruction and event, and by a step. -/

namespace Sys2Proof.Machine
open Host

section
variable {s t : State} {cur : Option Cur}

/-- Each instruction ends its issue, and no event begins one. -/
theorem State.Canon.exec (h : s.Canon cur) (ins : Instr) (he : opcodeOf ins = none → s.Canon none) :
    OutCanon none (Machine.exec ins s) := by
  cases ins with
  | nop _ | bra _ | brx _ | call _ | callx _ | ret _ | jenrol _ | pcmp _ | plog _ | pmov _ | pvote _ | ballot _ | iadd _ | isub _ | iaddc _
  | imul _ | imulh _ | imad _ | imin _ | imax _ | iabs _ | blut _ | shl _ | shr _ | shra _ | rot _ | shd _ | popc _ | clz _ | brev _
  | bfe _ | bfi _ | isel _ | icmp _ | mov _ | movi _ | lea _ | bshuf _ | dot4 _ | sad _ | lxch _ | lanebc _ | rds _ | iota _ | fadd _
  | fsub _ | fmul _ | ffma _ | fmin _ | fmax _ | fcmp _ | fclass _ | frcp _ | frsq _ | fsqrt _ | fexp2 _ | flog2 _ | fsin _ | fcos _
  | ftanh _ | pkadd _ | pkmul _ | pkfma _ | bfma2 _ | dadd _ | dmul _ | dfma _ | cvt _ | qcvt _ | dqcvt _ | fsetmode _ | fflags _ | fragx _
  | acccvt _ | push _ =>
    unfold Machine.exec
    exact h.issueFixed
  | exit _ => exact h.exitEvent ..
  | jwait _ => exact h.jwaitEvent ..
  | yield _ => exact h.yieldEvent ..
  | sleep _ => exact h.sleepEvent ..
  | glaunch _ => exact h.glaunchEvent ..
  | gjoin _ => exact h.gjoinEvent ..
  | trap _ => exact h.trapEvent ..
  | brk _ => exact h.brkEvent ..
  | idiv _ => exact h.idivEvent ..
  | amaxr _ => exact h.amaxrEvent ..
  | qscale _ => exact h.qscaleEvent ..
  | mma _ => exact h.mmaEvent ..
  | mmaq _ => exact h.mmaqEvent ..
  | scld _ => exact h.scldEvent ..
  | scrd _ => exact h.scrdEvent ..
  | ld _ => exact h.ldEvent ..
  | ldk _ => exact h.ldkEvent ..
  | st _ => exact h.stEvent ..
  | atom _ => exact h.atomEvent ..
  | red _ => exact h.redEvent ..
  | fence _ => exact h.fenceEvent ..
  | bridge _ => exact h.bridgeEvent ..
  | cctlIvi _ => exact h.cctlIviEvent ..
  | cctlWb _ => exact h.cctlWbEvent ..
  | cctlInv _ => exact h.cctlInvEvent ..
  | cctlPf _ => exact h.cctlPfEvent ..
  | cctlPfs _ => exact h.cctlPfsEvent ..
  | smapMap _ => exact h.smapMapEvent ..
  | smapUnmap _ => exact h.smapUnmapEvent ..
  | swb _ => exact h.swbEvent ..
  | sdrop _ => exact h.sdropEvent ..
  | tcopy _ => exact h.tcopyEvent ..
  | tdesc _ => exact h.tdescEvent ..
  | gather _ => exact h.gatherEvent ..
  | scatter _ => exact h.scatterEvent ..
  | rcopy _ => exact h.rcopyEvent ..
  | coll _ => exact h.collEvent ..
  | waitc _ => exact h.waitcEvent ..
  | pop _ => exact h.popEvent ..
  | ringinit _ => exact h.ringinitEvent ..
  | binit _ => exact h.binitEvent ..
  | barrive _ => exact h.barriveEvent ..
  | barriveb _ => exact h.barrivebEvent ..
  | bwait _ => exact h.bwaitEvent ..
  | btest _ => exact h.btestEvent ..
  | binval _ => exact h.binvalEvent ..
  | rett _ => exact h.rettEvent ..
  | rdside _ => exact h.rdsideEvent ..
  | wrctx _ => exact h.wrctxEvent ..
  | dgread _ => exact h.dgreadEvent ..
  | haltself _ => exact h.haltselfEvent ..
  | issueGroupBuild _ _ => exact (he rfl).issueGroupBuildEvent ..
  | subsetRetirement _ _ _ => exact (he rfl).subsetRetirementEvent ..
  | sleepExpiry _ _ => exact (he rfl).sleepExpiryEvent ..
  | swapTrigger _ => exact (he rfl).swapTriggerEvent ..
  | swap _ => exact (he rfl).swapEvent ..
  | loadDataArrival _ _ _ => exact (he rfl).loadDataArrivalEvent ..
  | remoteReplyArrival _ _ _ => exact (he rfl).remoteReplyArrivalEvent ..
  | storeAck _ _ _ => exact (he rfl).storeAckEvent ..
  | storeQueueRelease _ _ => exact (he rfl).storeQueueReleaseEvent ..
  | atomicReply _ _ _ => exact (he rfl).atomicReplyEvent ..
  | ringAck _ _ _ => exact (he rfl).ringAckEvent ..
  | barrierReply _ _ _ => exact (he rfl).barrierReplyEvent ..
  | mmaComplete _ _ _ => exact (he rfl).mmaCompleteEvent ..
  | fenceComplete _ _ _ => exact (he rfl).fenceCompleteEvent ..
  | slicePerform _ => exact (he rfl).slicePerformEvent ..
  | invalidationArrival _ => exact (he rfl).invalidationArrivalEvent ..
  | writePropagated _ _ => exact (he rfl).writePropagatedEvent ..
  | extSnoop _ => exact (he rfl).extSnoopEvent ..
  | snoopFilterEvict _ _ => exact (he rfl).snoopFilterEvictEvent ..
  | l1Eviction _ _ _ => exact (he rfl).l1EvictionEvent ..
  | stashRecall _ _ _ => exact (he rfl).stashRecallEvent ..
  | engineAccess _ _ => exact (he rfl).engineAccessEvent ..
  | tdescComplete _ _ => exact (he rfl).tdescCompleteEvent ..
  | copyComplete _ _ => exact (he rfl).copyCompleteEvent ..
  | ringReserve _ _ => exact (he rfl).ringReserveEvent ..
  | ringFill _ _ => exact (he rfl).ringFillEvent ..
  | wakeArrival _ => exact (he rfl).wakeArrivalEvent ..
  | registrationRetry _ _ => exact (he rfl).registrationRetryEvent ..
  | deadlineBoost _ => exact (he rfl).deadlineBoostEvent ..
  | neighbourEntryArrival _ _ => exact (he rfl).neighbourEntryArrivalEvent ..
  | queuePost _ => exact (he rfl).queuePostEvent ..
  | frameSend _ => exact (he rfl).frameSendEvent ..
  | frameReceive _ _ => exact (he rfl).frameReceiveEvent ..
  | controlBlockReread _ => exact (he rfl).controlBlockRereadEvent ..
  | qcmdEnable _ => exact (he rfl).qcmdEnableEvent ..
  | qcmdDisable _ => exact (he rfl).qcmdDisableEvent ..
  | packetConsume _ => exact (he rfl).packetConsumeEvent ..
  | dependenceSatisfied _ => exact (he rfl).dependenceSatisfiedEvent ..
  | teamPlace _ => exact (he rfl).teamPlaceEvent ..
  | coResidentAdmit _ => exact (he rfl).coResidentAdmitEvent ..
  | childLaunch _ => exact (he rfl).childLaunchEvent ..
  | teamRetire _ => exact (he rfl).teamRetireEvent ..
  | gridRetire _ => exact (he rfl).gridRetireEvent ..
  | serialisedExecution _ => exact (he rfl).serialisedExecutionEvent ..
  | preemptSave _ => exact (he rfl).preemptSaveEvent ..
  | wakeEvaluate _ => exact (he rfl).wakeEvaluateEvent ..
  | teamRestore _ _ => exact (he rfl).teamRestoreEvent ..
  | faultPark part => exact (he rfl).faultParkEvent part
  | fqtake _ _ => exact (he rfl).fqtakeEvent ..
  | fqresolve _ _ => exact (he rfl).fqresolveEvent ..
  | fqresolveFail _ _ => exact (he rfl).fqresolveFailEvent ..
  | watchdog _ _ => exact (he rfl).watchdogEvent ..
  | halt _ => exact (he rfl).haltEvent ..
  | uncorrectable _ _ _ => exact (he rfl).uncorrectableEvent ..
  | dieFailure _ => exact (he rfl).dieFailureEvent ..
  | crossDieTimeout _ _ => exact (he rfl).crossDieTimeoutEvent ..
  | crossLinkTimeout _ _ => exact (he rfl).crossLinkTimeoutEvent ..
  | slotSend _ => exact (he rfl).slotSendEvent ..
  | slotReceive _ _ => exact (he rfl).slotReceiveEvent ..
  | slotResend _ _ => exact (he rfl).slotResendEvent ..
  | routerForward _ _ => exact (he rfl).routerForwardEvent ..
  | sliceAdmission _ => exact (he rfl).sliceAdmissionEvent ..
  | socketAdmission _ => exact (he rfl).socketAdmissionEvent ..
  | flitSend _ => exact (he rfl).flitSendEvent ..
  | flitReceive _ _ => exact (he rfl).flitReceiveEvent ..
  | nakRepeat _ => exact (he rfl).nakRepeatEvent ..
  | ackTimeout _ => exact (he rfl).ackTimeoutEvent ..
  | controlFlitSend _ => exact (he rfl).controlFlitSendEvent ..
  | controlFlitReceive _ _ => exact (he rfl).controlFlitReceiveEvent ..
  | lossOfLight _ _ _ => exact (he rfl).lossOfLightEvent ..
  | restripe _ _ _ => exact (he rfl).restripeEvent ..
  | linkEventRecord _ => exact (he rfl).linkEventRecordEvent ..
  | linkLost _ => exact (he rfl).linkLostEvent ..
  | retrainEnd _ _ _ => exact (he rfl).retrainEndEvent ..
  | protectionEnter _ _ => exact (he rfl).protectionEnterEvent ..
  | protectionRelease _ => exact (he rfl).protectionReleaseEvent ..
  | resetComplete _ => exact (he rfl).resetCompleteEvent ..
  | rdmaWrite _ _ _ => exact (he rfl).rdmaWriteEvent ..
  | rdmaRead _ _ _ => exact (he rfl).rdmaReadEvent ..
  | remoteOperationError _ => exact (he rfl).remoteOperationErrorEvent ..
  | registerWrite _ _ => exact (he rfl).registerWriteEvent ..
  | errClear => exact (he rfl).errClearEvent ..
  | freeze _ => exact (he rfl).freezeEvent ..
  | counterClear _ => exact (he rfl).counterClearEvent ..
  | ctxdescCreate _ _ => exact (he rfl).ctxdescCreateEvent ..
  | reload _ => exact (he rfl).reloadEvent ..
  | kill _ => exact (he rfl).killEvent ..
  | preq _ _ => exact (he rfl).preqEvent ..
  | dbgbrk _ _ => exact (he rfl).dbgbrkEvent ..
  | scbchk _ _ => exact (he rfl).scbchkEvent ..
  | qcbWrite _ _ => exact (he rfl).qcbWriteEvent ..
  | qctxWrite _ _ => exact (he rfl).qctxWriteEvent ..
  | queueOwnerWrite _ _ => exact (he rfl).queueOwnerWriteEvent ..
  | granuleOwnerWrite _ _ => exact (he rfl).granuleOwnerWriteEvent ..
  | pcmdCreate _ => exact (he rfl).pcmdCreateEvent ..
  | pcmdClear _ => exact (he rfl).pcmdClearEvent ..
  | digsvcReexecute _ _ => exact (he rfl).digsvcReexecuteEvent ..
  | digsvcFault _ _ => exact (he rfl).digsvcFaultEvent ..
  | qgrant _ _ => exact (he rfl).qgrantEvent ..
  | dbghalt _ _ => exact (he rfl).dbghaltEvent ..
  | debugSave _ => exact (he rfl).debugSaveEvent ..
  | debugResume _ => exact (he rfl).debugResumeEvent ..
  | linksvcWait _ _ => exact (he rfl).linksvcWaitEvent ..
  | linksvcLinklost _ _ => exact (he rfl).linksvcLinklostEvent ..
  | keycmdLoad _ => exact (he rfl).keycmdLoadEvent ..
  | keycmdUnload _ => exact (he rfl).keycmdUnloadEvent ..
  | powerCommand _ _ => exact (he rfl).powerCommandEvent ..
  | spopReset _ => exact (he rfl).spopResetEvent ..
  | spopFence _ => exact (he rfl).spopFenceEvent ..
  | spopReturn _ => exact (he rfl).spopReturnEvent ..
  | restore _ _ _ _ => exact (he rfl).restoreEvent ..
  | boot _ => exact (he rfl).bootEvent ..
  | getVersion _ => exact (he rfl).getVersionEvent ..
  | getCapabilities _ => exact (he rfl).getCapabilitiesEvent ..
  | negotiateAlgorithms _ => exact (he rfl).negotiateAlgorithmsEvent ..
  | getDigests _ => exact (he rfl).getDigestsEvent ..
  | getCertificate _ => exact (he rfl).getCertificateEvent ..
  | challenge _ => exact (he rfl).challengeEvent ..
  | getMeasurements _ => exact (he rfl).getMeasurementsEvent ..
  | translationInvalidation _ _ _ => exact (he rfl).translationInvalidationEvent ..

/-- The states that a fetch leaves are canonical. -/
def FetchCanon (cur : Option Cur) : Fetched → Prop
  | .words _ _ t => t.Canon cur
  | .wait t => t.Canon cur
  | _ => True

theorem State.Canon.codeWord (h : s.Canon cur) (w : Nat) (tm : Team) (ln : Launch) (pa key : Nat) {t : State}
    (e : s.codeWord w tm ln pa key = .inr t) : t.Canon cur := by
  unfold State.codeWord at e
  extract_lets at e
  split at e
  · cases e
  · split at e
    · cases e
      exact h
    · cases e
      exact (h.sendReq ..).modCore ..

theorem State.Canon.fetchWord (h : s.Canon cur) (t w : Nat) (tm : Team) (ln : Launch) (va : W64) :
    FetchCanon cur (s.fetchWord t w tm ln va) := by
  unfold State.fetchWord
  split
  · trivial
  · split
    · trivial
    · trivial
    · exact h
    · split
      · trivial
      · extract_lets s1
        have h1 : s1.Canon cur := h.fillTlb ..
        split
        · exact h1
        next e => exact h1.codeWord _ _ _ _ _ e

theorem State.Canon.fetch (h : s.Canon cur) (t w : Nat) (tm : Team) (ln : Launch) (pc : W64) :
    FetchCanon cur (s.fetch t w tm ln pc) := by
  unfold State.fetch
  have h1 := h.fetchWord t w tm ln pc
  split
  next u e1 =>
    have hu : u.Canon cur := by rwa [e1] at h1
    split
    · have h2 := hu.fetchWord t w tm ln (pc + 8)
      split
      next e2 => rwa [e2] at h2
      · exact h2
    · exact hu
  · exact h1

theorem opcodeOf_of_decode {w e : W64} {i : Instr} (h : decode w e = .ok i) : opcodeOf i ≠ none := by
  obtain ⟨f, _, _, hi⟩ := reads_of_decode h
  simp [opcodeOf_mkInstr hi]

theorem State.Canon.setCur (h : s.Canon cur) (c : Option Cur) : State.Canon c { s with cur := c } := ⟨h.1, rfl⟩

theorem State.Canon.runSubset (h : s.Canon none) (c : Cur) : OutCanon none (Machine.runSubset c s) := by
  unfold Machine.runSubset
  split
  · exact .next h
  next tm _ =>
    split
    · exact .next h
    next ln _ =>
      have hf := h.fetch c.team c.wave tm ln c.pc
      split
      next u e =>
        have hu : u.Canon none := by rwa [e] at hf
        split
        next i hd =>
          exact (hu.setCur _).exec i fun hn => absurd hn (opcodeOf_of_decode hd)
        · exact .next (hu.illegal ..)
      · exact .next (h.fetchFailed c fun _ e => nomatch e)
      · exact .next (h.fetchFailed c fun _ e => nomatch e)
      next e => exact .next (by rwa [e] at hf)

theorem State.Canon.runEvent (h : s.Canon none) (dt : Nat) (ev : Instr) : OutCanon none (Machine.runEvent dt ev s) := by
  unfold Machine.runEvent
  split
  · exact .next (h.advance dt)
  · exact (h.advance dt).exec ev fun _ => h.advance dt

theorem State.Canon.runTurn (h : s.Canon none) (t : Turn) : OutCanon none (Machine.runTurn t s) := by
  have h2 := h.advance 2
  cases t with
  | event i => exact h.runEvent 2 i
  | measure request => exact h2.getMeasurementsEvent ..
  | invalidate ctx lo hi => exact h2.translationInvalidationEvent ..
  | host qp => exact .next (h2.hostRun ..)

theorem State.Canon.step (h : s.Canon none) : OutCanon none (Machine.step s) := by
  unfold Machine.step
  split
  · exact State.Canon.runSubset h.setFields _
  · split
    · exact State.Canon.runEvent h.setFields ..
    · exact h.runTurn _

end
end Sys2Proof.Machine
end

section
/-! PROOFS. The invariant of every step (O8). -/

namespace Sys2Proof.Machine

/-- Settles O8, since each function of the model keeps memory canonical and the subset at issue, and an instruction's issue ends it. -/
theorem everyStepKeepsTheInvariant : Obligations.EveryStepKeepsTheInvariant := by
  intro s t hs e
  have h : s.Canon none := hs
  exact (e ▸ h.step).canon

end Sys2Proof.Machine
end

section
/-! SUPPORT. A trap changes one wave: as the entry of a handler, or inside one as a context fault (R384, R385). -/

namespace Sys2Proof.Machine

/-- A trap outside a handler changes the wave of its subset alone. -/
theorem State.takeTrap_untrapped {s : State} {i : Iss} (t : Trap) (hn : i.wave.trapped = false) :
    s.takeTrap i t = s.modWave i.tid i.wid fun w =>
      w.trapEntry i (s.part i.launch.part).hbase s.tsc s.time (s.cycleOf i.team.core) t := by
  simp [State.takeTrap, hn]

/-- A trap inside a handler raises NESTED and stops the lanes of the subset. -/
theorem State.takeTrap_nested {s : State} {i : Iss} (t : Trap) (hn : i.wave.trapped = true) (hm : i.wave.tmask &&& i.lanes ≠ 0) :
    s.takeTrap i t =
      (s.raise i.launch.part .nested (coreSource i.team.core) 0 i.pc i.launch.ctx i.launch.ident).modWave i.tid i.wid
        fun w => { w with never := w.never ||| i.lanes } := by
  rw [State.takeTrap, if_pos hn, if_neg hm]

/-- Trap entry in a lane of the subset (R384). -/
theorem Wave.trapEntry_lane (w : Wave) (i : Iss) (hbase tsc : W64) (now cycle : Nat) (t : Trap) {l : Nat} (hl : l < 32)
    (hi : i.lanes.getLsbD l = true) :
    (w.trapEntry i hbase tsc now cycle t).rpc.getD l 0 = (if t.cls = .soft then i.pc + i.len else i.pc) ∧
    (w.trapEntry i hbase tsc now cycle t).pcs.getD l 0 = hbase + BitVec.ofNat 64 (0x100 * t.cls.code) := by
  simp only [Wave.trapEntry, mergeLanes_getD _ _ _ _ _ _ hl, hi, if_true, and_self]

/-- Trap entry in any other lane. -/
theorem Wave.trapEntry_other (w : Wave) (i : Iss) (hbase tsc : W64) (now cycle : Nat) (t : Trap) {l : Nat} (hl : l < 32)
    (hi : i.lanes.getLsbD l = false) :
    (w.trapEntry i hbase tsc now cycle t).rpc.getD l 0 = w.rpc.getD l 0 ∧
    (w.trapEntry i hbase tsc now cycle t).pcs.getD l 0 = w.pcs.getD l 0 := by
  simp only [Wave.trapEntry, mergeLanes_getD _ _ _ _ _ _ hl, hi, Bool.false_eq_true, if_false, and_self]

end Sys2Proof.Machine
end

section
/-! PROOFS. Traps outside and inside a handler (O12, O13). -/

namespace Sys2Proof.Machine

/-- Settles O12: the entry is one change of the subset's wave, lane by lane; the ten class codes are distinct and below 16. -/
theorem trapEntrySavesAndRedirects : Obligations.TrapEntrySavesAndRedirects := by
  refine ⟨fun s i t ht hw hn => ?_, fun a b => ?_⟩
  · obtain ⟨tm, htm, hwv⟩ := State.takeTrap_wave t ht hw hn
    refine ⟨tm, _, htm, hwv, rfl, rfl, fun l hl hi => Wave.trapEntry_lane _ _ _ _ _ _ _ hl hi,
      fun l hl hi => Wave.trapEntry_other _ _ _ _ _ _ _ hl hi, rfl, rfl, rfl, rfl, rfl, rfl, rfl, rfl, fun u v huv => ?_, ?_, ?_⟩
    · rw [State.takeTrap_untrapped t hn, State.wave?_modWave_other _ _ _ _ u v huv]
    · rw [State.takeTrap_untrapped t hn, State.modWave_mem]
    · rw [State.takeTrap_untrapped t hn, State.modWave_parts]
  · cases a <;> cases b <;> decide

/-- Settles O13: TMASK names the lanes that are inside the handler. -/
theorem nestedTrapIsAContextFault : Obligations.NestedTrapIsAContextFault := by
  intro s i t ht hw hn
  refine ⟨fun hm => by simp [State.takeTrap, hn, hm], fun hm => ?_⟩
  rw [State.takeTrap_nested t hn hm]
  refine ⟨?_, ?_⟩
  · simp [State.part, State.raise, State.modPart]
  · rw [State.modWave_some (s := s.raise ..) ht hw]
    exact ⟨_, _, AMap.get?_set_same .., AMap.get?_set_same .., rfl, rfl, rfl, rfl⟩

end Sys2Proof.Machine
end

section
/-! SUPPORT. System instructions: the check of a handler, the resume PCs, operations that no counter counts, and a context fault that an
instruction raises (R389-R392, R420). -/

namespace Sys2Proof.Machine

section
variable {opc : Nat} {f : Form} {s : State} {i : Iss}

/-- The check of RETT and WRCTX passes where every active lane is in TMASK. -/
theorem Iss.handlerCheck_inside (ht : i.wave.trapped = true)
    (hm : ∀ l, l < 32 → i.act.getLsbD l = true → i.wave.tmask.getLsbD l = true) : i.handlerCheck = none := by
  have hz : i.act &&& ~~~i.wave.tmask = 0 := by
    apply BitVec.eq_of_getLsbD_eq
    intro l hl
    have := hm l hl
    cases ha : i.act.getLsbD l <;> simp_all
  simp [Iss.handlerCheck, ht, hz]

/-- Outside a handler the check fails. -/
theorem Iss.handlerCheck_outside (ht : i.wave.trapped = false) : i.handlerCheck = some ⟨.illegal, 0, 8, 7, i.act, 0, 2⟩ := by
  simp [Iss.handlerCheck, ht]

/-- A resume PC that WRCTX writes. -/
theorem Iss.newRpc_eq (h : Executes opc f s i) (l : Nat) :
    i.newRpc s l = if f.mod = 0 then lane64 (i.srcB s) l else i.wave.rpc.getD l 0 + (lane32 (i.srcB s) l).signExtend 64 := by
  rw [Iss.newRpc, h.form]

/-- An operation that no counter counts begins as any other. -/
theorem State.startOp_eq (s : State) (i : Iss) {o : Op} (ho : o.counted = none) : s.startOp i o = s.beginOp i o := by
  unfold State.startOp State.beginOp
  simp only [ho]

/-- A meaning that starts a class V result. -/
theorem issue_result {body : Iss → Eff} {vals : List Vec} (h : Executes opc f s i)
    (hb : body i = .done (s.startOp i (i.resultOp s vals))) :
    ∃ u o, issue opc f s body = .next u ∧ i.Begins u o ∧ o.kind = .result ∧ o.dst = f.dst ∧ o.lanes = i.act ∧ o.vals = vals := by
  rw [State.startOp_eq s i rfl] at hb
  exact ⟨_, _, issue_done h hb, State.beginOp_begins _ h.wave, rfl, congrArg Form.dst h.form, rfl, rfl⟩

/-- A meaning that ends the subset by a context fault: the state in which it is raised. -/
theorem issue_halt {body : Iss → Eff} {c : Cause} {addr : W64} (h : Executes opc f s i) (hb : body i = .halt c addr) :
    issue opc f s body = .next
      { ((s.dropProbes i.tid i.wid i.team.core).raise i.launch.part c (coreSource i.team.core) addr i.pc i.launch.ctx
          i.launch.ident).modWave i.tid i.wid (fun w => { w with never := w.never ||| i.lanes }) with cur := none } := by
  rw [issue_of_executes h, hb]
  rfl

/-- Where the lanes of a wave are after one of its subsets has gone on. -/
theorem Wave.issued_pcs (w : Wave) (i : Iss) (now cycle : Nat) (hz : List Hazard) :
    ((w.advancePcs i).issued i now cycle hz).pcs = mergeLanes i.lanes w.pcs 0 fun _ => i.pc + i.len := rfl

/-- RETT after the subset has gone on: an active lane is at its resume PC. -/
theorem trapReturn_issued_pcs (i : Iss) (now cycle : Nat) (w : Wave) {l : Nat} (hl : l < 32) :
    ((((w.advancePcs i).issued i now cycle []).trapReturn i.act).pcs.getD l 0) =
      if i.act.getLsbD l then w.rpc.getD l 0 else if i.lanes.getLsbD l then i.pc + i.len else w.pcs.getD l 0 := by
  show (mergeLanes i.act ((w.advancePcs i).issued i now cycle []).pcs 0 fun l => w.rpc.getD l 0).getD l 0 = _
  rw [mergeLanes_getD _ _ _ _ _ _ hl, Wave.issued_pcs, mergeLanes_getD _ _ _ _ _ _ hl]

/-- A test, that evaluates, of whether a subset of the state executes an instruction and satisfies `p`. -/
def executesTest (opc : Nat) (f : Form) (s : State) (p : Iss → Bool) : Bool :=
  (s.issuing opc f).any fun i =>
    !i.held s && i.checkRegs.isNone && i.checkRole.isNone && (i.checkStall (s.ctx i.launch.ctx).scbchk).isNone && i.checkChan.isNone &&
      i.act != 0 && (i.channelWait s).isNone && p i

theorem executes_of_test {p : Iss → Bool} (h : executesTest opc f s p = true) : ∃ i, Executes opc f s i ∧ p i = true := by
  unfold executesTest at h
  cases hi : s.issuing opc f with
  | none => simp [hi] at h
  | some i =>
    simp only [hi, Option.any_some, Bool.and_eq_true, Bool.not_eq_true', Option.isNone_iff_eq_none, bne_iff_ne, Iss.held,
      Bool.or_eq_false_iff] at h
    obtain ⟨⟨⟨⟨⟨⟨⟨⟨⟨h1, h2⟩, h3⟩, h4⟩, h5⟩, h6⟩, h7⟩, h8⟩, h9⟩, hp⟩ := h
    exact ⟨i, ⟨hi, h1, h2, h3, h4, h5, h6, h7, h8, h9⟩, hp⟩

/-- The wave that an instruction without results leaves, changed once more. -/
theorem ends_modWave (h : Executes opc f s i) (g : Wave → Wave) :
    ∃ w, (i.ends ((s.issuedNext i []).modWave i.tid i.wid g)).wave? i.tid i.wid = some w ∧
      (g ((i.wave.advancePcs i).issued i s.time (s.cycleOf i.team.core) [])).SameButWaits w := by
  refine i.ends_wave ?_
  rw [State.wave?_modWave_same, State.issuedNext_wave [] h.wave, Option.map_some]
end

end Sys2Proof.Machine
end

section
/-! PROOFS. Waits, handlers and system instructions (O35, O43). -/

namespace Sys2Proof.Machine

/-- A WAITC that no word encodes: its source is absent and reads no vector. -/
def sourcelessWaitc : Form := ⟨1, none, 0, .none, .none, .none, .none, none⟩

/-- A wave with one memory operation outstanding, all its lanes at issue. -/
def oneOutstanding : State :=
  ({ State.reset.withFetchWord 0 0 with group := [], cur := some ⟨1, 0, 0x10000, 0xFFFFFFFF, 0, 0⟩ } : State).modWave 1 0
    fun w => { w with mem := 1 }

/-- The subset passes everything before the meaning of WAITC, with limit 0. -/
theorem sourcelessWaitc_executes : ∃ i, Executes 0x390 sourcelessWaitc oneOutstanding i ∧
    (Nat.min (lane32 (i.srcB oneOutstanding) (lowest i.act)).toNat 63 < i.wave.count sourcelessWaitc.mod.toNat) := by
  obtain ⟨i, hi, hp⟩ := executes_of_test (opc := 0x390) (f := sourcelessWaitc) (s := oneOutstanding)
    (p := fun i => decide (Nat.min (lane32 (i.srcB oneOutstanding) (lowest i.act)).toNat 63 < i.wave.count sourcelessWaitc.mod.toNat))
    (by decide +kernel)
  exact ⟨i, hi, of_decide_eq_true hp⟩

/-- Refutes O35, whose clause for WAITC speaks of every form: one without a source has the limit 0 by the statement, but nothing holds it
(`Iss.waitcHeld`), and it executes with one operation outstanding. -/
theorem not_fencesAndWaits : ¬ Obligations.FencesAndWaits := by
  rintro ⟨-, hw, -⟩
  obtain ⟨i, hi, hlt⟩ := sourcelessWaitc_executes
  obtain ⟨-, -, hle⟩ := hw _ _ i hi
  exact absurd hle (Nat.not_le.mpr hlt)

/-- Settles O43. -/
theorem handlerAndSystemInstructions : Obligations.HandlerAndSystemInstructions := by
  refine ⟨fun f s i => ?_, fun f s i => ?_, fun f s i h => ?_⟩
  · intro inside rpc
    refine ⟨fun h hin => ?_, fun h hin ha => ?_, fun ht => ?_⟩
    · obtain ⟨ht, hm⟩ := hin
      obtain ⟨w, hw, same⟩ := ends_modWave h fun w => w.trapReturn i.act
      unfold Wave.SameButWaits at same
      have hd : exec (.rett f) s = .next (i.ends ((s.issuedNext i []).modWave i.tid i.wid fun w => w.trapReturn i.act)) :=
        issue_done h (by simp only [Iss.handlerCheck_inside ht hm])
      refine ⟨_, w, hd, hw, ?_, ?_, ?_, ?_, ?_, ?_, fun l hl => ?_⟩ <;> rw [same] <;> try rfl
      exact trapReturn_issued_pcs _ _ _ _ hl
    · obtain ⟨ht, hm⟩ := hin
      have hz : (laneMask fun l => i.act.getLsbD l && (i.newRpc s l).extractLsb' 0 3 != 0) = 0 := by
        refine (laneMask_eq_zero _).mpr fun l hl => ?_
        cases hl' : i.act.getLsbD l with
        | false => rfl
        | true =>
          have := ha l hl hl'
          rw [Iss.newRpc_eq h]
          exact bne_eq_false_iff_eq.mpr this
      obtain ⟨w, hw, same⟩ := ends_modWave h fun w => { w with rpc := mergeLanes i.act w.rpc 0 fun l => i.newRpc s l }
      unfold Wave.SameButWaits at same
      have hd : exec (.wrctx f) s = .next (i.ends ((s.issuedNext i []).modWave i.tid i.wid fun w =>
          { w with rpc := mergeLanes i.act w.rpc 0 fun l => i.newRpc s l })) :=
        issue_done h (by simp only [Iss.handlerCheck_inside ht hm, hz, ne_eq, not_true_eq_false, if_false])
      refine ⟨_, w, hd, hw, ?_, ?_, ?_, ?_, fun l hl => ?_, fun l hl hi => ?_⟩ <;> rw [same] <;> try rfl
      · exact ht
      · refine (mergeLanes_getD _ _ _ _ _ _ hl).trans ?_
        rw [Iss.newRpc_eq h]
        rfl
      · show ((i.wave.advancePcs i).issued i s.time (s.cycleOf i.team.core) []).pcs.getD l 0 = _
        rw [Wave.issued_pcs, mergeLanes_getD _ _ _ _ _ _ hl, if_pos hi]
    · have hc := Iss.handlerCheck_outside ht
      exact ⟨fun h => (issue_trap h (by simp only [hc])).trans (congrArg Host.Outcome.next (State.conclude_trap nofun)),
        fun h => (issue_trap h (by simp only [hc])).trans (congrArg Host.Outcome.next (State.conclude_trap nofun))⟩
  · exact ⟨fun h => issue_result h rfl, fun h ho => issue_result h (by simp only [ho, Bool.false_eq_true, if_false, ← h.form]; rfl)⟩
  · refine ⟨_, { i.wave with never := i.wave.never ||| i.lanes }, issue_halt h rfl, ?_, rfl, rfl, rfl, ?_⟩
    · show State.wave? (State.modWave _ _ _ _) i.tid i.wid = _
      rw [State.wave?_modWave_same]
      show Option.map _ ((s.dropProbes i.tid i.wid i.team.core).wave? i.tid i.wid) = _
      rw [(State.KeepsTeams.dropProbes s ..).wave?, h.wave]
      rfl
    · show ((State.modWave _ _ _ _).part _).causes = _
      unfold State.dropProbes
      split <;> simp [State.part, State.raise, State.modPart]

end Sys2Proof.Machine
end

section
/-! SUPPORT. A store to the stash while a page of the team's PRIV aperture waits for its undefined contents (R70). -/

namespace Sys2Proof.Machine

/-- ST of v6 at the address in v4-v5. -/
def stashStore : Form := ⟨1, none, 0, .none, .p 4, .v 6, .ord .rc .pkg .plain 0, none⟩

/-- Team 1 stores at stash offset 0x800; its PRIV aperture is on page 1, which is mapped by now, has its home at slice 0 and has not
been given its undefined contents yet. -/
def pendingPage : State :=
  ({ State.reset.withFetchWord 0 0 with
    group := []
    cur := some ⟨1, 0, 0x10000, 0xFFFFFFFF, 0, 0⟩
    launches := [(1, { probeLaunch with header := { probeLaunch.header with stash := 0x40000, priv := 1 } })]
    parts := [(0, { Part.reset with pstate := 1, slices := 1 })]
    teams := [(1, { probeTeam with privBase := 0x10000, undefAt := [1] })] } : State).modWave 1 0
      fun w => { w with vregs := (w.vregs.set 4 (Vec.splat ⟨0x800, 0⟩)).set 5 (Vec.splat ⟨0xFE000000, 0⟩) }

/-- The accesses of the store's lanes. -/
def Iss.stashStores (i : Iss) : List LaneAcc :=
  i.accesses pendingPage (maskLanes i.act) (kindBytes stashStore.mod.toNat) ⟨false, true, false⟩ false

/-- The store goes, no address of it is in the PRIV aperture, and the page has got its contents at its home slice. -/
def Iss.settlesPage (i : Iss) : Bool :=
  let s1 := pendingPage.fillTlbs i i.stashStores
  match i.verdict pendingPage i.stashStores ⟨false, true, false⟩ with
  | .ok ps => !i.accessWait s1 .store i.stashStores ps && decide (((s1.core i.team.core).sq.getD (netOf i.dom) []).length < sqCapacity i.dom) &&
      (i.releaseWait s1).isNone && i.stashStores.all (fun a => decide (apertureOf a.ea ≠ .priv)) && decide (s1.slices.length ≠ pendingPage.slices.length)
  | .error _ => false

theorem stashStore_settlesPage : ∃ i ps, Executes 0x308 stashStore pendingPage i ∧
    i.verdict pendingPage i.stashStores ⟨false, true, false⟩ = .ok ps ∧
    i.StoreGoes (pendingPage.fillTlbs i i.stashStores) i.stashStores ps ∧ (∀ a ∈ i.stashStores, apertureOf a.ea ≠ .priv) ∧
    (pendingPage.fillTlbs i i.stashStores).slices.length ≠ pendingPage.slices.length := by
  obtain ⟨i, hi, hp⟩ := executes_of_test (opc := 0x308) (f := stashStore) (s := pendingPage) (p := Iss.settlesPage) (by decide +kernel)
  unfold Iss.settlesPage at hp
  dsimp only at hp
  split at hp
  next ps hv =>
    simp only [Bool.and_eq_true, Bool.not_eq_true', decide_eq_true_eq, Option.isNone_iff_eq_none, List.all_eq_true] at hp
    obtain ⟨⟨⟨⟨hw, hroom⟩, hrel⟩, hpriv⟩, hslices⟩ := hp
    exact ⟨i, ps, hi, hv, ⟨hw, hroom, hrel⟩, hpriv, hslices⟩
  · cases hp

/-! ## An L1 whose table names a line twice -/

/-- A line of an L1 of which sector 0 holds written bytes. -/
def writtenLine : L1Line := ⟨0, [(0, ⟨false, 0, 1, 0, 0, []⟩)], 0⟩

/-- A line of an L1 without sectors. -/
def cleanLine : L1Line := ⟨0, [], 0⟩

/-- A store of one byte at address 0 in RC. -/
def byteStore : QStore := ⟨1, 0, 0, .rc, .team, .plain, false, [(0, .phys 0 0, [0])], [], false⟩

/-- A core whose L1 is full, of entries of line 5: the first with written bytes, which a lookup finds, the others without. -/
def repeatedLine : Core :=
  { Core.reset with l1 := (5, writtenLine) :: List.replicate 1023 (5, cleanLine), sq := [(netOf .rc, [byteStore])] }

/-- The store may be released; room is made for its line by dropping line 5, with the written bytes. -/
theorem repeatedLine_room :
    (repeatedLine.l1Room 0 = some (repeatedLine.dropLine 5) ∧ (repeatedLine.dropLine 5).l1Sector 20 = none) ∧
    repeatedLine.l1Sector 20 = some ⟨false, 0, 1, 0, 0, []⟩ := by
  decide +kernel

end Sys2Proof.Machine
end

section
/-! PROOFS. Stores at issue (O31). -/

namespace Sys2Proof.Machine

/-- Refutes O31: the checks of an access settle every page of the PRIV aperture that waits for its undefined contents and is mapped by now,
also when no address of the access is in that aperture; the store of `stashStore_settlesPage` changes a home slice so. -/
theorem not_storesAreQueued : ¬ Obligations.StoresAreQueued := by
  intro h
  obtain ⟨i, ps, hi, hv, hgoes, hpriv, hslices⟩ := stashStore_settlesPage
  obtain ⟨⟨-, hsame, -⟩, -⟩ := h stashStore pendingPage i ps hi hv hgoes |>.imp_left (· hpriv)
  exact hslices (congrArg List.length hsame)

/-- Refutes O32, whose premises do not ask that the table of an L1 names a line once: room for the line of a store is made by dropping a
line that a later entry shows without written bytes, while the first entry, which lookups find, has some. -/
theorem not_storeReleaseWritesItsBytes : ¬ Obligations.StoreReleaseWritesItsBytes := by
  intro h
  obtain ⟨-, hl1, -⟩ := h { State.reset with cores := [(0, repeatedLine)] } 0 .rc byteStore (by decide +kernel) rfl
  obtain ⟨⟨hroom, hgone⟩, hheld⟩ := repeatedLine_room
  obtain ⟨u, -, -, -, hkept, -⟩ := hl1 0 0 0 [0] _ rfl rfl rfl (.inl rfl) rfl (by decide) (by decide) hroom (fun w hw => nomatch hw)
  exact absurd (hgone.symm.trans (hkept 20 _ hheld (by decide))) nofun

end Sys2Proof.Machine
end

section
/-! SUPPORT. A POP whose form names its channel twice. -/

namespace Sys2Proof.Machine

/-- A POP that no word encodes: its second source is the channel again. -/
def doublePop : Form := ⟨1, none, 0, .v 9, .ch 0 false, .ch 0 false, .none, none⟩

/-- Every channel of the wave is scale-out port 0, which has received two messages. -/
def twoMessages : State :=
  { State.reset.withFetchWord 0 0 with
    group := []
    cur := some ⟨1, 0, 0x10000, 0xFFFFFFFF, 0, 0⟩
    launches := [(1, { probeLaunch with header := { probeLaunch.header with stash := 0x40000, chmaps := List.replicate 1024 0 } })]
    teams := [(1, { probeTeam with bind := [⟨7, false, 0, 0, 0⟩] })]
    parts := [(0, { Part.reset with pstate := 1, slices := 1 })]
    ports := [(0, { EthPort.reset with recvQ := [(0, [List.replicate 128 7, List.replicate 128 7])], enable := true })] }

theorem doublePop_executes : ∃ i, Executes 0x399 doublePop twoMessages i ∧ i.late = true ∧ i.popList.map (·.2.2) = [1, 1] := by
  obtain ⟨i, hi, hp⟩ := executes_of_test (opc := 0x399) (f := doublePop) (s := twoMessages)
    (p := fun i => i.late && decide (i.popList.map (·.2.2) = [1, 1])) (by decide +kernel)
  rw [Bool.and_eq_true, decide_eq_true_eq] at hp
  exact ⟨i, hi, hp⟩

/-- The state after an instruction determines the operation that it began. -/
theorem Iss.Begins.unique {i : Iss} {u : State} {o o' : Op} (h : i.Begins u o) (h' : i.Begins u o') : o = o' := by
  obtain ⟨w, hw, ho, -⟩ := h
  obtain ⟨w', hw', ho', -⟩ := h'
  cases hw.symm.trans hw'
  exact List.singleton_inj.mp (List.append_cancel_left (ho.symm.trans ho'))

/-- POP as it leaves the wave: its operation removes what its channel sources name. -/
theorem pop_begins {f : Form} {s : State} {i : Iss} (h : Executes 0x399 f s i) (hl : i.late = true) :
    ∃ u o, exec (.pop f) s = .next u ∧ i.Begins u o ∧ o.pops = i.popList.map (·.2) :=
  have hb : Eff.done ((s.popSources i).startOp i (i.resultOp s [vec1 (i.srcA s) 0])) =
      .done (s.beginOp i (i.resultOp s [vec1 (i.srcA s) 0])) := by
    rw [State.popSources_late s hl, State.startOp_eq s i rfl]
  ⟨_, _, issue_done h hb, State.beginOp_begins _ h.wave, if_pos hl⟩

end Sys2Proof.Machine
end

section
/-! PROOFS. Channel instructions (O38). -/

namespace Sys2Proof.Machine

/-- Refutes O38, whose clause for POP speaks of every form: one with the channel as a second source too has two entries to remove. -/
theorem not_channelInstructionsComplete : ¬ Obligations.ChannelInstructionsComplete := by
  rintro ⟨h, -⟩
  obtain ⟨i, hi, hl, hp⟩ := doublePop_executes
  obtain ⟨u, o, hu, hb, ho⟩ := pop_begins hi hl
  obtain ⟨u', o', hu', hb', -, -, -, -, hpops⟩ := (h _ _ i).2.1 hi
  cases hu.symm.trans hu'
  cases hb.unique hb'
  have hone : (i.popList.map (·.2)).map (·.2) = [1] := ho ▸ hpops 0 false rfl
  rw [List.map_map] at hone
  cases hp.symm.trans hone

end Sys2Proof.Machine
end

section
/-! SUPPORT. What a copy command's issue leaves of the engine ports (R321-R323). -/

namespace Sys2Proof.Machine

/-- A state in which the engine ports of every core hold the commands that they held. -/
structure State.KeepsCmds (s t : State) : Prop where
  cmds : ∀ k, (t.core k).cmds = (s.core k).cmds

section
variable {s t u : State}

theorem State.KeepsCmds.refl (s : State) : s.KeepsCmds s := ⟨fun _ => rfl⟩

theorem State.KeepsCmds.trans (h : s.KeepsCmds t) (k : t.KeepsCmds u) : s.KeepsCmds u := ⟨fun x => (k.cmds x).trans (h.cmds x)⟩

theorem State.KeepsCmds.of_cores (h : t.cores = s.cores) : s.KeepsCmds t := ⟨fun _ => by rw [State.core, State.core, h]⟩

theorem State.KeepsCmds.foldl {α : Type} (f : State → α → State) (hf : ∀ (s : State) (a : α), s.KeepsCmds (f s a)) (l : List α)
    (s : State) : s.KeepsCmds (l.foldl f s) := by
  induction l generalizing s with
  | nil => exact .refl s
  | cons a l ih => exact (hf s a).trans (ih _)

/-- The core that `modCore` changes, and the others. -/
theorem State.core_modCore (s : State) (k j : Nat) (f : Core → Core) :
    (s.modCore k f).core j = if j = k then f (s.core k) else s.core j := by
  unfold State.modCore State.core AMap.getD
  dsimp only
  split
  next h => rw [h, AMap.get?_set_same]; rfl
  next h => rw [AMap.get?_set_other _ _ _ _ h]

theorem State.KeepsCmds.modCore (s : State) (k : Nat) {f : Core → Core} (hf : ∀ c, (f c).cmds = c.cmds) : s.KeepsCmds (s.modCore k f) := by
  refine ⟨fun j => ?_⟩
  rw [State.core_modCore]
  split
  next h => rw [hf, h]
  · rfl

theorem Core.dropSectorReuse_cmds (c : Core) (sec : Nat) : (c.dropSectorReuse sec).cmds = c.cmds := by
  obtain ⟨_, _, _, h⟩ := c.dropReuse_tables fun e => e.isLoad && e.sectors.contains sec
  rw [Core.dropSectorReuse, h]

theorem State.KeepsCmds.stashTouched (s : State) (t o n : Nat) : s.KeepsCmds (s.stashTouched t o n) := by
  unfold State.stashTouched
  split
  · exact .refl s
  · dsimp only
    split
    · exact .refl s
    · exact .modCore s _ (foldl_keeps Core.cmds Core.dropSectorReuse_cmds _)

theorem State.KeepsCmds.chanPop (s : State) (t : Nat) (tm : Team) (p : Nat) (b : Bind) (k : Nat) : s.KeepsCmds (s.chanPop t tm p b k) := by
  unfold State.chanPop
  split
  · exact .modCore s _ fun _ => rfl
  · exact (State.KeepsCmds.of_cores (by simp)).trans (.stashTouched _ _ _ _)
  · exact .of_cores rfl
  · exact .refl s

theorem State.KeepsCmds.popSources (s : State) (i : Iss) : s.KeepsCmds (s.popSources i) := by
  unfold State.popSources
  split
  · exact .refl s
  · exact .foldl _ (fun s a => .chanPop s _ _ _ _ _) _ _

theorem State.KeepsCmds.beginOp (s : State) (i : Iss) (o : Op) : s.KeepsCmds (s.beginOp i o) :=
  .of_cores (by simp [State.beginOp, State.issuedNext])

theorem State.KeepsCmds.ends (s : State) (i : Iss) : s.KeepsCmds (i.ends s) := by
  refine .of_cores ?_
  unfold Iss.ends Iss.wakes
  split
  · rfl
  · show s.channelWake.cores = s.cores
    rw [s.channelWake_onlyWakes.rest]
end

/-- The operation by which a command's issue is counted. -/
def Iss.copyOp (i : Iss) (s : State) (c : Cmd) (cnt : Fin 4) : Op :=
  { i.resultOp s [] with kind := .copy c.sdom c.ddom, regs := [], dst := .none, counted := some cnt }

section
variable {opc : Nat} {f : Form} {s : State} {i : Iss}

/-- A command handed over is the last of its port, and its operation has begun. -/
theorem issue_launchCmd {body : Iss → Eff} {c : Cmd} {cnt : Fin 4} {scored : Bool} {dst src : Nat × Nat} (h : Executes opc f s i)
    (hb : body i = .done (s.launchCmd i c cnt scored dst src)) :
    ∃ u, issue opc f s body = .next u ∧ i.Begins u (i.copyOp s c cnt) ∧
      (u.core i.team.core).cmds = (s.core i.team.core).cmds ++ [c] := by
  have popped : (s.popSources i).wave? i.tid i.wid = some i.wave := ((s.popSources_sameWaves i).waves _ _).trans h.wave
  refine ⟨_, issue_done h hb, .of_wave popped fun w hw => i.ends_wave (hw : State.wave? _ _ _ = _), ?_⟩
  rw [(State.KeepsCmds.ends _ i).cmds]
  show ((State.modCore _ _ _).core _).cmds = _
  rw [State.core_modCore, if_pos rfl, (State.KeepsCmds.beginOp _ _ _).cmds, (State.KeepsCmds.popSources _ _).cmds]

theorem mem_maskLanes {m : Mask} {l : Nat} : l ∈ maskLanes m ↔ l < 32 ∧ m.getLsbD l = true := by
  simp [maskLanes, lanes32]

/-- An instruction that hands a command with a property over to its port, counted. -/
def Iss.HandsOver (i : Iss) (s : State) (ins : Instr) (cnt : Fin 4) (p : Cmd → Prop) : Prop :=
  ∃ u o c, exec ins s = .next u ∧ i.Begins u o ∧ o.kind = .copy i.cmdSdom i.cmdDdom ∧ o.counted = some cnt ∧
    (u.core i.team.core).cmds = (s.core i.team.core).cmds ++ [c] ∧
    c.id = o.id ∧ c.team = i.tid ∧ c.wave = i.wid ∧ c.lane = lowest i.act ∧
    c.port = ((i.team.bind[bits (i.f.ext.getD 0) 0 6]?).elim 0 Bind.param) ∧
    c.pos = 0 ∧ c.failed = false ∧ c.arrived = false ∧ c.sdom = i.cmdSdom ∧ c.ddom = i.cmdDdom ∧ c.bar = i.cmdBar s ∧ p c

/-- A command at its beginning, with the particulars of its instruction. -/
def Cmd.with (c : Cmd) (lanes : List (Nat × Option W64)) (src dst : W64) (count esize total : Nat) (etag : BitVec 4)
    (ring : Option Nat) : Cmd :=
  { c with lanes := lanes, src := src, dst := dst, count := count, esize := esize, total := total, etag := etag, ring := ring }

theorem handsOver {ins : Instr} {body : Iss → Eff} {kind : CmdKind} {lanes : List (Nat × Option W64)} {src dst : W64}
    {count esize total : Nat} {etag : BitVec 4} {ring : Option Nat} {cnt : Fin 4} {scored : Bool} {r q : Nat × Nat} {p : Cmd → Prop}
    (h : Executes opc f s i) (he : exec ins s = issue opc f s body)
    (hb : body i = .done (s.launchCmd i ((i.cmd s kind).with lanes src dst count esize total etag ring) cnt scored r q))
    (hp : p ((i.cmd s kind).with lanes src dst count esize total etag ring)) : i.HandsOver s ins cnt p := by
  obtain ⟨u, hu, hbegins, hcmds⟩ := issue_launchCmd h hb
  exact ⟨u, _, _, he.trans hu, hbegins, rfl, rfl, hcmds, rfl, rfl, rfl, rfl, rfl, rfl, rfl, rfl, rfl, rfl, rfl, hp⟩

/-- RCOPY and COLL with acceptable operands. -/
theorem lenCopy_handsOver {ins : Instr} {body : Iss → Eff} {kind : CmdKind} {a b : W64} {p : Cmd → Prop} (h : Executes opc f s i)
    (he : exec ins s = issue opc f s body) (hbody : body i = i.lenCopy s kind)
    (ha : lane64 (i.srcA s) (lowest i.act) = a) (hb : lane64 (i.srcB s) (lowest i.act) = b)
    (alignedA : a.toNat % 64 = 0) (alignedB : b.toNat % 64 = 0)
    (ap : ∀ x, x = a ∨ x = b → apertureOf x.toNat = .global ∨ apertureOf x.toNat = .peer)
    (bar : i.cmdBarCheck s false = none) (waits : i.cmdWait s 3 true = false)
    (hp : ∀ c : Cmd, c.kind = kind → c.src = a → c.dst = b → c.total = bits i.cmdExt 32 32 → p c) : i.HandsOver s ins 3 p := by
  have good (x : W64) (hx : x = a ∨ x = b) : (apertureOf x.toNat != .global && apertureOf x.toNat != .peer) = false := by
    rcases ap x hx with e | e <;> rw [e] <;> rfl
  suffices done : body i = .done (s.launchCmd i ((i.cmd s kind).with [] a b
      (if bits i.cmdExt 32 32 = 0 then 0 else (b.toNat % 256 + bits i.cmdExt 32 32 + 255) / 256) 256 (bits i.cmdExt 32 32) 0 none) 3 true
      (b.toNat, bits i.cmdExt 32 32) (a.toNat, bits i.cmdExt 32 32)) from handsOver h he done (hp _ rfl rfl rfl rfl)
  rw [hbody]
  unfold Iss.lenCopy
  simp only [ha, hb, alignedA, alignedB, good a (.inl rfl), good b (.inr rfl), bar, waits, ne_eq, not_true_eq_false, Bool.false_eq_true,
    if_false]
  rfl

/-- A source of RCOPY or COLL that is neither global nor peer. -/
theorem lenCopy_badSource {kind : CmdKind} (alignedA : (lane64 (i.srcA s) (lowest i.act)).toNat % 64 = 0)
    (alignedB : (lane64 (i.srcB s) (lowest i.act)).toNat % 64 = 0)
    (hg : apertureOf (lane64 (i.srcA s) (lowest i.act)).toNat ≠ .global) (hp : apertureOf (lane64 (i.srcA s) (lowest i.act)).toNat ≠ .peer) :
    i.lenCopy s kind = .trap (i.badAperture 2 (lane64 (i.srcA s) (lowest i.act))) := by
  unfold Iss.lenCopy
  simp only [alignedA, alignedB, bne_iff_ne.mpr hg, bne_iff_ne.mpr hp, ne_eq, not_true_eq_false, if_false, Bool.and_self, if_true]
end

end Sys2Proof.Machine
end

section
/-! PROOFS. Copy commands (O37). -/

namespace Sys2Proof.Machine

/-- Settles O37. -/
theorem copyCommandsAreHandedOver : Obligations.CopyCommandsAreHandedOver := by
  intro f s i m e va vb a b hands
  refine ⟨fun h hbar hw hb => ?_, fun h ha hw => ?_, fun h hal hbar hw => ?_, fun h hal hbar hw => ?_, fun ha hb hap hbar hw => ?_,
    fun ha hb hg hp => ?_⟩
  · obtain rfl := h.form
    have free : ((s.core i.team.core).cmds.any fun c => c.team == i.tid && c.wave == i.wid && c.kind == .tdesc (i.cmdExt.getLsbD 20)) = false := hb
    have waits : i.cmdWait s 1 (!decide (i.f.mod = 1)) = false := (congrArg (i.cmdWait s 1) decide_not.symm).trans hw
    apply handsOver (ins := .tcopy i.f) (lanes := []) (src := 0) (dst := 0) h rfl
    · simp only [hbar, free, waits, Bool.or_self, Bool.false_eq_true, if_false]
      rfl
    · rfl
  · obtain rfl := h.form
    apply handsOver (ins := .tdesc i.f) (lanes := []) (dst := 0) (total := 0) (etag := 0) (ring := none) h rfl
    · rw [if_neg (not_not.mpr ha), if_neg (Bool.eq_false_iff.mp hw)]
      rfl
    · exact ⟨rfl, rfl, rfl⟩
  · obtain rfl := h.form
    have waits : i.cmdWait s 1 (!decide (8 ≤ i.f.mod.toNat)) = false := by
      rw [← decide_not]
      simpa only [Nat.not_le] using hw
    have aligned : i.laneAlign (sizeCode (i.f.mod.toNat % 8)) (i.srcA s)
        (if decide (8 ≤ i.f.mod.toNat) = true then none else some (lane64 (i.srcB s) (lowest i.act))) = none := by
      simpa only [decide_eq_true_eq] using hal
    apply handsOver (ins := .gather i.f) (src := 0) (etag := 0) h rfl
    · simp only [aligned, hbar, waits, Option.orElse_eq_orElse, Option.orElse_eq_or, Option.or_self, Bool.false_eq_true, if_false]
      rfl
    · refine ⟨rfl, rfl, rfl, fun l hl hact => ?_⟩
      show _ ∈ (if decide (8 ≤ i.f.mod.toNat) = true then lanes32.map fun l => (l, if i.act.getLsbD l then some (lane64 (i.srcA s) l) else none)
        else (maskLanes i.act).map fun l => (l, some (lane64 (i.srcA s) l)))
      split
      · exact List.mem_map.mpr ⟨l, by simpa [lanes32] using hl, by rw [if_pos hact]⟩
      · exact List.mem_map.mpr ⟨l, mem_maskLanes.mpr ⟨hl, hact⟩, rfl⟩
  · obtain rfl := h.form
    apply handsOver (ins := .scatter i.f) (dst := 0) (etag := 0) (ring := none) h rfl
    · have aligned : i.laneAlign (sizeCode i.f.mod.toNat) (i.srcA s) (some (lane64 (i.srcB s) (lowest i.act))) = none := hal
      simp only [aligned, hbar, hw, Option.orElse_eq_orElse, Option.orElse_eq_or, Option.or_self, Bool.false_eq_true, if_false]
      rfl
    · exact ⟨rfl, rfl, rfl, fun l hl hact => List.mem_map.mpr ⟨l, mem_maskLanes.mpr ⟨hl, hact⟩, rfl⟩⟩
  · constructor <;> intro h <;> obtain rfl := h.form
    · exact lenCopy_handsOver (ins := .rcopy i.f) h rfl rfl rfl rfl ha hb hap hbar hw fun c k x y z => ⟨k, x, y, z⟩
    · exact lenCopy_handsOver (ins := .coll i.f) h rfl rfl rfl rfl ha hb hap hbar hw fun c k x y z => ⟨k, x, y, z⟩
  · constructor <;> intro h <;> obtain rfl := h.form
    · exact (issue_trap h (lenCopy_badSource ha hb hg hp)).trans (congrArg Host.Outcome.next (State.conclude_trap nofun))
    · exact (issue_trap h (lenCopy_badSource ha hb hg hp)).trans (congrArg Host.Outcome.next (State.conclude_trap nofun))

end Sys2Proof.Machine
end

section
/-! SUPPORT. What cache and stash control leave of teams and of memory (R318-R320). -/

namespace Sys2Proof.Machine

/-- A state in which every team has the stash bytes and the mappings that it had. -/
structure State.KeepsMaps (s t : State) : Prop where
  teams : ∀ u, (t.teams.get? u).map (fun tm => (tm.stash, tm.maps)) = (s.teams.get? u).map fun tm => (tm.stash, tm.maps)

section
variable {s t u : State}

theorem State.KeepsMaps.refl (s : State) : s.KeepsMaps s := ⟨fun _ => rfl⟩

theorem State.KeepsMaps.trans (h : s.KeepsMaps t) (k : t.KeepsMaps u) : s.KeepsMaps u := ⟨fun x => (k.teams x).trans (h.teams x)⟩

theorem State.KeepsMaps.of_teams (h : t.teams = s.teams) : s.KeepsMaps t := ⟨fun _ => by rw [h]⟩

theorem State.KeepsMaps.foldl {α : Type} (f : State → α → State) (hf : ∀ (s : State) (a : α), s.KeepsMaps (f s a)) (l : List α)
    (s : State) : s.KeepsMaps (l.foldl f s) := by
  induction l generalizing s with
  | nil => exact .refl s
  | cons a l ih => exact (hf s a).trans (ih _)

/-- A team that is there is still there, with its stash and mappings. -/
theorem State.KeepsMaps.team (h : s.KeepsMaps t) {x : Nat} {tm : Team} (ht : s.teams.get? x = some tm) :
    ∃ tm', t.teams.get? x = some tm' ∧ tm'.stash = tm.stash ∧ tm'.maps = tm.maps := by
  have e := h.teams x
  rw [ht] at e
  obtain ⟨tm', ht', same⟩ := Option.map_eq_some_iff.mp e
  exact ⟨tm', ht', congrArg Prod.fst same, congrArg Prod.snd same⟩

theorem State.KeepsMaps.modTeam (s : State) (x : Nat) (f : Team → Team) (hf : ∀ tm, (f tm).stash = tm.stash ∧ (f tm).maps = tm.maps) :
    s.KeepsMaps (s.modTeam x f) := by
  constructor
  intro y
  by_cases e : y = x
  · subst e
    rw [State.modTeam_get?_same, Option.map_map]
    exact congrArg (fun g => Option.map g _) (funext fun tm => by rw [Function.comp, (hf tm).1, (hf tm).2])
  · rw [State.modTeam_get?_other _ _ _ _ e]

theorem Team.modWave_maps (tm : Team) (w : Nat) (f : Wave → Wave) : (tm.modWave w f).maps = tm.maps := by
  unfold Team.modWave
  split <;> rfl

theorem State.KeepsMaps.modWave (s : State) (x w : Nat) (f : Wave → Wave) : s.KeepsMaps (s.modWave x w f) :=
  .modTeam s x _ fun tm => ⟨tm.modWave_stash w f, tm.modWave_maps w f⟩

theorem State.KeepsMaps.ends (s : State) (i : Iss) : s.KeepsMaps (i.ends s) := by
  have woken : s.KeepsMaps (i.wakes s) := by
    unfold Iss.wakes State.channelWake
    split
    · exact .refl s
    · refine .foldl _ (fun s t => ?_) _ s
      split
      · exact .refl s
      · refine .foldl _ (fun s w => ?_) _ s
        split
        · exact .modWave ..
        · exact .refl s
  exact woken.trans (.of_teams rfl)

theorem State.KeepsMaps.issuedNext (s : State) (i : Iss) (hz : List Hazard) : s.KeepsMaps (s.issuedNext i hz) :=
  .trans (.modTeam s i.tid (fun tm =>
    { tm.modWave i.wid fun w => (w.advancePcs i).issued i s.time (s.cycleOf i.team.core) hz with started := true })
    fun tm => ⟨tm.modWave_stash .., tm.modWave_maps ..⟩) (.of_teams rfl)

theorem State.KeepsMaps.beginOp (s : State) (i : Iss) (o : Op) : s.KeepsMaps (s.beginOp i o) := by
  unfold State.beginOp
  exact .trans (t := { s with nextOp := s.nextOp + 1 }) (.of_teams rfl) (.trans (.modWave ..) (.issuedNext ..))
end

/-! ## Requests change neither memory nor home slices, write-backs no team -/

theorem State.sendReq_sameRest (s : State) (core : Nat) (asker : Asker) (dom : Dom) (line key : Nat) (kind : ReqKind) (tm : Terms)
    (h : Bool) : s.SameRest (s.sendReq core asker dom line key kind tm h).1 := by
  unfold State.sendReq
  split <;> exact ⟨rfl, rfl, rfl, rfl, rfl, rfl⟩

theorem State.sendRead_sameRest (s : State) (core : Nat) (asker : Asker) (dom : Dom) (line key : Nat) (secs : BitVec 4) (tm : Terms)
    (h : Bool) : s.SameRest (s.sendRead core asker dom line key secs tm h) := by
  unfold State.sendRead
  exact (s.sendReq_sameRest ..).trans (.modCore ..)

theorem State.KeepsTeams.sendRead (s : State) (core : Nat) (asker : Asker) (dom : Dom) (line key : Nat) (secs : BitVec 4) (tm : Terms)
    (h : Bool) : s.KeepsTeams (s.sendRead core asker dom line key secs tm h) := by
  unfold State.sendRead
  exact (State.KeepsTeams.sendReq s ..).trans (.modCore ..)

theorem State.SameRest.foldl {α : Type} (f : State → α → State) (hf : ∀ (s : State) (a : α), s.SameRest (f s a)) (l : List α)
    (s : State) : s.SameRest (l.foldl f s) := by
  induction l generalizing s with
  | nil => exact .refl s
  | cons a l ih => exact (hf s a).trans (ih _)

/-- A property of a core that changes of any core keep, and that the change of this one brings about. -/
theorem State.foldl_modCore_reaches {P : Core → Prop} {f : Core → Core} (made : ∀ c, P (f c)) {c : Nat} {l : List Nat} (s : State)
    (hc : c ∈ l) : P ((l.foldl (fun s k => s.modCore k f) s).core c) := by
  have kept : ∀ (l : List Nat) (s : State), P (s.core c) → P ((l.foldl (fun s k => s.modCore k f) s).core c) := by
    intro l
    induction l with
    | nil => exact fun _ h => h
    | cons k l ih =>
      intro s h
      refine ih _ ?_
      rw [State.core_modCore]
      split
      · exact made _
      · exact h
  induction l generalizing s with
  | nil => cases hc
  | cons k l ih =>
    rcases List.mem_cons.mp hc with rfl | hc
    · refine kept l _ ?_
      rw [State.core_modCore, if_pos rfl]
      exact made _
    · exact ih _ hc

theorem State.KeepsTeams.writeBack (s : State) (core sec : Nat) (doms : List Dom) (tm : Terms) :
    s.KeepsTeams (s.writeBack core sec doms tm) := by
  unfold State.writeBack
  split
  · exact .refl s
  · split
    · exact .refl s
    · refine .ite (.refl s) (.trans (.trans (.foldl _ (fun s d => ?_) _ s) (.commitOf ..)) (.modCore ..))
      exact .ite (.refl s) (.trans (.sendReq s ..) (.modCore ..))

theorem State.KeepsTeams.writeBackLine (s : State) (core line : Nat) (doms : List Dom) (tm : Terms) :
    s.KeepsTeams (s.writeBackLine core line doms tm) := .foldl _ (fun s _ => .writeBack s ..) _ s

theorem AMap.get?_filter_none {α : Type} (m : AMap α) (p : Nat × α → Bool) {k : Nat} (h : ∀ e ∈ m, e.1 = k → p e = false) :
    AMap.get? (m.filter p) k = none := by
  induction m with
  | nil => rfl
  | cons e m ih =>
    have rest := ih fun x hx => h x (List.mem_cons_of_mem _ hx)
    rw [List.filter_cons]
    split
    next hp =>
      rw [AMap.get?, if_neg, rest]
      intro hk
      rw [h e List.mem_cons_self hk] at hp
      cases hp
    · exact rest

theorem State.stashMasked_nil (s : State) (t : Nat) : s.stashMasked t [] = false := by
  unfold State.stashMasked
  cases s.teams.get? t with
  | none => rfl
  | some tm => exact List.any_eq_false.mpr fun _ _ => Bool.false_ne_true

/-- A team some of whose mapped stash sectors are left unfilled. -/
def Team.unfilled (xs : List Nat) (t : Team) : Team :=
  { t with maps := t.maps.map fun m => { m with sec := m.sec.filter fun e => !(xs.contains e.1) } }

/-- A wave whose subset has gone on after its instruction, with the operations and registers that it had. -/
def Iss.GoesOn (i : Iss) (u : State) : Prop :=
  ∃ w, u.wave? i.tid i.wid = some w ∧ w.ops = i.wave.ops ∧ w.vregs = i.wave.vregs ∧
    ∀ l, l < 32 → i.lanes.getLsbD l = true → w.pcs.getD l 0 = i.pc + i.len

section
variable {opc : Nat} {f : Form} {s t : State} {i : Iss}

/-- The end of an instruction without results, in a state with the waves as at issue. -/
theorem goesOn_of_issuedNext (h : Executes opc f s i) (k : s.KeepsTeams t) : i.GoesOn (i.ends (t.issuedNext i [])) := by
  obtain ⟨w, hw, same⟩ := i.ends_wave (State.issuedNext_wave [] ((k.wave? i.tid i.wid).trans h.wave))
  unfold Wave.SameButWaits at same
  refine ⟨w, hw, ?_, ?_, fun l hl hi => ?_⟩ <;> rw [same]
  · rfl
  · rfl
  · show ((i.wave.advancePcs i).issued i t.time (t.cycleOf i.team.core) []).pcs.getD l 0 = _
    rw [Wave.issued_pcs, mergeLanes_getD _ _ _ _ _ _ hl, if_pos hi]

theorem ends_issuedNext_sameRest (t : State) (i : Iss) : t.SameRest (i.ends (t.issuedNext i [])) :=
  (t.issuedNext_sameRest i []).trans (i.ends_sameRest _)

theorem State.core_ends (t : State) (i : Iss) (c : Nat) : (i.ends t).core c = t.core c := by
  unfold Iss.ends Iss.wakes
  split
  · rfl
  · show State.core t.channelWake c = _
    rw [t.channelWake_onlyWakes.rest]
    rfl

theorem State.core_issuedNext (t : State) (i : Iss) (hz : List Hazard) (c : Nat) : (t.issuedNext i hz).core c = t.core c := by
  simp [State.core, State.issuedNext]

/-- The stash and mappings of a team that is changed and in which the subset then goes on. -/
theorem team_of_modTeam_ends {s u : State} {i : Iss} {tm : Team} (f : Team → Team) (ht : s.teams.get? i.tid = some tm)
    (k : (s.modTeam i.tid f).KeepsMaps u) :
    ∃ tm', (i.ends u).teams.get? i.tid = some tm' ∧ tm'.stash = (f tm).stash ∧ tm'.maps = (f tm).maps :=
  (k.trans (.ends u i)).team ((State.modTeam_get?_same s i.tid f).trans (congrArg (Option.map f) ht))

/-- The mapping that SMAP.map names. -/
def Iss.newMap (i : Iss) (s : State) : SMap :=
  ⟨(lane32 (i.srcB s) (lowest i.act)).toNat % 2 ^ 19, i.ea s (lowest i.act), ((vec1 (i.srcB s) 1).val (lowest i.act)).toNat, []⟩

/-- A write-back that an instruction starts on a state with the waves as at issue. -/
theorem issue_writeback {body : Iss → Eff} {o : Op} (h : Executes opc f s i) (k : s.KeepsTeams t) (hb : body i = .done (t.beginOp i o))
    (hk : o.kind = .writeback) (hc : o.counted = some 0) :
    ∃ u o, issue opc f s body = .next u ∧ i.Begins u o ∧ o.kind = .writeback ∧ o.counted = some 0 :=
  ⟨_, o, issue_done h hb, State.beginOp_begins o ((k.wave? i.tid i.wid).trans h.wave), hk, hc⟩

/-- What CCTL.wb, and CCTL.inv with `drop`, do to a line. -/
def Iss.cctlBackLine (i : Iss) (drop : Bool) (s : State) (l : Nat × Nat) : State :=
  let s := s.writeBackLine i.team.core l.1 [.rc, .blk] i.terms
  if drop then s.modCore i.team.core fun c => c.dropLine l.1 else s

/-- CCTL.wb and CCTL.inv start a write-back. -/
theorem cctlBack_begins {body : Iss → Eff} {drop : Bool} (h : Executes opc f s i) (hb : body i = i.cctlBack s drop)
    (hm : i.wave.mem ≠ 63) (hq : i.storesQueued s = false) :
    ∃ u o, issue opc f s body = .next u ∧ i.Begins u o ∧ o.kind = .writeback ∧ o.counted = some 0 := by
  refine issue_writeback (t := (i.cctlLines s).foldl (i.cctlBackLine drop) s) h ?_ (hb.trans ?_) 
    (o := i.writebackOp ((i.cctlLines s).foldl (i.cctlBackLine drop) s) (i.cctlLines s)) rfl rfl
  · exact .foldl _ (fun s l => (State.KeepsTeams.writeBackLine s ..).trans (.ite (.modCore ..) (.refl _))) _ s
  unfold Iss.cctlBack
  rw [if_neg (by simp [hm, hq])]
  rfl
end

end Sys2Proof.Machine
end

section
/-! PROOFS. Cache and stash control (O36). -/

namespace Sys2Proof.Machine

/-- CCTL.ivi. -/
theorem cctlIvi_acts {f : Form} {s : State} {i : Iss} (h : Executes 0x320 f s i) :
    ∃ u, exec (.cctlIvi f) s = .next u ∧ i.GoesOn u ∧ u.mem = s.mem ∧
      ∀ c, c ∈ s.coresWithin i.team.core i.launch.part i.scope → ∀ l ∈ i.cctlLines s, ∀ e ∈ (u.core c).ipath, e.1 ≠ l.1 := by
  refine ⟨_, issue_done h rfl, goesOn_of_issuedNext h ?_, (ends_issuedNext_sameRest _ i).mem.trans ?_, fun c hc l hl e he hel => ?_⟩
  · exact .foldl _ (fun s c => .modCore s _ _) _ s
  · exact (State.SameRest.foldl _ (fun s c => .modCore s _ _) _ s).mem
  · rw [(State.core_ends _ i), State.core_issuedNext] at he
    have clear := State.foldl_modCore_reaches (P := fun c => ∀ e ∈ c.ipath, (!((i.cctlLines s).any fun l => l.1 == e.1)) = true)
      (f := fun x => { x with
        ipath := x.ipath.filter fun e => !((i.cctlLines s).any fun l => l.1 == e.1)
        ifetch := x.ifetch.filter fun e => !((i.cctlLines s).any fun l => l.1 == e.2.1) })
      (fun _ e he => (List.mem_filter.mp he).2) s hc e he
    rw [Bool.not_eq_true', List.any_eq_false] at clear
    exact clear l hl (beq_iff_eq.mpr hel.symm)

/-- CCTL.pf and CCTL.pfs. -/
theorem cctlPf_acts {f : Form} {s : State} {i : Iss} (h : Executes 0x320 f s i) :
    (∃ u, exec (.cctlPf f) s = .next u ∧ i.GoesOn u ∧ u.mem = s.mem ∧ u.slices = s.slices) ∧
    (∃ u, exec (.cctlPfs f) s = .next u ∧ i.GoesOn u ∧ u.mem = s.mem ∧ u.slices = s.slices) := by
  constructor
  · have rest := State.SameRest.foldl (fun s l => if (s.core i.team.core).lineOut l.1 then s
      else s.sendRead i.team.core (.prefetch i.team.core) .blk l.1 l.2 15 i.terms false) (fun s l => by
        split
        · exact .refl s
        · exact s.sendRead_sameRest ..) (i.cctlLines s) s
    refine ⟨_, issue_done h rfl, goesOn_of_issuedNext h ?_, (ends_issuedNext_sameRest _ i).mem.trans rest.mem,
      (ends_issuedNext_sameRest _ i).slices.trans rest.slices⟩
    exact .foldl _ (fun s l => .ite (.refl s) (.sendRead s ..)) _ s
  · have rest := State.SameRest.foldl (fun s l => (s.sendReq i.team.core .none .blk l.1 l.2 (.read 15 true) i.terms true).1)
      (fun s l => s.sendReq_sameRest ..) (i.cctlLines s) s
    refine ⟨_, issue_done h rfl, goesOn_of_issuedNext h ?_, (ends_issuedNext_sameRest _ i).mem.trans rest.mem,
      (ends_issuedNext_sameRest _ i).slices.trans rest.slices⟩
    exact .foldl _ (fun s l => .sendReq s ..) _ s

/-- SMAP.map whose checks pass. -/
theorem smapMap_adds {f : Form} {s : State} {i : Iss} (h : Executes 0x328 f s i) (hq : i.storesQueued s = false)
    (hg : (i.newMap s).g % 256 = 0) (ho : (i.newMap s).o % 256 = 0) (hl : (i.newMap s).len % 256 = 0) (hn : (i.newMap s).len ≠ 0)
    (hc : smapCheck i.launch.header.stash i.team.maps (i.newMap s).g (i.newMap s).o (i.newMap s).len = none) :
    ∃ u tm, exec (.smapMap f) s = .next u ∧ u.teams.get? i.tid = some tm ∧ tm.maps = i.team.maps ++ [i.newMap s] ∧
      tm.stash = i.team.stash ∧ u.mem = s.mem := by
  let add (t : Team) : Team := { t with maps := t.maps ++ [i.newMap s] }
  obtain ⟨tm, ht, hs, hm⟩ := team_of_modTeam_ends add h.team (.issuedNext _ i [])
  refine ⟨_, tm, issue_done h (t := (s.modTeam i.tid add).issuedNext i []) ?_, ht, hm, hs,
    (ends_issuedNext_sameRest _ i).mem.trans (State.SameRest.modTeam s _ add).mem⟩
  unfold Iss.newMap at hg ho hl hn hc
  simp only [hg, ho, hl, hn, hc, hq, ne_eq, not_true_eq_false, or_self, Bool.false_eq_true, if_false]
  rfl

/-- SDROP. -/
theorem sdrop_empties {f : Form} {s : State} {i : Iss} (h : Executes 0x32A f s i) (hq : i.storesQueued s = false) :
    ∃ u tm, exec (.sdrop f) s = .next u ∧ u.teams.get? i.tid = some tm ∧ tm.stash = i.team.stash ∧ u.mem = s.mem ∧
      ∀ x ∈ i.stashTargets s, ∀ y ∈ tm.maps, y.sec.get? x = none := by
  let dropped := s.modCore i.team.core fun c => (i.stashTargets s).foldl (fun c x =>
    (i.team.mapAt x).elim c fun e => c.dropSectorReuse (e.2.pa / 64)) c
  obtain ⟨tm, ht, hs, hm⟩ := team_of_modTeam_ends (s := dropped) (Team.unfilled (i.stashTargets s)) h.team (.issuedNext _ i [])
  refine ⟨_, tm, issue_done h (t := (dropped.modTeam i.tid (Team.unfilled (i.stashTargets s))).issuedNext i []) ?_, ht, hs,
    (ends_issuedNext_sameRest _ i).mem.trans (State.SameRest.modTeam dropped _ _).mem, fun x hx y hy => ?_⟩
  · simp only [hq, Bool.false_eq_true, if_false]
    rfl
  · rw [hm] at hy
    obtain ⟨z, -, rfl⟩ := List.mem_map.mp hy
    refine AMap.get?_filter_none _ _ fun e _ hk => ?_
    rw [hk, Bool.not_eq_false', List.contains_iff_mem]
    exact hx

/-- SMAP.unmap. -/
theorem smapUnmap_ends {f : Form} {s : State} {i : Iss} (h : Executes 0x328 f s i) (hm : i.wave.mem ≠ 63) (hq : i.storesQueued s = false) :
    let own := (i.team.maps.find? fun x => x.g == i.ea s (lowest i.act)).elim [] fun x => x.sec.map (·.1)
    let freed := own.foldl (fun s x => s.cleanStash i.tid x true i.terms) s
    (freed.stashMasked i.tid own = true → exec (.smapUnmap f) s = .next (i.ends freed)) ∧
    (freed.stashMasked i.tid own = false →
      ∃ u op tm, exec (.smapUnmap f) s = .next u ∧ i.Begins u op ∧ op.kind = .writeback ∧ op.counted = some 0 ∧
        u.teams.get? i.tid = some tm ∧ tm.stash = i.team.stash ∧ ∀ x ∈ tm.maps, x.g ≠ i.ea s (lowest i.act)) := by
  intro own freed
  have keeps : s.KeepsTeams freed := .foldl _ (fun s x => .cleanStash s ..) _ s
  have goes : ¬ (i.wave.mem = 63 ∨ i.storesQueued s = true) := by simp [hm, hq]
  cases hf : i.team.maps.find? fun x => x.g == i.ea s (lowest i.act) with
  | none =>
    have same : freed = s := by simp only [freed, own, hf, Option.elim_none, List.foldl_nil]
    have clean : freed.stashMasked i.tid own = false := by
      simp only [own, hf, Option.elim_none]
      exact freed.stashMasked_nil i.tid
    refine ⟨fun hd => absurd (clean.symm.trans hd) nofun, fun _ => ?_⟩
    obtain ⟨tm, ht, hs, hmaps⟩ := ((State.KeepsMaps.beginOp s i (i.writebackOp s [])).trans (.ends _ i)).team h.team
    refine ⟨_, _, tm, issue_done h ?_, State.beginOp_begins (i.writebackOp s []) h.wave, rfl, rfl, ht, hs, fun x hx => ?_⟩
    · simp only [if_neg goes, hf]
    · rw [hmaps] at hx
      exact fun e => List.find?_eq_none.mp hf x hx (beq_iff_eq.mpr e)
  | some m =>
    have unfold_own : own = m.sec.map (·.1) := by simp only [own, hf, Option.elim_some]
    have folded : m.sec.foldl (fun s e => s.cleanStash i.tid e.1 true i.terms) s = freed := by
      simp only [freed, unfold_own, List.foldl_map]
    refine ⟨fun hd => issue_done h ?_, fun hd => ?_⟩
    · simp only [if_neg goes, hf, folded, ← unfold_own, hd, if_true]
      rfl
    · let without (t : Team) : Team := { t with maps := t.maps.filter fun x => x.g != i.ea s (lowest i.act) }
      let o := i.writebackOp freed (freed.core i.team.core).mappedOut
      obtain ⟨tf, htf, hsf⟩ := keeps.stash.team h.team
      obtain ⟨tm, ht, hs, hmaps⟩ := team_of_modTeam_ends without htf (.beginOp _ i o)
      have wave : (freed.modTeam i.tid without).wave? i.tid i.wid = some i.wave :=
        ((keeps.trans (.modTeam freed i.tid without (fun _ => rfl) fun _ => rfl)).wave? _ _).trans h.wave
      refine ⟨_, _, tm, issue_done h ?_, State.beginOp_begins o wave, rfl, rfl, ht, hs.trans hsf, fun x hx => ?_⟩
      · simp only [if_neg goes, hf, folded, ← unfold_own, hd, Bool.false_eq_true, if_false]
        rfl
      · rw [hmaps] at hx
        exact bne_iff_ne.mp (List.mem_filter.mp hx).2

/-- SWB. -/
theorem swb_starts {f : Form} {s : State} {i : Iss} (h : Executes 0x329 f s i) (hm : i.wave.mem ≠ 63) (hq : i.storesQueued s = false) :
    let dirty := (i.stashTargets s).filter fun x => i.team.dirtyStash.contains x
    let clean := dirty.foldl (fun s x => s.cleanStash i.tid x false i.terms) s
    (clean.stashMasked i.tid dirty = true → exec (.swb f) s = .next (i.ends clean)) ∧
    (clean.stashMasked i.tid dirty = false →
      ∃ u op, exec (.swb f) s = .next u ∧ i.Begins u op ∧ op.kind = .writeback ∧ op.counted = some 0) := by
  intro dirty clean
  have goes : ¬ (i.wave.mem = 63 ∨ i.storesQueued s = true) := by simp [hm, hq]
  refine ⟨fun hd => issue_done h ?_, fun hd =>
    issue_writeback (t := clean) (o := i.writebackOp clean (clean.core i.team.core).mappedOut) h (.foldl _ (fun s x => .cleanStash s ..) _ s)
      ?_ rfl rfl⟩
  · simp only [if_neg goes]
    rw [if_pos hd]
    rfl
  · simp only [if_neg goes]
    rw [if_neg (Bool.eq_false_iff.mp hd)]

/-- Settles O36. -/
theorem cacheAndStashControl : Obligations.CacheAndStashControl := by
  refine ⟨fun f s i h => ⟨cctlIvi_acts h, fun hm hq => ⟨cctlBack_begins h rfl hm hq, cctlBack_begins h rfl hm hq⟩, cctlPf_acts h⟩, ?_⟩
  intro f s i hq m g o len
  exact ⟨fun h hg ho hl hn hc => smapMap_adds h hq hg ho hl hn hc, fun h hm => (smapUnmap_ends h hm hq).1,
    fun h hm => (smapUnmap_ends h hm hq).2, fun h hm => (swb_starts h hm hq).1, fun h hm => (swb_starts h hm hq).2,
    fun h => sdrop_empties h hq⟩

end Sys2Proof.Machine
end

section
/-! SUPPORT. Operations that begin after something else has touched the waves: what a wave has computed and has in flight, apart from who
waits for what. -/

namespace Sys2Proof.Machine

/-- What `Iss.Begins` speaks of: a wave's operations and their counts, its PCs, registers, predicates, rejoin masks and flags. -/
def Wave.progress (w : Wave) :
    (List Op × Nat × Nat × Nat × Nat) × List W64 × List Vec × List Mask × List Mask × List (BitVec 5) :=
  ((w.ops, w.mem, w.cpy, w.mtx, w.net), w.pcs, w.vregs, w.preds, w.rejoin, w.flags)

/-- A state in which every wave has got as far as it had. -/
structure State.KeepsProgress (s t : State) : Prop where
  waves : ∀ u v, (t.wave? u v).map Wave.progress = (s.wave? u v).map Wave.progress

section
variable {s t u : State}

theorem State.KeepsProgress.refl (s : State) : s.KeepsProgress s := ⟨fun _ _ => rfl⟩

theorem State.KeepsProgress.trans (h : s.KeepsProgress t) (k : t.KeepsProgress u) : s.KeepsProgress u :=
  ⟨fun x y => (k.waves x y).trans (h.waves x y)⟩

theorem State.KeepsProgress.ite {p : Prop} [Decidable p] (h : s.KeepsProgress t) (k : s.KeepsProgress u) :
    s.KeepsProgress (if p then t else u) := by
  split
  · exact h
  · exact k

theorem State.KeepsProgress.foldl {α : Type} (f : State → α → State) (hf : ∀ (s : State) (a : α), s.KeepsProgress (f s a)) (l : List α)
    (s : State) : s.KeepsProgress (l.foldl f s) := by
  induction l generalizing s with
  | nil => exact .refl s
  | cons a l ih => exact (hf s a).trans (ih _)

theorem State.KeepsProgress.of_waves (h : ∀ u v, t.wave? u v = s.wave? u v) : s.KeepsProgress t := ⟨fun x y => by rw [h]⟩

theorem State.KeepsTeams.progress (h : s.KeepsTeams t) : s.KeepsProgress t := .of_waves h.wave?

theorem State.SameWaves.progress (h : s.SameWaves t) : s.KeepsProgress t := .of_waves h.waves

/-- A change of a wave that leaves its progress. -/
theorem State.KeepsProgress.modWave (s : State) (x y : Nat) (f : Wave → Wave) (hf : ∀ w, (f w).progress = w.progress) :
    s.KeepsProgress (s.modWave x y f) := by
  refine ⟨fun u v => ?_⟩
  by_cases h : u = x ∧ v = y
  · obtain ⟨rfl, rfl⟩ := h
    rw [State.wave?_modWave_same, Option.map_map]
    exact congrArg (fun g => Option.map g _) (funext hf)
  · rw [State.wave?_modWave_other _ _ _ _ _ _ (not_and_or.mp h)]

theorem State.KeepsProgress.modTeam (s : State) (x : Nat) (f : Team → Team) (hf : ∀ tm, (f tm).waves = tm.waves) :
    s.KeepsProgress (s.modTeam x f) := (State.SameWaves.modTeam s x f hf).progress

theorem State.KeepsProgress.modCore (s : State) (k : Nat) (f : Core → Core) : s.KeepsProgress (s.modCore k f) := .of_waves fun _ _ => rfl

/-- A wave that is there has got as far there. -/
theorem State.KeepsProgress.wave (h : s.KeepsProgress t) {x y : Nat} {w : Wave} (hw : s.wave? x y = some w) :
    ∃ w', t.wave? x y = some w' ∧ w'.progress = w.progress := by
  have e := h.waves x y
  rw [hw] at e
  exact Option.map_eq_some_iff.mp e
end

theorem Wave.SameButWaits.progress {w w' : Wave} (h : w.SameButWaits w') : w'.progress = w.progress := by
  unfold Wave.SameButWaits at h
  rw [h]
  rfl

theorem State.KeepsProgress.ends (s : State) (i : Iss) {x y : Nat} {w : Wave} (hw : s.wave? x y = some w) :
    ∃ w', (i.ends s).wave? x y = some w' ∧ w'.progress = w.progress :=
  have ⟨w', hw', same⟩ := i.ends_wave hw
  ⟨w', hw', same.progress⟩

theorem Wave.count_of_progress {w w' : Wave} (h : w'.progress = w.progress) (c : Nat) : w'.count c = w.count c := by
  simp only [Wave.progress, Prod.mk.injEq] at h
  obtain ⟨⟨-, hm, hc, hx, hn⟩, -⟩ := h
  unfold Wave.count
  split
  · exact hm
  · exact hc
  · exact hx
  · exact hn

/-- An operation has begun when the subset's wave had got, when it joined, as far as at issue. -/
theorem Iss.Begins.of_progress {i : Iss} {s t u : State} {o : Op} (wave : s.wave? i.tid i.wid = some i.wave) (before : s.KeepsProgress t)
    (after : (t.beginOp i o).KeepsProgress u) : i.Begins (i.ends u) o := by
  obtain ⟨w₀, h₀, e₀⟩ := before.wave wave
  obtain ⟨w₁, h₁, hops, hcount, hpcs, hregs, hpreds, hrejoin, hflags⟩ := State.beginOp_wave o h₀
  obtain ⟨w₂, h₂, e₂⟩ := after.wave h₁
  obtain ⟨w, h₃, e₃⟩ := State.KeepsProgress.ends u i h₂
  have e := e₃.trans e₂
  have counts (c : Nat) : w.count c = w₁.count c ∧ w₀.count c = i.wave.count c := ⟨Wave.count_of_progress e c, Wave.count_of_progress e₀ c⟩
  simp only [Wave.progress, Prod.mk.injEq] at e e₀
  obtain ⟨⟨eops, -⟩, epcs, eregs, epreds, erejoin, eflags⟩ := e
  obtain ⟨⟨fops, -⟩, fpcs, fregs, fpreds, frejoin, fflags⟩ := e₀
  refine ⟨w, h₃, ?_, fun c => ?_, fun l hl => ?_, ?_, ?_, ?_, ?_⟩
  · rw [eops, hops, fops]
  · rw [(counts c).1, hcount, (counts c).2]
  · rw [epcs, hpcs, mergeLanes_getD _ _ _ _ _ _ hl, fpcs]
  · rw [eregs, hregs, fregs]
  · rw [epreds, hpreds, fpreds]
  · rw [erejoin, hrejoin, frejoin]
  · rw [eflags, hflags, fflags]

theorem Wave.blockOn_progress (w : Wave) (m : Mask) (pc : W64) (k : Wake) : (w.blockOn m pc k).progress = w.progress := rfl

theorem State.KeepsProgress.dropProbes (s : State) (x w core : Nat) : s.KeepsProgress (s.dropProbes x w core) :=
  (State.KeepsTeams.dropProbes s x w core).progress

/-- The same for a memory operation, which its wave may wait for. -/
theorem Iss.Begins.of_progress_mem {i : Iss} {s t u : State} {o : Op} (wave : s.wave? i.tid i.wid = some i.wave)
    (before : s.KeepsProgress t) (after : (t.beginMem i o).KeepsProgress u) : i.Begins (i.ends u) o := by
  refine .of_progress wave (before.trans (.dropProbes t i.tid i.wid i.team.core)) (.trans ?_ after)
  unfold State.beginMem
  exact .ite (.modWave _ _ _ _ fun w => w.blockOn_progress ..) (.refl _)

end Sys2Proof.Machine
end

section
/-! SUPPORT. Loads at issue (R307, R308, R249, R142-R144): what lets one go, what it asks for, and a load that the reuse table serves. -/

namespace Sys2Proof.Machine

/-! ## What a load leaves of waves before its operation begins -/

theorem Wave.addPending_progress (w : Wave) (line : Nat) : (w.addPending line).progress = w.progress := by
  unfold Wave.addPending
  split <;> rfl

theorem State.KeepsProgress.notePending (s : State) (x w line : Nat) : s.KeepsProgress (s.notePending x w line) := by
  unfold State.notePending
  exact .ite (.modWave _ _ _ _ fun w => w.addPending_progress line) (.refl s)

theorem State.KeepsProgress.loadPiece (x w core : Nat) (direct sc : Bool) (acc : State × List (Nat × Nat × List Byte) × List Piece)
    (p : Piece) : acc.1.KeepsProgress (State.loadPiece x w core direct sc acc p).1 := by
  obtain ⟨s, got, miss⟩ := acc
  unfold State.loadPiece
  dsimp only
  split
  · exact .refl s
  · split
    · exact .refl s
    · split
      · exact .notePending s ..
      · exact .ite (.refl s) (.modTeam _ _ _ fun _ => rfl)
  · split <;> exact .refl s
  · split
    · exact .refl s
    · split
      · exact .notePending s ..
      · exact .refl s

theorem State.KeepsProgress.loadPieces (x w core : Nat) (direct sc : Bool) (ps : List Piece)
    (acc : State × List (Nat × Nat × List Byte) × List Piece) :
    acc.1.KeepsProgress (ps.foldl (State.loadPiece x w core direct sc) acc).1 := by
  induction ps generalizing acc with
  | nil => exact .refl _
  | cons p ps ih => exact .trans (.loadPiece x w core direct sc acc p) (ih _)

theorem State.KeepsProgress.askLines (s : State) (i : Iss) (op : Nat) (miss : List Piece) : s.KeepsProgress (s.askLines i op miss).1 :=
  .foldl _ (fun s _ => (State.KeepsTeams.sendRead s ..).progress) _ s

theorem State.KeepsProgress.askRemote (s : State) (i : Iss) (op : Nat) (dom : Dom) (ps : List Piece) :
    s.KeepsProgress (s.askRemote i op dom ps).1 := by
  unfold State.askRemote
  dsimp only
  generalize (0 : Nat) = n
  induction ps generalizing s n with
  | nil => exact .refl s
  | cons p ps ih =>
    refine .trans ?_ (ih _ _)
    split
    · split <;> exact .of_waves fun _ _ => rfl
    · exact .refl s

/-! ## Loads that go -/

section
variable {opc : Nat} {f : Form} {s : State} {i : Iss} {as : List LaneAcc} {ps : List Piece}

theorem mem_sortedInsert {n l : Nat} {ls : List Nat} : l ∈ sortedInsert n ls ↔ l = n ∨ l ∈ ls := by
  induction ls with
  | nil => exact List.mem_cons
  | cons m ls ih =>
    rw [sortedInsert]
    split
    · exact List.mem_cons
    · split
      next h => rw [h, List.mem_cons, or_self_left]
      · rw [List.mem_cons, ih, List.mem_cons, or_left_comm]

theorem mem_linesOf {ps : List Place} {l : Nat} : l ∈ linesOf ps ↔ ∃ p ∈ ps, ∃ a, p.pa? = some a ∧ a.1 / 256 = l := by
  have general (ps : List Place) (ls : List Nat) :
      l ∈ ps.foldl (fun l p => match p.pa? with | some (pa, _) => sortedInsert (pa / 256) l | none => l) ls ↔
        l ∈ ls ∨ ∃ p ∈ ps, ∃ a, p.pa? = some a ∧ a.1 / 256 = l := by
    induction ps generalizing ls with
    | nil => simp
    | cons p ps ih =>
      rw [List.foldl_cons, ih, List.exists_mem_cons_iff]
      split
      next pa key h =>
        rw [mem_sortedInsert, h]
        simp [or_assoc, or_left_comm, eq_comm]
      next h => simp [h]
  exact (general ps []).trans (or_iff_right List.not_mem_nil)

theorem mem_linesOf_map {ps : List Piece} {q : Piece → Bool} {l : Nat} :
    l ∈ linesOf ((ps.filter q).map (·.place)) ↔ ∃ p ∈ ps, q p = true ∧ ∃ a, p.place.pa? = some a ∧ a.1 / 256 = l := by
  simp only [mem_linesOf, List.mem_map, List.mem_filter]
  constructor
  · rintro ⟨_, ⟨p, ⟨hp, hq⟩, rfl⟩, ha⟩
    exact ⟨p, hp, hq, ha⟩
  · rintro ⟨p, hp, hq, ha⟩
    exact ⟨_, ⟨p, ⟨hp, hq⟩, rfl⟩, ha⟩

/-- Nothing keeps a load from issuing, when it may go. -/
theorem Iss.LoadGoes.loadWait (h : i.LoadGoes s as ps) : i.loadWait s as ps = none := by
  obtain ⟨access, own, dirty, out, pending⟩ := h
  have own' : ((s.core i.team.core).ownStores i.tid i.wid).any (fun e => ps.any fun p =>
      (i.dom == .sc || (i.hint == 3 && !p.place.isMapped)) && e.meets p) = false := by
    refine List.any_eq_false.mpr fun e he => Bool.not_eq_true _ ▸ List.any_eq_false.mpr fun p hp hd => ?_
    rw [Bool.and_eq_true] at hd
    exact Bool.false_ne_true ((own p hp hd.1 e he).symm.trans hd.2)
  have dirty' := List.any_eq_false.mpr fun l hl => Bool.eq_false_iff.mp (dirty l hl)
  have pending' := List.any_eq_false.mpr fun l hl => (show ¬ (!s.pendingRoom i.tid i.wid l) = true by rw [pending l hl]; nofun)
  unfold Iss.loadWait
  dsimp only
  rw [if_neg (Bool.eq_false_iff.mp access), if_neg (Bool.eq_false_iff.mp own'), if_neg (Bool.eq_false_iff.mp dirty'), if_neg ?_,
    if_neg (Bool.eq_false_iff.mp pending')]
  rw [Bool.not_eq_true, List.any_eq_false]
  intro l hl
  refine Bool.eq_false_iff.mp (out l (mem_linesOf_map.mpr ?_))
  rcases List.mem_append.mp hl with hl | hl <;> obtain ⟨p, hp, hq, ha⟩ := mem_linesOf_map.mp hl
  · exact ⟨p, hp, by dsimp only; rw [hq]; rfl, ha⟩
  · exact ⟨p, hp, by rw [Bool.or_assoc, hq, Bool.or_true], ha⟩

/-- The key under which a load looks up the reuse table. -/
def Iss.loadKey (i : Iss) (c : Core) : ReuseEntry := { i.reuseKey with isLoad := true, epoch := c.epoch }

/-- The entry of the reuse table that serves a load, if it looks one up. -/
def Iss.loadHit? (i : Iss) (c : Core) (reusable : Bool) : Option ReuseEntry :=
  if reusable && i.loadEligible then c.reuse.find? fun e => e.sameKey (i.loadKey c) else none

/-- The core after the lookup. -/
def Iss.lookedUp (i : Iss) (c : Core) (reusable : Bool) : Core :=
  if reusable && i.loadEligible then (c.reuseFind (i.loadKey c)).1 else c

theorem Iss.lookup_eq (i : Iss) (c : Core) (reusable : Bool) :
    (if (reusable && i.loadEligible) = true then c.reuseFind (i.loadKey c) else (c, none)) = (i.lookedUp c reusable, i.loadHit? c reusable) := by
  unfold Iss.lookedUp Iss.loadHit?
  split
  · unfold Core.reuseFind
    dsimp only
    cases c.reuse.find? fun e => e.sameKey (i.loadKey c) <;> rfl
  · rfl

theorem Iss.lookedUp_cnf (i : Iss) (c : Core) (reusable : Bool) : (i.lookedUp c reusable).cnf = c.cnf := by
  unfold Iss.lookedUp
  split
  · unfold Core.reuseFind
    dsimp only
    cases c.reuse.find? fun e => e.sameKey (i.loadKey c) <;> rfl
  · rfl

/-- A load that goes and that the reuse table does not serve starts, with its destination to wait for it. -/
theorem load_starts {body : Iss → Eff} {kind : OpKind} {width : Nat} {reusable : Bool} {hint : BitVec 2} (h : Executes opc f s i)
    (hb : body i = i.load s kind width reusable hint)
    (hv : i.verdict s (i.accesses s (maskLanes i.act) width ⟨true, false, false⟩ false) ⟨true, false, false⟩ = .ok ps)
    (hg : i.LoadGoes (s.fillTlbs i (i.accesses s (maskLanes i.act) width ⟨true, false, false⟩ false))
      (i.accesses s (maskLanes i.act) width ⟨true, false, false⟩ false) ps)
    (hm : i.loadHit? ((s.fillTlbs i (i.accesses s (maskLanes i.act) width ⟨true, false, false⟩ false)).core i.team.core) reusable = none) :
    ∃ u o, issue opc f s body = .next u ∧ i.Begins u o ∧ o.kind = kind ∧ o.counted = some 0 ∧ o.pieces = ps ∧ o.lanes = i.act ∧
      o.dst = f.dst ∧ o.regs = opndRegs f.dst ∧ o.dom = i.dom ∧ o.ready = false := by
  obtain rfl := h.form
  unfold Iss.load at hb
  dsimp only at hb
  rw [hv] at hb
  dsimp only at hb
  rw [hg.loadWait] at hb
  simp only [show ∀ c : Core, { i.reuseKey with isLoad := true, epoch := c.epoch } = i.loadKey c from fun _ => rfl, i.lookup_eq, hm] at hb
  refine ⟨_, _, issue_done h hb, .of_progress_mem h.wave ?_ (.refl _), rfl, rfl, rfl, rfl, rfl, rfl, rfl, rfl⟩
  refine .trans (.trans (.trans ?_ (.loadPieces ..)) (.askRemote ..)) (.askLines ..)
  have filled := (State.KeepsTeams.fillTlbs s i (i.accesses s (maskLanes i.act) width ⟨true, false, false⟩ false)).progress
  split <;> dsimp only
  · exact (filled.trans (.modCore ..)).trans (.modCore ..)
  · exact filled.trans (.modCore ..)

/-! ## Loads that the reuse table serves (R144) -/

/-- One operation of a wave that retires in issue order: those that stay, the counters at which one waits, and the wave. -/
def leaveStep (acc : List Op × List Nat × Wave) (o : Op) : List Op × List Nat × Wave :=
  match o.counted with
  | some c =>
    if o.ready && !acc.2.1.contains c.val then (acc.1, acc.2.1, acc.2.2.setCount c.val (· - 1))
    else (acc.1 ++ [o], c.val :: acc.2.1, acc.2.2)
  | none => if o.ready then acc else (acc.1 ++ [o], acc.2)

theorem Wave.leave_eq (w : Wave) :
    w.leave = { (w.ops.foldl leaveStep ([], [], w)).2.2 with ops := (w.ops.foldl leaveStep ([], [], w)).1 } := rfl

theorem leaveStep_rest (acc : List Op × List Nat × Wave) (o : Op) :
    (∀ x ∈ (leaveStep acc o).1, x ∈ acc.1 ∨ x = o) ∧ (leaveStep acc o).2.2.pcs = acc.2.2.pcs ∧
      (leaveStep acc o).2.2.vregs = acc.2.2.vregs := by
  have joined : ∀ x ∈ acc.1 ++ [o], x ∈ acc.1 ∨ x = o := fun x hx => (List.mem_append.mp hx).imp_right List.mem_singleton.mp
  unfold leaveStep
  split
  next c _ =>
    obtain ⟨-, hp, hv, -⟩ := acc.2.2.setCount_rest c.val (· - 1)
    split
    · exact ⟨fun x hx => .inl hx, hp, hv⟩
    · exact ⟨joined, rfl, rfl⟩
  · split
    · exact ⟨fun x hx => .inl hx, rfl, rfl⟩
    · exact ⟨joined, rfl, rfl⟩

theorem foldl_leaveStep_rest (ops : List Op) (acc : List Op × List Nat × Wave) :
    (∀ x ∈ (ops.foldl leaveStep acc).1, x ∈ acc.1 ∨ x ∈ ops) ∧ (ops.foldl leaveStep acc).2.2.pcs = acc.2.2.pcs ∧
      (ops.foldl leaveStep acc).2.2.vregs = acc.2.2.vregs := by
  induction ops generalizing acc with
  | nil => exact ⟨fun x hx => .inl hx, rfl, rfl⟩
  | cons o ops ih =>
    obtain ⟨hops, hpcs, hregs⟩ := ih (leaveStep acc o)
    obtain ⟨sops, spcs, sregs⟩ := leaveStep_rest acc o
    refine ⟨fun x hx => ?_, hpcs.trans spcs, hregs.trans sregs⟩
    rw [List.mem_cons, ← or_assoc]
    exact (hops x hx).imp_left (sops x)

/-- Operations leave a wave in issue order; its PCs and registers stay. -/
theorem Wave.leave_rest (w : Wave) : (∀ x ∈ w.leave.ops, x ∈ w.ops) ∧ w.leave.pcs = w.pcs ∧ w.leave.vregs = w.vregs := by
  obtain ⟨hops, hpcs, hregs⟩ := foldl_leaveStep_rest w.ops ([], [], w)
  exact ⟨fun x hx => (hops x hx).resolve_left List.not_mem_nil, hpcs, hregs⟩

/-- A counted operation that is alone and ready leaves, and MEM falls by it. -/
theorem Wave.leave_alone {w : Wave} {o : Op} (h : w.ops = [o]) (hc : o.counted = some 0) (hr : o.ready = true) :
    w.leave.ops = [] ∧ w.leave.mem = w.mem - 1 := by
  unfold Wave.leave
  rw [h]
  simp [hc, hr, Wave.setCount]

/-- The vectors that an entry of the reuse table gives. -/
def Core.resultsOf (c : Core) (e : ReuseEntry) : List Vec := e.results.map fun n => (c.cnf.get? n).elim Vec.zero CnfEntry.vec

theorem Core.resultsOf_getD (c : Core) (e : ReuseEntry) {k : Nat} (hk : k < e.results.length) :
    (c.resultsOf e).getD k Vec.zero = (c.cnf.get? (e.results.getD k 0)).elim Vec.zero CnfEntry.vec := by
  simp [Core.resultsOf, List.getD_eq_getElem?_getD, hk]

/-- A load that goes and that the reuse table serves: the entry's results are written at once, and it is counted in issue order. -/
theorem load_reuses {body : Iss → Eff} {kind : OpKind} {width : Nat} {reusable : Bool} {hint : BitVec 2} {e : ReuseEntry}
    (h : Executes opc f s i) (hb : body i = i.load s kind width reusable hint)
    (hv : i.verdict s (i.accesses s (maskLanes i.act) width ⟨true, false, false⟩ false) ⟨true, false, false⟩ = .ok ps)
    (hg : i.LoadGoes (s.fillTlbs i (i.accesses s (maskLanes i.act) width ⟨true, false, false⟩ false))
      (i.accesses s (maskLanes i.act) width ⟨true, false, false⟩ false) ps)
    {c : Core} (hc : (s.fillTlbs i (i.accesses s (maskLanes i.act) width ⟨true, false, false⟩ false)).core i.team.core = c)
    (hm : i.loadHit? c reusable = some e) :
    ∃ u w o, issue opc f s body = .next u ∧ u.wave? i.tid i.wid = some w ∧ o.counted = some 0 ∧ o.ready = true ∧
      (∀ x ∈ w.ops, x = o ∨ x ∈ i.wave.ops) ∧ (i.wave.ops = [] → w.ops = [] ∧ w.mem = i.wave.mem) ∧
      (∀ l, l < 32 → i.lanes.getLsbD l = true → w.pcs.getD l 0 = i.pc + i.len) ∧
      (∀ n, n ∉ opndRegs f.dst → w.vregs.getD n Vec.zero = i.wave.vregs.getD n Vec.zero) ∧
      (∀ k n l, (opndRegs f.dst)[k]? = some n → k < e.results.length → n < i.wave.vregs.length → l < 32 →
        i.wave.hazardsOf i.act (.reg n) = [] → (w.vregs.getD n Vec.zero).lane l =
          if i.act.getLsbD l then ((c.cnf.get? (e.results.getD k 0)).elim Vec.zero CnfEntry.vec).legal.lane l
          else (i.wave.vregs.getD n Vec.zero).lane l) := by
  obtain rfl := h.form
  have filled := State.KeepsTeams.fillTlbs s i (i.accesses s (maskLanes i.act) width ⟨true, false, false⟩ false)
  unfold Iss.load at hb
  dsimp only at hb
  rw [hv] at hb
  dsimp only at hb
  rw [hg.loadWait] at hb
  dsimp only at hb
  simp only [show ∀ c : Core, { i.reuseKey with isLoad := true, epoch := c.epoch } = i.loadKey c from fun _ => rfl, i.lookup_eq, hc, hm] at hb
  generalize s.fillTlbs i _ = s₁ at hb filled hc
  have looked : (s₁.modCore i.team.core fun _ => i.lookedUp c reusable).wave? i.tid i.wid = some i.wave :=
    (filled.wave? i.tid i.wid).trans h.wave
  have core : ((s₁.modCore i.team.core fun _ => i.lookedUp c reusable).core i.team.core).cnf = c.cnf := by
    rw [State.core_modCore, if_pos rfl, Iss.lookedUp_cnf]
  generalize s₁.modCore i.team.core (fun _ => i.lookedUp c reusable) = t at hb looked core
  have vecs : (e.results.map fun n => ((t.core i.team.core).cnf.get? n).elim Vec.zero CnfEntry.vec) = c.resultsOf e := by rw [core]; rfl
  unfold State.loadHit at hb
  dsimp only at hb
  rw [vecs] at hb
  obtain ⟨-, w₁, hw₁, regs⟩ := State.writeDst_wave (c.resultsOf e) (i.given (some e)) looked
  unfold Wave.RegsOnly at regs
  generalize ho : ({ i.memOp t kind [] with ready := true, pops := [] } : Op) = o at hb
  have counted : o.counted = some 0 := by rw [← ho]; rfl
  have ready : o.ready = true := by rw [← ho]
  obtain ⟨w₂, hw₂, hops, hcount, hpcs, hregs, -⟩ := State.beginOp_wave o hw₁
  obtain ⟨lops, lpcs, lregs⟩ := w₂.leave_rest
  obtain ⟨w, hw, same⟩ := i.ends_wave (t := (State.modWave _ i.tid i.wid Wave.leave)) ((State.wave?_modWave_same ..).trans (congrArg _ hw₂))
  unfold Wave.SameButWaits at same
  have wops : w.ops = w₂.leave.ops := by rw [same]
  have wpcs : w.pcs = w₂.pcs := by rw [same]; exact lpcs
  have wregs : w.vregs = i.wave.setRegs (t.dstWrites i i.wave (c.resultsOf e)) := by rw [same]; exact (lregs.trans hregs).trans (by rw [regs])
  have ops₁ : w₁.ops = i.wave.ops := by rw [regs]
  refine ⟨_, w, o, issue_done h hb, hw, counted, ready, fun x hx => ?_, fun hn => ?_, fun l hl hi => ?_, fun n hn => ?_, ?_⟩
  · have hx := lops x (wops ▸ hx)
    rw [hops, ops₁] at hx
    exact (List.mem_append.mp hx).symm.imp_left List.mem_singleton.mp
  · have alone : w₂.ops = [o] := by rw [hops, ops₁, hn, List.nil_append]
    obtain ⟨gone, mem⟩ := Wave.leave_alone alone counted ready
    refine ⟨wops.trans gone, ?_⟩
    have one := hcount 0
    rw [if_pos counted] at one
    have up : w₂.mem = w₁.mem + 1 := one
    rw [same]
    show w₂.leave.mem = _
    rw [mem, up, regs]
    rfl
  · rw [wpcs, hpcs, mergeLanes_getD _ _ _ _ _ _ hl, if_pos hi]
  · rw [wregs, State.dstWrites_getD_other _ _ _ _ hn]
  · intro k n l hk he hn hl hz
    rw [wregs, State.dstWrites_lane _ _ _ hk (by rwa [Core.resultsOf, List.length_map]) hn hl hz, Core.resultsOf_getD _ _ he]
end

end Sys2Proof.Machine
end

section
/-! PROOFS. Loads at issue (O30). -/

namespace Sys2Proof.Machine

/-- Settles O30. -/
theorem loadsStart : Obligations.LoadsStart := by
  intro f s i ps need as goes c key hit starts reuses
  refine ⟨fun h hg hm => ?_, fun h hg hm => ?_, fun e h hg hm => ?_, fun e h hg hm => ?_, fun h hg => ?_⟩ <;> obtain rfl := h.form
  · exact load_starts h rfl hg.1 hg.2 hm
  · exact load_starts h rfl hg.1 hg.2 hm
  · exact load_reuses (reusable := true) h rfl hg.1 hg.2 rfl hm
  · exact load_reuses (reusable := true) h rfl hg.1 hg.2 rfl hm
  · exact load_starts h rfl hg.1 hg.2 rfl

end Sys2Proof.Machine
end

section
/-! SUPPORT. Atomics at issue (R306, R311-R314): halves of 16 bits, the lanes at unmapped stash offsets, and the start of the operation. -/

namespace Sys2Proof.Machine

/-! ## Sums of 16-bit halves -/

/-- A sum of a format whose NaN and infinities lie below the sign bit's double has no more bits than the format. -/
theorem Fmt.add_lt {f : Fmt} (hf : f.isE4m3 = false) (hs : ∀ neg, f.signBit neg ≤ 32768) (hn : f.nanBits < 32768)
    (hi : f.infBits < 32768) (a b : Nat) : (f.add 0 false false a b).1 < 65536 := by
  have below (neg : Bool) {x : Nat} (hx : x ≤ f.infBits) : f.signBit neg + x < 65536 := by
    have := hs neg
    omega
  have hmax := Fmt.maxBits_le_infBits hf
  show (f.ofVal 0 false (addVal 0 (f.decodeIn false a) (f.decodeIn false b)).1).1 < 65536
  cases (addVal 0 (f.decodeIn false a) (f.decodeIn false b)).1 with
  | nan => exact Nat.lt_trans hn (by decide)
  | inf neg =>
    simp only [Fmt.ofVal, hf, Bool.false_eq_true, if_false]
    exact below neg (Nat.le_refl _)
  | fin neg m e =>
    obtain h | ⟨x, hx, h⟩ := Fmt.round_cases hf 0 false neg m e false
    · rw [Fmt.ofVal, h]
      unfold Fmt.overflow
      rw [hf]
      exact below neg (Nat.le_refl _)
    · rw [Fmt.ofVal, h]
      exact below neg (Nat.le_trans hx hmax)

/-- The two halves of a packed sum are the sums of the halves. -/
theorem addHalves_halves {f : Fmt} (hf : f.isE4m3 = false) (hs : ∀ neg, f.signBit neg ≤ 32768) (hn : f.nanBits < 32768)
    (hi : f.infBits < 32768) (a b : Nat) :
    addHalves f a b % 65536 = (f.add 0 false false (a % 65536) (b % 65536)).1 ∧
      addHalves f a b / 65536 = (f.add 0 false false (a / 65536) (b / 65536)).1 := by
  have := Fmt.add_lt hf hs hn hi (a % 65536) (b % 65536)
  unfold addHalves
  omega

theorem toInt_lt_iff_sInt {w : Nat} (a b : BitVec w) : sInt w a.toNat < sInt w b.toNat ↔ a.toInt < b.toInt := by
  rw [sInt, sInt, BitVec.ofNat_toNat, BitVec.ofNat_toNat, BitVec.setWidth_eq, BitVec.setWidth_eq]

theorem atomMin_eq {w : Nat} (a b : BitVec w) : Nat.min a.toNat b.toNat = (if b < a then b else a).toNat := by
  show min _ _ = _
  split
  next h => exact Nat.min_eq_right (Nat.le_of_lt h)
  next h => exact Nat.min_eq_left (Nat.not_lt.mp h)

theorem atomMax_eq {w : Nat} (a b : BitVec w) : Nat.max a.toNat b.toNat = (if a < b then b else a).toNat := by
  show max _ _ = _
  split
  next h => exact Nat.max_eq_right (Nat.le_of_lt h)
  next h => exact Nat.max_eq_left (Nat.not_lt.mp h)

theorem toNat_ite_sInt {w : Nat} (a b x y : BitVec w) :
    (if sInt w a.toNat < sInt w b.toNat then x.toNat else y.toNat) = (if a.toInt < b.toInt then x else y).toNat := by
  rw [apply_ite BitVec.toNat]
  exact if_congr (toInt_lt_iff_sInt a b) rfl rfl

/-- Wrapping increment and decrement. -/
theorem atomWrap_eq (old b swap : BitVec 32) : atomNew 26 old.toNat b.toNat swap.toNat = (if b ≤ old then 0 else old + 1).toNat ∧
    atomNew 27 old.toNat b.toNat swap.toNat = (if old = 0 ∨ b < old then b else old - 1).toNat := by
  constructor
  · show (if b ≤ old then 0 else old.toNat + 1) = _
    split
    · rfl
    · bv_omega
  · have zero : old.toNat = 0 ↔ old = 0 := (BitVec.toNat_eq (x := old) (y := 0)).symm
    show (if old.toNat = 0 ∨ b < old then b.toNat else old.toNat - 1) = _
    simp only [zero]
    split
    · rfl
    next h =>
      rw [not_or] at h
      bv_omega

/-! ## The lanes of the checked pieces -/

theorem laneMap_flatMap_sorted {as : List LaneAcc} {g : LaneAcc → List Piece} (hg : ∀ a, ∀ p ∈ g a, p.lane = a.lane)
    (h : (as.map LaneAcc.lane).Pairwise (· ≤ ·)) : ((as.flatMap g).map (·.lane)).Pairwise (· ≤ ·) := by
  induction as with
  | nil => exact .nil
  | cons a as ih =>
    rw [List.map_cons, List.pairwise_cons] at h
    rw [List.flatMap_cons, List.map_append, List.pairwise_append]
    refine ⟨?_, ih h.2, fun x hx y hy => ?_⟩
    · refine List.pairwise_of_reflexive_of_forall_ne fun x hx y hy _ => ?_
      obtain ⟨p, hp, rfl⟩ := List.mem_map.mp hx
      obtain ⟨q, hq, rfl⟩ := List.mem_map.mp hy
      rw [hg a p hp, hg a q hq]
    · obtain ⟨p, hp, rfl⟩ := List.mem_map.mp hx
      obtain ⟨q, hq, rfl⟩ := List.mem_map.mp hy
      obtain ⟨b, hb, hq⟩ := List.mem_flatMap.mp hq
      rw [hg a p hp, hg b q hq]
      exact h.1 _ (List.mem_map_of_mem hb)

theorem Iss.checked_sorted {i : Iss} {tsc : W64} {as : List LaneAcc} {need : Need} {ps : List Piece} (h : i.checked tsc as need = .ok ps)
    (hs : (as.map LaneAcc.lane).Pairwise (· ≤ ·)) : (ps.map (·.lane)).Pairwise (· ≤ ·) := by
  unfold Iss.checked at h
  dsimp only at h
  split at h <;> try cases h
  · split at h <;> cases h
  · refine laneMap_flatMap_sorted (fun a p hp => ?_) hs
    split at hp
    · obtain ⟨x, -, rfl⟩ := List.mem_map.mp hp
      rfl
    · cases hp

theorem LaneAcc.judged_lane (a : LaneAcc) (s : State) (i : Iss) (need : Need) : (a.judged s i need).lane = a.lane := by
  unfold LaneAcc.judged
  split
  · dsimp only
    split
    · rfl
    · split
      · rfl
      · split <;> rfl
  · rfl

/-- The checked pieces stand in the order of their lanes. -/
theorem Iss.verdict_sorted {i : Iss} {s : State} {as : List LaneAcc} {need : Need} {ps : List Piece} (h : i.verdict s as need = .ok ps)
    (hs : (as.map LaneAcc.lane).Pairwise (· ≤ ·)) : (ps.map (·.lane)).Pairwise (· ≤ ·) := by
  unfold Iss.verdict at h
  dsimp only at h
  split at h
  · exact Iss.checked_sorted h hs
  · split at h
    · exact Iss.checked_sorted h hs
    · split at h
      · refine Iss.checked_sorted h ?_
        rw [List.map_map, show LaneAcc.lane ∘ (fun a : LaneAcc => a.judged s i need) = LaneAcc.lane from funext fun a => a.judged_lane s i need]
        exact hs
      · cases h

theorem maskLanes_sorted (m : Mask) : (maskLanes m).Pairwise (· ≤ ·) := by
  have all : lanes32.Pairwise (· ≤ ·) := by decide
  exact all.filter _

/-- Accesses of lanes in order. -/
theorem Iss.accesses_sorted (i : Iss) (s : State) (m : Mask) (width : Nat) (need : Need) (atomic : Bool) :
    ((i.accesses s (maskLanes m) width need atomic).map LaneAcc.lane).Pairwise (· ≤ ·) := by
  rw [Iss.accesses, List.map_map, show LaneAcc.lane ∘ _ = id from rfl, List.map_id]
  exact maskLanes_sorted m

/-! ## Lanes at unmapped stash offsets (R306) -/

/-- One lane's atomic at an unmapped stash offset: the team after it, and the old bytes. -/
def stashLane (mod : Nat) (vs : List Vec) (x : Team × List (Nat × Nat × List Byte)) (p : Piece) : Team × List (Nat × Nat × List Byte) :=
  match p.place with
  | .stash off =>
    let b := atomOperand mod vs p.lane
    let old := x.1.stashNat off (atomBytes mod)
    (x.1.stashWrite off (toLe (atomBytes mod) (atomNew mod old b.1.toNat b.2.toNat)), x.2 ++ [(p.lane, 0, toLe (atomBytes mod) old)])
  | _ => x

theorem Team.stashNat_congr {t u : Team} (h : t.stash = u.stash) (o n : Nat) : t.stashNat o n = u.stashNat o n :=
  congrArg leNat (Team.stashRead_congr h o n)

theorem stashLane_congr {mod : Nat} {vs : List Vec} {x y : Team × List (Nat × Nat × List Byte)} (h : x.1.stash = y.1.stash)
    (hg : x.2 = y.2) (p : Piece) :
    (stashLane mod vs x p).1.stash = (stashLane mod vs y p).1.stash ∧ (stashLane mod vs x p).2 = (stashLane mod vs y p).2 := by
  unfold stashLane
  split
  · dsimp only
    rw [Team.stashNat_congr h, hg]
    exact ⟨Team.stashWrite_congr h .., rfl⟩
  · exact ⟨h, hg⟩

/-- One lane's step of `State.stashAtomics`. -/
def Iss.stashStep (i : Iss) (vs : List Vec) (acc : State × List (Nat × Nat × List Byte)) (p : Piece) : State × List (Nat × Nat × List Byte) :=
  match p.place with
  | .stash o =>
    let old := (acc.1.teams.get? i.tid).elim 0 fun t => t.stashNat o (atomBytes i.f.mod.toNat)
    let b := atomOperand i.f.mod.toNat vs p.lane
    (acc.1.modTeam i.tid fun t => t.stashWrite o (toLe (atomBytes i.f.mod.toNat) (atomNew i.f.mod.toNat old b.1.toNat b.2.toNat)),
      acc.2 ++ [(p.lane, 0, toLe (atomBytes i.f.mod.toNat) old)])
  | _ => acc

theorem State.stashAtomics_eq (s : State) (i : Iss) (vs : List Vec) (ps : List Piece) :
    s.stashAtomics i vs ps = ps.foldl (i.stashStep vs) (s, []) := rfl

theorem Iss.stashStep_sameWaves (i : Iss) (vs : List Vec) (acc : State × List (Nat × Nat × List Byte)) (p : Piece) :
    acc.1.SameWaves (i.stashStep vs acc p).1 := by
  unfold Iss.stashStep
  split
  · exact .modTeam _ _ _ fun t => t.stashWrite_waves ..
  · exact .refl _

theorem Iss.foldl_stashStep_sameWaves (i : Iss) (vs : List Vec) (ps : List Piece) (acc : State × List (Nat × Nat × List Byte)) :
    acc.1.SameWaves (ps.foldl (i.stashStep vs) acc).1 := by
  induction ps generalizing acc with
  | nil => exact .refl _
  | cons p ps ih => exact (i.stashStep_sameWaves vs acc p).trans (ih _)

/-- One lane's step is `stashLane` at the subset's team. -/
theorem Iss.stashStep_lane (i : Iss) (vs : List Vec) {acc : State × List (Nat × Nat × List Byte)} {tm : Team}
    (ht : acc.1.teams.get? i.tid = some tm) (p : Piece) :
    ((i.stashStep vs acc p).1.teams.get? i.tid = some (stashLane i.f.mod.toNat vs (tm, acc.2) p).1) ∧
      (i.stashStep vs acc p).2 = (stashLane i.f.mod.toNat vs (tm, acc.2) p).2 := by
  unfold Iss.stashStep stashLane
  split
  · dsimp only
    rw [State.modTeam_get?_same, ht]
    exact ⟨rfl, rfl⟩
  · exact ⟨ht, rfl⟩

/-- The lanes are performed one after another, each on what the ones before left. -/
theorem Iss.foldl_stashStep (i : Iss) (vs : List Vec) (ps : List Piece) {acc : State × List (Nat × Nat × List Byte)} {tm : Team}
    (ht : acc.1.teams.get? i.tid = some tm) :
    ((ps.foldl (i.stashStep vs) acc).1.teams.get? i.tid = some (ps.foldl (stashLane i.f.mod.toNat vs) (tm, acc.2)).1) ∧
      (ps.foldl (i.stashStep vs) acc).2 = (ps.foldl (stashLane i.f.mod.toNat vs) (tm, acc.2)).2 := by
  induction ps generalizing acc tm with
  | nil => exact ⟨ht, rfl⟩
  | cons p ps ih =>
    obtain ⟨ht', hg⟩ := i.stashStep_lane vs ht p
    obtain ⟨h1, h2⟩ := ih ht'
    rw [hg] at h1 h2
    exact ⟨h1, h2⟩

theorem foldl_stashLane_congr {mod : Nat} {vs : List Vec} (ps : List Piece) {x y : Team × List (Nat × Nat × List Byte)}
    (h : x.1.stash = y.1.stash) (hg : x.2 = y.2) :
    (ps.foldl (stashLane mod vs) x).1.stash = (ps.foldl (stashLane mod vs) y).1.stash ∧
      (ps.foldl (stashLane mod vs) x).2 = (ps.foldl (stashLane mod vs) y).2 := by
  induction ps generalizing x y with
  | nil => exact ⟨h, hg⟩
  | cons p ps ih =>
    obtain ⟨h', hg'⟩ := stashLane_congr h hg p
    exact ih h' hg'

/-! ## The start of an atomic or a reduction -/

theorem State.KeepsTeams.contribute (s : State) (x : Nat) (ms : List (List Byte)) : s.KeepsTeams (s.contribute x ms) := by
  unfold State.contribute
  split
  · exact .refl s
  · split
    · exact .refl s
    · exact .ite (.refl s) (.modTeam _ _ _ (fun _ => rfl) fun _ => rfl)

/-- Without channel operands nothing is popped. -/
theorem State.popSources_of_chans (s : State) {i : Iss} (h : i.chans = []) : s.popSources i = s := by
  have nothing : i.popList = [] := by rw [Iss.popList, h]; rfl
  unfold State.popSources State.popAll
  rw [nothing]
  exact ite_self s

/-- An atomic whose pieces are all at unmapped stash offsets asks nobody. -/
theorem Iss.atomRequests_of_stash (i : Iss) (s : State) (op : Nat) (vs : List Vec) {ps : List Piece} (isRed : Bool)
    (h : ∀ p ∈ ps, ∃ off, p.place = .stash off) : i.atomRequests s op vs (ps.filter fun p => !p.place.isStash) isRed = [] := by
  have nothing : (ps.filter fun p => !p.place.isStash) = [] := by
    refine List.filter_eq_nil_iff.mpr fun p hp => ?_
    obtain ⟨off, ho⟩ := h p hp
    rw [ho]
    exact Bool.false_ne_true
  rw [nothing]
  rfl

section
variable {opc : Nat} {f : Form} {s : State} {i : Iss} {ps : List Piece}

/-- ATOM and RED that go: the operation that starts, and what the stash holds. -/
theorem atomic_starts {body : Iss → Eff} {isRed : Bool} (h : Executes opc f s i) (hb : body i = i.atomic s isRed)
    (hv : i.verdict s (i.accesses s (maskLanes i.act) (atomBytes f.mod.toNat) ⟨!isRed, true, false⟩ true) ⟨!isRed, true, false⟩ = .ok ps)
    (hw : i.atomicWait (s.fillTlbs i (i.accesses s (maskLanes i.act) (atomBytes f.mod.toNat) ⟨!isRed, true, false⟩ true))
      (i.accesses s (maskLanes i.act) (atomBytes f.mod.toNat) ⟨!isRed, true, false⟩ true) ps = none)
    (ht : ∀ ts, atomSrcTags f.mod.toNat = some ts → i.checkTag 3 i.act (i.srcB s) ts = none) :
    ∃ u o, issue opc f s body = .next u ∧ i.Begins u o ∧ o.kind = (if isRed then .red else .atom f.mod) ∧ o.counted = some 0 ∧
      o.pieces = ps ∧ o.lanes = i.act ∧ o.dst = f.dst ∧ o.got = (ps.foldl (stashLane f.mod.toNat (i.srcB s)) (i.team, [])).2 ∧
      ((∀ p ∈ ps, ∃ off, p.place = .stash off) → o.need = 0) ∧
      (i.chans = [] → ∃ tm, u.teams.get? i.tid = some tm ∧
        tm.stash = (ps.foldl (stashLane f.mod.toNat (i.srcB s)) (i.team, [])).1.stash) := by
  obtain rfl := h.form
  have tags : ((atomSrcTags i.f.mod.toNat).bind fun ts => i.checkTag 3 i.act (i.srcB s) ts) = none := Option.bind_eq_none_iff.mpr ht
  unfold Iss.atomic at hb
  dsimp only at hb
  rw [tags] at hb
  dsimp only at hb
  rw [hv] at hb
  dsimp only at hb
  rw [hw] at hb
  dsimp only at hb
  generalize i.accesses s (maskLanes i.act) (atomBytes i.f.mod.toNat) ⟨!isRed, true, false⟩ true = as at hb
  have before : s.KeepsTeams ((s.fillTlbs i as).beforeAtomic i ps) := (State.KeepsTeams.fillTlbs s i as).trans (.beforeAtomic _ i ps)
  generalize (s.fillTlbs i as).beforeAtomic i ps = s₁ at hb before
  obtain ⟨tm₁, ht₁, same₁⟩ := before.stash.team h.team
  rw [State.stashAtomics_eq] at hb
  obtain ⟨ht₂, got⟩ := i.foldl_stashStep (i.srcB s) ps (acc := (s₁, [])) ht₁
  have waves := i.foldl_stashStep_sameWaves (i.srcB s) ps (s₁, [])
  obtain ⟨same₂, got'⟩ := foldl_stashLane_congr (mod := i.f.mod.toNat) (vs := i.srcB s) ps (x := (tm₁, [])) (y := (i.team, [])) same₁ rfl
  generalize ps.foldl (i.stashStep (i.srcB s)) (s₁, []) = r at hb ht₂ got waves
  have left (t : State) (g : Core → Core) : t.KeepsTeams ((t.modCore i.team.core g).sendAtoms i.team.core 64) :=
    .trans (.modCore ..) (.sendAtoms ..)
  have digested (t : State) (ms : List (List Byte)) : t.KeepsTeams (if isRed = true then t.contribute i.tid ms else t) :=
    .ite (.contribute ..) (.refl t)
  refine ⟨_, _, issue_done h hb, .of_progress_mem h.wave
    (.trans (before.progress.trans waves.progress) ((State.popSources_sameWaves r.1 i).progress.trans (digested _ _).progress))
    (left _ _).progress, rfl, rfl, rfl, rfl, rfl, got.trans got', fun hs => ?_, fun hc => ?_⟩
  · show (i.atomRequests r.1 _ _ _ isRed).length = 0
    rw [i.atomRequests_of_stash _ _ _ isRed hs]
    rfl
  · rw [State.popSources_of_chans _ hc]
    obtain ⟨tm, htm, same⟩ := ((digested r.1 _).stash.trans ((State.KeepsStash.beginMem _ i _).trans ((left _ _).stash.trans (.ends _ i)))).team ht₂
    exact ⟨tm, htm, same.trans same₂⟩
end

end Sys2Proof.Machine
end

section
/-! PROOFS. Atomics and reductions (O33). -/

namespace Sys2Proof.Machine

/-- What the atomic operations compute, as O33 states it. -/
theorem atomNew_computes (old b swap : BitVec 32) (x y z : BitVec 64) :
    atomNew 0 old.toNat b.toNat swap.toNat = (old + b).toNat ∧
    atomNew 1 x.toNat y.toNat z.toNat = (x + y).toNat ∧
    atomNew 18 old.toNat b.toNat swap.toNat = (if old = b then swap else old).toNat ∧
    atomNew 19 x.toNat y.toNat z.toNat = (if x = y then z else x).toNat := by
  refine ⟨(BitVec.toNat_add ..).symm, (BitVec.toNat_add ..).symm, ?_, ?_⟩
  · rw [apply_ite BitVec.toNat]
    exact if_congr (BitVec.toNat_eq (x := old) (y := b)).symm rfl rfl
  · rw [apply_ite BitVec.toNat]
    exact if_congr (BitVec.toNat_eq (x := x) (y := y)).symm rfl rfl

theorem atomNew_halves (old b swap : BitVec 32) : ∀ p ∈ [(24, fmtF16), (25, fmtBf16)],
    atomNew p.1 old.toNat b.toNat swap.toNat % 65536 = (p.2.add 0 false false (old.toNat % 65536) (b.toNat % 65536)).1 ∧
    atomNew p.1 old.toNat b.toNat swap.toNat / 65536 = (p.2.add 0 false false (old.toNat / 65536) (b.toNat / 65536)).1 := by
  intro p hp
  rcases List.mem_cons.mp hp with rfl | hp
  · exact addHalves_halves rfl (by decide) (by decide) (by decide) _ _
  · obtain rfl := List.mem_singleton.mp hp
    exact addHalves_halves rfl (by decide) (by decide) (by decide) _ _

/-- The stash after one lane's atomic: the new value at its offset, every other byte as it was. -/
theorem stashLane_single {tm tm' : Team} {off w v : Nat}
    (h : tm'.stash = (tm.stashWrite off (toLe w v)).stash) :
    tm'.stashNat off w = v % 2 ^ (8 * w) ∧ ∀ a n, a + n ≤ off ∨ off + w ≤ a → tm'.stashRead a n = tm.stashRead a n := by
  have whole := tm.stashRead_stashWrite off (toLe w v)
  rw [toLe_length] at whole
  refine ⟨?_, fun a n out => ?_⟩
  · rw [Team.stashNat_congr h, Team.stashNat, whole, leNat_toLe, Nat.pow_mul]
  · rw [Team.stashRead_congr h, Team.stashRead_stashWrite_outside _ _ _ (by rwa [toLe_length])]

/-- Settles O33. -/
theorem atomicOperations : Obligations.AtomicOperations := by
  refine ⟨?_, fun old b swap x y z => ?_⟩
  · intro f s i ps mod w vs goes lane starts
    have started {ins : Instr} {body : Iss → Eff} {opc : Nat} {isRed : Bool} (h : Executes opc f s i) (he : exec ins s = issue opc f s body)
        (hb : body i = i.atomic s isRed) (hg : goes ⟨!isRed, true, false⟩) : starts ins (if isRed then .red else .atom f.mod) := by
      obtain ⟨hv, hw, ht⟩ := hg
      obtain ⟨u, o, hu, hbegins, hk, hc, hp, hl, hd, hgot, hneed, hstash⟩ := atomic_starts h hb hv hw ht
      refine ⟨u, o, he.trans hu, hbegins, hk, hc, hp, hl, hd, fun hs hch _ => ?_, ?_⟩
      · obtain ⟨tm, htm, same⟩ := hstash hch
        exact ⟨tm, htm, hneed hs, Iss.verdict_sorted hv (i.accesses_sorted ..), hgot, same⟩
      · rintro l off va rfl hch -
        obtain ⟨tm, htm, same⟩ := hstash hch
        exact ⟨tm, htm, hgot, stashLane_single same⟩
    exact ⟨fun h hg => started (isRed := false) h rfl rfl hg, fun h hg => started (isRed := true) h rfl rfl hg⟩
  · obtain ⟨add32, add64, cas32, cas64⟩ := atomNew_computes old b swap x y z
    obtain ⟨inc, dec⟩ := atomWrap_eq old b swap
    exact ⟨add32, add64, toNat_ite_sInt b old b old, atomMin_eq old b, toNat_ite_sInt old b b old, atomMax_eq old b, toNat_ite_sInt y x y x,
      atomMin_eq x y, toNat_ite_sInt x y y x, atomMax_eq x y, (BitVec.toNat_and ..).symm, (BitVec.toNat_or ..).symm,
      (BitVec.toNat_xor ..).symm, (BitVec.toNat_and ..).symm, (BitVec.toNat_or ..).symm, (BitVec.toNat_xor ..).symm, rfl, rfl, cas32, cas64,
      rfl, rfl, rfl, rfl, atomNew_halves old b swap, inc, dec⟩

end Sys2Proof.Machine
end

section
/-! SUPPORT. Barrier instructions (R360-R377): homes of lines, what an operation on a stash object leaves of waves and of the stash, and the
start of a counted operation. -/

namespace Sys2Proof.Machine

/-! ## Homes of lines -/

/-- A state in which every line has the home slice that it had. -/
structure State.KeepsHomes (s t : State) : Prop where
  owners : t.granuleOwner = s.granuleOwner
  shares : ∀ p, (t.part p).share = (s.part p).share

section
variable {s t u : State}

theorem State.KeepsHomes.refl (s : State) : s.KeepsHomes s := ⟨rfl, fun _ => rfl⟩

theorem State.KeepsHomes.trans (h : s.KeepsHomes t) (k : t.KeepsHomes u) : s.KeepsHomes u :=
  ⟨k.owners.trans h.owners, fun p => (k.shares p).trans (h.shares p)⟩

theorem State.KeepsHomes.ite {p : Prop} [Decidable p] (h : s.KeepsHomes t) (k : s.KeepsHomes u) : s.KeepsHomes (if p then t else u) := by
  split
  · exact h
  · exact k

theorem State.KeepsHomes.foldl {α : Type} (f : State → α → State) (hf : ∀ (s : State) (a : α), s.KeepsHomes (f s a)) (l : List α)
    (s : State) : s.KeepsHomes (l.foldl f s) := by
  induction l generalizing s with
  | nil => exact .refl s
  | cons a l ih => exact (hf s a).trans (ih _)

theorem State.KeepsHomes.of_parts (ho : t.granuleOwner = s.granuleOwner) (hp : t.parts = s.parts) : s.KeepsHomes t :=
  ⟨ho, fun p => by rw [State.part_congr s t hp]⟩

theorem State.KeepsHomes.homeOf (h : s.KeepsHomes t) (line : Nat) : t.homeOf line = s.homeOf line := by
  have ho : t.ownerOf = s.ownerOf := funext fun pa => by rw [State.ownerOf, h.owners, State.ownerOf]
  rw [State.homeOf, ho, h.shares, State.homeOf]

theorem State.KeepsHomes.modPart (s : State) (k : Nat) (f : Part → Part) (hf : ∀ p, (f p).share = p.share) : s.KeepsHomes (s.modPart k f) := by
  refine ⟨rfl, fun p => ?_⟩
  by_cases h : p = k
  · subst h
    rw [State.part_modPart_same, hf]
  · rw [State.part_modPart_other _ _ _ _ h]

theorem State.KeepsHomes.modTeam (s : State) (k : Nat) (f : Team → Team) : s.KeepsHomes (s.modTeam k f) :=
  .of_parts (by simp) (by simp)

theorem State.KeepsHomes.modCore (s : State) (k : Nat) (f : Core → Core) : s.KeepsHomes (s.modCore k f) := .of_parts rfl rfl

theorem State.KeepsHomes.modSlice (s : State) (k : Nat) (f : Slice → Slice) : s.KeepsHomes (s.modSlice k f) := .of_parts rfl rfl

theorem State.KeepsHomes.sendReq (s : State) (core : Nat) (asker : Asker) (dom : Dom) (line key : Nat) (kind : ReqKind) (tm : Terms)
    (h : Bool) : s.KeepsHomes (s.sendReq core asker dom line key kind tm h).1 := by
  unfold State.sendReq
  split <;> exact .of_parts rfl rfl

theorem State.KeepsHomes.spillLine (s : State) (k line net : Nat) (tm : Terms) : s.KeepsHomes (s.spillLine k line net tm) := by
  unfold State.spillLine
  split
  · exact .refl s
  · dsimp only
    refine .trans (.ite (.refl s) ?_) (.modSlice ..)
    exact .of_parts rfl rfl

theorem State.KeepsHomes.sliceRoom (s : State) (k line net : Nat) (tm : Terms) : s.KeepsHomes (s.sliceRoom k line net tm) := by
  unfold State.sliceRoom
  refine .ite (.refl s) ?_
  split
  · exact .spillLine ..
  · exact .refl s

theorem State.KeepsHomes.noteQcmd (s : State) (pa : Nat) (m : BitVec 64) : s.KeepsHomes (s.noteQcmd pa m) := by
  unfold State.noteQcmd
  exact .ite (.of_parts rfl rfl) (.refl s)

theorem State.KeepsHomes.mergeSector (s : State) (pa key : Nat) (x : Sector) (m : BitVec 64) (net : Nat) (tm : Terms) :
    s.KeepsHomes (s.mergeSector pa key x m net tm) := by
  unfold State.mergeSector
  refine (State.KeepsHomes.noteQcmd s pa m).trans ?_
  dsimp only
  split
  · obtain ⟨a, bs, e⟩ := (s.noteQcmd pa m).storeSector_writes pa key x m
    rw [e]
    exact .of_parts rfl rfl
  · exact .trans (.sliceRoom ..) (.modSlice ..)

theorem State.KeepsHomes.mergeBytes (s : State) (pa key : Nat) (bs : List Byte) (net : Nat) (tm : Terms) :
    s.KeepsHomes (s.mergeBytes pa key bs net tm) := .foldl _ (fun s _ => .mergeSector s ..) _ s

theorem State.KeepsHomes.freeBytes (s : State) (n : Nat) : s.KeepsHomes (s.freeBytes n).1 := by
  induction n generalizing s with
  | zero => exact .refl s
  | succ n ih => exact .trans (t := s.fresh.2) (.of_parts rfl rfl) (ih _)

theorem State.KeepsHomes.undefinePage (s : State) (x va : Nat) : s.KeepsHomes (s.undefinePage x va) := by
  unfold State.undefinePage
  split
  · exact .refl s
  · split
    · exact .refl s
    · split
      · exact .ite (.trans (.trans (.freeBytes s _) (.mergeBytes ..)) (.modTeam ..)) (.refl s)
      · exact .refl s

theorem State.KeepsHomes.fillTlbs (s : State) (i : Iss) (as : List LaneAcc) : s.KeepsHomes (s.fillTlbs i as) := by
  refine .trans (.foldl _ (fun s _ => .foldl _ (fun s _ => .undefinePage s ..) _ s) _ s)
    (.foldl _ (fun s _ => .foldl _ (fun s _ => ?_) _ s) _ _)
  unfold State.fillTlb
  split
  · exact .ite (.refl s) (.modCore ..)
  · exact .refl s

theorem State.KeepsHomes.failWriteBack (s : State) (x : Nat) (tm : Team) (ln : Launch) (va : Nat) (a : Acc) :
    s.KeepsHomes (s.failWriteBack x tm ln va a) := by
  unfold State.failWriteBack
  split
  · exact .refl s
  · exact .ite (.refl s) (.modPart _ _ _ fun _ => rfl)
  · exact .modPart _ _ _ fun _ => rfl

theorem State.KeepsHomes.cleanStash (s : State) (x osec : Nat) (drop : Bool) (terms : Terms) :
    s.KeepsHomes (s.cleanStash x osec drop terms) := by
  unfold State.cleanStash
  split
  · exact .refl s
  · split
    · have kept (u : State) (core sec : Nat) (f : Option MapSec → Option MapSec) :
          u.KeepsHomes ((if drop then u.modCore core fun c => c.dropSectorReuse sec else u).modTeam x fun tm => tm.setMapSec osec f) :=
        .trans (.ite (.modCore ..) (.refl u)) (.modTeam ..)
      refine .ite (kept ..) (.ite (.refl s) ?_)
      split
      · refine .trans (.trans (.trans (.foldl _ (fun s d => ?_) _ s) (.foldl _ (fun s _ => .modTeam s ..) _ _)) (kept ..)) (.modCore ..)
        exact .ite (.refl s) (.trans (.sendReq s ..) (.modCore ..))
      · exact .failWriteBack ..
    · exact .refl s

theorem State.KeepsHomes.endReuse (s : State) (core : Nat) (ps : List Place) : s.KeepsHomes (s.endReuse core ps) := by
  refine .foldl _ (fun s p => ?_) _ s
  split
  · exact .modCore ..
  · exact .refl s
end

/-! ## Stations after an instruction's end -/

/-- A state with the stations that it had. -/
def State.SameStations (s t : State) : Prop := t.stations = s.stations

theorem State.SameStations.stashTouched (s : State) (t o n : Nat) : s.SameStations (s.stashTouched t o n) := by
  unfold State.stashTouched
  split
  · rfl
  · dsimp only
    split <;> rfl

theorem State.SameStations.popSources (s : State) (i : Iss) : s.SameStations (s.popSources i) := by
  unfold State.popSources State.popAll
  split
  · rfl
  · refine foldl_keeps State.stations (fun s p => ?_) _ s
    unfold State.chanPop
    split
    · rfl
    · exact (State.SameStations.stashTouched ..).trans (State.modTeam_stations ..)
    · rfl
    · rfl

theorem State.SameStations.dropProbes (s : State) (t w core : Nat) : s.SameStations (s.dropProbes t w core) := by
  unfold State.dropProbes
  split <;> rfl

theorem State.SameStations.beginMem (s : State) (i : Iss) (o : Op) : s.SameStations (s.beginMem i o) := by
  refine Eq.trans ?_ (State.SameStations.dropProbes s i.tid i.wid i.team.core)
  unfold State.beginMem State.beginOp State.issuedNext
  dsimp only
  split <;> simp

theorem State.SameStations.ends (s : State) (i : Iss) : s.SameStations (i.ends s) := by
  unfold Iss.ends Iss.wakes
  split
  · rfl
  · show s.channelWake.stations = s.stations
    rw [s.channelWake_onlyWakes.rest]

/-! ## Operations on stash objects -/

theorem Wave.wake_progress (w : Wave) (now : Nat) (p : Wait → Bool) : (w.wake now p).progress = w.progress := rfl

theorem State.KeepsProgress.stashTouched (s : State) (x o n : Nat) : s.KeepsProgress (s.stashTouched x o n) :=
  (State.SameWaves.stashTouched s x o n).progress

theorem State.KeepsProgress.stashPut (s : State) (x off : Nat) (bs : List Byte) : s.KeepsProgress (s.stashPut x off bs) :=
  .trans (.modTeam _ _ _ fun tm => tm.stashWrite_waves off bs) (.stashTouched ..)

theorem State.KeepsProgress.inheritAnew (s : State) (x : Nat) : s.KeepsProgress (s.inheritAnew x) := by
  unfold State.inheritAnew
  split
  · exact .refl s
  · refine .foldl _ (fun s w => ?_) _ s
    exact .modWave _ _ _ _ fun _ => rfl

/-- The waiters of a stash object whose phase has passed become READY, and what any of them lent is dropped. -/
def State.wakeMet (s : State) (x off : Nat) (tm : Team) : State :=
  tm.waves.foldl (fun s w => s.modWave x w.1 fun wv => (wv.relend off (BitVec.allOnes 64)).wake s.time fun y =>
    match y.wake with
    | .bwait true a ph => a == off && barHolds (tm.stashRead off 64) ph
    | _ => false) s

/-- The waiters that stay register again, and lend to the open phase. -/
def State.relendAll (u : State) (x off : Nat) : State :=
  (u.teams.get? x).elim u fun tm => tm.waves.foldl (fun s w =>
    if w.2.waits.any (·.isAt off) then
      let d := s.effective x w.1
      let loan := (s.teams.get? x).elim (BitVec.allOnes 64) fun tm => barLoan (tm.stashRead off 64) d
      (s.stashPut x off (barLend ((s.teams.get? x).elim [] fun tm => tm.stashRead off 64) d.toNat)).modWave x w.1 fun wv => wv.relend off loan
    else s) u

theorem State.wakeLocal_eq (s : State) (x off : Nat) :
    s.wakeLocal x off = (s.teams.get? x).elim s fun tm => ((s.wakeMet x off tm).inheritAnew x).relendAll x off := by
  unfold State.wakeLocal
  cases s.teams.get? x <;> rfl

theorem State.KeepsProgress.wakeMet (s : State) (x off : Nat) (tm : Team) : s.KeepsProgress (s.wakeMet x off tm) := by
  refine .foldl _ (fun s w => ?_) _ s
  exact .modWave _ _ _ _ fun _ => rfl

theorem State.KeepsProgress.relendAll (s : State) (x off : Nat) : s.KeepsProgress (s.relendAll x off) := by
  unfold State.relendAll
  cases s.teams.get? x with
  | none => exact .refl s
  | some tm =>
    refine .foldl _ (fun s w => ?_) _ s
    split
    · exact (State.KeepsProgress.stashPut s x off _).trans (.modWave _ _ _ _ fun _ => rfl)
    · exact .refl s

theorem State.KeepsProgress.wakeLocal (s : State) (x off : Nat) : s.KeepsProgress (s.wakeLocal x off) := by
  rw [State.wakeLocal_eq]
  cases s.teams.get? x with
  | none => exact .refl s
  | some tm => exact .trans (.trans (.wakeMet ..) (.inheritAnew ..)) (.relendAll ..)

theorem State.KeepsProgress.stashBarrier (s : State) (x off : Nat) (op : BarOp) : s.KeepsProgress (s.stashBarrier x off op).1 := by
  unfold State.stashBarrier
  split
  · exact .refl s
  · exact .trans (.trans (.stashPut ..) (.ite (.wakeLocal ..) (.refl _))) (.inheritAnew ..)

/-- A team's stash has some bytes in the first half of a barrier object, and outside the object what a team had. -/
structure State.ObjectIs (s : State) (x off : Nat) (base : Team) (v : List Byte) : Prop where
  team : ∃ tm, s.teams.get? x = some tm ∧ tm.stashRead off 32 = v ∧
    ∀ a k, a + k ≤ off ∨ off + 64 ≤ a → tm.stashRead a k = base.stashRead a k

section
variable {s t : State} {x off : Nat} {base : Team} {v : List Byte}

theorem State.ObjectIs.of_stash (h : s.ObjectIs x off base v) (k : s.KeepsStash t) : t.ObjectIs x off base v := by
  obtain ⟨tm, ht, hv, ho⟩ := h.team
  obtain ⟨tm', ht', same⟩ := k.team ht
  exact ⟨tm', ht', (Team.stashRead_congr same ..).trans hv, fun a k out => (Team.stashRead_congr same ..).trans (ho a k out)⟩

theorem Team.stashRead_length (tm : Team) (o n : Nat) : (tm.stashRead o n).length = n := by
  rw [Team.stashRead, List.length_map, List.length_range]

theorem Team.stashRead_take (tm : Team) (o : Nat) {n m : Nat} (h : m ≤ n) : (tm.stashRead o n).take m = tm.stashRead o m := by
  rw [Team.stashRead, Team.stashRead, ← List.map_take, List.take_range, Nat.min_eq_left h]

/-- An object of 64 bytes written to the stash. -/
theorem State.ObjectIs.stashPut {tm : Team} {bs : List Byte} (ht : s.teams.get? x = some tm) (hb : bs.length = 64) (hv : bs.take 32 = v)
    (ho : ∀ a k, a + k ≤ off ∨ off + 64 ≤ a → tm.stashRead a k = base.stashRead a k) : (s.stashPut x off bs).ObjectIs x off base v := by
  refine State.ObjectIs.of_stash (s := s.modTeam x fun tm => tm.stashWrite off bs) ⟨tm.stashWrite off bs, ?_, ?_, fun a k out => ?_⟩
    (State.KeepsTeams.stashTouched ..).stash
  · rw [State.modTeam_get?_same, ht]
    rfl
  · have whole := tm.stashRead_stashWrite off bs
    rw [hb] at whole
    rw [← hv, ← Team.stashRead_take _ off (by decide : 32 ≤ 64), whole]
  · rw [Team.stashRead_stashWrite_outside _ _ _ (by rwa [hb]), ho a k out]

theorem putBytes_take {o bs : List Byte} {k : Nat} (hk : k ≤ o.length) : (putBytes o k bs).take k = o.take k := by
  rw [putBytes, List.append_assoc, List.take_append_of_le_length (by rw [List.length_take, Nat.min_eq_left hk]), List.take_take, Nat.min_self]

theorem barLend_length {o : List Byte} (h : o.length = 64) (d : Nat) : (barLend o d).length = 64 :=
  (putBytes_length (by rw [toLe_length, h]; decide)).trans h

theorem State.ObjectIs.lend (h : s.ObjectIs x off base v) (d : Nat) :
    (s.stashPut x off (barLend ((s.teams.get? x).elim [] fun tm => tm.stashRead off 64) d)).ObjectIs x off base v := by
  obtain ⟨tm, ht, hv, ho⟩ := h.team
  rw [ht]
  have long := tm.stashRead_length off 64
  refine .stashPut ht (barLend_length long d) ?_ ho
  rw [Option.elim_some, barLend, putBytes_take (by rw [long]; decide), Team.stashRead_take _ _ (by decide), hv]

theorem State.ObjectIs.foldl {α : Type} {f : State → α → State} (hf : ∀ s a, State.ObjectIs s x off base v → (f s a).ObjectIs x off base v)
    (l : List α) (h : s.ObjectIs x off base v) : (l.foldl f s).ObjectIs x off base v := by
  induction l generalizing s with
  | nil => exact h
  | cons a l ih => exact ih (hf s a h)

theorem State.ObjectIs.modWave (h : s.ObjectIs x off base v) (y w : Nat) (f : Wave → Wave) : (s.modWave y w f).ObjectIs x off base v :=
  h.of_stash (.modWave ..)

theorem State.ObjectIs.inheritAnew (h : s.ObjectIs x off base v) (y : Nat) : (s.inheritAnew y).ObjectIs x off base v := by
  unfold State.inheritAnew
  split
  · exact h
  · exact .foldl (fun s _ h => h.modWave ..) _ h

theorem State.ObjectIs.relendAll (h : s.ObjectIs x off base v) : (s.relendAll x off).ObjectIs x off base v := by
  unfold State.relendAll
  cases s.teams.get? x with
  | none => exact h
  | some tm =>
    refine .foldl (fun s w h => ?_) tm.waves h
    split
    · exact (h.lend _).modWave ..
    · exact h

theorem State.ObjectIs.wakeMet (h : s.ObjectIs x off base v) (tm : Team) : (s.wakeMet x off tm).ObjectIs x off base v := by
  refine .foldl (fun s w h => ?_) tm.waves h
  exact h.modWave ..

theorem State.ObjectIs.wakeLocal (h : s.ObjectIs x off base v) : (s.wakeLocal x off).ObjectIs x off base v := by
  rw [State.wakeLocal_eq]
  cases s.teams.get? x with
  | none => exact h
  | some tm => exact ((h.wakeMet tm).inheritAnew x).relendAll

/-- An operation on a stash object: the value that it answers, and the object and the stash after it. -/
theorem State.stashBarrier_object {tm : Team} (ht : s.teams.get? x = some tm) (op : BarOp)
    (same : tm.stash = base.stash) :
    (s.stashBarrier x off op).2 = (op.apply (base.stashRead off 64) false).2.1 ∧
      ((op.apply (base.stashRead off 64) false).1.length = 64 →
        (s.stashBarrier x off op).1.ObjectIs x off base ((op.apply (base.stashRead off 64) false).1.take 32)) := by
  unfold State.stashBarrier
  rw [ht]
  dsimp only
  rw [Team.stashRead_congr same]
  refine ⟨rfl, fun long => .inheritAnew ?_ x⟩
  have put := State.ObjectIs.stashPut (off := off) ht long rfl fun a k _ => Team.stashRead_congr same a k
  split
  · exact put.wakeLocal
  · exact put
end

/-! ## The start of a counted barrier operation -/

section
variable {opc : Nat} {f : Form} {s : State} {i : Iss} {as : List LaneAcc} {p : Piece}

/-- An object that is not in the stash and not behind a peer window lies at a physical address. -/
theorem Place.pa_of_slice {pl : Place} (hs : ∀ off, pl ≠ .stash off) (hp : pl.isPeer = false) : ∃ pa key, pl.pa? = some (pa, key) := by
  cases pl with
  | stash off => exact absurd rfl (hs off)
  | mapped o pa key => exact ⟨pa, key, rfl⟩
  | phys pa key => exact ⟨pa, key, rfl⟩
  | priv pa key => exact ⟨pa, key, rfl⟩
  | peer pa key => cases hp
  | remote => cases hp

/-- What an operation does at a slice object before its request leaves: a mapped sector is written back, load reuse ends, and a write
commits visibly (R271, R145, R89). -/
def State.beforeBarrier (s : State) (i : Iss) (pl : Place) (wr : Bool) : State :=
  let s := match pl with | .mapped off _ _ => s.cleanStash i.tid (off / 64) true i.terms | _ => s
  let s := s.endReuse i.team.core [pl]
  if wr then s.modTeam i.tid fun t => { t with fvc := true } else s

theorem State.KeepsTeams.beforeBarrier (s : State) (i : Iss) (pl : Place) (wr : Bool) : s.KeepsTeams (s.beforeBarrier i pl wr) := by
  unfold State.beforeBarrier
  refine .trans (.trans ?_ (.endReuse ..)) (.ite (.modTeam _ _ _ (fun _ => rfl) fun _ => rfl) (.refl _))
  split
  · exact .cleanStash ..
  · exact .refl s

theorem State.KeepsHomes.beforeBarrier (s : State) (i : Iss) (pl : Place) (wr : Bool) : s.KeepsHomes (s.beforeBarrier i pl wr) := by
  unfold State.beforeBarrier
  refine .trans (.trans ?_ (.endReuse ..)) (.ite (.modTeam ..) (.refl _))
  split
  · exact .cleanStash ..
  · exact .refl s

/-- The operation of a barrier instruction, before it is known where the object lies. -/
def Iss.barrierOp (i : Iss) (s : State) (reply : Bool) (p : Piece) : Op :=
  { i.memOp s (.barrier reply) ((maskLanes i.act).map fun l => { p with lane := l }) with regs := i.dstRegs, dom := .sc, isRemote := false }

/-- A barrier instruction that goes. -/
theorem Iss.barrier_goes {wr rel reply : Bool} {op : Bool → BarOp} (ho : i.barObject s wr = .ok (as, p))
    (hg : i.BarrierGoes (s.fillTlbs i as) p rel) :
    i.barrier s wr rel reply none op = match p.place with
      | .stash off =>
        let r := (s.fillTlbs i as).stashBarrier i.tid off (op false)
        .done ((r.1.popSources i).beginMem i { i.barrierOp (s.fillTlbs i as) reply p with got := [(0, 0, toLe 4 r.2)] })
      | pl => match pl.pa? with
        | none => .stall
        | some (pa, key) =>
          .done (((((s.fillTlbs i as).beforeBarrier i pl wr).sendReq i.team.core (.op i.tid i.wid (s.fillTlbs i as).nextOp) .sc (pa / 256) key
            (.bar (pa % 256) (op true)) i.terms false).1.popSources i).beginMem i { i.barrierOp (s.fillTlbs i as) reply p with need := 1 }) := by
  obtain ⟨access, lines, released⟩ := hg
  have dirty := List.any_eq_false.mpr fun l hl => Bool.eq_false_iff.mp (lines l hl).1
  have out := List.any_eq_false.mpr fun l hl => Bool.eq_false_iff.mp (lines l hl).2
  have rel' : (if rel = true then (s.fillTlbs i as).release i (s.fillTlbs i as).nextOp allDoms i.scope else none) = none := by
    split
    next h => exact released h
    · rfl
  unfold Iss.barrier Iss.barrierOp
  rw [ho]
  dsimp only
  rw [if_neg (Bool.eq_false_iff.mp access), if_neg (Bool.eq_false_iff.mp dirty), if_neg (Bool.eq_false_iff.mp out), rel']
  dsimp only
  cases p.place <;> rfl

/-- A barrier instruction on an object that passes its checks starts: at once on a stash object, by a request on a slice object. -/
theorem barrier_starts {ins : Instr} {body : Iss → Eff} {wr rel reply : Bool} (op : Bool → BarOp) (h : Executes opc f s i)
    (he : exec ins s = issue opc f s body) (hb : body i = i.barrier s wr rel reply none op) (ho : i.barObject s wr = .ok (as, p)) (hg : i.BarrierGoes (s.fillTlbs i as) p rel)
    (home : ∀ pa key, p.place.pa? = some (pa, key) → s.homeOf (pa / 256) ≠ none) (near : p.place.isPeer = false) :
    ∃ u o, exec ins s = .next u ∧ i.Begins u o ∧ o.kind = .barrier reply ∧ o.counted = some 0 ∧ o.dst = f.dst ∧ o.lanes = i.act ∧
      (∀ off, p.place = .stash off →
        let r := (op false).apply (i.team.stashRead off 64) false
        o.need = 0 ∧ o.got = [(0, 0, toLe 4 r.2.1)] ∧
        (i.chans = [] → r.1.length = 64 → ∃ tm, u.teams.get? i.tid = some tm ∧ tm.stashRead off 32 = r.1.take 32 ∧
          ∀ a k, a + k ≤ off ∨ off + 64 ≤ a → tm.stashRead a k = i.team.stashRead a k)) ∧
      ((∀ off, p.place ≠ .stash off) → o.need = 1 ∧
        ∃ x ∈ (u.station (stationOf i.team.core)).queue, x.2.asker = .op i.tid i.wid o.id ∧ x.2.dom = .sc ∧
          ∃ off, x.2.kind = .bar off (op true)) := by
  obtain rfl := h.form
  have filled := State.KeepsTeams.fillTlbs s i as
  have homes := State.KeepsHomes.fillTlbs s i as
  rw [Iss.barrier_goes ho hg] at hb
  obtain ⟨tm₁, ht₁, same₁⟩ := filled.stash.team h.team
  generalize s.fillTlbs i as = s₁ at hb filled homes ht₁
  by_cases hs : ∃ off, p.place = .stash off
  · obtain ⟨off, hp⟩ := hs
    rw [hp] at hb
    dsimp only at hb
    obtain ⟨answer, object⟩ := State.stashBarrier_object (off := off) ht₁ (op false) same₁
    have progress := State.KeepsProgress.stashBarrier s₁ i.tid off (op false)
    generalize s₁.stashBarrier i.tid off (op false) = r at hb answer object progress
    refine ⟨_, _, he.trans (issue_done h hb), .of_progress_mem h.wave
      (.trans filled.progress (progress.trans (State.popSources_sameWaves r.1 i).progress)) (.refl _), rfl, rfl, rfl, rfl,
      fun off' hp' => ?_, fun no => absurd hp (no off)⟩
    cases hp.symm.trans hp'
    refine ⟨rfl, by rw [← answer], fun hc long => ?_⟩
    rw [State.popSources_of_chans _ hc]
    exact ((object long).of_stash ((State.KeepsStash.beginMem ..).trans (.ends _ i))).team
  · have slice : ∀ off, p.place ≠ .stash off := fun off e => hs ⟨off, e⟩
    obtain ⟨pa, key, hpa⟩ := Place.pa_of_slice slice near
    have hb : body i = .done ((((s₁.beforeBarrier i p.place wr).sendReq i.team.core (.op i.tid i.wid s₁.nextOp) .sc (pa / 256) key
        (.bar (pa % 256) (op true)) i.terms false).1.popSources i).beginMem i { i.barrierOp s₁ reply p with need := 1 }) := by
      rw [hb]
      split
      next off e => exact absurd e (slice off)
      · rw [hpa]
    obtain ⟨k, hk⟩ := Option.ne_none_iff_exists'.mp (home pa key hpa)
    have atHome : (s₁.beforeBarrier i p.place wr).homeOf (pa / 256) = some k :=
      ((homes.trans (.beforeBarrier s₁ i p.place wr)).homeOf _).trans hk
    have before := filled.trans (.beforeBarrier s₁ i p.place wr)
    obtain ⟨r, joined, asker, dom, -, kind⟩ := State.sendReq_joins (s₁.beforeBarrier i p.place wr) i.team.core (.op i.tid i.wid s₁.nextOp) .sc
      (pa / 256) key (.bar (pa % 256) (op true)) i.terms false atHome
    have sent := State.KeepsTeams.sendReq (s₁.beforeBarrier i p.place wr) i.team.core (.op i.tid i.wid s₁.nextOp) .sc
      (pa / 256) key (.bar (pa % 256) (op true)) i.terms false
    generalize ((s₁.beforeBarrier i p.place wr).sendReq i.team.core (.op i.tid i.wid s₁.nextOp) .sc (pa / 256) key
        (.bar (pa % 256) (op true)) i.terms false).1 = t at hb joined sent
    refine ⟨_, _, he.trans (issue_done h hb), .of_progress_mem h.wave
      (.trans (before.trans sent).progress (State.popSources_sameWaves t i).progress) (.refl _), rfl, rfl, rfl, rfl,
      fun off e => absurd e (slice off), fun _ => ⟨rfl, (k, r), ?_, asker, dom, _, kind⟩⟩
    have stations : (i.ends ((t.popSources i).beginMem i { i.barrierOp s₁ reply p with need := 1 })).stations = t.stations :=
      ((State.SameStations.ends _ i).trans (State.SameStations.beginMem ..)).trans (State.SameStations.popSources t i)
    rw [State.station, stations]
    exact joined
end

end Sys2Proof.Machine
end

section
/-! PROOFS. Barrier instructions (O41). -/

namespace Sys2Proof.Machine

/-- Settles O41. -/
theorem barrierInstructionsStart : Obligations.BarrierInstructionsStart := by
  intro f s i as p b starts q
  refine ⟨fun h hn ho hg home near => ?_, fun h ho hg home near => ?_, fun h ho hg home near => ?_, fun h ho hg home near => ?_,
    fun h ho hg home near => ?_⟩ <;> obtain rfl := h.form
  · have counts : ¬ (i.scalarB s 0 = 0 ∧ i.scalarB s 1 = 0) := fun e => hn.elim (· e.1) (· e.2)
    refine barrier_starts (fun sl => .init (b 0) (b 1) (b 3 ++ b 2) (if sl then BitVec.ofNat 64 i.launch.ident else 0)) h rfl ?_ ho hg home near
    dsimp only
    rw [if_neg counts]
    rfl
  · exact barrier_starts (fun sl => .arrive (if i.f.mod.getLsbD 0 then 1 else (maskLanes i.act).length) 0
      (if i.f.mod.getLsbD 1 then (b 0).toNat else 0) (some (q sl))) h rfl rfl ho hg home near
  · exact barrier_starts (fun _ => if i.f.mod = 0 then .arrive 0 (b 0).toNat 0 none else .arrive 0 0 (b 0).toNat none) h rfl rfl ho hg home near
  · exact barrier_starts (fun _ => .test (b 0) (decide (i.f.mod = 1))) h rfl rfl ho hg home near
  · exact barrier_starts (fun _ => .inval) h rfl rfl ho hg home near

end Sys2Proof.Machine
end

section
/-! SUPPORT. The memory side: what writes of queue engines and home slices leave of the rest of the machine (R73, R268, R296). -/

namespace Sys2Proof.Machine

/-- A state that differs at most in memory, in what slices and sockets hold, in queues' notes and in messages on the mesh, and in which
every slice has the registrations that it had. -/
structure State.MemorySide (s t : State) : Prop where
  rest : t = { s with mem := t.mem, slices := t.slices, queues := t.queues, routers := t.routers, socks := t.socks, nextUid := t.nextUid }
  regs : s.SlicesKeep Slice.regs t

section
variable {s t u : State}

theorem State.MemorySide.refl (s : State) : s.MemorySide s := ⟨rfl, .refl s⟩

theorem State.MemorySide.trans (h : s.MemorySide t) (k : t.MemorySide u) : s.MemorySide u := by
  refine ⟨?_, h.regs.trans k.regs⟩
  have e := k.rest
  rw [h.rest] at e
  exact e

theorem State.MemorySide.ite {p : Prop} [Decidable p] (h : s.MemorySide t) (k : s.MemorySide u) : s.MemorySide (if p then t else u) := by
  split
  · exact h
  · exact k

theorem State.MemorySide.foldl {α : Type} (f : State → α → State) (hf : ∀ (s : State) (a : α), s.MemorySide (f s a)) (l : List α)
    (s : State) : s.MemorySide (l.foldl f s) := by
  induction l generalizing s with
  | nil => exact .refl s
  | cons a l ih => exact (hf s a).trans (ih _)

theorem State.MemorySide.of_regs (h : t = { s with mem := t.mem, slices := t.slices, queues := t.queues, routers := t.routers, socks := t.socks, nextUid := t.nextUid })
    (k : t.slices = s.slices) : s.MemorySide t := ⟨h, .of_slices k⟩

theorem State.MemorySide.teams (h : s.MemorySide t) : t.teams = s.teams := by rw [h.rest]
theorem State.MemorySide.launches (h : s.MemorySide t) : t.launches = s.launches := by rw [h.rest]
theorem State.MemorySide.homes (h : s.MemorySide t) : s.KeepsHomes t := .of_parts (by rw [h.rest]) (by rw [h.rest])
end

section
variable (s : State)

theorem State.MemorySide.modSlice (k : Nat) (f : Slice → Slice) (hf : ∀ x, (f x).regs = x.regs) : s.MemorySide (s.modSlice k f) :=
  ⟨rfl, .modSlice _ _ _ hf⟩

theorem State.MemorySide.sendMesh (r : Nat) (dest : MeshDest) (net source : Nat) (tm : Terms) (msg : Msg) :
    s.MemorySide (s.sendMesh r dest net source tm msg) := ⟨rfl, .sendMesh ..⟩

theorem State.MemorySide.noteQcmd (pa : Nat) (m : BitVec 64) : s.MemorySide (s.noteQcmd pa m) := by
  unfold State.noteQcmd
  exact .ite ⟨rfl, .of_slices rfl⟩ (.refl s)

theorem State.MemorySide.answer (k : Nat) (r : Req) (msg : Msg) : s.MemorySide (s.answer k r msg) := by
  unfold State.answer
  split
  · exact .sendMesh ..
  · exact .sendMesh ..
  · exact .refl s
  · exact .sendMesh ..

theorem State.MemorySide.spillLine (k line net : Nat) (tm : Terms) : s.MemorySide (s.spillLine k line net tm) := by
  unfold State.spillLine
  split
  · exact .refl s
  · dsimp only
    refine .trans (.ite (.refl s) ?_) (.modSlice _ _ _ fun _ => rfl)
    refine .trans (t := { s with nextUid := s.nextUid + 1 }) ⟨rfl, .of_slices rfl⟩ (.trans ?_ (.sendMesh ..))
    exact .modSlice _ _ _ fun _ => rfl

theorem State.MemorySide.sliceRoom (k line net : Nat) (tm : Terms) : s.MemorySide (s.sliceRoom k line net tm) := by
  unfold State.sliceRoom
  refine .ite (.refl s) ?_
  split
  · exact .spillLine ..
  · exact .refl s

theorem State.MemorySide.mergeSector (pa key : Nat) (x : Sector) (m : BitVec 64) (net : Nat) (tm : Terms) :
    s.MemorySide (s.mergeSector pa key x m net tm) := by
  unfold State.mergeSector
  refine (State.MemorySide.noteQcmd s pa m).trans ?_
  dsimp only
  split
  · obtain ⟨a, bs, e⟩ := (s.noteQcmd pa m).storeSector_writes pa key x m
    rw [e]
    exact ⟨rfl, .of_slices rfl⟩
  · exact .trans (.sliceRoom ..) (.modSlice _ _ _ fun _ => rfl)

theorem State.MemorySide.mergeBytes (pa key : Nat) (bs : List Byte) (net : Nat) (tm : Terms) :
    s.MemorySide (s.mergeBytes pa key bs net tm) := .foldl _ (fun s _ => .mergeSector s ..) _ s

theorem State.MemorySide.writeSector (tm : Terms) (pa key : Nat) (bs : List Byte) : s.MemorySide (s.writeSector tm pa key bs) := by
  unfold State.writeSector
  dsimp only
  split
  · refine .ite (.mergeSector ..) (.trans (t := { s with nextUid := s.nextUid + 1 }) ⟨rfl, .of_slices rfl⟩ ?_)
    exact .trans (.noteQcmd ..) ⟨rfl, .of_slices rfl⟩
  · refine .ite (.mergeSector ..) (.trans (t := { s with nextUid := s.nextUid + 1 }) ⟨rfl, .of_slices rfl⟩ ?_)
    exact .modSlice _ _ _ fun _ => rfl

theorem State.MemorySide.writePaFor (tm : Terms) (pa key : Nat) (bs : List Byte) : s.MemorySide (s.writePaFor tm pa key bs) :=
  .foldl _ (fun s _ => .writeSector s ..) _ s

theorem State.MemorySide.writePa (pa key : Nat) (bs : List Byte) : s.MemorySide (s.writePa pa key bs) := .writePaFor ..

theorem State.MemorySide.countLate (deadline : W64) (queue part : Nat) : s.MemorySide (s.countLate deadline queue part) := by
  unfold State.countLate
  refine .ite (.trans (t := s.modQueue queue fun q => { q with latepkt := q.latepkt + 1 }) ⟨rfl, .of_slices rfl⟩ ?_) (.refl s)
  exact .writePa ..

/-- A write that a home slice performs. -/
theorem State.MemorySide.performReq_write (k : Nat) {r : Req} {m : BitVec 256} {d : BitVec 2048} (hk : r.kind = .write m d) :
    s.MemorySide (s.performReq k r) := by
  have effect (t : State) : t.MemorySide (t.applyReq k r).1 := by
    rw [State.applyReq_write hk]
    exact .foldl _ (fun s i => .ite (.refl s) (.mergeSector s ..)) _ t
  have taken : s.MemorySide (s.takeReq k r) := .modSlice _ _ _ fun _ => rfl
  refine taken.trans ?_
  unfold State.performReq
  dsimp only
  rw [← State.takeReq]
  generalize s.takeReq k r = t
  rw [if_neg (by rw [hk]; exact Bool.false_ne_true)]
  refine .trans (.sliceRoom t k r.line (netOf r.dom) r.terms) (.ite ((effect _).trans (.answer ..)) ?_)
  generalize t.sliceRoom k r.line (netOf r.dom) r.terms = v
  have result : v.MemorySide (if (r.dom == .sc || r.dom == .tso) = true then (v, Msg.ack r) else v.applyReq k r).1 := by
    split
    · exact .refl v
    · exact effect v
  generalize (if (r.dom == .sc || r.dom == .tso) = true then (v, Msg.ack r) else v.applyReq k r) = res at result
  refine .trans (.trans ?_ (.foldl _ (fun s c => ?_) _ _)) (.foldl _ (fun s c => ?_) _ _)
  · refine .trans (t := { res.1 with nextUid := v.nextUid + 1 }) (result.trans ⟨rfl, .of_slices rfl⟩) ?_
    exact .modSlice _ _ _ fun _ => rfl
  · exact .sendMesh ..
  · exact .sendMesh ..
end

end Sys2Proof.Machine
end

section
/-! SUPPORT. Barrier wakes (R367, R368, R379): a wait that is met, and what waves inherit. -/

namespace Sys2Proof.Machine

/-! ## Waits that are met -/

theorem State.MemorySide.wave? {s t : State} (h : s.MemorySide t) (x w : Nat) : t.wave? x w = s.wave? x w := by
  rw [State.wave?, State.wave?, h.teams]

/-- A wave whose only wait is met: its threads are READY, and the rest of it is as it was. -/
def Wave.Woken (wv : Wave) (x : Wait) (w : Wave) : Prop :=
  w.waits = [] ∧ w.pcs = wv.pcs ∧ w.vregs = wv.vregs ∧ ∀ l, l < 32 → x.lanes.getLsbD l = true → w.threads.getD l .exited = .ready

theorem Wave.wake_only {wv : Wave} {x : Wait} (h : wv.waits = [x]) (now : Nat) : wv.Woken x (wv.wake now fun y => y == x) := by
  have hit : wv.waits.filter (fun y => y == x) = [x] := by rw [h, List.filter_cons, if_pos (beq_self_eq_true x)]; rfl
  refine ⟨?_, rfl, rfl, fun l hl hx => ?_⟩
  · show wv.waits.filter (fun y => !(y == x)) = []
    rw [h, List.filter_cons, if_neg (by rw [beq_self_eq_true]; exact Bool.false_ne_true)]
    rfl
  · show (mergeLanes ((wv.waits.filter fun y => y == x).foldl (fun m x => m ||| x.lanes) 0) wv.threads .ready fun _ => .ready).getD l .exited = .ready
    rw [hit, List.foldl_cons, List.foldl_nil, show (0 : Mask) ||| x.lanes = x.lanes from BitVec.zero_or, mergeLanes_getD _ _ _ _ _ _ hl, if_pos hx]

/-- A subset whose only wait is on a slice object evaluates it; the phase has passed, and it goes on. -/
theorem State.reevaluate_met {s : State} {t w : Nat} {p : Wait → Bool} {tm : Team} {wv : Wave} {x : Wait} {va pa key : Nat} {ph : W32}
    (hx : x.wake = .bwait false va ph) (ht : s.teams.get? t = some tm) (hr : tm.place = .resident) (hw : s.wave? t w = some wv)
    (hone : wv.waits = [x]) (hp : p x = true) (hpa : s.barPa t va = some (pa, key)) (hh : barHolds (s.readSeen pa 64 key) ph = true) :
    ∃ w', (s.reevaluate t w p).wave? t w = some w' ∧ wv.Woken x w' := by
  have only : wv.waits.filter p = [x] := by rw [hone, List.filter_cons, if_pos hp]; rfl
  have read : (s.countLate (s.termsOf t w).own (s.termsOf t w).queue (s.termsOf t w).part).wave? t w = some wv :=
    ((State.MemorySide.countLate ..).wave? t w).trans hw
  have out : s.reevaluate t w p = (s.countLate (s.termsOf t w).own (s.termsOf t w).queue (s.termsOf t w).part).modWave t w
      fun wv => wv.wake (s.countLate (s.termsOf t w).own (s.termsOf t w).queue (s.termsOf t w).part).time fun y => y == x := by
    unfold State.reevaluate
    simp only [ht, hw, hr, only, hx, hpa, List.foldl_cons, List.foldl_nil, State.sliceObject, hh, bne_self_eq_false, Bool.false_eq_true,
      if_false, if_true]
  rw [out, State.wave?_modWave_same, read]
  exact ⟨_, rfl, Wave.wake_only hone _⟩

/-! ## The earliest of some deadlines -/

theorem minW_le (a b : W64) : (minW a b).toNat ≤ a.toNat ∧ (minW a b).toNat ≤ b.toNat ∧ (minW a b = a ∨ minW a b = b) := by
  unfold minW
  split
  next h => exact ⟨Nat.le_refl _, h, .inl rfl⟩
  next h => exact ⟨Nat.le_of_not_le h, Nat.le_refl _, .inr rfl⟩

/-- The earliest of a deadline and those of the members of a list that count. -/
theorem foldl_minW_spec {α : Type} (p : α → Bool) (g : α → W64) (l : List α) (a : W64) :
    let r := l.foldl (fun d x => if p x then minW d (g x) else d) a
    r.toNat ≤ a.toNat ∧ (∀ x ∈ l, p x = true → r.toNat ≤ (g x).toNat) ∧ (r = a ∨ ∃ x ∈ l, p x = true ∧ r = g x) := by
  induction l generalizing a with
  | nil => exact ⟨Nat.le_refl _, fun _ h => (List.not_mem_nil h).elim, .inl rfl⟩
  | cons y l ih =>
    rw [List.foldl_cons]
    by_cases hy : p y = true
    · rw [if_pos hy]
      obtain ⟨le_a, le_y, eq⟩ := minW_le a (g y)
      obtain ⟨h1, h2, h3⟩ := ih (minW a (g y))
      refine ⟨Nat.le_trans h1 le_a, fun x hx hpx => ?_, ?_⟩
      · rcases List.mem_cons.mp hx with rfl | hx
        · exact Nat.le_trans h1 le_y
        · exact h2 x hx hpx
      · rcases h3 with h3 | ⟨x, hx, h⟩
        · rcases eq with e | e
          · exact .inl (h3.trans e)
          · exact .inr ⟨y, List.mem_cons_self, hy, h3.trans e⟩
        · exact .inr ⟨x, List.mem_cons_of_mem _ hx, h⟩
    · rw [if_neg hy]
      obtain ⟨h1, h2, h3⟩ := ih a
      refine ⟨h1, fun x hx hpx => ?_, h3.imp_right fun ⟨x, hx, h⟩ => ⟨x, List.mem_cons_of_mem _ hx, h⟩⟩
      rcases List.mem_cons.mp hx with rfl | hx
      · exact absurd hpx hy
      · exact h2 x hx hpx

/-- It depends on the members of the list alone. -/
theorem foldl_minW_congr {α : Type} (p : α → Bool) (g : α → W64) {l l' : List α} (h : ∀ x, x ∈ l ↔ x ∈ l') (a : W64) :
    l.foldl (fun d x => if p x then minW d (g x) else d) a = l'.foldl (fun d x => if p x then minW d (g x) else d) a := by
  obtain ⟨h1, h2, h3⟩ := foldl_minW_spec p g l a
  obtain ⟨k1, k2, k3⟩ := foldl_minW_spec p g l' a
  refine BitVec.eq_of_toNat_eq (Nat.le_antisymm ?_ ?_)
  · rcases k3 with e | ⟨x, hx, hp, e⟩
    · rw [e]; exact h1
    · rw [e]; exact h2 x ((h x).mpr hx) hp
  · rcases h3 with e | ⟨x, hx, hp, e⟩
    · rw [e]; exact k1
    · rw [e]; exact k2 x ((h x).mp hx) hp

/-! ## What waves inherit (R368) -/

/-- Teams that lend the same: they differ at most in what their waves inherit. -/
structure Team.LendsAs (tm tm' : Team) : Prop where
  launch : tm'.launch = tm.launch
  index : tm'.index = tm.index
  stash : tm'.stash = tm.stash
  loans : ∀ x, x ∈ tm'.loans ↔ x ∈ tm.loans
  waves : ∀ w, (tm'.waves.get? w).isSome = (tm.waves.get? w).isSome

theorem Team.LendsAs.refl (tm : Team) : tm.LendsAs tm := ⟨rfl, rfl, rfl, fun _ => Iff.rfl, fun _ => rfl⟩

theorem Team.LendsAs.trans {a b c : Team} (h : a.LendsAs b) (k : b.LendsAs c) : a.LendsAs c :=
  ⟨k.launch.trans h.launch, k.index.trans h.index, k.stash.trans h.stash, fun x => (k.loans x).trans (h.loans x),
    fun w => (k.waves w).trans (h.waves w)⟩

/-- A state in which every team lends what it lent, all else being the same. -/
structure State.LendsAs (s t : State) : Prop where
  rest : t = { s with teams := t.teams }
  teams : ∀ x, (s.teams.get? x = none ∧ t.teams.get? x = none) ∨
    ∃ tm tm', s.teams.get? x = some tm ∧ t.teams.get? x = some tm' ∧ tm.LendsAs tm'

theorem State.LendsAs.refl (s : State) : s.LendsAs s := by
  refine ⟨rfl, fun x => ?_⟩
  cases h : s.teams.get? x with
  | none => exact .inl ⟨rfl, rfl⟩
  | some tm => exact .inr ⟨tm, tm, rfl, rfl, .refl tm⟩

theorem State.LendsAs.trans {s t u : State} (h : s.LendsAs t) (k : t.LendsAs u) : s.LendsAs u := by
  refine ⟨by rw [k.rest, h.rest], fun x => ?_⟩
  rcases h.teams x with ⟨hs, ht⟩ | ⟨tm, tm', hs, ht, same⟩
  · rcases k.teams x with ⟨-, hu⟩ | ⟨_, _, ht', _⟩
    · exact .inl ⟨hs, hu⟩
    · rw [ht] at ht'
      cases ht'
  · rcases k.teams x with ⟨ht', _⟩ | ⟨tm₁, tm'', ht', hu, same'⟩
    · rw [ht] at ht'
      cases ht'
    · cases ht.symm.trans ht'
      exact .inr ⟨tm, tm'', hs, hu, same.trans same'⟩

theorem State.LendsAs.foldl {α : Type} (f : State → α → State) (hf : ∀ (s : State) (a : α), s.LendsAs (f s a)) (l : List α)
    (s : State) : s.LendsAs (l.foldl f s) := by
  induction l generalizing s with
  | nil => exact .refl s
  | cons a l ih => exact (hf s a).trans (ih _)

/-! ## The members of a table after one of its entries is set -/

section
variable {α : Type} {m : AMap α} {k : Nat} {a : α} {e : Nat × α}

theorem AMap.mem_of_get? (h : m.get? k = some a) : (k, a) ∈ m := by
  induction m with
  | nil => cases h
  | cons b m ih =>
    rw [AMap.get?] at h
    split at h
    next hk =>
      cases h
      rw [← hk]
      exact List.mem_cons_self
    · exact List.mem_cons_of_mem _ (ih h)

theorem AMap.mem_set_self : (k, a) ∈ m.set k a := AMap.mem_of_get? (AMap.get?_set_same m k a)

theorem AMap.mem_of_mem_set (h : e ∈ m.set k a) : e = (k, a) ∨ e ∈ m := by
  induction m with
  | nil => exact .inl (List.mem_singleton.mp h)
  | cons b m ih =>
    rw [AMap.set] at h
    split at h
    · exact List.mem_cons.mp h
    · split at h
      · exact (List.mem_cons.mp h).imp_right (List.mem_cons_of_mem _)
      · rcases List.mem_cons.mp h with h | h
        · exact .inr (h ▸ List.mem_cons_self)
        · exact (ih h).imp_right (List.mem_cons_of_mem _)

/-- Only the entry that lookups found can be gone. -/
theorem AMap.mem_set_of_mem (h : e ∈ m) : e ∈ m.set k a ∨ m.get? k = some e.2 := by
  induction m with
  | nil => cases h
  | cons b m ih =>
    rw [AMap.set, AMap.get?]
    split
    · exact .inl (List.mem_cons_of_mem _ h)
    · split
      next hk =>
        rcases List.mem_cons.mp h with rfl | h
        · exact .inr (if_pos hk.symm)
        · exact .inl (List.mem_cons_of_mem _ h)
      next hk =>
        rcases List.mem_cons.mp h with rfl | h
        · exact .inl List.mem_cons_self
        · rw [if_neg (Ne.symm hk)]
          exact (ih h).imp_left (List.mem_cons_of_mem _)
end

/-! ## Inherited deadlines set anew -/

theorem Team.mem_loans {tm : Team} {x : Nat × W64} : x ∈ tm.loans ↔
    ∃ e ∈ tm.waves, ∃ y ∈ e.2.waits, (match y.wake with | .bwait true o _ => some (o, y.lent) | _ => none) = some x := by
  simp only [Team.loans, List.mem_flatMap, List.mem_filterMap] <;> rfl

/-- A team of which one wave inherits another deadline lends the same. -/
theorem Team.LendsAs.modWave (tm : Team) (w : Nat) {f : Wave → Wave} (hf : ∀ wv, (f wv).waits = wv.waits) : tm.LendsAs (tm.modWave w f) := by
  unfold Team.modWave
  split
  next wv hw =>
    refine ⟨rfl, rfl, rfl, fun x => ?_, fun y => ?_⟩
    · rw [Team.mem_loans, Team.mem_loans]
      constructor
      · rintro ⟨e, he, y, hy, hx⟩
        rcases AMap.mem_of_mem_set he with rfl | he
        · exact ⟨_, AMap.mem_of_get? hw, y, hf wv ▸ hy, hx⟩
        · exact ⟨e, he, y, hy, hx⟩
      · rintro ⟨e, he, y, hy, hx⟩
        rcases AMap.mem_set_of_mem (k := w) (a := f wv) he with he | he
        · exact ⟨e, he, y, hy, hx⟩
        · cases hw.symm.trans he
          exact ⟨_, AMap.mem_set_self, y, (hf _).symm ▸ hy, hx⟩
    · by_cases h : y = w
      · subst h
        rw [AMap.get?_set_same, hw]
        rfl
      · rw [AMap.get?_set_other _ _ _ _ h]
  · exact .refl tm

theorem State.LendsAs.modWave (s : State) (x w : Nat) {f : Wave → Wave} (hf : ∀ wv, (f wv).waits = wv.waits) :
    s.LendsAs (s.modWave x w f) := by
  refine ⟨?_, fun y => ?_⟩
  · unfold State.modWave State.modTeam
    split <;> rfl
  · by_cases h : y = x
    · subst h
      rw [State.modWave, State.modTeam_get?_same]
      cases ht : s.teams.get? y with
      | none => exact .inl ⟨rfl, rfl⟩
      | some tm => exact .inr ⟨tm, _, rfl, rfl, .modWave tm w hf⟩
    · rw [State.modWave, State.modTeam_get?_other _ _ _ _ h]
      exact (State.LendsAs.refl s).teams y

/-- What waves inherit depends on what teams lend, and on home slices. -/
theorem State.LendsAs.lent {s t : State} (h : s.LendsAs t) (x w : Nat) : t.lent x w = s.lent x w := by
  have read : t.readPaKey = s.readPaKey := by rw [h.rest]; rfl
  have launches : t.launches = s.launches := by rw [h.rest]
  have slices : t.slices = s.slices := by rw [h.rest]
  unfold State.lent
  rcases h.teams x with ⟨hs, ht⟩ | ⟨tm, tm', hs, ht, same⟩
  · rw [hs, ht]
  · rw [hs, ht]
    dsimp only
    rw [same.launch, same.index, launches, slices, read]
    have own := foldl_minW_congr (fun y : Nat × W64 => barOutstanding (tm.stashRead y.1 64) w) Prod.snd same.loans (BitVec.allOnes 64)
    simp only [Team.stashRead_congr same.stash]
    rw [own]

/-- A wave that inherits what is lent to it. -/
def State.Inherits (s : State) (t w : Nat) (d : W64) : Prop := ∃ wv, s.wave? t w = some wv ∧ wv.inherited = d

/-- The step by which a wave's inherited deadline is set. -/
def State.inheritOne (x : Nat) (s : State) (w : Nat × Wave) : State := s.modWave x w.1 fun wv => { wv with inherited := s.lent x w.1 }

theorem State.LendsAs.inheritOne (s : State) (x : Nat) (w : Nat × Wave) : s.LendsAs (s.inheritOne x w) := .modWave s x w.1 fun _ => rfl

theorem State.inheritAnew_eq (s : State) (x : Nat) :
    s.inheritAnew x = (s.teams.get? x).elim s fun tm => tm.waves.foldl (State.inheritOne x) s := by
  unfold State.inheritAnew
  cases s.teams.get? x <;> rfl

theorem State.LendsAs.inheritAnew (s : State) (x : Nat) : s.LendsAs (s.inheritAnew x) := by
  rw [State.inheritAnew_eq]
  cases s.teams.get? x with
  | none => exact .refl s
  | some tm => exact .foldl _ (fun s w => .inheritOne s x w) _ s

/-- A wave that inherits what is lent to it still does when any wave's deadline is set. -/
theorem State.Inherits.inheritOne {s : State} {t w : Nat} (h : s.Inherits t w (s.lent t w)) (x : Nat) (y : Nat × Wave) :
    (s.inheritOne x y).Inherits t w ((s.inheritOne x y).lent t w) := by
  rw [(State.LendsAs.inheritOne s x y).lent]
  obtain ⟨wv, hw, hd⟩ := h
  unfold State.inheritOne
  by_cases e : t = x ∧ w = y.1
  · obtain ⟨rfl, rfl⟩ := e
    exact ⟨_, by rw [State.wave?_modWave_same, hw]; rfl, rfl⟩
  · exact ⟨wv, (State.wave?_modWave_other _ _ _ _ _ _ (not_and_or.mp e)).trans hw, hd⟩

theorem State.Inherits.foldl {s : State} {t w : Nat} (h : s.Inherits t w (s.lent t w)) (x : Nat) (l : List (Nat × Wave)) :
    (l.foldl (State.inheritOne x) s).Inherits t w ((l.foldl (State.inheritOne x) s).lent t w) := by
  induction l generalizing s with
  | nil => exact h
  | cons a l ih => exact ih (h.inheritOne x a)

theorem State.Inherits.inheritAnew {s : State} {t w : Nat} (h : s.Inherits t w (s.lent t w)) (x : Nat) :
    (s.inheritAnew x).Inherits t w ((s.inheritAnew x).lent t w) := by
  rw [State.inheritAnew_eq]
  cases s.teams.get? x with
  | none => exact h
  | some tm => exact h.foldl x tm.waves

theorem State.inherits_foldl_of_mem {s : State} {t w : Nat} {l : List (Nat × Wave)} (hm : w ∈ l.map Prod.fst) (hw : (s.wave? t w).isSome) :
    (l.foldl (State.inheritOne t) s).Inherits t w ((l.foldl (State.inheritOne t) s).lent t w) := by
  induction l generalizing s with
  | nil => cases hm
  | cons a l ih =>
    obtain ⟨wv, hwv⟩ := Option.isSome_iff_exists.mp hw
    rw [List.foldl_cons]
    by_cases e : w = a.1
    · subst e
      refine State.Inherits.foldl ?_ t l
      rw [(State.LendsAs.inheritOne s t a).lent]
      exact ⟨_, by rw [State.inheritOne, State.wave?_modWave_same, hwv]; rfl, rfl⟩
    · refine ih ((List.mem_cons.mp hm).resolve_left e) ?_
      rw [State.inheritOne, State.wave?_modWave_other _ _ _ _ _ _ (.inr e), hwv]
      rfl

/-- After its team's deadlines are set anew, a wave inherits what is lent to it. -/
theorem State.inheritAnew_inherits {s : State} {t w : Nat} (hw : (s.wave? t w).isSome) :
    (s.inheritAnew t).Inherits t w ((s.inheritAnew t).lent t w) := by
  obtain ⟨wv, hwv⟩ := Option.isSome_iff_exists.mp hw
  obtain ⟨tm, ht, hget⟩ := State.team_of_wave hwv
  rw [State.inheritAnew_eq, ht]
  exact State.inherits_foldl_of_mem (List.mem_map_of_mem (AMap.mem_of_get? hget)) hw

theorem State.LendsAs.wave? {s t : State} (h : s.LendsAs t) {x w : Nat} (hw : (s.wave? x w).isSome) : (t.wave? x w).isSome := by
  obtain ⟨wv, hwv⟩ := Option.isSome_iff_exists.mp hw
  obtain ⟨tm, ht, hget⟩ := State.team_of_wave hwv
  rcases h.teams x with ⟨hs, -⟩ | ⟨tm₁, tm', hs, ht', same⟩
  · rw [ht] at hs
    cases hs
  · cases ht.symm.trans hs
    have := same.waves w
    rw [hget] at this
    rw [State.wave?, ht']
    exact this

/-- After the deadlines of some teams are set anew, every wave of each inherits what is lent to it. -/
theorem State.inheritAnew_all {s : State} {t w : Nat} {l : List (Nat × Team)} (hm : t ∈ l.map Prod.fst) (hw : (s.wave? t w).isSome) :
    (l.foldl (fun s t => s.inheritAnew t.1) s).Inherits t w ((l.foldl (fun s t => s.inheritAnew t.1) s).lent t w) := by
  have kept : ∀ (l : List (Nat × Team)) (s : State), s.Inherits t w (s.lent t w) →
      (l.foldl (fun s t => s.inheritAnew t.1) s).Inherits t w ((l.foldl (fun s t => s.inheritAnew t.1) s).lent t w) := by
    intro l
    induction l with
    | nil => exact fun _ h => h
    | cons a l ih => exact fun s h => ih _ (h.inheritAnew a.1)
  induction l generalizing s with
  | nil => cases hm
  | cons a l ih =>
    rw [List.foldl_cons]
    by_cases e : t = a.1
    · subst e
      exact kept l _ (State.inheritAnew_inherits hw)
    · exact ih ((List.mem_cons.mp hm).resolve_left e) ((State.LendsAs.inheritAnew s a.1).wave? hw)

end Sys2Proof.Machine
end

section
/-! PROOFS. Barrier wakes (O49). -/

namespace Sys2Proof.Machine

/-- DEADLINE_BOOST as O49 states it. -/
theorem deadlineBoost_inherits (s : State) (k : Nat) :
    ∃ u, exec (.deadlineBoost k) s = .next u ∧ (u.slice k).boosts = [] ∧ u.mem = s.mem ∧
      ∀ t w tm wv l b, s.teams.get? t = some tm → tm.waves.get? w = some wv → s.launches.get? tm.launch = some l →
        b ∈ (s.slice k).boosts → b.2.1.toNat = l.ident → ∃ w', u.wave? t w = some w' ∧ w'.inherited = u.lent t w := by
  generalize ho : ((s.slice k).boosts.map fun b => b.2.1.toNat).eraseDups = owners
  generalize hs : (s.modSlice k fun sl => { sl with boosts := [] }) = s₁
  have h₁ : s₁.teams = s.teams ∧ s₁.launches = s.launches ∧ s₁.mem = s.mem ∧ (s₁.slice k).boosts = [] := by
    subst hs
    exact ⟨rfl, rfl, rfl, by rw [State.slice_modSlice_same]⟩
  obtain ⟨teams, launches, mem, empty⟩ := h₁
  have run : execDeadlineBoost k s = .next ((s₁.teams.filter fun t => owners.contains ((s₁.launches.get? t.2.launch).elim 0 Launch.ident)).foldl
      (fun s t => s.inheritAnew t.1) s₁) := by
    subst hs ho
    rfl
  generalize hl : (s₁.teams.filter fun t => owners.contains ((s₁.launches.get? t.2.launch).elim 0 Launch.ident)) = chosen at run
  have lends : s₁.LendsAs (chosen.foldl (fun s (t : Nat × Team) => s.inheritAnew t.1) s₁) :=
    .foldl _ (fun s (t : Nat × Team) => .inheritAnew s t.1) _ s₁
  refine ⟨_, (rfl : exec (.deadlineBoost k) s = execDeadlineBoost k s).trans run, ?_, ?_, fun t w tm wv l b ht hw hlaunch hb hi => ?_⟩
  · rw [lends.rest]
    exact empty
  · rw [lends.rest]
    exact mem
  · have owner : owners.contains l.ident = true := by
      rw [← ho, ← hi, List.contains_iff_mem, List.mem_eraseDups]
      exact List.mem_map_of_mem hb
    have member : t ∈ chosen.map Prod.fst := by
      rw [← hl]
      refine List.mem_map_of_mem (f := Prod.fst) (a := (t, tm)) (List.mem_filter.mpr ⟨AMap.mem_of_get? (teams ▸ ht), ?_⟩)
      rw [launches, hlaunch]
      exact owner
    have wave : s₁.wave? t w = some wv := by
      rw [State.wave?, teams, ht]
      exact hw
    exact State.inheritAnew_all member (wave ▸ rfl)

/-- Settles O49. -/
theorem barrierWakes : Obligations.BarrierWakes := by
  refine ⟨fun s core t w rest tm wv x va pa key ph hx hl ht hr hw hone => ⟨fun hm hpa hh => ?_, fun hreg hpa hh => ?_⟩,
    deadlineBoost_inherits⟩
  · have met : (x.lanes &&& x.lanes != 0 && match x.wake with | .bwait false _ _ => true | _ => false) = true := by
      rw [hx, BitVec.and_self, Bool.and_true, bne_iff_ne]
      exact hl
    obtain ⟨w', hw', waits, pcs, regs, ready⟩ := State.reevaluate_met (s := s.modCore core fun c => { c with inbox := rest })
      (p := fun y => y.lanes &&& x.lanes != 0 && match y.wake with | .bwait false _ _ => true | _ => false) hx ht hr hw hone met hpa hh
    refine ⟨_, ?_, w', hw', waits, pcs, regs, ready⟩
    show execWakeArrival core s = _
    unfold execWakeArrival
    rw [hm] <;> rfl
  · obtain ⟨w', hw', waits, pcs, regs, ready⟩ := State.reevaluate_met (s := s) (p := fun x => !x.registered &&
      match x.wake with | .bwait false _ _ => true | _ => false) hx ht hr hw hone (by simp [hreg, hx]) hpa hh
    exact ⟨_, rfl, w', hw', waits, pcs, regs, ready⟩

end Sys2Proof.Machine
end

section
/-! SUPPORT. A save slot whose home slice is full, of entries for one line whose table names a sector twice: the eviction of the line loses
the image. -/

namespace Sys2Proof.Machine

/-- What DEBUG_SAVE does of a partition with one halted team that finds a slot. -/
theorem exec_debugSave {s : State} {p t k : Nat} {tm : Team} {l : Launch} (hb : s.bootstat = 1) (hone : s.haltedTeams p = [(t, tm, l)])
    (hslot : s.saveSlot l.part l.ctx (s.descOf l.ctx tm.ver) (256 + l.header.waves * waveSpan l.header.regs + l.header.stash) = some k) :
    exec (.debugSave p) s = .next ((s.undefinePages.writePaFor l.terms (slotBase (s.descOf l.ctx tm.ver) k) 0 (tm.image l)).modTeam t
      fun tm' => { tm' with debugSaved := some k, debugImage := tm.image l }) := by
  show Host.Outcome.next (if s.bootstat = 1 then s.debugSave p else s) = _
  rw [if_pos hb, State.debugSave, hone]
  simp only [List.foldl_cons, List.foldl_nil, hslot]

theorem AMap.erase_replicate {α : Type} (n k : Nat) (a : α) : AMap.erase (List.replicate n (k, a)) k = [] := by
  induction n with
  | zero => rfl
  | succ n ih => rw [List.replicate_succ, AMap.erase, if_pos rfl, ih]

/-- A line of a home slice whose table names sector 3 twice; the second entry holds ones. -/
def doubledLine : SliceLine := ⟨0, [(3, ⟨false, 0, 0⟩), (3, ⟨false, BitVec.allOnes 512, 0⟩)]⟩

/-- The launch of the halted team: it has no waves and no stash, so that the image is its header. -/
def headerLaunch : Launch := { probeLaunch with header := { probeLaunch.header with waves := 0 } }

/-- The halted team. -/
def headerTeam : Team := { probeTeam with waves := [] }

/-- A halted team whose slot begins in sector 3 of line 0; the home slice of the slot holds `lines`. -/
def crowded (lines : AMap SliceLine) : State :=
  { State.reset.withFetchWord 0 0 with
    group := []
    launches := [(1, headerLaunch)]
    parts := [(0, { Part.reset with pstate := 1, slices := 1, dbghalt := 1 })]
    slices := [(0, { Slice.reset with lines := lines })]
    ctxs := [(0, ⟨0, false, false, false, 0, ⟨0, 0, 192, 1, 256⟩, [], false⟩)]
    teams := [(1, headerTeam)] }

section
variable (lines : AMap SliceLine)

theorem crowded_home (line : Nat) (h : line < 2) : (crowded lines).homeOf line = some 0 := by
  have e : ∀ line < 2, (crowded []).homeOf line = some 0 := by decide +kernel
  exact (rfl : (crowded lines).homeOf line = (crowded []).homeOf line).trans (e line h)

theorem crowded_quiet (line : Nat) (h : line < 2) : (crowded lines).quiet 0 line = true := by
  have e : ∀ line < 2, (crowded []).quiet 0 line = true := by decide +kernel
  rw [← e line h]
  unfold State.quiet State.snoopPorts
  rw [crowded_home _ line h, crowded_home _ line h]
  rfl

theorem crowded_noteQcmd (pa : Nat) (m : BitVec 64) : (crowded lines).noteQcmd pa m = crowded lines := by
  unfold State.noteQcmd
  split <;> rfl

/-- The slot's first bytes go into the line; an entry of the line is there already. -/
theorem crowded_writeFirst (n : Nat) (tm : Terms) (bs : List Byte) :
    (crowded (List.replicate (n + 1) (0, doubledLine))).writeSector tm 192 0 bs =
      crowded ((0, { doubledLine with sec := doubledLine.sec.set 3 (SliceSector.write ⟨false, 0, 0⟩ (BitVec.ofNat 512 (leNat bs))
        (maskAt 64 0 bs.length)) }) :: List.replicate n (0, doubledLine)) := by
  have home := crowded_home (List.replicate (n + 1) (0, doubledLine)) 0 (by decide)
  unfold State.writeSector
  rw [show 192 / 256 = 0 from rfl, home]
  dsimp only
  rw [if_pos (crowded_quiet _ 0 (by decide)), State.mergeSector, crowded_noteQcmd, show 192 / 256 = 0 from rfl, home]
  rfl

/-- The state in which line 0 has left the slice for memory, and `lines` stay. -/
def evicted (x : Spill) (u r : Nat) (d : MeshDest) (net source : Nat) (tm : Terms) (msg : Msg) : State :=
  { ({ crowded [] with nextUid := u } : State).sendMesh r d net source tm msg with
    slices := [(0, { Slice.reset with spills := [x], lines := lines })] }

theorem crowded_evicts (x : Spill) (u r : Nat) (d : MeshDest) (net source : Nat) (tm : Terms) (msg : Msg) :
    (({ crowded lines with nextUid := u }.modSlice 0 fun sl => { sl with spills := sl.spills ++ [x] }).sendMesh r d net source tm msg).modSlice 0
      (fun sl => { sl with lines := sl.lines.erase 0 }) = evicted (lines.erase 0) x u r d net source tm msg := rfl

/-- The next line finds no room: the line of the first bytes leaves the slice. -/
theorem crowded_room (n : Nat) (hn : 32767 ≤ n) (tm : Terms) (ln : SliceLine) :
    (crowded ((0, ln) :: List.replicate n (0, doubledLine))).sliceRoom 0 1 0 tm = (crowded [(0, ln)]).spillLine 0 0 0 tm := by
  have full : ((crowded ((0, ln) :: List.replicate n (0, doubledLine))).slice 0).taken = List.replicate (n + 1) 0 := by
    show ((0, ln) :: List.replicate n (0, doubledLine)).map Prod.fst ++ [] = _
    rw [List.append_nil, List.map_cons, List.map_replicate, List.replicate_succ]
  have gone : AMap.erase ((0, ln) :: List.replicate n (0, doubledLine)) 0 = [] := by
    rw [AMap.erase, if_pos rfl]
    exact AMap.erase_replicate n 0 doubledLine
  unfold State.sliceRoom
  dsimp only
  rw [if_neg (by rw [full, Bool.or_eq_true, List.contains_iff_mem, List.mem_replicate, decide_eq_true_eq, List.length_replicate]; omega)]
  show State.spillLine _ 0 0 0 tm = _
  unfold State.spillLine
  split
  next h => cases h
  next sl h =>
    cases h
    dsimp only
    split
    next hm =>
      rw [show ((crowded [(0, ln)]).slice 0).lines.get? 0 = some ln from rfl]
      dsimp only
      rw [if_pos hm]
      exact congrArg (fun L : AMap SliceLine => (crowded []).modSlice 0 fun sl => { sl with lines := L }) gone
    next hm =>
      rw [show ((crowded [(0, ln)]).slice 0).lines.get? 0 = some ln from rfl]
      dsimp only
      rw [if_neg hm]
      rw [show (crowded [(0, ln)]).nextUid = (crowded ((0, ln) :: List.replicate n (0, doubledLine))).nextUid from rfl]
      generalize (⟨(crowded ((0, ln) :: List.replicate n (0, doubledLine))).nextUid, 0, ln.key, _, _⟩ : Spill) = x
      refine (crowded_evicts ((0, ln) :: List.replicate n (0, doubledLine)) x _ _ _ _ _ tm _).trans ?_
      rw [gone]
      exact (crowded_evicts [(0, ln)] x _ _ _ _ _ tm _).symm

/-- A write of a sector in a line of the slice, as `State.mergeSector` makes it. -/
def Slice.put (pa : Nat) (x : Sector) (m : BitVec 64) (sl : Slice) : Slice :=
  let ln := sl.lines.getD (pa / 256) ⟨0, []⟩
  let sec := ln.sec.set (pa / 64 % 4) ((ln.sec.getD (pa / 64 % 4) ⟨false, 0, 0⟩).write x m)
  { sl with lines := sl.lines.set (pa / 256) { ln with sec := sec } }

theorem crowded_writeNext (n : Nat) (hn : 32767 ≤ n) (tm : Terms) (ln : SliceLine) (bs : List Byte) :
    (crowded ((0, ln) :: List.replicate n (0, doubledLine))).writeSector tm 256 0 bs =
      ((crowded [(0, ln)]).spillLine 0 0 0 tm).modSlice 0 (Slice.put 256 (BitVec.ofNat 512 (leNat bs)) (maskAt 64 0 bs.length)) := by
  have home := crowded_home ((0, ln) :: List.replicate n (0, doubledLine)) 1 (by decide)
  unfold State.writeSector
  rw [show 256 / 256 = 1 from rfl, home]
  dsimp only
  rw [if_pos (crowded_quiet _ 1 (by decide)), State.mergeSector, crowded_noteQcmd, show 256 / 256 = 1 from rfl, home]
  dsimp only
  rw [crowded_room n hn]
  rfl

end

/-- The 64 bytes of the image at an offset. -/
def imagePart (o : Nat) : List Byte := ((headerTeam.image headerLaunch).drop o).take 64

/-- The line with the first bytes of the image. -/
def firstLine : SliceLine :=
  { doubledLine with sec := doubledLine.sec.set 3 (SliceSector.write ⟨false, 0, 0⟩ (BitVec.ofNat 512 (leNat (imagePart 0)))
    (maskAt 64 0 (imagePart 0).length)) }

/-- The state with the image written. -/
def imageWritten : State :=
  [(128, 320, 64), (192, 384, 64)].foldl
    (fun (s : State) (p : Nat × Nat × Nat) => s.writeSector headerLaunch.terms p.2.1 0 (((headerTeam.image headerLaunch).drop p.1).take p.2.2))
    (((crowded [(0, firstLine)]).spillLine 0 0 0 headerLaunch.terms).modSlice 0
      (Slice.put 256 (BitVec.ofNat 512 (leNat (imagePart 64))) (maskAt 64 0 (imagePart 64).length)))

theorem crowded_writeImage : (crowded (List.replicate (32767 + 1) (0, doubledLine))).writePaFor headerLaunch.terms 192 0
    (headerTeam.image headerLaunch) = imageWritten := by
  have spans : sectorSpans 192 (headerTeam.image headerLaunch).length = [(0, 192, 64), (64, 256, 64), (128, 320, 64), (192, 384, 64)] := by
    decide +kernel
  unfold State.writePaFor
  rw [spans, List.foldl_cons, List.foldl_cons]
  dsimp only
  rw [crowded_writeFirst, crowded_writeNext 32767 (Nat.le_refl _)]
  rfl

/-- The state after DEBUG_SAVE. -/
def imageSaved : State :=
  imageWritten.modTeam 1 fun tm => { tm with debugSaved := some 0, debugImage := headerTeam.image headerLaunch }

theorem imageSaved_lost : imageSaved.readSeen 192 256 0 ≠ headerTeam.image headerLaunch := by decide +kernel

theorem imageSaved_home : ∀ line < 2, (imageSaved.homeOf line).isSome = true := by decide +kernel

theorem crowded_halted (lines : AMap SliceLine) : (crowded lines).haltedTeams 0 = [(1, headerTeam, headerLaunch)] := by
  rw [show (crowded lines).haltedTeams 0 = (crowded []).haltedTeams 0 from rfl]
  decide +kernel

theorem crowded_slot (lines : AMap SliceLine) : (crowded lines).saveSlot 0 0 ((crowded lines).descOf 0 0) 256 = some 0 := by
  rw [show (crowded lines).saveSlot 0 0 ((crowded lines).descOf 0 0) 256 = (crowded []).saveSlot 0 0 ((crowded []).descOf 0 0) 256 from rfl]
  decide +kernel

theorem crowded_debugSave : exec (.debugSave 0) (crowded (List.replicate (32767 + 1) (0, doubledLine))) = .next imageSaved := by
  refine (exec_debugSave rfl (crowded_halted _) (crowded_slot _)).trans ?_
  rw [show (crowded (List.replicate (32767 + 1) (0, doubledLine))).undefinePages = crowded (List.replicate (32767 + 1) (0, doubledLine)) from rfl]
  exact congrArg (fun s : State => Host.Outcome.next (s.modTeam 1 fun tm => { tm with debugSaved := some 0, debugImage := headerTeam.image headerLaunch }))
    crowded_writeImage

end Sys2Proof.Machine
end

section
/-! PROOFS. Pre-emption and debug saves (O54). -/

namespace Sys2Proof.Machine

/-- Refutes O54: a home slice that is full evicts a line in the middle of a debug save; where the table of that line names a sector twice, the
line leaves with the data of both entries, so that the image does not stand at the slot. -/
theorem not_preemptionEvents : ¬ Obligations.PreemptionEvents := by
  unfold Obligations.PreemptionEvents
  intro h
  obtain ⟨-, -, -, -, save, -⟩ := h (crowded (List.replicate (32767 + 1) (0, doubledLine))) 1 headerTeam headerLaunch rfl rfl
  obtain ⟨u, tm', run, -, -, -, stands⟩ := save 0 0 rfl (crowded_halted _) (crowded_slot _)
  obtain rfl := Host.Outcome.next.inj (run.symm.trans crowded_debugSave)
  have length : (headerTeam.image headerLaunch).length = 256 := by decide +kernel
  have base : slotBase ((crowded (List.replicate (32767 + 1) (0, doubledLine))).descOf headerLaunch.ctx headerTeam.ver) 0 = 192 := rfl
  rw [length, base] at stands
  exact imageSaved_lost (stands fun i hi => imageSaved_home _ (by omega))

end Sys2Proof.Machine
end

section
/-! SUPPORT. What a read of an agent finds after a write of an agent at the home slice of the bytes (R267, R268; log entry 144). -/

namespace Sys2Proof.Machine

/-! ## Fields of slices that a write does not touch -/

section
variable {β : Type} {g : Slice → β} (hg : ∀ (x : Slice) sp ln, g { x with spills := sp, lines := ln } = g x) (s : State)
include hg

theorem State.SlicesKeep.spillLine (k line net : Nat) (tm : Terms) : s.SlicesKeep g (s.spillLine k line net tm) := by
  unfold State.spillLine
  split
  · exact .refl s
  · dsimp only
    split
    · exact .modSlice _ _ _ fun x => hg x x.spills _
    · refine .trans (.trans (t := State.modSlice _ k _) ?_ (.sendMesh ..)) (.modSlice _ _ _ fun x => hg x x.spills _)
      exact .trans (t := { s with nextUid := s.nextUid + 1 }) (.of_slices rfl) (.modSlice _ _ _ fun x => hg x _ x.lines)

theorem State.SlicesKeep.sliceRoom (k line net : Nat) (tm : Terms) : s.SlicesKeep g (s.sliceRoom k line net tm) := by
  unfold State.sliceRoom
  dsimp only
  refine .ite (.refl s) ?_
  split
  · exact .spillLine hg ..
  · exact .refl s

theorem State.SlicesKeep.mergeSector (pa key : Nat) (x : Sector) (m : BitVec 64) (net : Nat) (tm : Terms) :
    s.SlicesKeep g (s.mergeSector pa key x m net tm) := by
  unfold State.mergeSector
  refine .trans (.noteQcmd s pa m) ?_
  dsimp only
  split
  · obtain ⟨a, bs, e⟩ := (s.noteQcmd pa m).storeSector_writes pa key x m
    rw [e]
    exact .of_slices rfl
  · exact .trans (.sliceRoom hg ..) (.modSlice _ _ _ fun x => hg x x.spills _)
end

/-! ## The parts of what an agent reads -/

/-- A sector with the bytes of a write of its line over it. -/
def Sector.under (i : Nat) (x : Sector) (w : BitVec 256 × BitVec 2048) : Sector :=
  Sector.merge x (w.2.extractLsb' (512 * i) 512) (w.1.extractLsb' (64 * i) 64)

/-- The sector at a PA without the writes of agents that are on their way. -/
def State.underAgents (s : State) (pa key : Nat) : Sector :=
  (s.mapHolders (pa / 64)).foldl (fun x h =>
    Sector.merge x ((s.teams.get? h.1).elim 0 fun tm => tm.stash.getD h.2.1 0) h.2.2.mask) (s.sectorAt pa key)

section
variable {s t : State} {k pa key : Nat}

theorem State.sectorSeen_of_home (h : s.homeOf (pa / 256) = some k) :
    s.sectorSeen pa key = ((s.slice k).agentWrites (pa / 256)).foldl (Sector.under (pa / 64 % 4)) (s.underAgents pa key) := by
  unfold State.sectorSeen
  simp only [h]
  rfl

theorem State.underAgents_congr (teams : t.teams = s.teams) (at_ : t.sectorAt pa key = s.sectorAt pa key) :
    t.underAgents pa key = s.underAgents pa key := by
  rw [State.underAgents, at_, State.underAgents, State.mapHolders, State.mapHolders, teams]

/-- A line that no stash maps reads as its home slice gives it. -/
theorem State.underAgents_of_unmapped (h : s.mapHoldersOf (pa / 256) = []) : s.underAgents pa key = s.sectorAt pa key := by
  have none : s.mapHolders (pa / 64) = [] := by
    refine List.eq_nil_iff_forall_not_mem.mpr fun e he => ?_
    obtain ⟨t, ht, m, hm, x, hx, rfl⟩ : ∃ t ∈ s.teams, ∃ m ∈ t.2.maps, ∃ x ∈ m.sec.filter (fun e => e.2.pa / 64 == pa / 64), (t.1, x.1, x.2) = e := by
      simpa [State.mapHolders] using he
    rw [List.mem_filter, beq_iff_eq] at hx
    have : (t.1, x.1, x.2) ∈ s.mapHoldersOf (pa / 256) := by
      refine List.mem_flatMap.mpr ⟨t, ht, List.mem_flatMap.mpr ⟨m, hm, List.mem_map.mpr ⟨x, List.mem_filter.mpr ⟨hx.1, ?_⟩, rfl⟩⟩⟩
      rw [beq_iff_eq]
      omega
    rw [h] at this
    cases this
  rw [State.underAgents, none, List.foldl_nil]

theorem State.SameButLine.sectorAt_pa {line : Nat} (h : s.SameButLine line t) (hl : pa / 256 = line) (home : s.homeOf line = some k)
    (cached : (t.slice k).cached line (pa / 64 % 4) = (s.slice k).cached line (pa / 64 % 4)) : t.sectorAt pa key = s.sectorAt pa key := by
  subst hl
  rw [State.sectorAt_of_home ((h.homeOf _).trans home), cached, h.underLine rfl, ← State.sectorAt_of_home home]

/-- What a quiet line is: no stash maps it, and no agent's write to it is on its way. -/
theorem State.quiet_unmapped {line : Nat} (h : s.quiet k line = true) : s.mapHoldersOf line = [] ∧ (s.slice k).agentWrites line = [] := by
  unfold State.quiet at h
  simp only [Bool.and_eq_true, List.isEmpty_iff] at h
  exact ⟨h.1.1.1.2, h.2⟩

theorem State.sectorSeen_of_quiet (home : s.homeOf (pa / 256) = some k) (unmapped : s.mapHoldersOf (pa / 256) = [])
    (none : (s.slice k).agentWrites (pa / 256) = []) : s.sectorSeen pa key = s.sectorAt pa key := by
  rw [State.sectorSeen_of_home home, none, List.foldl_nil, State.underAgents_of_unmapped unmapped]
end

/-! ## Writes merged at the home slice -/

section
variable {s : State} {k pa key : Nat} {x : Sector} {m : BitVec 64} {net : Nat} {tm : Terms}

theorem State.MemorySide.homeOf {s t : State} (h : s.MemorySide t) (line : Nat) : t.homeOf line = s.homeOf line := by
  have parts : t.parts = s.parts := by rw [h.rest]
  have owner : t.granuleOwner = s.granuleOwner := by rw [h.rest]
  have hp : t.part = s.part := funext (State.part_congr s t parts)
  have ho : t.ownerOf = s.ownerOf := funext fun pa => by rw [State.ownerOf, owner, State.ownerOf]
  rw [State.homeOf, hp, ho, State.homeOf]

theorem State.MemorySide.mapHoldersOf {s t : State} (h : s.MemorySide t) (line : Nat) : t.mapHoldersOf line = s.mapHoldersOf line := by
  rw [State.mapHoldersOf, h.teams, State.mapHoldersOf]

/-- A sector merged at its home slice reads as something under the bytes written, wherever other lines of the slice went. -/
theorem State.mergeSector_reads (home : s.homeOf (pa / 256) = some k) (key' : Nat) :
    ∃ y, (s.mergeSector pa key x m net tm).sectorAt pa key' = Sector.merge y x m := by
  have noted : (s.noteQcmd pa m).homeOf (pa / 256) = some k := ((State.MemorySide.noteQcmd s pa m).homeOf _).trans home
  have out : s.mergeSector pa key x m net tm = ((s.noteQcmd pa m).sliceRoom k (pa / 256) net tm).modSlice k
      (·.writeSector (pa / 256) (pa / 64 % 4) key x m) := by
    unfold State.mergeSector
    simp only [noted]
    rfl
  have kept : (s.mergeSector pa key x m net tm).homeOf (pa / 256) = some k := ((State.MemorySide.mergeSector s ..).homeOf _).trans home
  rw [State.sectorAt_of_home kept]
  generalize (s.mergeSector pa key x m net tm).underLine k pa key' = y
  rw [out, State.slice_modSlice_same, Slice.cached_writeSector_same, Option.getD_some, SliceSector.over_write]
  exact ⟨_, rfl⟩

theorem State.mergeSector_agentWrites (j line : Nat) :
    ((s.mergeSector pa key x m net tm).slice j).agentWrites line = (s.slice j).agentWrites line :=
  (State.SlicesKeep.mergeSector (g := fun x => x.agentWrites line) (fun _ _ _ => rfl) s pa key x m net tm).slices j

/-- The other sectors of a line read what they read, when its home slice has room for the line. -/
theorem State.RoomAtHome.mergeSector_apart (h : s.RoomAtHome k (pa / 256)) {qa : Nat} (line : qa / 256 = pa / 256) (apart : qa / 64 ≠ pa / 64)
    (key' : Nat) : (s.mergeSector pa key x m net tm).sectorAt qa key' = s.sectorAt qa key' := by
  have noted : (s.noteQcmd pa m).RoomAtHome k (pa / 256) := h.of_taken (.noteQcmd ..) (.inr (by rw [State.noteQcmd_slice]))
  have out : s.mergeSector pa key x m net tm = (s.noteQcmd pa m).modSlice k (·.writeSector (pa / 256) (pa / 64 % 4) key x m) := by
    unfold State.mergeSector
    simp only [noted.home, noted.sliceRoom]
    rfl
  rw [out]
  have same : s.SameButLine (pa / 256) ((s.noteQcmd pa m).modSlice k (·.writeSector (pa / 256) (pa / 64 % 4) key x m)) :=
    (State.SameButLine.noteQcmd s _ m).trans (.modSlice _ _ _ (fun _ => rfl) fun _ _ hl => AMap.get?_set_other _ _ _ _ hl)
  refine same.sectorAt_pa line h.home ?_
  rw [State.slice_modSlice_same, State.noteQcmd_slice, Slice.cached_writeSector_other _ _ _ _ _ _ (by omega)]

theorem State.mergeSector_taken (home : s.homeOf (pa / 256) = some k) :
    ((s.mergeSector pa key x m net tm).slice k).taken.contains (pa / 256) = true := by
  have noted : (s.noteQcmd pa m).homeOf (pa / 256) = some k := ((State.MemorySide.noteQcmd s pa m).homeOf _).trans home
  unfold State.mergeSector
  simp only [noted]
  rw [State.slice_modSlice_same]
  exact Slice.taken_writeSector (State.slice _ k) (pa / 256) (pa / 64 % 4) key x m
end

/-! ## Writes of an agent -/

theorem extract_placed {n w i j : Nat} (x : BitVec n) (hi : n * (i + 1) ≤ w) :
    (x.setWidth w <<< (n * i)).extractLsb' (n * j) n = if j = i then x else 0 := by
  refine BitVec.eq_of_getLsbD_eq fun b hb => ?_
  rw [BitVec.getLsbD_extractLsb', decide_eq_true hb, Bool.true_and, BitVec.getLsbD_shiftLeft, BitVec.getLsbD_setWidth]
  rw [Nat.mul_succ] at hi
  split
  next e =>
    subst e
    have inside : n * j + b < w := by omega
    have left : ¬ n * j + b < n * j := by omega
    rw [Nat.add_sub_cancel_left, decide_eq_true inside, decide_eq_false left, decide_eq_true (by omega)]
    rfl
  next ne =>
    refine Eq.trans ?_ BitVec.getLsbD_zero.symm
    rcases Nat.lt_or_gt_of_ne ne with lt | gt
    · have below := Nat.mul_le_mul_left n (Nat.succ_le_of_lt lt)
      rw [Nat.mul_succ] at below
      rw [decide_eq_true (by omega : n * j + b < n * i)]
      simp only [Bool.not_true, Bool.and_false, Bool.false_and]
    · have above := Nat.mul_le_mul_left n (Nat.succ_le_of_lt gt)
      rw [Nat.mul_succ] at above
      rw [BitVec.getLsbD_of_ge x _ (by omega), Bool.and_false, Bool.and_false]

section
variable {s : State} {k pa key : Nat} {tm : Terms} {bs : List Byte}

/-- The bytes that a write of an agent puts in a sector, and where. -/
def placed (pa : Nat) (bs : List Byte) : Sector × BitVec 64 := (BitVec.ofNat 512 (leNat bs <<< (8 * (pa % 64))), maskAt 64 (pa % 64) bs.length)

/-- The same in the line of the sector. -/
def placedInLine (pa : Nat) (bs : List Byte) : BitVec 256 × BitVec 2048 :=
  ((placed pa bs).2.setWidth 256 <<< (64 * (pa / 64 % 4)), (placed pa bs).1.setWidth 2048 <<< (512 * (pa / 64 % 4)))

theorem Sector.under_placedInLine (x : Sector) (qa : Nat) : Sector.under (qa / 64 % 4) x (placedInLine pa bs) =
    if qa / 64 % 4 = pa / 64 % 4 then Sector.merge x (placed pa bs).1 (placed pa bs).2 else x := by
  unfold Sector.under placedInLine
  rw [extract_placed _ (by omega), extract_placed _ (by omega)]
  split
  · rfl
  · exact Sector.merge_zero x 0

/-- An agent's write to a quiet line merges at its home slice. -/
theorem State.writeSector_quiet (home : s.homeOf (pa / 256) = some k) (hq : s.quiet k (pa / 256) = true) :
    s.writeSector tm pa key bs = s.mergeSector pa key (placed pa bs).1 (placed pa bs).2 0 tm := by
  unfold State.writeSector
  simp only [home, hq, if_true]
  rfl

/-- An agent's write to another line goes to the home slice as the last of the agents' writes of the line. -/
theorem State.writeSector_busy (home : s.homeOf (pa / 256) = some k) (hq : s.quiet k (pa / 256) = false) :
    ((s.writeSector tm pa key bs).slice k).agentWrites (pa / 256) = (s.slice k).agentWrites (pa / 256) ++ [placedInLine pa bs] ∧
      (s.writeSector tm pa key bs).teams = s.teams ∧
      ∀ qa key', qa / 256 = pa / 256 → (s.writeSector tm pa key bs).sectorAt qa key' = s.sectorAt qa key' := by
  unfold State.writeSector
  simp only [home, hq, Bool.false_eq_true, if_false]
  refine ⟨?_, rfl, fun qa key' line => ?_⟩
  · rw [State.slice_modSlice_same]
    unfold Slice.agentWrites
    simp only [← List.append_assoc]
    rw [List.filterMap_append]
    congr 1
    simp only [List.filterMap_cons, List.filterMap_nil, if_true]
    rfl
  · refine State.SameButLine.sectorAt_pa (line := pa / 256) ?_ line home ?_
    · refine .trans (t := { s with nextUid := s.nextUid + 1 }) (.of_tables rfl) (.modSlice _ _ _ (fun _ => rfl) fun _ _ _ => rfl)
    · rw [State.slice_modSlice_same]
      rfl

/-- After a write the line is not quiet, or its home slice holds it. -/
theorem State.writeSector_room (home : s.homeOf (pa / 256) = some k) (hq : (s.writeSector tm pa key bs).quiet k (pa / 256) = true) :
    (s.writeSector tm pa key bs).RoomAtHome k (pa / 256) := by
  have home' := ((State.MemorySide.writeSector s tm pa key bs).homeOf (pa / 256)).trans home
  refine ⟨home', .inl ?_⟩
  cases h : s.quiet k (pa / 256) with
  | true =>
    rw [State.writeSector_quiet home h]
    exact State.mergeSector_taken home
  | false =>
    have none := (State.quiet_unmapped hq).2
    rw [(State.writeSector_busy home h).1] at none
    cases List.append_eq_nil_iff.mp none |>.2

/-- The home slice has an agent's write, or it is the last of the agents' writes of its line on their way there. -/
def State.HasWrite (s : State) (k pa : Nat) (bs : List Byte) : Prop :=
  s.homeOf (pa / 256) = some k ∧
    ((s.mapHoldersOf (pa / 256) = [] ∧ (s.slice k).agentWrites (pa / 256) = [] ∧
        ∀ key, ∃ y, s.sectorAt pa key = Sector.merge y (placed pa bs).1 (placed pa bs).2) ∨
      ∃ ws, (s.slice k).agentWrites (pa / 256) = ws ++ [placedInLine pa bs])

theorem State.HasWrite.seen (h : s.HasWrite k pa bs) (key : Nat) :
    ∃ y, s.sectorSeen pa key = Sector.merge y (placed pa bs).1 (placed pa bs).2 := by
  obtain ⟨home, ⟨unmapped, none, at_⟩ | ⟨ws, writes⟩⟩ := h
  · rw [State.sectorSeen_of_quiet home unmapped none]
    exact at_ key
  · rw [State.sectorSeen_of_home home, writes, List.foldl_append, List.foldl_cons, List.foldl_nil, Sector.under_placedInLine, if_pos rfl]
    exact ⟨_, rfl⟩

theorem State.writeSector_hasWrite (home : s.homeOf (pa / 256) = some k) : (s.writeSector tm pa key bs).HasWrite k pa bs := by
  refine ⟨((State.MemorySide.writeSector s tm pa key bs).homeOf (pa / 256)).trans home, ?_⟩
  cases h : s.quiet k (pa / 256) with
  | true =>
    obtain ⟨unmapped, none⟩ := State.quiet_unmapped h
    have same := State.MemorySide.writeSector s tm pa key bs
    rw [State.writeSector_quiet home h] at same ⊢
    exact .inl ⟨(same.mapHoldersOf _).trans unmapped, (State.mergeSector_agentWrites ..).trans none, fun key' => State.mergeSector_reads home key'⟩
  | false => exact .inr ⟨_, (State.writeSector_busy (tm := tm) (key := key) (bs := bs) home h).1⟩

/-- An agent reads its own write. -/
theorem State.writeSector_seen (home : s.homeOf (pa / 256) = some k) (key' : Nat) :
    ∃ y, (s.writeSector tm pa key bs).sectorSeen pa key' = Sector.merge y (placed pa bs).1 (placed pa bs).2 :=
  (State.writeSector_hasWrite home).seen key'

/-- The other sectors of the line read as before, when a quiet line has room at its home. -/
theorem State.writeSector_apart (home : s.homeOf (pa / 256) = some k) (room : s.quiet k (pa / 256) = true → s.RoomAtHome k (pa / 256))
    {qa : Nat} (line : qa / 256 = pa / 256) (apart : qa / 64 ≠ pa / 64) (key' : Nat) :
    (s.writeSector tm pa key bs).sectorSeen qa key' = s.sectorSeen qa key' := by
  have home' : (s.writeSector tm pa key bs).homeOf (qa / 256) = some k := by
    rw [line]
    exact ((State.MemorySide.writeSector s tm pa key bs).homeOf (pa / 256)).trans home
  rw [State.sectorSeen_of_home home', State.sectorSeen_of_home (line ▸ home)]
  cases h : s.quiet k (pa / 256) with
  | true =>
    rw [State.writeSector_quiet home h, State.mergeSector_agentWrites,
      State.underAgents_congr (State.MemorySide.mergeSector s ..).teams ((room h).mergeSector_apart line apart key')]
  | false =>
    obtain ⟨writes, teams, at_⟩ := State.writeSector_busy (tm := tm) (key := key) (bs := bs) home h
    rw [line, writes, List.foldl_append, List.foldl_cons, List.foldl_nil, Sector.under_placedInLine, if_neg (by omega),
      State.underAgents_congr teams (at_ qa key' line)]
end

/-! ## The bytes that an agent reads back -/

section
variable {s : State} {k pa key : Nat} {tm : Terms} {bs : List Byte}

theorem Sector.byte_placed (y : Sector) (fit : pa % 64 + bs.length ≤ 64) {i : Nat} (hi : i < bs.length) :
    Sector.byte (Sector.merge y (placed pa bs).1 (placed pa bs).2) (pa % 64 + i) = bs[i] := by
  have hm : (placed pa bs).2.getLsbD (pa % 64 + i) = true := by
    rw [placed, maskAt_getLsbD _ _ _ _ (by omega)]
    exact decide_eq_true ⟨by omega, by omega⟩
  rw [Sector.byte, Sector.byte_merge_new _ _ _ _ (by omega) hm, placed, extract_bytes_at _ _ _ _ (by omega) (by omega), Nat.add_sub_cancel_left]
  simp [hi]

theorem State.readSeen_sector {n : Nat} (h0 : 0 < n) (fit : pa % 64 + n ≤ 64) :
    s.readSeen pa n key = (List.range n).map fun i => Sector.byte (s.sectorSeen pa key) (pa % 64 + i) := by
  rw [State.readSeen, spanBytes, sectorSpans_one h0 fit, List.flatMap_cons, List.flatMap_nil, List.append_nil]

theorem State.writePaFor_sector (h0 : bs ≠ []) (fit : pa % 64 + bs.length ≤ 64) : s.writePaFor tm pa key bs = s.writeSector tm pa key bs := by
  rw [State.writePaFor, sectorSpans_one (List.length_pos_iff.mpr h0) fit]
  simp only [List.foldl_cons, List.foldl_nil, List.drop_zero, List.take_length]

theorem map_byte_placed (y : Sector) (fit : pa % 64 + bs.length ≤ 64) :
    ((List.range bs.length).map fun i => Sector.byte (Sector.merge y (placed pa bs).1 (placed pa bs).2) (pa % 64 + i)) = bs := by
  refine List.ext_getElem (by simp) fun i _ hi => ?_
  rw [List.getElem_map, List.getElem_range, Sector.byte_placed y fit hi]

/-- Bytes of one sector read back as they were written. -/
theorem State.readSeen_writePaFor (home : s.homeOf (pa / 256) = some k) (h0 : bs ≠ []) (fit : pa % 64 + bs.length ≤ 64) (key' : Nat) :
    (s.writePaFor tm pa key bs).readSeen pa bs.length key' = bs := by
  obtain ⟨y, hy⟩ := State.writeSector_seen (tm := tm) (key := key) (bs := bs) home key'
  rw [State.writePaFor_sector h0 fit, State.readSeen_sector (List.length_pos_iff.mpr h0) fit, hy, map_byte_placed y fit]
end
end Sys2Proof.Machine
end

section
/-! SUPPORT. Event records and links (R352, R356-R358): what reporting an event changes beside the memory side. -/

namespace Sys2Proof.Machine

/-- A state that differs at most in the memory side and in the event queue. -/
structure State.EventSide (s t : State) : Prop where
  rest : t = { s with mem := t.mem, slices := t.slices, queues := t.queues, routers := t.routers, socks := t.socks, nextUid := t.nextUid, evq := t.evq }

section
variable {s t u : State}

theorem State.EventSide.refl (s : State) : s.EventSide s := ⟨rfl⟩

theorem State.EventSide.trans (h : s.EventSide t) (k : t.EventSide u) : s.EventSide u := by
  refine ⟨?_⟩
  have e := k.rest
  rw [h.rest] at e
  exact e

theorem State.EventSide.of_memory (h : s.MemorySide t) : s.EventSide t := ⟨by
  have e := h.rest
  generalize t.mem = a1, t.slices = a2, t.queues = a3, t.routers = a4, t.socks = a5, t.nextUid = a6 at e
  subst e
  rfl⟩

theorem State.EventSide.foldl {α : Type} (f : State → α → State) (hf : ∀ (s : State) (a : α), s.EventSide (f s a)) (l : List α)
    (s : State) : s.EventSide (l.foldl f s) := by
  induction l generalizing s with
  | nil => exact .refl s
  | cons a l ih => exact (hf s a).trans (ih _)

theorem State.EventSide.links (h : s.EventSide t) : t.links = s.links := by rw [h.rest]
theorem State.EventSide.parts (h : s.EventSide t) : t.parts = s.parts := by rw [h.rest]
theorem State.EventSide.link (h : s.EventSide t) (l : Nat) : t.link l = s.link l := State.link_congr s t h.links l
theorem State.EventSide.part (h : s.EventSide t) (p : Nat) : t.part p = s.part p := State.part_congr s t h.parts p

theorem State.EventSide.putEvent (s : State) (bs : List Byte) : s.EventSide (s.putEvent bs) := by
  unfold State.putEvent
  dsimp only
  split
  · exact ⟨rfl⟩
  · exact .trans (.of_memory (.writePa s ..)) ⟨rfl⟩

theorem State.EventSide.partEvent (s : State) (source code part x : Nat) : s.EventSide (s.partEvent source code part x) := .putEvent ..

theorem State.EventSide.linkEvent (s : State) (l : Nat) (r : LinkRecord) : s.EventSide (s.linkEvent l r) := .putEvent ..
end

/-- Whether the event queue takes no record. -/
def EvQueue.Full (q : EvQueue) : Prop :=
  q.base = 0 ∨ q.log2.toNat < 6 ∨ 16 < q.log2.toNat ∨ 2 ^ q.log2.toNat ≤ (q.tail - q.head).toNat

/-- Where the next record goes. -/
def EvQueue.slot (q : EvQueue) : Nat := q.base.toNat + 32 * (q.tail.toNat % 2 ^ q.log2.toNat)

section
variable {s : State} {bs : List Byte}

theorem State.putEvent_full (h : s.evq.Full) : s.putEvent bs = { s with evq := { s.evq with drop := s.evq.drop + 1 } } := if_pos h

theorem State.putEvent_room (h : ¬ s.evq.Full) :
    s.putEvent bs = { s.writePa s.evq.slot 0 bs with evq := { s.evq with tail := s.evq.tail + 1 } } := if_neg h

/-- A record that finds room reads back from its slot. -/
theorem State.readSeen_putEvent (h : ¬ s.evq.Full) (len : bs.length = 32) (aligned : s.evq.base.toNat % 4096 = 0)
    (home : (s.homeOf (s.evq.slot / 256)).isSome = true) : (s.putEvent bs).readSeen s.evq.slot 32 0 = bs := by
  obtain ⟨k, hk⟩ := Option.isSome_iff_exists.mp home
  rw [State.putEvent_room h]
  have fit : s.evq.slot % 64 + bs.length ≤ 64 := by
    rw [len, EvQueue.slot]
    omega
  have reads := State.readSeen_writePaFor (tm := Terms.nobody (s.ownerOf s.evq.slot)) (key := 0) hk (List.ne_nil_of_length_pos (by omega)) fit 0
  rw [len] at reads
  exact reads
end

theorem eventBytes_link (r : LinkRecord) (l : Nat) :
    eventBytes r.tsc (linkSource l) r.code (toLe 1 l ++ toLe 2 r.oldMask.toNat ++ toLe 2 r.newMask.toNat ++ toLe 4 r.replayed ++
      toLe 4 r.darkNs.toNat ++ toLe 1 r.dir) =
    toLe 8 r.tsc.toNat ++ toLe 2 (linkSource l) ++ toLe 1 r.code ++ toLe 1 l ++ toLe 2 r.oldMask.toNat ++ toLe 2 r.newMask.toNat ++
      toLe 4 r.replayed ++ toLe 4 r.darkNs.toNat ++ toLe 1 r.dir ++ List.replicate 7 0 := by
  have detail : (toLe 1 l ++ toLe 2 r.oldMask.toNat ++ toLe 2 r.newMask.toNat ++ toLe 4 r.replayed ++ toLe 4 r.darkNs.toNat ++
      toLe 1 r.dir).length = 14 := by
    simp only [List.length_append, toLe_length]
  unfold eventBytes
  rw [List.take_append, detail, List.take_of_length_le (by omega), List.take_replicate]
  simp only [List.append_assoc]
  rfl

theorem linkRecord_length (r : LinkRecord) (l : Nat) :
    (toLe 8 r.tsc.toNat ++ toLe 2 (linkSource l) ++ toLe 1 r.code ++ toLe 1 l ++ toLe 2 r.oldMask.toNat ++ toLe 2 r.newMask.toNat ++
      toLe 4 r.replayed ++ toLe 4 r.darkNs.toNat ++ toLe 1 r.dir ++ List.replicate 7 (0 : Byte)).length = 32 := by
  simp only [List.length_append, toLe_length, List.length_replicate]

theorem State.linkEvent_eq (s : State) (l : Nat) (r : LinkRecord) : s.linkEvent l r = s.putEvent
    (toLe 8 r.tsc.toNat ++ toLe 2 (linkSource l) ++ toLe 1 r.code ++ toLe 1 l ++ toLe 2 r.oldMask.toNat ++ toLe 2 r.newMask.toNat ++
      toLe 4 r.replayed ++ toLe 4 r.darkNs.toNat ++ toLe 1 r.dir ++ List.replicate 7 0) := by
  rw [State.linkEvent, eventBytes_link]

/-! ## What becomes of a link -/

theorem laserWaves_bit : ∀ source < 4, ∀ w < 16, (laserWaves source).getLsbD w = decide (w / 4 = source) := by decide

section
variable (s : State) (l : Nat)

theorem State.askHost_link (part m : Nat) : (s.askHost part m).link l = s.link l := by
  unfold State.askHost
  split
  · exact (State.EventSide.partEvent ..).link l
  · rfl

theorem State.linkLost_link (part m : Nat) : (s.linkLost part m).link l = s.link l := by
  unfold State.linkLost
  split
  · rfl
  · rfl

theorem foldl_link {α : Type} (f : State → α → State) (hf : ∀ (s : State) (a : α), (f s a).link l = s.link l) (as : List α) (s : State) :
    (as.foldl f s).link l = s.link l := by
  induction as generalizing s with
  | nil => rfl
  | cons a as ih => exact (ih _).trans (hf s a)

/-- What the loss of a link leaves of it. -/
def Link.lost (k : Link) (since : W64) : Link :=
  { k with
    inService := false, retraining := true, retrainFailed := false, resendAt := 0
    outstanding := k.outstanding.map fun o => if o.sent then o else { o with since := some since } }

theorem State.loseLink_link (h : (s.link l).inService = true) : (s.loseLink l).link l = (s.link l).lost s.tsc := by
  unfold State.loseLink
  simp only [h, Bool.not_true, Bool.false_eq_true, if_false]
  refine (foldl_link l (fun s p => s.askHost p l) (fun s p => s.askHost_link l p l) (s.link l).partitions _).trans ?_
  unfold State.holdUnsent
  rw [State.link_modLink_same, State.link_modLink_same]
  have told (a b : LinkRecord) : s.EventSide ((s.linkEvent l a).linkEvent l b) := (State.EventSide.linkEvent s l a).trans (.linkEvent _ l b)
  have tsc (a b : LinkRecord) : ((s.linkEvent l a).linkEvent l b).tsc = s.tsc := by rw [(told a b).rest]
  rw [State.modLink_tsc, tsc, (told _ _).link]
  rfl

end
end Sys2Proof.Machine
end

section
/-! PROOFS. Light, loss and recovery of links (O57). -/

namespace Sys2Proof.Machine

section
variable (s : State) (l : Nat)

/-- The loss of a laser source as O57 states it. -/
theorem lossOfLight_laser {source : Nat} (h : source < 4) (lost : BitVec 16) :
    ∃ u, exec (.lossOfLight l lost (some source)) s = .next u ∧ u.links = s.links ∧
      ∀ w, w < 16 → u.lasersOut.getLsbD w = (s.lasersOut.getLsbD w || decide (w / 4 = source)) := by
  refine ⟨_, rfl, rfl, fun w hw => ?_⟩
  rw [BitVec.getLsbD_or, laserWaves_bit source h w hw]

/-- A record that is final as O57 states it. -/
theorem linkEventRecord_final {r : LinkRecord} {rest : List LinkRecord} (hr : (s.link l).records = r :: rest) (ha : r.accepted = true)
    (hd : r.dir = 1 ∨ (s.link l).resendAt = 0) :
    exec (.linkEventRecord l) s = .next ((s.modLink l fun k => { k with records := rest }).linkEvent l r) := by
  have final : (r.accepted && (r.dir == 1 || (s.link l).resendAt == 0)) = true := by simpa [ha] using hd
  show execLinkEventRecord l s = _
  unfold execLinkEventRecord
  simp only [hr, takeFirst, final, Bool.true_or, if_true]

/-- The end of a retrain on at least four wavelengths. -/
theorem retrainEnd_lit {rx tx : BitVec 16} (h : (s.link l).retraining = true) (hr : 4 ≤ waveCount rx) (ht : 4 ≤ waveCount tx) :
    ∃ u, exec (.retrainEnd l rx tx) s = .next u ∧ (u.link l).retraining = false ∧ (u.link l).inService = true ∧
      (u.link l).rxMask = s.inUse l rx ∧ (u.link l).txMask = s.inUse l tx ∧ (u.link l).resendAt = (s.link l).replay.length := by
  show ∃ u, execRetrainEnd l rx tx s = .next u ∧ _
  unfold execRetrainEnd
  simp only [h, Bool.not_true, Bool.false_eq_true, if_false, hr, ht, and_self, if_true]
  refine ⟨_, rfl, ?_⟩
  unfold State.holdUnsent State.newMasks
  simp only [State.link_modLink_same]
  exact ⟨trivial, trivial, rfl, rfl, rfl⟩

theorem State.flushRecords_link : (s.flushRecords l).link l = { s.link l with records := [] } := by
  unfold State.flushRecords
  refine (foldl_link l (fun s r => s.linkEvent l r) (fun s r => (State.EventSide.linkEvent s l r).link l) _ _).trans ?_
  exact State.link_modLink_same ..

/-- The end of a retrain that failed. -/
theorem retrainEnd_dark {rx tx : BitVec 16} (h : (s.link l).retraining = true) (dark : waveCount rx < 4 ∨ waveCount tx < 4) :
    ∃ u, exec (.retrainEnd l rx tx) s = .next u ∧ (u.link l).retraining = false ∧ (u.link l).retrainFailed = true ∧
      (u.link l).inService = (s.link l).inService := by
  show ∃ u, execRetrainEnd l rx tx s = .next u ∧ _
  unfold execRetrainEnd
  simp only [h, Bool.not_true, Bool.false_eq_true, if_false, show ¬ (4 ≤ waveCount rx ∧ 4 ≤ waveCount tx) by omega]
  refine ⟨_, rfl, ?_⟩
  rw [foldl_link l _ (fun s p => ?_) (s.link l).partitions]
  · rw [State.flushRecords_link, State.link_modLink_same]
    exact ⟨rfl, rfl, rfl⟩
  · split
    · rfl
    · exact s.linkLost_link l p l

theorem State.wavesBack_link (rx tx : BitVec 16) : ((s.wavesBack l rx tx).link l).txMask = s.inUse l ((s.link l).txMask ||| tx) ∧
    ((s.wavesBack l rx tx).link l).rxMask = s.inUse l ((s.link l).rxMask ||| rx) ∧ ((s.wavesBack l rx tx).link l).probe = (s.link l).probe := by
  unfold State.wavesBack State.newMasks
  simp only [State.link_modLink_same]
  exact ⟨trivial, trivial, rfl⟩

/-- RESTORE of a link in service as O57 states it. -/
theorem restore_inService {waves rx tx : BitVec 16} (hb : s.bootstat = 1) (hl : l < 32) (hw : waves ≠ 0)
    (hu : (s.unit (linkUnit l)).state < 3) (hs : (s.link l).inService = true) :
    ∃ u, exec (.restore l waves rx tx) s = .next u ∧ (u.link l).txMask = s.inUse l ((s.link l).txMask ||| (waves &&& tx)) ∧
      (u.link l).rxMask = s.inUse l ((s.link l).rxMask ||| (waves &&& rx)) ∧ (u.link l).probe = waves := by
  show ∃ u, Host.Outcome.next (if s.bootstat = 1 then s.restoreLink l waves rx tx 0 else s) = .next u ∧ _
  have valid : ¬ (32 ≤ l ∨ waves = 0) := by
    rintro (h | h)
    · omega
    · exact hw h
  rw [if_pos hb, State.restoreLink, if_neg valid]
  simp only [show ¬ 3 ≤ (s.unit (linkUnit l)).state by omega, if_false, hs, if_true]
  refine ⟨_, rfl, ?_⟩
  obtain ⟨txs, rxs, probe⟩ := State.wavesBack_link (s.modLink l fun k => { k with probe := waves, asked := 0 }) l (waves &&& rx) (waves &&& tx)
  rw [txs, rxs, probe, State.link_modLink_same]
  exact ⟨rfl, rfl, rfl⟩

section
variable {s l} {p : Nat} {t : W64} (h : (s.part p).linkHeld = [(l, t)])
include h

theorem State.heldSince_only : (s.heldSince p l).isSome = true := by
  rw [State.heldSince, h]
  simp

theorem State.unhold_only : ((s.unhold p l).part p).linkHeld = [] ∧ ((s.unhold p l).part p).causes = (s.part p).causes ∧
    ((s.unhold p l).part p).pstate = (s.part p).pstate := by
  have e : (s.unhold p l).part p = { s.part p with linkHeld := (s.part p).linkHeld.filter (·.1 != l) } := by
    unfold State.unhold
    exact (State.part_congr _ _ (State.modLink_parts ..) p).trans (State.part_modPart_same ..)
  rw [e, h]
  refine ⟨?_, rfl, rfl⟩
  simp

omit h in
/-- A partition that waits for a link may find it lost. -/
theorem State.linkLost_part (v : State) (q : Nat) : ((v.linkLost q l).part p).linkHeld = (v.part p).linkHeld ∧
    ((v.linkLost q l).part p).linkWaits = (v.part p).linkWaits := by
  unfold State.linkLost
  split
  · by_cases e : p = q
    · subst e
      rw [State.raise, State.part_modPart_same]
      exact ⟨rfl, rfl⟩
    · rw [State.raise, State.part_modPart_other _ _ _ _ e]
      exact ⟨rfl, rfl⟩
  · exact ⟨rfl, rfl⟩

omit h in
/-- A link that is lost for a running partition raises its cause. -/
theorem State.linkLost_raises {v : State} (hr : v.running p = true) :
    ∃ r, ((v.linkLost p l).part p).causes = (v.part p).causes ++ [r] ∧ r.cause = .linklost := by
  unfold State.linkLost
  rw [if_pos hr]
  dsimp only
  rw [State.raise, State.part_modPart_same]
  exact ⟨_, rfl, rfl⟩

theorem linksvcWait_held (hb : s.bootstat = 1) :
    ∃ u, exec (.linksvcWait p l) s = .next u ∧ (u.part p).linkHeld = [] ∧ l ∈ (u.part p).linkWaits := by
  show ∃ u, execLinksvcWait p l s = .next u ∧ _
  unfold execLinksvcWait State.command
  dsimp only
  rw [if_pos hb, if_pos (State.heldSince_only h)]
  refine ⟨_, rfl, ?_⟩
  generalize hv : (s.unhold p l).modPart p (fun x => { x with linkWaits := l :: x.linkWaits.erase l }) = v
  have out : (v.part p).linkHeld = [] ∧ l ∈ (v.part p).linkWaits := by
    rw [← hv, State.part_modPart_same]
    exact ⟨(State.unhold_only h).1, List.mem_cons_self⟩
  split
  · obtain ⟨held, waits⟩ := State.linkLost_part (p := p) (l := l) v p
    rw [held, waits]
    exact out
  · exact out

theorem linksvcLinklost_held (hb : s.bootstat = 1) (hr : s.running p = true) :
    ∃ u r, exec (.linksvcLinklost p l) s = .next u ∧ (u.part p).linkHeld = [] ∧ (u.part p).causes = (s.part p).causes ++ [r] ∧ r.cause = .linklost := by
  obtain ⟨held, causes, pstate⟩ := State.unhold_only h
  have running : (s.unhold p l).running p = true := by
    unfold State.running at hr ⊢
    rw [causes, pstate]
    exact hr
  have run : exec (.linksvcLinklost p l) s = .next ((s.unhold p l).linkLost p l) := by
    show execLinksvcLinklost p l s = _
    unfold execLinksvcLinklost State.command
    dsimp only
    rw [if_pos hb, if_pos (State.heldSince_only h)]
  obtain ⟨r, raised, cause⟩ := State.linkLost_raises (l := l) running
  exact ⟨_, r, run, (State.linkLost_part _ p).1.trans held, raised.trans (by rw [causes]), cause⟩
end
end

/-- Settles O57, event by event. -/
theorem linkEvents : Obligations.LinkEvents := by
  intro s l
  refine ⟨fun lost _ hs hl => ?_, fun source lost hs => lossOfLight_laser s l hs lost, fun hs hr hm => ?_, fun r rest hr ha hd => ?_,
    fun hs hw => ?_, fun rx tx hr => ?_, fun waves rx tx hb hl hw hu hs => restore_inService s l hb hl hw hu hs,
    fun p t hb h => ⟨linksvcWait_held h hb, linksvcLinklost_held h hb⟩⟩
  · have light : ((s.link l).inService && (s.link l).lit &&& lost != 0) = true := by rw [hs, Bool.true_and, bne_iff_ne]; exact hl
    show ∃ u, execLossOfLight l lost none s = .next u ∧ _
    rw [execLossOfLight, if_pos light]
    refine ⟨_, rfl, ?_⟩
    rw [State.link_modLink_same]
    exact ⟨rfl, rfl, rfl, rfl, rfl⟩
  · have dark : ((s.link l).inService && (s.link l).rxMask &&& (s.link l).lit == (s.link l).rxMask &&& (s.link l).lit &&
        (s.link l).rxMask &&& (s.link l).lit == (s.link l).rxMask &&& (s.link l).reported &&
        (s.link l).txMask &&& (s.link l).peerLit == (s.link l).txMask &&& (s.link l).peerLit &&
        ((s.link l).rxMask &&& (s.link l).lit != (s.link l).rxMask || (s.link l).txMask &&& (s.link l).peerLit != (s.link l).txMask)) = true := by
      rw [hs, hr]
      simpa using hm
    show ∃ u, execRestripe l _ _ s = .next u ∧ _
    unfold execRestripe
    dsimp only
    rw [if_pos dark]
    refine ⟨_, rfl, ?_⟩
    unfold State.newMasks
    rw [State.link_modLink_same]
    exact ⟨rfl, rfl⟩
  · refine ⟨_, linkEventRecord_final s l hr ha hd, ?_, fun full => ?_, fun room => ⟨?_, ?_, fun aligned home => ?_⟩⟩
    · rw [(State.EventSide.linkEvent ..).link, State.link_modLink_same]
    · rw [State.linkEvent_eq, State.putEvent_full (s := s.modLink l _) full]
      exact ⟨rfl, rfl, rfl⟩
    · rw [State.linkEvent_eq, State.putEvent_room (s := s.modLink l _) room]
      rfl
    · rw [State.linkEvent_eq, State.putEvent_room (s := s.modLink l _) room]
      rfl
    · rw [State.linkEvent_eq]
      exact State.readSeen_putEvent (s := s.modLink l _) room (linkRecord_length r l) aligned home
  · have run : exec (.linkLost l) s = .next (s.loseLink l) := by
      show execLinkLost l s = _
      unfold execLinkLost
      dsimp only
      refine if_pos ?_
      simpa [or_assoc] using .inr hw
    refine ⟨_, run, ?_⟩
    rw [State.loseLink_link s l hs]
    exact ⟨rfl, rfl, rfl⟩
  · show ∃ u, execRetrainEnd l rx tx s = .next u ∧ _
    by_cases lit : 4 ≤ waveCount rx ∧ 4 ≤ waveCount tx
    · obtain ⟨u, run, done, up, rxs, txs, again⟩ := retrainEnd_lit s l hr lit.1 lit.2
      exact ⟨u, run, done, fun _ _ => ⟨up, rxs, txs, again⟩, fun dark => by omega⟩
    · obtain ⟨u, run, done, failed, same⟩ := retrainEnd_dark s l hr (rx := rx) (tx := tx) (by omega)
      exact ⟨u, run, done, fun _ _ => by omega, fun _ => ⟨failed, same⟩⟩

end Sys2Proof.Machine
end

section
/-! SUPPORT. The posts of queues (R341): what an agent's write of a slot and of TAIL reads back as, and that waking subsets changes no
byte that an agent reads. -/

namespace Sys2Proof.Machine

/-! ## Writes of two sectors -/

section
variable {s : State} {k pa key : Nat} {tm : Terms} {bs : List Byte}

theorem sectorSpans_two (h : pa % 64 = 0) : sectorSpans pa 128 = [(0, pa, 64), (64, pa + 64, 64)] := by
  have count : (pa % 64 + 128 + 63) / 64 = 2 := by omega
  have first : Nat.min (pa + 128) (pa + 64) - pa = 64 := by
    show min _ _ - pa = 64
    omega
  have second : Nat.min (pa + 128) (pa + 64 - (pa + 64) % 64 + 64) - (pa + 64) = 64 := by
    show min _ _ - (pa + 64) = 64
    omega
  unfold sectorSpans
  rw [count, show List.range 2 = [0, 1] from rfl]
  simp only [List.map_cons, List.map_nil, if_true, Nat.one_ne_zero, if_false, h, Nat.sub_zero, first, second, Nat.sub_self,
    Nat.add_sub_cancel_left]

/-- Two sectors of one line read back as they were written. -/
theorem State.readSeen_writePaFor_two (home : s.homeOf (pa / 256) = some k) (len : bs.length = 128) (aligned : pa % 128 = 0) (key' : Nat) :
    (s.writePaFor tm pa key bs).readSeen pa 128 key' = bs := by
  have line : (pa + 64) / 256 = pa / 256 := by omega
  have first : (bs.take 64).length = 64 := by rw [List.length_take, len]; rfl
  have second : ((bs.drop 64).take 64).length = 64 := by rw [List.length_take, List.length_drop, len]; rfl
  have spans := sectorSpans_two (pa := pa) (by omega)
  generalize hv : s.writeSector tm pa key (bs.take 64) = v
  have out : s.writePaFor tm pa key bs = v.writeSector tm (pa + 64) key ((bs.drop 64).take 64) := by
    rw [State.writePaFor, len, spans, List.foldl_cons, List.foldl_cons, List.foldl_nil]
    dsimp only
    rw [List.drop_zero, hv]
  have homev : v.homeOf ((pa + 64) / 256) = some k := by
    rw [line, ← hv]
    exact ((State.MemorySide.writeSector s tm pa key (bs.take 64)).homeOf _).trans home
  obtain ⟨y, seen⟩ := State.writeSector_seen (tm := tm) (key := key) (bs := bs.take 64) home key'
  obtain ⟨z, seen'⟩ := State.writeSector_seen (tm := tm) (key := key) (bs := (bs.drop 64).take 64) homev key'
  have kept : (v.writeSector tm (pa + 64) key ((bs.drop 64).take 64)).sectorSeen pa key' = v.sectorSeen pa key' := by
    refine State.writeSector_apart homev (fun hq => ?_) (by omega) (by omega) key'
    rw [line] at hq ⊢
    rw [← hv] at hq ⊢
    exact State.writeSector_room home hq
  rw [hv] at seen
  rw [out, State.readSeen, spanBytes, spans, List.flatMap_cons, List.flatMap_cons, List.flatMap_nil, List.append_nil]
  dsimp only
  rw [kept, seen, seen']
  have low := map_byte_placed (pa := pa) (bs := bs.take 64) y (by rw [first]; omega)
  have high := map_byte_placed (pa := pa + 64) (bs := (bs.drop 64).take 64) z (by rw [second]; omega)
  rw [first] at low
  rw [second] at high
  rw [low, high, List.take_of_length_le (l := bs.drop 64) (by rw [List.length_drop, len]), List.take_append_drop]
end

/-! ## Wakes -/

/-- A state whose teams map what the teams of another map. -/
def State.MapsFrom (s t : State) : Prop := ∀ e ∈ t.teams, ∃ e' ∈ s.teams, e.2.maps = e'.2.maps

section
variable {s t u : State}

theorem State.MapsFrom.refl (s : State) : s.MapsFrom s := fun e he => ⟨e, he, rfl⟩

theorem State.MapsFrom.trans (h : s.MapsFrom t) (k : t.MapsFrom u) : s.MapsFrom u := fun e he => by
  obtain ⟨e₁, h₁, m₁⟩ := k e he
  obtain ⟨e₂, h₂, m₂⟩ := h e₁ h₁
  exact ⟨e₂, h₂, m₁.trans m₂⟩

theorem State.MapsFrom.foldl {α : Type} (f : State → α → State) (hf : ∀ (s : State) (a : α), s.MapsFrom (f s a)) (l : List α) (s : State) :
    s.MapsFrom (l.foldl f s) := by
  induction l generalizing s with
  | nil => exact .refl s
  | cons a l ih => exact (hf s a).trans (ih _)

theorem State.MapsFrom.modWave (s : State) (x w : Nat) (f : Wave → Wave) : s.MapsFrom (s.modWave x w f) := by
  intro e he
  unfold State.modWave State.modTeam at he
  split at he
  next tm ht =>
    rcases AMap.mem_of_mem_set he with rfl | he
    · refine ⟨(x, tm), AMap.mem_of_get? ht, ?_⟩
      dsimp only
      unfold Team.modWave
      split <;> rfl
    · exact ⟨e, he, rfl⟩
  · exact ⟨e, he, rfl⟩

theorem State.MapsFrom.channelWake (s : State) : s.MapsFrom s.channelWake := by
  unfold State.channelWake
  refine .foldl _ (fun s a => ?_) _ _
  split
  · exact .refl s
  · refine .foldl _ (fun s b => ?_) _ _
    split
    · exact State.MapsFrom.modWave s a.1 b.1 _
    · exact .refl s

theorem State.MapsFrom.unmapped (h : s.MapsFrom t) {line : Nat} (none : s.mapHoldersOf line = []) : t.mapHoldersOf line = [] := by
  refine List.eq_nil_iff_forall_not_mem.mpr fun y hy => ?_
  obtain ⟨e, he, hy⟩ := List.mem_flatMap.mp hy
  obtain ⟨m, hm, hy⟩ := List.mem_flatMap.mp hy
  obtain ⟨x, hx, rfl⟩ := List.mem_map.mp hy
  obtain ⟨e', he', maps⟩ := h e he
  have : (e'.1, x.1, x.2) ∈ s.mapHoldersOf line :=
    List.mem_flatMap.mpr ⟨e', he', List.mem_flatMap.mpr ⟨m, maps ▸ hm, List.mem_map.mpr ⟨x, hx, rfl⟩⟩⟩
  rw [none] at this
  cases this
end

section
variable {s : State} {k pa : Nat} {bs : List Byte}

theorem State.HasWrite.readSeen (h : s.HasWrite k pa bs) (h0 : bs ≠ []) (fit : pa % 64 + bs.length ≤ 64) (key : Nat) :
    s.readSeen pa bs.length key = bs := by
  obtain ⟨y, hy⟩ := h.seen key
  rw [State.readSeen_sector (List.length_pos_iff.mpr h0) fit, hy, map_byte_placed y fit]

/-- It stays so when teams only wake and queues change. -/
theorem State.HasWrite.of_wakes {t : State} (h : s.HasWrite k pa bs) (same : t = { s with teams := t.teams, queues := t.queues }) (maps : s.MapsFrom t) :
    t.HasWrite k pa bs := by
  have slices : (t.slice k) = s.slice k := State.slice_congr s t (by rw [same]) k
  have tables : s.SameButLine (pa / 256) t := .of_tables (by
    generalize t.teams = a, t.queues = b at same
    subst same
    rfl)
  obtain ⟨home, rest⟩ := h
  refine ⟨(tables.homeOf _).trans home, ?_⟩
  rw [slices]
  refine rest.imp (fun ⟨unmapped, idle, at_⟩ => ⟨maps.unmapped unmapped, idle, fun key => ?_⟩) id
  rw [tables.sectorAt_pa (k := k) rfl home (by rw [slices])]
  exact at_ key
end

/-! ## Posts that a write does not touch -/

/-- A state in which the same posts wait at every queue. -/
structure State.KeepsPosts (s t : State) : Prop where
  posts : ∀ k, (t.queue k).posts = (s.queue k).posts

section
variable {s t u : State}

theorem State.KeepsPosts.refl (s : State) : s.KeepsPosts s := ⟨fun _ => rfl⟩

theorem State.KeepsPosts.trans (h : s.KeepsPosts t) (k : t.KeepsPosts u) : s.KeepsPosts u := ⟨fun q => (k.posts q).trans (h.posts q)⟩

theorem State.KeepsPosts.of_queues (h : t.queues = s.queues) : s.KeepsPosts t := ⟨fun k => by rw [State.queue_congr s t h]⟩

theorem State.KeepsPosts.foldl {α : Type} (f : State → α → State) (hf : ∀ (s : State) (a : α), s.KeepsPosts (f s a)) (l : List α) (s : State) :
    s.KeepsPosts (l.foldl f s) := by
  induction l generalizing s with
  | nil => exact .refl s
  | cons a l ih => exact (hf s a).trans (ih _)

theorem State.KeepsPosts.noteQcmd (s : State) (pa : Nat) (m : BitVec 64) : s.KeepsPosts (s.noteQcmd pa m) := by
  unfold State.noteQcmd
  split
  · refine ⟨fun k => ?_⟩
    simp only [State.queue, AMap.getD, AMap.get?_mapVals]
    cases s.queues.get? k with
    | none => rfl
    | some q =>
      simp only [Option.map_some, Option.getD_some]
      split <;> rfl
  · exact .refl s

theorem State.KeepsPosts.spillLine (s : State) (k line net : Nat) (tm : Terms) : s.KeepsPosts (s.spillLine k line net tm) := by
  unfold State.spillLine
  split
  · exact .refl s
  · dsimp only
    split
    · exact .of_queues rfl
    · exact .of_queues rfl

theorem State.KeepsPosts.sliceRoom (s : State) (k line net : Nat) (tm : Terms) : s.KeepsPosts (s.sliceRoom k line net tm) := by
  unfold State.sliceRoom
  dsimp only
  split
  · exact .refl s
  · split
    · exact .spillLine ..
    · exact .refl s

theorem State.KeepsPosts.mergeSector (s : State) (pa key : Nat) (x : Sector) (m : BitVec 64) (net : Nat) (tm : Terms) :
    s.KeepsPosts (s.mergeSector pa key x m net tm) := by
  unfold State.mergeSector
  refine .trans (.noteQcmd s pa m) ?_
  dsimp only
  split
  · obtain ⟨a, bs, e⟩ := (s.noteQcmd pa m).storeSector_writes pa key x m
    rw [e]
    exact .of_queues rfl
  · exact .trans (.sliceRoom ..) (.of_queues rfl)

theorem State.KeepsPosts.writeSector (s : State) (tm : Terms) (pa key : Nat) (bs : List Byte) : s.KeepsPosts (s.writeSector tm pa key bs) := by
  unfold State.writeSector
  dsimp only
  split
  · split
    · exact .mergeSector ..
    · exact .trans (t := { s with nextUid := s.nextUid + 1 }) (.of_queues rfl) (.trans (.noteQcmd _ pa _) (.of_queues rfl))
  · split
    · exact .mergeSector ..
    · exact .of_queues rfl

theorem State.KeepsPosts.writePaFor (s : State) (tm : Terms) (pa key : Nat) (bs : List Byte) : s.KeepsPosts (s.writePaFor tm pa key bs) :=
  .foldl _ (fun _ _ => .writeSector ..) _ _
end

theorem State.channelWake_core (s : State) (j : Nat) : s.channelWake.core j = s.core j :=
  State.core_congr _ _ (by rw [s.channelWake_onlyWakes.rest]) j

theorem State.channelWake_port (s : State) (j : Nat) : s.channelWake.port j = s.port j :=
  State.port_congr _ _ (by rw [s.channelWake_onlyWakes.rest]) j

theorem State.channelWake_queues (s : State) : s.channelWake.queues = s.queues := by rw [s.channelWake_onlyWakes.rest]

end Sys2Proof.Machine
end

section
/-! PROOFS. Members behind channels (O51). -/

namespace Sys2Proof.Machine

/-- What a post reads of its control block, and the slot that it goes to. -/
def State.postTail (s : State) (x : Post) : Nat := s.readPa x.cb 8
def State.postSize (s : State) (x : Post) : Nat := 2 ^ s.readPa (x.cb + 24) 1
def State.postSlot (s : State) (x : Post) : Nat := s.readPa (x.cb + 16) 8 + s.postTail x % s.postSize x * 128

/-- A post that is refused at an address. -/
def State.deniedPost (s : State) (k : Nat) (x : Post) (rest : List Post) (pa : Nat) : State :=
  let who := (s.askerLaunch (.op x.team x.wave 0)).getD (0xFFFF, 0)
  (s.raise x.part .permission (engineSource x.part) (BitVec.ofNat 64 pa) 0 who.1 who.2).modQueue k fun q => { q with posts := rest }

section
variable (s : State) (k : Nat)

/-- An entry that has crossed, as O51 states it. -/
theorem neighbourEntryArrival_crossed {dir : Nat} {e : LinkEntry} {rest : List LinkEntry} (h : (s.core k).links.getD dir [] = e :: rest)
    (turn : s.linkTurn k dir = some k) :
    ∃ u, exec (.neighbourEntryArrival k dir) s = .next u ∧ (u.core k).links.getD dir [] = rest ∧
      ((s.spindle (e.target / 36)).fenced = false → (u.core e.target).recv.getD (oppositeDir dir) [] =
        (s.core e.target).recv.getD (oppositeDir dir) [] ++ [e.vec]) ∧
      ((s.spindle (e.target / 36)).fenced = true → (u.core e.target).recv = (s.core e.target).recv) := by
  generalize hv : ((s.modCore k fun c => { c with links := c.links.set dir rest }).modStation (stationOf k) fun st =>
    { st with turn := st.turn.set dir ((k % 36 % 4 + 1) % 4), linkFrom := st.linkFrom.set dir (s.cycleOf k + 1) }) = v
  have core (j : Nat) : v.core j = if j = k then { s.core k with links := (s.core k).links.set dir rest } else s.core j := by
    rw [← hv]
    exact (State.core_congr _ _ (State.modStation_cores ..) j).trans (State.core_modCore ..)
  have links : (v.core k).links.getD dir [] = rest := by
    rw [core, if_pos rfl]
    exact AMap.getD_set_same ..
  have recv (j : Nat) : (v.core j).recv = (s.core j).recv := by
    rw [core]
    split
    next e => rw [e]
    · rfl
  have fenced : v.spindle (e.target / 36) = s.spindle (e.target / 36) := by
    rw [← hv]
    rfl
  have run : exec (.neighbourEntryArrival k dir) s = if (v.spindle (e.target / 36)).fenced then .next v
      else .next ((v.modCore e.target fun c =>
        { c with recv := c.recv.set (oppositeDir dir) (c.recv.getD (oppositeDir dir) [] ++ [e.vec]) }).channelWake) := by
    show execNeighbourEntryArrival k dir s = _
    unfold execNeighbourEntryArrival
    simp only [h, turn, bne_self_eq_false, Bool.false_eq_true, if_false]
    rw [← hv]
  rw [fenced] at run
  cases hf : (s.spindle (e.target / 36)).fenced with
  | true =>
    rw [hf, if_pos rfl] at run
    exact ⟨v, run, links, fun no => absurd no (by decide), fun _ => recv e.target⟩
  | false =>
    rw [hf, if_neg (by decide)] at run
    refine ⟨_, run, ?_, fun _ => ?_, fun no => absurd no (by decide)⟩
    · rw [State.channelWake_core, State.core_modCore]
      split
      next e =>
        rw [← e]
        exact links
      · exact links
    · rw [State.channelWake_core, State.core_modCore, if_pos rfl]
      dsimp only
      rw [AMap.getD_set_same, recv]

section
variable {s k} {x : Post} {rest : List Post} (h : (s.queue k).posts = x :: rest)
include h

theorem queuePost_release {s' : State} (hr : s.postRelease x = some s') : exec (.queuePost k) s = .next s' := by
  show execQueuePost k s = _
  unfold execQueuePost
  rw [h]
  dsimp only
  rw [hr]

omit h in
/-- The post is refused: the partition of the pusher halts. -/
theorem State.deniedPost_raises (pa : Nat) : ∃ r, ((s.deniedPost k x rest pa).queue k).posts = rest ∧ (s.deniedPost k x rest pa).mem = s.mem ∧
    (s.deniedPost k x rest pa).slices = s.slices ∧ ((s.deniedPost k x rest pa).part x.part).causes = (s.part x.part).causes ++ [r] ∧
      r.cause = .permission ∧ r.addr = BitVec.ofNat 64 pa := by
  unfold State.deniedPost
  generalize ((s.askerLaunch (.op x.team x.wave 0)).getD (0xFFFF, 0)).1 = a, ((s.askerLaunch (.op x.team x.wave 0)).getD (0xFFFF, 0)).2 = b
  refine ⟨_, ?_, rfl, rfl, (congrArg Part.causes ((State.part_congr _ _ (State.modQueue_parts ..) x.part).trans (State.part_modPart_same ..))), rfl, rfl⟩
  rw [State.queue_modQueue_same]

/-- What the step does once the release is made. -/
theorem queuePost_eq (hr : s.postRelease x = none) : exec (.queuePost k) s =
    if s.ownerOf x.cb ≠ x.part then .next (s.deniedPost k x rest x.cb)
    else if s.withheldAt x.cb 64 then .next s
    else if s.postSize x ≤ s.postTail x - s.readPa (x.cb + 8) 8 then .next s
    else if s.ownerOf (s.postSlot x) ≠ x.part then .next (s.deniedPost k x rest (s.postSlot x))
    else if !s.holdsNow (s.postSlot x) x.bytes then
      .next (if s.readSeen (s.postSlot x) 128 0 == x.bytes then s else s.writePaFor (s.termsOf x.team x.wave) (s.postSlot x) 0 x.bytes)
    else .next (((s.writePaFor (s.termsOf x.team x.wave) x.cb 0 (toLe 8 (s.postTail x + 1))).modQueue k
      fun q => { q with posts := rest }).channelWake) := by
  show execQueuePost k s = _
  unfold execQueuePost
  rw [h]
  dsimp only
  rw [hr]
  rfl

/-- TAIL advances when the slot holds the packet, as O51 states it. -/
theorem queuePost_posts (hr : s.postRelease x = none) (own : s.ownerOf x.cb = x.part) (good : s.withheldAt x.cb 64 = false)
    (room : s.postTail x - s.readPa (x.cb + 8) 8 < s.postSize x) (slot : s.ownerOf (s.postSlot x) = x.part)
    (held : s.holdsNow (s.postSlot x) x.bytes = true) :
    ∃ u, exec (.queuePost k) s = .next u ∧ (u.queue k).posts = rest ∧
      (x.cb % 64 = 0 → (s.homeOf (x.cb / 256)).isSome = true → u.readPa x.cb 8 = (s.postTail x + 1) % 2 ^ 64) := by
  have run := queuePost_eq h hr
  rw [if_neg (not_not_intro own), good, if_neg Bool.false_ne_true, if_neg (by omega), if_neg (not_not_intro slot), held,
    if_neg (by decide)] at run
  refine ⟨_, run, by rw [State.queue_congr _ _ (State.channelWake_queues _), State.queue_modQueue_same], fun aligned home => ?_⟩
  obtain ⟨j, hj⟩ := Option.isSome_iff_exists.mp home
  have fit : x.cb % 64 + (toLe 8 (s.postTail x + 1)).length ≤ 64 := by
    rw [toLe_length]
    omega
  have some : toLe 8 (s.postTail x + 1) ≠ [] := List.ne_nil_of_length_pos (by rw [toLe_length]; decide)
  have wrote : (s.writePaFor (s.termsOf x.team x.wave) x.cb 0 (toLe 8 (s.postTail x + 1))).HasWrite j x.cb (toLe 8 (s.postTail x + 1)) := by
    rw [State.writePaFor_sector some fit]
    exact State.writeSector_hasWrite hj
  generalize s.writePaFor (s.termsOf x.team x.wave) x.cb 0 (toLe 8 (s.postTail x + 1)) = v at wrote
  have woke := wrote.of_wakes (t := (v.modQueue k fun q => { q with posts := rest }).channelWake) (by rw [(State.channelWake_onlyWakes _).rest]; rfl)
    (.trans (t := v.modQueue k fun q => { q with posts := rest }) (fun e he => ⟨e, he, rfl⟩) (.channelWake _))
  have reads := woke.readSeen some fit 0
  rw [toLe_length] at reads
  rw [State.readPa, reads, leNat_toLe]
  norm_num
end
end

/-- Settles O51: members behind channels. -/
theorem channelMemberEvents : Obligations.ChannelMemberEvents := by
  intro s k
  refine ⟨fun dir e rest h turn => neighbourEntryArrival_crossed s k h turn, fun x rest h => ⟨fun s' hr => queuePost_release h hr, fun hr => ?_⟩,
    fun part bs rest h on => ?_, fun fr on => ?_⟩
  · have denied (pa : Nat) (run : exec (.queuePost k) s = .next (s.deniedPost k x rest pa)) : ∃ u r, exec (.queuePost k) s = .next u ∧
        (u.queue k).posts = rest ∧ u.mem = s.mem ∧ u.slices = s.slices ∧ (u.part x.part).causes = (s.part x.part).causes ++ [r] ∧
          r.cause = .permission ∧ r.addr = BitVec.ofNat 64 pa := by
      obtain ⟨r, raised⟩ := State.deniedPost_raises (s := s) (k := k) (x := x) (rest := rest) pa
      exact ⟨_, r, run, raised⟩
    have run := queuePost_eq h hr
    refine ⟨fun other => denied _ (run.trans (if_pos other)), fun own good => ⟨fun full => ?_, fun room => ⟨fun other => ?_, fun slot unheld =>
      ⟨fun there => ?_, fun absent => ?_⟩, fun slot held => queuePost_posts h hr own good room slot held⟩⟩⟩
    · rw [if_neg (not_not_intro own), good, if_neg Bool.false_ne_true] at run
      exact run.trans (if_pos full)
    · rw [if_neg (not_not_intro own), good, if_neg Bool.false_ne_true] at run
      exact denied _ (run.trans ((if_neg (Nat.not_le_of_lt room)).trans (if_pos other)))
    · have absent' : (!s.holdsNow (s.postSlot x) x.bytes) = true := by rw [Bool.not_eq_true']; exact unheld
      have same : (s.readSeen (s.postSlot x) 128 0 == x.bytes) = true := beq_iff_eq.mpr there
      rw [if_neg (not_not_intro own), good, if_neg Bool.false_ne_true, absent', if_pos rfl, same, if_pos rfl] at run
      exact run.trans ((if_neg (Nat.not_le_of_lt room)).trans (if_neg (not_not_intro slot)))
    · have absent' : (!s.holdsNow (s.postSlot x) x.bytes) = true := by rw [Bool.not_eq_true']; exact unheld
      have other : (s.readSeen (s.postSlot x) 128 0 == x.bytes) = false := beq_eq_false_iff_ne.mpr absent
      rw [if_neg (not_not_intro own), good, if_neg Bool.false_ne_true, absent', if_pos rfl, other, if_neg Bool.false_ne_true] at run
      refine ⟨_, run.trans ((if_neg (Nat.not_le_of_lt room)).trans (if_neg (not_not_intro slot))), ?_, fun len aligned home => ?_⟩
      · rw [(State.KeepsPosts.writePaFor ..).posts, h]
      · obtain ⟨j, hj⟩ := Option.isSome_iff_exists.mp home
        exact State.readSeen_writePaFor_two hj len aligned 0
  · have run : exec (.frameSend k) s = .next ((s.modPort k fun p =>
        { p with sendQ := rest, wire := p.wire ++ [frameOf p part bs], txFrames := p.txFrames + 1 }).channelWake) := by
      show execFrameSend k s = _
      unfold execFrameSend
      dsimp only
      rw [h]
      exact if_pos on
    refine ⟨_, run, ?_⟩
    rw [State.channelWake_port, State.port_modPort_same]
    exact ⟨rfl, rfl, rfl⟩
  · show ∃ u, execFrameReceive k fr s = .next u ∧ _
    unfold execFrameReceive
    dsimp only
    rw [on]
    cases ha : (s.port k).accepts fr with
    | some part =>
      refine ⟨_, rfl, ?_⟩
      rw [State.channelWake_port, State.port_modPort_same]
      exact ⟨AMap.getD_set_same .., rfl⟩
    | none =>
      refine ⟨_, rfl, ?_⟩
      rw [State.port_modPort_same]
      exact ⟨rfl, rfl⟩

end Sys2Proof.Machine
end

section
/-! SUPPORT. What power units, fenced spindles and stopped cores keep while teams and launches end and are placed: the loss of a spindle and
the halt of a partition change them only where they say so (R90, R400). -/

namespace Sys2Proof.Machine

/-! ## A core stays stopped, or goes on -/

@[simp] theorem Core.release_stopped (c : Core) (i : Nat) : (c.release i).stopped = c.stopped := by
  unfold Core.release
  split <;> rfl

@[simp] theorem Core.dropReuse_stopped (c : Core) (p : ReuseEntry → Bool) : (c.dropReuse p).stopped = c.stopped := by
  obtain ⟨_, _, _, h⟩ := c.dropReuse_tables p
  rw [h]

@[simp] theorem Core.dropSectorReuse_stopped (c : Core) (sec : Nat) : (c.dropSectorReuse sec).stopped = c.stopped := c.dropReuse_stopped _

@[simp] theorem Core.dropMappedReuse_stopped (c : Core) (tm : Team) : (c.dropMappedReuse tm).stopped = c.stopped :=
  foldl_keeps Core.stopped (fun _ _ => foldl_keeps Core.stopped (fun _ _ => Core.dropSectorReuse_stopped ..) _ _) _ _

@[simp] theorem Core.dropPend_stopped (c : Core) (ops : List Nat) : (c.dropPend ops).stopped = c.stopped :=
  foldl_keeps Core.stopped (fun _ _ => foldl_keeps Core.stopped Core.release_stopped _ _) _ _

@[simp] theorem Core.dropCmds_stopped (c : Core) (t : Nat) : (c.dropCmds t).stopped = c.stopped := rfl

@[simp] theorem Core.retain_stopped (c : Core) (i : Nat) : (c.retain i).stopped = c.stopped := by
  unfold Core.retain
  split <;> rfl

@[simp] theorem Core.makeRoom_stopped (c : Core) : c.makeRoom.stopped = c.stopped := by
  unfold Core.makeRoom
  refine foldl_keeps Core.stopped (fun x e => ?_) _ _
  split
  · rfl
  · exact Core.dropReuse_stopped ..

@[simp] theorem Core.insert_stopped (c : Core) (v : Vec) : (c.insert v).1.stopped = c.stopped := by
  unfold Core.insert
  dsimp only
  split
  · exact Core.retain_stopped _ _
  · split
    · rfl
    · split
      · exact Core.dropReuse_stopped _ _
      · split <;> exact Core.makeRoom_stopped _

@[simp] theorem Core.nameWave_stopped (c : Core) (w : Wave) : (c.nameWave w).1.stopped = c.stopped := by
  unfold Core.nameWave
  split
  · rfl
  · refine List.foldlRecOn (motive := fun x : Core × List Nat => x.1.stopped = c.stopped) _ _ rfl fun x hx v _ => ?_
    exact (Core.insert_stopped ..).trans hx

/-! ## Plants -/

/-- The power units, the spindles, and which cores are stopped. -/
structure Plant where
  units : AMap PowerUnit
  spindles : AMap Spindle
  stopped : Nat → Bool

def State.plant (s : State) : Plant := ⟨s.units, s.spindles, fun k => (s.core k).stopped⟩

/-- A state with given power units, spindles and stopped cores. -/
def State.HasPlant (b : Plant) (s : State) : Prop := s.plant = b

/-- A state that may be there has them. -/
def OptPlant (b : Plant) : Option State → Prop
  | some t => t.HasPlant b
  | none => True

section
variable {s t : State} {b : Plant}

theorem State.HasPlant.self (s : State) : s.HasPlant s.plant := rfl

theorem State.HasPlant.units (h : s.HasPlant b) : s.units = b.units := congrArg Plant.units h
theorem State.HasPlant.spindles (h : s.HasPlant b) : s.spindles = b.spindles := congrArg Plant.spindles h
theorem State.HasPlant.stopped (h : s.HasPlant b) (k : Nat) : (s.core k).stopped = b.stopped k := congrFun (congrArg Plant.stopped h) k

theorem State.HasPlant.of (h : s.HasPlant b) (hu : t.units = s.units) (hs : t.spindles = s.spindles) (hc : t.cores = s.cores) :
    t.HasPlant b := by
  rw [State.HasPlant, ← h, State.plant, State.plant, hu, hs, show t.core = s.core from funext (State.core_congr _ _ hc)]

theorem State.HasPlant.ofMemory (h : s.HasPlant b) (k : s.MemorySide t) : t.HasPlant b := by
  rw [k.rest]
  exact h.of rfl rfl rfl

theorem State.HasPlant.ofEvent (h : s.HasPlant b) (k : s.EventSide t) : t.HasPlant b := by
  rw [k.rest]
  exact h.of rfl rfl rfl

theorem OptPlant.some (h : t.HasPlant b) : OptPlant b (some t) := h

theorem OptPlant.get {o : Option State} (h : OptPlant b o) (e : o = Option.some t) : t.HasPlant b := by
  subst e
  exact h

theorem State.HasPlant.foldl {α : Type} {f : State → α → State} {l : List α} (h : s.HasPlant b)
    (hf : ∀ s a, s.HasPlant b → (f s a).HasPlant b) : (l.foldl f s).HasPlant b := by
  induction l generalizing s with
  | nil => exact h
  | cons a l ih => exact ih (hf s a h)

theorem State.HasPlant.foldlFst {α β : Type} {f : State × β → α → State × β} {l : List α} {x : State × β} (h : x.1.HasPlant b)
    (hf : ∀ x a, x.1.HasPlant b → (f x a).1.HasPlant b) : (l.foldl f x).1.HasPlant b := by
  induction l generalizing x with
  | nil => exact h
  | cons a l ih => exact ih (hf x a h)

theorem State.HasPlant.iteFst {p : Prop} [Decidable p] {β : Type} {x y : State × β} (h : x.1.HasPlant b) (k : y.1.HasPlant b) :
    (if p then x else y).1.HasPlant b := by
  split
  · exact h
  · exact k

/-- One core changes and is stopped as it was. -/
theorem State.HasPlant.modCoreAt (h : s.HasPlant b) (k : Nat) {f : Core → Core} (hf : (f (s.core k)).stopped = (s.core k).stopped) :
    (s.modCore k f).HasPlant b := by
  have cores : (fun j => ((s.modCore k f).core j).stopped) = fun j => (s.core j).stopped := by
    funext j
    rw [State.core_modCore]
    split
    next e => rw [e, hf]
    · rfl
  rw [State.HasPlant, ← h, State.plant, State.plant, cores]
  rfl

theorem State.HasPlant.modCore (h : s.HasPlant b) (k : Nat) {f : Core → Core} (hf : ∀ c, (f c).stopped = c.stopped) :
    (s.modCore k f).HasPlant b := h.modCoreAt k (hf _)

/-- Every core changes, and none is stopped or released by it. -/
theorem State.HasPlant.mapCores (h : s.HasPlant b) {f : Core → Core} (hf : ∀ c, (f c).stopped = c.stopped) (hu : t.units = s.units)
    (hs : t.spindles = s.spindles) (hc : t.cores = s.cores.mapVals f) : t.HasPlant b := by
  have cores : (fun j => (t.core j).stopped) = fun j => (s.core j).stopped := by
    funext j
    simp only [State.core, AMap.getD, hc, AMap.get?_mapVals]
    cases s.cores.get? j with
    | none => rfl
    | some c => exact hf c
  rw [State.HasPlant, ← h, State.plant, State.plant, cores, hu, hs]

theorem State.HasPlant.eq_fst {α : Type} {x : State × α} {s : State} {a : α} (h : x.1.HasPlant b) (e : x = (s, a)) : s.HasPlant b := by
  subst e
  exact h

theorem State.HasPlant.sendMesh (h : s.HasPlant b) (r : Nat) (d : MeshDest) (net source : Nat) (tm : Terms) (m : Msg) :
    (s.sendMesh r d net source tm m).HasPlant b := h.of rfl rfl rfl

theorem State.HasPlant.modQueue (h : s.HasPlant b) (q : Nat) (f : Queue → Queue) : (s.modQueue q f).HasPlant b := by
  unfold State.modQueue
  exact h.of rfl rfl rfl

theorem State.HasPlant.modCtx (h : s.HasPlant b) (c : Nat) (f : Ctx → Ctx) : (s.modCtx c f).HasPlant b := by
  unfold State.modCtx
  exact h.of rfl rfl rfl

theorem State.HasPlant.modPart (h : s.HasPlant b) (p : Nat) (f : Part → Part) : (s.modPart p f).HasPlant b := by
  unfold State.modPart
  exact h.of rfl rfl rfl

theorem State.HasPlant.modSlice (h : s.HasPlant b) (k : Nat) (f : Slice → Slice) : (s.modSlice k f).HasPlant b := by
  unfold State.modSlice
  exact h.of rfl rfl rfl

theorem State.HasPlant.modStation (h : s.HasPlant b) (k : Nat) (f : Station → Station) : (s.modStation k f).HasPlant b := by
  unfold State.modStation
  exact h.of rfl rfl rfl

theorem State.HasPlant.modLink (h : s.HasPlant b) (k : Nat) (f : Link → Link) : (s.modLink k f).HasPlant b := by
  unfold State.modLink
  exact h.of rfl rfl rfl

theorem State.HasPlant.modLaunch (h : s.HasPlant b) (k : Nat) (f : Launch → Launch) : (s.modLaunch k f).HasPlant b := by
  unfold State.modLaunch
  split
  · exact h.of rfl rfl rfl
  · exact h

theorem State.HasPlant.modTeam (h : s.HasPlant b) (t : Nat) (f : Team → Team) : (s.modTeam t f).HasPlant b := by
  unfold State.modTeam
  split
  · exact h.of rfl rfl rfl
  · exact h

theorem State.HasPlant.modWave (h : s.HasPlant b) (t w : Nat) (f : Wave → Wave) : (s.modWave t w f).HasPlant b := by
  unfold State.modWave
  exact h.modTeam ..

theorem State.HasPlant.fresh (h : s.HasPlant b) : s.fresh.2.HasPlant b := by
  unfold State.fresh
  dsimp only
  exact h.of rfl rfl rfl

theorem State.HasPlant.freeBytes (h : s.HasPlant b) (n : Nat) : (s.freeBytes n).1.HasPlant b := by
  induction n generalizing s with
  | zero => exact h
  | succ n ih => exact ih h.fresh

theorem State.HasPlant.raise (h : s.HasPlant b) (part : Nat) (c : Cause) (source : Nat) (addr : W64) (pc : W64) (ctx ident : Nat) :
    (s.raise part c source addr pc ctx ident).HasPlant b := by
  unfold State.raise
  exact h.modPart ..

theorem State.HasPlant.park (h : s.HasPlant b) (part : Nat) (ps : List Parked) : (s.park part ps).HasPlant b := by
  unfold State.park
  exact h.modPart ..

theorem State.HasPlant.commitOf (h : s.HasPlant b) (teams : List Nat) : (s.commitOf teams).HasPlant b := by
  unfold State.commitOf
  exact h.foldl fun _ _ h1 => h1.modTeam ..

theorem State.HasPlant.dropPrivate (h : s.HasPlant b) (tm : Team) (ln : Launch) (t w : Nat) (m : Mask) :
    (s.dropPrivate tm ln t w m).HasPlant b := by
  unfold State.dropPrivate
  extract_lets _ _ s1
  split
  · exact h
  · split
    · exact h.modCore _ fun _ => rfl
    · dsimp only
      refine State.HasPlant.foldl (h.modCore _ fun _ => rfl) fun _ _ h2 => ?_
      refine h2.foldl fun _ _ h3 => ?_
      split
      · refine h3.modCore _ fun c => ?_
        split
        · rfl
        · split <;> rfl
      · exact h3

theorem State.HasPlant.sendReq (h : s.HasPlant b) (core : Nat) (asker : Asker) (dom : Dom) (line key : Nat) (kind : ReqKind) (tm : Terms)
    (hnol1 : Bool) : (s.sendReq core asker dom line key kind tm hnol1).1.HasPlant b := by
  unfold State.sendReq
  dsimp only
  split
  · exact h
  · refine State.HasPlant.modStation ?_ _ _
    exact h.of rfl rfl rfl

theorem State.HasPlant.writeBack (h : s.HasPlant b) (core sec : Nat) (doms : List Dom) (tm : Terms) :
    (s.writeBack core sec doms tm).HasPlant b := by
  unfold State.writeBack
  split
  · exact h
  · split
    · exact h
    · extract_lets _ f1 _ s2
      have hf1 {s a1} (h1 : State.HasPlant b s) : State.HasPlant b (f1 s a1) := by
        unfold f1
        split
        · exact h1
        · split
          next _ _ _ e2 =>
            exact ((h1.sendReq ..).eq_fst e2).modCore _ fun _ => rfl
      have h2 : s2.HasPlant b := (h.foldl fun _ _ => hf1).commitOf ..
      split
      · exact h
      · exact h2.modCore _ fun _ => rfl

theorem State.HasPlant.writeBackLine (h : s.HasPlant b) (core line : Nat) (doms : List Dom) (tm : Terms) :
    (s.writeBackLine core line doms tm).HasPlant b := by
  unfold State.writeBackLine
  exact h.foldl fun _ _ h1 => h1.writeBack ..

theorem State.HasPlant.writeBackAll (h : s.HasPlant b) (core : Nat) (d : Dom) (tm : Terms) : (s.writeBackAll core d tm).HasPlant b := by
  unfold State.writeBackAll
  exact h.foldl fun _ _ h1 => h1.writeBackLine ..

theorem State.HasPlant.failWriteBack (h : s.HasPlant b) (t : Nat) (tm : Team) (ln : Launch) (va : Nat) (a : Machine.Acc) :
    (s.failWriteBack t tm ln va a).HasPlant b := by
  unfold State.failWriteBack
  split
  · exact h
  · extract_lets
    split
    · exact h
    · exact h.park ..
  · exact h.raise ..

theorem State.HasPlant.cleanStash (h : s.HasPlant b) (t osec : Nat) (drop : Bool) (terms : Terms) :
    (s.cleanStash t osec drop terms).HasPlant b := by
  unfold State.cleanStash
  split
  · exact h
  · split
    · extract_lets _ _ f1
      have hf1 {s} (h1 : State.HasPlant b s) : State.HasPlant b (f1 s) := by
        unfold f1
        split
        · exact (h1.modCore _ fun _ => Core.dropSectorReuse_stopped ..).modTeam ..
        · exact h1.modTeam ..
      split
      · exact hf1 (h)
      · split
        · exact h
        · split
          · extract_lets f2
            have hf2 {s a1} (h2 : State.HasPlant b s) : State.HasPlant b (f2 s a1) := by
              unfold f2
              split
              · exact h2
              · extract_lets
                exact (h2.sendReq ..).modCore _ fun _ => rfl
            exact (hf1 ((h.foldl fun _ _ => hf2).commitOf ..)).modCore _ fun _ => rfl
          · exact h.failWriteBack ..
    · exact h

theorem State.HasPlant.cleanTeamStash (h : s.HasPlant b) (t : Nat) (terms : Terms) : (s.cleanTeamStash t terms).HasPlant b := by
  unfold State.cleanTeamStash
  split
  · exact h.foldl fun _ _ h1 => h1.cleanStash ..
  · exact h

theorem State.HasPlant.dropRegs (h : s.HasPlant b) (p : Reg → Bool) : (s.dropRegs p).HasPlant b := by
  unfold State.dropRegs
  dsimp only
  refine h.foldl fun _ _ h1 => ?_
  split
  · exact h1
  · exact h1.modSlice ..

theorem State.HasPlant.undefinePage (h : s.HasPlant b) (t va : Nat) : (s.undefinePage t va).HasPlant b := by
  unfold State.undefinePage
  split
  · exact h
  · split
    · exact h
    · split
      · split
        · extract_lets
          exact ((h.freeBytes _).ofMemory (.mergeBytes ..)).modTeam ..
        · exact h
      · exact h

theorem State.HasPlant.undefinePages (h : s.HasPlant b) : s.undefinePages.HasPlant b := by
  unfold State.undefinePages
  exact h.foldl fun _ _ h1 => h1.foldl fun _ _ h2 => h2.undefinePage ..

theorem State.HasPlant.toPackage (h : s.HasPlant b) (core pkg : Nat) (dom : Dom) (tm : Terms) (asker : Asker) (body : LinkBody) :
    (s.toPackage core pkg dom tm asker body).HasPlant b := by
  unfold State.toPackage
  extract_lets
  exact h.sendMesh ..

theorem State.HasPlant.sendAtoms (h : s.HasPlant b) (core n : Nat) : (s.sendAtoms core n).HasPlant b := by
  induction n generalizing s with
  | zero => exact h
  | succ n ih =>
    unfold State.sendAtoms
    split
    · exact h
    · split
      · exact h
      · refine ih (State.HasPlant.modCore ?_ _ fun _ => rfl)
        split
        · exact h.sendReq ..
        · exact h.of rfl rfl rfl
        · exact h

theorem State.HasPlant.inheritAnew (h : s.HasPlant b) (t : Nat) : (s.inheritAnew t).HasPlant b := by
  unfold State.inheritAnew
  split
  · exact h
  · exact h.foldl fun _ _ h1 => h1.modWave ..

theorem State.HasPlant.engineLate (h : s.HasPlant b) (tm : Terms) (va n : Nat) : (s.engineLate tm va n).HasPlant b := by
  unfold State.engineLate
  exact h.foldl fun _ _ h1 => h1.ofMemory (.countLate ..)

theorem State.HasPlant.writeVa (h : s.HasPlant b) (ctx : Nat) (tm : Terms) (va : Nat) (bs : List Byte) :
    (s.writeVa ctx tm va bs).HasPlant b := by
  unfold State.writeVa
  split
  · exact h
  · refine State.HasPlant.foldlFst ((h.engineLate ..).undefinePages ..) fun _ _ h1 => ?_
    exact h1.ofMemory (.writePaFor ..)

theorem State.HasPlant.renumber (h : s.HasPlant b) (part : Nat) : (s.renumber part).HasPlant b := by
  unfold State.renumber
  extract_lets
  exact h.of rfl rfl rfl

theorem State.HasPlant.clearPreq (h : s.HasPlant b) (ctx : Nat) : (s.clearPreq ctx).HasPlant b := by
  unfold State.clearPreq
  split
  · exact h
  · exact h.modCtx ..

theorem State.HasPlant.unpark (h : s.HasPlant b) (t : Nat) : (s.unpark t).HasPlant b := by
  unfold State.unpark
  split
  · exact h
  · exact h.modPart ..

theorem State.HasPlant.removeTeam (h : s.HasPlant b) (t : Nat) : (s.removeTeam t).HasPlant b := by
  unfold State.removeTeam
  split
  · exact h
  next tm _ =>
    extract_lets s1 s2 s3 s4 s5 s6
    have h1 : s1.HasPlant b := h.unpark ..
    have h2 : s2.HasPlant b := by
      unfold s2
      cases s1.launches.get? tm.launch with
      | none => exact h1
      | some l => exact h1.foldl fun _ _ h2 => h2.dropPrivate ..
    have h3 : s3.HasPlant b := h2.modCore _ fun c => by
      dsimp only
      rw [Core.dropPend_stopped, Core.dropMappedReuse_stopped]
      split
      · exact foldl_keeps Core.stopped (fun _ _ => by rw [foldl_keeps Core.stopped Core.release_stopped]) _ _
      · rfl
    have h4 : s4.HasPlant b := h3.mapCores (f := fun c => if c.cmds.any (·.team == t) then c.dropCmds t else c)
      (fun c => by split <;> rfl) rfl rfl rfl
    have h5 : s5.HasPlant b := by
      unfold s5
      split
      · exact h4
      · exact h4.sendAtoms ..
    have h6 : s6.HasPlant b := by
      refine State.HasPlant.dropRegs ?_ _
      exact h5.of rfl rfl rfl
    split
    · exact h6.clearPreq ..
    · exact h6

theorem State.HasPlant.wakeJoin (h : s.HasPlant b) (t slot : Nat) : (s.wakeJoin t slot).HasPlant b := by
  unfold State.wakeJoin
  split
  · split
    · exact h.foldl fun _ _ h1 => h1.modWave ..
    · exact h
  · exact h

theorem State.HasPlant.childDone (h : s.HasPlant b) (lid : Nat) (l : Launch) (t slot : Nat) (code : Byte) :
    (s.childDone lid l t slot code).HasPlant b := by
  unfold State.childDone
  extract_lets s1 _ s2
  have h1 : s1.HasPlant b := h.of rfl rfl rfl
  exact (h1.modTeam ..).wakeJoin ..

theorem State.HasPlant.drainFor (h : s.HasPlant b) (lid : Nat) (l : Launch) : OptPlant b (s.drainFor lid l) := by
  unfold State.drainFor
  extract_lets _ s1 s2
  have h1 : s1.HasPlant b := by
    unfold s1
    refine h.foldl fun _ _ h1 => ?_
    split
    · exact h1.cleanTeamStash ..
    · exact h1
  have h2 : s2.HasPlant b := h1.foldl fun _ _ h2 => (h2.writeBackAll ..).writeBackAll ..
  split
  · split
    · exact .some h
    · exact trivial
  · split
    · exact trivial
    · exact .some (h2.modLaunch ..)

theorem State.HasPlant.keepChain (h : s.HasPlant b) (l : Launch) : (s.keepChain l).HasPlant b := by
  unfold State.keepChain
  extract_lets _ _ s1
  have h1 : s1.HasPlant b := h.of rfl rfl rfl
  split
  · exact h1
  · exact h1.modQueue ..

theorem State.HasPlant.reapCtx (h : s.HasPlant b) (c : Nat) : (s.reapCtx c).HasPlant b := by
  unfold State.reapCtx
  split
  · exact h
  · extract_lets forget
    exact h.mapCores (f := forget) (fun c => Core.dropReuse_stopped ..) rfl rfl rfl

theorem State.HasPlant.finishLaunch (h : s.HasPlant b) (lid : Nat) (code : Byte) (detail : Byte) :
    (s.finishLaunch lid code detail).HasPlant b := by
  unfold State.finishLaunch
  split
  · exact h
  · split
    · exact h.childDone ..
    · extract_lets _ _ _ _ s1 s2 s3 _ s4 s5
      have h1 : s1.HasPlant b := by
        unfold s1
        split
        · exact h
        · exact (h.writeVa ..).writeVa ..
      have h3 : s3.HasPlant b := (h1.keepChain ..).modQueue ..
      have h4 : s4.HasPlant b := by
        unfold s4
        split
        · exact h3.ofMemory (.writePa ..)
        · exact h3
      have h5 : s5.HasPlant b := by
        unfold s5
        split
        · exact h4
        · exact h4.ofMemory (.writePa ..)
      refine State.HasPlant.reapCtx ?_ _
      exact h5.of rfl rfl rfl

theorem State.HasPlant.completeLaunch (h : s.HasPlant b) (lid : Nat) (code : Byte) (detail : Byte) :
    (s.completeLaunch lid code detail).HasPlant b := by
  unfold State.completeLaunch
  split
  · exact h
  · split
    · exact h.finishLaunch ..
    · split
      · exact h
      · split
        · exact h.finishLaunch ..
        next _ _ e1 =>
          exact ((h.drainFor ..).get e1).modLaunch ..

theorem State.HasPlant.endTree (h : s.HasPlant b) (root : Nat) (code : Byte) : (s.endTree root code).HasPlant b := by
  unfold State.endTree
  extract_lets _ s1 s2
  have h1 : s1.HasPlant b := h.foldl fun _ _ h1 => h1.removeTeam ..
  refine State.HasPlant.completeLaunch ?_ _ _ _
  exact h1.of rfl rfl rfl

theorem State.HasPlant.setQState (h : s.HasPlant b) (k : Nat) (st : Byte) (err : Byte) : (s.setQState k st err).HasPlant b := by
  unfold State.setQState
  exact (h.modQueue ..).ofMemory (.writePa ..)

theorem State.HasPlant.checkPeers (h : s.HasPlant b) (l : Launch) : (s.checkPeers l).HasPlant b := by
  unfold State.checkPeers
  extract_lets
  split
  · exact h.raise ..
  · exact h

theorem State.HasPlant.seat (h : s.HasPlant b) (t : Nat) : (s.seat t).HasPlant b := by
  unfold State.seat
  split
  · exact h
  · extract_lets c slots r
    have seated : r.1.stopped = c.stopped := by
      refine List.foldlRecOn (motive := fun x : Core × AMap Wave => x.1.stopped = c.stopped) _ _ rfl fun x hx a _ => ?_
      exact (Core.nameWave_stopped ..).trans hx
    exact (h.modCoreAt (f := fun _ => r.1) _ seated).modTeam ..

theorem State.HasPlant.undefinePrivate (h : s.HasPlant b) (l : Launch) (t : Nat) : (s.undefinePrivate l t).HasPlant b := by
  unfold State.undefinePrivate
  extract_lets
  split
  · exact h
  · extract_lets
    exact (h.modTeam ..).foldl fun _ _ h1 => h1.undefinePage ..

theorem State.HasPlant.placeTeam (h : s.HasPlant b) (lid : Nat) (l : Launch) (i core home : Nat) :
    (s.placeTeam lid l i core home).HasPlant b := by
  unfold State.placeTeam
  extract_lets t tm s1
  have placed : State.HasPlant b { s with nextUid := t + 1, teams := s.teams.set t tm } := h.of rfl rfl rfl
  have h1 : s1.HasPlant b := (((placed.undefinePrivate ..).seat ..).inheritAnew ..).checkPeers ..
  exact h1.modLaunch ..

theorem State.HasPlant.discardRequests (h : s.HasPlant b) (p : Req → Bool) : (s.discardRequests p).HasPlant b := by
  unfold State.discardRequests
  extract_lets
  exact h.of rfl rfl rfl

theorem State.HasPlant.dropMessages (h : s.HasPlant b) (p : MeshMsg → Bool) : (s.dropMessages p).HasPlant b := by
  unfold State.dropMessages
  exact h.of rfl rfl rfl

theorem State.HasPlant.forgetCores (h : s.HasPlant b) (p : Nat → Bool) : (s.forgetCores p).HasPlant b := by
  unfold State.forgetCores
  exact h.of rfl rfl rfl

theorem State.HasPlant.endLaunch (h : s.HasPlant b) (lid : Nat) (code : Byte) : (s.endLaunch lid code).HasPlant b := by
  unfold State.endLaunch
  extract_lets _ s1 s2
  have h1 : s1.HasPlant b := h.foldl fun _ _ h1 => h1.removeTeam ..
  refine State.HasPlant.completeLaunch ?_ _ _ _
  exact h1.of rfl rfl rfl

theorem State.HasPlant.loseTeam {acc : State × List Nat} (h : acc.1.HasPlant b) (t : Nat) : (State.loseTeam acc t).1.HasPlant b := by
  unfold State.loseTeam
  extract_lets s0
  have h0 : s0.HasPlant b := h
  split
  · exact h
  · split
    · exact h
    · extract_lets s1 may spot
      have h1 : s1.HasPlant b := (h0.removeTeam ..).modLaunch ..
      clear_value spot
      refine .iteFst (h0.endLaunch ..) (.iteFst h1 ?_)
      rcases spot with _ | ⟨l, c, k⟩
      · exact .iteFst (h0.endLaunch ..) h1
      · exact h1.placeTeam ..

theorem State.HasPlant.newMasks (h : s.HasPlant b) (l code : Nat) (light : Bool) (rx : BitVec 16) (tx : BitVec 16) :
    (s.newMasks l code light rx tx).HasPlant b := by
  unfold State.newMasks
  extract_lets
  exact h.modLink ..

theorem State.HasPlant.flushRecords (h : s.HasPlant b) (l : Nat) : (s.flushRecords l).HasPlant b := by
  unfold State.flushRecords
  exact (h.modLink ..).foldl fun _ _ h1 => h1.ofEvent (.linkEvent ..)

theorem State.HasPlant.linkLost (h : s.HasPlant b) (part l : Nat) : (s.linkLost part l).HasPlant b := by
  unfold State.linkLost
  split
  · extract_lets
    exact h.raise ..
  · exact h

theorem State.HasPlant.holdUnsent (h : s.HasPlant b) (l : Nat) (since : Option W64) : (s.holdUnsent l since).HasPlant b := by
  unfold State.holdUnsent
  exact h.modLink ..

theorem State.HasPlant.dropLink (h : s.HasPlant b) (l : Nat) : (s.dropLink l).HasPlant b := by
  unfold State.dropLink
  extract_lets s1
  have h1 : s1.HasPlant b := (h.foldl fun _ _ h1 => h1.linkLost ..).flushRecords ..
  exact (h1.modLink ..).holdUnsent ..

end

/-! ## The loss of a spindle (R90) changes no power unit, and fences that spindle alone -/

section
variable (s : State) (k : Nat)

@[simp] theorem State.emptyCores_units (f : Core → Core) : (s.emptyCores k f).units = s.units := by
  unfold State.emptyCores
  exact foldl_keeps State.units (fun s p => State.modCore_units s _ _) _ _

@[simp] theorem State.emptyCores_spindles (f : Core → Core) : (s.emptyCores k f).spindles = s.spindles := by
  unfold State.emptyCores
  exact foldl_keeps State.spindles (fun s p => State.modCore_spindles s _ _) _ _

@[simp] theorem State.renumber_units : (s.renumber k).units = s.units := rfl

@[simp] theorem State.renumber_spindles : (s.renumber k).spindles = s.spindles := rfl

@[simp] theorem State.forgetCores_units (p : Nat → Bool) : (s.forgetCores p).units = s.units := rfl

@[simp] theorem State.forgetCores_spindles (p : Nat → Bool) : (s.forgetCores p).spindles = s.spindles := rfl

@[simp] theorem State.discardHeld_units : (s.discardHeld k).units = s.units := by
  unfold State.discardHeld
  dsimp only
  rw [State.emptyCores_units]

@[simp] theorem State.discardHeld_spindles : (s.discardHeld k).spindles = s.spindles := by
  unfold State.discardHeld
  dsimp only
  rw [State.emptyCores_spindles]

/-- A spindle that is fenced (R90 step 1). -/
def Spindle.shut (x : Spindle) : Spindle := { x with fenced := true, resetSinceFence := x.fenced && x.resetSinceFence }

theorem State.fence_keeps : (s.fence k).1.units = s.units ∧ (s.fence k).1.spindles = (s.modSpindle k Spindle.shut).spindles := by
  unfold State.fence
  extract_lets mine part s1 lost s2 s3 s4 s5 s6 teams r
  have h5 : s5.units = s.units ∧ s5.spindles = s1.spindles := ⟨rfl, rfl⟩
  have h6 : s6.units = s.units ∧ s6.spindles = s1.spindles := by
    clear_value s5
    unfold s6
    rw [State.renumber_units, State.renumber_spindles, State.discardHeld_units, State.discardHeld_spindles, State.forgetCores_units,
      State.forgetCores_spindles]
    exact h5
  clear_value s6
  have lose : r.1.HasPlant s6.plant := (State.HasPlant.self s6).foldlFst fun _ _ h => h.loseTeam _
  rw [State.discardHeld_units, State.discardHeld_spindles, lose.units, lose.spindles]
  exact h6

@[simp] theorem State.fence_units : (s.fence k).1.units = s.units := (s.fence_keeps k).1

@[simp] theorem State.fence_fenced : ((s.fence k).1.spindle k).fenced = true := by
  rw [State.spindle_congr _ _ (s.fence_keeps k).2, State.spindle_modSpindle_same, Spindle.shut]

/-- A spindle fenced already stays as it is; another is fenced, with DIELOST raised when a launch was lost (R90, R92). -/
theorem State.dieFails_cases : (s.dieFails k = s ∧ (24 ≤ k ∨ (s.spindle k).fenced = true)) ∨ (s.fence k).1.HasPlant (s.dieFails k).plant := by
  unfold State.dieFails
  split
  next kept => exact .inl ⟨rfl, kept⟩
  · refine .inr ?_
    dsimp only
    generalize s.fence k = r
    split
    · rfl
    · split
      · exact ((State.HasPlant.self r.1).raise ..).symm
      · rfl

@[simp] theorem State.dieFails_units : (s.dieFails k).units = s.units := by
  rcases s.dieFails_cases k with ⟨same, _⟩ | fenced
  · rw [same]
  · exact fenced.units.symm.trans (s.fence_units k)

theorem State.dieFails_fenced (hk : k < 24) : ((s.dieFails k).spindle k).fenced = true := by
  rcases s.dieFails_cases k with ⟨same, far | fenced⟩ | fenced
  · omega
  · rw [same, fenced]
  · rw [State.spindle_congr _ _ fenced.spindles.symm]
    exact s.fence_fenced k

@[simp] theorem State.fenceLower_units : (s.fenceLower k).units = s.units := by
  refine foldl_keeps State.units (fun s x => ?_) _ _
  split
  · rfl
  · split
    · exact s.dieFails_units x.1
    · exact s.fence_units x.1

/-! ## Power states (R432) -/

theorem State.HasPlant.linkPower {b : Plant} (h : s.HasPlant b) (l old new : Nat) : (s.linkPower l old new).HasPlant b := by
  unfold State.linkPower
  dsimp only
  split
  · split
    · exact h
    · exact h.dropLink l
  · split
    · split
      · exact h.modLink ..
      · exact h
    · split
      · exact h
      · split
        · exact h.newMasks ..
        · split
          · exact h.newMasks ..
          · exact h

/-- A unit takes a power state; nothing else of it, and no other unit, changes. -/
theorem State.setPower_units (state : Nat) : (s.setPower k state).units = (s.modUnit k fun x => { x with state := state }).units := by
  unfold State.setPower
  dsimp only
  split
  · split
    · rw [State.renumber_units, State.fence_units, State.fenceLower_units]
    · rfl
  · split
    · split <;> rfl
    · exact (State.HasPlant.linkPower _ (.self _) ..).units

@[simp] theorem State.setPower_unit (state : Nat) : (s.setPower k state).unit k = { s.unit k with state := state } := by
  rw [State.unit_congr _ _ (s.setPower_units k state), State.unit_modUnit_same]

@[simp] theorem State.protectionEvent_units (code : Nat) : (s.protectionEvent code).units = s.units := by
  unfold State.protectionEvent
  exact ((State.HasPlant.self s).fresh.fresh.fresh.fresh.ofEvent (.putEvent ..)).units

@[simp] theorem State.protectionEvent_unit (code : Nat) : (s.protectionEvent code).unit k = s.unit k :=
  State.unit_congr _ _ (s.protectionEvent_units code) k

theorem State.stackOwned_iff (m : Nat) :
    s.stackOwned m = true ↔ ∃ g ∈ s.granuleOwner, g.2 ≠ 0xFF ∧ (g.1 / 32 = m ∨ (512 ≤ g.1 ∧ g.1 < 896)) := by
  simp [State.stackOwned]

@[simp] theorem State.resetCores_spindle : (s.resetCores k).spindle k = { s.spindle k with clkBase := (s.spindle k).clkTicks } := by
  rw [State.resetCores, State.spindle_modSpindle_same, State.spindle_congr _ _ (s.emptyCores_spindles k _)]

end
end Sys2Proof.Machine
end

/-! PROOFS. Power commands, spindle commands and boot. -/
section
namespace Sys2Proof.Machine

section
variable (s : State) (n target : Nat)

theorem State.powerCommand_rejected (hn : n < 68) (h : 4 < target ∨ (3 ≤ target ∧ 24 ≤ n ∧ n < 36 ∧ s.stackOwned (n - 24))) :
    s.powerCommand n target = s.reject (powerOffset n) := by
  rw [State.powerCommand, if_neg (by omega), if_pos h]

/-- A command that is not rejected stands in CMD, and the unit takes its state unless protection holds it lower (R432, R434). -/
theorem State.powerCommand_unit (hn : n < 68) (h : ¬ (4 < target ∨ (3 ≤ target ∧ 24 ≤ n ∧ n < 36 ∧ s.stackOwned (n - 24)))) :
    (s.powerCommand n target).unit n =
      { s.unit n with cmd := target, state := if (s.unit n).prot then Nat.max (s.unit n).state target else target } := by
  rw [State.powerCommand, if_neg (by omega), if_neg h]
  dsimp only
  split
  next held =>
    obtain ⟨hp, hle⟩ := Bool.and_eq_true_iff.mp held
    rw [State.unit_modUnit_same, if_pos hp, show Nat.max _ target = _ from Nat.max_eq_left (of_decide_eq_true hle)]
  next held =>
    have state : (if (s.unit n).prot then Nat.max (s.unit n).state target else target) = target := by
      split
      next hp => exact Nat.max_eq_right (by simp [hp] at held; omega)
      · rfl
    rw [state]
    split
    next same => rw [State.unit_modUnit_same, ← same]
    · rw [State.setPower_unit, State.unit_modUnit_same]

theorem execProtectionEnter_of {oc : Bool} {p : Nat} (hn : n < 68) (hp : protectState n oc = some p) :
    ∃ u, execProtectionEnter n oc s = .next u ∧ u.unit n = { s.unit n with prot := true, state := Nat.max (s.unit n).state p } := by
  unfold execProtectionEnter
  simp only [hp]
  rw [if_neg (by omega)]
  refine ⟨_, rfl, ?_⟩
  rw [State.protectionEvent_unit, State.unit_modUnit_same]
  split
  next lower => rw [State.setPower_unit, show Nat.max _ p = _ from Nat.max_eq_right (Nat.le_of_lt lower)]
  next lower => rw [show Nat.max _ p = _ from Nat.max_eq_left (Nat.not_lt.mp lower)]

theorem execProtectionRelease_of (hp : (s.unit n).prot = true) :
    ∃ u, execProtectionRelease n s = .next u ∧ u.unit n = { s.unit n with prot := false, state := (s.unit n).cmd } := by
  unfold execProtectionRelease
  simp only [hp, Bool.not_true, Bool.false_eq_true, if_false]
  refine ⟨_, rfl, ?_⟩
  rw [State.protectionEvent_unit]
  split
  next same => rw [State.unit_modUnit_same, ← same]
  · rw [State.setPower_unit, State.unit_modUnit_same]

theorem State.spopReset_spindle (hn : n < 24) : ((s.spopReset n).spindle n).fenced = true ∧ ((s.spopReset n).spindle n).resetting = true := by
  rw [State.spopReset, if_neg (by omega), if_neg (by omega)]
  simp

theorem State.spopFence_spindle (hn : n < 24) : ((s.spopFence n).spindle n).fenced = true := by
  rw [State.spopFence, if_neg (by omega), if_neg (by omega)]
  exact State.fence_fenced _ n

theorem State.spopReturn_spindle (hn : n < 24) (hf : (s.spindle n).fenced = true) (hr : (s.spindle n).resetting = false)
    (hp : (s.part (s.spindle n).part).pstate = 1) :
    ((s.spopReturn n).spindle n).fenced = false ∧ ((s.spopReturn n).spindle n).part = (s.spindle n).part := by
  unfold State.spopReturn
  dsimp only
  rw [if_neg (by omega), if_neg (by simp [hf, hr, hp]; omega), State.spindle_congr _ _ (State.renumber_spindles ..), State.spindle_modSpindle_same]
  refine ⟨rfl, ?_⟩
  split
  · rfl
  · rw [State.resetCores_spindle]

theorem State.command_next (f : State → State) (hb : s.bootstat = 1) : s.command f = .next (f s) := by rw [State.command, if_pos hb]

end

/-- Settles O58: only the unit named changes its state, whatever a fence or a lost link takes down with it. -/
theorem powerAndBootEvents : Obligations.PowerAndBootEvents := by
  unfold Obligations.PowerAndBootEvents
  intro s n x owned rejected
  have ownedIff : owned ↔ 24 ≤ n ∧ n < 36 ∧ s.stackOwned (n - 24) = true := by rw [s.stackOwned_iff]
  have rejects (target : Nat) (hb : s.bootstat = 1) (hn : n < 68)
      (h : 4 < target ∨ (3 ≤ target ∧ 24 ≤ n ∧ n < 36 ∧ s.stackOwned (n - 24))) : rejected target :=
    ⟨s.reject (powerOffset n), (s.command_next (fun s => s.powerCommand n target) hb).trans
      (congrArg Host.Outcome.next (s.powerCommand_rejected n target hn h)), rfl, rfl, rfl, rfl, rfl⟩
  refine ⟨fun target hb hn ht ho => ?_, fun target hb _ h3 ho => ?_, fun target hb hn ht => rejects target hb hn (.inl ht),
    fun target hn => ?_, fun oc p hn hp => ?_, fun hp => ?_, fun hb hn => ?_, fun hb hn => ?_, fun hb hn hf hr hp => ?_,
    fun hr => ?_, fun hb => ?_⟩
  · have h := s.powerCommand_unit n target hn (by rw [← ownedIff]; rintro (h | h); exacts [absurd ht (by omega), ho h])
    refine ⟨s.powerCommand n target, s.command_next (fun s => s.powerCommand n target) hb, ?_⟩
    rw [h]
    exact ⟨rfl, fun hp => if_neg (by rw [hp]; decide), fun hp => if_pos hp⟩
  · obtain ⟨h24, h36, hs⟩ := ownedIff.mp ho
    exact rejects target hb (by omega) (.inr ⟨h3, h24, h36, hs⟩)
  · show execPowerCommand n target s = _
    rw [execPowerCommand, State.command, State.powerCommand, if_pos hn, ite_self]
  · obtain ⟨u, hu, hx⟩ := execProtectionEnter_of s n hn hp
    exact ⟨u, hu, by rw [hx], by rw [hx], by rw [hx]⟩
  · obtain ⟨u, hu, hx⟩ := execProtectionRelease_of s n hp
    exact ⟨u, hu, by rw [hx], by rw [hx]⟩
  · exact ⟨_, s.command_next (fun s => s.spopReset n) hb, s.spopReset_spindle n hn⟩
  · exact ⟨_, s.command_next (fun s => s.spopFence n) hb, s.spopFence_spindle n hn⟩
  · exact ⟨_, s.command_next (fun s => s.spopReturn n) hb, s.spopReturn_spindle n hn hf hr hp⟩
  · refine ⟨s.modSpindle n fun x => { x with resetting := false }, if_pos hr, ?_⟩
    rw [State.spindle_modSpindle_same]
    exact ⟨rfl, rfl⟩
  · constructor
    · show ∃ u, execBoot true s = .next u ∧ _
      unfold execBoot
      rw [if_neg (by simp [hb]), if_pos rfl]
      exact ⟨_, rfl, rfl⟩
    · show ∃ u, execBoot false s = .next u ∧ _
      unfold execBoot
      rw [if_neg (by simp [hb])]
      exact ⟨_, rfl, rfl⟩

end Sys2Proof.Machine
end

section
/-! SUPPORT. Faults: what replay leaves of the accesses that were parked on an entry (R396, R397), and what a halt leaves (R400-R404). -/

namespace Sys2Proof.Machine

/-! ## Replay -/

/-- A wave after the pages of its fault waits changed. -/
def Wave.mapPages (f : List (W64 × Option W32) → List (W64 × Option W32)) (w : Wave) : Wave := { w with waits := w.waits.map (Wait.mapPages f) }

theorem Wait.mapPages_lanes (f : List (W64 × Option W32) → List (W64 × Option W32)) (y : Wait) : (y.mapPages f).lanes = y.lanes := by
  unfold Wait.mapPages
  split <;> rfl

theorem Wait.mapPages_fault {f : List (W64 × Option W32) → List (W64 × Option W32)} {y : Wait} {ps : List (W64 × Option W32)}
    (h : (y.mapPages f).wake = .fault ps) : ∃ qs, ps = f qs := by
  unfold Wait.mapPages at h
  split at h
  next qs _ => exact ⟨qs, (Wake.fault.inj h).symm⟩
  next other => exact absurd h (other ps)

theorem Wait.mapPages_of_fault {f : List (W64 × Option W32) → List (W64 × Option W32)} {y : Wait} {ps : List (W64 × Option W32)}
    (h : y.wake = .fault ps) : (y.mapPages f).wake = .fault (f ps) := by
  unfold Wait.mapPages
  rw [h]

theorem not_mem_dropPage (seq : W32) (page : W64) (ps : List (W64 × Option W32)) : (page, some seq) ∉ dropPage seq page ps := by
  simp [dropPage]

theorem dropPage_only (seq : W32) (page : W64) : dropPage seq page [(page, some seq)] = [] := by
  simp [dropPage]

/-- A lane of a met wait is in the mask of all met waits. -/
theorem foldl_lanes (l : List Wait) (m : Mask) (lane : Nat) (h : m.getLsbD lane = true ∨ ∃ y ∈ l, y.lanes.getLsbD lane = true) :
    (l.foldl (fun m x => m ||| x.lanes) m).getLsbD lane = true := by
  induction l generalizing m with
  | nil =>
    rcases h with h | ⟨y, hy, _⟩
    · exact h
    · cases hy
  | cons a l ih =>
    refine ih _ ?_
    rcases h with h | ⟨y, hy, hl⟩
    · exact .inl (by simp [h])
    · rcases List.mem_cons.mp hy with rfl | hy
      · exact .inl (by simp [hl])
      · exact .inr ⟨y, hy, hl⟩

/-- A wait that is met leaves its threads READY. -/
theorem Wave.wake_ready {w : Wave} {now : Nat} {p : Wait → Bool} {y : Wait} (hy : y ∈ w.waits) (hp : p y = true) {lane : Nat} (hl : lane < 32)
    (h : y.lanes.getLsbD lane = true) : (w.wake now p).threads.getD lane .exited = .ready := by
  show (mergeLanes ((w.waits.filter p).foldl (fun m x => m ||| x.lanes) 0) w.threads .ready fun _ => .ready).getD lane .exited = .ready
  rw [mergeLanes_getD _ _ _ _ _ _ hl, if_pos (foldl_lanes _ _ _ (.inr ⟨y, List.mem_filter.mpr ⟨hy, hp⟩, h⟩))]

/-- No wait names the page any more, and a subset that waited for it alone is READY. -/
structure Wave.Replayed (wv : Wave) (resident : Prop) (page : W64) (seq : W32) (w : Wave) : Prop where
  gone : ∀ y ∈ w.waits, ∀ ps, y.wake = .fault ps → (page, some seq) ∉ ps
  ready : ∀ y ∈ wv.waits, y.wake = .fault [(page, some seq)] → resident →
    ∀ lane, lane < 32 → y.lanes.getLsbD lane = true → w.threads.getD lane .exited = .ready

theorem Wave.mapPages_gone (wv : Wave) (page : W64) (seq : W32) :
    ∀ y ∈ (wv.mapPages (dropPage seq page)).waits, ∀ ps, y.wake = .fault ps → (page, some seq) ∉ ps := by
  intro y hy ps hps
  obtain ⟨x, _, rfl⟩ := List.mem_map.mp hy
  obtain ⟨qs, rfl⟩ := Wait.mapPages_fault hps
  exact not_mem_dropPage _ _ _

theorem Wave.replayed_saved (wv : Wave) {resident : Prop} (hr : ¬ resident) (page : W64) (seq : W32) :
    wv.Replayed resident page seq (wv.mapPages (dropPage seq page)) :=
  ⟨wv.mapPages_gone page seq, fun _ _ _ h => absurd h hr⟩

theorem Wave.replayed_resident (wv : Wave) {resident : Prop} (page : W64) (seq : W32) (now : Nat) :
    wv.Replayed resident page seq ((wv.mapPages (dropPage seq page)).wake now fun x => x.wake == .fault []) := by
  refine ⟨fun y hy => wv.mapPages_gone page seq y (List.mem_filter.mp hy).1, fun y hy hw _ lane hl hlane => ?_⟩
  have met : (y.mapPages (dropPage seq page)).wake = .fault [] := by rw [Wait.mapPages_of_fault hw, dropPage_only]
  have stands : y.mapPages (dropPage seq page) ∈ (wv.mapPages (dropPage seq page)).waits := List.mem_map_of_mem hy
  have lanes : (y.mapPages (dropPage seq page)).lanes.getLsbD lane = true := by rwa [Wait.mapPages_lanes]
  exact Wave.wake_ready stands (by rw [met]; rfl) hl lanes

section
variable (s : State) (part : Nat) (e : FqEntry)

@[simp] theorem State.replay_parts : (s.replay part e).parts = s.parts := rfl

theorem State.replay_teams : (s.replay part e).teams =
    (s.teams.mapVals fun t => if s.runsUnder part e.ctx t then { t with waves := t.waves.mapVals (Wave.mapPages (dropPage e.seq e.vpage)) } else t).mapVals
      fun t => if s.runsUnder part e.ctx t && t.place == .resident then
        { t with waves := t.waves.mapVals fun w => w.wake s.time fun x => x.wake == .fault [] } else t := rfl

theorem State.replay_wave {t w : Nat} {tm : Team} {wv : Wave} (ht : s.teams.get? t = some tm) (hu : s.runsUnder part e.ctx tm = true)
    (hw : tm.waves.get? w = some wv) :
    ∃ w', (s.replay part e).wave? t w = some w' ∧ wv.Replayed (tm.place = .resident) e.vpage e.seq w' := by
  have under (x : AMap Wave) : s.runsUnder part e.ctx { tm with waves := x } = true := hu
  rw [State.wave?, State.replay_teams, AMap.get?_mapVals, AMap.get?_mapVals, ht, Option.map_some, Option.map_some, if_pos hu, under,
    Bool.true_and]
  by_cases hr : tm.place = .resident
  · rw [if_pos (beq_iff_eq.mpr hr)]
    dsimp only
    rw [AMap.get?_mapVals, AMap.get?_mapVals, hw]
    exact ⟨_, rfl, wv.replayed_resident ..⟩
  · rw [if_neg (by simpa using hr)]
    dsimp only
    rw [AMap.get?_mapVals, hw]
    exact ⟨_, rfl, wv.replayed_saved hr ..⟩

/-- A command after the replay of an entry. -/
def State.replayCmd (x : Cmd) : Cmd :=
  if (s.teams.get? x.team).elim false (s.runsUnder part e.ctx) = true then { x with parked := dropPage e.seq e.vpage x.parked } else x

/-- No engine command of the context is parked on the page any more. -/
theorem State.replay_cmds (core : Nat) {c : Cmd} (hc : c ∈ ((s.replay part e).core core).cmds)
    (hu : (s.teams.get? c.team).elim false (s.runsUnder part e.ctx) = true) : (e.vpage, some e.seq) ∉ c.parked := by
  have cores : (s.replay part e).cores = s.cores.mapVals fun k => { k with cmds := k.cmds.map (s.replayCmd part e) } := rfl
  rw [State.core, AMap.getD, cores, AMap.get?_mapVals] at hc
  cases hk : s.cores.get? core with
  | none =>
    rw [hk] at hc
    cases hc
  | some k =>
    rw [hk] at hc
    obtain ⟨x, _, rfl⟩ := List.mem_map.mp hc
    unfold State.replayCmd at hu ⊢
    split
    · exact not_mem_dropPage _ _ _
    next other =>
      rw [if_neg other] at hu
      exact absurd hu other

end

end Sys2Proof.Machine
end

/-! PROOFS. The fault queue, the halt, and the loss of a spindle. -/
section
namespace Sys2Proof.Machine

/-! ## The fault queue -/

section
variable (s : State) (p : Nat)

theorem State.tellSeq_parts (ctx : Nat) (page : W64) (seq : W32) : (s.tellSeq p ctx page seq).parts = s.parts := rfl

/-- One access waits, its page has no entry and an entry is free: it takes that entry (R395). -/
theorem execFaultPark_new {a : Parked} {k : Nat} (hw : (s.part p).fqWait = [a]) (hp : (s.part p).pstate = 1)
    (hnew : ∀ e ∈ (s.part p).fq, ¬ (e.ctx = a.ctx ∧ e.vpage = a.vpage)) (hk : (s.part p).freeEntry = some k) :
    ∃ u, execFaultPark p s = .next u ∧ (u.part p).fqWait = [] ∧
      (u.part p).fq = (s.part p).fq ++ [a.entry k (s.part p).nextSeq (if (s.part p).dbghalt = 0 then s.tsc else 0) ((s.part p).modes.getLsbD 0)] ∧
      (u.part p).nextSeq = (s.part p).nextSeq + 1 := by
  have none : (s.part p).fq.find? a.joins = none := by
    rw [List.find?_eq_none]
    intro e he hj
    simp only [Parked.joins, Bool.and_eq_true, beq_iff_eq] at hj
    exact hnew e he hj.1
  have same : [a].filter (fun x => x.ctx == a.ctx && x.vpage == a.vpage) = [a] := by simp
  have rest : [a].filter (fun x => !(x.ctx == a.ctx && x.vpage == a.vpage)) = [] := by simp
  unfold execFaultPark
  simp only [hk, Option.isSome_some, if_true, hw, List.head?_cons, hp, ne_eq, not_true, if_false, none, same, rest, List.drop_succ_cons,
    List.drop_nil, List.foldl_nil]
  refine ⟨_, rfl, ?_⟩
  generalize a.entry k (s.part p).nextSeq (if (s.part p).dbghalt = 0 then s.tsc else 0) ((s.part p).modes.getLsbD 0) = e
  generalize hv : (s.modPart p _).tellSeq p a.ctx a.vpage (s.part p).nextSeq = v
  have part : v.part p = { s.part p with fqWait := [], fq := (s.part p).fq ++ [e], nextSeq := (s.part p).nextSeq + 1 } := by
    rw [← hv, State.part_congr _ _ (State.tellSeq_parts ..), State.part_modPart_same]
  have told : v.EventSide (if (s.part p).modes.getLsbD 0 = true then v.partEvent (engineSource p) 9 p (s.part p).nextSeq.toNat else v) := by
    split
    · exact .partEvent ..
    · exact .refl _
  rw [told.part, part]
  exact ⟨rfl, rfl, rfl⟩

section
variable {s : State} {p : Nat} {seq : W32} (hb : s.bootstat = 1)
include hb

theorem execFqtake_taken (h : ∃ e ∈ (s.part p).fq, e.seq = seq ∧ e.state = 1) : execFqtake p seq s =
    .next (s.modPart p fun y => { y with fq := y.fq.map fun z => if z.seq = seq then { z with state := 2 } else z }) := by
  rw [execFqtake, State.command_next _ _ hb, if_pos (by simpa using h)]

theorem execFqtake_none (h : ∀ e ∈ (s.part p).fq, e.seq = seq → e.state ≠ 1) :
    execFqtake p seq s = .next (s.reject (partOffset p + 0x78)) := by
  rw [execFqtake, State.command_next _ _ hb, if_neg (by simpa using h)]

theorem execFqresolve_found {e : FqEntry} (h : ((s.part p).fq.find? fun e => e.seq == seq && e.state == 2) = some e) :
    execFqresolve p seq s = .next ((s.modPart p fun q => { q with fq := q.fq.filter fun x => x.seq != seq }).replay p e) := by
  rw [execFqresolve, State.command_next _ _ hb, h]

theorem execFqresolve_none (h : ∀ e ∈ (s.part p).fq, e.seq = seq → e.state ≠ 2) :
    execFqresolve p seq s = .next (s.reject (partOffset p + 0x80)) := by
  have none : ((s.part p).fq.find? fun e => e.seq == seq && e.state == 2) = none := by simpa using h
  rw [execFqresolve, State.command_next _ _ hb, none]

theorem execFqresolveFail_found {e : FqEntry} (h : ((s.part p).fq.find? fun e => e.seq == seq && e.state == 2) = some e) :
    execFqresolveFail p seq s = .next (s.raise p .faultfail (engineSource p) e.vpage 0 e.ctx e.ident) := by
  rw [execFqresolveFail, State.command_next _ _ hb, h]

theorem execFqresolveFail_none (h : ∀ e ∈ (s.part p).fq, e.seq = seq → e.state ≠ 2) :
    execFqresolveFail p seq s = .next (s.reject (partOffset p + 0x80)) := by
  have none : ((s.part p).fq.find? fun e => e.seq == seq && e.state == 2) = none := by simpa using h
  rw [execFqresolveFail, State.command_next _ _ hb, none]

end

theorem State.raise_causes (c : Cause) (source : Nat) (addr pc : W64) (ctx ident : Nat) :
    ((s.raise p c source addr pc ctx ident).part p).causes = (s.part p).causes ++ [⟨c, s.tsc, source, addr, pc, ctx, ident⟩] := by
  rw [State.raise, State.part_modPart_same]

end

/-! ## The halt -/

section
variable (s : State) (p : Nat)

theorem State.MemorySide.stopRecords (c : CauseRec) (n : Nat) : s.MemorySide (s.stopRecords p c n) := by
  unfold State.stopRecords
  dsimp only
  split
  · exact .refl s
  · exact .foldl _ (fun s r => .writePa ..) _ _

theorem State.MemorySide.partCores {t : State} (h : s.MemorySide t) : t.partCores p = s.partCores p := by
  rw [h.rest]
  rfl

theorem Core.stops_stays {l : List Nat} {k : Nat} (t : State) (h : (t.core k).stopped = true ∨ k ∈ l) :
    ((l.foldl (fun s k => s.modCore k fun x => { x.cleared with stopped := true }) t).core k).stopped = true := by
  induction l generalizing t with
  | nil => exact h.resolve_right List.not_mem_nil
  | cons j l ih =>
    refine ih _ ?_
    rw [State.core_modCore]
    split
    · exact .inl rfl
    next other => exact h.imp id fun m => (List.mem_cons.mp m).resolve_left other

/-- The partition is halted with its earliest cause, and the cores that were its own are stopped (R400, R404). -/
theorem State.haltPart_halts {c : CauseRec} (hc : firstCause (s.part p).causes = some c) (hp : (s.part p).pstate = 1) :
    ((s.haltPart p).part p).pstate = 2 ∧ ((s.haltPart p).part p).hcause = BitVec.ofNat 8 c.cause.code ∧ ((s.haltPart p).part p).fq = [] ∧
      ((s.haltPart p).part p).causes = [] ∧ ∀ k ∈ s.partCores p, ((s.haltPart p).core k).stopped = true := by
  unfold State.haltPart
  extract_lets q
  split
  next none => exact absurd (hc.symm.trans none) (by simp)
  next c' hc' =>
  obtain rfl : c = c' := Option.some.inj (hc.symm.trans hc')
  rw [if_neg (not_not.mpr hp)]
  extract_lets n s1 mine others s2 s3 s4 s5 s6 s7 s8 s9 s10 s11 s12
  have told : s12.EventSide (s12.partEvent c.source 7 p c.ident) := .partEvent ..
  have part : s12.part p = { s10.part p with
      fq := [], fqWait := [], causes := [], linkHeld := [], linkWaits := [], pstate := 2, hcause := BitVec.ofNat 8 c.cause.code } := by
    rw [State.part_congr s11 s12 rfl]
    exact State.part_modPart_same ..
  rw [told.part, part]
  refine ⟨rfl, rfl, rfl, rfl, fun k hk => ?_⟩
  have stopped : (s8.core k).stopped = true := by
    refine Core.stops_stays s7 (.inr ?_)
    show k ∈ (s.stopRecords p c n).partCores p
    rwa [State.MemorySide.partCores s p (.stopRecords s p c n)]
  clear_value s8
  have h10 : s10.HasPlant s8.plant := ((State.HasPlant.self s8).foldl fun _ _ h => h.endTree ..).foldl fun _ _ h => h.setQState ..
  have h12 : s12.HasPlant s8.plant := h10.of rfl rfl rfl
  exact ((h12.ofEvent told).stopped k).trans stopped

end

/-! ## Data that cannot be corrected (R359) -/

section
variable (s : State) (p source : Nat) (addr : W64)

/-- The unit that found them withholds the data, and the partition takes the cause. -/
theorem execUncorrectable_raises {who : Nat × Nat} (hr : s.running p = true)
    (hcore : unitKind source = 1 → (s.spindle (source / 64)).part = p) (hown : unitKind source ≠ 1 → s.ownerOf addr.toNat = p)
    (hwho : s.meetsOne (if unitKind source = 1 then s.touching (source / 64 * 36 + source % 64) (addr.toNat / 64)
      else s.slices.flatMap fun sl => (sl.2.admitted.filter fun r => r.line == addr.toNat / 256).map Req.asker) = who) :
    ∃ u, execUncorrectable p source addr s = .next u ∧
      (unitKind source ≠ 1 → addr.toNat / 64 ∈ u.withheld) ∧
      (unitKind source = 1 → addr.toNat / 64 ∈ (u.core (source / 64 * 36 + source % 64)).badVa) ∧
      (u.part p).causes = (s.part p).causes ++ [⟨.uncorrectable, s.tsc, source, addr, 0, who.1, who.2⟩] := by
  unfold execUncorrectable
  by_cases hk : unitKind source = 1
  · simp only [hk, if_true] at hwho
    simp only [hk, decide_true, if_true, hcore hk, hr, ne_eq, not_true, Bool.not_true, Bool.false_eq_true, or_self, if_false, hwho]
    refine ⟨_, rfl, False.elim, fun _ => ?_, State.raise_causes ..⟩
    rw [State.raise, State.core_congr _ _ (State.modPart_cores ..), State.core_modCore_same]
    exact List.mem_cons_self
  · simp only [hk, if_false] at hwho
    simp only [hk, decide_false, Bool.false_eq_true, if_false, hown hk, hr, ne_eq, not_true, Bool.not_true, or_self, hwho]
    exact ⟨_, rfl, fun _ => List.mem_append_right _ List.mem_cons_self, fun h => absurd h id, State.raise_causes ..⟩

theorem State.meetsOne_op {t w o : Nat} {tm : Team} {l : Launch} (ht : s.teams.get? t = some tm) (hl : s.launches.get? tm.launch = some l) :
    s.meetsOne [.op t w o] = (l.ctx, l.ident) := by
  simp [State.meetsOne, State.askerLaunch, ht, hl]

end

/-! ## Time-outs (R357) -/

section
variable (s : State) (p : Nat)

theorem State.timedOut_of {core k : Nat} (hd : (s.part (s.spindle k).part).dbghalt.getLsbD k = false)
    (h : let old (since : W64) : Prop := (s.part (s.spindle k).part).todie.toNat ≤ (s.tsc - since).toNat
      (∃ d, ∃ e ∈ (s.core core).links.getD d [], e.target / 36 = k ∧ k ≠ core / 36 ∧ old e.since) ∨
        (∃ sl ∈ s.slices, ∃ w ∈ sl.2.pend, (∃ c ∈ w.cores, c / 36 = k) ∧ old w.since) ∨
        ∃ l ∈ s.links, ∃ y ∈ l.2.snoops, (∃ w ∈ y.waits, w.2 / 36 = k) ∧ old y.since) : s.timedOut core k = true := by
  rw [State.timedOut, hd, Bool.not_false, Bool.and_true, State.stuckOn, Bool.or_eq_true, Bool.or_eq_true]
  simp only [List.any_eq_true, Bool.and_eq_true, beq_iff_eq, bne_iff_ne, decide_eq_true_eq, or_assoc]
  rcases h with ⟨d, e, he, htarget, hother, hold⟩ | h | h
  · refine .inl ?_
    rw [AMap.getD] at he
    cases hg : (s.core core).links.get? d with
    | none =>
      rw [hg] at he
      cases he
    | some es =>
      rw [hg] at he
      exact ⟨_, AMap.mem_of_get? hg, e, he, ⟨htarget, hother⟩, hold⟩
  · obtain ⟨sl, hsl, w, hw, hc, hold⟩ := h
    exact .inr (.inl ⟨sl, hsl, w, hw, hc, hold⟩)
  · obtain ⟨l, hl, y, hy, hw, hold⟩ := h
    exact .inr (.inr ⟨l, hl, y, hy, hw, hold⟩)

/-- A request on a link runs out: a link in service is lost, and else the partition takes LINKLOST. -/
theorem execCrossLinkTimeout_of {link : Nat} {o : LinkWait} {t : W64} (ho : o ∈ (s.link link).outstanding) (hp : o.part = p)
    (hsent : o.sent = true → s.heldSince p link = none) (hs : o.since = some t) (hold : (s.part p).tolink.toNat ≤ (s.tsc - t).toNat) :
    ∃ u, execCrossLinkTimeout p link s = .next u ∧
      if (s.link link).inService then (u.link link).inService = false ∧ (u.link link).retraining = true
      else s.running p = true → ∃ r, (u.part p).causes = (s.part p).causes ++ [r] ∧ r.cause = .linklost := by
  unfold execCrossLinkTimeout
  extract_lets k ran
  have out : k.outstanding.any ran = true := by
    refine List.any_eq_true.mpr ⟨o, ho, ?_⟩
    have held : (o.sent && (s.heldSince p link).isSome) = false := by
      cases h : o.sent with
      | false => rfl
      | true => rw [hsent h]; rfl
    show (o.part == p && !(o.sent && (s.heldSince p link).isSome) && o.since.any fun t => decide ((s.part p).tolink.toNat ≤ (s.tsc - t).toNat)) = true
    rw [held, hs, hp, beq_self_eq_true, Option.any_some, decide_eq_true hold]
    rfl
  rw [if_neg (by rw [out]; decide)]
  by_cases up : (s.link link).inService = true
  · rw [if_pos (show k.inService = true from up)]
    simp only [up, if_true]
    refine ⟨_, rfl, ?_⟩
    rw [State.link_modLink_same, State.loseLink_link _ _ up]
    exact ⟨rfl, rfl⟩
  · rw [if_neg (show ¬ k.inService = true from up)]
    simp only [up]
    exact ⟨_, rfl, fun hr => State.linkLost_raises hr⟩

end

/-- Settles O55: a replay empties every wait on its page, a halt stops its cores before its launches end, and a fence keeps the spindle
fenced while its teams are lost. -/
theorem faultEvents : Obligations.FaultEvents := by
  unfold Obligations.FaultEvents
  intro s p x rejected
  have rejects (ev : Instr) (o : Nat) (h : exec ev s = .next (s.reject (partOffset p + o))) : rejected ev o :=
    ⟨_, h, rfl, rfl, rfl, rfl⟩
  refine ⟨fun a k hw hp hnew hk => execFaultPark_new s p hw hp hnew hk, fun e he => ⟨fun hb hs => ?_, fun hb hf => ⟨?_, ?_⟩, fun hf hr hd hold => ?_⟩,
    fun seq hb => ⟨fun hno => ?_, fun hno => ⟨?_, ?_⟩⟩, fun c hc hp => ?_, fun source addr hr hcore hown => ?_,
    fun k hk hf => ?_, fun core k hk hf hd => ?_, fun link o t ho hp hsent hs hold => execCrossLinkTimeout_of s p ho hp hsent hs hold⟩
  · exact execFqtake_taken hb ⟨e, he, rfl, hs⟩
  · refine ⟨_, execFqresolve_found hb hf, ?_, fun t tm w wv ht hu hw => ?_, fun core c hc hu => State.replay_cmds _ p e core hc hu⟩
    · rw [State.part_congr _ _ (State.replay_parts ..), State.part_modPart_same]
    · obtain ⟨w', hw', gone, ready⟩ := State.replay_wave _ p e ht hu hw
      exact ⟨w', hw', gone, fun y hy hwake hr => ready y hy hwake hr⟩
  · exact ⟨_, execFqresolveFail_found hb hf, State.raise_causes ..⟩
  · refine ⟨s.raise p .watchdog (engineSource p) e.vpage 0 e.ctx e.ident, ?_, State.raise_causes ..⟩
    show execWatchdog p e.seq s = _
    unfold execWatchdog
    simp only [show (s.part p).fq.find? _ = some e from hf]
    exact if_pos (by simp [hr, show (s.part p).dbghalt = 0 from hd, show (s.part p).fwdog.toNat < s.tsc.toNat - e.since.toNat from hold])
  · exact rejects _ _ (execFqtake_none hb hno)
  · exact rejects _ _ (execFqresolve_none hb hno)
  · exact rejects _ _ (execFqresolveFail_none hb hno)
  · obtain ⟨state, code, fq, causes, stopped⟩ := s.haltPart_halts p hc hp
    exact ⟨_, rfl, state, code, fq, fun _ => causes, stopped⟩
  · intro at_ met raises
    constructor
    · intro hm
      exact execUncorrectable_raises s p source addr (who := (0xFFFF, 0)) hr hcore hown (congrArg s.meetsOne hm)
    · intro t w o tm l hm ht hl
      exact execUncorrectable_raises s p source addr (who := (l.ctx, l.ident)) hr hcore hown
        ((congrArg s.meetsOne hm).trans (s.meetsOne_op ht hl))
  · exact ⟨_, rfl, State.dieFails_fenced _ k hk⟩
  · intro old h
    exact ⟨_, if_pos (s.timedOut_of hd h), State.dieFails_fenced _ k hk⟩

end Sys2Proof.Machine
end

section
/-! SUPPORT. Slots, routers and admission (R342-R349): what fills a slot, what an output grants, and what counting a late message leaves. -/

namespace Sys2Proof.Machine

/-! ## What fills a slot (R344) -/

section
variable {q : List (Nat × Req)} {k n net : Nat} {r : Req}

theorem nextNet_some (h : nextNet q k n = some (net, r)) :
    net < 5 ∧ (k, r) ∈ q ∧ (q.find? fun e => e.1 == k && netOf e.2.dom == net) = some (k, r) := by
  obtain ⟨m, hm, hf⟩ := List.exists_of_findSome?_eq_some h
  obtain ⟨j, _, rfl⟩ := List.mem_map.mp hm
  obtain ⟨e, he, hx⟩ := Option.map_eq_some_iff.mp hf
  obtain ⟨hnet, hr⟩ := Prod.mk.inj hx
  have hk := List.find?_some he
  simp only [Bool.and_eq_true, beq_iff_eq] at hk
  have whole : e = (k, r) := Prod.ext hk.1 hr
  subst whole hnet
  exact ⟨Nat.mod_lt _ (by decide), List.mem_of_find?_eq_some he, he⟩

/-- A network that has a message is the first in a rotation that begins with it. -/
theorem nextNet_self (hn : net < 5) (h : (q.find? fun e => e.1 == k && netOf e.2.dom == net) = some (k, r)) :
    nextNet q k net = some (net, r) := by
  rw [nextNet, show List.range 5 = 0 :: [1, 2, 3, 4] from rfl, List.map_cons, List.findSome?_cons, Nat.add_zero, Nat.mod_eq_of_lt hn, h]
  rfl

theorem Req.size_le (r : Req) : r.size ≤ 512 := by
  unfold Req.size
  split
  · omega
  · have := List.length_filter_le (fun i => (‹BitVec 256› : BitVec 256).getLsbD i) (List.range 256)
    rw [List.length_range] at this
    omega
  · have := Nat.min_le_left 256 (16 * (‹List AtomLane›).length)
    exact (Nat.add_le_add_left this 16).trans (by decide)
  · omega
  · omega
  · omega

/-- Whole messages for the slice, from the queue, in the space there is. -/
theorem fillSlot_fits (fuel n space : Nat) (q : List (Nat × Req)) :
    ((fillSlot k fuel n space q).1.map Req.size).sum ≤ space ∧ ∀ r ∈ (fillSlot k fuel n space q).1, (k, r) ∈ q := by
  induction fuel generalizing n space q with
  | zero => exact ⟨Nat.zero_le _, fun r hr => absurd hr List.not_mem_nil⟩
  | succ fuel ih =>
    unfold fillSlot
    split
    · exact ⟨Nat.zero_le _, fun r hr => absurd hr List.not_mem_nil⟩
    next net r h =>
      dsimp only
      split
      · exact ⟨Nat.zero_le _, fun r hr => absurd hr List.not_mem_nil⟩
      next room =>
        obtain ⟨fits, from_⟩ := ih ((net + 1) % 5) (space - r.size) (q.filter fun e => e.2.id != r.id)
        refine ⟨?_, fun x hx => ?_⟩
        · rw [List.map_cons, List.sum_cons]
          omega
        · rcases List.mem_cons.mp hx with rfl | hx
          · exact (nextNet_some h).2.1
          · exact (List.mem_filter.mp (from_ x hx)).1

/-- With a message on the network that it begins with, a slot is not empty. -/
theorem fillSlot_nonempty (fuel : Nat) (h : nextNet q k net = some (net, r)) : (fillSlot k (fuel + 1) net 512 q).1 ≠ [] := by
  unfold fillSlot
  rw [h]
  dsimp only
  rw [if_neg (Nat.not_lt.mpr r.size_le)]
  exact List.cons_ne_nil _ _

end

theorem takeFirst_none {α : Type} {p : α → Bool} {l : List α} (h : l.any p = false) : takeFirst p l = none := by
  induction l with
  | nil => rfl
  | cons a l ih =>
    rw [List.any_cons, Bool.or_eq_false_iff] at h
    rw [takeFirst, if_neg (by simp [h.1]), ih h.2]

/-! ## What an output grants (R347) -/

theorem findSome?_only {α β : Type} [DecidableEq α] {l : List α} {a : α} (x : α → β) (h : a ∈ l) :
    l.findSome? (fun n => if n = a then some (x n) else none) = some (x a) := by
  induction l with
  | nil => cases h
  | cons b l ih =>
    rw [List.findSome?_cons]
    by_cases e : b = a
    · rw [if_pos e, e]
    · rw [if_neg e]
      exact ih ((List.mem_cons.mp h).resolve_left (Ne.symm e))

/-- An output that holds one message, which nothing holds back, grants it. -/
theorem State.grants_only (s : State) (k out rr : Nat) {m : MeshMsg} (h : (s.router k).out.getD out [] = [m]) (hn : m.net < 5)
    (hfree : (if out < 4 then s.routerRoom (routeNext k out) (routeOut (routeNext k out) m.dest) m else !s.heldAtUnit out m) = true) :
    (((List.range 5).map fun j => (rr + 1 + j) % 5).findSome? fun n => (firstServed (s.grantable k out n)).map fun m => (n, m)) =
      some (m.net, m) := by
  have grant (n : Nat) : ((firstServed (s.grantable k out n)).map fun m => (n, m)) = if n = m.net then some (n, m) else none := by
    unfold State.grantable
    rw [h]
    by_cases e : n = m.net
    · have ready : meshReady n [m] = [m] := by simp [meshReady, e]
      rw [ready, if_pos e, List.filter_cons, if_pos hfree]
      rfl
    · have ready : meshReady n [m] = [] := by simp [meshReady, Ne.symm e]
      rw [ready, if_neg e]
      rfl
  rw [show (fun n => (firstServed (s.grantable k out n)).map fun m => (n, m)) = _ from funext grant]
  refine findSome?_only (fun n => (n, m)) (List.mem_map.mpr ⟨(m.net + 5 - (rr + 1) % 5) % 5, List.mem_range.mpr (by omega), ?_⟩)
  omega

theorem routeNext_ne {k out : Nat} (h : out ∈ meshOuts k) : out < 4 ∧ routeNext k out ≠ k := by
  unfold meshOuts at h
  simp only [List.mem_append] at h
  rcases h with ((h | h) | h) | h <;> split at h <;> simp only [List.mem_singleton, List.not_mem_nil] at h <;> subst h <;>
    simp only [routeNext] <;> omega

/-- A message enters a router, and no other router changes. -/
theorem State.post_enters (s : State) (r : Nat) (m : MeshMsg) : ∃ o, m ∈ ((s.post r m).router r).out.getD o [] := by
  have put (out : AMap (List MeshMsg)) (o : Nat) : m ∈ (out.set o (out.getD o [] ++ [m])).getD o [] := by
    rw [AMap.getD_set_same]
    exact List.mem_append_right _ (.head _)
  unfold State.post
  rw [State.router_modRouter_same]
  dsimp only
  split
  · exact ⟨_, put ..⟩
  · exact ⟨_, put ..⟩

/-! ## What counting a late message leaves (R75) -/

section
variable {β : Type} {g : Slice → β} (hg : ∀ (x : Slice) sp ln iq, g { x with spills := sp, lines := ln, inq := iq } = g x) (s : State)
include hg

theorem State.SlicesKeep.writeSector (tm : Terms) (pa key : Nat) (bs : List Byte) : s.SlicesKeep g (s.writeSector tm pa key bs) := by
  have merge (pa key : Nat) (x : Sector) (m : BitVec 64) (net : Nat) : s.SlicesKeep g (s.mergeSector pa key x m net tm) :=
    .mergeSector (fun x sp ln => hg x sp ln x.inq) ..
  unfold State.writeSector
  dsimp only
  split
  · refine .ite (merge ..) (.trans (t := { s with nextUid := s.nextUid + 1 }) (.of_slices rfl) ?_)
    exact .trans (.noteQcmd ..) (.of_slices rfl)
  · refine .ite (merge ..) (.trans (t := { s with nextUid := s.nextUid + 1 }) (.of_slices rfl) ?_)
    exact .modSlice _ _ _ fun x => hg x x.spills x.lines _

theorem State.SlicesKeep.writePaFor (tm : Terms) (pa key : Nat) (bs : List Byte) : s.SlicesKeep g (s.writePaFor tm pa key bs) :=
  .foldl _ (fun s _ => .writeSector hg s ..) _ s

theorem State.SlicesKeep.countLate (deadline : W64) (queue part : Nat) : s.SlicesKeep g (s.countLate deadline queue part) := by
  unfold State.countLate
  refine .ite (.trans (t := s.modQueue queue fun q => { q with latepkt := q.latepkt + 1 }) (.of_slices rfl) ?_) (.refl s)
  exact .writePaFor hg ..

end

section
variable (s : State)

theorem State.noteQcmd_socks (pa : Nat) (m : BitVec 64) : (s.noteQcmd pa m).socks = s.socks := by
  unfold State.noteQcmd
  split <;> rfl

theorem State.sendMesh_socks (r : Nat) (dest : MeshDest) (net source : Nat) (tm : Terms) (msg : Msg) :
    (s.sendMesh r dest net source tm msg).socks = s.socks := rfl

theorem State.sendMesh_slices (r : Nat) (dest : MeshDest) (net source : Nat) (tm : Terms) (msg : Msg) :
    (s.sendMesh r dest net source tm msg).slices = s.slices := rfl

theorem State.sendMesh_channels (r : Nat) (dest : MeshDest) (net source : Nat) (tm : Terms) (msg : Msg) :
    (s.sendMesh r dest net source tm msg).channels = s.channels := rfl

theorem State.spillLine_socks (k line net : Nat) (tm : Terms) : (s.spillLine k line net tm).socks = s.socks := by
  unfold State.spillLine
  split
  · rfl
  · dsimp only
    rw [State.modSlice_socks]
    split
    · rfl
    · rw [State.sendMesh_socks, State.modSlice_socks]

theorem State.sliceRoom_socks (k line net : Nat) (tm : Terms) : (s.sliceRoom k line net tm).socks = s.socks := by
  unfold State.sliceRoom
  dsimp only
  split
  · rfl
  · split
    · exact s.spillLine_socks ..
    · rfl

theorem State.mergeSector_socks (pa key : Nat) (x : Sector) (m : BitVec 64) (net : Nat) (tm : Terms) :
    (s.mergeSector pa key x m net tm).socks = s.socks := by
  unfold State.mergeSector
  dsimp only
  split
  · obtain ⟨a, bs, e⟩ := (s.noteQcmd pa m).storeSector_writes pa key x m
    rw [e]
    exact s.noteQcmd_socks pa m
  · rw [State.modSlice_socks, State.sliceRoom_socks, State.noteQcmd_socks]

/-- Only the inbox of a memory socket that is down takes a write. -/
theorem State.writeSector_sock {k : Nat} (hk : s.sockUp k = true) (tm : Terms) (pa key : Nat) (bs : List Byte) :
    (s.writeSector tm pa key bs).sock k = s.sock k := by
  unfold State.writeSector
  dsimp only
  split
  · split
    · exact State.sock_congr _ _ (State.mergeSector_socks ..) k
    next down =>
      rw [State.sock_modSock_other _ _ _ _ (by rintro rfl; exact down hk)]
      exact State.sock_congr _ _ (State.noteQcmd_socks ..) k
  · split
    · exact State.sock_congr _ _ (State.mergeSector_socks ..) k
    · rfl

theorem State.MemorySide.sockUp {s t : State} (h : s.MemorySide t) (k : Nat) : t.sockUp k = s.sockUp k := by
  rw [h.rest]
  rfl

theorem State.writePaFor_sock {k : Nat} (hk : s.sockUp k = true) (tm : Terms) (pa key : Nat) (bs : List Byte) :
    (s.writePaFor tm pa key bs).sock k = s.sock k := by
  unfold State.writePaFor
  refine (List.foldlRecOn (motive := fun t : State => t.sock k = s.sock k ∧ t.sockUp k = true) _ _ ⟨rfl, hk⟩ fun t ht a _ => ?_).1
  exact ⟨(t.writeSector_sock ht.2 ..).trans ht.1, ((State.MemorySide.writeSector t ..).sockUp k).trans ht.2⟩

theorem State.countLate_sock {k : Nat} (hk : s.sockUp k = true) (deadline : W64) (queue part : Nat) :
    (s.countLate deadline queue part).sock k = s.sock k := by
  unfold State.countLate
  split
  · exact State.writePaFor_sock (s.modQueue queue fun q => { q with latepkt := q.latepkt + 1 }) hk ..
  · rfl

end

end Sys2Proof.Machine
end

/-! PROOFS. The crossbar, the mesh and admission. -/
section
namespace Sys2Proof.Machine

section
variable (s : State) (k : Nat)

/-- The station with the token fills a slot (R343, R344). -/
theorem execSlotSend_fills {st : Nat} (hst : (((List.range 216).map fun n => ((s.channel k).token + n) % 216).find? fun st =>
      (s.station st).queue.any (fun e => e.1 == k) || (s.station st).resend.any fun e => e.1 == k) = some st)
    (hr : ((s.station st).resend.any fun e => e.1 == k) = false)
    (hn : nextNet (s.station st).queue k (((s.station st).rr.getD k 4 + 1) % 5) ≠ none) :
    ∃ u x, execSlotSend k s = .next u ∧ (u.channel k).flight = (s.channel k).flight ++ [x] ∧ x.station = st ∧ x.msgs ≠ [] ∧
      (x.msgs.map Req.size).sum ≤ 512 ∧ (∀ r ∈ x.msgs, (k, r) ∈ (s.station st).queue) ∧
      (u.channel k).token = ((s.channel k).token + 1) % 216 := by
  obtain ⟨⟨net, r⟩, hn⟩ := Option.ne_none_iff_exists'.mp hn
  obtain ⟨small, _, found⟩ := nextNet_some hn
  obtain ⟨fits, from_⟩ := fillSlot_fits (k := k) 32 net 512 (s.station st).queue
  unfold execSlotSend
  simp only [hst, takeFirst_none hr, hn]
  refine ⟨_, ⟨st, (s.station st).nextSeq, (fillSlot k 32 net 512 (s.station st).queue).1, 0⟩, rfl, ?_⟩
  rw [State.channel_modChannel_same, State.channel_congr _ _ (State.modStation_channels ..), State.channel_modChannel_same]
  exact ⟨rfl, rfl, fillSlot_nonempty 31 (nextNet_self small found), fits, from_, rfl⟩

/-- The messages of a slot reach a slice that is open. -/
theorem State.arriveAtSlice_foldl (l : List Req) (h : (s.slice k).closed = false) :
    (l.foldl (fun s r => s.arriveAtSlice k r) s).channels = s.channels ∧
      ((l.foldl (fun s r => s.arriveAtSlice k r) s).slice k).inq = (s.slice k).inq ++ l := by
  induction l generalizing s with
  | nil => exact ⟨rfl, (List.append_nil _).symm⟩
  | cons r l ih =>
    have arrives : s.arriveAtSlice k r = s.modSlice k fun sl => { sl with inq := sl.inq ++ [r] } := by
      unfold State.arriveAtSlice
      dsimp only
      rw [if_neg (by simp [h])]
    rw [List.foldl_cons, arrives]
    obtain ⟨channels, inq⟩ := ih (s.modSlice k fun sl => { sl with inq := sl.inq ++ [r] }) (by rw [State.slice_modSlice_same]; exact h)
    refine ⟨channels, inq.trans ?_⟩
    rw [State.slice_modSlice_same, List.append_assoc]
    rfl

section
variable {x : Slot} {rest : List Slot} (hf : (s.channel k).flight = x :: rest)
include hf

/-- A good slot that no awaited one precedes is delivered (R345). -/
theorem execSlotReceive_good (ha : (s.channel k).awaiting = []) (hh : (s.channel k).held = []) (hc : (s.slice k).closed = false) :
    ∃ u, execSlotReceive k true s = .next u ∧ (u.channel k).flight = rest ∧ (u.slice k).inq = (s.slice k).inq ++ x.msgs := by
  unfold execSlotReceive
  simp only [hf, if_true]
  refine ⟨_, rfl, ?_⟩
  unfold State.releaseHeld
  dsimp only
  rw [State.channel_modChannel_same, State.channel_modChannel_same]
  simp only [ha, hh, List.filter_nil, List.nil_append, List.any_nil, Bool.not_false, Bool.and_true, List.filter_cons, beq_self_eq_true,
    if_true, sortBy, insertBy, List.flatMap_cons, List.flatMap_nil, List.append_nil]
  generalize hv : ((s.modChannel k _).modChannel k _).modChannel k _ = v
  have slice : v.slice k = s.slice k := by rw [← hv]; rfl
  have flight : (v.channel k).flight = rest := by
    rw [← hv, State.channel_modChannel_same, State.channel_modChannel_same, State.channel_modChannel_same]
  obtain ⟨channels, inq⟩ := v.arriveAtSlice_foldl k x.msgs (by rw [slice, hc])
  exact ⟨by rw [State.channel_congr _ _ channels, flight], by rw [inq, slice]⟩

/-- A slot that fails is awaited again and asked for over the mesh (R345). -/
theorem execSlotReceive_bad (hx : x.fails < 2) :
    ∃ u, execSlotReceive k false s = .next u ∧ (u.channel k).flight = rest ∧ (x.station, x.seq) ∈ (u.channel k).awaiting ∧
      u.slices = s.slices ∧ ∃ o m, m ∈ (u.router (k / 4)).out.getD o [] ∧ m.dest = .station x.station ∧ m.msg = .resend k x.seq := by
  unfold execSlotReceive
  simp only [hf, Bool.false_eq_true, if_false]
  rw [if_neg (by omega)]
  refine ⟨_, rfl, ?_, ?_, ?_, State.sendMesh_enters ..⟩
  · rw [State.channel_congr _ _ (State.sendMesh_channels ..), State.channel_modChannel_same,
      State.channel_congr _ _ (State.modStation_channels ..), State.channel_modChannel_same]
  · rw [State.channel_congr _ _ (State.sendMesh_channels ..), State.channel_modChannel_same]
    dsimp only
    split
    next has => exact List.contains_iff_mem.mp has
    · exact List.mem_append_right _ List.mem_cons_self
  · rw [State.sendMesh_slices, State.modChannel_slices, State.modStation_slices, State.modChannel_slices]

end

theorem execSlotResend_found {st n : Nat} {rest : List (Nat × Nat)} {e : Nat × Slot}
    (ht : takeFirst (fun a : Nat × Nat => a.1 == k) (s.station st).asks = some ((k, n), rest))
    (hs : ((s.station st).sent.find? fun e => e.1 == k && e.2.seq == n) = some e) :
    ∃ u, execSlotResend k st s = .next u ∧ (u.station st).asks = rest ∧ (u.station st).resend = (s.station st).resend ++ [e] := by
  unfold execSlotResend
  simp only [ht]
  refine ⟨_, rfl, ?_⟩
  rw [State.station_modStation_same]
  simp only [hs, and_self]

section
variable {m : MeshMsg} {out : Nat} (hm : (s.router k).out.getD out [] = [m]) (hn : m.net < 5)
include hm hn

omit hm hn in
theorem State.atHead_early (hlate : m.msg.lateMark ≠ some false ∨ s.tsc.toNat ≤ m.tm.own.toNat) : s.atHead m = (s, m) := by
  have early : (m.msg.lateMark == some false && decide (m.tm.own.toNat < s.tsc.toNat)) = false := by
    rcases hlate with h | h
    · rw [beq_eq_false_iff_ne.mpr h, Bool.false_and]
    · rw [decide_eq_false (Nat.not_lt.mpr h), Bool.and_false]
  rw [State.atHead, if_neg (by rw [early]; decide)]

/-- What an output that holds one message does with it, once it is not late or cannot be. -/
theorem execRouterForward_only (hfree : (if out < 4 then s.routerRoom (routeNext k out) (routeOut (routeNext k out) m.dest) m
      else !s.heldAtUnit out m) = true) (hlate : m.msg.lateMark ≠ some false ∨ s.tsc.toNat ≤ m.tm.own.toNat) :
    ∃ t : State, t.slices = s.slices ∧ (t.router k).out.getD out [] = [] ∧
      execRouterForward k out s = .next (if out < 4 then t.post (routeNext k out) { m with sprayed := false } else t.deliver m) := by
  refine ⟨s.modRouter k fun r => { r with out := r.out.set out ((r.out.getD out []).erase m), rr := r.rr.set out m.net }, rfl, ?_, ?_⟩
  · rw [State.router_modRouter_same, AMap.getD_set_same, hm, List.erase_cons_head]
  · unfold execRouterForward
    dsimp only
    rw [s.grants_only k out _ hm hn hfree]
    dsimp only
    rw [State.atHead_early (s.modRouter k _) hlate]

/-- A message goes on to the next router (R347). -/
theorem execRouterForward_sends (hout : out ∈ meshOuts k) (hroom : s.routerRoom (routeNext k out) (routeOut (routeNext k out) m.dest) m = true)
    (hlate : m.msg.lateMark ≠ some false ∨ s.tsc.toNat ≤ m.tm.own.toNat) :
    ∃ u o m', execRouterForward k out s = .next u ∧ (u.router k).out.getD out [] = [] ∧
      m' ∈ (u.router (routeNext k out)).out.getD o [] ∧ m'.dest = m.dest ∧ m'.msg = m.msg := by
  obtain ⟨hlt, hne⟩ := routeNext_ne hout
  obtain ⟨t, _, empty, hu⟩ := execRouterForward_only s k hm hn (by rw [if_pos hlt]; exact hroom) hlate
  obtain ⟨o, enters⟩ := t.post_enters (routeNext k out) { m with sprayed := false }
  refine ⟨_, o, _, hu.trans (by rw [if_pos hlt]), ?_, enters, rfl, rfl⟩
  rw [State.post, State.router_modRouter_other _ _ _ _ (Ne.symm hne)]
  exact empty

/-- Data from a memory socket reach their slice. -/
theorem execRouterForward_data {j line key : Nat} {d : AMap Sector} (hout : 4 ≤ out) (hd : m.dest = .slice j)
    (hmsg : m.msg = .sockData j line key d) (hi : m.net ≠ 4 ∨ s.invalBefore m = false) :
    ∃ u, execRouterForward k out s = .next u ∧ (u.router k).out.getD out [] = [] ∧ (u.slice j).inbox = (s.slice j).inbox ++ [m.msg] := by
  have free : s.heldAtUnit out m = false := by
    unfold State.heldAtUnit
    rcases hi with h | h
    · rw [beq_eq_false_iff_ne.mpr h, Bool.and_false, Bool.false_and]
    · rw [h, Bool.and_false]
  obtain ⟨t, slices, empty, hu⟩ := execRouterForward_only s k hm hn (out := out)
    (by rw [if_neg (by omega), free]; rfl) (.inl (by rw [hmsg]; exact nofun))
  refine ⟨_, hu, ?_⟩
  rw [if_neg (by omega)]
  have arrives : t.deliver m = t.modSlice j fun x => { x with inbox := x.inbox ++ [m.msg] } := by
    unfold State.deliver
    simp only [hd, hmsg]
  rw [arrives, State.slice_modSlice_same, State.slice_congr _ _ slices]
  exact ⟨empty, rfl⟩

end

theorem bestReq_only (p : Req → Bool) {r : Req} (h : p r = true) : bestReq p [] [r] = some r := by
  simp [bestReq, h]

/-- A slice admits the only request that waits (R348). -/
theorem execSliceAdmission_only {r : Req} (h : (s.slice k).inq = [r]) :
    ∃ u, execSliceAdmission k s = .next u ∧ (r.late = true ∨ s.tsc.toNat ≤ r.own.toNat → (u.slice k).inq = []) ∧
      (u.slice k).admitted = (s.slice k).admitted ++ [{ r with late := r.late || decide (r.own.toNat < s.tsc.toNat) }] ∧
      (u.slice k).pos = ((s.slice k).pos + 1) % 256 := by
  unfold execSliceAdmission
  extract_lets sl part owner s1 pick
  have only : sl.inq = [r] := h
  have waits : ∀ q, owner = some q → (r.queue == q) = true := by
    intro q hq
    obtain ⟨e, he, rfl⟩ := List.mem_map.mp (List.mem_of_mem_head? hq)
    simp only [List.mem_filter, Bool.and_eq_true] at he
    have := he.2.2
    rwa [only, List.any_cons, List.any_nil, Bool.or_false] at this
  have picked : pick = some r := by
    unfold pick
    rw [only]
    clear_value owner
    cases owner with
    | none => exact bestReq_only _ rfl
    | some q => exact bestReq_only _ (waits q rfl)
  rw [picked]
  dsimp only
  generalize ht : s1.modSlice k _ = t
  have slice : t.slice k = { s.slice k with
      pos := ((s.slice k).pos + 1) % 256, inq := []
      admitted := (s.slice k).admitted ++ [{ r with late := r.late || decide (r.own.toNat < s.tsc.toNat) }] } := by
    rw [← ht, State.slice_modSlice_same, State.slice_modSlice_same]
    simp [h]
  refine ⟨_, rfl, fun early => ?_, ?_⟩
  · have quiet : (if r.late then t else t.countLate r.own r.queue r.part) = t := by
      split
      · rfl
      next nl =>
        have tsc : t.tsc = s.tsc := by rw [← ht]; rfl
        have := early.resolve_left nl
        rw [State.countLate, if_neg (by rw [tsc]; simp [Nat.not_lt.mpr this])]
    rw [quiet, slice]
  · have keeps : t.SlicesKeep (fun x => (x.admitted, x.pos)) (if r.late then t else t.countLate r.own r.queue r.part) :=
      .ite (.refl t) (.countLate (fun _ _ _ _ => rfl) ..)
    obtain ⟨admitted, pos⟩ := Prod.mk.inj (keeps.slices k)
    rw [admitted, pos, slice]
    exact ⟨rfl, rfl⟩

theorem firstServed_only (m : MeshMsg) : firstServed [m] = some m := rfl

/-- A memory socket answers the only message that waits, a read, with the sectors of its line (R349). -/
theorem execSocketAdmission_read {m : MeshMsg} {j line key : Nat} {secs : BitVec 4} {late : Bool} (hup : s.sockUp k = true)
    (h : (s.sock k).inq = [m]) (hmsg : m.msg = .sockRead j line key secs late) :
    ∃ u, execSocketAdmission k s = .next u ∧ (u.sock k).inq = [] ∧ ∃ o x, x ∈ (u.router (sockRouter k)).out.getD o [] ∧ x.dest = .slice j ∧
      x.msg = .sockData j line key (((List.range 4).filter fun i => secs.getLsbD i).map fun i =>
        (i, s.loadSector (line * 256 + 64 * i) key)) := by
  unfold execSocketAdmission
  rw [if_neg (by rw [hup]; decide)]
  extract_lets so share owned s1 
  have picked : (firstServed (so.inq.filter owned) <|> firstServed so.inq) = some m := by
    rw [show so.inq = [m] from h, List.filter_cons]
    split <;> rfl
  rw [picked]
  dsimp only
  rw [hmsg]
  dsimp only
  generalize ht : s1.modSock k _ = t
  have empty : (t.sock k).inq = [] := by
    rw [← ht, State.sock_modSock_same, State.sock_modSock_same]
    exact (congrArg (·.erase m) h).trans (List.erase_cons_head ..)
  have up : t.sockUp k = true := by rw [← ht]; exact hup
  refine ⟨_, rfl, ?_, State.sendMesh_enters ..⟩
  rw [State.sock_congr _ _ (State.sendMesh_socks ..)]
  split
  · exact empty
  · rw [State.countLate_sock _ up, empty]

end

/-- Settles O47: with one message waiting, the rotation of an output or of a slot begins with it or comes to it, and counting it late writes
only a control block. -/
theorem fabricEvents : Obligations.FabricEvents := by
  unfold Obligations.FabricEvents
  intro s k ch ready
  refine ⟨fun st hst hr hn => execSlotSend_fills s k hst hr hn, fun x rest hf => ⟨fun ha hh hc => execSlotReceive_good s k hf ha hh hc,
    fun hx => execSlotReceive_bad s k hf hx⟩, fun st n rest e ht hs => execSlotResend_found s k ht hs, fun out m hm hn =>
    ⟨fun hout hroom hlate => execRouterForward_sends s k hm hn hout hroom hlate,
      fun j line key d hout hd hmsg hi => execRouterForward_data s k hm hn hout hd hmsg hi⟩, fun r h => execSliceAdmission_only s k h,
    fun m j line key secs late hup h hmsg => execSocketAdmission_read s k hup h hmsg⟩

end Sys2Proof.Machine
end

section
/-! SUPPORT. What pages whose contents become undefined leave (R70), and what a link's receiver keeps while messages are delivered (R355). -/

namespace Sys2Proof.Machine

/-! ## Pages whose contents become undefined -/

/-- A state that differs in the memory side, in what teams have of their PRIV pages, and in the free values drawn. -/
structure State.PrivateSide (s t : State) : Prop where
  rest : t = { s with
    mem := t.mem, slices := t.slices, queues := t.queues, routers := t.routers, socks := t.socks, nextUid := t.nextUid
    teams := t.teams, free := t.free }

section
variable {s t u : State}

theorem State.PrivateSide.refl (s : State) : s.PrivateSide s := ⟨rfl⟩

theorem State.PrivateSide.trans (h : s.PrivateSide t) (k : t.PrivateSide u) : s.PrivateSide u := by
  obtain ⟨h⟩ := h
  obtain ⟨k⟩ := k
  rw [h] at k
  exact ⟨k⟩

theorem State.PrivateSide.of_memory (h : s.MemorySide t) : s.PrivateSide t := ⟨by
  have e := h.rest
  generalize t.mem = a1, t.slices = a2, t.queues = a3, t.routers = a4, t.socks = a5, t.nextUid = a6 at e
  subst e
  rfl⟩

theorem State.PrivateSide.foldl {α : Type} (f : State → α → State) (hf : ∀ (s : State) (a : α), s.PrivateSide (f s a)) (l : List α)
    (s : State) : s.PrivateSide (l.foldl f s) := by
  induction l generalizing s with
  | nil => exact .refl s
  | cons a l ih => exact (hf s a).trans (ih _)

theorem State.PrivateSide.links (h : s.PrivateSide t) : t.links = s.links := by rw [h.rest]
theorem State.PrivateSide.cores (h : s.PrivateSide t) : t.cores = s.cores := by rw [h.rest]
theorem State.PrivateSide.launches (h : s.PrivateSide t) : t.launches = s.launches := by rw [h.rest]

theorem State.PrivateSide.freeBytes (s : State) (n : Nat) : s.PrivateSide (s.freeBytes n).1 := by
  induction n generalizing s with
  | zero => exact .refl s
  | succ n ih => exact .trans (t := s.fresh.2) ⟨rfl⟩ (ih _)

theorem State.PrivateSide.modTeam (s : State) (t : Nat) (f : Team → Team) : s.PrivateSide (s.modTeam t f) := by
  unfold State.modTeam
  split
  · exact ⟨rfl⟩
  · exact .refl s

theorem State.PrivateSide.undefinePage (s : State) (t va : Nat) : s.PrivateSide (s.undefinePage t va) := by
  unfold State.undefinePage
  split
  · exact .refl s
  · split
    · exact .refl s
    · split
      · dsimp only
        split
        · exact (State.PrivateSide.freeBytes s _).trans ((State.PrivateSide.of_memory (.mergeBytes _ _ _ _ _ _)).trans (.modTeam _ _ _))
        · exact .refl s
      · exact .refl s

theorem State.PrivateSide.undefinePages (s : State) : s.PrivateSide s.undefinePages :=
  .foldl _ (fun s _ => .foldl _ (fun _ _ => .undefinePage _ _ _) _ s) _ _

end

/-! ## The receiver of a link -/

theorem State.sendMesh_links (s : State) (r : Nat) (dest : MeshDest) (net source : Nat) (tm : Terms) (msg : Msg) :
    (s.sendMesh r dest net source tm msg).links = s.links := rfl

/-- Which SEQ a link expects, and whether it discards. -/
def Link.receiver (k : Link) : BitVec 13 × Bool := (k.rxExpect, k.rxDiscarding)

/-- A state in which a link expects what it expected. -/
def State.KeepsReceiver (l : Nat) (s t : State) : Prop := (t.link l).receiver = (s.link l).receiver

section
variable {s t u : State} {l : Nat}

theorem State.KeepsReceiver.refl (s : State) : State.KeepsReceiver l s s := rfl

theorem State.KeepsReceiver.trans (h : State.KeepsReceiver l s t) (k : State.KeepsReceiver l t u) : State.KeepsReceiver l s u := Eq.trans k h

theorem State.KeepsReceiver.of_links (h : t.links = s.links) : State.KeepsReceiver l s t := congrArg Link.receiver (State.link_congr s t h l)

theorem State.KeepsReceiver.modLink (s : State) (j : Nat) (f : Link → Link) (hf : ∀ k, (f k).receiver = k.receiver) :
    State.KeepsReceiver l s (s.modLink j f) := by
  by_cases e : l = j
  · subst e
    rw [State.KeepsReceiver, State.link_modLink_same, hf]
  · rw [State.KeepsReceiver, State.link_modLink_other _ _ _ _ e]

theorem State.KeepsReceiver.foldl {α : Type} (f : State → α → State) (hf : ∀ (s : State) (a : α), State.KeepsReceiver l s (f s a))
    (as : List α) (s : State) : State.KeepsReceiver l s (as.foldl f s) := by
  induction as generalizing s with
  | nil => exact .refl s
  | cons a as ih => exact (hf s a).trans (ih _)

theorem State.KeepsReceiver.foldlFst {α β : Type} (f : State × β → α → State × β)
    (hf : ∀ (x : State × β) (a : α), State.KeepsReceiver l x.1 (f x a).1) (as : List α) (x : State × β) :
    State.KeepsReceiver l x.1 (as.foldl f x).1 := by
  induction as generalizing x with
  | nil => exact .refl x.1
  | cons a as ih => exact (hf x a).trans (ih _)

section
variable (s : State) (j : Nat)

theorem State.KeepsReceiver.linkReplies (tag net prio : Nat) (late : Bool) (deadline : W64) (body : LinkBody) :
    State.KeepsReceiver l s (s.linkReplies j tag net prio late deadline body) := .modLink _ _ _ fun _ => rfl

theorem State.KeepsReceiver.snoopsDone : State.KeepsReceiver l s (s.snoopsDone j) := by
  unfold State.snoopsDone
  dsimp only
  refine .trans (.modLink s j (fun k => { k with snoops := k.snoops.filter fun x => !x.waits.isEmpty }) fun _ => rfl) ?_
  exact .foldl _ (fun s (x : LinkSnoop) => .linkReplies s j x.tag x.net x.prio false x.deadline (.snoopAck x.line)) _ _

theorem State.KeepsReceiver.linkSnoop (m : LinkMsg) (line : Nat) : State.KeepsReceiver l s (s.linkSnoop j m line) := by
  unfold State.linkSnoop
  extract_lets copies dests tm r
  have sent : State.KeepsReceiver l s r.1 := by
    refine State.KeepsReceiver.foldlFst (β := List (Nat × Nat)) (x := (s, [])) _ (fun x a => ?_) _
    exact .of_links (State.sendMesh_links ..)
  clear_value r
  refine .trans (t := r.1.modLink j fun k => { k with snoops := k.snoops ++ [⟨line, m.tag, m.net, m.prio, tm.deadline, r.2, s.tsc⟩] }) ?_
    (.snoopsDone ..)
  exact sent.trans (.modLink _ _ _ fun _ => rfl)

theorem State.KeepsReceiver.linkRequest (m : LinkMsg) : State.KeepsReceiver l s (s.linkRequest j m) := by
  unfold State.linkRequest
  dsimp only
  split
  · exact .linkReplies ..
  · split
    · exact .linkReplies ..
    · split
      · exact .linkReplies ..
      · exact .linkReplies ..
      · split
        · exact .linkReplies ..
        · refine .trans ?_ (.modLink _ _ _ fun _ => rfl)
          refine State.KeepsReceiver.foldlFst (β := List PeerPart) _ (fun x a => ?_) _ (s, [])
          split
          · exact .refl _
          · exact .trans (.of_links (State.PrivateSide.undefinePages x.1).links) (.of_links (State.sendMesh_links ..))

theorem State.KeepsReceiver.linkAnswer (m : LinkMsg) : State.KeepsReceiver l s (s.linkAnswer j m) := by
  unfold State.linkAnswer
  split
  · exact .refl s
  next o _ =>
    extract_lets s1 _ tm s2 send
    have h2 : State.KeepsReceiver l s s2 := by
      refine .trans (t := s1) (.modLink _ _ _ fun _ => rfl) ?_
      unfold s2
      split
      · exact .of_links (State.EventSide.of_memory (.countLate ..)).links
      · exact .refl s1
    refine h2.trans ?_
    split
    · exact .of_links (State.sendMesh_links ..)
    · exact .of_links (State.sendMesh_links ..)
    · exact .of_links (State.sendMesh_links ..)
    · exact .of_links (State.sendMesh_links ..)
    · exact .modLink _ _ _ fun _ => rfl
    · exact .refl _

theorem State.KeepsReceiver.linkDeliver (m : LinkMsg) : State.KeepsReceiver l s (s.linkDeliver j m) := by
  unfold State.linkDeliver
  split
  · exact .linkSnoop ..
  · split
    · exact .linkRequest ..
    · exact .linkAnswer ..

end
end

end Sys2Proof.Machine
end

/-! PROOFS. Flits and control flits. -/
section
namespace Sys2Proof.Machine

section
variable (s : State) (l : Nat)

/-! ## Sending (R354) -/

/-- Only one network has a message that may leave: the rotation comes to it. -/
theorem find?_rotated {rr n : Nat} (hn : n < 5) {p : Nat → Bool} (hp : p n = true) (ho : ∀ m, m ≠ n → p m = false) :
    ((List.range 5).map fun i => (rr + i) % 5).find? p = some n := by
  have mem : n ∈ (List.range 5).map fun i => (rr + i) % 5 :=
    List.mem_map.mpr ⟨(n + 5 - rr % 5) % 5, List.mem_range.mpr (by omega), by omega⟩
  cases h : ((List.range 5).map fun i => (rr + i) % 5).find? p with
  | none => exact absurd hp (List.find?_eq_none.mp h n mem)
  | some m =>
    by_cases e : m = n
    · rw [e]
    · exact absurd (List.find?_some h) (by rw [ho m e]; decide)

/-- A message that fits goes whole into an empty payload, stamped. -/
theorem packFlit_whole (stamp : LinkOut → LinkOut) {m : LinkOut} (h : linkSize (stamp m).msg ≤ 250) :
    packFlit stamp 250 0 [m] = ([stamp m], 0, []) := by
  simp only [packFlit, if_true, Nat.sub_zero, h]

/-- The only message that waits and may leave goes out in a flit that joins the replay buffer. -/
theorem State.newFlit_link {m : LinkOut} (hr : (s.link l).replay.length < 4096) (hq : (s.link l).sendQ = [m]) (hm : s.mayLeave l m = true)
    (hn : m.msg.net < 5) (hc : 0 < (s.link l).credits.getD m.msg.net 0) (hb : (s.link l).sentBytes.getD m.msg.net 0 = 0)
    (hs : linkSize m.msg ≤ 250) :
    let out := (s.stamped m).msg
    let frame := FlitFrame.make (Config.flitPayload [out] 0) (BitVec.ofNat 3 m.msg.net) (s.link l).nextSeq
    ((s.newFlit l).link l).replay = (s.link l).replay ++ [(⟨frame, [out]⟩, 0)] ∧
      (((s.newFlit l).link l).fibre = (frame.fibre (s.link l).txMask).filter fun w => !s.lasersOut.getLsbD w.1) ∧
      ((s.newFlit l).link l).sendQ = [] ∧ ((s.newFlit l).link l).nextSeq = (s.link l).nextSeq + 1 := by
  intro out frame
  have mine (n : Nat) : (s.link l).sendQ.filter (fun m => m.msg.net == n && s.mayLeave l m) = if m.msg.net = n then [m] else [] := by
    rw [hq, List.filter_cons]
    simp [hm]
  have chosen : ((List.range 5).map fun i => ((s.link l).rr + i) % 5).find? (fun n =>
      !(if m.msg.net = n then [m] else []).isEmpty && decide (0 < (s.link l).credits.getD n 0)) = some m.msg.net := by
    refine find?_rotated hn (by rw [if_pos rfl]; exact decide_eq_true hc) fun n hne => ?_
    rw [if_neg (Ne.symm hne)]
    rfl
  unfold State.newFlit
  simp only [mine]
  rw [if_neg (by omega), chosen]
  simp only [if_true, hb, packFlit_whole s.stamped hs, Nat.lt_irrefl, if_false, List.append_nil, List.map_cons, List.map_nil]
  rw [State.link_modLink_same, State.emit, State.link_modLink_same]
  refine ⟨rfl, rfl, ?_, rfl⟩
  show [] ++ (s.link l).sendQ.filter (fun x => !([m].contains x)) = []
  rw [hq]
  simp

/-! ## Receiving (R355, R298) -/

/-- The state in which the messages of a flit are delivered, or the flit is discarded. -/
theorem execFlitReceive_accepts {fl : Flit} (hu : s.linkUp l = true) (hn : fl.frame.net ≤ 4) (hg : fl.frame.intact = true)
    (hs : fl.frame.seq = (s.link l).rxExpect) :
    ∃ t : State, t.cores = s.cores ∧ (∃ x, t.link l = Link.accept { (s.link l).noteSent 1 fl.frame.seq with lastGood := x } fl) ∧
      execFlitReceive l fl s = .next (fl.msgs.foldl (fun s m => s.linkDeliver l m) t) := by
  unfold execFlitReceive
  simp only [hu, hg, hs, Bool.not_true, Bool.false_eq_true, true_and, show ¬ 4 < fl.frame.net by omega, or_self, if_false, beq_self_eq_true,
    Bool.and_self, if_true]
  refine ⟨_, ?_, ⟨s.tsc, ?_⟩, rfl⟩
  · rfl
  · rw [State.link_modLink_same, State.link_modLink_same]

theorem execFlitReceive_expected {fl : Flit} (hu : s.linkUp l = true) (hn : fl.frame.net ≤ 4) (hg : fl.frame.intact = true)
    (hs : fl.frame.seq = (s.link l).rxExpect) :
    ∃ u, execFlitReceive l fl s = .next u ∧ (u.link l).rxExpect = (s.link l).rxExpect + 1 ∧ (u.link l).rxDiscarding = false := by
  obtain ⟨t, _, ⟨x, link⟩, hexec⟩ := execFlitReceive_accepts s l hu hn hg hs
  have keeps : State.KeepsReceiver l t (fl.msgs.foldl (fun s m => s.linkDeliver l m) t) := .foldl _ (fun s m => .linkDeliver s l m) _ _
  obtain ⟨expect, discarding⟩ := Prod.mk.inj keeps
  exact ⟨_, hexec, by rw [expect, link]; rfl, by rw [discarding, link]; rfl⟩

/-- A snoop of a line that no core holds or awaits is acknowledged at once (R298). -/
theorem State.linkSnoop_nobody {m : LinkMsg} {line : Nat} (hno : ∀ c ∈ s.cores, c.2.farCopies l line = []) (hs : (s.link l).snoops = []) :
    ((s.linkSnoop l m line).link l).sendQ = (s.link l).sendQ ++
        [⟨⟨m.tag, m.net, none, m.prio, false, .snoopAck line, false⟩, s.arrivalDeadline m⟩] ∧
      ((s.linkSnoop l m line).link l).snoops = [] := by
  have copies : (s.cores.flatMap fun c => (c.2.farCopies l line).map fun x => (c.1 / 36, x)) = [] :=
    List.flatMap_eq_nil_iff.mpr fun c hc => by rw [hno c hc]; rfl
  have dests : (s.cores.flatMap fun c => ((([] : List (Nat × Nat)).filter (·.1 == c.1 / 36)).map (·.2)).eraseDups.map fun x => (c.1, x)) = [] :=
    List.flatMap_eq_nil_iff.mpr fun c _ => rfl
  unfold State.linkSnoop
  dsimp only
  rw [copies, dests, List.foldl_nil]
  unfold State.snoopsDone
  simp only [State.link_modLink_same, hs, List.nil_append, List.filter_cons, List.isEmpty_nil, if_true, List.filter_nil, List.foldl_cons,
    List.foldl_nil, State.linkReplies, Bool.not_true, Bool.false_eq_true, if_false, and_self]

theorem execFlitReceive_snoop {fl : Flit} {m : LinkMsg} {line : Nat} (hu : s.linkUp l = true) (hn : fl.frame.net ≤ 4)
    (hg : fl.frame.intact = true) (hs : fl.frame.seq = (s.link l).rxExpect) (hm : fl.msgs = [m]) (hb : m.body = .snoop line)
    (hk : (s.link l).snoops = []) (hno : ∀ c ∈ s.cores, c.2.farCopies l line = []) :
    ∃ u out, execFlitReceive l fl s = .next u ∧ (u.link l).sendQ = (s.link l).sendQ ++ [out] ∧ (u.link l).snoops = [] ∧
      out.msg.tag = m.tag ∧ out.msg.net = m.net ∧ out.msg.body = .snoopAck line := by
  obtain ⟨t, cores, ⟨x, link⟩, hexec⟩ := execFlitReceive_accepts s l hu hn hg hs
  obtain ⟨sendQ, snoops⟩ := t.linkSnoop_nobody l (m := m) (line := line) (by rw [cores]; exact hno) (by rw [link]; exact hk)
  refine ⟨t.linkSnoop l m line, _, ?_, sendQ.trans (by rw [link]; rfl), snoops, rfl, rfl, rfl⟩
  rw [hexec, hm, List.foldl_cons, List.foldl_nil, State.linkDeliver, hb]

/-- A flit that is not the one expected is discarded, the first with a negative acknowledgement. -/
theorem execFlitReceive_discards {fl : Flit} (hu : s.linkUp l = true) (hn : fl.frame.net ≤ 4)
    (h : fl.frame.intact = false ∨ fl.frame.seq ≠ (s.link l).rxExpect) :
    ∃ u, execFlitReceive l fl s = .next u ∧ (u.link l).rxExpect = (s.link l).rxExpect ∧ (u.link l).rxDiscarding = true ∧
      (u.link l).rxNakCount = (if (s.link l).rxDiscarding then (s.link l).rxNakCount else (s.link l).rxNakCount + 1) ∧
      u.routers = s.routers ∧ u.mem = s.mem := by
  have bad : (fl.frame.intact && fl.frame.seq == (s.link l).rxExpect) = false := by
    rcases h with h | h
    · rw [h, Bool.false_and]
    · rw [beq_eq_false_iff_ne.mpr h, Bool.and_false]
  unfold execFlitReceive
  dsimp only
  rw [if_neg (by rw [hu]; rintro (h | h); exacts [absurd h (by decide), absurd h.2 (by omega)]), bad, if_neg Bool.false_ne_true]
  refine ⟨_, rfl, ?_⟩
  rw [State.link_modLink_same, State.link_modLink_same]
  unfold Link.discard
  cases hd : (s.link l).rxDiscarding with
  | false =>
    rw [if_neg (show ¬ ((s.link l).noteSent 1 fl.frame.seq).rxDiscarding = true by rw [Link.noteSent]; simp [hd])]
    exact ⟨rfl, rfl, rfl, rfl, rfl⟩
  | true =>
    rw [if_pos (show ((s.link l).noteSent 1 fl.frame.seq).rxDiscarding = true from hd)]
    exact ⟨rfl, hd, rfl, rfl, rfl⟩

/-! ## Control flits (R464) -/

theorem Link.acked_credits (k : Link) (ack : BitVec 13) (now : Nat) :
    (k.acked ack now).credits = k.credits ∧ (k.acked ack now).txCreditSeen = k.txCreditSeen := by
  unfold Link.acked
  extract_lets n gone
  split <;> exact ⟨rfl, rfl⟩

/-- The light that the other end finds, the credits and the resends of a link stay. -/
structure Link.KeepsPeer (k k' : Link) : Prop where
  peerLit : k'.peerLit = k.peerLit
  credits : k'.credits = k.credits
  seen : k'.txCreditSeen = k.txCreditSeen
  naks : k'.txNakSeen = k.txNakSeen
  resendAt : k'.resendAt = k.resendAt
  replay : k'.replay = k.replay

theorem Link.KeepsPeer.refl (k : Link) : k.KeepsPeer k := ⟨rfl, rfl, rfl, rfl, rfl, rfl⟩

theorem Link.KeepsPeer.trans {k k' k'' : Link} (h : k.KeepsPeer k') (h' : k'.KeepsPeer k'') : k.KeepsPeer k'' where
  peerLit := h'.peerLit.trans h.peerLit
  credits := h'.credits.trans h.credits
  seen := h'.seen.trans h.seen
  naks := h'.naks.trans h.naks
  resendAt := h'.resendAt.trans h.resendAt
  replay := h'.replay.trans h.replay

/-- Light that was found before adds nothing. -/
theorem or_and_self_left (a b : BitVec 16) : a ||| b &&& a = a := by
  ext i
  simp only [BitVec.getElem_or, BitVec.getElem_and]
  cases a[i] <;> simp

/-- Waves that the other end finds lit come back. -/
theorem State.wavesBack_keepsPeer (rx waves : BitVec 16) :
    (s.link l).KeepsPeer ((s.wavesBack l rx (waves &&& (s.link l).peerLit)).link l) := by
  unfold State.wavesBack State.newMasks
  simp only [State.link_modLink_same]
  exact ⟨or_and_self_left .., rfl, rfl, rfl, rfl, rfl⟩

theorem State.askedBack_keepsPeer : (s.link l).KeepsPeer ((s.askedBack l (s.link l).peerLit).link l) := by
  unfold State.askedBack
  dsimp only
  split
  · exact .refl _
  · generalize hv : s.modLink l _ = v
    have link : v.link l = { s.link l with asked := (s.link l).asked &&& ~~~((s.link l).asked &&& (s.link l).peerLit) } := by
      rw [← hv, State.link_modLink_same]
    have same : (s.link l).KeepsPeer (v.link l) := by
      rw [link]
      exact ⟨rfl, rfl, rfl, rfl, rfl, rfl⟩
    have back := v.wavesBack_keepsPeer l 0 (s.link l).asked
    rw [same.peerLit] at back
    exact same.trans back

/-- What a control flit leaves of the port that receives it (R464, R355). -/
theorem execControlFlitReceive_link {fl : CtlFlit} (hu : s.linkUp l = true) (hg : fl.frame.intact = true) (hn : fl.frame.net = 7) :
    ∃ u, execControlFlitReceive l fl s = .next u ∧ (u.link l).peerLit = fl.state.lit ∧ (u.link l).txCreditSeen = fl.state.credits ∧
      (∀ n, n < 5 → (u.link l).credits.getD n 0 =
        (s.link l).credits.getD n 0 + (fl.state.credits.getD n 0 - (s.link l).txCreditSeen.getD n 0).toNat) ∧
      (fl.state.nakCount = (s.link l).txNakSeen + 1 →
        (u.link l).txNakSeen = fl.state.nakCount ∧ (u.link l).resendAt = (u.link l).replay.length) := by
  unfold execControlFlitReceive
  extract_lets k c rose s1 s2 s3 s4 p
  rw [if_neg (by simp [hu, hg, hn])]
  have link1 : s1.link l = { k.acked c.ack s.time with lastGood := s.tsc } := State.link_modLink_same ..
  have link2 : (s2.link l).credits = k.credits ∧ (s2.link l).txCreditSeen = k.txCreditSeen ∧
      (fl.state.nakCount = k.txNakSeen + 1 → (s2.link l).txNakSeen = c.nakCount ∧ (s2.link l).resendAt = (s2.link l).replay.length) := by
    obtain ⟨credits, seen⟩ := k.acked_credits c.ack s.time
    unfold s2
    split
    · rw [State.link_modLink_same, link1]
      refine ⟨credits, seen, fun _ => ⟨rfl, ?_⟩⟩
      unfold Link.resend
      dsimp only
      split
      next h => rw [h]; rfl
      next h => rw [h]
    next calm =>
      rw [link1]
      refine ⟨credits, seen, fun rises => absurd ?_ calm⟩
      have one : rose = 1 := by
        show c.nakCount - k.txNakSeen = 1
        rw [show c.nakCount = k.txNakSeen + 1 from rises]
        bv_omega
      rw [one]
      decide
  have link3 : s3.link l = { s2.link l with
      credits := (List.range 5).map fun n => k.credits.getD n 0 + (c.credits.getD n 0 - k.txCreditSeen.getD n 0).toNat
      txCreditSeen := c.credits
      reportTsc := if c.lit = (s2.link l).peerLit then (s2.link l).reportTsc else s2.tsc
      peerDark := c.darkNs
      peerLit := c.lit } := by
    refine (State.link_modLink_same ..).trans ?_
    rw [link2.1, link2.2.1]
  have keeps4 : (s3.link l).KeepsPeer (s4.link l) := by
    have := s3.askedBack_keepsPeer l
    rwa [show (s3.link l).peerLit = c.lit by rw [link3]] at this
  have ends (t : State) (h : (s3.link l).KeepsPeer (t.link l)) : (t.link l).peerLit = c.lit ∧ (t.link l).txCreditSeen = c.credits ∧
      (∀ n, n < 5 → (t.link l).credits.getD n 0 = k.credits.getD n 0 + (c.credits.getD n 0 - k.txCreditSeen.getD n 0).toNat) ∧
      (c.nakCount = k.txNakSeen + 1 → (t.link l).txNakSeen = c.nakCount ∧ (t.link l).resendAt = (t.link l).replay.length) := by
    rw [h.peerLit, h.seen, h.credits, h.naks, h.resendAt, h.replay, link3]
    refine ⟨rfl, rfl, fun n hn => ?_, link2.2.2⟩
    simp [List.getD, hn]
  split
  · exact ⟨_, rfl, ends s4 keeps4⟩
  · refine ⟨_, rfl, ends _ (keeps4.trans ?_)⟩
    have lit : (p.2.link l).peerLit = c.lit := keeps4.peerLit.trans (by rw [link3])
    have back := p.2.wavesBack_keepsPeer l p.1 c.probe
    rw [lit] at back
    exact back

end

/-- Settles O56: the messages of a flit change nothing of its link's receiver, and the light that comes back had been reported. -/
theorem flitEvents : Obligations.FlitEvents := by
  unfold Obligations.FlitEvents
  intro s l k
  refine ⟨?_, fun fl hu hn => ⟨fun hg hs => execFlitReceive_expected s l hu hn hg hs,
      fun m line hg hs hm hb hk hno => execFlitReceive_snoop s l hu hn hg hs hm hb hk hno, fun h => execFlitReceive_discards s l hu hn h⟩,
    fun hu hd ha hlate => ?_, fun hs hr hlate => ?_, fun hu hdue => ?_, fun fl hu hg hn => execControlFlitReceive_link s l hu hg hn⟩
  · intro s0 k0 m hu hra hr hq hm hn hc hb hsz out frame
    refine ⟨s0.newFlit l, ?_, s0.newFlit_link l hr hq hm hn hc hb hsz⟩
    show execFlitSend l s = _
    unfold execFlitSend
    dsimp only
    rw [if_neg (by rw [hu]; decide), if_neg (by rw [show (((s.absorbPort l).snoopsDone l).link l).resendAt = 0 from hra]; decide)]
  · refine ⟨s.modLink l fun k => k.nak s.time, if_pos ?_, ?_⟩
    · rw [hu, show (s.link l).rxDiscarding = true from hd, show (s.link l).rxAgain = true from ha,
        decide_eq_true (show (s.link l).rxLastNak + 1200 ≤ s.time from hlate)]
      rfl
    · rw [State.link_modLink_same]
      exact ⟨rfl, rfl⟩
  · refine ⟨s.modLink l fun k => k.resend s.time, if_pos ?_, ?_⟩
    · rw [show (s.link l).inService = true from hs, decide_eq_true (show (s.link l).lastSend + 12000 ≤ s.time from hlate),
        List.isEmpty_eq_false_iff.mpr hr]
      rfl
    · rw [State.link_modLink_same]
      exact ⟨rfl, rfl⟩
  · intro c
    refine ⟨_, if_pos ?_, ?_⟩
    · rw [hu, Bool.true_and, Bool.or_eq_true, decide_eq_true_eq]
      exact hdue
    · rw [State.link_modLink_same]
      exact ⟨rfl, rfl, rfl, rfl⟩

end Sys2Proof.Machine
end

section
/-! SUPPORT. A stage ring in a team's stash (R335-R337): what a fill leaves of its header and of the entry it fills. -/

namespace Sys2Proof.Machine

/-! ## Bytes of a vector -/

/-- Bytes at a place inside one of some pieces of equal length. -/
theorem flatten_slice {g : Nat → List Byte} {w k : Nat} (hw : ∀ l, (g l).length = w) {n : Nat} (hk : k < n) :
    ((((List.range n).map g).flatten).drop (w * k)).take w = g k := by
  induction n with
  | zero => omega
  | succ n ih =>
    rw [List.range_succ, List.map_append, List.flatten_append, List.map_singleton, List.flatten_singleton]
    have size : ((List.range n).map g).flatten.length = w * n := by
      simp [List.length_flatten, Function.comp_def, hw, Nat.mul_comm]
    rcases Nat.lt_succ_iff_lt_or_eq.mp hk with lower | rfl
    · have room : w * k + w ≤ w * n := by rw [← Nat.mul_succ]; exact Nat.mul_le_mul_left w lower
      rw [List.drop_append_of_le_length (by omega), List.take_append_of_le_length (by rw [List.length_drop]; omega)]
      exact ih lower
    · rw [List.drop_left' size, ← hw k, List.take_length]

theorem Vec.bytes_length (v : Vec) : v.bytes.length = 128 := by
  simp [Vec.bytes, lanes32, List.length_flatten, Function.comp_def]

theorem Vec.bytes_value (v : Vec) {l : Nat} (hl : l < 32) : leNat ((v.bytes.drop (4 * l)).take 4) = (v.val l).toNat := by
  rw [Vec.bytes, lanes32, flatten_slice (fun l => toLe_length 4 _) hl, leNat_toLe]
  exact Nat.mod_eq_of_lt ((v.val l).isLt.trans_eq (by decide))

theorem Vec.tagBytes_length (v : Vec) : v.tagBytes.length = 16 := by simp [Vec.tagBytes]

/-- The tag of a lane in its byte: the low half for an even lane, the high half for an odd one. -/
theorem Vec.tagBytes_tag (v : Vec) {l : Nat} (hl : l < 32) :
    BitVec.ofNat 4 (((v.tagBytes.getD (l / 2) 0).toNat) / (if l % 2 = 1 then 16 else 1)) = v.tagAt l := by
  have byte : v.tagBytes.getD (l / 2) 0 = v.tagAt (2 * (l / 2) + 1) ++ v.tagAt (2 * (l / 2)) := by
    rw [List.getD_eq_getElem _ _ (by rw [v.tagBytes_length]; omega)]
    simp [Vec.tagBytes]
  rw [byte]
  by_cases odd : l % 2 = 1
  · rw [if_pos odd, show 2 * (l / 2) + 1 = l by omega]
    generalize v.tagAt l = hi, v.tagAt (2 * (l / 2)) = lo
    revert hi lo
    decide
  · rw [if_neg odd, show 2 * (l / 2) = l by omega]
    generalize v.tagAt l = lo, v.tagAt (l + 1) = hi
    revert hi lo
    decide

/-! ## Numbers in the stash -/

section
variable (tm : Team) (o : Nat) (bs : List Byte)

theorem Team.stashNat_stashWrite_outside {a n : Nat} (h : a + n ≤ o ∨ o + bs.length ≤ a) :
    (tm.stashWrite o bs).stashNat a n = tm.stashNat a n := by
  rw [Team.stashNat, Team.stashRead_stashWrite_outside tm o bs h, Team.stashNat]

/-- Bytes inside those written read as they were written. -/
theorem Team.stashRead_stashWrite_inside {k n : Nat} (h : k + n ≤ bs.length) :
    (tm.stashWrite o bs).stashRead (o + k) n = (bs.drop k).take n := by
  refine List.ext_getElem (by simp [Team.stashRead]; omega) fun j _ hj => ?_
  rw [List.length_take, List.length_drop] at hj
  simp only [Team.stashRead_eq, List.getElem_map, List.getElem_range, List.getElem_take, List.getElem_drop]
  rw [Nat.add_assoc]
  exact Team.stashWrite_at_inside tm o bs (by omega)

theorem Team.stashNat_stashWrite_inside {k n : Nat} (h : k + n ≤ bs.length) :
    (tm.stashWrite o bs).stashNat (o + k) n = leNat ((bs.drop k).take n) := by
  rw [Team.stashNat, Team.stashRead_stashWrite_inside tm o bs h]

end

/-! ## A fill (R337) -/

section
variable {tm : Team} {o n : Nat} {v : Vec} (h1 : 1 ≤ ringNent tm o) (h64 : ringNent tm o ≤ 64)

theorem ringPhase_lt (tm : Team) (o : Nat) : ringPhase tm o < 256 ^ 8 := by
  have := leNat_lt (tm.stashRead (o + 16) 8)
  rwa [show (tm.stashRead (o + 16) 8).length = 8 by simp [Team.stashRead]] at this

/-- The place of an entry lies within the ring. -/
theorem entry_lt (h1 : 1 ≤ ringNent tm o) : n % ringNent tm o < ringNent tm o := Nat.mod_lt _ h1

include h1

theorem ringFill_eq : ringFill tm o n v =
    (((tm.stashWrite (o + 64 + 128 * (n % ringNent tm o)) v.bytes).stashWrite
      (o + 64 + 128 * ringNent tm o + 16 * (n % ringNent tm o)) v.tagBytes).stashWrite (o + 16)
        (toLe 8 (ringPhase tm o ^^^ (1 <<< (n % ringNent tm o))))) := by
  unfold ringFill
  dsimp only
  rw [if_neg (by omega), ringPhase, Team.stashNat_stashWrite_outside _ _ _ (.inl (by omega)),
    Team.stashNat_stashWrite_outside _ _ _ (.inl (by omega)), ringPhase]

/-- Numbers of the header that lie before the phase bits stay. -/
theorem ringFill_header {a len : Nat} (h : a + len ≤ 16) : (ringFill tm o n v).stashNat (o + a) len = tm.stashNat (o + a) len := by
  rw [ringFill_eq h1, Team.stashNat_stashWrite_outside _ _ _ (.inl (by omega)), Team.stashNat_stashWrite_outside _ _ _ (.inl (by omega)),
    Team.stashNat_stashWrite_outside _ _ _ (.inl (by omega))]

theorem ringNent_ringFill : ringNent (ringFill tm o n v) o = ringNent tm o := ringFill_header h1 (by omega)

/-- The entry filled is the one put there. -/
theorem ringEntry_ringFill (g : Nat → Lane) : ringEntry (ringFill tm o n (Vec.of g)) o (n % ringNent tm o) = Vec.of g := by
  have slot := entry_lt (n := n) h1
  have within : 128 * (n % ringNent tm o) + 128 ≤ 128 * ringNent tm o := by omega
  unfold ringEntry
  dsimp only
  rw [ringNent_ringFill h1]
  refine Vec.of_congr fun l hl => ?_
  have value : (ringFill tm o n (Vec.of g)).stashNat (o + 64 + 128 * (n % ringNent tm o) + 4 * l) 4 = ((Vec.of g).val l).toNat := by
    rw [ringFill_eq h1, Team.stashNat_stashWrite_outside _ _ _ (.inr (by rw [toLe_length]; omega)),
      Team.stashNat_stashWrite_outside _ _ _ (.inl (by omega)), Team.stashNat_stashWrite_inside _ _ _ (by rw [Vec.bytes_length]; omega),
      Vec.bytes_value _ hl]
  have tag : (ringFill tm o n (Vec.of g)).stashNat (o + 64 + 128 * ringNent tm o + 16 * (n % ringNent tm o) + l / 2) 1 =
      ((Vec.of g).tagBytes.getD (l / 2) 0).toNat := by
    rw [ringFill_eq h1, Team.stashNat_stashWrite_outside _ _ _ (.inr (by rw [toLe_length]; omega)),
      Team.stashNat_stashWrite_inside _ _ _ (by rw [Vec.tagBytes_length]; omega)]
    have byte := List.drop_eq_getElem_cons (l := (Vec.of g).tagBytes) (i := l / 2) (by rw [Vec.tagBytes_length]; omega)
    rw [byte, List.take_succ_cons, List.take_zero, List.getD_eq_getElem _ _ (by rw [Vec.tagBytes_length]; omega)]
    simp [leNat]
  rw [value, tag, Vec.tagBytes_tag _ hl]
  simp [Vec.val, Vec.tagAt, Vec.of, lanes32, List.getD, hl]

include h64

/-- The entry filled reads as full. -/
theorem ringFull_ringFill (hf : ringFull tm o n = false) : ringFull (ringFill tm o n v) o n = true := by
  have slot := entry_lt (n := n) h1
  have phase : ringPhase (ringFill tm o n v) o = ringPhase tm o ^^^ (1 <<< (n % ringNent tm o)) := by
    have fits : ringPhase tm o ^^^ (1 <<< (n % ringNent tm o)) < 2 ^ 64 := by
      refine Nat.xor_lt_two_pow ((ringPhase_lt tm o).trans_eq (by decide)) ?_
      rw [Nat.one_shiftLeft]
      exact Nat.pow_lt_pow_right (by decide) (by omega)
    have inside := Team.stashNat_stashWrite_inside ((tm.stashWrite (o + 64 + 128 * (n % ringNent tm o)) v.bytes).stashWrite
      (o + 64 + 128 * ringNent tm o + 16 * (n % ringNent tm o)) v.tagBytes) (o + 16)
        (toLe 8 (ringPhase tm o ^^^ (1 <<< (n % ringNent tm o)))) (k := 0) (n := 8) (by rw [toLe_length])
    rw [← ringFill_eq h1, List.drop_zero, List.take_of_length_le (by rw [toLe_length]), leNat_toLe, Nat.mod_eq_of_lt (fits.trans_eq (by decide))]
      at inside
    exact inside
  unfold ringFull at hf ⊢
  dsimp only at hf ⊢
  rw [ringNent_ringFill h1, phase]
  have some : (ringNent tm o != 0) = true := by simp; omega
  rw [some, Bool.true_and, decide_eq_false_iff_not, nbits_one] at hf
  rw [some, Bool.true_and, decide_eq_true_eq, nbits_one, Nat.testBit_xor, Nat.one_shiftLeft, Nat.testBit_two_pow_self, Bool.xor_true]
  have parity := Nat.mod_two_eq_zero_or_one (n / ringNent tm o + 1)
  cases hb : (ringPhase tm o).testBit (n % ringNent tm o) <;> rw [hb] at hf <;> simp at hf ⊢ <;> omega

end

end Sys2Proof.Machine
end

section
/-! SUPPORT. What engine accesses leave of the ports (R330, R331): copies in the cores come and go, and the commands stay. -/

namespace Sys2Proof.Machine

/-! ## Changes of a core's caches -/

/-- A core that differs in its reuse table and CNF, its L1, and the reads and write-backs that are on their way. -/
def Core.CacheSide (c d : Core) : Prop :=
  d = { c with
    cnf := d.cnf, reuse := d.reuse, reusePend := d.reusePend, l1 := d.l1, wbOut := d.wbOut, readsOut := d.readsOut, farReads := d.farReads }

section
variable {c d e : Core}

theorem Core.CacheSide.refl (c : Core) : c.CacheSide c := rfl

theorem Core.CacheSide.trans (h : c.CacheSide d) (k : d.CacheSide e) : c.CacheSide e := by
  unfold Core.CacheSide at *
  generalize d.cnf = a1, d.reuse = a2, d.reusePend = a3, d.l1 = a4, d.wbOut = a5, d.readsOut = a6, d.farReads = a7 at h
  subst h
  exact k

theorem Core.CacheSide.cmds (h : c.CacheSide d) : d.cmds = c.cmds := by rw [h]
theorem Core.CacheSide.ranges (h : c.CacheSide d) : d.ranges = c.ranges := by rw [h]
theorem Core.CacheSide.inbox (h : c.CacheSide d) : d.inbox = c.inbox := by rw [h]

theorem Core.CacheSide.foldl {α : Type} (f : Core → α → Core) (hf : ∀ (c : Core) (a : α), c.CacheSide (f c a)) (l : List α) (c : Core) :
    c.CacheSide (l.foldl f c) := by
  induction l generalizing c with
  | nil => exact .refl c
  | cons a l ih => exact (hf c a).trans (ih _)

theorem Core.CacheSide.dropSectorReuse (c : Core) (sec : Nat) : c.CacheSide (c.dropSectorReuse sec) := by
  obtain ⟨_, _, _, h⟩ := c.dropReuse_tables fun e => e.isLoad && e.sectors.contains sec
  rw [Core.dropSectorReuse, h]
  rfl

theorem Core.CacheSide.dropL1 (c : Core) (sec : Nat) : c.CacheSide (c.dropL1 sec) := by
  unfold Core.dropL1
  dsimp only
  split
  · exact .dropSectorReuse c sec
  · exact (Core.CacheSide.dropSectorReuse c sec).trans rfl

theorem Core.CacheSide.dropLine (c : Core) (line : Nat) : c.CacheSide (c.dropLine line) := .foldl _ (fun c _ => .dropL1 c _) _ c

theorem Core.CacheSide.overtake (c : Core) (line : Nat) : c.CacheSide (c.overtake line) := rfl

end

/-- A state whose cores differ in their caches. -/
structure State.CacheSide (s t : State) : Prop where
  core : ∀ k, (s.core k).CacheSide (t.core k)

section
variable {s t u : State}

theorem State.CacheSide.refl (s : State) : s.CacheSide s := ⟨fun _ => .refl _⟩

theorem State.CacheSide.trans (h : s.CacheSide t) (k : t.CacheSide u) : s.CacheSide u := ⟨fun j => (h.core j).trans (k.core j)⟩

theorem State.CacheSide.ite {p : Prop} [Decidable p] (h : s.CacheSide t) (k : s.CacheSide u) : s.CacheSide (if p then t else u) := by
  split
  · exact h
  · exact k

theorem State.CacheSide.foldl {α : Type} (f : State → α → State) (hf : ∀ (s : State) (a : α), s.CacheSide (f s a)) (l : List α) (s : State) :
    s.CacheSide (l.foldl f s) := by
  induction l generalizing s with
  | nil => exact .refl s
  | cons a l ih => exact (hf s a).trans (ih _)

theorem State.CacheSide.of_cores (h : t.cores = s.cores) : s.CacheSide t := ⟨fun j => by rw [State.core_congr s t h]; exact .refl _⟩

theorem State.CacheSide.cmds (h : s.CacheSide t) : s.KeepsCmds t := ⟨fun j => (h.core j).cmds⟩

end

section
variable (s : State)

theorem State.CacheSide.modCore (k : Nat) (f : Core → Core) (hf : ∀ c : Core, c.CacheSide (f c)) : s.CacheSide (s.modCore k f) := by
  constructor
  intro j
  rw [State.core_modCore]
  split
  next h => rw [h]; exact hf _
  · exact .refl _

theorem State.CacheSide.modTeam (t : Nat) (f : Team → Team) : s.CacheSide (s.modTeam t f) := .of_cores (State.modTeam_cores _ _ _)

theorem State.CacheSide.modWave (t w : Nat) (f : Wave → Wave) : s.CacheSide (s.modWave t w f) := .of_cores (State.modWave_cores _ _ _ _)

theorem State.CacheSide.sendReq (core : Nat) (asker : Asker) (dom : Dom) (line key : Nat) (kind : ReqKind) (tm : Terms) (h : Bool) :
    s.CacheSide (s.sendReq core asker dom line key kind tm h).1 := by
  unfold State.sendReq
  split <;> exact .of_cores rfl

theorem State.CacheSide.sendRead (core : Nat) (asker : Asker) (dom : Dom) (line key : Nat) (secs : BitVec 4) (tm : Terms) (h : Bool) :
    s.CacheSide (s.sendRead core asker dom line key secs tm h) := by
  unfold State.sendRead
  dsimp only
  exact .trans (.sendReq s ..) (.modCore _ _ _ fun _ => rfl)

theorem State.CacheSide.toPackage (core pkg : Nat) (dom : Dom) (tm : Terms) (asker : Asker) (body : LinkBody) :
    s.CacheSide (s.toPackage core pkg dom tm asker body) := .of_cores rfl

theorem State.CacheSide.commitOf (ts : List Nat) : s.CacheSide (s.commitOf ts) := .foldl _ (fun s _ => .modTeam s _ _) _ _

theorem State.CacheSide.writeBackLine (core line : Nat) (doms : List Dom) (tm : Terms) : s.CacheSide (s.writeBackLine core line doms tm) := by
  refine .foldl _ (fun s i => ?_) _ s
  unfold State.writeBack
  split
  · exact .refl s
  · split
    · exact .refl s
    · refine .ite (.refl s) (.trans (.trans (.foldl _ (fun s d => ?_) _ s) (.commitOf _ _)) (.modCore _ _ _ fun _ => rfl))
      exact .ite (.refl s) (.trans (.sendReq s ..) (.modCore _ _ _ fun _ => rfl))

theorem State.CacheSide.failWriteBack (t : Nat) (tm : Team) (ln : Launch) (va : Nat) (a : Acc) : s.CacheSide (s.failWriteBack t tm ln va a) := by
  unfold State.failWriteBack
  split
  · exact .refl s
  · exact .ite (.refl s) (.of_cores rfl)
  · exact .of_cores rfl

theorem State.CacheSide.cleanStash (t osec : Nat) (drop : Bool) (terms : Terms) : s.CacheSide (s.cleanStash t osec drop terms) := by
  unfold State.cleanStash
  split
  · exact .refl s
  · split
    · have kept (u : State) (core sec : Nat) (f : Team → Team) :
          u.CacheSide ((if drop then u.modCore core fun c => c.dropSectorReuse sec else u).modTeam t f) :=
        .trans (.ite (.modCore _ _ _ fun c => .dropSectorReuse c _) (.refl u)) (.modTeam ..)
      refine .ite (kept _ _ _ _) (.ite (.refl s) ?_)
      split
      · refine .trans (.trans (.trans (.foldl _ (fun s d => ?_) _ s) (.commitOf _ _)) (kept _ _ _ _)) (.modCore _ _ _ fun _ => rfl)
        exact .ite (.refl s) (.trans (.sendReq s ..) (.modCore _ _ _ fun _ => rfl))
      · exact .failWriteBack ..
    · exact .refl s

theorem State.CacheSide.applyInval (core line : Nat) (tm : Terms) : s.CacheSide (s.applyInval core line tm) := by
  unfold State.applyInval
  dsimp only
  refine .trans (.trans (.writeBackLine s core line [.rc, .blk] tm) (.foldl _ (fun s h => .cleanStash s ..) _ _)) (.modCore _ _ _ fun c => ?_)
  exact (Core.CacheSide.dropLine c line).trans (.overtake _ line)

theorem State.CacheSide.dropFar (core : Nat) : s.CacheSide (s.dropFar core) := by
  refine .modCore _ _ _ fun c => ?_
  exact (Core.CacheSide.foldl _ (fun c _ => .dropLine c _) _ c).trans rfl

theorem State.CacheSide.notePending (t w line : Nat) : s.CacheSide (s.notePending t w line) := .ite (.modWave ..) (.refl s)

theorem State.CacheSide.writeMapped (t o pa key : Nat) (blk : Bool) (bs : List Byte) : s.CacheSide (s.writeMapped t o pa key blk bs) := by
  unfold State.writeMapped
  split
  · exact .refl s
  · exact .trans (.modCore _ _ _ fun c => .dropSectorReuse c _) (.modTeam ..)

theorem State.CacheSide.stashTouched (t o n : Nat) : s.CacheSide (s.stashTouched t o n) := by
  unfold State.stashTouched
  split
  · exact .refl s
  · dsimp only
    exact .ite (.refl s) (.modCore _ _ _ (.foldl _ (fun c _ => .dropSectorReuse c _) _))

end

/-! ## One command of a core -/

/-- A core holds a command of that number, of some kind. -/
def State.HasCmd (s : State) (core id : Nat) (p : Cmd → Prop) : Prop := ∃ c ∈ (s.core core).cmds, c.id = id ∧ p c

section
variable {s t : State} {core id : Nat} {p q : Cmd → Prop}

theorem State.HasCmd.keeps (h : s.HasCmd core id p) (k : s.KeepsCmds t) : t.HasCmd core id p := by
  obtain ⟨c, hc, rest⟩ := h
  exact ⟨c, by rw [k.cmds]; exact hc, rest⟩

theorem State.HasCmd.cached (h : s.HasCmd core id p) (k : s.CacheSide t) : t.HasCmd core id p := h.keeps k.cmds

theorem State.HasCmd.modCmd (h : s.HasCmd core id p) {f : Cmd → Cmd} (hid : ∀ c, (f c).id = c.id) (hf : ∀ c, p c → q (f c)) :
    (s.modCmd core id f).HasCmd core id q := by
  obtain ⟨c, hc, hcid, hp⟩ := h
  refine ⟨f c, ?_, (hid c).trans hcid, hf c hp⟩
  rw [State.modCmd, State.core_modCore_same]
  exact List.mem_map.mpr ⟨c, hc, if_pos hcid⟩

theorem State.HasCmd.imp (h : s.HasCmd core id p) (hf : ∀ c, p c → q c) : s.HasCmd core id q := by
  obtain ⟨c, hc, hcid, hp⟩ := h
  exact ⟨c, hc, hcid, hf c hp⟩

end

section
variable (s : State) (core id : Nat) (f : Cmd → Cmd)

@[simp] theorem State.modCmd_inbox (j : Nat) : ((s.modCmd core id f).core j).inbox = (s.core j).inbox := by
  rw [State.modCmd, State.core_modCore]
  split
  next e => rw [e]
  · rfl

@[simp] theorem State.modCmd_teams : (s.modCmd core id f).teams = s.teams := rfl

end

/-! ## The elements of a command (R330) -/

section
variable {s : State} {core : Nat} {c : Cmd}

/-- A piece of a source that is asked for is one that has come or one more to come. -/
theorem State.HasCmd.engineAsk {n : Nat} (h : s.HasCmd core c.id fun x => x.begun = true ∧ x.pos = c.pos ∧ x.reads.length + x.got.length = n)
    (va : W64) (p : Nat × Nat × Place) :
    (s.engineAsk core c va p).HasCmd core c.id fun x => x.begun = true ∧ x.pos = c.pos ∧ x.reads.length + x.got.length = n + 1 := by
  have come {t : State} (k : s.CacheSide t) (bs : Cmd → List Byte) :
      (t.modCmd core c.id fun x => { x with got := x.got ++ [(p.1, bs x)] }).HasCmd core c.id fun x =>
        x.begun = true ∧ x.pos = c.pos ∧ x.reads.length + x.got.length = n + 1 :=
    (h.cached k).modCmd (fun _ => rfl) fun x ⟨hb, hp, hl⟩ => ⟨hb, hp, by rw [List.length_append, ← hl]; rfl⟩
  have asked {t : State} (k : s.CacheSide t) (r : CmdPart) :
      (t.modCmd core c.id fun x => { x with reads := x.reads ++ [r] }).HasCmd core c.id fun x =>
        x.begun = true ∧ x.pos = c.pos ∧ x.reads.length + x.got.length = n + 1 :=
    (h.cached k).modCmd (fun _ => rfl) fun x ⟨hb, hp, hl⟩ => ⟨hb, hp, by
      show (x.reads ++ [r]).length + x.got.length = n + 1
      rw [List.length_append, ← hl, List.length_singleton]
      omega⟩
  unfold State.engineAsk
  extract_lets tm here wait
  split
  · exact come (.refl s) fun x => _
  · exact asked (.trans (t := { s with nextUid := s.nextUid + 1 }) (.of_cores rfl) (.toPackage ..)) _
  next notStash notRemote =>
    split
    next has =>
      split
      next o pa _ _ =>
        exact (come (.refl s) fun x => (s.teams.get? x.team).elim [] fun t => t.stashRead o p.2.1).cached (.notePending _ _ _ (pa / 256))
      next notMapped =>
        unfold State.engineHas at has
        split at has
        next o pa key e => exact absurd e (notMapped o pa key)
        · cases has
    · split
      next none =>
        cases hp : p.2.2 with
        | stash o => exact absurd hp (notStash o)
        | remote pkg part ix gen off pas => exact absurd hp (notRemote pkg part ix gen off pas)
        | mapped o pa key => rw [hp] at none; cases none
        | phys pa key => rw [hp] at none; cases none
        | priv pa key => rw [hp] at none; cases none
        | peer pa key => rw [hp] at none; cases none
      · extract_lets fill s2 id
        have touched : s.CacheSide s2 := by
          unfold s2
          split
          · exact .ite (.modTeam ..) (.refl s)
          · exact .refl s
        exact asked (touched.trans (.sendRead ..)) _

theorem State.HasCmd.engineAsks {n : Nat} (ps : List (Nat × Nat × Place)) (va : W64)
    (h : s.HasCmd core c.id fun x => x.begun = true ∧ x.pos = c.pos ∧ x.reads.length + x.got.length = n) :
    (ps.foldl (fun s p => s.engineAsk core c va p) s).HasCmd core c.id fun x =>
      x.begun = true ∧ x.pos = c.pos ∧ x.reads.length + x.got.length = n + ps.length := by
  induction ps generalizing s n with
  | nil => exact h
  | cons p ps ih =>
    rw [List.foldl_cons, List.length_cons, Nat.add_comm ps.length, ← Nat.add_assoc]
    exact ih (h.engineAsk va p)

/-- Where an element goes leaves its command at that element. -/
theorem State.HasCmd.enginePut (h : s.HasCmd core c.id fun x => x.pos = c.pos ∧ x.digest = c.digest ∧ x.kind = c.kind) (bs : List Byte)
    (va : W64) (p : Nat × Nat × Place) :
    (s.enginePut core c bs va p).HasCmd core c.id fun x => x.pos = c.pos ∧ x.digest = c.digest ∧ x.kind = c.kind := by
  have sent {t : State} (k : s.CacheSide t) (r : CmdPart) (f : Team → Team) :
      ((t.modCmd core c.id fun x => { x with writes := x.writes ++ [r] }).modTeam c.team f).HasCmd core c.id fun x =>
        x.pos = c.pos ∧ x.digest = c.digest ∧ x.kind = c.kind :=
    ((h.cached k).modCmd (f := fun x => { x with writes := x.writes ++ [r] }) (fun _ => rfl) fun _ hx => hx).cached (.modTeam ..)
  unfold State.enginePut
  extract_lets tm x sent' lanes
  split
  · split
    · exact h.cached (.writeMapped ..)
    · exact h.cached (.modTeam ..)
    · exact h
  · split
    · have asked : s.CacheSide { s.dropFar core with nextUid := s.nextUid + 1 } := .trans (.dropFar s core) (.of_cores rfl)
      exact sent (asked.trans (.toPackage ..)) _ _
    · split
      · exact h
      · extract_lets img kind s1 s2 r
        have written : s.CacheSide s2 := by
          refine .trans (t := s1) (.applyInval ..) ?_
          unfold s2
          split
          · exact .modTeam ..
          · exact .refl _
        exact sent (written.trans (.sendReq ..)) _ _

theorem State.HasCmd.enginePuts (ps : List (Nat × Nat × Place)) (bs : List Byte) (va : W64)
    (h : s.HasCmd core c.id fun x => x.pos = c.pos ∧ x.digest = c.digest ∧ x.kind = c.kind) :
    (ps.foldl (fun s p => s.enginePut core c bs va p) s).HasCmd core c.id fun x => x.pos = c.pos ∧ x.digest = c.digest ∧ x.kind = c.kind := by
  induction ps generalizing s with
  | nil => exact h
  | cons p ps ih => exact ih (h.enginePut bs va p)

theorem Cmd.contributions_congr {x : Cmd} (h : x.kind = c.kind) (dst : W64) (bs : List Byte) :
    x.contributions dst bs = c.contributions dst bs := by
  unfold Cmd.contributions
  rw [h]

end

end Sys2Proof.Machine
end

section
/-! SUPPORT. The events of a copy engine, one equation for each of their branches (R330, R331). -/

namespace Sys2Proof.Machine

section
variable {s : State} {core : Nat} {c : Cmd}

theorem State.HasCmd.found (h : (s.core core).cmds.find? (fun x => x.id == c.id) = some c) : s.HasCmd core c.id (· = c) :=
  ⟨c, List.mem_of_find?_eq_some h, rfl, rfl⟩

/-! ## ENGINE_ACCESS -/

section
variable (found : (s.core core).cmds.find? (fun x => x.id == c.id) = some c)
include found

/-- An answer is taken in before anything else of its command. -/
theorem execEngineAccess_takes {m : Msg} {rest : List Msg} {n : Nat}
    (arrived : takeFirst (fun m : Msg => (m.cmdPart core c.id).isSome && s.canTake c.team c.wave m) (s.core core).inbox = some (m, rest))
    (part : m.cmdPart core c.id = some n) :
    execEngineAccess core c.id s = .next ((s.modCore core fun k => { k with inbox := rest }).engineAnswer core c n m) := by
  unfold execEngineAccess
  dsimp only
  rw [found]
  dsimp only
  rw [arrived]
  dsimp only
  rw [part]
  rfl

variable (up : (s.core core).stopped = false) (whole : c.failed = false)
  (arrived : takeFirst (fun m : Msg => (m.cmdPart core c.id).isSome && s.canTake c.team c.wave m) (s.core core).inbox = none)
  (unparked : c.parked = []) (read : c.reads = []) (ready : (s.core core).cmdReady c = true) (left : c.pos < c.count)
include up whole arrived unparked read ready left

/-- With its source there, an element is delivered. -/
theorem execEngineAccess_delivers (begun : c.begun = true) : execEngineAccess core c.id s = .next (s.engineDeliver core c c.bytes) := by
  unfold execEngineAccess
  dsimp only
  rw [found]
  dsimp only
  rw [arrived]
  simp [up, whole, unparked, read, ready, Nat.not_le.mpr left, begun]

/-- With nothing before it, the next element begins. -/
theorem execEngineAccess_begins (begun : c.begun = false) {w : Wave} (hw : s.wave? c.team c.wave = some w)
    (first : cmdAfter (s.cmdsOf c.team) w c = false) : execEngineAccess core c.id s = .next (s.engineBegin core c) := by
  unfold execEngineAccess
  dsimp only
  rw [found]
  dsimp only
  rw [arrived]
  simp [up, whole, unparked, read, ready, Nat.not_le.mpr left, begun, hw, first]

end

/-- A command whose kind is not a TCOPY without a descriptor begins its element. -/
theorem State.engineBegin_fill (known : ∀ co, c.kind ≠ .tcopy none co) {bs : List Byte} {dst : W64} {lane : Nat}
    (e : c.element = (.inr bs, dst, lane)) :
    s.engineBegin core c = s.modCmd core c.id fun c => { c with begun := true, got := [(0, bs)] } := by
  unfold State.engineBegin
  split
  next co k => exact absurd k (known co)
  · rw [e]

theorem State.engineBegin_asks (known : ∀ co, c.kind ≠ .tcopy none co) {a dst : W64} {lane : Nat} {ps : List (Nat × Nat × Place)}
    (e : c.element = (.inl a, dst, lane))
    (ok : s.undefinePages.engineAccess core c lane a c.size ⟨true, false, false⟩ c.sdom = .ok ps)
    (room : ∀ l ∈ linesOf (ps.map (·.2.2)), s.undefinePages.pendingRoom c.team c.wave l = true)
    (clean : s.undefinePages.engineClean core c ((ps.filter fun p => !s.undefinePages.engineHas c p).map (·.2.2)) = none) :
    s.engineBegin core c = ps.foldl (fun s p => s.engineAsk core c a p)
      (s.undefinePages.modCmd core c.id fun c => { c with begun := true, got := [] }) := by
  have late : ((linesOf (ps.map (·.2.2))).any fun l => !s.undefinePages.pendingRoom c.team c.wave l) = false := by
    rw [List.any_eq_false]
    intro l hl
    rw [room l hl]
    decide
  unfold State.engineBegin
  split
  next co k => exact absurd k (known co)
  · rw [e]
    dsimp only
    rw [ok]
    dsimp only
    rw [late, clean]
    rfl

/-- An element of a descriptor or a stream lands. -/
theorem State.engineDeliver_lands (k : (∃ sl, c.kind = .tdesc sl) ∨ c.ring ≠ none) (bs : List Byte) :
    s.engineDeliver core c bs = (s.modCmd core c.id fun c => { c with begun := false, got := [] }).modCmd core c.id fun c =>
      { c with pos := c.pos + 1, stream := c.stream ++ bs } := by
  unfold State.engineDeliver
  dsimp only
  split
  · rfl
  · rfl
  next unstreamed none =>
    obtain ⟨sl, e⟩ | e := k
    · exact absurd e (none sl)
    · exact absurd unstreamed e

/-- An element goes to its destination. -/
theorem State.engineDeliver_puts (k : ∀ sl, c.kind ≠ .tdesc sl) (r : c.ring = none) {bs : List Byte} {qs : List (Nat × Nat × Place)}
    (ok : s.undefinePages.engineAccess core c c.element.2.2 c.element.2.1 bs.length ⟨false, true, false⟩ c.ddom = .ok qs)
    (clear : (qs.any fun q => c.clash q) = false) (ordered : c.ddom = .rc ∨ c.ddom = .blk ∨ c.writes = [])
    (seen : c.ddom = .cau → ∀ w, s.undefinePages.wave? c.team c.wave = some w → w.pendingLines = [])
    (clean : s.undefinePages.engineClean core c ((qs.map (·.2.2)).filter fun p => !c.local_ p) = none) :
    s.engineDeliver core c bs =
      (((qs.foldl (fun s p => s.enginePut core c bs c.element.2.1 p) s.undefinePages).modCmd core c.id fun c =>
        { c with begun := false, got := [] }).modCmd core c.id fun x => x.next c.element.2.1 bs) := by
  have late : ((c.ddom == .sc || c.ddom == .tso || c.ddom == .cau) && !c.writes.isEmpty) = false := by
    obtain e | e | e := ordered <;> simp [e]
  have unseen : (c.ddom == .cau && (s.undefinePages.wave? c.team c.wave).any fun w => !w.pendingLines.isEmpty) = false := by
    by_cases e : c.ddom = .cau
    · cases hw : s.undefinePages.wave? c.team c.wave with
      | none => simp
      | some w => simp [seen e w hw]
    · simp [e]
  unfold State.engineDeliver
  dsimp only
  split
  next sl e => exact absurd e (k sl)
  next ring _ => rw [r] at ring; cases ring
  · rw [ok]
    dsimp only
    rw [clear, late, unseen, clean]
    rfl

theorem State.HasCmd.engineDeliver_puts (h : s.HasCmd core c.id (· = c)) (qs : List (Nat × Nat × Place)) (bs : List Byte) (dst : W64) :
    (((qs.foldl (fun s p => s.enginePut core c bs dst p) s).modCmd core c.id fun c =>
        { c with begun := false, got := [] }).modCmd core c.id fun x => x.next dst bs).HasCmd core c.id fun x =>
      x.begun = false ∧ x.pos = c.pos + 1 ∧ x.digest = c.digest ++ c.contributions dst bs := by
  have put := State.HasCmd.enginePuts qs bs dst (h.imp fun x (e : x = c) => by subst e; exact ⟨rfl, rfl, rfl⟩)
  refine (put.modCmd (f := fun c => { c with begun := false, got := [] })
    (q := fun x => x.begun = false ∧ x.pos = c.pos ∧ x.digest = c.digest ∧ x.kind = c.kind) (fun _ => rfl) fun x hx => ⟨rfl, hx⟩).modCmd
      (f := fun x => x.next dst bs) (fun _ => rfl) fun x ⟨hb, hp, hd, hk⟩ => ⟨hb, ?_, ?_⟩
  · rw [← hp]; rfl
  · rw [← hd, ← Cmd.contributions_congr hk]; rfl

/-- The bytes of a read, taken in. -/
theorem State.HasCmd.engineAnswer_read (h : s.HasCmd core c.id (· = c)) (n : Nat) (r : Req) (secs : AMap Sector) :
    (s.engineAnswer core c n (.readReply r secs false)).HasCmd core c.id (fun x => x.reads = c.reads.filter (·.id != n) ∧
      x.got = c.got ++ (c.reads.filter (·.id == n)).map fun p => (p.at_, p.cut secs)) ∧
    ((s.engineAnswer core c n (.readReply r secs false)).core core).inbox = (s.core core).inbox := by
  unfold State.engineAnswer
  extract_lets read ended refused
  split
  next r' secs' pending e =>
    cases e
    extract_lets bad s1 s2
    have one : (read fun p => p.cut secs).HasCmd core c.id fun x => x.reads = c.reads.filter (·.id != n) ∧
        x.got = c.got ++ (c.reads.filter (·.id == n)).map fun p => (p.at_, p.cut secs) :=
      h.modCmd (fun _ => rfl) fun x e => by subst e; exact ⟨rfl, rfl⟩
    have kept : (read fun p => p.cut secs).CacheSide s2 :=
      .trans (t := s1) (.modCore _ _ _ fun _ => rfl) (.ite (.modTeam ..) (.refl _))
    exact ⟨one.cached kept, (kept.core core).inbox.trans (s.modCmd_inbox core c.id _ core)⟩
  next e => cases e
  next e => cases e
  next other _ _ => exact absurd rfl (other r secs false)

/-- The end of a write. -/
theorem State.engineAnswer_ack (n : Nat) (r : Req) :
    s.engineAnswer core c n (.ack r) = s.modCmd core c.id fun c => { c with writes := c.writes.filter (·.id != n) } := rfl

end

end Sys2Proof.Machine
end

section
/-! SUPPORT. How a copy command ends (R324, R326, R330): it leaves its port, after the arrival that it owes. -/

namespace Sys2Proof.Machine

section
variable (s : State)

theorem State.MemorySide.writeChanged (tm : Terms) (pa : Nat) (old new : List Byte) : s.MemorySide (s.writeChanged tm pa old new) := by
  induction old generalizing s pa new with
  | nil => exact .refl s
  | cons x old ih =>
    cases new with
    | nil => exact .refl s
    | cons y new => exact .trans (.ite (.refl s) (.writePaFor ..)) (ih _ _ _)

theorem State.MemorySide.resave (before : State) (t : Nat) : s.MemorySide (s.resave before t) := by
  unfold State.resave
  split
  · split
    · exact .writeChanged ..
    · exact .refl s
  · exact .refl s

theorem State.CacheSide.channelWake : s.CacheSide s.channelWake := .of_cores (by rw [s.channelWake_onlyWakes.rest])

theorem State.CacheSide.contribute (t : Nat) (ms : List (List Byte)) : s.CacheSide (s.contribute t ms) := by
  unfold State.contribute
  split
  · exact .refl s
  · split
    · exact .refl s
    · exact .ite (.refl s) (.modTeam ..)

/-! ## An arrival at a stash object -/

theorem State.CacheSide.stashPut (t off : Nat) (bs : List Byte) : s.CacheSide (s.stashPut t off bs) := .trans (.modTeam ..) (.stashTouched ..)

theorem State.CacheSide.inheritAnew (t : Nat) : s.CacheSide (s.inheritAnew t) := by
  unfold State.inheritAnew
  split
  · exact .refl s
  · exact .foldl _ (fun s w => .modWave s ..) _ s

theorem State.CacheSide.relendAll (t off : Nat) : s.CacheSide (s.relendAll t off) := by
  unfold State.relendAll
  cases s.teams.get? t with
  | none => exact .refl s
  | some tm =>
    refine .foldl _ (fun s w => ?_) _ s
    exact .ite (.trans (.stashPut ..) (.modWave ..)) (.refl s)

theorem State.CacheSide.wakeLocal (t off : Nat) : s.CacheSide (s.wakeLocal t off) := by
  rw [State.wakeLocal_eq]
  cases s.teams.get? t with
  | none => exact .refl s
  | some tm => exact .trans (.trans (.foldl _ (fun s w => .modWave s ..) _ s) (.inheritAnew ..)) (.relendAll ..)

theorem State.CacheSide.stashBarrier (t off : Nat) (op : BarOp) : s.CacheSide (s.stashBarrier t off op).1 := by
  unfold State.stashBarrier
  split
  · exact .refl s
  · exact .trans (.trans (.stashPut ..) (.ite (.wakeLocal ..) (.refl _))) (.inheritAnew ..)

end

/-! ## The command leaves its port -/

section
variable {s : State} {core : Nat} {c : Cmd}

/-- A core holds nothing of a command: neither the command nor a range of its destination. -/
def State.LacksCmd (s : State) (core id : Nat) : Prop := (∀ x ∈ (s.core core).cmds, x.id ≠ id) ∧ ∀ x ∈ (s.core core).ranges, x.cmd ≠ id

theorem State.LacksCmd.of_core {t : State} {id : Nat} (h : s.LacksCmd core id) (cmds : (t.core core).cmds = (s.core core).cmds)
    (ranges : (t.core core).ranges = (s.core core).ranges) : t.LacksCmd core id := by
  unfold State.LacksCmd
  rw [cmds, ranges]
  exact h

theorem State.LacksCmd.of_cores {t : State} {id : Nat} (h : s.LacksCmd core id) (k : t.cores = s.cores) : t.LacksCmd core id := by
  have same := State.core_congr s t k core
  exact h.of_core (by rw [same]) (by rw [same])

theorem State.retireCmd_lacks (s : State) (core : Nat) (c : Cmd) : (s.retireCmd core c).LacksCmd core c.id := by
  unfold State.retireCmd
  extract_lets s1
  have gone : s1.LacksCmd core c.id := by
    unfold State.LacksCmd s1
    rw [State.core_modCore_same]
    exact ⟨fun x hx => by simpa using (List.mem_filter.mp hx).2, fun x hx => by simpa using (List.mem_filter.mp hx).2⟩
  have kept := (State.CacheSide.contribute s1 c.team c.digest).core core
  refine (gone.of_core kept.cmds kept.ranges).of_cores ?_
  rw [(State.MemorySide.resave _ s c.team).rest]
  exact State.modWave_cores _ _ _ _

/-- The wave of a command stays when the command retires. -/
theorem State.retireCmd_wave (s : State) (core : Nat) (c : Cmd) {w : Wave} (hw : s.wave? c.team c.wave = some w) :
    ∃ w', (s.retireCmd core c).wave? c.team c.wave = some w' := by
  unfold State.retireCmd
  extract_lets s1
  have kept := State.KeepsTeams.trans (t := s1) (.modCore s _ _) (.contribute s1 c.team c.digest)
  rw [(State.KeepsTeams.of_teams (State.MemorySide.resave _ s c.team).teams).wave?, State.wave?_modWave_same, kept.wave?, hw]
  exact ⟨_, rfl⟩

/-! ## TDESC_COMPLETE and COPY_COMPLETE -/

/-- A wave with a descriptor in one of its slots (R326). -/
def Wave.loadDesc (slot : Bool) (d : BitVec 4608) (w : Wave) : Wave :=
  if slot then { w with desc1 := some d } else { w with desc0 := some d }

theorem Wave.loadDesc_slot (slot : Bool) (d : BitVec 4608) (w : Wave) :
    (if slot then (w.loadDesc slot d).desc1 else (w.loadDesc slot d).desc0) = some d := by
  cases slot <;> rfl

section
variable (found : (s.core core).cmds.find? (fun x => x.id == c.id) = some c) (up : (s.core core).stopped = false)
include found up

theorem execTdescComplete_valid {slot : Bool} (whole : c.failed = false) (kind : c.kind = .tdesc slot) (read : c.count ≤ c.pos)
    (valid : descValid (BitVec.ofNat 4608 (leNat c.stream)) = true) :
    execTdescComplete core c.id s =
      .next ((s.retireCmd core c).modWave c.team c.wave (Wave.loadDesc slot (BitVec.ofNat 4608 (leNat c.stream)))) := by
  unfold execTdescComplete
  dsimp only
  rw [found]
  dsimp only
  split
  next sl e =>
    obtain rfl : slot = sl := by rw [kind] at e; cases e; rfl
    rw [valid, whole, up]
    simp [Nat.not_lt.mpr read]
    rfl
  next other => exact absurd kind (other slot)

variable (copies : ∀ sl, c.kind ≠ .tdesc sl) (written : c.written = true) (unparked : c.parked = [])
  (back : 2 ≤ c.scope.ctorIdx → (∀ tm, s.teams.get? c.team = some tm → tm.dirtyStash = []) ∧
    ∀ x ∈ (s.core core).wbOut, x.mapped = true → x.dom ≠ c.ddom)
include copies written unparked back

/-- With nothing of its mapped ranges to go back, a written command looks at its arrival only. -/
theorem execCopyComplete_written : execCopyComplete core c.id s =
    (if c.bar = none ∨ c.arrived = true then .next (s.retireCmd core c) else
      .next (((s.cmdIss c).bind fun i => s.release i c.id allDoms c.scope).getD (s.engineArrive core c (c.bar.getD 0)))) := by
  have clean : (if 2 ≤ c.scope.ctorIdx then s.cleanTeamStash c.team (s.termsOf c.team c.wave) else s) = s := by
    split
    next wide =>
      unfold State.cleanTeamStash
      split
      next tm ht => rw [(back wide).1 tm ht]; rfl
      · rfl
    · rfl
  have settled : (decide (2 ≤ c.scope.ctorIdx) && ((s.teams.get? c.team).any (fun t => !t.dirtyStash.isEmpty) ||
      (s.core core).wbOut.any fun w => w.mapped && w.dom == c.ddom)) = false := by
    by_cases wide : 2 ≤ c.scope.ctorIdx
    · obtain ⟨dirty, out⟩ := back wide
      rw [Bool.and_eq_false_iff, Bool.or_eq_false_iff]
      refine .inr ⟨?_, ?_⟩
      · cases ht : s.teams.get? c.team with
        | none => rfl
        | some tm => simp [dirty tm ht]
      · rw [List.any_eq_false]
        intro x hx both
        rw [Bool.and_eq_true, beq_iff_eq] at both
        exact out x hx both.1 both.2
    · simp [wide]
  unfold execCopyComplete
  dsimp only
  rw [found]
  dsimp only
  split
  next sl e => exact absurd e (copies sl)
  · rw [clean, settled, written, up, unparked]
    dsimp only [Bool.not_true, Bool.false_or, List.isEmpty_nil]
    cases c.bar with
    | none => rfl
    | some b =>
      cases c.arrived
      · cases (s.cmdIss c).bind fun i => s.release i c.id allDoms c.scope <;> rfl
      · rfl

end

/-- An arrival at a stash object is performed at once. -/
theorem State.engineArrive_stash {b : W64} {a n o : Nat}
    (ok : s.engineAccess core c c.lane b 64 ⟨true, true, false⟩ .sc = .ok [(a, n, .stash o)]) :
    s.engineArrive core c b = (s.stashBarrier c.team o (.arrive 0 c.total 0 none)).1.modCmd core c.id fun c => { c with arrived := true } := by
  unfold State.engineArrive
  rw [ok]
  rfl

/-- An arrival at an object in memory goes to its home slice in one request. -/
theorem State.HasCmd.engineArrive (h : s.HasCmd core c.id (· = c)) {b : W64} {a n pa key : Nat}
    (ok : s.engineAccess core c c.lane b 64 ⟨true, true, false⟩ .sc = .ok [(a, n, .phys pa key)])
    (clean : s.engineClean core c [.phys pa key] = none) :
    (s.engineArrive core c b).HasCmd core c.id fun x => x.arrived = true ∧ ∃ id, x.writes = [arrivalPart id b] := by
  unfold State.engineArrive
  rw [ok]
  dsimp only [Acc.oneLine]
  rw [clean]
  dsimp only [Place.pa?]
  refine State.HasCmd.modCmd (h.cached ?_) (fun _ => rfl) fun x _ => ⟨rfl, _, rfl⟩
  exact .trans (.trans (.applyInval ..) (.sendReq ..)) (.modTeam ..)

/-! ## Streams into stage rings (R337) -/

theorem execRingReserve_reserves (found : (s.core core).cmds.find? (fun x => x.id == c.id) = some c) (up : (s.core core).stopped = false)
    (whole : c.failed = false) {o : Nat} {tm : Team} (ring : c.ring = some o) (ht : s.teams.get? c.team = some tm)
    (ready : (s.core core).cmdReady c = true) (more : c.reserved.length < (c.total + 127) / 128) (free : 0 < ringFree tm o) :
    execRingReserve core c.id s = .next ((s.modTeam c.team fun t => ringReserve t o).modCmd core c.id fun c =>
      { c with reserved := c.reserved ++ [ringTail tm o] }) := by
  unfold execRingReserve
  rw [found]
  dsimp only
  rw [ring, ht]
  dsimp only
  rw [ready, whole, up, decide_eq_true more, decide_eq_true free]
  rfl

/-- The entry that a stream fills next. -/
def Cmd.entry (c : Cmd) : Vec :=
  Vec.of fun l => ⟨BitVec.ofNat 32 (leAt ((c.stream.drop (128 * c.filled)).take 128) (4 * l) 4), c.etag⟩

/-- The state in which the entry of reservation n is filled and its waiters are woken. -/
def State.fillEntry (s : State) (core : Nat) (c : Cmd) (o n : Nat) : State :=
  (((s.modTeam c.team fun t => ringFill t o n c.entry).stashTouched c.team o
    (64 + 144 * (s.teams.get? c.team).elim 0 fun t => ringNent t o)).modCmd core c.id fun c => { c with filled := c.filled + 1 }).channelWake

theorem execRingFill_fills (found : (s.core core).cmds.find? (fun x => x.id == c.id) = some c) (up : (s.core core).stopped = false)
    {o n : Nat} (ring : c.ring = some o) (next : c.reserved[c.filled]? = some n)
    (landed : Nat.min c.total (128 * (c.filled + 1)) ≤ c.stream.length) :
    execRingFill core c.id s = .next (s.fillEntry core c o n) := by
  unfold execRingFill
  dsimp only
  rw [found]
  dsimp only
  rw [ring, next]
  dsimp only
  rw [if_pos ⟨landed, by rw [up]; rfl⟩]
  rfl

theorem ringEntry_congr {t u : Team} (h : t.stash = u.stash) (o k : Nat) : ringEntry t o k = ringEntry u o k := by
  unfold ringEntry ringNent
  simp only [Team.stashNat_congr h]

theorem ringFull_congr {t u : Team} (h : t.stash = u.stash) (o n : Nat) : ringFull t o n = ringFull u o n := by
  unfold ringFull ringNent ringPhase
  simp only [Team.stashNat_congr h]

/-- The entry filled is full, and holds the next bytes of the stream. -/
theorem State.fillEntry_entry (s : State) (core : Nat) (c : Cmd) {o n : Nat} {tm : Team} (ht : s.teams.get? c.team = some tm)
    (h1 : 1 ≤ ringNent tm o) (h64 : ringNent tm o ≤ 64) (empty : ringFull tm o n = false) :
    ∃ tm', (s.fillEntry core c o n).teams.get? c.team = some tm' ∧ ringFull tm' o n = true ∧
      ringEntry tm' o (n % ringNent tm o) = c.entry := by
  have written : (s.modTeam c.team fun t => ringFill t o n c.entry).teams.get? c.team = some (ringFill tm o n c.entry) := by
    rw [State.modTeam_get?_same, ht]
    rfl
  unfold State.fillEntry
  have kept := State.KeepsStash.trans (State.KeepsTeams.stashTouched (s.modTeam c.team fun t => ringFill t o n c.entry) c.team o
    (64 + 144 * (s.teams.get? c.team).elim 0 fun t => ringNent t o)).stash
      (.trans (.of_teams (State.modCmd_teams _ core c.id fun c => { c with filled := c.filled + 1 })) (.channelWake _))
  obtain ⟨tm', ht', same⟩ := kept.team written
  refine ⟨tm', ht', ?_, ?_⟩
  · rw [ringFull_congr same]
    exact ringFull_ringFill h1 h64 empty
  · rw [ringEntry_congr same]
    exact ringEntry_ringFill h1 _

theorem State.HasCmd.fillEntry (h : s.HasCmd core c.id (· = c)) (o n : Nat) :
    (s.fillEntry core c o n).HasCmd core c.id fun x => x.filled = c.filled + 1 := by
  unfold State.fillEntry
  generalize 64 + 144 * (s.teams.get? c.team).elim 0 (fun t => ringNent t o) = len
  have rung : s.CacheSide ((s.modTeam c.team fun t => ringFill t o n c.entry).stashTouched c.team o len) := .trans (.modTeam ..) (.stashTouched ..)
  exact ((h.cached rung).modCmd (f := fun x => { x with filled := x.filled + 1 }) (q := fun x => x.filled = c.filled + 1) (fun _ => rfl)
    fun x e => by rw [e]).cached (.channelWake _)

end

section
variable {s : State} {core : Nat} {c : Cmd} (found : (s.core core).cmds.find? (fun x => x.id == c.id) = some c)
include found

/-- An element that begins with its source at hand or asks for it. -/
theorem State.engineBegin_begun (known : ∀ co, c.kind ≠ .tcopy none co) (read : c.reads = []) :
    (∀ bs dst lane, c.element = (.inr bs, dst, lane) →
      (s.engineBegin core c).HasCmd core c.id fun c' => c'.begun = true ∧ c'.got = [(0, bs)]) ∧
    (∀ a dst lane ps, c.element = (.inl a, dst, lane) →
      s.undefinePages.engineAccess core c lane a c.size ⟨true, false, false⟩ c.sdom = .ok ps →
      (∀ l ∈ linesOf (ps.map (·.2.2)), s.undefinePages.pendingRoom c.team c.wave l = true) →
      s.undefinePages.engineClean core c ((ps.filter fun p => !s.undefinePages.engineHas c p).map (·.2.2)) = none →
      (s.engineBegin core c).HasCmd core c.id fun c' => c'.begun = true ∧ c'.pos = c.pos ∧ c'.reads.length + c'.got.length = ps.length) := by
  refine ⟨fun bs dst lane e => ?_, fun a dst lane ps e ok room clean => ?_⟩
  · rw [State.engineBegin_fill known e]
    exact (State.HasCmd.found found).modCmd (fun _ => rfl) fun _ _ => ⟨rfl, rfl⟩
  · rw [State.engineBegin_asks known e ok room clean]
    have start := ((State.HasCmd.found found).cached (.of_cores (State.PrivateSide.undefinePages s).cores)).modCmd
      (f := fun c => { c with begun := true, got := [] })
      (q := fun x => x.begun = true ∧ x.pos = c.pos ∧ x.reads.length + x.got.length = 0) (fun _ => rfl)
      fun x e => by subst e; exact ⟨rfl, rfl, by simp [read]⟩
    exact (State.HasCmd.engineAsks ps a start).imp fun x ⟨hb, hp, hl⟩ => ⟨hb, hp, by rw [hl, Nat.zero_add]⟩

end

end Sys2Proof.Machine
end

section
/-! PROOFS. Copy engines. -/

namespace Sys2Proof.Machine

/-- Settles O50: an element, an answer, an arrival or an entry of a ring changes one field or two of its command, and what it asks or
writes elsewhere keeps the commands. -/
theorem engineEvents : Obligations.EngineEvents := by
  intro s core c found up whole leaves becomes arrived quiet s1
  have held := State.HasCmd.found found
  have one {ev : Instr} {u : State} {p : State → Cmd → Prop} (run : exec ev s = .next u) (h : u.HasCmd core c.id (p u)) : becomes ev p := by
    obtain ⟨c', hc, hid, hp⟩ := h
    exact ⟨u, c', run, hc, hid, hp⟩
  refine ⟨?_, ?_, ?_, ?_, ?_, ?_, ?_, ?_⟩
  · rintro w ⟨none, unparked, read, ready, left⟩ begun known hw first
    have run : exec (.engineAccess core c.id) s = .next (s.engineBegin core c) :=
      execEngineAccess_begins found up whole none unparked read ready left begun hw first
    obtain ⟨fill, asks⟩ := State.engineBegin_begun found known read
    exact ⟨fun bs dst lane e => one run (fill bs dst lane e), fun a dst lane ps e ok room clean => one run (asks a dst lane ps e ok room clean)⟩
  · intro r secs rest n taken part
    have run : exec (.engineAccess core c.id) s = _ := execEngineAccess_takes found taken part
    have there : (s.modCore core fun k => { k with inbox := rest }).HasCmd core c.id (· = c) :=
      held.keeps (.modCore s core (f := fun k => { k with inbox := rest }) fun _ => rfl)
    obtain ⟨cmd, inbox⟩ := there.engineAnswer_read n r secs
    rw [State.core_modCore_same] at inbox
    exact one run (cmd.imp fun x hx => ⟨inbox, hx⟩)
  · intro r rest n taken part
    have run : exec (.engineAccess core c.id) s = _ := execEngineAccess_takes found taken part
    have there : (s.modCore core fun k => { k with inbox := rest }).HasCmd core c.id (· = c) :=
      held.keeps (.modCore s core (f := fun k => { k with inbox := rest }) fun _ => rfl)
    rw [State.engineAnswer_ack] at run
    refine one run (there.modCmd (fun _ => rfl) fun x e => ⟨?_, by rw [e]⟩)
    rw [State.modCmd_inbox, State.core_modCore_same]
  · rintro ⟨none, unparked, read, ready, left⟩ begun
    have run : exec (.engineAccess core c.id) s = .next (s.engineDeliver core c c.bytes) :=
      execEngineAccess_delivers found up whole none unparked read ready left begun
    refine ⟨fun lands => ?_, fun qs copies ring ok clear ordered seen clean => ?_⟩
    · rw [State.engineDeliver_lands lands] at run
      exact one run ((held.modCmd (f := fun c => { c with begun := false, got := [] })
        (q := fun x => x.begun = false ∧ x.pos = c.pos ∧ x.stream = c.stream) (fun _ => rfl) fun x e => by subst e; exact ⟨rfl, rfl, rfl⟩).modCmd
          (fun _ => rfl) fun x ⟨hb, hp, hs⟩ => ⟨hb, congrArg (· + 1) hp, congrArg (· ++ c.bytes) hs⟩)
    · rw [State.engineDeliver_puts copies ring ok clear ordered seen clean] at run
      exact one run ((held.cached (.of_cores (State.PrivateSide.undefinePages s).cores)).engineDeliver_puts qs c.bytes c.element.2.1)
  · intro slot wv kind read hw valid
    have run : exec (.tdescComplete core c.id) s = _ := execTdescComplete_valid found up whole kind read valid
    obtain ⟨w', hw'⟩ := s.retireCmd_wave core c hw
    refine ⟨_, _, run, ?_, w'.loadDesc_slot slot _, (s.retireCmd_lacks core c).of_cores (State.modWave_cores _ _ _ _)⟩
    rw [State.wave?_modWave_same, hw']
    rfl
  · intro copies written unparked back
    have run : exec (.copyComplete core c.id) s = _ := execCopyComplete_written found up copies written unparked back
    refine ⟨fun done => ?_, fun b bar unsent released => ?_⟩
    · rw [if_pos done] at run
      exact ⟨_, run, s.retireCmd_lacks core c⟩
    · rw [if_neg (by simp [bar, unsent]), released, bar] at run
      refine ⟨fun a n o ok => ?_, fun a n pa key ok clean => one run (held.engineArrive ok clean)⟩
      dsimp only [Option.getD] at run
      rw [State.engineArrive_stash ok] at run
      exact one run ((held.cached (.stashBarrier s c.team o _)).modCmd (fun _ => rfl) fun x _ => ⟨rfl, rfl⟩)
  · intro o tm ring ht ready more free
    have run : exec (.ringReserve core c.id) s = _ := execRingReserve_reserves found up whole ring ht ready more free
    refine one run ((held.cached (.modTeam ..)).modCmd (fun _ => rfl) fun x e => ⟨?_, by rw [e]⟩)
    rw [State.modCmd_teams, State.modTeam_get?_same, ht]
    rfl
  · intro o n tm ring next ht landed h1 h64 empty
    have run : exec (.ringFill core c.id) s = _ := execRingFill_fills found up ring next landed
    obtain ⟨tm', filled⟩ := s.fillEntry_entry core c ht h1 h64 empty
    exact one run ((held.fillEntry o n).imp fun x hx => ⟨hx, tm', filled⟩)

end Sys2Proof.Machine
end
